-- ==== Sys2Proof/Word.lean ====
section
/-!
DEFINITION. The word types of the VK8 and the sparse table used for its large register files.
Widths are those of the conventions in spec/00_scope.md (R22, R23, R26).
-/

namespace Sys2Proof

/-- One byte of memory (R23: byte-addressed). -/
abbrev W8 := BitVec 8
/-- A half word. -/
abbrev W16 := BitVec 16
/-- A 32-bit word: FP32 values, step numbers, micro-batch ids, Edition numbers (R22). -/
abbrev W32 := BitVec 32
/-- A Flume sequence number (R22) or a package address (R23). -/
abbrev W48 := BitVec 48
/-- A configuration register (R26) or an instruction word (R187). -/
abbrev W64 := BitVec 64
/-- A serial number, JOB_ID, challenge or BOOT_ID. -/
abbrev W128 := BitVec 128
/-- A SHA-256 value. -/
abbrev W256 := BitVec 256

/-- A sparse table: entries by rising key; a key that is not listed stands for the table's default. -/
abbrev Tbl (α : Type) := List (Nat × α)

namespace Tbl

/-- The entry at a key, if it is listed. -/
def find? {α : Type} : Tbl α → Nat → Option α
  | [], _ => none
  | (k, v) :: t, i => if k = i then some v else find? t i

/-- The entry at a key, or the default. -/
def getD {α : Type} (t : Tbl α) (i : Nat) (d : α) : α := (find? t i).getD d

/-- Sets the entry at a key. -/
def set {α : Type} : Tbl α → Nat → α → Tbl α
  | [], i, v => [(i, v)]
  | (k, w) :: t, i, v =>
    if i < k then (i, v) :: (k, w) :: t
    else if i = k then (i, v) :: t
    else (k, w) :: set t i v

/-- Removes the entry at a key. -/
def erase {α : Type} (t : Tbl α) (i : Nat) : Tbl α := t.filter (fun p => !(p.1 == i))

/-- Applies a function to the entry at a key, taking the default where none is listed. -/
def upd {α : Type} (t : Tbl α) (i : Nat) (d : α) (f : α → α) : Tbl α := t.set i (f (t.getD i d))

/-- Applies a function to every listed entry. -/
def mapV {α β : Type} (t : Tbl α) (f : Nat → α → β) : Tbl β := t.map (fun p => (p.1, f p.1 p.2))

end Tbl

end Sys2Proof
end

