-- ==== Sys2Proof/Syntax.lean ====
section
/-!
DEFINITION. The commands of the VK8: one constructor for each row of spec/opcode_table.json.
Instructions of a Quern or of a stage sequencer carry the fields of their 64-bit word (R188) below the opcode, which is the
constructor itself.  Frames, requests, pins and timers carry the fields that the spec gives them.  The outcome of a
cryptographic or CRC check is an operand (assumption 3).
-/

namespace Sys2Proof

/-- An instruction word below its opcode and stream code, with its extension word (R187, R188). -/
structure Issue where
  wtok : BitVec 5
  wen : Bool
  stok : BitVec 5
  sen : Bool
  ops : BitVec 43
  ext : Option W64
  deriving DecidableEq, Repr

/-- The operations of the opcode map (R191). -/
inductive Opcode where
  | mcfg | mload | mpass | mdrain | mclr
  | vadd | vmul | vfma | vmax | vmin | vsel | vcvt | vexp | vlog | vrcp | vrsq | vrowstat | vrng | vsrnd | vnorm2 | vupd
  | vsetvl | vmode
  | xmove | xfetch | xpref | xdrop | xfence
  | cwait | csig | cloop | cend | cphase | cbar | chalt
  | hpop | dispatch | hpush | hrcpt | edopen | edpend | edcommit | edretire | bscale | bred | steptoken
  deriving DecidableEq, Repr

/-- An instruction of a sequence: its opcode and the rest of its words (R187, R188). -/
structure SeqInstr where
  op : Opcode
  issue : Issue
  deriving DecidableEq, Repr

/-- The extension classes of R189; `srNeeds` is optional, and required when RMODE is SR. -/
inductive ExtClass where
  | never | required | optional | srNeeds
  deriving DecidableEq, Repr

/-- The four streams of a Quern (R163). -/
inductive StreamId where
  | m | v | x | c
  deriving DecidableEq, Repr

/-- Who issues a C-class instruction: a stream of a Quern, or a stage sequencer (R181). -/
inductive Sequencer where
  | quern (q : Fin 128) (st : StreamId)
  | stage (c : Fin 32)
  deriving DecidableEq, Repr

/-- What carries a Flume frame: a Race, a session of a host port, or the fabric for a LOCAL Flume. -/
inductive Carrier where
  | race (r : Fin 32)
  | host (p : Fin 2) (session : Fin 64)
  | fabric
  deriving DecidableEq, Repr

/-- A source address and UDP port. -/
structure NetAddr where
  addr : W128
  port : W16
  deriving DecidableEq, Repr

/-- Where a received Ethernet frame is addressed: to one IP address, or to the multicast group of an index of the Miller's group table (R372). -/
inductive NetDest where
  | own (addr : W128)
  | group (index : W16)
  deriving DecidableEq, Repr

/-- The Ethernet, IP and UDP form of a packet that a host port or the management port receives (R358, R359, R361, R363, R366, R484): its IEEE 802.1Q tags, whether it is a
fragment, whether the UDP checksum and the CRC-32C of an unsealed packet hold, and whether an ECN router has marked it. -/
structure Datagram where
  src : NetAddr := ⟨0, 0⟩
  dst : NetDest := .own 0
  dstPort : W16 := 47210
  tags : List (BitVec 12) := []
  fragment : Bool := false
  sumOk : Bool := true
  crcOk : Bool := true
  frameLen : Nat := 0
  udpLen : Nat := 0
  marked : Bool := false
  deriving DecidableEq, Repr

/-- The clear header of a Krovax frame or Gwyn packet (R337, R360) with DST_FLUME of the sealed header (R338).
`typeOk`: the pairing of TYPE with CLASS is valid; `tagOk`: the GCM tag verifies (R340 steps 1 and 3); `net` is how a packet came, and means
nothing for a frame. -/
structure FrameHdr where
  via : Carrier
  ver : BitVec 4
  typeOk : Bool
  member : BitVec 12
  inc : W8
  flume : BitVec 10
  cls : BitVec 2
  ctr : W64
  seqNo : W48
  ackNo : W48
  slotLimit : W16
  window : W16
  tagOk : Bool
  dst : BitVec 10
  net : Datagram := {}
  deriving DecidableEq, Repr

/-- The identifiers of a reduction chunk frame (R310, R312, R338). -/
structure RedId where
  round : W8
  sched : BitVec 2
  phase : BitVec 2
  btag : BitVec 12
  step : W32
  blk : BitVec 3
  chunk : BitVec 21
  hop : BitVec 13
  deriving DecidableEq, Repr

/-- The HELLO payload (R332), with the version of the clear header and the CRC check. -/
structure HelloMsg where
  kverMajor : W8
  admitted : Bool
  pair : Bool
  half : Bool
  lanes : BitVec 9
  slots : W16
  serial : W128
  chal : W128
  jobId : W128
  crcOk : Bool
  deriving DecidableEq, Repr

/-- What an ATTEST body comes to (R334): its fields, the hash of its certificate's key, and the outcomes of its certificate, signature and
proof checks. -/
structure AttestBody where
  jobId : W128
  member : BitVec 12
  inc : W8
  chalOwn : W128
  chalPeer : W128
  digest : W256
  keyHash : W256
  certOk : Bool
  sigOk : Bool
  proofOk : Bool
  deriving DecidableEq, Repr

/-- An ATTEST frame: PART 0 or PART 1 of a body, the body being the one that both parts make, or PART 2 with a RESULT (R334, R338). -/
inductive AttestMsg where
  | part (second : Bool) (body : AttestBody) (crcOk : Bool)
  | result (code : W8) (crcOk : Bool)
  deriving DecidableEq, Repr

/-- What happens in training (R329, R352): signal is detected, or training ends with the lanes that trained and whether the medium carries
lane 8. -/
inductive TrainEvent where
  | signal
  | trained (good : BitVec 9) (sparePresent : Bool)
  deriving DecidableEq, Repr

/-- A job request: its packet and its REQID (R360, R361, R369). -/
structure JobHdr where
  hdr : FrameHdr
  reqid : W32
  deriving DecidableEq, Repr

/-- The port and the session that a request came on. -/
def JobHdr.port (j : JobHdr) : Fin 2 := match j.hdr.via with | .host p _ => p | _ => 0
def JobHdr.session (j : JobHdr) : Fin 64 := match j.hdr.via with | .host _ n => n | _ => 0

/-- One shard of a LOAD's shard list (R277, R281). -/
structure ShardSpec where
  shard : BitVec 13
  span : Nat
  static : Bool
  winPage : Nat
  deriving DecidableEq, Repr

/-- HOP_CFG and HOP_NEXT of one Hopper as a LOAD gives them (R249, R274). -/
structure HopSpec where
  cap : Nat
  ordered : Bool
  mbPerStep : Nat
  retPages : Nat
  outPages : Nat
  nextStep : W32
  nextOrd : Nat
  deriving DecidableEq, Repr

/-- The operands of LOAD and RELOAD (R249, R279, R296, R369, R400). `quotaAfter` is the quota after takeover. -/
structure LoadMsg where
  ctx : Fin 32
  program : List W64
  groups : List (List Nat)
  shards : List ShardSpec
  peers : List (Nat × Nat)
  wgo : List (Nat × Nat)
  fwd : HopSpec
  bwd : HopSpec
  tagBase : Nat
  tagCount : Nat
  quota : Nat
  quotaAfter : Nat
  alloc : Nat
  firstStep : W32
  deriving DecidableEq, Repr

/-- A LOAD, or one of the consecutive parts of a LOAD that is larger than one payload: the offset and length of its bytes in the operands, and
with the final part the operands that all the parts make (R369). -/
structure LoadPart where
  offset : Nat
  len : Nat
  final : Option LoadMsg
  deriving DecidableEq, Repr

/-- The header of a Miller protocol request (R487): `net` is how its packet came; `keys` says that public keys follow; `ownerHash` and
`operatorHash` are the SHA-256 of the carried keys, and the two `SigOk` say whether each signature verifies under the key it is checked with.
`formOk`: VERSION, FLAGS, STATUS and the lengths are as R487 gives them. -/
structure MilHdr where
  net : Datagram
  signer : BitVec 2
  bootId : W128
  reqSeq : W64
  keys : Bool
  ownerHash : W256
  operatorHash : W256
  ownerSigOk : Bool
  operatorSigOk : Bool
  formOk : Bool := true
  deriving DecidableEq, Repr

/-- Where a request comes from. -/
def MilHdr.src (m : MilHdr) : NetAddr := m.net.src

/-- What a re-calibration measures (R478, R480): per Stone and row the step times, their coefficients, the delay-line settings and the guard
margins; per Stone c_max; and the largest rise of t_s at 0.75 V and 70 °C in units of 0.1 %. -/
structure CalSet where
  ts : List (List Nat)
  k : List (List Nat)
  delay : List (List Nat)
  guard : List (List Nat)
  cMax : List Nat
  deltaPermil : Int
  deriving DecidableEq, Repr

/-- A member table entry (R440). -/
structure Member where
  member : BitVec 12
  host : Bool
  inc : W8
  twin : W16
  keyHash : W256
  deriving DecidableEq, Repr

/-- The admission bundle (R439). `kcvOk`: WRAPPED unwraps and KCV verifies (R441 step 4). -/
structure Bundle where
  jobId : W128
  seed : W64
  self : BitVec 12
  members : List Member
  reservedZero : Bool
  kcvOk : Bool
  deriving DecidableEq, Repr

/-- A guest window record (R455). -/
structure GWin where
  en : Bool
  w : Bool
  rd : Bool
  dir : Bool
  base : W48
  sizeMib : BitVec 24
  deriving DecidableEq, Repr

/-- The fields of the Frisket record (R448). -/
structure FrisketRec where
  seq : W32
  ownerHash : W256
  operatorHash : W256
  dbg : BitVec 2
  jobView : BitVec 3
  keypol : BitVec 3
  ndigest : BitVec 4
  fwFloor : W32
  gflumeBase : BitVec 10
  gflumeCount : BitVec 11
  gwin : List GWin
  digests : List W256
  deriving DecidableEq, Repr

/-- The four kinds of firmware image (R452). -/
inductive FwKind where
  | miller | spur | quern | serdes
  deriving DecidableEq, Repr

/-- A firmware image: its kind, SECVER, SHA-256, and whether its signature verifies. -/
structure FwImage where
  kind : FwKind
  secver : W32
  hash : W256
  sigOk : Bool
  deriving DecidableEq, Repr

/-- Whose bond to the Spur (R32, R531). -/
inductive BondSite where
  | stone (n : Fin 4)
  | bin (b : Fin 4)
  | guest
  deriving DecidableEq, Repr

/-- A bond (R32, R470). -/
structure BondLoc where
  site : BondSite
  group : Nat
  bond : Nat
  deriving DecidableEq, Repr

/-- Where a DRAM row lies (R220, R470 KIND 0x08). -/
structure RowLoc where
  bin : Fin 4
  die : Fin 16
  channel : Fin 32
  bank : Fin 16
  row : BitVec 13
  deriving DecidableEq, Repr

/-- The party whose read met an uncorrectable granule (R239). -/
inductive Reader where
  | move (q : Fin 128)
  | flume (f : Fin 1024)
  | reduction (c : Fin 32)
  | prefetch (c : Fin 32)
  | miller
  deriving DecidableEq, Repr

/-- What an error in the Bins or in the Imposition table is: an uncorrectable granule of a page, a corrected one, an uncorrectable entry in one
copy of the table (the second one or the first), or in both (R225, R238, R240). -/
inductive Found where
  | granule (g : BitVec 14)
  | corrected (g : BitVec 14)
  | entry (second : Bool)
  | entryBoth
  deriving DecidableEq, Repr

/-- What the Store finds in a granule of a line: an error that its code corrects, or an uncorrectable one in a clean or a dirty line (R238,
R244). -/
inductive StoreError where
  | corrected | clean | dirty
  deriving DecidableEq, Repr

/-- What the Galley finds in the lines of an arriving frame: nothing, an error that SECDED corrects, or an uncorrectable line (R316). -/
inductive LineError where
  | none | corrected | lost
  deriving DecidableEq, Repr

/-- A fault of a Quern: a corrected error of its storage, or an uncorrectable one, after which a spare passes its test or fails it (R237,
R392). -/
inductive QuernOutcome where
  | corrected | spareOk | spareFails
  deriving DecidableEq, Repr

/-- The parts of a PMBus or AVSBus failure (R519). -/
inductive BusFailure where
  | telemetry (rail : Nat)
  | setpoint (stone : Fin 4) (railOk : Bool)
  | restored (rail : Nat)
  deriving DecidableEq, Repr

/-- The header of a TWIN frame (R402): the pair Race, JSN, whether the record is malformed (R402) and the Krovax header. -/
structure TwinHdr where
  hdr : FrameHdr
  jsn : W48
  reservedSet : Bool
  deriving DecidableEq, Repr

/-- The 64-byte entry of JENTRY as its fields (R252). -/
structure EntryImg where
  state : BitVec 3
  dir : Bool
  rcpt : Bool
  pushed : Bool
  flume : BitVec 10
  seq : W48
  step : W32
  mbid : W32
  edition : W32
  len : W32
  outFlume : BitVec 10
  outSeq : W48
  inHead : BitVec 19
  inPages : BitVec 13
  outHead : BitVec 19
  outPages : BitVec 13
  accNo : W16
  abandoned : Bool
  grantNo : W32
  deriving DecidableEq, Repr

/-- One record of a JIMP frame: virtual page and Imposition entry (R402, R221). -/
structure ImpRec where
  vpage : BitVec 19
  entry : W64
  deriving DecidableEq, Repr

/-- One 8-byte record of a JSTEP frame (R402). -/
structure StepRec where
  btag : BitVec 12
  completed : Bool
  step : W32
  deriving DecidableEq, Repr

/-- The modes of the boot flash, the slowest first (R523). -/
inductive FlashMode where
  | single | quad | octalDtr
  deriving DecidableEq, Repr

/-- The result of one Stone's start test (R467): whether the rail came up, which physical Querns pass, the bond groups found bad. -/
structure StoneTest where
  railUp : Bool
  pass : List Bool
  badGroups : List Nat
  deriving DecidableEq, Repr

/-- What the steps of a Stone restart yield (R388, R391). -/
structure RestartOutcome where
  railUp : Bool
  pass : List Bool
  loadOk : Bool
  deriving DecidableEq, Repr

/-- The package's commands. -/
inductive Instr where
  -- M stream (R195)
  | mcfg (q : Fin 128) (i : Issue)
  | mload (q : Fin 128) (i : Issue)
  | mpass (q : Fin 128) (i : Issue)
  | mdrain (q : Fin 128) (i : Issue)
  | mdrainWriteOut (q : Fin 128)
  | mclr (q : Fin 128) (i : Issue)
  -- V stream (R198 to R204)
  | vadd (q : Fin 128) (i : Issue)
  | vmul (q : Fin 128) (i : Issue)
  | vfma (q : Fin 128) (i : Issue)
  | vmax (q : Fin 128) (i : Issue)
  | vmin (q : Fin 128) (i : Issue)
  | vsel (q : Fin 128) (i : Issue)
  | vcvt (q : Fin 128) (i : Issue)
  | vexp (q : Fin 128) (i : Issue)
  | vlog (q : Fin 128) (i : Issue)
  | vrcp (q : Fin 128) (i : Issue)
  | vrsq (q : Fin 128) (i : Issue)
  | vrowstat (q : Fin 128) (i : Issue)
  | vrng (q : Fin 128) (i : Issue)
  | vsrnd (q : Fin 128) (i : Issue)
  | vnorm2 (q : Fin 128) (i : Issue)
  | vupd (q : Fin 128) (i : Issue)
  | vsetvl (q : Fin 128) (i : Issue)
  | vmode (q : Fin 128) (i : Issue)
  -- X stream (R205, R206)
  | xmove (q : Fin 128) (i : Issue)
  | xfetch (q : Fin 128) (i : Issue)
  | xpref (q : Fin 128) (i : Issue)
  | xdrop (q : Fin 128) (i : Issue)
  | xfence (q : Fin 128) (i : Issue)
  | moveComplete (q : Fin 128) (tag : Nat)
  | prefetchComplete (c : Fin 32) (slot : Fin 8)
  -- C stream and stage programs (R207)
  | cwait (u : Sequencer) (i : Issue)
  | csig (u : Sequencer) (i : Issue)
  | cloop (u : Sequencer) (i : Issue)
  | cend (u : Sequencer) (i : Issue)
  | cphase (q : Fin 128) (i : Issue)
  | cbar (q : Fin 128) (i : Issue)
  | barrierRelease (c : Fin 32) (disp : Nat)
  | chalt (q : Fin 128) (i : Issue)
  | stageProgramChalt (c : Fin 32) (i : Issue)
  | programComplete (q : Fin 128)
  | tokenDeadlock (c : Fin 32) (disp : Nat)
  | imageLoad (q : Fin 128)
  | programStart (q : Fin 128)
  | mergedCompletion (c : Fin 32) (disp : Nat)
  -- stage-program instructions (R209)
  | hpop (c : Fin 32) (i : Issue)
  | dispatch (c : Fin 32) (i : Issue)
  | hpush (c : Fin 32) (i : Issue)
  | hrcpt (c : Fin 32) (i : Issue)
  | edopen (c : Fin 32) (i : Issue)
  | edpend (c : Fin 32) (i : Issue)
  | edcommit (c : Fin 32) (i : Issue)
  | edretire (c : Fin 32) (i : Issue)
  | bscale (c : Fin 32) (i : Issue)
  | bred (c : Fin 32) (i : Issue)
  | steptoken (c : Fin 32) (i : Issue)
  -- Flumes (R261 to R272, R290, R291, R393)
  | grantIssue (f : Fin 1024)
  | acceptance (f : Fin 1024)
  | mbhdr (h : FrameHdr) (seq : W48) (step grantNo mbid edition len : W32)
  | data (h : FrameHdr) (seq : W48) (last : Bool) (seg : BitVec 18) (bytes : List W8)
  | grant (h : FrameHdr) (grantNo : W32)
  | receipt (h : FrameHdr) (seq : W48) (step : W32) (what : BitVec 2)
  | recallMb (h : FrameHdr) (seq : W48) (step : W32)
  | openFlume (h : FrameHdr) (dir : Bool) (len4k : W16)
  | openack (h : FrameHdr) (dir : Bool) (len4k : W16) (result : BitVec 4)
  | close (h : FrameHdr) (forced : Bool) (lastIssued firstUnused : W32)
  | token (h : FrameHdr) (step : W32)
  | notice (h : FrameHdr) (step : W32)
  | flumeBreak (f : Fin 1024)
  | pathFail (f : Fin 1024)
  -- reductions (R310 to R321)
  | red (h : FrameHdr) (id : RedId) (blockHdr : W64) (p : BitVec 12) (nb : BitVec 24) (lines : List W64) (err : LineError)
  | redack (h : FrameHdr) (id : RedId) (credit : Bool) (formes : BitVec 5)
  | roundComplete (c : Fin 32) (btag : BitVec 12)
  | bucketComplete (c : Fin 32) (btag : BitVec 12)
  | galleyStall (c : Fin 32) (btag : BitVec 12)
  | formeDisable (forme : Fin 16)
  | drainComplete (c : Fin 32)
  -- Races (R329 to R352)
  | raceTraining (r : Fin 32) (e : TrainEvent)
  | trainingTimeout (r : Fin 32)
  | qualification (r : Fin 32) (errors : List Nat)
  | helloSend (r : Fin 32)
  | hello (r : Fin 32) (m : HelloMsg)
  | attest (r : Fin 32) (a : AttestMsg)
  | attestRetry (r : Fin 32)
  | failedRetry (r : Fin 32)
  | linkAck (r : Fin 32) (h : FrameHdr)
  | linkAckTimer (r : Fin 32)
  | linkNack (r : Fin 32) (h : FrameHdr) (base : W48) (missing : W64)
  | linkResume (r : Fin 32) (h : FrameHdr)
  | linkWithdraw (r : Fin 32) (h : FrameHdr)
  | retransmissionTimeout (r : Fin 32)
  | frameTransmit (r : Fin 32)
  | laneFailure (r : Fin 32) (lane : Fin 9)
  | retrainRecovery (r : Fin 32) (good : BitVec 9) (errors : List Nat)
  -- host ports (R357 to R368)
  | discover (p : Fin 2) (d : Datagram)
  | sopenFirstForm (p : Fin 2) (d : Datagram)
  | sopenSecondForm (p : Fin 2) (h : FrameHdr) (cookie : W128) (jobId : W128) (segsize : Bool) (window : W16) (replaces : W16)
  | cookieEpoch
  | ack (h : FrameHdr) (ceCount : W32)
  | nack (h : FrameHdr) (base : W48) (missing : W64)
  | sessionAckTimer (p : Fin 2) (session : Fin 64)
  | sessionRetransmissionTimeout (p : Fin 2) (session : Fin 64)
  | sclose (h : FrameHdr)
  | hostPortLinkLoss (p : Fin 2)
  -- job control (R369 to R371)
  | load (j : JobHdr) (part : LoadPart)
  | unload (j : JobHdr) (c : Fin 32)
  | reload (j : JobHdr) (msg : LoadMsg)
  | map (j : JobHdr) (first count : Nat) (owner : Fin 32) (shared wp : Bool) (bin : Fin 4)
  | unmap (j : JobHdr) (first count : Nat)
  | put (j : JobHdr) (addr : W48) (bytes : List W8)
  | jobRegread (j : JobHdr) (off : W48)
  | jobRegwrite (j : JobHdr) (off : W48) (value : W64)
  | fopen (j : JobHdr) (f : Fin 1024)
  | fclose (j : JobHdr) (f : Fin 1024) (forced : Bool)
  | rewind (j : JobHdr) (c : Fin 32) (step : W32) (fwd bwd : Bool)
  | abandon (j : JobHdr) (c : Fin 32)
  | rollback (j : JobHdr) (c : Fin 32) (step : W32)
  | jobSubscribe (j : JobHdr) (on : Bool)
  | fwdata (p : Fin 2) (d : Datagram) (imageId block blocks : W32) (blockOk busy : Bool) (bytes : List W8) (img : FwImage)
  | fwstatus (p : Fin 2) (d : Datagram) (imageId : W32)
  | firmwareStagingIdle
  -- Miller (R487 to R504)
  | millerHello (m : MilHdr)
  | colophon (m : MilHdr) (nonce : W128)
  | regread (m : MilHdr) (off : W48) (count : Nat)
  | regwrite (m : MilHdr) (off : W48) (value mask : W64)
  | evread (m : MilHdr) (flash : Bool) (first : W32)
  | subscribe (m : MilHdr) (minSeverity : W8) (periodMs : W32) (offsets : List W48)
  | defread (m : MilHdr) (first : W32)
  | admission (m : MilHdr) (b : Bundle)
  | endJob (m : MilHdr)
  | quiesce (m : MilHdr) (mask : W32)
  | resume (m : MilHdr) (mask : W32)
  | stonereset (m : MilHdr) (stone : Fin 4)
  | frisket (m : MilHdr) (rec : FrisketRec) (reservedZero : Bool)
  | recal (m : MilHdr) (serial : W128)
  | recalDone (phase : Fin 6) (pass : Bool) (cal : CalSet)
  | recalabort (m : MilHdr)
  | fwstage (m : MilHdr) (img : FwImage)
  | fwactivate (m : MilHdr) (kind : FwKind)
  | restart (m : MilHdr)
  | assemblyTimeout (k : Fin 4)
  | continuationPart (net : Datagram) (op : W16) (reqSeq : W64) (split : Bool) (total offset : Nat) (len : Nat) (hashOk : Bool)
  | telemetryPush (k : Fin 4)
  | subscriptionLapse (k : Fin 4)
  | energyEvent
  | capWWrite (m : MilHdr) (value mask : W64)
  | paceEnWrite (m : MilHdr) (on : Bool)
  | estClear (m : MilHdr)
  | retrain (m : MilHdr) (port : Fin 16)
  | takeover (m : MilHdr)
  | leave (m : MilHdr)
  | edLscaleWrite (c : Fin 32) (value mask : W64)
  | rcRegisterRead (off : W48)
  | registerWrite (off : W48) (value mask : W64) (fromMiller : Bool)
  -- power and heat (R412 to R429)
  | controllerPeriod (fixedW : Nat) (stoneW : List Nat)
  | throttleEstimate (estW : List Nat)
  | regulatorReading (avg2msW : Nat)
  | estimatorFault (estW measW : Nat)
  | temperatureSample (stones : List Int) (spur : Int) (bins : List Int)
  | delaySettingChange (n : Fin 4) (row : Fin 15)
  | ageingSample (n : Fin 4) (row : Fin 15) (marginLow : Bool) (tsRefNew : W16)
  -- faults (R387 to R396)
  | stoneProbe (n : Fin 4) (answered : Bool)
  | stoneRecovery (n : Fin 4) (o : RestartOutcome)
  | quernFault (q : Fin 128) (o : QuernOutcome)
  | uncorrectableError (page : BitVec 19) (found : Found) (reader : Reader)
  | pageMigration (page : BitVec 19) (chunks : BitVec 9) (unreadable : List (BitVec 14))
  | rowRemap (row : RowLoc) (uncorrectable : Option (BitVec 14))
  | storeUncorrectable (page : BitVec 19) (granule : BitVec 14) (way : Fin 16) (line : StoreError) (reader : Reader)
  | patrolRead (frame : BitVec 19) (corrected : List (BitVec 14)) (uncorrectable : Option (BitVec 14))
  | bondFailure (l : BondLoc)
  | referenceClockLoss (refclk : Fin 4)
  | referenceClockResume (within60s : Bool) (binLapse : Bool)
  | millerWatchdogReset (within60s : Bool)
  -- board and pins (R513 to R529)
  | brownOut (n : Fin 4)
  | thermtrip
  | railMonitorTrip (rail : Nat)
  | pmbusFailure (b : BusFailure)
  | alert (status : List (Nat × W16))
  | xinLoss
  | xinResume
  | boundaryScan (clamp : Bool)
  | testLogicReset
  | debugInstruction (ir : W16)
  -- bring-up (R459 to R477)
  | pwrgoodAssert
  | pwrgoodDeassert
  | millerBoot (valid : List (FwKind × Bool × Bool)) (calCrcOk calSerialOk : Bool) (modes : List FlashMode) (badRecords : List Nat)
  | spurSelfTest (refPresent fatal : Bool) (badWays : List (Nat × Nat)) (badFormes : List Nat) (badRacePorts : List Nat)
      (badHostPorts : List Nat)
  | binTest (b : Fin 4) (badRows : List RowLoc) (badGroups : List Nat)
  | stoneStartTest (n : Fin 4) (t : StoneTest)
  | firmwareBroadcast
  | broadcastRepair (incomplete : List (Fin 4 × Fin 34))
  | linkQualification (bad : List BondLoc)
  | ready (ms : BitVec 12)
  | scrub (badFrames : List (BitVec 19)) (badQuerns : List (Fin 4 × Fin 34)) (badWays : List (Nat × Nat)) (badFormes : List Nat)
      (durationUs : W32)
  | guestScrubConfirm (confirmed : Bool)
  | guestAccess (write : Bool) (addr : W48) (bytes : List W8)
  -- pair mode (R401 to R410)
  | jwrite (t : TwinHdr) (vpage : BitVec 19) (unit : BitVec 9) (bytes : List W8)
  | jimp (t : TwinHdr) (recs : List ImpRec)
  | jentry (t : TwinHdr) (ctx : Fin 32) (bwd : Bool) (e : EntryImg) (nextGrant : W32)
  | jpush (t : TwinHdr) (flume : BitVec 10) (seq : W48) (outFlume : BitVec 10) (outSeq : W48)
  | jflume (t : TwinHdr) (flume : BitVec 10) (seq : W48) (issued used : W32) (state : W8)
  | jed (t : TwinHdr) (shard : BitVec 13) (state : BitVec 3) (number : W32) (refcount : W16) (head : BitVec 19) (pages : BitVec 20)
      (settled : W32)
  | jstep (t : TwinHdr) (ctx : Fin 32) (step : W32) (lscale : W64) (final nonfinite closed : Bool) (rstep : W32) (recs : List StepRec)
  | jpeer (t : TwinHdr) (ctx : Fin 32) (peer : Fin 32) (lastToken lastNotice : W32)
  | jack (t : TwinHdr) (ackJsn : W48)
  | twinLeave (t : TwinHdr) (reason : W8)
  | assume (t : TwinHdr) (member : BitVec 12) (incNew : W8)
  | rfetch (t : TwinHdr) (vpage : BitVec 19) (unit : BitVec 9) (mirror : Bool)
  | rdata (t : TwinHdr) (vpage : BitVec 19) (unit : BitVec 9) (mirror bad : Bool) (bytes : List W8)
  | pairHoldTimeout
  -- links and networks
  | hostPortLinkUp (p : Fin 2) (rate : BitVec 2)
  | managementLinkLoss (up : Bool)
  | ptpMessage (domain : W8) (timeNs : W64) (lock : Bool)
  | neighbourSolicitation (port : Fin 3) (target : W128) (v4 : Bool) (tags : List (BitVec 12))
  | neighbourResolution (port : Fin 3) (addr : W128) (mac : W48)
  | vstbyLoss
  | thermtripRelease
  | fwrepair (p : Fin 2)
  | journalAckTimer
  deriving DecidableEq, Repr

end Sys2Proof
end

