-- ==== Sys2Proof/WellFormed.lean ====
section
/-!
DEFINITION. Which commands are well formed: the extension class of an instruction (R189, R191) and where it may stand, and the
lengths that a frame or request can carry.  A command that is not well formed cannot reach the package; its meaning leaves the
state as it is (assumption 12).
-/

namespace Sys2Proof

/-- The extension class of an operation, in a Quern sequence or in a stage program (R191). -/
def Opcode.extClass (stage : Bool) : Opcode → ExtClass
  | .mload => .optional | .mpass => .optional | .mdrain => .srNeeds
  | .vadd => .optional | .vmul => .optional | .vmax => .optional | .vmin => .optional
  | .vfma => .required | .vsel => .required | .vcvt => .srNeeds
  | .vexp => .optional | .vlog => .optional | .vrcp => .optional | .vrsq => .optional
  | .vrowstat => .required | .vrng => .required | .vsrnd => .required | .vnorm2 => .optional | .vupd => .required
  | .cloop => if stage then .never else .required
  | .dispatch => .required | .edopen => .required | .bscale => .required | .bred => .required
  | .mcfg => .never | .mclr => .never | .vsetvl => .never | .vmode => .never
  | .xmove => .never | .xfetch => .never | .xpref => .never | .xdrop => .never | .xfence => .never
  | .cwait => .never | .csig => .never | .cend => .never | .cphase => .never | .cbar => .never | .chalt => .never
  | .hpop => .never | .hpush => .never | .hrcpt => .never | .edpend => .never | .edcommit => .never | .edretire => .never
  | .steptoken => .never

/-- The sequences of a Quern in which an operation may stand (R163, R191). -/
def Opcode.inStream (st : StreamId) : Opcode → Bool
  | .mcfg => st == .m | .mload => st == .m | .mpass => st == .m | .mdrain => st == .m | .mclr => st == .m
  | .vadd => st == .v | .vmul => st == .v | .vfma => st == .v | .vmax => st == .v | .vmin => st == .v | .vsel => st == .v
  | .vcvt => st == .v | .vexp => st == .v | .vlog => st == .v | .vrcp => st == .v | .vrsq => st == .v | .vrowstat => st == .v
  | .vrng => st == .v | .vsrnd => st == .v | .vnorm2 => st == .v | .vupd => st == .v | .vsetvl => st == .v | .vmode => st == .v
  | .xmove => st == .x | .xfetch => st == .x | .xpref => st == .x | .xdrop => st == .x | .xfence => st == .x
  | .cwait => st == .c | .csig => st == .c | .cphase => st == .c | .cbar => st == .c | .chalt => st == .c
  | .cloop => true | .cend => true
  | .hpop => false | .dispatch => false | .hpush => false | .hrcpt => false | .edopen => false | .edpend => false
  | .edcommit => false | .edretire => false | .bscale => false | .bred => false | .steptoken => false

/-- Whether an operation may stand in a stage program (R191). -/
def Opcode.inStage : Opcode → Bool
  | .cwait => true | .csig => true | .cloop => true | .cend => true | .chalt => true
  | .hpop => true | .dispatch => true | .hpush => true | .hrcpt => true | .edopen => true | .edpend => true
  | .edcommit => true | .edretire => true | .bscale => true | .bred => true | .steptoken => true
  | .mcfg => false | .mload => false | .mpass => false | .mdrain => false | .mclr => false
  | .vadd => false | .vmul => false | .vfma => false | .vmax => false | .vmin => false | .vsel => false
  | .vcvt => false | .vexp => false | .vlog => false | .vrcp => false | .vrsq => false | .vrowstat => false
  | .vrng => false | .vsrnd => false | .vnorm2 => false | .vupd => false | .vsetvl => false | .vmode => false
  | .xmove => false | .xfetch => false | .xpref => false | .xdrop => false | .xfence => false
  | .cphase => false | .cbar => false

/-- The RMODE field of an operation that has one outside an extension word (R195, R199). -/
def Opcode.rmode (op : Opcode) (ops : BitVec 43) : BitVec 3 :=
  if op = .mdrain then ops.extractLsb' 7 3 else ops.extractLsb' 19 3

/-- Whether an instruction carries an extension word as its class asks (R189, R191). -/
def SeqInstr.extOk (stage : Bool) (x : SeqInstr) : Bool :=
  match x.op.extClass stage with
  | .never => x.issue.ext.isNone
  | .required => x.issue.ext.isSome
  | .optional => true
  | .srNeeds => x.issue.ext.isSome || x.op.rmode x.issue.ops != 5

/-- A Quern's instruction is well formed in a stream. -/
def wfQuern (op : Opcode) (st : StreamId) (i : Issue) : Bool := op.inStream st && SeqInstr.extOk false ⟨op, i⟩

/-- A stage program's instruction is well formed. -/
def wfStage (op : Opcode) (i : Issue) : Bool := op.inStage && SeqInstr.extOk true ⟨op, i⟩

/-- A C-class instruction is well formed at its sequencer. -/
def wfSeq (op : Opcode) (u : Sequencer) (i : Issue) : Bool :=
  match u with
  | .quern _ st => wfQuern op st i
  | .stage _ => wfStage op i

/-- Whether a command is well formed. -/
def Instr.wf : Instr → Bool
  | .mcfg _ i => wfQuern .mcfg .m i
  | .mload _ i => wfQuern .mload .m i
  | .mpass _ i => wfQuern .mpass .m i
  | .mdrain _ i => wfQuern .mdrain .m i
  | .mclr _ i => wfQuern .mclr .m i
  | .vadd _ i => wfQuern .vadd .v i
  | .vmul _ i => wfQuern .vmul .v i
  | .vfma _ i => wfQuern .vfma .v i
  | .vmax _ i => wfQuern .vmax .v i
  | .vmin _ i => wfQuern .vmin .v i
  | .vsel _ i => wfQuern .vsel .v i
  | .vcvt _ i => wfQuern .vcvt .v i
  | .vexp _ i => wfQuern .vexp .v i
  | .vlog _ i => wfQuern .vlog .v i
  | .vrcp _ i => wfQuern .vrcp .v i
  | .vrsq _ i => wfQuern .vrsq .v i
  | .vrowstat _ i => wfQuern .vrowstat .v i
  | .vrng _ i => wfQuern .vrng .v i
  | .vsrnd _ i => wfQuern .vsrnd .v i
  | .vnorm2 _ i => wfQuern .vnorm2 .v i
  | .vupd _ i => wfQuern .vupd .v i
  | .vsetvl _ i => wfQuern .vsetvl .v i
  | .vmode _ i => wfQuern .vmode .v i
  | .xmove _ i => wfQuern .xmove .x i
  | .xfetch _ i => wfQuern .xfetch .x i
  | .xpref _ i => wfQuern .xpref .x i
  | .xdrop _ i => wfQuern .xdrop .x i
  | .xfence _ i => wfQuern .xfence .x i
  | .cwait u i => wfSeq .cwait u i
  | .csig u i => wfSeq .csig u i
  | .cloop u i => wfSeq .cloop u i
  | .cend u i => wfSeq .cend u i
  | .cphase _ i => wfQuern .cphase .c i
  | .cbar _ i => wfQuern .cbar .c i
  | .chalt _ i => wfQuern .chalt .c i
  | .stageProgramChalt _ i => wfStage .chalt i
  | .hpop _ i => wfStage .hpop i
  | .dispatch _ i => wfStage .dispatch i
  | .hpush _ i => wfStage .hpush i
  | .hrcpt _ i => wfStage .hrcpt i
  | .edopen _ i => wfStage .edopen i
  | .edpend _ i => wfStage .edpend i
  | .edcommit _ i => wfStage .edcommit i
  | .edretire _ i => wfStage .edretire i
  | .bscale _ i => wfStage .bscale i
  | .bred _ i => wfStage .bred i
  | .steptoken _ i => wfStage .steptoken i
  | .mbhdr _ _ _ _ _ _ _ => true
  | .data _ _ _ _ bytes => decide (bytes.length ≤ 8192)
  | .red _ _ _ _ _ lines _ => decide (lines.length ≤ 256)
  | .regread _ _ count => decide (1 ≤ count ∧ count ≤ 64)
  | .put _ _ bytes => decide (bytes.length ≤ 65536)
  | .fwdata _ _ _ _ _ _ _ bytes _ => decide (bytes.length = 8192)
  | .guestAccess w _ bytes => w || bytes.all (fun b => b == 0)
  | .jwrite _ _ _ bytes => decide (bytes.length = 2048)
  | .jimp _ recs => decide (recs.length ≤ 256)
  | .jstep _ _ _ _ _ _ _ _ recs => decide (recs.length ≤ 512)
  | .mdrainWriteOut _ | .moveComplete _ _ | .prefetchComplete _ _ | .barrierRelease _ _ | .programComplete _
  | .tokenDeadlock _ _ | .imageLoad _ | .programStart _ | .mergedCompletion _ _ | .grantIssue _ | .acceptance _ | .grant _ _
  | .receipt _ _ _ _ | .recallMb _ _ _ | .openFlume _ _ _ | .openack _ _ _ _ | .close _ _ _ _ | .token _ _ | .notice _ _
  | .flumeBreak _ | .pathFail _ | .redack _ _ _ _ | .roundComplete _ _ | .bucketComplete _ _ | .galleyStall _ _
  | .formeDisable _ | .drainComplete _ | .raceTraining _ _ | .trainingTimeout _ | .qualification _ _ | .helloSend _
  | .hello _ _ | .attest _ _ | .attestRetry _ | .failedRetry _ | .linkAck _ _ | .linkAckTimer _ | .linkNack _ _ _ _
  | .linkResume _ _ | .linkWithdraw _ _ | .retransmissionTimeout _ | .frameTransmit _ | .laneFailure _ _ | .retrainRecovery _ _ _
  | .discover _ _ | .sopenFirstForm _ _ | .sopenSecondForm _ _ _ _ _ _ _ | .cookieEpoch | .ack _ _ | .nack _ _ _
  | .sessionAckTimer _ _ | .sessionRetransmissionTimeout _ _ | .sclose _ | .hostPortLinkLoss _ | .load _ _ | .unload _ _
  | .reload _ _ | .map _ _ _ _ _ _ _ | .unmap _ _ _ | .jobRegread _ _ | .jobRegwrite _ _ _ | .fopen _ _ | .fclose _ _ _
  | .rewind _ _ _ _ _ | .abandon _ _ | .rollback _ _ _ | .jobSubscribe _ _ | .fwstatus _ _ _
  | .firmwareStagingIdle | .millerHello _ | .colophon _ _ | .regwrite _ _ _ _ | .evread _ _ _ | .subscribe _ _ _ _
  | .defread _ _ | .admission _ _ | .endJob _ | .quiesce _ _ | .resume _ _ | .stonereset _ _ | .frisket _ _ _ | .recal _ _
  | .recalDone _ _ _ | .recalabort _ | .fwstage _ _ | .fwactivate _ _ | .restart _ | .assemblyTimeout _
  | .continuationPart _ _ _ _ _ _ _ _ | .telemetryPush _ | .subscriptionLapse _ | .energyEvent | .capWWrite _ _ _
  | .paceEnWrite _ _ | .estClear _ | .retrain _ _ | .takeover _ | .leave _ | .edLscaleWrite _ _ _ | .rcRegisterRead _
  | .registerWrite _ _ _ _ | .controllerPeriod _ _ | .throttleEstimate _ | .regulatorReading _ | .estimatorFault _ _
  | .temperatureSample _ _ _ | .delaySettingChange _ _ | .ageingSample _ _ _ _ | .stoneProbe _ _ | .stoneRecovery _ _
  | .quernFault _ _ | .uncorrectableError _ _ _ | .pageMigration _ _ _ | .rowRemap _ _ | .storeUncorrectable _ _ _ _ _
  | .patrolRead _ _ _ | .bondFailure _ | .referenceClockLoss _ | .referenceClockResume _ _ | .millerWatchdogReset _
  | .brownOut _ | .thermtrip | .railMonitorTrip _ | .pmbusFailure _ | .alert _ | .xinLoss | .xinResume | .boundaryScan _
  | .testLogicReset | .debugInstruction _ | .pwrgoodAssert | .pwrgoodDeassert | .millerBoot _ _ _ _ _ | .spurSelfTest _ _ _ _ _ _
  | .binTest _ _ _ | .stoneStartTest _ _ | .firmwareBroadcast | .broadcastRepair _ | .linkQualification _ | .ready _
  | .scrub _ _ _ _ _ | .guestScrubConfirm _ | .jentry _ _ _ _ _ | .jpush _ _ _ _ _ | .jflume _ _ _ _ _ _ | .jed _ _ _ _ _ _ _ _
  | .jpeer _ _ _ _ _ | .jack _ _ | .twinLeave _ _ | .assume _ _ _ | .rfetch _ _ _ _ | .rdata _ _ _ _ _ _ | .pairHoldTimeout
  | .hostPortLinkUp _ _ | .managementLinkLoss _ | .ptpMessage _ _ _ | .neighbourSolicitation _ _ _ _ | .neighbourResolution _ _ _
  | .vstbyLoss | .thermtripRelease | .fwrepair _ | .journalAckTimer => true

end Sys2Proof
end

