-- ==== Sys2Proof/Decode.lean ====
section
/-!
DEFINITION. Words and instructions of Quern programs and stage programs (spec/07_instruction_encodings.md, R187 to R191), and
`decodeTableWord`.  The opcode table of the package gives no row any bits, so no word spells a command.
-/

namespace Sys2Proof

/-- The command that a table word spells: the table gives no row bits, so none. -/
def decodeTableWord (_nbits _w : Nat) : Option Instr := none

/-- The operation of a stream code and opcode (R191); none where the table lists none. -/
def opcodeOf (stream code : Nat) : Option Opcode :=
  match stream, code with
  | 0, 0x01 => some .mcfg | 0, 0x02 => some .mload | 0, 0x03 => some .mpass | 0, 0x04 => some .mdrain | 0, 0x05 => some .mclr
  | 1, 0x01 => some .vadd | 1, 0x02 => some .vmul | 1, 0x03 => some .vfma | 1, 0x04 => some .vmax | 1, 0x05 => some .vmin
  | 1, 0x06 => some .vsel | 1, 0x07 => some .vcvt | 1, 0x08 => some .vexp | 1, 0x09 => some .vlog | 1, 0x0A => some .vrcp
  | 1, 0x0B => some .vrsq | 1, 0x0C => some .vrowstat | 1, 0x0D => some .vrng | 1, 0x0E => some .vsrnd | 1, 0x0F => some .vnorm2
  | 1, 0x10 => some .vupd | 1, 0x11 => some .vsetvl | 1, 0x12 => some .vmode
  | 2, 0x01 => some .xmove | 2, 0x02 => some .xfetch | 2, 0x03 => some .xpref | 2, 0x04 => some .xdrop | 2, 0x05 => some .xfence
  | 3, 0x01 => some .cwait | 3, 0x02 => some .csig | 3, 0x03 => some .cloop | 3, 0x04 => some .cend | 3, 0x05 => some .cphase
  | 3, 0x06 => some .cbar | 3, 0x07 => some .chalt
  | 3, 0x20 => some .hpop | 3, 0x21 => some .dispatch | 3, 0x22 => some .hpush | 3, 0x23 => some .hrcpt | 3, 0x24 => some .edopen
  | 3, 0x25 => some .edpend | 3, 0x26 => some .edcommit | 3, 0x27 => some .edretire | 3, 0x28 => some .bscale
  | 3, 0x29 => some .bred | 3, 0x2A => some .steptoken
  | _, _ => none

/-- The stream code and opcode of an operation (R191). -/
def Opcode.code : Opcode → Nat × Nat
  | .mcfg => (0, 0x01) | .mload => (0, 0x02) | .mpass => (0, 0x03) | .mdrain => (0, 0x04) | .mclr => (0, 0x05)
  | .vadd => (1, 0x01) | .vmul => (1, 0x02) | .vfma => (1, 0x03) | .vmax => (1, 0x04) | .vmin => (1, 0x05)
  | .vsel => (1, 0x06) | .vcvt => (1, 0x07) | .vexp => (1, 0x08) | .vlog => (1, 0x09) | .vrcp => (1, 0x0A)
  | .vrsq => (1, 0x0B) | .vrowstat => (1, 0x0C) | .vrng => (1, 0x0D) | .vsrnd => (1, 0x0E) | .vnorm2 => (1, 0x0F)
  | .vupd => (1, 0x10) | .vsetvl => (1, 0x11) | .vmode => (1, 0x12)
  | .xmove => (2, 0x01) | .xfetch => (2, 0x02) | .xpref => (2, 0x03) | .xdrop => (2, 0x04) | .xfence => (2, 0x05)
  | .cwait => (3, 0x01) | .csig => (3, 0x02) | .cloop => (3, 0x03) | .cend => (3, 0x04) | .cphase => (3, 0x05)
  | .cbar => (3, 0x06) | .chalt => (3, 0x07)
  | .hpop => (3, 0x20) | .dispatch => (3, 0x21) | .hpush => (3, 0x22) | .hrcpt => (3, 0x23) | .edopen => (3, 0x24)
  | .edpend => (3, 0x25) | .edcommit => (3, 0x26) | .edretire => (3, 0x27) | .bscale => (3, 0x28)
  | .bred => (3, 0x29) | .steptoken => (3, 0x2A)

/-- The instruction word (R188). -/
def encodeWord (x : SeqInstr) : W64 :=
  BitVec.ofNat 6 x.op.code.2 ++ BitVec.ofNat 2 x.op.code.1 ++ x.issue.wtok ++ BitVec.ofBool x.issue.wen ++ x.issue.stok
    ++ BitVec.ofBool x.issue.sen ++ BitVec.ofBool x.issue.ext.isSome ++ x.issue.ops

/-- The words of an instruction: its word and its extension word, if it has one (R187). -/
def encodeWords (x : SeqInstr) : List W64 :=
  encodeWord x :: (match x.issue.ext with | some e => [e] | none => [])

/-- The instruction at the head of a list of words, and the words behind it; none for an undefined opcode, and none where the
extension word would lie beyond the list (R187, R191). -/
def decodeWords : List W64 → Option (SeqInstr × List W64)
  | [] => none
  | w :: rest =>
    match opcodeOf (w.extractLsb' 56 2).toNat (w.extractLsb' 58 6).toNat with
    | none => none
    | some op =>
      let i : Issue :=
        { wtok := w.extractLsb' 51 5, wen := w.getLsbD 50, stok := w.extractLsb' 45 5, sen := w.getLsbD 44,
          ops := w.extractLsb' 0 43, ext := none }
      if w.getLsbD 43 then
        match rest with
        | [] => none
        | e :: rest' => some ({ op := op, issue := { i with ext := some e } }, rest')
      else some ({ op := op, issue := i }, rest)

/-- Every instruction of a sequence of words; none if some word does not decode. -/
def decodeSeq : Nat → List W64 → Option (List SeqInstr)
  | 0, l => if l.isEmpty then some [] else none
  | n + 1, l =>
    if l.isEmpty then some []
    else
      match decodeWords l with
      | none => none
      | some (x, rest) => (decodeSeq n rest).map (x :: ·)

end Sys2Proof
end

