-- ==== Sys2Proof/Config.lean ====
section
/-!
DEFINITION. What an implementation fixes and what the spec leaves open.  Every constant here is opaque: no proof can see
its value (assumptions 4 to 9).
-/

namespace Sys2Proof.Config

/-- A fresh random 128-bit value for each use: CHAL of HELLO (R332), BOOT_ID (R488). -/
opaque random : Nat → W128

/-- A fresh 32-byte cookie secret (R365). -/
opaque secret : Nat → W256

/-- The SEVERITY of an event code: R496 gives the scale and no code its place on it. -/
opaque severity : Nat → Nat

/-- Whether a dirty discardable line had been evicted, and so written back, before it was dropped (R230). -/
opaque evicted : Nat → Bool

/-- Whether a 64-byte granule of a move had crossed the Weir when the move was cancelled (R36): use, granule. -/
opaque crossed : Nat → Nat → Bool

/-- SHA-256 of a list of words: the Colophon's and Frisket's hashes (R448, R453).  FIPS 180-4 is not restated by the spec. -/
opaque sha256 : List Nat → W256

/-- The cookie of R365: HMAC-SHA-256 of source address, source port, destination address and epoch under the secret, its first 16 bytes. -/
opaque cookie : W256 → W128 → W16 → W128 → Nat → W128

/-- AES-256-GCM under the key of a job: its tag, from the nonce, the associated data and the text (R339). With no text it is the GMAC of
JOB_PROOF (R334). -/
opaque gcmTag : W128 → List W8 → List W8 → List W8 → W128

/-- CRC-32C of a frame or packet that is not sealed (R332, R361). -/
opaque crc32c : List W8 → W32

/-- The signature of the identity key, RSASSA-PSS with SHA-256, 384 bytes (R334). -/
opaque identitySig : List W8 → List W8

/-- The DER identity certificate of the device, up to 3,600 bytes (R334). -/
opaque identityCert : List W8

/-- The Miller's estimate of the time left to ready in ms (R463), before rounding. -/
opaque retryEstimate : Nat → Nat

/-- The number of receive slots or frames not fixed by the spec: the RTT measured on a link, in ns (R344, R366). -/
opaque rtt : Nat → Nat

/-- The activity counters of a STEP event that no rule defines to the bit: ARRAY_BUSY, VEC_BUSY and the byte counts (R447, R18). -/
opaque activity : Nat → W64

/-- The fixed hash of frame number and page offset that selects a line's set, before it is reduced to the number of sets (R227). -/
opaque storeHash : Nat → Nat

/-- A result that the spec names and does not state: the optimiser state that a VUPD rule does not compute (R151), from all that the
instruction reads for the element: a computed value is the same in every run (R16). -/
opaque freeWord : List Nat → W32

/-- The IPv6 link-local address of a port, formed from the MAC address that the device identity gives it (R358). -/
opaque linkLocal : Nat → W128

/-- Caertinos's manufacturer identity in IDCODE, which the BSDL file gives (R526). -/
opaque manufacturer : BitVec 11

/-- A byte that the guest die returns to a read of its windows (R455): the spec does not say what the die holds. -/
opaque guestByte : Nat → Nat → W8

/-- The THROTTLE that the throttle chooses when the running average would pass the limit (R420). -/
opaque throttle : Nat → Nat

/-- The count of bytes that a scrub writes in its first pass (R446). -/
opaque scrubBytes : Nat → Nat

end Sys2Proof.Config
end

