-- ==== Sys2Proof/Machine/State.lean ====
section
/-!
DEFINITION. The state of the package as plain data.  Each structure's defaults are its value right after reset
(`State.reset` below): the reset columns of the register tables, the load state of R159 for Querns, and, where the spec
gives none, the value that an assumption names.  INVENTORY.md, State, lists every piece with its rule.
-/

namespace Sys2Proof.Machine

/-- Why the machine could stop for good. No meaning raises it: the spec gives every error of its own an effect (R386),
so this constructor only closes the interface. Safe. -/
inductive Fault where
  /-- Raised by no command. Safe. -/
  | none
  deriving DecidableEq, Repr

/-- Why a command has no modelled effect. -/
inductive Refusal where
  /-- A command that has no meaning yet. Raised only by exec's own arms. Safe. -/
  | notModelled (mnemonic : String)
  deriving DecidableEq, Repr

/-- The part's variant (R4). -/
inductive Variant where
  | e | m | t
  deriving DecidableEq, Repr

/-- What the part is (R4 to R6, R534). -/
structure Part where
  variant : Variant := .m
  guestBuild : Bool := false
  stepping : Nat := 1
  serial : W128 := 1
  keyHash : W256 := 1
  deriving DecidableEq, Repr

/-! ### Memory and the Imposition table -/

/-- The page states of R221. -/
inductive PageState where
  | unmapped | mapped | migrating | damaged | lost | unbacked
  deriving DecidableEq, Repr

/-- An Imposition table entry (R221). -/
structure ImpEnt where
  state : PageState := .unmapped
  wp : Bool := false
  last : Bool := false
  next : Nat := 0
  owner : Nat := 0
  shared : Bool := false
  cecount : Nat := 0
  frame : Nat := 0
  deriving DecidableEq, Repr

/-- The states of a Store line that carry meaning (R228); a line that `lines` does not list is absent. -/
inductive LineKind where
  | normal | pinned | discardable
  deriving DecidableEq, Repr

/-- A line of the Store: its state, whether it is dirty, the context that pinned it, for a dirty line the bytes that the Bin held before
the writes, and the number of its latest use (R228, R230). -/
structure StoreLine where
  kind : LineKind
  dirty : Bool
  owner : Nat
  old : List Host.Cell
  used : Nat := 0
  deriving DecidableEq, Repr

/-- A prefetcher at work (R232): `lines` are 512-byte lines of Bin space in layout order, which stand behind a frame only when they are
placed. -/
structure Prefetch where
  ord : Nat
  ctx : Nat
  slot : Nat
  quern : Nat
  lines : List Nat
  hint : BitVec 2
  sen : Bool
  stok : Nat
  idx : Nat
  /-- the program that issued it has ended: it signals no counter of a later one (R180) -/
  orphan : Bool := false
  deriving DecidableEq, Repr

/-- Bins, Store and Imposition table (08). `imp` defaults to UNMAPPED entries. -/
structure Mem where
  imp : Tbl ImpEnt := []
  /-- the second copy of the Imposition table: every update writes both (R225) -/
  impB : Tbl ImpEnt := []
  /-- unreadable granules (byte offset ÷ 64) of each tracked damaged page, by its frame (R240) -/
  unreadable : Tbl (List Nat) := []
  /-- granules of the Bins (byte key ÷ 64) whose bytes the data plane wrote last, which are never taken as instructions (R40) -/
  fromData : List Nat := []
  /-- migrations under way, by old frame: the new frame and the 4 KiB chunks copied (R242) -/
  migr : Tbl (Nat × Nat) := []
  retired : List Nat := []
  /-- reserve frames withheld from mapping (R243) -/
  reserve : List Nat := (List.range 64).map (131008 + ·) ++ (List.range 64).map (262080 + ·)
    ++ (List.range 64).map (393152 + ·) ++ (List.range 64).map (524224 + ·)
  /-- corrected errors of a row, as (granule, Miller ns), by row (R241) -/
  rowCe : Tbl (List (Nat × Nat)) := []
  /-- spare rows used, by bank (R220, R241) -/
  sparesUsed : Tbl Nat := []
  /-- frames that wait for their retirement (R240 step 5) -/
  retiring : List Nat := []
  spareRows : List Nat := [65536, 65536, 65536, 65536]
  lines : Tbl StoreLine := []
  /-- the number of the next use of a line, which orders lines by their latest use (R228) -/
  useNo : Nat := 1
  prefetch : List Prefetch := []
  /-- Store ways disabled, as (set, way), and ways that failed once (R244) -/
  waysOff : List (Nat × Nat) := []
  waysHit : List Nat := []
  arb : W64 := 1 <<< 13 ||| 3 <<< 9 ||| 4 <<< 5 ||| 12
  reservePerBin : Nat := 64
  reserveNext : Nat := 64
  ce : Nat := 0
  ue : Nat := 0
  keepOvf : Nat := 0
  binDegraded : List Bool := [false, false, false, false]
  refreshDouble : List Bool := [false, false, false, false]
  deriving DecidableEq, Repr

/-! ### Querns -/

/-- An operand element as the array holds it: an exact m × 2^e, a piece of a split element with the sign of the unsplit element
(R98, R101), an infinity or a NaN (R56, R90). -/
inductive El where
  | fin (m e : Int)
  | piece (m e sgn : Int)
  | inf (neg : Bool)
  | nan
  deriving DecidableEq, Repr

/-- A stationary plane (R83, R84, R196): `perCell` is 0 in a cleared plane, otherwise the elements per cell of the class it
was loaded at; `cols` lists, for each partition, for each column, the elements along K. -/
structure Plane where
  split : BitVec 2 := 0
  piece : BitVec 2 := 0
  tscale : W32 := 0x3F800000
  perCell : Nat := 0
  cols : List (List (List El)) := []
  deriving DecidableEq, Repr

/-- What a pass adds to one accumulator element: its byte key, its group sums, or the special value that replaces it (R56) and whether that
is a NaN which raises invalid (R94). -/
structure AccAdd where
  key : Nat
  sums : List El
  invalid : Bool
  deriving DecidableEq, Repr

/-- A pass held at the group adders until the set of its epoch is free (R105). -/
structure HeldPass where
  epoch : Nat
  adds : List AccAdd
  deriving DecidableEq, Repr

/-- An MCLR whose set an earlier write-out still uses: it signals when the set is clear (R105, R108, R110). -/
structure HeldClear where
  epoch : Nat
  idx : Nat
  sen : Bool
  stok : Nat
  deriving DecidableEq, Repr

/-- A descriptor slot: 48 bytes (R212, R215), the element cursor (R117), and the address of a VQ4 tensor's FP32 scale, which
no loop advance moves (R216). -/
structure DSlot where
  bits : BitVec 384 := 0
  cursor : Nat := 0
  tscaleAt : Nat := 0
  deriving DecidableEq, Repr

/-- An MDRAIN whose write-out is still to come (R104 to R107): epoch, instruction, destination slot contents and cursor at
issue, and the epoch's tensor scales. -/
structure Drain where
  epoch : Nat
  issue : Issue
  desc : DSlot
  scales : Option (W32 × W32)
  ordinal : Nat
  step : W32
  defrm : BitVec 3
  idx : Nat
  deriving DecidableEq, Repr

/-- A tensor status slot (R68). -/
structure StatusSlot where
  amax : W32 := 0
  sat : W32 := 0
  ufl : W32 := 0
  nonfinite : Bool := false
  escalate : Bool := false
  stopped : Bool := false
  histFill : Nat := 0
  satLimit : W32 := 0xFFFFFFFF
  uflLimit : W32 := 0xFFFFFFFF
  hist : List W32 := List.replicate 16 0
  deriving DecidableEq, Repr

/-- A register-mode result that a V-stream instruction does not read yet (R123): the instruction's number, the number at which
it becomes visible, and what the register lanes and memory bytes that it wrote held before it; of a byte, the bits that it wrote. -/
structure VPend where
  idx : Nat
  due : Nat
  lanes : List (Nat × W32)
  bytes : List (Nat × W8 × W8)
  deriving DecidableEq, Repr

/-- An open loop (R168): first body position, iterations left, ADVANCE mask, and the slots' words at CLOOP. -/
structure Loop where
  start : Nat
  left : Nat
  mask : W64
  saved : List (Nat × BitVec 384)
  deriving DecidableEq, Repr

/-- A stream sequencer: instruction index, open loops, the counter and count it waits for, whether its sequence has ended. -/
structure Stream where
  pos : Nat := 0
  loops : List Loop := []
  waiting : Option (Nat × Nat) := none
  /-- a CWAIT whose header wait has been taken and whose own counter has not (R164) -/
  hdrTaken : Bool := false
  ended : Bool := false
  deriving DecidableEq, Repr

/-- What a DISPATCH gives one member (R161, R174, R183): image, dispatch block words, step-status record. -/
structure Load where
  ctx : Nat
  disp : Nat
  image : Nat
  entry : Option Nat
  dblk : List W64
  sts : Option (List W64)
  /-- the step of the DISPATCH, and whether its image marks a move WGBEND (R157, R158) -/
  step : Nat := 0
  wgbend : Bool := false
  deriving DecidableEq, Repr

/-- A loaded image (R160, R217): its four sequences, its descriptor table, and the fields of its header that the start uses. -/
structure ImageInfo where
  mSeq : List SeqInstr
  vSeq : List SeqInstr
  xSeq : List SeqInstr
  cSeq : List SeqInstr
  descs : List (BitVec 384)
  dblkOff : Nat
  stsOff : Nat
  deriving DecidableEq, Repr

/-- A program in a slot (R161). -/
structure Slot where
  load : Load
  info : ImageInfo
  deriving DecidableEq, Repr

/-- An error of the running program: code, stream, index (R180, R194). -/
structure ProgErr where
  code : Nat
  stream : StreamId
  index : Nat
  deriving DecidableEq, Repr

/-- An end of a move (R205): a tensor, a status slot or a descriptor slot. -/
inductive MoveEnd where
  | tensor (d : DSlot)
  | status (n : Nat)
  | desc (n : Nat)
  deriving DecidableEq, Repr

/-- A move in flight (R178): its tag, its place in the X stream's order, its ends as they stood at issue, LAST, the counter of a
WGBEND mark, its instruction's index and signal. -/
structure Move where
  tag : Nat
  ord : Nat
  src : MoveEnd
  dst : MoveEnd
  last : Bool
  wgbend : Option Nat
  idx : Nat
  sen : Bool
  stok : Nat
  deriving DecidableEq, Repr

/-- An XFENCE that waits for the X instructions before it (R167). -/
structure Fence where
  ord : Nat
  idx : Nat
  sen : Bool
  stok : Nat
  deriving DecidableEq, Repr

/-- A Quern (R159). -/
structure Quern where
  loaded : Bool := false
  fenced : Bool := false
  pmode : BitVec 2 := 0
  plane0 : Plane := {}
  plane1 : Plane := {}
  epoch : Nat := 0
  scales : Option (W32 × W32) := none
  drains : List Drain := []
  held : List HeldPass := []
  clears : List HeldClear := []
  /-- accumulator elements that hold a special value of R56, as byte keys within the sets -/
  special : List Nat := []
  org : Bool := false
  defrm : BitVec 3 := 0
  lanes : Tbl W32 := []
  vlen : Nat := 4096
  vcount : Nat := 0
  vpend : List VPend := []
  dslots : Tbl DSlot := []
  status : Tbl StatusSlot := []
  flags : BitVec 5 := 0
  wgo : Tbl Nat := []
  /-- write-outs discarded as duplicates (R156) -/
  wgoDup : Nat := 0
  tokens : Tbl Nat := []
  streams : Tbl Stream := []
  run : Option Slot := none
  next : Option Slot := none
  /-- DISPATCHes that have reached the Quern and wait for a slot (R161) -/
  waiting : List Load := []
  err : Option ProgErr := none
  moves : List Move := []
  /-- X instructions issued by the running program -/
  xord : Nat := 0
  fences : List Fence := []
  /-- the CBAR at which the C stream waits (R169): BARID, signal -/
  barrier : Option (W8 × Bool × Nat) := none
  deriving DecidableEq, Repr

/-! ### Stage contexts, Hoppers, Flumes, Editions -/

/-- Context states (R250), in HOP_CTX_c's order. -/
inductive CtxState where
  | unloaded | running | draining | quiesced | halted | stopped | ended
  deriving DecidableEq, Repr

/-- A completion notice (R184). -/
structure Notice where
  quern : Nat
  image : Nat
  entry : Option Nat
  status : Nat
  stream : StreamId
  index : Nat
  nonfinite : Bool
  escalate : Bool
  ieee : BitVec 5
  deriving DecidableEq, Repr

/-- An outstanding DISPATCH (R183, R184). -/
structure Disp where
  id : Nat
  group : Nat
  members : List Nat
  notices : List Notice
  entry : Option Nat
  step : W32
  latch : Option Nat
  idx : Nat
  sen : Bool
  stok : Nat
  /-- its place in the order of issue and its fields, from which a resumed context starts it again (R47) -/
  no : Nat
  issue : Issue
  deriving DecidableEq, Repr

/-- What the notices of one DISPATCH merge to (R184). -/
structure Merged where
  disp : Nat
  status : Nat
  stream : StreamId
  index : Nat
  nonfinite : Bool
  escalate : Bool
  ieee : BitVec 5
  deriving DecidableEq, Repr

/-- The sequencer's wait for something that returns later, with its signal: HRCPT, EDCOMMIT, EDRETIRE, STEPTOKEN, BSCALE, BRED. -/
inductive Await where
  | rcpt (entry : Nat)
  | commit (shard step : Nat)
  | retire (eds : List Nat)
  | tokens (step : Nat)
  | red (bid : Nat)
  deriving DecidableEq, Repr

/-- A pending signal of a stage program, with its instruction's place in the order of issue (R181). -/
structure Pend where
  what : Await
  no : Nat
  idx : Nat
  sen : Bool
  stok : Nat
  deriving DecidableEq, Repr

/-- A step's status at a context (R142, R186, R267). -/
structure StepInfo where
  issued : Nat := 0
  done : Nat := 0
  lastIssued : Bool := false
  nonfinite : Bool := false
  final : Bool := false
  tokenIssued : Bool := false
  tokenDone : Bool := false
  closed : Bool := false
  lsExp : BitVec 8 := 0
  latches : W32 := 0
  snapshot : W32 := 0
  dispatched : Bool := false
  deriving DecidableEq, Repr

/-- A peer list entry (R290, R291). -/
structure Peer where
  out : Nat
  inn : Nat
  lastToken : Option Nat := none
  lastNotice : Option Nat := none
  deriving DecidableEq, Repr

/-- ED_LSCALE_c (R144). -/
structure LScale where
  lsExp : BitVec 8 := 0
  lsMin : BitVec 8 := 0
  lsMax : BitVec 8 := 0
  growth : W16 := 0
  goodRun : W16 := 0
  deriving DecidableEq, Repr

/-- An entry register (R181, R211): the pool handle and whether an HPUSH or DISPATCH has read it. -/
structure HReg where
  entry : Nat
  read : Bool
  deriving DecidableEq, Repr

/-- A stage-program instruction that has issued and waits for something before it acts (R146, R181, R186, R284, R288): its
operation, place in the order of issue and index, its fields, the entry it read and, for a DISPATCH, its number. -/
structure Deferred where
  op : Opcode
  no : Nat
  idx : Nat
  issue : Issue
  entry : Option Nat
  disp : Nat
  step : W32
  deriving DecidableEq, Repr

/-- What the sequencer held when an HPOP took an entry, to which a resume returns when the entry is READY again (R47, R250): the HPOP's
place in the order of issue; the tokens grow by the signals of earlier instructions that come later. -/
structure HSnap where
  entry : Nat
  no : Nat
  seqr : Stream
  tokens : Tbl Nat
  hregs : Tbl (Option HReg)
  deriving DecidableEq, Repr

/-- A stage context (R181, R248). -/
structure Ctx where
  state : CtxState := .unloaded
  finalStep : Option Nat := none
  program : List SeqInstr := []
  seqr : Stream := {}
  tokens : Tbl Nat := []
  hregs : Tbl (Option HReg) := []
  groups : List (List Nat) := []
  disps : List Disp := []
  /-- the latest merged completion (R184) -/
  merged : Option Merged := none
  nextDisp : Nat := 0
  /-- stage-program instructions issued since the load: each one's place in the order of issue -/
  issued : Nat := 0
  pends : List Pend := []
  deferred : List Deferred := []
  snaps : List HSnap := []
  /-- an HPOP is delayed for pages and has been counted (R256) -/
  hpopStalled : Bool := false
  shards : List Nat := []
  peers : List Peer := []
  steps : Tbl StepInfo := []
  firstStep : Nat := 0
  lscale : LScale := {}
  tagBase : Nat := 0
  tagCount : Nat := 0
  quota : Nat := 0
  quotaAfter : Nat := 0
  rstep : Nat := 0
  /-- highest completed step of each bucket tag (R390) -/
  completed : Tbl Nat := []
  alloc : Nat := 0
  free : List Nat := []
  takeover : Bool := false
  resumeAfterDrain : Bool := false
  /-- the highest step whose commit notice has been sent (R290) -/
  noticed : Option Nat := none
  err : Option (Nat × Nat) := none
  deriving DecidableEq, Repr

/-- Configuration and order state of a Hopper (R255, R274). -/
structure Hopper where
  cap : Nat := 0
  ordered : Bool := false
  mbPerStep : Nat := 0
  retPages : Nat := 0
  outPages : Nat := 0
  nextStep : Nat := 0
  nextOrd : Nat := 0
  accNo : Nat := 0
  deriving DecidableEq, Repr

/-- Entry states (R252). -/
inductive EntryState where
  | free | granted | ready | taken | done | released
  deriving DecidableEq, Repr

/-- A Hopper pool entry (R252) with the facts kept beside it (R284, R393). Page lists are held as lists. -/
structure Entry where
  hopper : Nat
  state : EntryState
  flume : Nat
  seq : Nat := 0
  step : W32 := 0
  mbid : W32 := 0
  edition : W32 := 0
  len : Nat := 0
  rcpt : Bool := false
  pushed : Bool := false
  outFlume : Nat := 0
  outSeq : Nat := 0
  /-- the grant that its output named, which a recalled retransmission names again (R393) -/
  outGrant : Nat := 0
  inPages : List Nat := []
  outPages : List Nat := []
  accNo : Nat := 0
  abandoned : Bool := false
  grantNo : Nat := 0
  refs : List Nat := []
  recalled : Bool := false
  unrecoverable : Bool := false
  hpushed : Bool := false
  deriving DecidableEq, Repr

/-- Flume states (R275). -/
inductive FlumeState where
  | closed | opening | openF | closing | broken
  deriving DecidableEq, Repr

/-- What an outbound Flume still holds without a receipt, in sequence order (R258, R290): a micro-batch, a token or a notice.
`sent`: handed to a path; `grantNo`: the grant it names. -/
inductive TxKind where
  | mb (entry : Nat)
  | token (step : Nat)
  | notice (step : Nat)
  deriving DecidableEq, Repr

structure TxItem where
  kind : TxKind
  seq : Nat
  grantNo : Option Nat := none
  nextSeg : Nat := 0
  sent : Bool := false
  deriving DecidableEq, Repr

/-- A micro-batch being written at the inbound end (R262, R263). -/
structure Rx where
  seq : Nat
  grantNo : Nat
  step : W32
  mbid : W32
  edition : W32
  len : Nat
  nextSeg : Nat := 0
  whole : Bool := false
  recallSeen : Bool := false
  entry : Nat
  deriving DecidableEq, Repr

/-- A Flume (R259 to R275). -/
structure Flume where
  cfg : W64 := 0
  route : W64 := 0
  state : FlumeState := .closed
  seq : Nat := 0
  tx : List TxItem := []
  /-- grants: held unused (outbound), or issued unused with their entries (inbound) -/
  grants : List Nat := []
  issued : List (Nat × Nat) := []
  nextGrant : Nat := 1
  /-- a grant is delayed and has been counted (R262) -/
  stalled : Bool := false
  rx : Option Rx := none
  dup : Nat := 0
  path : Option Carrier := none
  /-- the carrier of `path` has failed since the Flume took it (R350, R367) -/
  pathLost : Bool := false
  forced : Bool := false
  /-- inbound: the host has asked for a close, forced or not, which the outbound end has not answered (R271) -/
  closeAsked : Option Bool := none
  deriving DecidableEq, Repr

/-- Edition states (R279). -/
inductive EdState where
  | free | filling | pending | committed | retiring
  deriving DecidableEq, Repr

/-- An Edition table entry (R279). -/
structure EdEnt where
  state : EdState := .free
  shard : Nat := 0
  owner : Nat := 0
  refcount : Nat := 0
  number : Nat := 0
  pages : List Nat := []
  requested : Bool := false
  deriving DecidableEq, Repr

/-- A shard record (R277, R278, R281). `opened`: the latest opened step; `mirror`: pages from WIN_PAGE + 262,144 (R281). -/
structure Shard where
  valid : Bool := false
  win : Nat := 0
  span : Nat := 0
  owner : Nat := 0
  static : Bool := false
  settled : Option Nat := none
  /-- the highest step skipped before the first commit: SETTLED is not valid yet (R278) -/
  skipped : Option Nat := none
  opened : Option Nat := none
  deriving DecidableEq, Repr

/-! ### The Galley -/

/-- A block header (R303) under combination. -/
structure BlkHdr where
  e : Int := 0
  emax : Int := -32768
  bmax : Nat := 0
  ovb : Nat := 0
  ovf : Bool := false
  nf : Bool := false
  rep : Bool := false
  rgn : Nat := 0
  deriving DecidableEq, Repr

/-- Where a bucket stands at a member (R295): it waits for its Formes or its turn, a scale round or a data round runs, or its final
round is complete and its results are still to be written. -/
inductive Phase where
  | waiting | scale | data | complete
  deriving DecidableEq, Repr

/-- What runs for the bucket: a BSCALE with its MODE and H, or a BRED with its SCHED. -/
inductive RedKind where
  | bscale (carried : Bool) (h : Nat)
  | bred (sched : BitVec 2)
  deriving DecidableEq, Repr

/-- A link of a bucket (R297): VALID, IN Flume, OUT Flume. -/
structure RLink where
  valid : Bool := false
  inn : Nat := 0
  out : Nat := 0
  deriving DecidableEq, Repr

/-- The fields of a bucket descriptor (R297). -/
structure BDesc where
  contribBase : Nat
  contribStride : Nat
  qmask : BitVec 128
  resultBase : Nat
  scaleBase : Nat
  statusBase : Nat
  scaleSched : BitVec 2
  rank : Nat
  p : Nat
  formes : Nat
  fp64Dst : Bool
  fp64Src : Bool
  elems : Nat
  link0 : RLink
  link1 : RLink
  link2 : RLink
  deriving DecidableEq, Repr

/-- A unit of the running round at this member: a block with its header and 256 lines, or in a scale round 1,024 exponents in up to
256 lines (R302, R306, R338). `got`: the links whose part has been added. -/
structure RedUnit where
  hdr : BlkHdr := {}
  lines : List W64 := []
  got : List Nat := []
  decided : Bool := false
  deriving DecidableEq, Repr

/-- A unit to be sent: link, HOP, unit number. -/
structure RedSend where
  link : Nat
  hop : Nat
  unit : Nat
  deriving DecidableEq, Repr

/-- A chunk on a link: link, HOP, CHUNK (R312). -/
abbrev ChunkId := Nat × Nat × Nat

/-- A reduction at this member (R308 to R317). `bid` numbers it among all reductions. -/
structure Bucket where
  bid : Nat
  ctx : Nat
  btag : Nat
  step : Nat
  idx : Nat
  kind : RedKind
  desc : BDesc
  phase : Phase := .waiting
  formes : List Nat := []
  round : Nat := 0
  regrinds : Nat := 0
  /-- a scale round followed two Regrinds (R314) -/
  rescaled : Bool := false
  /-- the scales in force, one for each block -/
  e : List Int := []
  units : Tbl RedUnit := []
  /-- units added already, by link and HOP (R312) -/
  seen : List (Nat × Nat × Nat) := []
  outq : List RedSend := []
  /-- Forme credits held towards each neighbour, by link, and the credits counted (R310) -/
  credits : Tbl Nat := []
  creditSeen : List ChunkId := []
  /-- credits that each neighbour may still use, and the credits sent in this round with their Formes -/
  given : Tbl Nat := []
  givenLog : List (ChunkId × Nat) := []
  /-- chunks whose arrival has begun -/
  opened : List ChunkId := []
  /-- chunks whose sending has begun and that are not acknowledged (R312) -/
  unacked : List ChunkId := []
  /-- Formes that hold an arrived chunk until the chunks made from it are acknowledged -/
  holding : List (ChunkId × List ChunkId) := []
  /-- the second half of a bidirectional ring on one Forme has begun (R311) -/
  secondHalf : Bool := false
  /-- its first frames wait for the twin (R401) -/
  held : Bool := false
  /-- the ROUND whose scale round this BRED has completed and whose data round follows (R307, R320) -/
  scaled : Option Nat := none
  /-- it has ended here and keeps its Formes until it signals (R308, R401) -/
  ended : Bool := false
  deriving DecidableEq, Repr

/-- A credit that arrived before the round that it is for (R310): the identifiers of its frame, the sender's Flume, the Formes. -/
structure EarlyCredit where
  id : RedId
  flume : Nat
  formes : Nat
  deriving DecidableEq, Repr

/-- A reduction frame on a LOCAL Flume: a RED or a REDACK. -/
inductive LocalRed where
  | red (flume : Nat) (id : RedId) (hdr : W64) (p nb : Nat) (lines : List W64)
  | ack (flume : Nat) (id : RedId) (credit : Bool) (formes : Nat)
  deriving DecidableEq, Repr

/-- The Galley (R296, R308, R316, R324). -/
structure Galley where
  disabled : List Nat := []
  /-- uncorrectable lines found in each Forme (R316) -/
  lost : Tbl Nat := []
  buckets : List Bucket := []
  nextBid : Nat := 0
  early : List EarlyCredit := []
  /-- the links of the latest bucket of each tag, by tag: they carry acknowledgements after its end (R312) -/
  links : Tbl (List RLink) := []
  /-- the step and ROUND of the scale round with which the latest BSCALE of each tag ended, by tag (R312, R320) -/
  scaled : Tbl (Nat × Nat) := []
  /-- reduction frames under way on LOCAL Flumes, as (Flume, identifiers, header, P, nb, lines) or acknowledgements -/
  fabric : List LocalRed := []
  periodMs : Nat := 1000
  regrinds : Nat := 0
  forcedScale : Nat := 0
  repeats : Nat := 0
  stalls : Nat := 0
  nfBuckets : Nat := 0
  mismatches : Nat := 0
  degraded : Bool := false
  deriving DecidableEq, Repr

/-! ### Races and host ports -/

/-- Race states (R329, R356). -/
inductive RaceState where
  | off | training | qualifying | hello | linked | attesting | attested | retraining | failed | unused
  deriving DecidableEq, Repr

/-- An event record (R496). -/
structure Event where
  time : Nat
  seq : Nat
  code : Nat
  severity : Nat
  ptp : Bool
  copy : Bool
  scope : Nat
  scopeId : Nat
  detail : List Nat
  deriving DecidableEq, Repr

/-- An outgoing frame or packet above the clear header: what the receiver reads (R338, R361, R402). -/
inductive Frame where
  | mbhdr (flume dst seq grantNo : Nat) (step mbid edition : W32) (len : Nat)
  | data (flume dst seq seg : Nat) (last : Bool) (entry : Nat)
  | grant (flume dst no : Nat)
  | receipt (flume dst seq : Nat) (step : W32) (what : Nat)
  | openF (flume dst : Nat) (dir : Bool) (len4k : Nat)
  | openack (flume dst : Nat) (dir : Bool) (len4k result : Nat)
  | close (flume dst : Nat) (forced : Bool) (lastIssued firstUnused : Nat)
  | token (flume dst : Nat) (step : Nat)
  | notice (flume dst : Nat) (step : Nat)
  | red (flume dst : Nat) (id : RedId) (hdr : W64) (p nb : Nat) (lines : List W64)
  | redack (flume dst : Nat) (id : RedId) (credit : Bool) (formes : Nat)
  | linkAck (ackNo : Nat)
  | linkNack (base : Nat) (missing : W64)
  | linkResume
  | linkWithdraw
  | hello (m : HelloMsg)
  /-- PART 0 or 1 of an ATTEST body: the length of the body and the bytes of the part (R334) -/
  | attest (second : Bool) (len : Nat) (bytes : List W8)
  | attestResult (code : Nat)
  | twin (sub : Nat) (jsn : Nat) (body : List Nat) (bytes : List W8)
  /-- JOBRSP and EVENT packets of a session (R361, R371, R447) -/
  | jobrsp (reqid op status : Nat) (detail : List Nat)
  | event (e : Event)
  | energy (joules : Nat)
  | stepEvent (step elapsedUs : Nat) (counts : List W64)
  deriving DecidableEq, Repr

/-- A numbered frame that is not acknowledged (R342 to R344). -/
structure Unacked where
  lsn : Nat
  frame : Frame
  cls : Nat
  deriving DecidableEq, Repr

/-- The receiving side of a numbered link or session (R340, R342, R343, R345): the highest number in order, and the frames received above it,
which the receive buffer holds until the gap before them fills. -/
structure RxLink where
  ack : Nat := 0
  above : List (Nat × Instr) := []
  /-- frames received since a frame of this end last carried ACK_LSN, and since its last LINK ACK (R343) -/
  sinceAck : Nat := 0
  count : Nat := 0
  /-- the absent numbers that a NACK has named, each with the time of the last one in Miller ns -/
  nacked : List (Nat × Nat) := []
  deriving DecidableEq, Repr

/-- Where the recovery of a Race that retrains stands (R352): its lanes are still to be chosen, trained and qualified, or step 5 exchanges
HELLO, or attests. -/
inductive RecoverStep where
  | lanes | hello | attest
  deriving DecidableEq, Repr

/-- A Race (R325 to R356). -/
structure Race where
  state : RaceState := .off
  lanes : BitVec 9 := 0
  half : Bool := false
  spareInUse : Bool := false
  sparePresent : Bool := false
  /-- RETRAIN has been written: the recovery chooses at full width (R352, R356) -/
  wide : Bool := false
  recover : RecoverStep := .lanes
  /-- the lane that failed last, which the records of R353 name -/
  failLane : Nat := 0
  peer : Option (Nat × Nat) := none
  attResult : Nat := 0
  rttNs : Nat := 0
  chalOwn : W128 := 0
  chalPeer : W128 := 0
  peerSerial : W128 := 0
  peerJob : W128 := 0
  peerAdmitted : Bool := false
  peerSlots : Nat := 0
  /-- the peer whose body this end has verified, and the parts of its body that have come (R333, R334) -/
  cand : Option (Nat × Nat) := none
  attParts : List Bool := []
  /-- an attestation has failed less than 1 s ago (R329, R341) -/
  retryWait : Bool := false
  /-- own and peer RESULT of the attestation that runs (R333) -/
  ownResult : Option Nat := none
  peerResult : Option Nat := none
  /-- members whose frames the Race also accepts after ASSUME (R409) -/
  assumed : List (Nat × Nat) := []
  /-- frames waiting, by class of R348: 1 link, 2 TWIN, 3 control and REDACK, 4 RED, 5 data -/
  queue : List (Nat × Frame) := []
  /-- LSNs to be resent, before new frames of their class (R343, R344, R348) -/
  retxq : List Nat := []
  /-- LSNs that a LINK RESUME has resent from the peer's ACK_LSN on, before anything else and in LSN order (R352) -/
  resumeq : List Nat := []
  nextLsn : Nat := 1
  unacked : List Unacked := []
  rx : RxLink := {}
  peerAck : Nat := 0
  frameWindow : Nat := 0
  slotLimit : Nat := 0
  slotsUsed : Nat := 0
  /-- own payload slots freed since the numbering began (R345) -/
  slotsFreed : Nat := 0
  timeouts : Nat := 0
  /-- tag failures within the window of R341 (Miller ns) -/
  tagFails : List Nat := []
  retx : Nat := 0
  authFail : Nat := 0
  replay : Nat := 0
  dropped : Nat := 0
  lastPeer : Option (Nat × Nat) := none
  /-- whose turn each class last had (R348) -/
  rr : Tbl Nat := []
  deriving DecidableEq, Repr

/-- A Race port (R325, R356). -/
structure RacePort where
  cfg : BitVec 5 := 0
  laneBad : BitVec 9 := 0
  /-- the lanes whose transmitter is in electrical idle because they failed (R330, R351) -/
  idle : BitVec 9 := 0
  qualErrMax : Nat := 0
  retrains : Nat := 0
  disabled : Bool := false
  deriving DecidableEq, Repr

/-- Session states (R365 to R367). -/
inductive SessState where
  | free | openS | broken
  deriving DecidableEq, Repr

/-- A session of a host port (R365 to R369). -/
structure Session where
  state : SessState := .free
  addr : NetAddr := ⟨0, 0⟩
  member : Nat := 0
  inc : Nat := 0
  segsize : Nat := 1024
  window : Nat := 0
  /-- order of opening, for the oldest session of a member (R368) -/
  age : Nat := 0
  nextPsn : Nat := 1
  unacked : List Unacked := []
  queue : List (Nat × Frame) := []
  rx : RxLink := {}
  peerAck : Nat := 0
  peerWindow : Nat := 0
  cwnd : Nat := 16
  acked : Nat := 0
  peerCe : W32 := 0
  /-- received packets that an ECN router had marked: the CE_COUNT of this end's ACKs (R366) -/
  ce : W32 := 0
  /-- when the window was last halved (R366) -/
  halved : Option Nat := none
  timeouts : Nat := 0
  subscribed : Bool := false
  /-- requests without a response, in order, and whether the first one has acted and waits for its response (R369, R401) -/
  requests : List Instr := []
  acted : Bool := false
  /-- a LOAD of which parts have come: its REQID, and the bytes so far, or none when it is refused (R369) -/
  part : Option (W32 × Option Nat) := none
  deriving DecidableEq, Repr

/-- A host port (R357 to R375). -/
structure HostPort where
  cfg : W64 := 47210 <<< 23
  ip6 : W128 := 0
  ip4 : W64 := 0
  fwgrp : W64 := 0
  prefixes : W64 := 0
  gw6 : W128 := 0
  link : Bool := false
  rateNow : BitVec 2 := 0
  sessions : Tbl Session := []
  slotsFree : Nat := 512
  retx : Nat := 0
  authFail : Nat := 0
  dropped : Nat := 0
  rateDrops : Nat := 0
  /-- the token bucket of R363 in units of 10⁻⁹ reply -/
  bucket : Nat := 64000000000
  /-- neighbour cache (R359) -/
  neigh : List (W128 × W48) := []
  /-- requesters that still wait for a FWREPAIR reply (R373) -/
  fwQueries : List NetAddr := []
  disabled : Bool := false
  nextAge : Nat := 0
  deriving DecidableEq, Repr

/-! ### Job, keys, Frisket -/

/-- The factory Frisket (R448). -/
def factoryFrisket : FrisketRec :=
  { seq := 0, ownerHash := 0, operatorHash := 0, dbg := 1, jobView := 7, keypol := 0, ndigest := 0, fwFloor := 1,
    gflumeBase := 0, gflumeCount := 0, gwin := [], digests := [] }

/-- A scrub record (R446). -/
structure ScrubRec where
  jobId : W128 := 0
  endTime : W64 := 0
  durationUs : W32 := 0
  result : Nat := 0
  guest : Nat := 0
  ptp : Bool := false
  bytes : Nat := 0
  verifyFail : Nat := 0
  framesRetired : Nat := 0
  deriving DecidableEq, Repr

/-- A Colophon (R453). -/
structure ColophonRec where
  serial : W128 := 0
  variant : Nat := 0
  fwHashes : List W256 := []
  calHash : W256 := 0
  frisketHash : W256 := 0
  frisketSeq : W32 := 0
  fwFloor : W32 := 0
  secver : W32 := 0
  keyHash : W256 := 0
  seq : Nat := 0
  nonce : W128 := 0
  defectHash : W256 := 0
  adv : Nat := 0
  jobId : W128 := 0
  scrub : ScrubRec := {}
  deriving DecidableEq, Repr

/-- The phase of ADVERT STATE (R364). -/
inductive JobPhase where
  | noJob | admitted | scrubbing
  deriving DecidableEq, Repr

/-- Security engine, Frisket and job (17). -/
structure Sec where
  phase : JobPhase := .noJob
  keySlot : Bool := false
  jobId : W128 := 0
  endedJob : W128 := 0
  seed : W64 := 0
  self : Nat := 0
  members : List Member := []
  /-- incarnations recorded for members (R339, R409) -/
  incs : Tbl Nat := []
  scrubPending : Bool := false
  /-- the guest die's answer that a running scrub waits for (R457) -/
  guestWait : Bool := false
  guestResult : Nat := 0
  frisket : FrisketRec := factoryFrisket
  pendingFrisket : Option FrisketRec := none
  windowsOpen : Bool := false
  guestHeld : Bool := false
  debugOpen : Bool := false
  scrub : ScrubRec := {}
  coloSeq : Nat := 0
  colophon : ColophonRec := {}
  frisketViol : Nat := 0
  guestDenied : Nat := 0
  admitRefused : Nat := 0
  /-- an ADMIT held while the scrub runs (R43) -/
  heldAdmit : Option (MilHdr × Bundle) := none
  /-- nonce counters by (FLUME, CLASS), and per Race for the link class (R339) -/
  ctrs : Tbl Nat := []
  /-- replay windows by (MEMBER, FLUME, CLASS, INC): highest CTR and those seen within 4,096 below (R340) -/
  replay : Tbl (List Nat) := []
  deriving DecidableEq, Repr

/-! ### Miller, events, bring-up, power, pair mode, board -/

/-- A frame or packet as it is laid out: the clear header and the sealed header as words, the payload, and the trailer, which is the tag or
CRC-32C (R332, R337, R339, R360, R361). -/
structure Wire where
  clear : List W64
  sealedHdr : List W64
  payload : List W8
  trailer : W128
  deriving DecidableEq, Repr

/-- How a packet of a host port leaves (R358, R359): its 802.1Q tag, the source port, DSCP, ECN and Don't Fragment. -/
structure Envelope where
  tag : Option (BitVec 12)
  port : W16
  dscp : BitVec 6
  ecn : BitVec 2
  dontFragment : Bool
  deriving DecidableEq, Repr

/-- What leaves the package (R337, R358, R361 to R373, R456, R487, R500, R523). -/
inductive Out where
  | mreply (dst : NetAddr) (op : Nat) (reqSeq : W64) (status : Nat) (body : List Nat)
  | mcolophon (dst : NetAddr) (reqSeq : W64) (c : ColophonRec)
  | mevents (dst : NetAddr) (reqSeq : W64) (es : List Event)
  | push (dst : NetAddr) (e : Event)
  | telem (dst : NetAddr) (time : Nat) (values : List W64)
  /-- a packet of a host port in its IP form (R359) -/
  | udp (e : Envelope) (o : Out)
  | packet (p s : Nat) (member inc ctr psn ackNo window : Nat) (f : Frame) (w : Wire)
  | advert (p : Nat) (dst : NetAddr) (serial jobId : W128) (digest : W256) (state variant free : Nat)
  | notReady (p : Nat) (dst : NetAddr) (retryMs : Nat)
  | cookie (p : Nat) (dst : NetAddr) (c : W128)
  | sopenack (p : Nat) (dst : NetAddr) (session segsize window : Nat) (w : Wire)
  | sopenRefused (p : Nat) (dst : NetAddr) (result : Nat)
  | fwstatus (p : Nat) (dst : NetAddr) (result : Nat)
  | fwrepair (p : Nat) (dst : NetAddr) (imageId baseBlock missing : Nat) (blocks : List Nat)
  | raceFrame (r : Nat) (member inc ctr lsn ackNo slotLimit window : Nat) (f : Frame) (w : Wire)
  | neighbour (port : Nat) (target : W128) (v4 : Bool)
  | solicit (port : Nat) (target : W128)
  /-- a frame of a Flume that ends at the guest die (R455) -/
  | guestFrame (f : Frame) (bytes : List W8)
  | guestData (bytes : List W8)
  | guestError
  | guestJobEnd
  | control (on : Bool)
  | thermtrip (on : Bool)
  | pmbusRead (addr : Nat)
  /-- the flash's FRESET# and FWP# pins, and the read of SFDP (R523) -/
  | freset (on : Bool)
  | fwp (on : Bool)
  | sfdpRead
  | avs (rail mv : Nat)
  deriving DecidableEq, Repr

/-- A Miller assembly (R491, R492). -/
structure Assembly where
  op : Nat
  reqSeq : W64
  split : Bool
  total : Nat
  parts : List (Nat × Nat)
  deriving DecidableEq, Repr

/-- A subscription (R500). -/
structure Subscription where
  dst : NetAddr
  minSeverity : Nat
  periodMs : Nat
  offsets : List W48
  deriving DecidableEq, Repr

/-- The Miller (19). -/
structure Miller where
  mstate : Nat := 0
  bootId : W128 := 0
  lastOwner : W64 := 0
  lastOperator : W64 := 0
  replyOwner : Option Out := none
  replyOperator : Option Out := none
  /-- STONERESET requests that reply when their Stone has been recovered, by Stone (R388, R494) -/
  awaitStone : Tbl MilHdr := []
  keyOwner : Bool := false
  keyOperator : Bool := false
  wdogResets : Nat := 0
  assemblies : Tbl Assembly := []
  subs : Tbl Subscription := []
  ring : List Event := []
  flashRing : List Event := []
  evSeq : Nat := 0
  readTo : Nat := 0
  lost : Nat := 0
  telemSkipped : Nat := 0
  refused : Nat := 0
  replay : Nat := 0
  queueDrops : Nat := 0
  /-- the token bucket of R490 in units of 10⁻⁹ reply -/
  bucket : Nat := 16000000000
  /-- contexts that a drain holds, as (cause, context): 0 to 3 a hot Stone, 4 the Spur, 5 to 8 a Bin, 16 QUIESCE, 17 the watchdog, 18 a
  takeover held by an incomplete reduction (R46, R410, R424, R502) -/
  holds : List (Nat × Nat) := []
  netCfg : W64 := 47211 <<< 10
  ip4 : W64 := 0
  ip6 : W128 := 0
  prefixes : W64 := 0
  gw6 : W128 := 0
  link : Bool := true
  ptpLocked : Bool := false
  ptpNs : Nat := 0
  neigh : List (W128 × W48) := []
  deriving DecidableEq, Repr

/-- A defect record (R470). -/
structure Defect where
  kind : Nat
  source : Nat
  action : Nat
  bootNo : Nat
  location : Nat
  detail : W128 := 0
  deriving DecidableEq, Repr

/-- A pair of firmware slots (R452, R501): SECVER and hash of A and B, and which one runs and is preferred. -/
structure FwSlots where
  a : W32 × W256 := (1, 1)
  b : W32 × W256 := (1, 1)
  /-- a slot passed the boot ROM's checks at the last Miller boot (R460) -/
  valid : Bool := true
  preferB : Bool := false
  runB : Bool := false
  newRun : Bool := false
  deriving DecidableEq, Repr

/-- The staging partition (R372, R501): who stages, the image and its blocks. -/
structure Staging where
  fromPort : Bool
  imageId : W32
  blocks : Nat
  have_ : List Nat
  /-- the bytes of the blocks that are here (R372) -/
  data : Tbl (List W8) := []
  img : FwImage
  verified : Option Nat
  idle : Bool := false
  deriving DecidableEq, Repr

/-- Bring-up, defects and calibration (18). -/
structure Boot where
  stage : Nat := 0
  failStage : Nat := 0
  stonesEn : BitVec 4 := 0
  binsEn : BitVec 4 := 0
  listFull : Bool := false
  clockWait : Bool := false
  /-- this bring-up has waited for the reference (R465) -/
  waited : Bool := false
  readyMs : BitVec 12 := 0
  bootNo : W32 := 0
  /-- units the fuses mark bad, as KIND and LOCATION of R470 (R469) -/
  fuses : List (Nat × Nat) := []
  defects : List Defect := []
  newRecords : Nat := 0
  fuseContra : Nat := 0
  /-- enabled physical Querns of each Stone, and the physical Quern of each logical one (R468) -/
  physOk : List (List Bool) := List.replicate 4 (List.replicate 34 false)
  quernMap : Tbl Nat := []
  /-- disabled bond groups, and the spare bonds used of each, by site and group (R32, R33, R531) -/
  groupsOff : List Nat := []
  sparesUsed : Tbl Nat := []
  degraded : Bool := false
  /-- units whose test has ended, and whether the broadcast and the link scan have (R461) -/
  binsTested : List Nat := []
  stonesTested : List Nat := []
  broadcast : Bool := false
  linkDone : Bool := false
  fw : List FwSlots := List.replicate 4 {}
  staging : Option Staging := none
  calInvalid : Bool := false
  calField : Bool := false
  calPhase : Nat := 0
  calResult : Nat := 0
  calDelta : Int := 0
  calBootNo : W32 := 0
  /-- a measured set whose copy into the calibration store has begun (R481) -/
  calStaged : Option CalSet := none
  /-- SerDes presets by Race port and lane, and by host port and lane (R478) -/
  racePresets : List W256 := []
  hostPresets : List W256 := []
  deriving DecidableEq, Repr

/-- The typical rows of R412 at 25 mV: t_s at 70 °C in units of 0.25 ps, 0.55 V to 0.90 V. -/
def typicalTs : List Nat := [4320, 4020, 3720, 3500, 3280, 3110, 2940, 2804, 2668, 2518, 2368, 2236, 2104, 2002, 1900]

/-- The coefficients k of R412 at 25 mV in units of 0.0025 % per °C. -/
def typicalK : List Nat := [0, 3, 6, 9, 12, 15, 18, 21, 24, 27, 30, 33, 36, 38, 40]

/-- A Stone's power state and calibration rows (R412 to R429, R434, R478). -/
structure StonePwr where
  ts : List Nat := typicalTs
  k : List Nat := typicalK
  taps : List Nat := List.replicate 15 0
  /-- the delay-line settings and the guard margin of each row (R478) -/
  delay : List Nat := List.replicate 15 0
  guard : List Nat := List.replicate 15 0
  row : Nat := 0
  tsRef : W16 := 2668
  tsRef0 : W16 := 2668
  agePermil : Nat := 0
  trims : Nat := 0
  vcode : Nat := 0
  temp : Int := 0
  phase : Nat := 0
  /-- the phase changed during the present period of the controller (R417) -/
  phaseMoved : Bool := false
  /-- a marker has come since the controller's last sample, and the intermediate markers counted so far (R45) -/
  marked : Bool := false
  markers : Nat := 0
  throttle : Nat := 0
  powerW : Nat := 0
  /-- the coefficient of full dense FP4 load, in W·ns ÷ V² (R417, R478) -/
  cMax : Nat := 361
  /-- learned coefficients by phase, in W·ps ÷ V² (R417) -/
  coeff : Tbl Rat := []
  hold : Nat := 0
  probesMissed : Nat := 0
  fenced : Bool := false
  /-- at or above 105 °C at the last sample (R424) -/
  hot : Bool := false
  deriving DecidableEq, Repr

/-- The power controller (16). -/
structure Power where
  capW : Nat := 1700
  paceEn : Bool := false
  paceHeld : Bool := false
  ceilCode : Nat := 100
  estFault : Bool := false
  /-- the last ten 1 ms windows as (estimated, measured) power (R423) -/
  estWin : List (Nat × Nat) := []
  /-- the measured figure that the throttle limits itself against until the next period (R421) -/
  basis : Option Nat := none
  /-- ladder steps that R424 adds to the target -/
  hotSteps : Nat := 0
  stones : Tbl StonePwr := []
  /-- package energy in µJ since power-good, and its value at the admission (R426, R447) -/
  energyUj : Nat := 0
  energyAtAdmit : Nat := 0
  estW : Nat := 0
  measW : Nat := 0
  disagree : Nat := 0
  disagreeRun : Nat := 0
  estFaults : Nat := 0
  tsTarget : Nat := 0
  capLimited : Bool := false
  thermalLimited : Bool := false
  spurHot : Bool := false
  binHot : List Bool := [false, false, false, false]
  railLost : List Nat := []
  fixedW : Nat := 0
  deriving DecidableEq, Repr

/-- Pair states (R411). -/
inductive PairPhase where
  | off | paired | isolated | takingOver | sole | left
  deriving DecidableEq, Repr

/-- What waits for the twin's acknowledgement (R401): an accepted entry becoming READY, an output entering the transmit queue, a Flume
control frame, a signal, a response, a commit notice, the first frames of a reduction, its end with its signal, the release of a closed
step's entries. -/
inductive HeldAct where
  | entryReady (e : Nat)
  | txEnter (flume : Nat) (item : TxItem)
  | frame (flume : Nat) (f : Frame)
  | signal (ctx no idx : Nat) (sen : Bool) (tok : Nat)
  | respond (p n : Nat) (f : Frame)
  | notice (ctx step : Nat)
  | redStart (bid : Nat)
  | redEnd (bid ctx no idx : Nat) (sen : Bool) (tok : Nat)
  | release
  deriving DecidableEq, Repr

/-- Pair mode (R399 to R411). -/
structure Pair where
  pairEn : Bool := false
  autoTko : Bool := true
  twinMember : Nat := 0
  holdMs : Nat := 200
  tkoMask : W32 := 0
  phase : PairPhase := .off
  ackJsn : Nat := 0
  incompleteRed : Bool := false
  nextJsn : Nat := 1
  /-- records sent and not acknowledged -/
  sentJ : List (Nat × Frame) := []
  applied : Nat := 0
  sinceAck : Nat := 0
  /-- a malformed record has stopped the journal (R402) -/
  stopped : Bool := false
  /-- the twin's records that wait for their turn, by JSN (R403) -/
  early : List (Nat × Instr) := []
  /-- actions that wait for the twin to acknowledge the record of a JSN (R401) -/
  held : List (Nat × HeldAct) := []
  /-- 2 KiB units written and still to be journaled (R401) -/
  units : List (Nat × Nat) := []
  /-- the twin's buckets that were issued and have not completed, as (takeover context, tag, step) (R410) -/
  twinIssued : List (Nat × Nat × Nat) := []
  /-- the journaled state of the twin's Flumes: SEQ, grants issued, grants used, STATE (R402, R408) -/
  twinFlumes : Tbl (Nat × Nat × Nat × Nat) := []
  deriving DecidableEq, Repr

/-- Pins and references (20). -/
structure Board where
  pwrgood : Bool := false
  control : Bool := false
  thermtrip : Bool := false
  refclk : BitVec 4 := 0xF
  xin : Bool := true
  scan : Bool := false
  haltedByClock : Bool := false
  intact : Bool := true
  vstby : Bool := true
  statusWords : Tbl W16 := []
  /-- the boot flash's pins, asserted or not, and the mode that the Miller uses (R523) -/
  freset : Bool := true
  fwp : Bool := true
  flashMode : FlashMode := .single
  deriving DecidableEq, Repr

/-- The package. -/
structure State where
  part : Part
  freeCtr : Nat
  timeNs : Nat
  mem : List Host.Cell
  mm : Mem
  querns : Tbl Quern
  ctxs : Tbl Ctx
  hoppers : Tbl Hopper
  pool : Tbl Entry
  /-- the handle of the next pool entry: handles name entries and are never used again -/
  nextEntry : Nat
  flumes : Tbl Flume
  eds : Tbl EdEnt
  shards : Tbl Shard
  galley : Galley
  races : Tbl Race
  racePorts : Tbl RacePort
  hosts : Tbl HostPort
  sec : Sec
  mil : Miller
  boot : Boot
  pwr : Power
  pair : Pair
  board : Board
  grantStalls : Nat
  /-- packets that wait for the resolution of a next hop (R359): port (2 is the management port), next hop, packet -/
  ipWait : List (Nat × W128 × Out)
  cookieSecret : W256
  cookiePrev : W256
  cookieEpoch : Nat
  stepEventBase : Nat
  /-- the lowest FINAL_STEP of the last STEP event (R447) -/
  stepEventLow : Option Nat
  out : List Out
  pending : List Instr
  deriving DecidableEq, Repr

/-- The package right after reset: standby power is present, PWRGOOD is not yet asserted, STAGE and MSTATE are 0 (R482, R506). -/
def State.reset : State :=
  { part := {}, freeCtr := 0, timeNs := 0, mem := [], mm := {}, querns := [], ctxs := [], hoppers := [], pool := [], nextEntry := 0, flumes := [],
    eds := [], shards := [], galley := {}, races := [], racePorts := [], hosts := [], sec := {}, mil := {}, boot := {}, pwr := {},
    pair := {}, board := {}, grantStalls := 0, ipWait := [], cookieSecret := 0, cookiePrev := 0, cookieEpoch := 0, stepEventBase := 0, stepEventLow := none, out := [], pending := [] }

end Sys2Proof.Machine
end

