-- ==== Sys2Proof/Machine/Num.lean ====
section
/-!
DEFINITION. Number formats, rounding, conversion and IEEE arithmetic (spec/02_number_formats.md), on exact values.
-/

namespace Sys2Proof.Machine

/-- What a floating-point format reserves of its encodings (R54). -/
inductive FpKind where
  | ieee | nanOnly | finite
  deriving DecidableEq, Repr

/-- A floating-point format: exponent bits, mantissa bits, bias, reserved encodings (R54). -/
structure FpFmt where
  e : Nat
  m : Nat
  bias : Nat
  kind : FpKind
  deriving DecidableEq, Repr

/-- The rounding modes (R63). -/
inductive RMode where
  | rne | rtz | rdn | rup | rna | sr
  deriving DecidableEq, Repr

/-- An exact value: a NaN with its sign and its mantissa left-aligned to 52 bits, an infinity, or ±m × 2^e. -/
inductive Val where
  | nan (neg : Bool) (pay : Nat)
  | inf (neg : Bool)
  | fin (neg : Bool) (m : Nat) (e : Int)
  deriving DecidableEq, Repr

/-- The element and storage formats (R213). -/
inductive Fmt where
  | fp64 | fp32 | bf16 | fp16 | e4m3 | e5m2 | e3m2 | e2m3 | e2m1 | int8 | int4 | int2 | tern
  | mx8e4 | mx8e5 | mx6e3 | mx6e2 | mx4 | mxi8 | vq4 | raw64
  deriving DecidableEq, Repr

def fmt64 : FpFmt := ⟨11, 52, 1023, .ieee⟩
def fmt32 : FpFmt := ⟨8, 23, 127, .ieee⟩
def fmtBf : FpFmt := ⟨8, 7, 127, .ieee⟩
def fmt16 : FpFmt := ⟨5, 10, 15, .ieee⟩
def fmtE5M2 : FpFmt := ⟨5, 2, 15, .ieee⟩
def fmtE4M3 : FpFmt := ⟨4, 3, 7, .nanOnly⟩
def fmtE3M2 : FpFmt := ⟨3, 2, 3, .finite⟩
def fmtE2M3 : FpFmt := ⟨2, 3, 1, .finite⟩
def fmtE2M1 : FpFmt := ⟨2, 1, 1, .finite⟩

/-- FORMAT encodings (R213); none for a reserved value. -/
def fmtOfCode (c : Nat) : Option Fmt :=
  match c with
  | 0 => some .fp64 | 1 => some .fp32 | 2 => some .bf16 | 3 => some .fp16 | 4 => some .e4m3 | 5 => some .e5m2
  | 6 => some .e3m2 | 7 => some .e2m3 | 8 => some .e2m1 | 9 => some .int8 | 10 => some .int4 | 11 => some .int2
  | 12 => some .tern | 13 => some .mx8e4 | 14 => some .mx8e5 | 15 => some .mx6e3 | 16 => some .mx6e2 | 17 => some .mx4
  | 18 => some .mxi8 | 19 => some .vq4 | 20 => some .raw64 | _ => none

/-- The floating-point encoding of a format's elements, if they have one. -/
def Fmt.fp? : Fmt → Option FpFmt
  | .fp64 => some fmt64 | .fp32 => some fmt32 | .bf16 => some fmtBf | .fp16 => some fmt16
  | .e4m3 => some fmtE4M3 | .mx8e4 => some fmtE4M3 | .e5m2 => some fmtE5M2 | .mx8e5 => some fmtE5M2
  | .e3m2 => some fmtE3M2 | .mx6e3 => some fmtE3M2 | .e2m3 => some fmtE2M3 | .mx6e2 => some fmtE2M3
  | .e2m1 => some fmtE2M1 | .mx4 => some fmtE2M1 | .vq4 => some fmtE2M1
  | .int8 => none | .int4 => none | .int2 => none | .tern => none | .mxi8 => none | .raw64 => none

/-- The width of an element in bits. -/
def Fmt.width : Fmt → Nat
  | .fp64 => 64 | .raw64 => 64 | .fp32 => 32 | .bf16 => 16 | .fp16 => 16
  | .e4m3 => 8 | .e5m2 => 8 | .int8 => 8 | .mx8e4 => 8 | .mx8e5 => 8 | .mxi8 => 8
  | .e3m2 => 6 | .e2m3 => 6 | .mx6e3 => 6 | .mx6e2 => 6
  | .e2m1 => 4 | .int4 => 4 | .mx4 => 4 | .vq4 => 4
  | .int2 => 2 | .tern => 2

/-- Elements per block of a block-scaled format, 0 for the others (R60, R61). -/
def Fmt.blockLen : Fmt → Nat
  | .mx8e4 => 32 | .mx8e5 => 32 | .mx6e3 => 32 | .mx6e2 => 32 | .mx4 => 32 | .mxi8 => 32 | .vq4 => 16
  | _ => 0

/-- Bytes of elements per block: the b of R216; 1 for a format that is not block-scaled. -/
def Fmt.blockBytes (f : Fmt) : Nat := if f.blockLen = 0 then 1 else f.blockLen * f.width / 8

def Fmt.isBlock (f : Fmt) : Bool := decide (f.blockLen ≠ 0)

def Fmt.isMx (f : Fmt) : Bool := f.isBlock && f != .vq4

/-- Bytes of a packing group: bases and strides are multiples of it (R59, R214). -/
def Fmt.groupBytes (f : Fmt) : Nat :=
  if f.width = 6 then 3 else if f.width < 8 then 1 else f.width / 8

/-- Formats narrower than a byte are packed (R59). -/
def Fmt.packed (f : Fmt) : Bool := decide (f.width < 8)

/-- The formats in which the vector unit computes (R53). -/
def Fmt.wide (f : Fmt) : Bool := f == .fp64 || f == .fp32 || f == .bf16 || f == .fp16

/-- Elements per cell: the width class of R81 (1, 2 or 4), 0 for a format the array does not take unsplit. -/
def Fmt.perCell : Fmt → Nat
  | .e4m3 => 1 | .e5m2 => 1 | .e3m2 => 1 | .e2m3 => 1 | .int8 => 1 | .mx8e4 => 1 | .mx8e5 => 1 | .mx6e3 => 1
  | .mx6e2 => 1 | .mxi8 => 1 | .e2m1 => 2 | .int4 => 2 | .mx4 => 2 | .vq4 => 2 | .int2 => 4 | .tern => 4
  | .fp64 => 0 | .fp32 => 0 | .bf16 => 0 | .fp16 => 0 | .raw64 => 0

/-! ### Flags (R78): bit 0 invalid, 1 division by zero, 2 overflow, 3 underflow, 4 inexact -/

abbrev Fl := BitVec 5

def flInvalid : Fl := 1
def flDivZero : Fl := 2
def flOverflow : Fl := 4
def flUnderflow : Fl := 8
def flInexact : Fl := 16

/-! ### Encoding and decoding -/

/-- The smallest normal exponent of a format. -/
def FpFmt.emin (f : FpFmt) : Int := 1 - (f.bias : Int)

/-- The largest finite value as mantissa and exponent (R54). -/
def FpFmt.maxFin (f : FpFmt) : Nat × Int :=
  match f.kind with
  | .ieee => (2 ^ (f.m + 1) - 1, (2 ^ f.e - 2 : Int) - f.bias - f.m)
  | .nanOnly => (2 ^ (f.m + 1) - 2, (2 ^ f.e - 1 : Int) - f.bias - f.m)
  | .finite => (2 ^ (f.m + 1) - 1, (2 ^ f.e - 1 : Int) - f.bias - f.m)

/-- The bits of the largest finite magnitude. -/
def FpFmt.maxBits (f : FpFmt) : Nat :=
  match f.kind with
  | .ieee => (2 ^ f.e - 2) * 2 ^ f.m + (2 ^ f.m - 1)
  | .nanOnly => (2 ^ f.e - 1) * 2 ^ f.m + (2 ^ f.m - 2)
  | .finite => 2 ^ (f.e + f.m) - 1

def FpFmt.signBit (f : FpFmt) (neg : Bool) : Nat := if neg then 2 ^ (f.e + f.m) else 0

def FpFmt.infBits (f : FpFmt) (neg : Bool) : Nat := f.signBit neg + (2 ^ f.e - 1) * 2 ^ f.m

/-- The canonical quiet NaN (R55) as a value. -/
def qnan : Val := .nan false (2 ^ 51)

/-- A signalling NaN (R55): its quiet bit is 0. -/
def Val.isSnan : Val → Bool
  | .nan _ p => decide (p < 2 ^ 51)
  | _ => false

def Val.isNan : Val → Bool
  | .nan _ _ => true
  | _ => false

def Val.isFin : Val → Bool
  | .fin _ _ _ => true
  | _ => false

/-- The NaN with its quiet bit set (R77). -/
def Val.quiet : Val → Val
  | .nan s p => .nan s (if p < 2 ^ 51 then p + 2 ^ 51 else p)
  | v => v

/-- The value that an encoding stands for (R54, R55). FP8 E4M3's two NaNs read as quiet NaNs. -/
def FpFmt.dec (f : FpFmt) (b : Nat) : Val :=
  let man := b % 2 ^ f.m
  let ex := b / 2 ^ f.m % 2 ^ f.e
  let neg := b / 2 ^ (f.e + f.m) % 2 == 1
  let num : Val :=
    if ex = 0 then .fin neg man (f.emin - f.m) else .fin neg (2 ^ f.m + man) ((ex : Int) - f.bias - f.m)
  match f.kind with
  | .ieee =>
    if ex = 2 ^ f.e - 1 then (if man = 0 then .inf neg else .nan neg (man * 2 ^ (52 - f.m))) else num
  | .nanOnly => if ex = 2 ^ f.e - 1 ∧ man = 2 ^ f.m - 1 then .nan neg (2 ^ 51) else num
  | .finite => num

/-- The encoding of q × 2^u, where q < 2^(m+1) on the format's grid or q = 2^(m+1). -/
def FpFmt.encFin (f : FpFmt) (neg : Bool) (q : Nat) (u : Int) : Nat :=
  let (q, u) := if q = 2 ^ (f.m + 1) then (2 ^ f.m, u + 1) else (q, u)
  if q < 2 ^ f.m then f.signBit neg + q
  else f.signBit neg + (u + f.m + f.bias).toNat * 2 ^ f.m + (q - 2 ^ f.m)

/-- The encoding of a NaN: sign kept, payload kept in its most significant bits, quiet bit set (R65). -/
def FpFmt.encNan (f : FpFmt) (neg : Bool) (pay : Nat) : Nat :=
  let p := pay / 2 ^ (52 - f.m) % 2 ^ f.m
  let p := if p < 2 ^ (f.m - 1) then p + 2 ^ (f.m - 1) else p
  f.infBits neg + p

/-! ### Rounding -/

/-- Whether a × 2^i ≤ b × 2^j. -/
def leScaled (a : Nat) (i : Int) (b : Nat) (j : Int) : Bool :=
  if i ≥ j then decide (a * 2 ^ (i - j).toNat ≤ b) else decide (a ≤ b * 2 ^ (j - i).toNat)

/-- floor(log2 (m × 2^e)) for m > 0. -/
def log2Scaled (m : Nat) (e : Int) : Int := (Nat.log2 m : Int) + e

/-- Rounds the magnitude (m + δ) × 2^e, 0 < δ < 1 exactly when `st`, to an integer multiple of 2^u: the multiple, and whether
it differs from the magnitude (R63, R64). `r` is the low 24 bits of the draw. -/
def roundAt (rm : RMode) (neg : Bool) (m : Nat) (e : Int) (st : Bool) (u : Int) (r : Nat) : Nat × Bool :=
  let (q0, rem, sh) :=
    if e ≥ u then (m * 2 ^ (e - u).toNat, 0, 0) else (m / 2 ^ (u - e).toNat, m % 2 ^ (u - e).toNat, (u - e).toNat)
  let exact := rem = 0 ∧ st = false
  let twice := 2 * rem
  let unit := 2 ^ sh
  let above := if e ≥ u then false else decide (twice > unit) || (decide (twice = unit) && st)
  let tie := if e ≥ u then false else decide (twice = unit) && !st
  let up :=
    if exact then false
    else match rm with
      | .rne => above || (tie && q0 % 2 == 1)
      | .rna => above || tie
      | .rtz => false
      | .rdn => neg
      | .rup => !neg
      | .sr => decide (rem * 2 ^ 24 / unit + r ≥ 2 ^ 24)
  (if up then q0 + 1 else q0, !(decide exact))

/-- Rounds to a format's grid with an unbounded exponent range above: multiple, its exponent, inexact, tiny after rounding (R76). -/
def FpFmt.round (f : FpFmt) (rm : RMode) (neg : Bool) (m : Nat) (e : Int) (st : Bool) (r : Nat) : Nat × Int × Bool × Bool :=
  let ex := log2Scaled m e
  let u := max ex f.emin - f.m
  let (q, ix) := roundAt rm neg m e st u r
  let u' := ex - f.m
  let (q', _) := roundAt rm neg m e st u' r
  let tiny := !(leScaled 1 f.emin q' u')
  (q, u, ix, tiny)

/-! ### Conversion (R65, R535) -/

/-- A conversion's outcome: the bits, the IEEE flags, and the effects on the status slot (saturation, underflow, non-finite). -/
structure Cv where
  bits : Nat
  fl : Fl := 0
  sat : Bool := false
  ufl : Bool := false
  nf : Bool := false
  deriving DecidableEq, Repr

/-- Whether overflow under a mode gives an infinity (R65). -/
def overflowsToInf (rm : RMode) (neg : Bool) : Bool :=
  match rm with
  | .rne => true | .rna => true | .sr => true | .rtz => false | .rup => !neg | .rdn => neg

/-- Conversion into a floating-point format. `el`: the target is an element of a block-scaled format, which has neither
infinity nor NaN as a target (R65). `st`: the source lies strictly between m and m + 1 units. -/
def convFp (f : FpFmt) (el : Bool) (rm : RMode) (sat : Bool) (r : Nat) (x : Val) (st : Bool) : Cv :=
  let hasInf := f.kind == .ieee && !el
  match x with
  | .nan neg p =>
    if hasInf then { bits := f.encNan neg p, fl := if p < 2 ^ 51 then flInvalid else 0, nf := true }
    else { bits := 0, fl := flInvalid, nf := true }
  | .inf neg =>
    if hasInf then { bits := f.infBits neg, nf := true }
    else { bits := f.signBit neg + f.maxBits, fl := flInvalid, sat := true, nf := true }
  | .fin neg m e =>
    if m = 0 ∧ st = false then { bits := f.signBit neg }
    else
      let (q, u, ix, tiny) := f.round rm neg m e st r
      let ixf : Fl := (if ix then flInexact else 0) ||| (if ix && tiny then flUnderflow else 0)
      if q = 0 then { bits := f.signBit neg, fl := ixf, ufl := true }
      else if leScaled q u f.maxFin.1 f.maxFin.2 then { bits := f.encFin neg q u, fl := ixf }
      else if hasInf && !sat && overflowsToInf rm neg then
        { bits := f.infBits neg, fl := flOverflow ||| flInexact, sat := true, nf := true }
      else { bits := f.signBit neg + f.maxBits, fl := flOverflow ||| flInexact, sat := true }

/-- Conversion into an integer format of `w` bits, or a ternary element (R57, R58, R65). -/
def convInt (w : Nat) (signed tern : Bool) (rm : RMode) (r : Nat) (x : Val) (st : Bool) : Cv :=
  let hi : Nat := if tern then 1 else if signed then 2 ^ (w - 1) - 1 else 2 ^ w - 1
  let lo : Nat := if tern then 1 else if signed then 2 ^ (w - 1) else 0
  let enc (neg : Bool) (n : Nat) : Nat := if neg then (2 ^ w - n) % 2 ^ w else n
  match x with
  | .nan _ _ => { bits := 0, fl := flInvalid, nf := true }
  | .inf neg => { bits := enc neg (if neg then lo else hi), fl := flInvalid, sat := true, nf := true }
  | .fin neg m e =>
    let (q, ix) := roundAt rm neg m e st 0 r
    if q = 0 then { bits := 0, fl := if ix then flInexact else 0, ufl := ix }
    else if q ≤ (if neg then lo else hi) then { bits := enc neg q, fl := if ix then flInexact else 0 }
    else { bits := enc neg (if neg then lo else hi), fl := flInvalid, sat := true }

/-- Conversion of one element into a format, after any division by scales: `st` as in convFp. RAW64 words are not converted. -/
def convEl (f : Fmt) (signed : Bool) (rm : RMode) (sat : Bool) (r : Nat) (x : Val) (st : Bool) : Cv :=
  match f with
  | .int8 => convInt 8 signed false rm r x st
  | .int4 => convInt 4 signed false rm r x st
  | .int2 => convInt 2 signed false rm r x st
  | .tern => convInt 2 true true rm r x st
  | .mxi8 =>
    match x with
    | .fin neg m e => convInt 8 true false rm r (.fin neg m (e + 6)) st
    | v => convInt 8 true false rm r v st
  | .raw64 => { bits := 0 }
  | .fp64 => convFp fmt64 false rm sat r x st
  | .fp32 => convFp fmt32 false rm sat r x st
  | .bf16 => convFp fmtBf false rm sat r x st
  | .fp16 => convFp fmt16 false rm sat r x st
  | .e4m3 => convFp fmtE4M3 false rm sat r x st
  | .e5m2 => convFp fmtE5M2 false rm sat r x st
  | .e3m2 => convFp fmtE3M2 false rm sat r x st
  | .e2m3 => convFp fmtE2M3 false rm sat r x st
  | .e2m1 => convFp fmtE2M1 false rm sat r x st
  | .mx8e4 => convFp fmtE4M3 true rm sat r x st
  | .mx8e5 => convFp fmtE5M2 true rm sat r x st
  | .mx6e3 => convFp fmtE3M2 true rm sat r x st
  | .mx6e2 => convFp fmtE2M3 true rm sat r x st
  | .mx4 => convFp fmtE2M1 true rm sat r x st
  | .vq4 => convFp fmtE2M1 true rm sat r x st

/-- The value of a two's-complement or unsigned integer element (R57). -/
def intVal (w : Nat) (signed : Bool) (b : Nat) : Val :=
  if signed && decide (b ≥ 2 ^ (w - 1)) then .fin true (2 ^ w - b) 0 else .fin false b 0

/-- The value of an element before its scales (R54 to R58, R60); 0b10 of a ternary element reads as 0. -/
def decEl (f : Fmt) (signed : Bool) (b : Nat) : Val :=
  match f with
  | .int8 => intVal 8 signed b
  | .int4 => intVal 4 signed b
  | .int2 => intVal 2 signed b
  | .tern => if b = 1 then .fin false 1 0 else if b = 3 then .fin true 1 0 else .fin false 0 0
  | .mxi8 =>
    match intVal 8 true b with
    | .fin n m e => .fin n m (e - 6)
    | v => v
  | .raw64 => .fin false b 0
  | f =>
    match f.fp? with
    | some g => g.dec b
    | none => .fin false 0 0

/-! ### Arithmetic (R75 to R79) -/

/-- The signed integer of a finite value at exponent `e0 ≤ e`. -/
def signedAt (neg : Bool) (m : Nat) (e e0 : Int) : Int :=
  let k : Int := (m * 2 ^ (e - e0).toNat : Nat)
  if neg then -k else k

/-- The exact sum of two finite values with the sign of an exact zero under a mode (IEEE 754-2019, 6.3). -/
def addFin (rm : RMode) (n1 : Bool) (m1 : Nat) (e1 : Int) (n2 : Bool) (m2 : Nat) (e2 : Int) : Val :=
  let e0 := min e1 e2
  let t := signedAt n1 m1 e1 e0 + signedAt n2 m2 e2 e0
  if t = 0 then .fin (if n1 == n2 then n1 else rm == .rdn) 0 0
  else .fin (decide (t < 0)) t.natAbs e0

/-- The first NaN of the operands, quieted (R77), with invalid raised if any operand is a signalling NaN. -/
def firstNan (l : List Val) : Option (Val × Fl) :=
  match l.find? Val.isNan with
  | some v => some (v.quiet, if l.any Val.isSnan then flInvalid else 0)
  | none => none

/-- The exact sum (VADD before its rounding). -/
def addV (rm : RMode) (a b : Val) : Val × Fl :=
  match firstNan [a, b] with
  | some r => r
  | none =>
    match a, b with
    | .inf s, .inf t => if s == t then (.inf s, 0) else (qnan, flInvalid)
    | .inf s, _ => (.inf s, 0)
    | _, .inf s => (.inf s, 0)
    | .fin n1 m1 e1, .fin n2 m2 e2 => (addFin rm n1 m1 e1 n2 m2 e2, 0)
    | _, _ => (qnan, 0)

/-- The exact product (VMUL before its rounding). -/
def mulV (a b : Val) : Val × Fl :=
  match firstNan [a, b] with
  | some r => r
  | none =>
    match a, b with
    | .inf s, .inf t => (.inf (s != t), 0)
    | .inf s, .fin t m _ => if m = 0 then (qnan, flInvalid) else (.inf (s != t), 0)
    | .fin t m _, .inf s => if m = 0 then (qnan, flInvalid) else (.inf (s != t), 0)
    | .fin n1 m1 e1, .fin n2 m2 e2 => (.fin (n1 != n2) (m1 * m2) (e1 + e2), 0)
    | _, _ => (qnan, 0)

/-- The exact a × b + c (VFMA before its one rounding). -/
def fmaV (rm : RMode) (a b c : Val) : Val × Fl :=
  match firstNan [a, b, c] with
  | some r => r
  | none =>
    let (p, fp) := mulV a b
    if p.isNan then (p, fp) else addV rm p c

/-- Whether a < b for values that are not NaN, with −0 below +0. -/
def ltTotal (a b : Val) : Bool :=
  match a, b with
  | .inf s, .inf t => s && !t
  | .inf s, _ => s
  | _, .inf t => !t
  | .fin n1 m1 e1, .fin n2 m2 e2 =>
    let e0 := min e1 e2
    let x := signedAt n1 m1 e1 e0
    let y := signedAt n2 m2 e2 e0
    decide (x < y) || (decide (x = y) && n1 && !n2)
  | _, _ => false

/-- IEEE 754-2019 maximum (R75). -/
def maxV (a b : Val) : Val × Fl :=
  match firstNan [a, b] with
  | some r => r
  | none => (if ltTotal a b then b else a, 0)

/-- IEEE 754-2019 minimum (R75). -/
def minV (a b : Val) : Val × Fl :=
  match firstNan [a, b] with
  | some r => r
  | none => (if ltTotal b a then b else a, 0)

/-- IEEE comparison x ≥ y, with ±0 equal and false for a NaN. -/
def geV (x y : Val) : Bool :=
  match x, y with
  | .nan _ _, _ => false
  | _, .nan _ _ => false
  | .inf s, .inf t => !s || t
  | .inf s, _ => !s
  | _, .inf t => t
  | .fin n1 m1 e1, .fin n2 m2 e2 =>
    let e0 := min e1 e2
    decide (signedAt n1 m1 e1 e0 ≥ signedAt n2 m2 e2 e0)

/-- IEEE comparison x > y. -/
def gtV (x y : Val) : Bool := geV x y && !(geV y x)

/-- Rounds an exact value to a computation format: its value there and the flags (R75, R76, R79). -/
def roundTo (f : FpFmt) (rm : RMode) (x : Val) : Val × Fl :=
  let c := convFp f false rm false 0 x false
  (f.dec c.bits, c.fl)

/-- An operation followed by its one rounding. -/
def opRound (f : FpFmt) (rm : RMode) (r : Val × Fl) : Val × Fl :=
  let (v, g) := roundTo f rm r.1
  (v, g ||| r.2)

/-- FP32 and FP64 operations under RNE on encodings' values, as R133, R147, R150, R151 and R106 use them. -/
def add32 (a b : Val) : Val × Fl := opRound fmt32 .rne (addV .rne a b)
def mul32 (a b : Val) : Val × Fl := opRound fmt32 .rne (mulV a b)
def fma32 (a b c : Val) : Val × Fl := opRound fmt32 .rne (fmaV .rne a b c)
def add64 (a b : Val) : Val × Fl := opRound fmt64 .rne (addV .rne a b)

def enc32 (v : Val) : Nat := (convFp fmt32 false .rne false 0 v false).bits
def enc64 (v : Val) : Nat := (convFp fmt64 false .rne false 0 v false).bits
def dec32 (b : W32) : Val := fmt32.dec b.toNat
def dec64 (b : W64) : Val := fmt64.dec b.toNat

def valZero : Val := .fin false 0 0
def valOne : Val := .fin false 1 0

/-- Negation of a value. -/
def Val.neg : Val → Val
  | .nan s p => .nan (!s) p
  | .inf s => .inf (!s)
  | .fin s m e => .fin (!s) m e

/-! ### Status slots (R68 to R72) -/

/-- The FP32 encoding of a finite magnitude rounded toward +∞, at most the largest finite value (R69). -/
def amaxBits (x : Val) : Option W32 :=
  match x with
  | .fin _ m e => some (BitVec.ofNat 32 (convFp fmt32 false .rup true 0 (.fin false m e) false).bits)
  | _ => none

/-- AMAX after a finite source magnitude: replaced unless AMAX ≥ m holds (R69). -/
def StatusSlot.seen (t : StatusSlot) (x : Val) : StatusSlot :=
  match amaxBits x with
  | some b => if geV (dec32 t.amax) (dec32 b) then t else { t with amax := b }
  | none => t

/-- Counts with a stop at 0xFFFF_FFFF and the escalation of R71. -/
def StatusSlot.settle (t : StatusSlot) : StatusSlot :=
  { t with
    stopped := t.stopped || t.sat == 0xFFFFFFFF || t.ufl == 0xFFFFFFFF
    escalate := t.escalate || decide (t.sat.toNat > t.satLimit.toNat) || decide (t.ufl.toNat > t.uflLimit.toNat) }

def bump32 (n : W32) (k : Bool) : W32 := if k && n != 0xFFFFFFFF then n + 1 else n

/-- The effects of one converted element on its slot (R65, R68 to R71). -/
def StatusSlot.note (t : StatusSlot) (src : Val) (c : Cv) : StatusSlot :=
  let t := t.seen src
  let t := { t with sat := bump32 t.sat c.sat, ufl := bump32 t.ufl c.ufl, nonfinite := t.nonfinite || c.nf }
  t.settle

/-- An element written through the slot without conversion: only NONFINITE (R70). -/
def StatusSlot.noteBits (t : StatusSlot) (v : Val) : StatusSlot :=
  if v.isFin then t else { t with nonfinite := true }

/-- ROLL (R69). -/
def StatusSlot.roll (t : StatusSlot) : StatusSlot :=
  { t with hist := t.amax :: t.hist.take 15, amax := 0, histFill := min 16 (t.histFill + 1) }

/-- The largest history entry under the IEEE comparison, starting from +0 (R62). -/
def StatusSlot.histMax (t : StatusSlot) : W32 :=
  (t.hist.take t.histFill).foldl (fun m h => if gtV (dec32 h) (dec32 m) then h else m) 0

/-- The most recent history entry; entries beyond HIST_FILL count as zero (R62). -/
def StatusSlot.histNew (t : StatusSlot) : W32 := if t.histFill = 0 then 0 else t.hist.headD 0

/-- A ÷ d rounded once to FP32 under RNE, for finite positive A. -/
def divRne32 (a : Val) (d : Nat) : W32 :=
  match a with
  | .fin _ m e =>
    let k : Nat := 200
    let q := m * 2 ^ k / d
    BitVec.ofNat 32 (convFp fmt32 false .rne false 0 (.fin false q (e - (k : Int))) (decide (m * 2 ^ k % d ≠ 0))).bits
  | _ => 0x3F800000

/-- The VQ4 tensor scale that an A gives (R62). -/
def tensorScaleOf (a : W32) : W32 :=
  match dec32 a with
  | .fin false m e =>
    if m = 0 then 0x3F800000
    else
      let q := divRne32 (.fin false m e) 2688
      if q = 0 then 0x3F800000 else q
  | _ => 0x3F800000

/-! ### The counter generator (R136, R137) -/

/-- The generator: four rounds (R137). -/
def counterGenerator (k c : W64) : W64 :=
  (List.range 4).foldl (fun x i =>
    let x := x ^^^ (k.rotateLeft (13 * i))
    let x := x * 0x9E3779B97F4A7C15
    x ^^^ (x >>> 29)) c

/-- The key of a draw (R136). -/
def drawKey (seed : W64) (sid step : W32) : W64 := seed ^^^ ((sid.setWidth 64) <<< 32) ^^^ step.setWidth 64

/-- The counter of a draw (R136). -/
def drawCounter (draw : Nat) (elem : Nat) : W64 := BitVec.ofNat 64 (draw % 65536 * 2 ^ 48 + elem % 2 ^ 48)

end Sys2Proof.Machine
end

