-- ==== Sys2Proof/Machine/Funcs.lean ====
section
/-!
DEFINITION. The special functions VEXP, VLOG, VRCP and VRSQ (R130, R132): the exact value is enclosed by 256-bit integer
arithmetic, rounded once to FP64 and then once to FP32 (assumption 13).
-/

namespace Sys2Proof.Machine

/-- Fraction bits of the enclosing fixed-point arithmetic. -/
def fixBits : Nat := 256

/-- One in fixed point. -/
def fixOne : Nat := 2 ^ fixBits

/-- Σ t(2j+1) ÷ (2j+1), where each power is the one before it multiplied by z2: the series of atanh. -/
def atanhSum (z2 : Nat) : Nat → Nat → Nat → Nat → Nat
  | 0, _, _, acc => acc
  | fuel + 1, pw, d, acc => if pw = 0 then acc else atanhSum z2 fuel (pw * z2 / fixOne) (d + 2) (acc + pw / d)

/-- atanh of a fixed-point z in [0, 1). -/
def atanhFix (z : Nat) : Nat := atanhSum (z * z / fixOne) 200 z 1 0

/-- ln 2 in fixed point, as 2 × atanh(1/3). -/
def ln2Fix : Nat := 2 * atanhFix (fixOne / 3)

/-- Σ r^j ÷ j! in fixed point. -/
def expSum (r : Nat) : Nat → Nat → Nat → Nat → Nat
  | 0, _, _, acc => acc
  | fuel + 1, term, j, acc => if term = 0 then acc else expSum r fuel (term * r / fixOne / j) (j + 1) (acc + term)

/-- e^r of a fixed-point r in [0, 1). -/
def expFix (r : Nat) : Nat := expSum r 120 fixOne 1 0

/-- The integer square root of n by bisection on bits: the largest s with s × s ≤ n, below 2^fuel. -/
def sqrtBits (n : Nat) : Nat → Nat → Nat
  | 0, s => s
  | k + 1, s => sqrtBits n k (if (s + 2 ^ k) * (s + 2 ^ k) ≤ n then s + 2 ^ k else s)

/-- floor of the square root of n. -/
def isqrt (n : Nat) : Nat := sqrtBits n (Nat.log2 n / 2 + 1) 0

/-- The two roundings and flags of R130 for an exact |f(x)| of m × 2^e, plus a part below one unit when `st`.
`exact`: a case that the table of R132 marks exact. -/
def finishSpecial (neg : Bool) (m : Nat) (e : Int) (st exact : Bool) : Val × Fl :=
  let c64 := convFp fmt64 false .rne false 0 (.fin neg m e) st
  let v64 := fmt64.dec c64.bits
  let c := convFp fmt32 false .rne false 0 v64 false
  let tiny :=
    match v64 with
    | .fin n m' e' => if m' = 0 then true else (fmt32.round .rne n m' e' false 0).2.2.2
    | _ => false
  (fmt32.dec c.bits, if exact then 0 else flInexact ||| (c.fl &&& flOverflow) ||| (if tiny then flUnderflow else 0))

/-- e^x, or 2^x, of a finite non-zero x whose magnitude is below 2^8 (R130). -/
def expCore (base2 neg : Bool) (m : Nat) (e : Int) : Val × Fl :=
  let mag : Int := (m * 2 ^ ((fixBits : Int) + e).toNat : Nat)
  let x : Int := if neg then -mag else mag
  let one : Int := fixOne
  let unit : Int := if base2 then one else ln2Fix
  let k := x / unit
  let r := (x - k * unit).toNat
  let r := if base2 then r * ln2Fix / fixOne else r
  finishSpecial false (expFix r) (k - fixBits) (!(base2 && decide (r = 0))) false

/-- VEXP on the FP32 value x (R130, R132). -/
def expV (base2 : Bool) (x : Val) : Val × Fl :=
  match x with
  | .nan s p => ((Val.nan s p).quiet, if p < 2 ^ 51 then flInvalid else 0)
  | .inf s => (if s then valZero else .inf false, 0)
  | .fin s m e =>
    if m = 0 then (valOne, 0)
    else if log2Scaled m e ≥ 8 then
      (if s then (valZero, flUnderflow ||| flInexact) else (.inf false, flOverflow ||| flInexact))
    else expCore base2 s m e

/-- VEXP of a with the factor k: x = rne32(k × a), its flags first (R130). -/
def vexpV (base2 : Bool) (k a : Val) : Val × Fl :=
  let (x, g) := mul32 k a
  if x.isNan then (x, g)
  else
    let (y, h) := expV base2 x
    (y, g ||| h)

/-- ln x or log2 x of a finite x > 0 other than 1. -/
def logCore (base2 : Bool) (m : Nat) (e : Int) : Val × Fl :=
  let k := log2Scaled m e
  let y := m * 2 ^ (fixBits - Nat.log2 m)
  let z := (y - fixOne) * fixOne / (y + fixOne)
  let l : Int := k * ln2Fix + 2 * (atanhFix z : Int)
  if base2 then
    if y = fixOne then finishSpecial (decide (k < 0)) k.natAbs 0 false false
    else finishSpecial (decide (l < 0)) (l.natAbs * fixOne / ln2Fix) (-(fixBits : Int)) true false
  else finishSpecial (decide (l < 0)) l.natAbs (-(fixBits : Int)) true false

/-- VLOG (R130, R132). -/
def logV (base2 : Bool) (x : Val) : Val × Fl :=
  match x with
  | .nan s p => ((Val.nan s p).quiet, if p < 2 ^ 51 then flInvalid else 0)
  | .inf s => if s then (qnan, flInvalid) else (.inf false, 0)
  | .fin s m e =>
    if m = 0 then (.inf true, flDivZero)
    else if s then (qnan, flInvalid)
    else if 2 ^ Nat.log2 m = m ∧ log2Scaled m e = 0 then (valZero, 0)
    else logCore base2 m e

/-- VRCP (R130, R132). -/
def rcpV (x : Val) : Val × Fl :=
  match x with
  | .nan s p => ((Val.nan s p).quiet, if p < 2 ^ 51 then flInvalid else 0)
  | .inf s => (.fin s 0 0, 0)
  | .fin s m e =>
    if m = 0 then (.inf s, flDivZero)
    else
      let n := 2 ^ fixBits
      let k := log2Scaled m e
      finishSpecial s (n / m) (-e - fixBits) (decide (n % m ≠ 0)) (2 ^ Nat.log2 m = m ∧ -126 ≤ -k ∧ -k ≤ 127)

/-- VRSQ (R130, R132): 1 ÷ √(m × 2^e) with e made even. -/
def rsqV (x : Val) : Val × Fl :=
  match x with
  | .nan s p => ((Val.nan s p).quiet, if p < 2 ^ 51 then flInvalid else 0)
  | .inf s => if s then (qnan, flInvalid) else (valZero, 0)
  | .fin s m e =>
    if m = 0 then (.inf s, flDivZero)
    else if s then (qnan, flInvalid)
    else
      let (m, e) := if e % 2 = 0 then (m, e) else (2 * m, e - 1)
      let n := 2 ^ (2 * fixBits)
      let q := isqrt (n / m)
      finishSpecial false q (-(e / 2) - fixBits) (decide (q * q * m ≠ n)) (2 ^ Nat.log2 m = m ∧ log2Scaled m e % 2 = 0)

/-- VRSQ as an operation of R150, R151 and R133: its FP32 value. -/
def rsq32 (x : Val) : Val × Fl := rsqV x

/-- sat32 (R150): rounds to FP32 and replaces an overflow with the largest finite value. -/
def sat32 (x : Val) : Val × Fl :=
  let c := convFp fmt32 false .rne true 0 x false
  (fmt32.dec c.bits, c.fl)

end Sys2Proof.Machine
end

