-- ==== Sys2Proof/Machine/Ops.lean ====
section
/-!
DEFINITION. Named operations over the state that the families share: lookups and updates of its units, memory, the
Imposition table and the Store, events, saturating counters.
-/

namespace Sys2Proof.Machine

/-- The outcome type of every meaning. -/
abbrev Res := Host.Outcome State Fault Refusal

/-- What a clocked domain does: nothing while the 156.25 MHz reference is stopped (R37). -/
def whileClocked (s : State) (k : Res) : Res := if s.board.haltedByClock then .next s else k

/-- One period of the Miller's 25 MHz reference; the PTP clock runs with it while locked. -/
def clockTick (s : State) : State :=
  { s with timeNs := s.timeNs + 40, mil := { s.mil with ptpNs := if s.mil.ptpLocked then s.mil.ptpNs + 40 else s.mil.ptpNs } }

/-- Adds to a counter that stops at a bound (R246, R324, R356, R375, R458, R506). -/
def satAdd (n k bound : Nat) : Nat := min (n + k) bound

/-! ### Units of the state -/

def State.quern (s : State) (q : Nat) : Quern := s.querns.getD q {}
def State.setQuern (s : State) (q : Nat) (v : Quern) : State := { s with querns := s.querns.set q v }
def State.updQuern (s : State) (q : Nat) (f : Quern → Quern) : State := s.setQuern q (f (s.quern q))

def State.ctx (s : State) (c : Nat) : Ctx := s.ctxs.getD c {}
def State.setCtx (s : State) (c : Nat) (v : Ctx) : State := { s with ctxs := s.ctxs.set c v }
def State.updCtx (s : State) (c : Nat) (f : Ctx → Ctx) : State := s.setCtx c (f (s.ctx c))

def State.hopper (s : State) (h : Nat) : Hopper := s.hoppers.getD h {}
def State.setHopper (s : State) (h : Nat) (v : Hopper) : State := { s with hoppers := s.hoppers.set h v }

def State.entry? (s : State) (e : Nat) : Option Entry := s.pool.find? e
def State.setEntry (s : State) (e : Nat) (v : Entry) : State := { s with pool := s.pool.set e v }
def State.updEntry (s : State) (e : Nat) (f : Entry → Entry) : State :=
  match s.entry? e with
  | some v => s.setEntry e (f v)
  | none => s

def State.flume (s : State) (f : Nat) : Flume := s.flumes.getD f {}
def State.setFlume (s : State) (f : Nat) (v : Flume) : State := { s with flumes := s.flumes.set f v }
def State.updFlume (s : State) (f : Nat) (g : Flume → Flume) : State := s.setFlume f (g (s.flume f))

def State.ed (s : State) (e : Nat) : EdEnt := s.eds.getD e {}
def State.setEd (s : State) (e : Nat) (v : EdEnt) : State := { s with eds := s.eds.set e v }

def State.shard (s : State) (i : Nat) : Shard := s.shards.getD i {}
def State.setShard (s : State) (i : Nat) (v : Shard) : State := { s with shards := s.shards.set i v }

def State.race (s : State) (r : Nat) : Race := s.races.getD r {}
def State.setRace (s : State) (r : Nat) (v : Race) : State := { s with races := s.races.set r v }
def State.updRace (s : State) (r : Nat) (f : Race → Race) : State := s.setRace r (f (s.race r))

def State.racePort (s : State) (p : Nat) : RacePort := s.racePorts.getD p {}
def State.setRacePort (s : State) (p : Nat) (v : RacePort) : State := { s with racePorts := s.racePorts.set p v }

def State.host (s : State) (p : Nat) : HostPort := s.hosts.getD p {}
def State.setHost (s : State) (p : Nat) (v : HostPort) : State := { s with hosts := s.hosts.set p v }
def State.updHost (s : State) (p : Nat) (f : HostPort → HostPort) : State := s.setHost p (f (s.host p))

def State.session (s : State) (p n : Nat) : Session := (s.host p).sessions.getD n {}
def State.setSession (s : State) (p n : Nat) (v : Session) : State :=
  s.updHost p (fun h => { h with sessions := h.sessions.set n v })

def State.stone (s : State) (n : Nat) : StonePwr := s.pwr.stones.getD n {}
def State.setStone (s : State) (n : Nat) (v : StonePwr) : State :=
  { s with pwr := { s.pwr with stones := s.pwr.stones.set n v } }
def State.updStone (s : State) (n : Nat) (f : StonePwr → StonePwr) : State := s.setStone n (f (s.stone n))

/-- Something leaves the package. -/
def State.emit (s : State) (o : Out) : State := { s with out := s.out ++ [o] }

/-- The Miller writes the boot flash: FWP# is deasserted only while it does (R523). -/
def flashWrite (s : State) : State := (s.emit (.fwp false)).emit (.fwp true)

/-- Draws the next free value's number. -/
def State.nextFree (s : State) : State := { s with freeCtr := s.freeCtr + 1 }

/-! ### Events (R496 to R499) -/

def evPwrgoodLost : Nat := 0x0100
def evClockAbsent : Nat := 0x0101
def evClockLoss : Nat := 0x0102
def evClockResume : Nat := 0x0103
def evFuseContradiction : Nat := 0x0104
def evDefectsNearFull : Nat := 0x0105
def evCalInvalid : Nat := 0x0106
def evBringUpFailed : Nat := 0x0107
def evReady : Nat := 0x0108
def evUncorrectable : Nat := 0x0200
def evRowRemapped : Nat := 0x0201
def evFrameRetired : Nat := 0x0202
def evPageUnbacked : Nat := 0x0203
def evWayDisabled : Nat := 0x0204
def evImpRepaired : Nat := 0x0205
def evFormeDisabled : Nat := 0x0206
def evBondSpare : Nat := 0x0207
def evBondGroup : Nat := 0x0208
def evStoneReset : Nat := 0x0300
def evDegrade : Nat := 0x0301
def evQuernSubstituted : Nat := 0x0302
def evQuernBroadcast : Nat := 0x0303
def evAddressError : Nat := 0x0400
def evProgramError : Nat := 0x0401
def evWriteIgnored : Nat := 0x0402
def evAbandoned : Nat := 0x0403
def evFlumeState : Nat := 0x0500
def evFlumeMismatch : Nat := 0x0501
def evSequenceGap : Nat := 0x0502
def evGalleyStall : Nat := 0x0503
def evRedMismatch : Nat := 0x0504
def evRedNonfinite : Nat := 0x0505
def evStepSkipped : Nat := 0x0506
def evStepSkippedFloor : Nat := 0x0507
def evGalleyDegraded : Nat := 0x0508
def evLane : Nat := 0x0600
def evRaceFailed : Nat := 0x0601
def evAttestFailure : Nat := 0x0602
def evRetrain : Nat := 0x0603
def evFrameDropped : Nat := 0x0604
def evEstimatorFault : Nat := 0x0700
def evPaceLost : Nat := 0x0701
def evPaceRegained : Nat := 0x0702
def evThermal : Nat := 0x0703
def evCapChanged : Nat := 0x0704
def evFrisketViolation : Nat := 0x0800
def evFrisketChange : Nat := 0x0801
def evAdmissionRefused : Nat := 0x0802
def evAdmitted : Nat := 0x0803
def evJobEnded : Nat := 0x0804
def evScrubRecord : Nat := 0x0805
def evGuestDenied : Nat := 0x0806
def evGuestNoConfirm : Nat := 0x0807
def evFwStaged : Nat := 0x0808
def evFwRejected : Nat := 0x0809
def evFwActivated : Nat := 0x080A
def evMirrorUnmapped : Nat := 0x0900
def evTakeover : Nat := 0x0901
def evFenced : Nat := 0x0902
def evTwinUnreachable : Nat := 0x0903
def evJournalMalformed : Nat := 0x0904
def evMillerWatchdog : Nat := 0x0A00
def evRequestRefused : Nat := 0x0A01
def evLogOverflow : Nat := 0x0A02

/-- Scopes of an event (R496). -/
def scPackage : Nat := 0
def scStone : Nat := 1
def scQuern : Nat := 2
def scBin : Nat := 3
def scCtx : Nat := 4
def scFlume : Nat := 5
def scRace : Nat := 6
def scHost : Nat := 7
def scBucket : Nat := 8
def scShard : Nat := 9
def scPage : Nat := 10

/-- Whether an event has job-side copies (R497). -/
def jobSide (code : Nat) : Bool :=
  code == evUncorrectable || code == evPageUnbacked || code == evStoneReset || code == evDegrade || code == evQuernSubstituted
    || code / 256 == 4 || code / 256 == 5 || code == evRaceFailed || code == evAttestFailure || code == evAdmitted
    || code == evJobEnded || code / 256 == 9

/-- The sessions that have subscribed, in port and session order (R371). -/
def subscribers (s : State) : List (Nat × Nat) :=
  (List.range 2).flatMap (fun p => ((s.host p).sessions.filter (fun x => x.2.subscribed)).map (fun x => (p, x.1)))

/-- A packet enters the queue of a session, with its class of R348. -/
def enqueueSession (s : State) (p n cls : Nat) (f : Frame) : State :=
  s.setSession p n { s.session p n with queue := (s.session p n).queue ++ [(cls, f)] }

/-- An EVENT packet for every subscribed session: it leaves with the session's next packets (R371). -/
def toSubscribers (s : State) (f : Frame) : State := (subscribers s).foldl (fun s x => enqueueSession s x.1 x.2 3 f) s

/-- TIME of an event: PTP ns when locked, otherwise ms since power-good (R496). -/
def eventTime (s : State) : Nat := if s.mil.ptpLocked then s.mil.ptpNs else s.timeNs / 1000000

/-- The job-side copy of an event: TIME rounded down to 100 ms and FLAGS bit 1 set (R499). -/
def jobCopy (e : Event) : Event :=
  { e with time := if e.ptp then e.time / 100000000 * 100000000 else e.time / 100 * 100, copy := true }

/-- Appends a record to a ring of a given size, newest first; the count of the records overwritten unread (R498). -/
def ringPush (ring : List Event) (e : Event) (size readTo : Nat) : List Event × Nat :=
  let full := e :: ring
  (full.take size, ((full.drop size).filter (fun x => decide (x.seq > readTo))).length)

/-- Records an event: its record, the rings, the Miller's pushes, dropped and counted without a link, and the job-side copies (R486, R496 to
R500). -/
def recordEvent (s : State) (code scope id : Nat) (detail : List Nat) : State :=
  let sev := Config.severity code
  let e : Event :=
    { time := eventTime s, seq := s.mil.evSeq + 1, code := code, severity := sev, ptp := s.mil.ptpLocked, copy := false,
      scope := scope, scopeId := id, detail := detail }
  let (ring, lost) := ringPush s.mil.ring e 65536 s.mil.readTo
  let (flash, _) := if sev ≥ 2 then ringPush s.mil.flashRing e 16384 0 else (s.mil.flashRing, 0)
  let pushes := (s.mil.subs.filter (fun x => decide (sev ≥ x.2.minSeverity))).map (fun x => Out.push x.2.dst e)
  let s1 := { s with
    mil := { s.mil with
      ring := ring, flashRing := flash, evSeq := s.mil.evSeq + 1, lost := satAdd s.mil.lost lost 65535
      telemSkipped := if s.mil.link then s.mil.telemSkipped else satAdd s.mil.telemSkipped pushes.length 65535 }
    out := if s.mil.link then s.out ++ pushes else s.out }
  if jobSide code && s.sec.phase == .admitted then toSubscribers s1 (.event (jobCopy e)) else s1

/-- Logs an event (R496 to R500), and behind it a log overflow when LOST leaves zero (R497, R498, assumption 141). -/
def logEvent (s : State) (code scope id : Nat) (detail : List Nat) : State :=
  let s1 := recordEvent s code scope id detail
  if s.mil.lost = 0 ∧ s1.mil.lost ≠ 0 then recordEvent s1 evLogOverflow scPackage 0 [] else s1

/-- Appends a record to the defect list: kind, source, action, location (R470, R472). Near its end an event is logged; a full list takes
no record. -/
def addDefect (s : State) (kind source action location : Nat) (detail : W128) : State :=
  let n := s.boot.defects.length
  if n ≥ 65536 then { s with boot := { s.boot with listFull := true, degraded := true } }
  else
    let d : Defect := { kind := kind, source := source, action := action, bootNo := s.boot.bootNo.toNat, location := location, detail := detail }
    let s1 := { flashWrite s with boot := { s.boot with
      defects := s.boot.defects ++ [d], newRecords := satAdd s.boot.newRecords 1 255
      listFull := s.boot.listFull || decide (n + 1 = 65536), degraded := s.boot.degraded || decide (n + 1 = 65536) } }
    if n + 1 = 65536 - 1023 then logEvent s1 evDefectsNearFull scPackage 0 [] else s1

/-! ### Bytes -/

/-- The byte at a key; an unlisted key reads as zero (assumption 10). -/
def Memory.get : List Host.Cell → Nat → W8
  | [], _ => 0
  | (k, v) :: t, a => if k = a then v else if a < k then 0 else Memory.get t a

/-- Writes a byte, keeping the keys rising and no zero listed. -/
def Memory.set : List Host.Cell → Nat → W8 → List Host.Cell
  | [], a, v => if v = 0 then [] else [(a, v)]
  | (k, w) :: t, a, v =>
    if a < k then (if v = 0 then (k, w) :: t else (a, v) :: (k, w) :: t)
    else if a = k then (if v = 0 then t else (a, v) :: t)
    else (k, w) :: Memory.set t a v

/-- The canonical form: keys strictly rising from a bound, no listed byte zero. -/
def Memory.wfFrom : Nat → List Host.Cell → Bool
  | _, [] => true
  | lo, (k, v) :: t => decide (lo ≤ k) && (v != 0) && Memory.wfFrom (k + 1) t

def Memory.wf (m : List Host.Cell) : Bool := Memory.wfFrom 0 m

/-- Writes (key, byte) pairs in order. -/
def Memory.setAll (m : List Host.Cell) (ws : List (Nat × W8)) : List Host.Cell :=
  ws.foldl (fun m w => Memory.set m w.1 w.2) m

/-- Removes every byte of a range of keys: they read as zero. -/
def Memory.clear (m : List Host.Cell) (k n : Nat) : List Host.Cell := m.filter (fun c => !(decide (k ≤ c.1) && decide (c.1 < k + n)))

/-- Little-endian number of a list of bytes. -/
def leNat : List W8 → Nat
  | [] => 0
  | b :: t => b.toNat + 256 * leNat t

/-- The low n bytes of a number, little-endian. -/
def leBytes : Nat → Nat → List W8
  | 0, _ => []
  | n + 1, v => BitVec.ofNat 8 v :: leBytes n (v / 256)

/-- Consecutive addresses for a list of bytes. -/
def cellsAt (a : Nat) (bs : List W8) : List (Nat × W8) := (List.range bs.length).zip bs |>.map (fun p => (a + p.1, p.2))

/-! ### The package address space (R23, R24) -/

/-- Where a package address lies. -/
inductive Place where
  | bin (page off : Nat)
  | quern (q off : Nat)
  | guest
  | config
  | reserved
  deriving DecidableEq, Repr

def quernBase : Nat := 0x010000000000
def guestBase : Nat := 0x020000000000
def configBase : Nat := 0x0F0000000000

/-- The window of a Quern (R23). -/
def winBase (q : Nat) : Nat := quernBase + q * 0x4000000

def wgbOff : Nat := 0x2800000
def accOff : Nat := 0x2C00000
def winEnd : Nat := 0x2C80000

def placeOf (a : Nat) : Place :=
  if a < 2 ^ 39 then .bin (a / 2 ^ 20) (a % 2 ^ 20)
  else if quernBase ≤ a ∧ a < quernBase + 0x200000000 then
    let o := (a - quernBase) % 0x4000000
    if o < winEnd then .quern ((a - quernBase) / 0x4000000) o else .reserved
  else if guestBase ≤ a ∧ a < guestBase + 2 ^ 32 then .guest
  else if configBase ≤ a ∧ a < configBase + 2 ^ 32 then .config
  else .reserved

/-- A failing access: an address error of R25, or lost or unreadable data (R222). -/
inductive AccErr where
  | addr | data
  deriving DecidableEq, Repr

/-- An Imposition table entry. -/
def State.page (s : State) (p : Nat) : ImpEnt := s.mm.imp.getD p {}

/-- An update of the Imposition table writes both copies (R225). -/
def State.setPage (s : State) (p : Nat) (e : ImpEnt) : State :=
  { s with mm := { s.mm with imp := s.mm.imp.set p e, impB := s.mm.impB.set p e } }

/-- Unreadable granules of a frame (R240). -/
def State.marksOf (s : State) (f : Nat) : List Nat := s.mm.unreadable.getD f []

/-- Unreadable granules of a page: those of its frame, which every page of the frame shares (R240, R281). -/
def State.badGranules (s : State) (p : Nat) : List Nat := s.marksOf (s.page p).frame

/-- Whether a window of the Frisket lets package parties reach a guest address (R455): DIR 1, with the wanted right. -/
def guestOpen (s : State) (write : Bool) (a : Nat) : Bool :=
  s.part.guestBuild && s.sec.windowsOpen && s.sec.frisket.gwin.any (fun w =>
    w.en && w.dir && (if write then w.w else w.rd) && decide (w.base.toNat ≤ a) && decide (a < w.base.toNat + w.sizeMib.toNat * 2 ^ 20))

/-- Why a read of one byte fails (R25, R222). -/
def readErr (s : State) (a : Nat) : Option AccErr :=
  match placeOf a with
  | .bin p o =>
    match (s.page p).state with
    | .unmapped => some .addr
    | .mapped => none
    | .migrating => if (s.badGranules p).contains (o / 64) then some .data else none
    | .damaged => if (s.badGranules p).contains (o / 64) then some .data else none
    | .lost => some .data
    | .unbacked => some .data
  | .quern _ _ => none
  | .guest => if guestOpen s false a then none else some .addr
  | .config => some .addr
  | .reserved => some .addr

/-- Why a write of one byte fails as an address error (R25, R222). `through`: the write passes WP (R370). -/
def writeErr (s : State) (through : Bool) (a : Nat) : Option AccErr :=
  match placeOf a with
  | .bin p _ =>
    match (s.page p).state with
    | .unmapped => some .addr
    | .mapped => if (s.page p).wp && !through then some .addr else none
    | .migrating => if (s.page p).wp && !through then some .addr else none
    | .damaged => if (s.page p).wp && !through then some .addr else none
    | .lost => none
    | .unbacked => none
  | .quern _ _ => none
  | .guest => if guestOpen s true a then none else some .addr
  | .config => some .addr
  | .reserved => some .addr

/-- The first failing byte of a range, an address error before lost data. -/
def rangeErr (f : Nat → Option AccErr) (a n : Nat) : Option AccErr :=
  let l := (List.range n).filterMap (fun i => f (a + i))
  if l.contains .addr then some .addr else if l.contains .data then some .data else none

/-- The frame that serves a byte of a page: while the page migrates, the new frame for a 4 KiB chunk that has been copied and the old frame
for every other one (R219, R242). -/
def frameAt (s : State) (e : ImpEnt) (o : Nat) : Nat :=
  match s.mm.migr.find? e.frame with
  | some (new, copied) => if o / 4096 < copied then new else e.frame
  | none => e.frame

/-- The memory key of an address: Bin bytes by frame (R219), every other byte by its address. -/
def keyOf (s : State) (a : Nat) : Nat :=
  match placeOf a with
  | .bin p o => frameAt s (s.page p) o * 2 ^ 20 + o
  | _ => a

/-- One byte of the package address space, for an access that does not fail; a guest byte is the guest die's (assumption 9). -/
def readByte (s : State) (a : Nat) : W8 :=
  match placeOf a with
  | .guest => Config.guestByte s.freeCtr a
  | _ => Memory.get s.mem (keyOf s a)

def readBytes (s : State) (a n : Nat) : List W8 := (List.range n).map (fun i => readByte s (a + i))

def readNat (s : State) (a n : Nat) : Nat := leNat (readBytes s a n)

/-! ### The Store's lines (R227 to R230) -/

/-- The line of a Bin key. -/
def lineOf (key : Nat) : Nat := key / 512

/-- The Bin's bytes of a line as they stand in memory. -/
def lineCells (s : State) (l : Nat) : List Host.Cell :=
  s.mem.filter (fun c => decide (l * 512 ≤ c.1) && decide (c.1 < (l + 1) * 512))

/-- The set of a line: the fixed hash selects one of 2,097,152 (R227). -/
def storeSet (l : Nat) : Nat := Config.storeHash l % 2097152

/-- The enabled ways of a set: 16 less those disabled (R227, R244). -/
def waysOn (s : State) (set : Nat) : Nat := 16 - (s.mm.waysOff.filter (fun w => w.1 == set)).length

/-- The cap on pinned lines of a set: 12 of 16, or its enabled ways less 4 (R229). -/
def pinCap (s : State) (set : Nat) : Nat := waysOn s set - 4

/-- The lines that a set holds. -/
def inSet (s : State) (set : Nat) : List (Nat × StoreLine) := s.mm.lines.filter (fun l => storeSet l.1 == set)

def pinnedIn (s : State) (set : Nat) : Nat :=
  (s.mm.lines.filter (fun l => l.2.kind == .pinned && storeSet l.1 == set)).length

/-- The least recently used of some lines. -/
def oldestLine : List (Nat × StoreLine) → Option (Nat × StoreLine)
  | [] => none
  | x :: t =>
    match oldestLine t with
    | some y => if y.2.used < x.2.used then some y else some x
    | none => some x

/-- The line that a set gives up: the least recently used clean line that is not pinned, without one the least recently used dirty line that
is not pinned (R228). A pinned line goes only when too few ways are left for the pinned lines of the set (assumption 116). -/
def victim (s : State) (set : Nat) : Option Nat :=
  let ls := inSet s set
  match oldestLine (ls.filter (fun l => !l.2.dirty && l.2.kind != .pinned)) with
  | some x => some x.1
  | none =>
    match oldestLine (ls.filter (fun l => l.2.kind != .pinned)) with
    | some x => some x.1
    | none => (oldestLine ls).map (·.1)

/-- A line leaves the Store and is written back when it is dirty: the frame's bytes are those of the latest writes (R228). -/
def eraseLine (l : Nat) (s : State) : State := { s with mm := { s.mm with lines := s.mm.lines.erase l } }

/-- A set evicts until it holds at most n lines; `fuel` bounds the evictions by the ways of a set. -/
def shrinkSet (set n : Nat) : Nat → State → State
  | 0, s => s
  | fuel + 1, s =>
    if (inSet s set).length ≤ n then s
    else
      match victim s set with
      | some l => shrinkSet set n fuel (eraseLine l s)
      | none => s

/-- Puts a line: an absent one is allocated, for which its full set evicts one (R227, R228); in a set without enabled ways there is no place. -/
def setLine (s : State) (l : Nat) (v : StoreLine) : State :=
  if (s.mm.lines.find? l).isSome then { s with mm := { s.mm with lines := s.mm.lines.set l v } }
  else if waysOn s (storeSet l) = 0 then s
  else
    let s1 := shrinkSet (storeSet l) (waysOn s (storeSet l) - 1) 16 s
    { s1 with mm := { s1.mm with lines := s1.mm.lines.set l v } }

/-- A line that is present has been used: it is the most recently used one (R228). -/
def useLine (s : State) (l : Nat) : State :=
  match s.mm.lines.find? l with
  | some v => { s with mm := { s.mm with lines := s.mm.lines.set l { v with used := s.mm.useNo }, useNo := s.mm.useNo + 1 } }
  | none => s

/-- A line is dropped without write-back: a dirty line's Bin bytes are those before the writes, unless the line had been
evicted meanwhile, which is timing (R230). -/
def dropLine (s : State) (l : Nat) : State :=
  match s.mm.lines.find? l with
  | none => s
  | some v =>
    let s1 := { s with mm := { s.mm with lines := s.mm.lines.erase l } }
    if v.dirty then
      let s2 := s1.nextFree
      if Config.evicted s.freeCtr then s2
      else { s2 with mem := Memory.setAll (Memory.clear s2.mem (l * 512) 512) v.old }
    else s1

/-- A keep access to a line that is not pinned: pinned below the cap, normal with KEEP_OVF at it (R228, R229). -/
def pinLine (s : State) (l owner : Nat) : State :=
  let v := s.mm.lines.getD l { kind := .normal, dirty := false, owner := owner, old := [] }
  if v.kind == .pinned then s
  else if pinnedIn s (storeSet l) < pinCap s (storeSet l) then setLine s l { v with kind := .pinned, owner := owner }
  else
    let s := setLine s l { v with kind := .normal }
    { s with mm := { s.mm with keepOvf := satAdd s.mm.keepOvf 1 65535 } }

/-- What a hint does to the state of one line (R228): 0 stream, 1 keep, 2 discard-after-last-use. -/
def hintLine (s : State) (hint : Nat) (owner l : Nat) : State :=
  if hint = 1 then pinLine s l owner
  else if hint = 2 then
    match s.mm.lines.find? l with
    | none => setLine s l { kind := .discardable, dirty := false, owner := owner, old := [] }
    | some v => if v.kind == .normal then setLine s l { v with kind := .discardable } else s
  else s

/-- An access to one line: what its hint does, and the line's use. -/
def touchLine (s : State) (hint : Nat) (owner l : Nat) : State := useLine (hintLine s hint owner l) l

/-- A write reaches a line that is present: it becomes dirty, the Bin's bytes are kept beside it, and it has been used (R228). -/
def dirtyLine (s : State) (l : Nat) : State :=
  match s.mm.lines.find? l with
  | some v => useLine (if v.dirty then s else setLine s l { v with dirty := true, old := lineCells s l }) l
  | none => s

/-- The lines of the Bin bytes of a list of addresses, each once, in order of first use. -/
def linesOf (s : State) (as : List Nat) : List Nat :=
  (as.filterMap (fun a => match placeOf a with | .bin _ _ => some (lineOf (keyOf s a)) | _ => none)).eraseDups

/-- An access with LAST ends: discardable lines are dropped (R228). -/
def lastLines (s : State) (ls : List Nat) : State :=
  ls.foldl (fun s l => match s.mm.lines.find? l with | some v => if v.kind == .discardable then dropLine s l else s | none => s) s

/-- XDROP over lines: pinned becomes normal, discardable is dropped (R228). -/
def xdropLines (s : State) (ls : List Nat) : State :=
  ls.foldl (fun s l =>
    match s.mm.lines.find? l with
    | some v =>
      if v.kind == .pinned then setLine s l { v with kind := .normal }
      else if v.kind == .discardable then dropLine s l else s
    | none => s) s

/-- A context's pinned lines are released (R228). -/
def releasePins (s : State) (p : Nat → Bool) : State :=
  let unpin (v : StoreLine) : StoreLine := if v.kind == .pinned && p v.owner then { v with kind := .normal } else v
  { s with mm := { s.mm with lines := Tbl.mapV s.mm.lines (fun _ v => unpin v) } }

/-- Every line of a frame leaves the Store, without write-back (R223). -/
def dropFrameLines (s : State) (frame : Nat) : State :=
  { s with mm := { s.mm with lines := s.mm.lines.filter (fun l => !(l.1 / 2048 == frame)) } }

/-! ### Writes through the Imposition table (R222, R231, R240) -/

/-- Whether a Bin address lies in a granule marked unreadable that the writes do not cover in full. -/
def uncovered (s : State) (as : List Nat) (a : Nat) : Bool :=
  match placeOf a with
  | .bin p o =>
    if ((s.page p).state == .damaged || (s.page p).state == .migrating) && (s.badGranules p).contains (o / 64) then
      let g := a / 64
      decide (((as.filter (fun b => b / 64 == g)).eraseDups).length < 64)
    else false
  | _ => false

/-- Whether the write of a byte is ignored (R222: LOST and UNBACKED). -/
def ignored (s : State) (a : Nat) : Bool :=
  match placeOf a with
  | .bin p _ => (s.page p).state == .lost || (s.page p).state == .unbacked
  | .guest => true
  | _ => false

/-- Clears the mark of a granule of a frame; the DAMAGED pages of a frame without marks return to MAPPED, a page that migrates does so when
its migration ends (R240, R242). -/
def clearMark (s : State) (f g : Nat) : State :=
  let left := (s.marksOf f).filter (· != g)
  if (s.marksOf f).contains g then
    if left.isEmpty then
      (s.mm.imp.filter (fun x => x.2.state == .damaged && x.2.frame == f)).foldl (fun s x => s.setPage x.1 { x.2 with state := .mapped })
        { s with mm := { s.mm with unreadable := s.mm.unreadable.erase f } }
    else { s with mm := { s.mm with unreadable := s.mm.unreadable.set f left } }
  else s

/-- Whether the package journals to its twin (R401, R411). -/
def pairActive (s : State) : Bool := s.pair.phase == .paired || s.pair.phase == .isolated

/-- Notes the 2 KiB units of SHARED pages of own contexts that a write touches (R401). -/
def noteUnits (s : State) (as : List Nat) : State :=
  if pairActive s then
    let us := (as.filterMap (fun a =>
      match placeOf a with
      | .bin p o => if (s.page p).shared && decide (p < 262144) && !(s.ctx (s.page p).owner).takeover then some (p, o / 2048) else none
      | _ => none)).eraseDups
    { s with pair := { s.pair with units := s.pair.units ++ us.filter (fun u => !(s.pair.units.contains u)) } }
  else s

/-- Stores bytes whose access does not fail: lines become dirty, covered granules lose their marks, ignored writes are logged. -/
def storeBytes (s : State) (ws : List (Nat × W8)) : State :=
  let live := ws.filter (fun w => !(ignored s w.1))
  let dead := ((ws.filter (fun w => ignored s w.1 && decide (w.1 < 2 ^ 39))).map (fun w => w.1 / 2 ^ 20)).eraseDups
  let s1 := (linesOf s (live.map (·.1))).foldl dirtyLine s
  let s2 := { s1 with mem := Memory.setAll s1.mem (live.map (fun w => (keyOf s w.1, w.2))) }
  let marks := (live.flatMap (fun w =>
    match placeOf w.1 with
    | .bin p o => if (s.badGranules p).contains (o / 64) then [((s.page p).frame, o / 64)] else []
    | _ => [])).eraseDups
  let s3 := noteUnits (marks.foldl (fun s m => clearMark s m.1 m.2) s2) (live.map (·.1))
  dead.foldl (fun s p => logEvent s evWriteIgnored scPage p []) s3

/-- The Bin granules (byte key ÷ 64) of addresses (R238). -/
def granulesOf (s : State) (as : List Nat) : List Nat :=
  ((as.filter (fun a => match placeOf a with | .bin _ _ => !(ignored s a) | _ => false)).map (fun a => keyOf s a / 64)).eraseDups

/-- The granules that the data plane has written (R40). -/
def markData (s : State) (as : List Nat) : State :=
  { s with mm := { s.mm with fromData := s.mm.fromData ++ (granulesOf s as).filter (fun g => !(s.mm.fromData.contains g)) } }

/-- The granules that a write of the control plane covers in full are no longer the data plane's (R40, R370). -/
def clearData (s : State) (as : List Nat) : State :=
  let ks := as.map (keyOf s)
  let full := (granulesOf s as).filter (fun g => (List.range 64).all (fun i => ks.contains (g * 64 + i)))
  { s with mm := { s.mm with fromData := s.mm.fromData.filter (fun g => !(full.contains g)) } }

/-- The data plane's stores. -/
def storeData (s : State) (ws : List (Nat × W8)) : State := storeBytes (markData s (ws.map (·.1))) ws

/-- Writes (address, byte) pairs as one access of a move: an address error writes nothing; a merge with an unreadable granule
ends the access there (R25, R231, R240). -/
def writeMem (s : State) (ws : List (Nat × W8)) : State × Option AccErr :=
  let as := ws.map (·.1)
  if as.any (fun a => writeErr s false a == some .addr) then (s, some .addr)
  else if as.any (uncovered s as) then (storeData s (ws.takeWhile (fun w => !(uncovered s as w.1))), some .data)
  else (storeData s ws, none)

end Sys2Proof.Machine
end

