-- ==== Sys2Proof/Machine/Operands.lean ====
section
/-!
DEFINITION. Operand forms: tensor descriptors and their elements (R59 to R62, R86, R212 to R216, R536, R537), operand fields
of instruction words, draws (R139, R140).
-/

namespace Sys2Proof.Machine

/-- A field of an instruction word's operands. -/
def fld (i : Issue) (lo w : Nat) : Nat := (i.ops.extractLsb' lo w).toNat

/-- A field of the extension word; zero without one (R189). -/
def xfld (i : Issue) (lo w : Nat) : Nat :=
  match i.ext with
  | some e => (e.extractLsb' lo w).toNat
  | none => 0

/-- A two's-complement number of `w` bits. -/
def signed (w n : Nat) : Int := if n < 2 ^ (w - 1) then n else (n : Int) - (2 ^ w : Nat)

/-- Word i of a descriptor slot's 48 bytes. -/
def dword (b : BitVec 384) (i : Nat) : W64 := b.extractLsb' (64 * i) 64

/-- A descriptor and its auxiliary record, decoded (R212, R215). -/
structure Desc where
  fmt : Fmt
  isSigned : Bool
  chase : Bool
  hint : Nat
  stslot : Nat
  base : Nat
  planes : Nat
  rows : Nat
  cols : Nat
  pstride : Int
  rstride : Int
  cstride : Nat
  scval : W32
  scsrc : Nat
  elembase : Nat
  scalebase : Nat
  tscaleAt : Nat
  deriving DecidableEq, Repr

def slotBase (b : BitVec 384) : Nat := ((dword b 0).extractLsb' 0 48).toNat
def slotScaleBase (b : BitVec 384) : Nat := ((dword b 4).extractLsb' 48 16).toNat * 2 ^ 32 + ((dword b 5).extractLsb' 32 32).toNat
def slotLstride (b : BitVec 384) : Int := signed 32 ((dword b 5).extractLsb' 0 32).toNat
def slotFmt (b : BitVec 384) : Nat := ((dword b 3).extractLsb' 0 5).toNat
def slotBsel (b : BitVec 384) : Nat := ((dword b 0).extractLsb' 54 3).toNat
def slotSbsel (b : BitVec 384) : Bool := (dword b 0).getLsbD 57

/-- The slot with another BASE and SCALEBASE; all other bits stay. -/
def withBases (b : BitVec 384) (base scale : Nat) : BitVec 384 :=
  let w0 : W64 := (dword b 0).extractLsb' 48 16 ++ BitVec.ofNat 48 base
  let w4 : W64 := BitVec.ofNat 16 (scale / 2 ^ 32) ++ (dword b 4).extractLsb' 0 48
  let w5 : W64 := BitVec.ofNat 32 scale ++ (dword b 5).extractLsb' 0 32
  w5 ++ w4 ++ dword b 3 ++ dword b 2 ++ dword b 1 ++ w0

/-- Decodes a slot; none for the reserved values and zero dimensions of code 0x16 (R194). DESIGN CHOICE (assumption 108): the reserved bits of
a descriptor are not looked at. -/
def descOf (d : DSlot) : Option Desc :=
  let b := d.bits
  let w0 := dword b 0
  let w1 := dword b 1
  let w2 := dword b 2
  let w3 := dword b 3
  match fmtOfCode (slotFmt b) with
  | none => none
  | some f =>
    let planes := (w1.extractLsb' 48 16).toNat
    let rows := (w1.extractLsb' 24 24).toNat
    let cols := (w1.extractLsb' 0 24).toNat
    let hint := (w0.extractLsb' 58 2).toNat
    let scsrc := (w3.extractLsb' 5 2).toNat
    if planes = 0 ∨ rows = 0 ∨ cols = 0 ∨ hint = 3 ∨ slotBsel b > 4 ∨ scsrc = 3 then none
    else some
      { fmt := f, isSigned := w0.getLsbD 61 || f == .tern || f == .mxi8, chase := w0.getLsbD 60, hint := hint,
        stslot := (w0.extractLsb' 48 6).toNat, base := slotBase b, planes := planes, rows := rows, cols := cols,
        pstride := signed 32 (w2.extractLsb' 32 32).toNat, rstride := signed 32 (w2.extractLsb' 0 32).toNat,
        cstride := (w3.extractLsb' 8 4).toNat, scval := w3.extractLsb' 32 32, scsrc := scsrc,
        elembase := ((dword b 4).extractLsb' 0 48).toNat, scalebase := slotScaleBase b, tscaleAt := d.tscaleAt }

/-- Bytes of a Chase block: 1,024 elements (R86). -/
def Desc.blockSize (d : Desc) : Nat := 128 * d.fmt.width

/-- The offset of a base in the 1 MiB-aligned region that holds it: the page of a Bin address, from whose base R59 and R214 measure. -/
def Desc.regionOff (d : Desc) : Nat := d.base % 2 ^ 20

/-- The alignment rules of R59, R214 and R215, whose breach is code 0x15. -/
def Desc.aligned (d : Desc) : Bool :=
  let g : Nat := d.fmt.groupBytes
  let packedOk :=
    !d.fmt.packed || (decide (d.regionOff % g = 0) && decide (d.pstride % (g : Int) = 0)
      && (d.chase || (decide (d.rstride % (g : Int) = 0) && decide (d.cstride ≤ 1))))
  let chaseOk :=
    !d.chase || decide (d.rstride = 0) || (decide (0 < d.rstride) && decide (d.rstride % (d.blockSize : Int) = 0)
      && decide (d.regionOff % d.blockSize = 0))
  let vqOk := d.fmt != .vq4 || decide (d.tscaleAt % 8 = 0)
  packedOk && chaseOk && vqOk

/-- The elements that a descriptor describes. -/
def Desc.count (d : Desc) : Nat := d.planes * d.rows * d.cols

/-- Bit address of the element at plane p, row r, column c (R59, R86, R214). -/
def Desc.bitAt (d : Desc) (p r c : Nat) : Int :=
  let w : Int := d.fmt.width
  let pb : Int := d.base + p * d.pstride
  if d.chase then
    let br := r / 32
    let bc := c / 32
    let row : Int :=
      if d.rstride = 0 then pb + (br * ((d.cols + 31) / 32) + bc : Nat) * (d.blockSize : Int)
      else pb + br * d.rstride + bc * (d.blockSize : Int)
    row * 8 + (r % 32 * 32 + c % 32 : Nat) * w
  else (pb + r * d.rstride) * 8 + (c * d.cstride : Nat) * w

/-- Plane, row and column of element k of the layout order (R214). -/
def Desc.prc (d : Desc) (k : Nat) : Nat × Nat × Nat := (k / (d.rows * d.cols), k / d.cols % d.rows, k % d.cols)

def Desc.bitOf (d : Desc) (k : Nat) : Int :=
  let (p, r, c) := d.prc k
  d.bitAt p r c

/-- The block of element k in block order (R536). -/
def Desc.blockOf (d : Desc) (k : Nat) : Int :=
  if d.chase then
    let (p, r, c) := d.prc k
    (d.bitAt p r (c - c % d.fmt.blockLen) / 8 - d.base) / (d.fmt.blockBytes : Int)
  else (k / d.fmt.blockLen : Nat)

/-- The address of the scale byte of element k's block (R60, R61, R536). -/
def Desc.scaleAddr (d : Desc) (k : Nat) : Int := d.scalebase + (if d.fmt == .vq4 then 8 else 0) + d.blockOf k

/-- First byte and number of bytes that hold element k. -/
def Desc.bytesOf (d : Desc) (k : Nat) : Int × Nat :=
  let b := d.bitOf k
  (b / 8, ((b % 8).toNat + d.fmt.width + 7) / 8)

/-- The byte ranges of elements k0 to k0 + n − 1, with their scales; `ts`: with the VQ4 tensor scale too. -/
def Desc.ranges (d : Desc) (k0 n : Nat) : List (Int × Nat) :=
  let els := (List.range n).map (fun i => d.bytesOf (k0 + i))
  let scales := if d.fmt.isBlock then (List.range n).map (fun i => (d.scaleAddr (k0 + i), 1)) else []
  let ts := if d.fmt == .vq4 ∧ n > 0 then [((d.tscaleAt : Int), 8)] else []
  els ++ scales ++ ts

/-- Whether byte ranges lie in a half-open interval of addresses. -/
def rangesIn (rs : List (Int × Nat)) (lo hi : Nat) : Bool :=
  rs.all (fun r => decide ((lo : Int) ≤ r.1) && decide (r.1 + r.2 ≤ hi))

/-- The addresses of byte ranges. -/
def rangeAddrs (rs : List (Int × Nat)) : List Nat := rs.flatMap (fun r => (List.range r.2).map (fun i => (r.1 + i).toNat))

/-! ### Reading elements. `rd` gives a byte of the package address space. -/

/-- n bytes at an address as a little-endian number. -/
def rdNat (rd : Nat → W8) (a n : Nat) : Nat := leNat ((List.range n).map (fun i => rd (a + i)))

/-- The bits of the element at a bit address. -/
def bitsAt (rd : Nat → W8) (bit : Int) (w : Nat) : Nat :=
  let o := (bit % 8).toNat
  rdNat rd (bit / 8).toNat ((o + w + 7) / 8) / 2 ^ o % 2 ^ w

/-- Scales a value by its block (R60, R61); `sb` is the scale byte. A VQ4 value carries no tensor scale here. -/
def scaleBy (f : Fmt) (sb : Nat) (v : Val) : Val :=
  if f == .vq4 then
    if sb ≥ 128 then qnan
    else
      match fmtE4M3.dec sb with
      | .fin _ m e => if m = 0 then valZero else (mulV v (.fin false m e)).1
      | _ => qnan
  else if sb = 255 then qnan
  else
    match v with
    | .fin s m e => .fin s m (e + sb - 127)
    | v => v

/-- The value of the element at plane p, row r, column c, before any VQ4 tensor scale. -/
def Desc.getAt (d : Desc) (rd : Nat → W8) (k : Nat) : Val :=
  let v := decEl d.fmt d.isSigned (bitsAt rd (d.bitOf k) d.fmt.width)
  if d.fmt.isBlock then scaleBy d.fmt (rd (d.scaleAddr k).toNat).toNat v else v

/-- The FP32 tensor scale that a VQ4 tensor stores (R61); 1.0 for the other formats. -/
def Desc.tensorScale (d : Desc) (rd : Nat → W8) : W32 :=
  if d.fmt == .vq4 then BitVec.ofNat 32 (rdNat rd d.tscaleAt 4) else 0x3F800000

/-- The full value of element k: element, block scale and tensor scale. A VQ4 block scale of zero makes its elements zero whatever the
tensor scale is (R61). -/
def Desc.get (d : Desc) (rd : Nat → W8) (k : Nat) : Val :=
  let v := d.getAt rd k
  if d.fmt == .vq4 then
    (if rd (d.scaleAddr k).toNat = 0 then valZero else (mulV v (dec32 (d.tensorScale rd))).1)
  else v

/-! ### Writing elements -/

/-- Merges elements of w bits at bit addresses into bytes; bytes outside them keep what `rd` gives. -/
def packBits (rd : Nat → W8) (w : Nat) (els : List (Int × Nat)) : List (Nat × W8) :=
  if w % 8 = 0 then els.flatMap (fun x => cellsAt (x.1 / 8).toNat (leBytes (w / 8) x.2))
  else
    els.foldl (fun (acc : Tbl W8) x =>
      let o := (x.1 % 8).toNat
      let a := (x.1 / 8).toNat
      let n := (o + w + 7) / 8
      let old := rdNat (fun b => Tbl.getD acc b (rd b)) a n
      let new := old - old / 2 ^ o % 2 ^ w * 2 ^ o + x.2 % 2 ^ w * 2 ^ o
      (cellsAt a (leBytes n new)).foldl (fun (t : Tbl W8) p => Tbl.set t p.1 p.2) acc) []

/-- The exponent of an element format's largest normal power of two (R62). -/
def Fmt.emaxOf : Fmt → Int
  | .mx8e4 => 8 | .mx8e5 => 15 | .mx6e3 => 4 | .mx6e2 => 2 | .mx4 => 2 | _ => 0

/-- The larger magnitude of two finite values; others are passed over. -/
def maxMag (a : Val) (b : Val) : Val :=
  match a, b with
  | .fin _ m e, .fin _ n f => if leScaled m e n f then .fin false n f else .fin false m e
  | a, _ => a

/-- The scale byte of a block whose largest finite magnitude is a (R62), given the VQ4 tensor scale. -/
def scaleByteOf (f : Fmt) (ts : W32) (a : Val) : Nat :=
  match a with
  | .fin _ m e =>
    if f == .vq4 then
      match dec32 ts with
      | .fin _ mt et =>
        if m = 0 then 0
        else
          let k : Nat := 128
          let q := m * 2 ^ k / (6 * mt)
          (convFp fmtE4M3 false .rup true 0 (.fin false q (e - et - (k : Int))) (decide (m * 2 ^ k % (6 * mt) ≠ 0))).bits
      | _ => 0
    else if m = 0 then 127
    else ((max (-127) (min 127 (log2Scaled m e - f.emaxOf))) + 127).toNat
  | _ => if f == .vq4 then 0 else 127

/-- The value divided by its block's scales, with what lies below one unit (R62). -/
def divScale (f : Fmt) (ts : W32) (sb : Nat) (v : Val) : Val × Bool :=
  match v with
  | .fin s m e =>
    if f == .vq4 then
      match dec32 ts, fmtE4M3.dec sb with
      | .fin _ mt et, .fin _ mb eb =>
        if m = 0 ∨ mb = 0 ∨ mt = 0 then (.fin s 0 0, false)
        else
          let k : Nat := 160
          (.fin s (m * 2 ^ k / (mt * mb)) (e - et - eb - (k : Int)), decide (m * 2 ^ k % (mt * mb) ≠ 0))
      | _, _ => (v, false)
    else (.fin s m (e + 127 - sb), false)
  | v => (v, false)

/-- What an instruction writes through a descriptor: memory bytes, the status slot and the flags. -/
structure PutRes where
  bytes : List (Nat × W8)
  slot : StatusSlot
  fl : Fl
  deriving DecidableEq, Repr

/-- The VQ4 tensor scale that a write forms from its scale source (R62). -/
def Desc.newTensorScale (d : Desc) (t : StatusSlot) : W32 :=
  if d.scsrc = 0 then tensorScaleOf t.histMax
  else if d.scsrc = 1 then tensorScaleOf t.histNew
  else tensorScaleOf d.scval

/-- Converts values into elements k of a tensor (R65, R62, R537): (k, value, low bits of the draw). -/
def Desc.putConv (d : Desc) (rd : Nat → W8) (rm : RMode) (sat : Bool) (t : StatusSlot) (els : List (Nat × Val × Nat)) : PutRes :=
  let ts := d.newTensorScale t
  let step (acc : List (Int × Nat) × StatusSlot × Fl) (k : Nat) (v q : Val) (st : Bool) (r : Nat) :=
    let c := convEl d.fmt d.isSigned rm sat r q st
    (acc.1 ++ [(d.bitOf k, c.bits)], acc.2.1.note v c, acc.2.2 ||| c.fl)
  if d.fmt.isBlock then
    let blocks := (els.map (fun x => d.blockOf x.1)).eraseDups
    let scaled := blocks.map (fun b =>
      let a := (els.filter (fun x => d.blockOf x.1 == b)).foldl (fun m x => maxMag m x.2.1) (.fin false 0 0)
      (b, scaleByteOf d.fmt ts a))
    let sbOf (k : Nat) : Nat := ((scaled.find? (fun p => p.1 == d.blockOf k)).map (·.2)).getD 127
    let r := els.foldl (fun acc x =>
      let (q, st) := divScale d.fmt ts (sbOf x.1) x.2.1
      step acc x.1 x.2.1 q st x.2.2) ([], t, 0)
    let tsb := if d.fmt == .vq4 ∧ els ≠ [] then cellsAt d.tscaleAt (leBytes 8 ts.toNat) else []
    let sbb := scaled.map (fun p => (((d.scalebase : Int) + (if d.fmt == .vq4 then 8 else 0) + p.1).toNat, BitVec.ofNat 8 p.2))
    { bytes := tsb ++ sbb ++ packBits rd d.fmt.width r.1, slot := r.2.1, fl := r.2.2 }
  else
    let r := els.foldl (fun acc x => step acc x.1 x.2.1 x.2.1 false x.2.2) ([], t, 0)
    { bytes := packBits rd d.fmt.width r.1, slot := r.2.1, fl := r.2.2 }

/-- Writes element bits without conversion; NONFINITE alone reaches the slot (R70). -/
def Desc.putRaw (d : Desc) (rd : Nat → W8) (t : StatusSlot) (els : List (Nat × Nat)) : PutRes :=
  { bytes := packBits rd d.fmt.width (els.map (fun x => (d.bitOf x.1, x.2)))
    slot := if d.fmt == .raw64 then t else els.foldl (fun t x => t.noteBits (decEl d.fmt d.isSigned x.2)) t
    fl := 0 }

/-! ### Status slots and descriptor slots of a Quern -/

/-- A status slot; slot 63 is never changed, so it stays empty (R72). -/
def Quern.slot (q : Quern) (n : Nat) : StatusSlot := q.status.getD n {}

/-- Updates a status slot; slot 63 discards (R72). -/
def Quern.setSlot (q : Quern) (n : Nat) (t : StatusSlot) : Quern :=
  if n = 63 then q else { q with status := q.status.set n t }

def Quern.dslot (q : Quern) (n : Nat) : DSlot := q.dslots.getD n {}
def Quern.setDslot (q : Quern) (n : Nat) (d : DSlot) : Quern := { q with dslots := q.dslots.set n d }

/-- A descriptor is written into a slot: cursor 0, and the tensor scale stands at its SCALEBASE (R117, R216). -/
def loadDslot (b : BitVec 384) : DSlot := { bits := b, cursor := 0, tscaleAt := slotScaleBase b }

/-- The 128 bytes of a status slot (R68, R69, R72). -/
def slotBytes (n : Nat) (t : StatusSlot) : List W8 :=
  if n = 63 then List.replicate 128 0
  else
    let flags := (if t.nonfinite then 1 else 0) + (if t.escalate then 2 else 0) + (if t.stopped then 4 else 0) + t.histFill * 8
    let hist := (List.range 16).map (fun i => if i < t.histFill then (t.hist.getD i 0).toNat else 0)
    leBytes 4 t.amax.toNat ++ leBytes 4 t.sat.toNat ++ leBytes 4 t.ufl.toNat ++ leBytes 4 flags ++ leBytes 4 t.satLimit.toNat
      ++ leBytes 4 t.uflLimit.toNat ++ leBytes 8 0 ++ hist.flatMap (leBytes 4) ++ leBytes 32 0

/-- The status slot that 128 bytes write (R68): HIST_FILL above 16 is stored as 16, the zero bits of FLAGS as zero. -/
def slotOfBytes (b : List W8) : StatusSlot :=
  let w (o : Nat) : W32 := BitVec.ofNat 32 (leNat ((b.drop o).take 4))
  let f := w 12
  { amax := w 0, sat := w 4, ufl := w 8, nonfinite := f.getLsbD 0, escalate := f.getLsbD 1, stopped := f.getLsbD 2,
    histFill := min 16 (f.extractLsb' 3 5).toNat, satLimit := w 16, uflLimit := w 20, hist := (List.range 16).map (fun i => w (32 + 4 * i)) }

/-- The 48 bytes of a descriptor slot (R206). -/
def dslotBytes (b : BitVec 384) : List W8 := leBytes 48 b.toNat

/-! ### Draws (R136, R139, R140) -/

/-- The low 24 bits of the draw of an element. -/
def draw64 (seed : W64) (sid step : W32) (draw elem : Nat) : W64 := counterGenerator (drawKey seed sid step) (drawCounter draw elem)

/-- The stream id: RSTREAM, and the ordinal or 0xF_FFFF (R139). -/
def sidOf (rstream : Nat) (mbmix : Bool) (ordinal : Nat) : W32 :=
  BitVec.ofNat 32 (rstream % 4096 * 2 ^ 20 + (if mbmix then ordinal % 2 ^ 20 else 0xFFFFF))

end Sys2Proof.Machine
end

