-- ==== Sys2Proof/Machine/Flags.lean ====
section
/-!
DEFINITION. The flags of a Quern: its five IEEE flags (R78), what its completion notice says of its status slots (R71), and the
rounding mode that an RMODE field selects (R63).
-/

namespace Sys2Proof.Machine

/-- The flags are sticky (R78). -/
def Quern.raiseFl (q : Quern) (f : Fl) : Quern := { q with flags := q.flags ||| f }

/-- The array and its drain unit raise overflow, and invalid where a NaN is made, and no other flag (R94, R107). -/
def arrayFl (f : Fl) : Fl := f &&& (flOverflow ||| flInvalid)

/-- NONFINITE of the completion notice: the OR over all slots (R71). -/
def Quern.anyNonfinite (q : Quern) : Bool := q.status.any (fun x => x.2.nonfinite)

/-- ESCALATE of the completion notice: the OR over all slots (R71). -/
def Quern.anyEscalate (q : Quern) : Bool := q.status.any (fun x => x.2.escalate)

/-- A directed or nearest mode by its code; the default mode is one of these (R63, R204). -/
def rmodeOf (c : Nat) : Option RMode :=
  match c with
  | 0 => some .rne | 1 => some .rtz | 2 => some .rdn | 3 => some .rup | 4 => some .rna | 5 => some .sr | _ => none

/-- The mode that an RMODE field selects on a Quern: 0b111 is its default mode, 0b110 is none (R63). -/
def Quern.rmode (q : Quern) (c : Nat) : Option RMode := if c = 7 then rmodeOf q.defrm.toNat else rmodeOf c

end Sys2Proof.Machine
end

