-- ==== Sys2Proof/Machine/Program.lean ====
section
/-!
DEFINITION. What every instruction of a Quern's streams shares: its start under the wait rule, its stop on a detected error, its
signal, and the advance of its stream (R163 to R168, R180).
-/

namespace Sys2Proof.Machine

/-- The key of a stream. -/
def streamIdx : StreamId → Nat
  | .m => 0 | .v => 1 | .x => 2 | .c => 3

def Quern.stream (q : Quern) (st : StreamId) : Stream := q.streams.getD (streamIdx st) {}
def Quern.setStream (q : Quern) (st : StreamId) (v : Stream) : Quern := { q with streams := q.streams.set (streamIdx st) v }

def Quern.token (q : Quern) (t : Nat) : Nat := q.tokens.getD t 0
def Quern.setToken (q : Quern) (t n : Nat) : Quern := { q with tokens := q.tokens.set t n }

/-- A sequence of an image (R217). -/
def ImageInfo.seq (i : ImageInfo) : StreamId → List SeqInstr
  | .m => i.mSeq | .v => i.vSeq | .x => i.xSeq | .c => i.cSeq

def Quern.seqOf (v : Quern) (st : StreamId) : List SeqInstr :=
  match v.run with
  | some sl => sl.info.seq st
  | none => []

def Quern.seqLen (v : Quern) (st : StreamId) : Nat := (v.seqOf st).length

/-- Whether an instruction is the next one of its stream: each stream executes its own sequence in program order (R163). -/
def Quern.isNext (v : Quern) (st : StreamId) (op : Opcode) (i : Issue) : Bool :=
  (v.seqOf st)[(v.stream st).pos]? == some ⟨op, i⟩

/-- A field of the running program's dispatch block (R174): word i, bits from lo. -/
def Quern.dblkField (q : Quern) (i lo w : Nat) : Nat :=
  match q.run with
  | some sl => ((sl.load.dblk.getD i 0).extractLsb' lo w).toNat
  | none => 0

/-- The micro-batch ordinal of the running program (R139). -/
def Quern.ordinal (q : Quern) : Nat := q.dblkField 0 32 20

/-- The step that the running program draws with: its entry's, or that of its step-status record (R139, R174). -/
def Quern.drawStep (q : Quern) : W32 :=
  match q.run with
  | some sl =>
    match sl.load.entry, sl.load.sts with
    | none, some r => (r.getD 0 0).extractLsb' 0 32
    | _, _ => (sl.load.dblk.getD 0 0).extractLsb' 0 32
  | none => 0

/-- Adds a completion notice to the DISPATCH that it belongs to (R184). -/
def addNotice (s : State) (c d : Nat) (n : Notice) : State :=
  s.updCtx c (fun x => { x with disps := x.disps.map (fun y => if y.id = d then { y with notices := y.notices ++ [n] } else y) })

/-- The notice of a member whose program has not started. DESIGN CHOICE (assumption 112): no instruction has failed, and STREAM and INDEX say
C and 0, as in every group-stop notice. -/
def stopNotice (q code : Nat) (l : Load) : Notice :=
  { quern := q, image := l.image, entry := l.entry, status := code, stream := .c, index := 0, nonfinite := false, escalate := false,
    ieee := 0 }

/-- The load of a DISPATCH that waits or stands in the next slot of a Quern. -/
def Quern.unstarted (v : Quern) (c d : Nat) : Option Load :=
  (v.waiting ++ (v.next.map (·.load)).toList).find? (fun l => l.ctx = c ∧ l.disp = d)

/-- Stops a member of a dispatch group with the group-stop code 0x53 (R180): a running program stops; one that has not started
leaves the Quern, and its notice says so (assumption 18). STREAM C and INDEX 0 are the model's choice (assumption 112). -/
def groupStop (s : State) (c d q : Nat) : State :=
  let v := s.quern q
  let other (l : Load) : Bool := !(l.ctx = c ∧ l.disp = d)
  match v.unstarted c d with
  | some l =>
    addNotice (s.setQuern q { v with next := v.next.filter (fun n => other n.load), waiting := v.waiting.filter other }) c d
      (stopNotice q 0x53 l)
  | none =>
    match v.run with
    | some sl =>
      if !(other sl.load) && v.err.isNone then s.setQuern q { v with err := some ⟨0x53, .c, 0⟩, barrier := none } else s
    | none => s

/-- The members of a DISPATCH. -/
def dispMembers (s : State) (c d : Nat) : List Nat := ((s.ctx c).disps.find? (fun x => x.id = d)).elim [] (·.members)

/-- An error of one member stops every other member of its dispatch group that has not completed (R180). -/
def stopOthers (s : State) (c d q : Nat) : State :=
  ((dispMembers s c d).filter (· != q)).foldl (fun s m => groupStop s c d m) s

/-- A detected error stops the program and every other member of its dispatch group (R180). The first error stands. -/
def failAt (s : State) (q : Nat) (st : StreamId) (idx code : Nat) : State :=
  let v := s.quern q
  match v.run, v.err with
  | some sl, none =>
    stopOthers (s.setQuern q { v with err := some ⟨code, st, idx⟩ }) sl.load.ctx sl.load.disp q
  | _, _ => s

/-- A signal adds one to its counter; above 0xFFFF the counter stays and the program stops with code 0x50 (R164, R166). -/
def signalBy (s : State) (q : Nat) (st : StreamId) (idx tok n : Nat) : State :=
  let v := s.quern q
  if v.run.isNone || v.err.isSome then s
  else if v.token tok + n > 0xFFFF then failAt s q st idx 0x50
  else s.setQuern q (v.setToken tok (v.token tok + n))

/-- The signal of an instruction at its signal point, if it is enabled. -/
def signalIf (s : State) (q : Nat) (st : StreamId) (idx : Nat) (sen : Bool) (tok : Nat) : State :=
  if sen then signalBy s q st idx tok 1 else s

/-- A stream moves past its instruction, and ends after its last one (R171). -/
def advance (s : State) (q : Nat) (st : StreamId) : State :=
  s.updQuern q (fun v =>
    let t := v.stream st
    v.setStream st { t with pos := t.pos + 1, waiting := none, ended := decide (t.pos + 1 ≥ v.seqLen st) })

/-- Whether a stream of a Quern may start an instruction: a program runs without an error, the stream has not ended and is not
held at a barrier, and the Quern is not fenced (R36, R163, R169, R180). -/
def Quern.canStart (v : Quern) (st : StreamId) : Bool :=
  v.run.isSome && v.err.isNone && !(v.stream st).ended && !v.fenced && !(st == .c && v.barrier.isSome)

/-- Whether an instruction is well formed, the next one of its stream, and may start (R163, R189). -/
def Quern.ready (v : Quern) (st : StreamId) (op : Opcode) (i : Issue) : Bool :=
  wfQuern op st i && v.canStart st && v.isNext st op i

/-- The instruction waits: its stream is marked with the counter it waits for (R164, R172). -/
def markWaiting (s : State) (q : Nat) (st : StreamId) (tok n : Nat) : State :=
  s.updQuern q (fun v => v.setStream st { v.stream st with waiting := some (tok, n) })

/-- Whether the header wait of an instruction is satisfied (R164). -/
def Quern.waitOk (v : Quern) (i : Issue) : Bool := !i.wen || decide (v.token i.wtok.toNat ≥ 1)

/-- Takes the header wait's count (R164). -/
def Quern.takeWait (v : Quern) (i : Issue) : Quern :=
  if i.wen then v.setToken i.wtok.toNat (v.token i.wtok.toNat - 1) else v

/-- An address error of a context's program: the context stops and the event is logged (R25, R222). -/
def addressError (s : State) (c : Nat) : State :=
  let x := s.ctx c
  let s1 := if x.state = .unloaded then s else s.setCtx c { x with state := .stopped, err := some (0x30, 0), deferred := [] }
  logEvent s1 evAddressError scCtx c []

/-- A failing instruction of a Quern stream: the program stops, and an address error stops its context too (R25, R180). -/
def failInstr (s : State) (q : Nat) (st : StreamId) (idx code : Nat) : State :=
  let s1 := failAt s q st idx code
  match (s.quern q).run with
  | some sl => if code = 0x30 then addressError s1 sl.load.ctx else s1
  | none => s1

/-- The start of an instruction of a Quern stream. It has no effect while it cannot start, or its clock is stopped (R37); it waits under R164; otherwise it takes its
wait's count, and `body` gives its result or its error code. A result is followed by the advance of the stream and, when `now`,
by the signal. -/
def startInstr (q : Nat) (st : StreamId) (op : Opcode) (i : Issue) (now : Bool) (ready : Quern → Bool) (body : State → Except Nat State)
    (s : State) : Res :=
  let v := s.quern q
  if s.board.haltedByClock || !(v.ready st op i) then .next s
  else if !(v.waitOk i) then .next (markWaiting s q st i.wtok.toNat 1)
  else if !(ready v) then .next s
  else
    let idx := (v.stream st).pos
    let s1 := s.setQuern q (v.takeWait i)
    match body s1 with
    | .error code => .next (failInstr s1 q st idx code)
    | .ok s2 => .next (signalIf (advance s2 q st) q st idx (now && i.sen) i.stok.toNat)

/-- Every instruction without a wait of its own is ready. -/
def always (_ : Quern) : Bool := true

/-- A check with its error code. -/
def need (b : Bool) (code : Nat) : Except Nat Unit := if b then .ok () else .error code

/-- Reserved operand bits from `lo` up must be 0 (R190). -/
def needTop (i : Issue) (lo : Nat) : Except Nat Unit := need (i.ops >>> lo == 0) 0x20

/-- A decoded and aligned descriptor of a slot, or code 0x16 or 0x15. -/
def needDesc (v : Quern) (n : Nat) : Except Nat Desc :=
  match descOf (v.dslot n) with
  | none => .error 0x16
  | some d => if d.aligned then .ok d else .error 0x15

end Sys2Proof.Machine
end

