-- ==== Sys2Proof/Machine/Copy.lean ====
section
/-!
DEFINITION. What a move copies (R205, R206): between two tensors, or between a tensor and a status slot or descriptor slot.
-/

namespace Sys2Proof.Machine

/-- Position of element k within its block (R206): a row segment in Chase layout, a run of the layout order in linear layout. -/
def Desc.posInBlock (d : Desc) (k : Nat) : Nat := if d.chase then (d.prc k).2.2 % d.fmt.blockLen else k % d.fmt.blockLen

/-- Whether every destination block holds exactly the elements of one source block, in order (R206). -/
def sameBlocks (a b : Desc) : Bool :=
  (List.range a.count).all (fun k =>
    decide (a.posInBlock k = b.posInBlock k)
      && (k == 0 || (a.blockOf k == a.blockOf (k - 1)) == (b.blockOf k == b.blockOf (k - 1))))

/-- The bits of element k as they stand in memory. -/
def Desc.rawAt (d : Desc) (rd : Nat → W8) (k : Nat) : Nat := bitsAt rd (d.bitOf k) d.fmt.width

/-- The number of bytes of a tensor's elements. -/
def Desc.byteCount (d : Desc) : Nat := (d.count * d.fmt.width + 7) / 8

/-- The elements of a tensor as one record: element k at bit k × width. -/
def Desc.record (d : Desc) (rd : Nat → W8) (n : Nat) : List W8 :=
  leBytes n ((List.range d.count).foldl (fun a k => a + d.rawAt rd k * 2 ^ (k * d.fmt.width)) 0)

/-- The bytes that a record writes into a tensor. -/
def Desc.recordPut (d : Desc) (rd : Nat → W8) (bs : List W8) : List (Nat × W8) :=
  let v := leNat bs
  packBits rd d.fmt.width ((List.range d.count).map (fun k => (d.bitOf k, v / 2 ^ (k * d.fmt.width) % 2 ^ d.fmt.width)))

/-- The bytes that a copy of the first n elements of one tensor writes into another: elements, block scales, and the tensor scale
of VQ4, with the reserved bytes behind it as zero (R61, R206). -/
def copyTensor (rd : Nat → W8) (a b : Desc) (n : Nat) : List (Nat × W8) :=
  let els := packBits rd b.fmt.width ((List.range n).map (fun k => (b.bitOf k, a.rawAt rd k)))
  let scales :=
    if a.fmt.isBlock then
      (List.range n).filterMap (fun k =>
        if k = 0 ∨ b.blockOf k ≠ b.blockOf (k - 1) then some ((b.scaleAddr k).toNat, rd (a.scaleAddr k).toNat) else none)
    else []
  let ts := if a.fmt == .vq4 ∧ n > 0 then cellsAt b.tscaleAt ((List.range 4).map (fun i => rd (a.tscaleAt + i)) ++ [0, 0, 0, 0]) else []
  els ++ scales ++ ts

/-- What a move delivers. -/
inductive MoveOut where
  | mem (ws : List (Nat × W8))
  | status (n : Nat) (t : StatusSlot)
  | desc (n : Nat) (d : DSlot)
  deriving DecidableEq, Repr

/-- The tensor at an end of a move. -/
def MoveEnd.tensor? : MoveEnd → Option Desc
  | .tensor d => descOf d
  | .status _ => none
  | .desc _ => none

/-- The number of leading elements of a tensor whose bytes can all be read, and whether the next one's failure is an address error. -/
def readable (s : State) (d : Desc) : Nat × Option AccErr :=
  let err (k : Nat) : Option AccErr :=
    (d.ranges k 1).foldl (fun e r => match e with | some .addr => e | _ => match rangeErr (readErr s) r.1.toNat r.2 with | none => e | x => x) none
  if (List.range d.count).any (fun k => err k == some .addr) then (0, some .addr)
  else
    match (List.range d.count).find? (fun k => (err k).isSome) with
    | some k => (k, some .data)
    | none => (d.count, none)

/-- What a move delivers, reading now: none for an end that describes no tensor. An unreadable granule ends the move before it
(R240). -/
def moveOut (s : State) (q : Nat) (m : Move) : MoveOut × Option AccErr :=
  let v := s.quern q
  let rd := readByte s
  match m.src, m.dst with
  | .tensor a, .tensor b =>
    match descOf a, descOf b with
    | some a, some b =>
      let (n, e) := readable s a
      (.mem (copyTensor rd a b n), e)
    | _, _ => (.mem [], none)
  | .tensor a, .status n =>
    match descOf a with
    | some a =>
      let (_, e) := readable s a
      (.status n (if e.isSome then v.slot n else slotOfBytes (a.record rd 128)), e)
    | none => (.mem [], none)
  | .tensor a, .desc n =>
    match descOf a with
    | some a =>
      let (_, e) := readable s a
      (.desc n (if e.isSome then v.dslot n else loadDslot (BitVec.ofNat 384 (leNat (a.record rd 48)))), e)
    | none => (.mem [], none)
  | .status n, .tensor b =>
    match descOf b with
    | some b => (.mem (b.recordPut rd (slotBytes n (v.slot n))), none)
    | none => (.mem [], none)
  | .desc n, .tensor b =>
    match descOf b with
    | some b => (.mem (b.recordPut rd (dslotBytes (v.dslot n).bits)), none)
    | none => (.mem [], none)
  | _, _ => (.mem [], none)

/-- A move into an accumulator set replaces what an element held, a special value included (R102, R109). -/
def forgetSpecial (s : State) (ws : List (Nat × W8)) : State :=
  ws.foldl (fun s w =>
    match placeOf w.1 with
    | .quern q o =>
      if accOff ≤ o then s.updQuern q (fun v => { v with special := v.special.filter (· != w.1 / 4 * 4) }) else s
    | _ => s) s

/-- Delivers what a move carries: memory bytes, a status slot or a descriptor slot (R206). -/
def deliver (s : State) (q : Nat) (o : MoveOut) : State × Option AccErr :=
  match o with
  | .mem ws =>
    match writeMem s ws with
    | (s1, none) => (forgetSpecial s1 ws, none)
    | r => r
  | .status n t => (s.updQuern q (fun v => v.setSlot n t), none)
  | .desc n d => (s.updQuern q (fun v => v.setDslot n d), none)

/-- The addresses of a tensor's bytes. -/
def Desc.addrs (d : Desc) : List Nat := (rangeAddrs (d.ranges 0 d.count)).eraseDups

/-- The Store's side of an access to a tensor with its hint (R176, R228). -/
def touchTensor (s : State) (owner : Nat) (d : Desc) : State := (linesOf s d.addrs).foldl (fun s l => touchLine s d.hint owner l) s

/-- A cancelled move leaves the granules that had crossed the Weir and no other (R36). -/
def cancelMove (s : State) (q : Nat) (m : Move) : State :=
  let s1 := s.nextFree
  match moveOut s q m with
  | (_, some .addr) => s1
  | (.mem ws, _) => (writeMem s1 (ws.filter (fun w => Config.crossed s.freeCtr (w.1 / 64)))).1
  | (o, _) => if Config.crossed s.freeCtr 0 then (deliver s1 q o).1 else s1

/-- Every move of a fenced Quern that is still in flight is cancelled, whatever the state of its context (R36, R392). -/
def cancelMoves (s : State) (q : Nat) : State :=
  ((s.quern q).moves.foldl (fun s m => cancelMove s q m) s).updQuern q (fun v => { v with moves := [] })

end Sys2Proof.Machine
end

