-- ==== Sys2Proof/Machine/Frames.lean ====
section
/-!
DEFINITION. Frames, rows and Store ways under errors: marks of unreadable granules, retirement, row remaps, corrected errors, migration chunk
by chunk, and the two copies of the Imposition table (spec/08, R219, R220, R225, R238 to R245).
-/

namespace Sys2Proof.Machine

/-! ### Frames and their pages (R219, R240, R243, R245) -/

/-- The pages that a frame lies behind. -/
def pagesOf (s : State) (f : Nat) : List Nat :=
  (s.mm.imp.filter (fun x => x.2.state != .unmapped && x.2.state != .unbacked && x.2.frame == f)).map (·.1)

/-- Whether a state of a page has a frame that an access can read. -/
def PageState.backed : PageState → Bool
  | .mapped => true
  | .migrating => true
  | .damaged => true
  | .unmapped => false
  | .lost => false
  | .unbacked => false

/-- Gives the readable pages of a frame a state; a page that migrates keeps its state until its migration ends, unless it is lost. -/
def setStates (f : Nat) (st : PageState) (s : State) : State :=
  (s.mm.imp.filter (fun x => x.2.state.backed && x.2.frame == f && (x.2.state != .migrating || st == .lost))).foldl
    (fun s x => s.setPage x.1 { x.2 with state := st }) s

/-- Marks a granule of a frame unreadable and its pages DAMAGED; pages that become damaged while 256 are tracked are LOST whole (R240). -/
def markFrame (f g : Nat) (s : State) : State :=
  if !((pagesOf s f).any (fun p => (s.page p).state.backed)) then s
  else if (s.mm.unreadable.find? f).isSome ∨ s.mm.unreadable.length < 256 then
    let s1 := { s with mm := { s.mm with unreadable := s.mm.unreadable.set f ((s.marksOf f).filter (· != g) ++ [g]) } }
    setStates f .damaged s1
  else setStates f .lost s

/-- UE_COUNT and its event (R240, R246). -/
def countUe (p g : Nat) (s : State) : State :=
  logEvent { s with mm := { s.mm with ue := satAdd s.mm.ue 1 65535 } } evUncorrectable scPage p [g]

/-- A frame is retired: never mapped again, recorded and logged (R240, R241, R245, R470). -/
def retireFrame (f source : Nat) (s : State) : State :=
  if s.mm.retired.contains f then s
  else
    let s1 := { s with mm := { s.mm with
      retired := s.mm.retired ++ [f], retiring := s.mm.retiring.filter (· != f), reserve := s.mm.reserve.filter (· != f) } }
    logEvent (addDefect s1 0x07 source 3 f 0) evFrameRetired scBin (f / 131072) [f]

/-- A frame is to be retired: it waits for the migration of its page; a frame behind no page is retired at once (R240 step 5). -/
def startRetire (f : Nat) (s : State) : State :=
  if (pagesOf s f).isEmpty then retireFrame f 3 s
  else if s.mm.retiring.contains f ∨ s.mm.retired.contains f then s
  else { s with mm := { s.mm with retiring := s.mm.retiring ++ [f] } }

/-- An uncorrectable granule of a frame: every page of the frame is marked and the frame is to be retired (R240 steps 4 and 5). -/
def damageFrame (f p g : Nat) (s : State) : State := startRetire f (countUe p g (markFrame f g s))

/-- Whether a page has a frame that an access can read. -/
def backed (s : State) (p : Nat) : Bool := (s.page p).state.backed

/-- A reserve frame for a page of a Bin: its own Bin's, or one of the Bin with the most left (R243). -/
def reserveFrame (s : State) (bin : Nat) : Option Nat :=
  let ofBin (b : Nat) : List Nat := s.mm.reserve.filter (fun f => f / 131072 == b)
  match ofBin bin with
  | f :: _ => some f
  | [] => (ofBin ((List.range 4).foldl (fun m b => if (ofBin m).length < (ofBin b).length then b else m) 0)).head?

/-! ### Rows (R220, R241) -/

def rowFrame (r : RowLoc) : Nat := r.bin.val * 131072 + r.die.val * 8192 + r.row.toNat

/-- The key of a bank. -/
def bankKey (r : RowLoc) : Nat := ((r.bin.val * 16 + r.die.val) * 32 + r.channel.val) * 16 + r.bank.val

/-- LOCATION of a Bin row (R470). -/
def rowLocation (r : RowLoc) : Nat :=
  r.bin.val * 2 ^ 26 + r.die.val * 2 ^ 22 + r.channel.val * 2 ^ 17 + r.bank.val * 2 ^ 13 + r.row.toNat

/-- The key of a row among the frames: channel and bank select it within its frame (R220). -/
def rowKey (f channel bank : Nat) : Nat := (f * 16 + bank) * 32 + channel

/-- The row of a granule of a frame. -/
def rowOf (f g : Nat) : RowLoc :=
  let o := g * 64
  { bin := Fin.ofNat 4 (f / 131072), die := Fin.ofNat 16 (f / 8192), channel := Fin.ofNat 32 (o / 256), bank := Fin.ofNat 16 (o / 8192)
    row := BitVec.ofNat 13 f }

/-- A failed row is remapped to a spare of its bank, or its frame is to be retired; nothing for a frame that is being retired (R241, R242). -/
def remapRow (r : RowLoc) (source : Nat) (s : State) : State :=
  let f := rowFrame r
  let used := s.mm.sparesUsed.getD (bankKey r) 0
  let s1 := { s with mm := { s.mm with rowCe := s.mm.rowCe.erase (rowKey f r.channel.val r.bank.val) } }
  if s.mm.retiring.contains f ∨ s.mm.retired.contains f then s
  else if used < 8 then
    let s2 := { s1 with mm := { s1.mm with
      sparesUsed := s1.mm.sparesUsed.set (bankKey r) (used + 1), spareRows := s1.mm.spareRows.set r.bin (s1.mm.spareRows.getD r.bin 0 - 1) } }
    logEvent (addDefect s2 0x08 source 2 (rowLocation r) 0) evRowRemapped scBin r.bin [(rowLocation r)]
  else startRetire f s1

/-- The page of a frame, for an event's scope. -/
def framePage (s : State) (f : Nat) : Nat := (pagesOf s f).headD 0

/-! ### Corrected errors (R237, R238, R241, R246) -/

/-- A corrected error counts in CE_COUNT of MEM_ERRCNT: Bins, Store and Quern storage (R237, R246). -/
def countCe (s : State) : State := { s with mm := { s.mm with ce := satAdd s.mm.ce 1 0xFFFFFFFF } }

/-- 24 hours in ns. -/
def dayNs : Nat := 86400000000000

/-- Whether a row fails with a corrected error of a granule: the fourth within 24 hours, or a second one in the same granule (R241). -/
def rowFails (s : State) (f g : Nat) : Bool :=
  let r := rowOf f g
  let old := s.mm.rowCe.getD (rowKey f r.channel.val r.bank.val) []
  old.any (fun x => x.1 == g) || decide (4 ≤ (old.filter (fun x => decide (s.timeNs < x.2 + dayNs))).length + 1)

/-- A corrected error in a Bin: counted for the part, the pages and the row, and the row is remapped when it fails (R238, R241, R246). -/
def correctedError (f : Nat) (s : State) (g : Nat) : State :=
  let r := rowOf f g
  let key := rowKey f r.channel.val r.bank.val
  let s1 := (pagesOf s f).foldl (fun s p => s.setPage p { s.page p with cecount := satAdd (s.page p).cecount 1 255 }) (countCe s)
  let s2 := { s1 with mm := { s1.mm with rowCe := s1.mm.rowCe.set key ((g, s.timeNs) :: s.mm.rowCe.getD key []) } }
  if rowFails s f g then remapRow r 3 s2 else s2

/-! ### Migration (R240, R242, R243) -/

/-- A page without a frame (R243). -/
def unback (s : State) (p : Nat) : State :=
  logEvent (s.setPage p { s.page p with state := .unbacked, frame := 0 }) evPageUnbacked scPage p []

/-- The bytes of a range of chunks move from frame f to frame g, the unreadable granules as zero; their lines leave the old frame (R242). -/
def copyChunks (f g lo hi : Nat) (bad : List Nat) (s : State) : State :=
  let here (o : Nat) : Bool := decide (lo ≤ o / 4096) && decide (o / 4096 < hi)
  let cells := s.mem.filter (fun c => decide (c.1 / 2 ^ 20 = f) && here (c.1 % 2 ^ 20) && !(bad.contains (c.1 % 2 ^ 20 / 64)))
  let m1 := Memory.clear (Memory.clear s.mem (g * 2 ^ 20 + lo * 4096) ((hi - lo) * 4096)) (f * 2 ^ 20 + lo * 4096) ((hi - lo) * 4096)
  { s with
    mem := Memory.setAll m1 (cells.map (fun c => (g * 2 ^ 20 + c.1 % 2 ^ 20, c.2)))
    mm := { s.mm with
      lines := s.mm.lines.filter (fun l => !(l.1 / 2048 == f && here (l.1 % 2048 * 512)))
      fromData := s.mm.fromData.map (fun x => if x / 16384 = f ∧ here (x % 16384 * 64) then g * 16384 + x % 16384 else x) } }

/-- The new frame of a page and its last state: DAMAGED with marks, else MAPPED; LOST stays (R242). -/
def settlePage (g : Nat) (marks : Bool) (s : State) (p : Nat) : State :=
  let e := s.page p
  s.setPage p { e with frame := g, state := if e.state == .lost then .lost else if marks then .damaged else .mapped }

/-- The last chunk is done: FRAME changes, the marks follow, and the old frame is retired (R240 step 5, R242). -/
def endMigration (f g : Nat) (s : State) : State :=
  let marks := s.marksOf f
  let s1 := (pagesOf s f).foldl (settlePage g (!marks.isEmpty)) s
  let un := s1.mm.unreadable.erase f
  retireFrame f 3 { s1 with mm := { s1.mm with migr := s1.mm.migr.erase f, unreadable := if marks.isEmpty then un else un.set g marks } }

/-- The next n chunks of a migration, in offset order; granules of them that prove unreadable are marked first (R242). -/
def migrateChunks (f p n : Nat) (found : List Nat) (s : State) : State :=
  match s.mm.migr.find? f with
  | none => s
  | some (g, lo) =>
    let hi := min (lo + n) 256
    let fresh := found.filter (fun x => decide (lo ≤ x / 64) && decide (x / 64 < hi) && !((s.marksOf f).contains x))
    let s1 := fresh.foldl (fun s x => countUe p x (markFrame f x s)) s
    let s2 := copyChunks f g lo hi (s1.marksOf f) { s1 with mm := { s1.mm with migr := s1.mm.migr.set f (g, hi) } }
    if hi = 256 then endMigration f g s2 else s2

/-- The migration of a retiring frame begins: a reserve frame is taken and the pages are MIGRATING; without one they are UNBACKED (R242,
R243). -/
def startMigration (f : Nat) (s : State) : State :=
  match reserveFrame s (f / 131072) with
  | none =>
    let s1 := { s with
      mem := Memory.clear s.mem (f * 2 ^ 20) (2 ^ 20), mm := { s.mm with unreadable := s.mm.unreadable.erase f } }
    retireFrame f 3 ((pagesOf s f).foldl unback (dropFrameLines s1 f))
  | some g =>
    setStates f .migrating { s with mm := { s.mm with
      reserve := s.mm.reserve.filter (· != g), migr := s.mm.migr.set f (g, 0) } }

/-! ### Store ways (R244) -/

/-- A way is disabled, recorded and logged; its set keeps what its other ways hold. -/
def disableWay (set way source : Nat) (s : State) : State :=
  if s.mm.waysOff.contains (set, way) then s
  else
    let s1 := { s with mm := { s.mm with waysOff := s.mm.waysOff ++ [(set, way)] } }
    logEvent (addDefect (shrinkSet set (waysOn s1 set) 16 s1) 0x09 source 0 (set * 16 + way) 0) evWayDisabled scPackage 0 [set, way]

/-! ### The two copies of the Imposition table (R225) -/

/-- An uncorrectable entry of one copy is repaired from the other and logged. -/
def repairEntry (second : Bool) (p : Nat) (s : State) : State :=
  let s1 := if second then { s with mm := { s.mm with impB := s.mm.impB.set p (s.mm.imp.getD p {}) } }
    else { s with mm := { s.mm with imp := s.mm.imp.set p (s.mm.impB.getD p {}) } }
  logEvent s1 evImpRepaired scPage p [if second then 1 else 0]

end Sys2Proof.Machine
end

