-- ==== Sys2Proof/Machine/Context.lean ====
section
/-!
DEFINITION. Stage contexts: page lists, Hopper entries and their release, steps, Editions and their commits, the sequencer's
tokens, halt and stop (spec/06, R181 to R186; spec/09, R248 to R269; spec/10).
-/

namespace Sys2Proof.Machine

/-! ### Page lists (R224) -/

/-- Links the pages of a list through NEXT and LAST; `tail` is the page behind the last one. -/
def chainPages (tail : Option Nat) : List Nat → State → State
  | [], s => s
  | p :: t, s =>
    let nx := match t with | r :: _ => some r | [] => tail
    chainPages tail t (s.setPage p { s.page p with next := nx.getD 0, last := nx.isNone })

/-- Takes n pages from the head of a context's free list; none when it holds fewer. -/
def takePages (s : State) (c n : Nat) (shared : Bool) : Option (List Nat × State) :=
  let f := (s.ctx c).free
  if f.length < n then none
  else
    let l := f.take n
    let s1 := s.updCtx c (fun x => { x with free := f.drop n })
    some (l, (chainPages none l s1 |> fun s => l.foldl (fun s p => s.setPage p { s.page p with shared := shared }) s))

/-- Returns pages to the head of a context's free list; a LOST page becomes MAPPED, or MIGRATING while its frame migrates (R224, R240,
R242). -/
def returnPages (s : State) (c : Nat) (l : List Nat) : State :=
  let s1 := l.foldl (fun s p =>
    let e := s.page p
    s.setPage p { e with shared := false, owner := c, state := if e.state == .lost then (if (s.mm.migr.find? e.frame).isSome then .migrating else .mapped) else e.state }) s
  let s2 := chainPages (s1.ctx c).free.head? l s1
  s2.updCtx c (fun x => { x with free := l ++ x.free })

/-! ### Hopper entries (R252 to R256) -/

def hopperEntries (s : State) (h : Nat) : List (Nat × Entry) := s.pool.filter (fun x => x.2.hopper == h)

/-- The ordinal of a micro-batch id (R139). -/
def ordinalOf (mbid : W32) : Nat := mbid.toNat % 2 ^ 20

/-- Whether (step, ordinal) a lies below b. -/
def stepOrdLt (a b : Nat × Nat) : Bool := decide (a.1 < b.1) || (decide (a.1 = b.1) && decide (a.2 < b.2))

/-- Entries of a Hopper revert to READY; the order point of an ordered Hopper moves down to the lowest of them (R254, R255). -/
def revertEntries (s : State) (h : Nat) (p : Entry → Bool) : State :=
  let back := (hopperEntries s h).filter (fun x => p x.2)
  let s1 := { s with pool := Tbl.mapV s.pool (fun _ e => if e.hopper == h && p e then { e with state := .ready } else e) }
  let hp := s.hopper h
  if hp.ordered then
    let (st, od) := back.foldl (fun m x =>
      let k := (x.2.step.toNat, ordinalOf x.2.mbid)
      if stepOrdLt k m then k else m) (hp.nextStep, hp.nextOrd)
    s1.setHopper h { hp with nextStep := st, nextOrd := od }
  else s1

def isTaken (e : Entry) : Bool := e.state == .taken

/-- Removes one reference from each Edition of a list (R284). -/
def dropRefs (s : State) (refs : List Nat) : State :=
  refs.foldl (fun s e => s.setEd e { s.ed e with refcount := (s.ed e).refcount - 1 }) s

/-- Releases a pool entry: its pages return, its references go, the entry becomes FREE (R254, R284). -/
def releaseEntry (s : State) (h : Nat) : State :=
  match s.entry? h with
  | none => s
  | some e =>
    let s1 := returnPages s (e.hopper / 2) (e.inPages ++ e.outPages)
    let s2 := dropRefs s1 e.refs
    { s2 with pool := Tbl.erase s2.pool h }

/-! ### Stopping and halting (R25, R46, R180, R185, R211, R250) -/

def ctxEq (a b : CtxState) : Bool := decide (a = b)

/-- The report of a program error (R185). -/
def reportError (s : State) (c code idx : Nat) (detail : List Nat) : State := logEvent s evProgramError scCtx c (code :: idx :: detail)

/-- A context stops: its taken entries stay taken, a program-error event is logged (R185, R211). -/
def stopCtx (s : State) (c code idx : Nat) (detail : List Nat) : State :=
  let x := s.ctx c
  if x.state = .unloaded ∨ x.state = .stopped ∨ x.state = .halted then s
  else
    reportError (s.setCtx c { x with state := .stopped, err := some (code, idx), deferred := [], resumeAfterDrain := false }) c code idx detail

/-- A merged completion with an error stops its context, and is reported also where an address error or another completion has stopped the
context already (R25, R185). -/
def stopMerged (s : State) (c code idx : Nat) (detail : List Nat) : State :=
  if (s.ctx c).state = .stopped then reportError s c code idx detail else stopCtx s c code idx detail

/-- The streams at the start of their sequences (R159). -/
def freshStreams (i : ImageInfo) : Tbl Stream :=
  [(0, { ended := i.mSeq.isEmpty }), (1, { ended := i.vSeq.isEmpty }), (2, { ended := i.xSeq.isEmpty }), (3, { ended := i.cSeq.isEmpty })]

/-- A Quern's register-mode results become visible, its sets and epoch state are as after a write-out, and no program runs. -/
def Quern.idle (v : Quern) : Quern :=
  { v with run := none, err := none, moves := [], fences := [], barrier := none, drains := [], held := [], clears := [], scales := none,
           special := [], vpend := [], streams := [] }

/-- The program of a context on a Quern is abandoned: its moves are cancelled under R36, its loaded and waiting successors leave
the Quern, and the accumulator sets are cleared (R46, assumption 17). -/
def abandonOn (s : State) (c q : Nat) : State :=
  let keep (l : Load) : Bool := l.ctx != c
  let s1 := s.updQuern q (fun v => { v with
    waiting := v.waiting.filter keep, next := v.next.filter (fun n => keep n.load) })
  match (s1.quern q).run with
  | none => s1
  | some sl =>
    if sl.load.ctx = c then
      let s2 := (s1.quern q).moves.foldl (fun s m => cancelMove s q m) s1
      let s3 := s2.updQuern q Quern.idle
      let s4 := { s3 with mem := Memory.clear s3.mem (winBase q + accOff) 0x80000 }
      { s4 with mm := { s4.mm with prefetch := s4.mm.prefetch.filter (fun p => !(p.quern == q && p.ctx == c)) } }
    else s1

/-- The state of a Quern after its load (R68, R80, R83, R102, R114, R156, R159); scratchpad and weight-gradient buffer stay. -/
def freshQuern (s : State) (q : Nat) : State :=
  { s.setQuern q { loaded := true, fenced := (s.quern q).fenced } with mem := Memory.clear s.mem (winBase q + accOff) 0x80000 }

/-- Whether a loaded context other than c has a Quern in its groups. -/
def servesOther (s : State) (c q : Nat) : Bool :=
  s.ctxs.any (fun x => x.1 != c && x.2.state != .unloaded && x.2.groups.any (·.contains q))

/-- The load of a context loads the Querns of its groups (R159), but for one that another loaded context shares, which is loaded already
(assumption 31). -/
def loadQuerns (s : State) (c : Nat) (groups : List (List Nat)) : State :=
  (groups.flatMap id).eraseDups.foldl (fun s q => if servesOther s c q then s else freshQuern s q) s

/-- The order counters that a load names begin at 0 (R156). -/
def resetOrder (s : State) (wgo : List (Nat × Nat)) : State :=
  wgo.foldl (fun s w => s.updQuern w.1 (fun v => { v with wgo := v.wgo.set w.2 0 })) s

/-- The Querns of a context's groups. -/
def ctxQuerns (s : State) (c : Nat) : List Nat := ((s.ctx c).groups.flatMap id).eraseDups

/-- Inserts an instruction that has issued into the order of issue. -/
def insertByNo (d : Deferred) : List Deferred → List Deferred
  | [] => [d]
  | e :: t => if d.no < e.no then d :: e :: t else e :: insertByNo d t

/-- A DISPATCH whose programs were abandoned, as an instruction that has issued and starts again (R46, R47). -/
def Disp.again (d : Disp) : Deferred :=
  { op := .dispatch, no := d.no, idx := d.idx, issue := d.issue, entry := d.entry, disp := d.id, step := d.step }

/-- Whether every member of a DISPATCH has sent its notice. -/
def Disp.noticed (d : Disp) : Bool := !d.members.isEmpty && d.members.all (fun m => d.notices.any (fun n => n.quern == m))

/-- A halt abandons the programs of every DISPATCH that has not completed; the DISPATCHes are to be started again at the resume (R46, R47). -/
def Ctx.abandonDisps (x : Ctx) : Ctx :=
  let lost (d : Disp) : Bool := !d.noticed && !(x.deferred.any (fun e => e.op == .dispatch && e.disp == d.id))
  { x with
    disps := x.disps.map (fun d => if d.noticed then d else { d with notices := [] })
    deferred := (x.disps.filter lost).foldl (fun l d => insertByNo d.again l) x.deferred }

/-- The halt form of quiesce (R46, R250). -/
def haltCtx (s : State) (c : Nat) : State :=
  let x := s.ctx c
  if x.state = .running ∨ x.state = .draining ∨ x.state = .quiesced then
    let s1 := s.setCtx c { x.abandonDisps with state := .halted, resumeAfterDrain := false }
    let s2 := (ctxQuerns s c).foldl (fun s q => abandonOn s c q) s1
    revertEntries (revertEntries s2 (2 * c) isTaken) (2 * c + 1) isTaken
  else s

/-- Where a resumed sequencer goes on: the earliest HPOP whose entry is READY again, reverted by a halt or rewound (R47, R250, R268, assumption
16); none: its next instruction. -/
def returnPoint (s : State) (x : Ctx) : Option HSnap :=
  (x.snaps.filter (fun n => match s.entry? n.entry with | some e => e.state == .ready | none => false)).foldl
    (fun m n => match m with | none => some n | some y => if n.no < y.no then some n else some y) none

/-- The sequencer returns to that HPOP with what it held there; what it issued behind it is forgotten and will issue again, what it issued
before it still waits, signals and completes (R47, R181). -/
def returnSeq (s : State) (c : Nat) : State :=
  let x := s.ctx c
  match returnPoint s x with
  | none => s
  | some n =>
    let s1 := s.setCtx c { x with
      seqr := n.seqr, tokens := n.tokens, hregs := n.hregs
      pends := x.pends.filter (fun p => decide (p.no < n.no))
      deferred := x.deferred.filter (fun d => decide (d.no < n.no))
      disps := x.disps.filter (fun d => decide (d.no < n.no))
      snaps := x.snaps.filter (fun y => decide (y.no < n.no)) }
    { s1 with pair := { s1.pair with held := s1.pair.held.filter (fun h =>
        match h.2 with | .signal k no _ _ _ => !(k == c && decide (n.no ≤ no)) | _ => true) } }

/-- Whether a context's halt is the Miller's to end: it runs, drains or rests; a takeover context before takeover runs nothing and stays
at rest (R250, R400). -/
def haltable (s : State) (c : Nat) : Bool :=
  let x := s.ctx c
  (x.state == .running || x.state == .draining || x.state == .quiesced || x.state == .halted)
    && !(x.takeover && (s.pair.phase == .paired || s.pair.phase == .isolated))

/-- A halt for a cause, which the Miller ends (R46, R47, R388). -/
def haltFor (cause : Nat) (s : State) (c : Nat) : State :=
  if !(haltable s c) then s
  else
    let s1 := if s.mil.holds.contains (cause, c) then s else { s with mil := { s.mil with holds := s.mil.holds ++ [(cause, c)] } }
    haltCtx s1 c

/-- The cause of a halt at lost or unreadable data of a page (R222, R240). -/
def pageCause (p : Nat) : Nat := 4096 + p

/-- The page of the first byte of a list that is lost or unreadable. -/
def lostPage (s : State) (as : List Nat) : Option Nat := (as.find? (fun a => readErr s a == some .data)).map (· / 2 ^ 20)

/-! ### Overlapping faults (R15) -/

/-- Whether a cause of a hold is the fault of a Stone, a Quern or a page. -/
def faultCause (k : Nat) : Bool := (decide (24 ≤ k) && decide (k < 28)) || (decide (64 ≤ k) && decide (k < 192)) || decide (4096 ≤ k)

/-- Whether a Stone's or a Quern's recovery is under way: the unit is fenced and its Stone is still enabled (R388, R392). -/
def unitRecovers (s : State) : Bool :=
  (List.range 4).any (fun n => s.boot.stonesEn.getLsbD n && (s.stone n).fenced)
    || s.querns.any (fun x => x.2.fenced && s.boot.stonesEn.getLsbD (x.1 / 32))

/-- Whether a page's recovery is under way: a frame waits for its retirement, or a context for a page (R240). -/
def pageRecovers (s : State) : Bool := !s.mm.retiring.isEmpty || s.mil.holds.any (fun h => decide (4096 ≤ h.1))

/-- The contexts that faults hold stop: no acceptance is claimed for their work any more, and no recovery resumes them (R15). -/
def stopHeld (s : State) : State :=
  let cs := ((s.mil.holds.filter (fun h => faultCause h.1)).map (·.2)).eraseDups
  let s1 := cs.foldl (fun s c => s.updCtx c (fun x => { x with state := .stopped, resumeAfterDrain := false })) s
  { s1 with mil := { s1.mil with holds := s1.mil.holds.filter (fun h => !(faultCause h.1)) } }

/-- What follows a fault that came in the state `before` and has been handled so far in `s`: a fault that overlaps the recovery of another,
other than a page's with a page's, stops the contexts that both affect (R15). -/
def overlapping (page : Bool) (before s : State) : State := if unitRecovers before || (!page && pageRecovers before) then stopHeld s else s

/-- A context's access has met lost or unreadable data: it halts until the page has been recovered (R222, R239). -/
def haltData (s : State) (c : Nat) (as : List Nat) : State :=
  match lostPage s as with
  | some p => if unitRecovers s then stopHeld (haltFor (pageCause p) s c) else haltFor (pageCause p) s c
  | none => haltCtx s c

/-- Contexts whose groups name a Quern that satisfies a test. -/
def ctxsWith (s : State) (p : Nat → Bool) : List Nat := (s.ctxs.filter (fun x => (x.2.groups.flatMap id).any p)).map (·.1)

/-- A drain (R46, R250). -/
def drainCtx (s : State) (c : Nat) : State :=
  let x := s.ctx c
  if x.state = .running then s.setCtx c { x with state := .draining } else s

/-- The Miller resumes a context: at once when QUIESCED or HALTED, after the drain when DRAINING (R47, R250). -/
def resumeCtx (s : State) (c : Nat) : State :=
  let x := s.ctx c
  if x.state = .quiesced ∨ x.state = .halted then (returnSeq s c).updCtx c (fun x => { x with state := .running })
  else if x.state = .draining then s.setCtx c { x with resumeAfterDrain := true }
  else s

/-! ### The sequencer's tokens (R181) -/

def Ctx.token (x : Ctx) (t : Nat) : Nat := x.tokens.getD t 0
def Ctx.setToken (x : Ctx) (t n : Nat) : Ctx := { x with tokens := x.tokens.set t n }

/-- A stage program's signal adds n to a token; above 0xFFFF the context stops with code 0x50 (R166, R181). -/
def stageSignalBy (s : State) (c idx tok n : Nat) : State :=
  let x := s.ctx c
  if x.token tok + n > 0xFFFF then stopCtx s c 0x50 idx [] else s.setCtx c (x.setToken tok (x.token tok + n))

def stageSignal (s : State) (c idx : Nat) (sen : Bool) (tok : Nat) : State := if sen then stageSignalBy s c idx tok 1 else s

/-- A signal that comes after its instruction has issued: a later return to an HPOP behind that instruction finds it as well (R47, R181). -/
def lateSignal (s : State) (c no idx : Nat) (sen : Bool) (tok : Nat) : State :=
  if sen then
    stageSignalBy (s.updCtx c (fun x => { x with snaps := x.snaps.map (fun n =>
      if no < n.no then { n with tokens := n.tokens.upd tok 0 (· + 1) } else n) })) c idx tok 1
  else s

/-! ### Steps (R142, R145, R186, R267) -/

def Ctx.step (x : Ctx) (n : Nat) : StepInfo := x.steps.getD n {}
def Ctx.setStep (x : Ctx) (n : Nat) (i : StepInfo) : Ctx := { x with steps := x.steps.set n i }

/-- Whether a step is final: marked so, or below the first step that the load names (R142). -/
def Ctx.isFinal (x : Ctx) (n : Nat) : Bool := decide (n < x.firstStep) || (x.step n).final

/-- The step's NONFINITE status; a step below the first is finite (R142). -/
def Ctx.stepNonfinite (x : Ctx) (n : Nat) : Bool := !(decide (n < x.firstStep)) && (x.step n).nonfinite

/-- The loss-scale update at finalisation (R145). -/
def LScale.after (l : LScale) (nonfinite : Bool) : LScale :=
  if nonfinite then
    { l with lsExp := if l.lsExp.toInt - 1 < l.lsMin.toInt then l.lsMin else l.lsExp - 1, goodRun := 0 }
  else
    let g := l.goodRun + 1
    if l.growth ≠ 0 ∧ g = l.growth then
      { l with lsExp := if l.lsExp.toInt + 1 > l.lsMax.toInt then l.lsMax else l.lsExp + 1, goodRun := 0 }
    else { l with goodRun := g }

/-- A step becomes final: its status is fixed, the loss scale moves, its latch record becomes the snapshot of the next step (R142,
R145, R186). -/
def finalizeStep (s : State) (c n : Nat) : State :=
  let x := s.ctx c
  let i := x.step n
  let x1 := x.setStep n { i with final := true, lsExp := x.lscale.lsExp, latches := 0 }
  let x2 := x1.setStep (n + 1) { x1.step (n + 1) with snapshot := i.latches }
  let s1 := s.setCtx c { x2 with lscale := x.lscale.after i.nonfinite }
  if i.nonfinite then
    let s2 := logEvent s1 evStepSkipped scCtx c [n]
    if x.lscale.lsExp = x.lscale.lsMin then logEvent s2 evStepSkippedFloor scCtx c [n] else s2
  else s1

/-- Every reduction that has been issued for the step has completed, the marked one among them (R142). -/
def finalizeIfDone (s : State) (c n : Nat) : State :=
  let i := (s.ctx c).step n
  if i.lastIssued && decide (i.done ≥ i.issued) && !i.final then finalizeStep s c n else s

/-- The lowest FINAL_STEP over the loaded contexts, if each of them has one (R447). -/
def lowestFinal (s : State) : Option Nat :=
  (s.ctxs.filter (fun x => x.2.state ≠ .unloaded)).foldl (fun (m : Option (Option Nat)) x =>
    match m, x.2.finalStep with
    | none, f => some f
    | some (some a), some b => some (some (min a b))
    | some _, _ => some none) none |>.getD none

/-- RETX summed over Races and host ports (R447). -/
def retxTotal (s : State) : Nat := (s.races.map (·.2.retx)).sum + (s.hosts.map (·.2.retx)).sum

/-- The STEP event when the lowest FINAL_STEP advances; the activity counts are Config's (R447, assumption 9). -/
def stepEvent (s : State) : State :=
  match lowestFinal s with
  | none => s
  | some n =>
    if (match s.stepEventLow with | some m => decide (n ≤ m) | none => false) then s
    else
      let s1 := { s.nextFree with stepEventLow := some n, stepEventBase := s.timeNs }
      let counts : List W64 := (List.range 5).map (fun i => Config.activity (s.freeCtr * 8 + i))
        ++ [BitVec.ofNat 64 s.galley.regrinds, BitVec.ofNat 64 (retxTotal s)]
      if s.sec.phase == .admitted && s.sec.frisket.jobView.getLsbD 1 then
        toSubscribers s1 (.stepEvent n ((s.timeNs - s.stepEventBase) / 1000) counts)
      else s1

/-- Whether every peer's token for a step has arrived (R291). -/
def tokensIn (x : Ctx) (n : Nat) : Bool := x.peers.all (fun p => match p.lastToken with | some t => decide (n ≤ t) | none => false)

def noticesIn (x : Ctx) (n : Nat) : Bool := x.peers.all (fun p => match p.lastNotice with | some t => decide (n ≤ t) | none => false)

/-- Whether an X instruction is a move marked WGBEND (R157). -/
def marksWgbend (x : SeqInstr) : Bool := x.op == .xmove && fld x.issue 17 1 == 1

/-- Whether the X stream of a running program still has a WGBEND move to issue. -/
def wgbendLeft (v : Quern) : Bool :=
  let t := v.stream .x
  let l := v.seqOf .x
  !t.ended && ((l.drop t.pos).any marksWgbend || (!t.loops.isEmpty && l.any marksWgbend))

/-- Whether a program of a context's step has a WGBEND move on a Quern that has not completed: it waits, is loaded, or runs with such a move in
flight or still to issue (R158). -/
def wgbendOn (v : Quern) (c n : Nat) : Bool :=
  let mine (l : Load) : Bool := l.ctx == c && l.step == n && l.wgbend
  v.waiting.any mine || v.next.any (fun p => mine p.load)
    || (v.run.any (fun p => mine p.load) && (v.moves.any (fun m => m.wgbend.isSome) || wgbendLeft v))

/-- Whether WGBEND moves of a context's step have still to complete: on a Quern, or in a DISPATCH of the step that has not reached its Querns
(R158). DEDUCED (assumption 115): the moves of a step are those of the programs that the context dispatches for it. -/
def wgbendOut (s : State) (c n : Nat) : Bool :=
  (s.ctx c).deferred.any (fun d => d.op == .dispatch && d.step.toNat == n) || s.querns.any (fun x => wgbendOn x.2 c n)

/-- Whether an entry is to be released: DONE with the receipt, its step closed, and for forward work every WGBEND move of its step completed
(R158, R254, R267). -/
def releasable (s : State) (e : Entry) : Bool :=
  e.state == .done && e.rcpt && ((s.ctx (e.hopper / 2)).step e.step.toNat).closed
    && (e.hopper % 2 == 1 || !(wgbendOut s (e.hopper / 2) e.step.toNat))

/-- Releases every entry that is to be released. -/
def releaseClosed (s : State) : State := ((s.pool.filter (fun x => releasable s x.2)).map (·.1)).foldl releaseEntry s

/-- Releases what has become due outside a round of what follows by itself: behind the twin's acknowledgement where one is outstanding (R401). -/
def releaseDue (s : State) : State :=
  if pairActive s && decide (s.pair.ackJsn + 1 < s.pair.nextJsn) then
    { s with pair := { s.pair with held := s.pair.held ++ [(s.pair.nextJsn - 1, .release)] } }
  else releaseClosed s

/-- Closes step n of a context if it can be closed (R267). -/
def closeStep (c n : Nat) (s : State) : State :=
  let x := s.ctx c
  let i := x.step n
  if x.state ≠ .unloaded ∧ x.isFinal n ∧ i.tokenDone ∧ tokensIn x n ∧ ¬ i.closed then
    let fin := match x.finalStep with | some f => max f n | none => n
    stepEvent (s.setCtx c { (x.setStep n { i with closed := true }) with finalStep := some fin })
  else s

/-! ### Editions (R276 to R291) -/

/-- The Edition entries of a shard, as (index, entry), not FREE. -/
def edsOf (s : State) (sh : Nat) : List (Nat × EdEnt) := s.eds.filter (fun x => x.2.shard == sh && x.2.state != .free)

/-- The newest Edition of a list. -/
def newest (l : List (Nat × EdEnt)) : Option (Nat × EdEnt) :=
  l.foldl (fun m x => match m with | none => some x | some y => if y.2.number < x.2.number then some x else some y) none

/-- The newest COMMITTED Edition of a shard. -/
def newestCommitted (s : State) (sh : Nat) : Option (Nat × EdEnt) := newest ((edsOf s sh).filter (fun x => x.2.state == .committed))

/-- The updated shards of a context. -/
def updatedShards (s : State) (c : Nat) : List Nat := (s.ctx c).shards.filter (fun i => !(s.shard i).static)

def settledAt (s : State) (sh n : Nat) : Bool := match (s.shard sh).settled with | some t => decide (n ≤ t) | none => false

/-- A commit or a skip settles a step: SETTLED only increases, and a skip does not make it valid before the first commit (R278, R282). -/
def settleTo (s : State) (sh n : Nat) (commit : Bool) : State :=
  let x := s.shard sh
  match x.settled with
  | some t => s.setShard sh { x with settled := some (max t n) }
  | none =>
    let m := max n (x.skipped.getD n)
    s.setShard sh (if commit then { x with settled := some m, skipped := none } else { x with skipped := some m })

/-- An Edition becomes FREE: its pages return to the owner, and the EDRETIREs that marked it no longer wait for it (R282, R288). -/
def freeEdition (s : State) (e : Nat) : State :=
  let v := s.ed e
  let s1 := returnPages s v.owner v.pages
  let s2 := s1.setEd e { owner := v.owner }
  s2.updCtx v.owner (fun x => { x with pends := x.pends.map (fun p =>
    match p.what with
    | .retire l => { p with what := .retire (l.filter (· != e)) }
    | _ => p) })

/-- Frees a RETIRING Edition when its references are gone and the notices are in (R289). -/
def freeRetiring (s : State) (e : Nat) : State :=
  let v := s.ed e
  if v.state = .retiring ∧ v.refcount = 0 then
    match newestCommitted s v.shard with
    | some (_, n) => if noticesIn (s.ctx v.owner) n.number then freeEdition s e else s
    | none => s
  else s

/-- Commits a PENDING Edition whose commit is requested once every peer's token is in (R49, R282). -/
def commitEdition (s : State) (e : Nat) : State :=
  let v := s.ed e
  if v.state = .pending ∧ v.requested ∧ tokensIn (s.ctx v.owner) v.number then
    settleTo (s.setEd e { v with state := .committed, requested := false }) v.shard v.number true
  else s

/-- Steps that a context knows, in order. -/
def ctxSteps (s : State) (c : Nat) : List Nat := (s.ctx c).steps.map (·.1)

/-! ### Signals that come later (R181, R209) -/

/-- Whether a token of step n is still without a receipt on one of the peers' Flumes (R290). -/
def tokenOut (s : State) (x : Ctx) (n : Nat) : Bool :=
  x.peers.any (fun p => (s.flume p.out).tx.any (fun t => match t.kind with | .token m => m == n | _ => false))

/-- Whether what a signal waits for has come about. A reduction's signal is given by its completion. -/
def awaitDone (s : State) (x : Ctx) : Await → Bool
  | .rcpt e => (match s.entry? e with | some v => v.rcpt | none => true)
  | .commit sh n => tokensIn x n && !((edsOf s sh).any (fun v => v.2.state == .pending && v.2.requested))
  | .retire l => l.isEmpty
  | .tokens n => !(tokenOut s x n)
  | .red _ => false

/-- Gives the signals that are due, in the order of their instructions. A STEPTOKEN that signals marks its step (R267). -/
def firePends (c : Nat) (s : State) : State :=
  let x := s.ctx c
  let due := x.pends.filter (fun p => awaitDone s x p.what)
  let s1 := s.setCtx c { x with pends := x.pends.filter (fun p => !(awaitDone s x p.what)) }
  due.foldl (fun s p =>
    let s := match p.what with
      | .tokens n => s.updCtx c (fun x => x.setStep n { x.step n with tokenDone := true })
      | _ => s
    lateSignal s c p.no p.idx p.sen p.stok) s1

end Sys2Proof.Machine
end

