-- ==== Sys2Proof/Machine/Move.lean ====
section
/-!
DEFINITION. The X stream: moves, prefetches, drops and fences (R167, R176 to R178, R205, R206, R232).
-/

namespace Sys2Proof.Machine

/-- Continues a next state. -/
def andThen (r : Res) (f : State → State) : Res :=
  match r with
  | .next s => .next (f s)
  | .fault e => .fault e
  | .refused e => .refused e

/-- Whether a tensor lies within the 48-bit address space. -/
def Desc.inSpace (d : Desc) : Bool := rangesIn (d.ranges 0 d.count) 0 (2 ^ 48)

/-- Whether a tensor lies wholly in Bin space. -/
def Desc.inBins (d : Desc) : Bool := rangesIn (d.ranges 0 d.count) 0 (2 ^ 39)

/-- Whether a tensor lies wholly in a Quern's own window. -/
def Desc.inWindow (d : Desc) (q : Nat) : Bool := rangesIn (d.ranges 0 d.count) (winBase q) (winBase q + winEnd)

/-- The context of the program that runs on a Quern. -/
def Quern.ctxOf (v : Quern) : Nat := match v.run with | some sl => sl.load.ctx | none => 0

/-- The lowest free move tag of a Quern (R178). -/
def freeTag (v : Quern) : Nat := ((List.range 96).find? (fun t => !(v.moves.any (fun m => m.tag == t)))).getD 0

def tagFree (v : Quern) : Bool := decide (v.moves.length < 96)

/-- The XMOVE checks of R193, R205 and R206: its two ends. -/
def moveEnds (q : Nat) (i : Issue) (v : Quern) : Except Nat (MoveEnd × MoveEnd) := do
  let sk := fld i 12 2
  let dk := fld i 14 2
  let wgbend := fld i 17 1 = 1
  needTop i 20
  need (sk ≠ 3 && dk ≠ 3) 0x22
  need (sk = 0 || dk = 0) 0x17
  need (!wgbend || sk = 0) 0x17
  if sk = 0 then
    let a ← needDesc v (fld i 0 6)
    need (!wgbend || rangesIn (a.ranges 0 a.count) (winBase q + wgbOff) (winBase q + accOff)) 0x17
    if dk = 0 then
      let b ← needDesc v (fld i 6 6)
      need (a.fmt == b.fmt && a.count = b.count) 0x17
      need (!a.fmt.isBlock || sameBlocks a b) 0x17
      .ok (.tensor (v.dslot (fld i 0 6)), .tensor (v.dslot (fld i 6 6)))
    else do
      need (decide (a.count * a.fmt.width = if dk = 1 then 1024 else 384)) 0x17
      .ok (.tensor (v.dslot (fld i 0 6)), if dk = 1 then .status (fld i 6 6) else .desc (fld i 6 6))
  else
    let b ← needDesc v (fld i 6 6)
    need (decide (b.count * b.fmt.width = if sk = 1 then 1024 else 384)) 0x17
    .ok (if sk = 1 then .status (fld i 0 6) else .desc (fld i 0 6), .tensor (v.dslot (fld i 6 6)))

/-- The XFETCH checks (R205, R206). -/
def fetchEnds (q : Nat) (i : Issue) (v : Quern) : Except Nat (MoveEnd × MoveEnd) := do
  need (fld i 12 4 = 0 && fld i 17 26 = 0) 0x20
  let a ← needDesc v (fld i 0 6)
  let b ← needDesc v (fld i 6 6)
  need (a.fmt == b.fmt && a.count = b.count && (!a.fmt.isBlock || sameBlocks a b)) 0x17
  need (a.inBins && b.inWindow q) 0x17
  .ok (.tensor (v.dslot (fld i 0 6)), .tensor (v.dslot (fld i 6 6)))

/-- A move takes a tag and is in flight (R178). -/
def issueMove (q : Nat) (i : Issue) (ends : MoveEnd × MoveEnd) (wgb : Option Nat) (s : State) : State :=
  s.updQuern q (fun v => { v with
    xord := v.xord + 1
    moves := v.moves ++ [{ tag := freeTag v, ord := v.xord, src := ends.1, dst := ends.2, last := fld i 16 1 = 1, wgbend := wgb,
                           idx := (v.stream .x).pos, sen := i.sen, stok := i.stok.toNat }] })

/-- XMOVE (R177, R178, R205, R206). -/
def execXmove (q : Fin 128) (i : Issue) (s : State) : Res :=
  startInstr q .x .xmove i false tagFree (fun s => do
    let ends ← moveEnds q i (s.quern q)
    .ok (issueMove q i ends (if fld i 17 1 = 1 then some (fld i 18 2) else none) s)) s

/-- XFETCH (R177, R178, R205, R206). -/
def execXfetch (q : Fin 128) (i : Issue) (s : State) : Res :=
  startInstr q .x .xfetch i false tagFree (fun s => do
    let ends ← fetchEnds q i (s.quern q)
    .ok (issueMove q i ends none s)) s

/-- The fences that no earlier move or prefetch of the Quern holds back signal, in order (R167). -/
def fireFences (q : Nat) (s : State) : State :=
  let v := s.quern q
  let out := v.moves.map (·.ord) ++ (s.mm.prefetch.filter (fun p => p.quern == q && !p.orphan)).map (·.ord)
  let ready (f : Fence) : Bool := out.all (fun o => decide (f.ord ≤ o))
  let due := v.fences.filter ready
  due.foldl (fun s f => signalIf s q .x f.idx f.sen f.stok) (s.setQuern q { v with fences := v.fences.filter (fun f => !(ready f)) })

/-- XFENCE (R167, R205). -/
def execXfence (q : Fin 128) (i : Issue) (s : State) : Res :=
  andThen (startInstr q .x .xfence i false always (fun s => do
    needTop i 0
    .ok (s.updQuern q (fun v => { v with
      xord := v.xord + 1
      fences := v.fences ++ [{ ord := v.xord, idx := (v.stream .x).pos, sen := i.sen, stok := i.stok.toNat }] }))) s) (fireFences q)

/-- A range of Bin space named by an XPREF or XDROP (R206), whose pages an access could reach (R25). -/
def binRange (i : Issue) (s : State) (v : Quern) : Except Nat Desc := do
  let d ← needDesc v (fld i 0 6)
  need d.inBins 0x17
  need (d.addrs.all (fun a => readErr s a != some .addr)) 0x30
  .ok d

/-- The prefetchers that a context has at work. -/
def prefetchers (s : State) (c : Nat) : List Prefetch := s.mm.prefetch.filter (fun p => p.ctx == c)

/-- XPREF (R167, R205, R206, R232): it waits while no prefetcher of its context is free. -/
def execXpref (q : Fin 128) (i : Issue) (s : State) : Res :=
  startInstr q .x .xpref i false (fun v => decide ((prefetchers s v.ctxOf).length < 8)) (fun s => do
    let v := s.quern q
    needTop i 6
    let d ← binRange i s v
    let slot := ((List.range 8).find? (fun n => !((prefetchers s v.ctxOf).any (fun p => p.slot == n)))).getD 0
    let p : Prefetch := { ord := v.xord, ctx := v.ctxOf, slot := slot, quern := q, lines := (d.addrs.map (· / 512)).eraseDups,
                          hint := BitVec.ofNat 2 d.hint, sen := i.sen, stok := i.stok.toNat, idx := (v.stream .x).pos }
    .ok ({ s with mm := { s.mm with prefetch := s.mm.prefetch ++ [p] } }.setQuern q { v with xord := v.xord + 1 })) s

/-- XDROP (R167, R205, R206, R228). -/
def execXdrop (q : Fin 128) (i : Issue) (s : State) : Res :=
  startInstr q .x .xdrop i true always (fun s => do
    let v := s.quern q
    need (fld i 6 10 = 0 && fld i 17 26 = 0) 0x20
    let d ← binRange i s v
    .ok ((xdropLines s (linesOf s d.addrs)).setQuern q { v with xord := v.xord + 1 })) s

/-- A move leaves flight: its tag is free. -/
def endMove (s : State) (q tag : Nat) : State := s.updQuern q (fun v => { v with moves := v.moves.filter (fun m => m.tag != tag) })

/-- The tensors at the ends of a move. -/
def Move.tensors (m : Move) : List Desc := m.src.tensor?.toList ++ m.dst.tensor?.toList

/-- A WGBEND move's region becomes +0 and its counter 0 (R157). -/
def wgbendClear (s : State) (q : Nat) (m : Move) : State :=
  match m.wgbend, m.src.tensor? with
  | some k, some d =>
    let s1 := { s with mem := Memory.setAll s.mem (d.addrs.map (fun a => (a, (0 : W8)))) }
    s1.updQuern q (fun v => { v with wgo := v.wgo.set k 0 })
  | _, _ => s

/-- The failing end of a move: an address error stops program and context and writes nothing (R25, R180); lost or unreadable data
halts the context (R222). -/
def moveFails (s : State) (q : Nat) (m : Move) (e : AccErr) : State :=
  match e with
  | .addr => failInstr (endMove s q m.tag) q .x m.idx 0x30
  | .data => haltData (endMove s q m.tag) (s.quern q).ctxOf (m.tensors.flatMap Desc.addrs)

/-- A move completes: what it reads is delivered, the Store sees both accesses, WGBEND and LAST act, the instruction signals (R157, R167,
R176, R206, R228). -/
def completeMove (q : Nat) (m : Move) (s : State) : State :=
  if !(m.tensors.all Desc.inSpace) then moveFails s q m .addr
  else
    match moveOut s q m with
    | (_, some .addr) => moveFails s q m .addr
    | (o, some .data) => moveFails (deliver s q o).1 q m .data
    | (o, none) =>
      let s1 := m.tensors.foldl (fun s d => touchTensor s (s.quern q).ctxOf d) s
      match deliver s1 q o with
      | (_, some .addr) => moveFails s q m .addr
      | (s2, some .data) => moveFails s2 q m .data
      | (s2, none) =>
        let s3 := match m.src.tensor?, m.last with
          | some d, true => lastLines s2 (linesOf s2 d.addrs)
          | _, _ => s2
        fireFences q (signalIf (endMove (wgbendClear s3 q m) q m.tag) q .x m.idx m.sen m.stok)

/-- MOVE_COMPLETE (R35, R157, R167, R176, R178, R222, R228). -/
def execMoveComplete (q : Fin 128) (tag : Nat) (s : State) : Res :=
  whileClocked s (
    match (s.quern q).moves.find? (fun m => m.tag == tag) with
    | some m => .next (releaseDue (completeMove q m s))
    | none => .next s)

/-- Whether the prefetcher can read a line of Bin space: its page has a frame and no granule of it is marked unreadable; a line of a LOST or
UNBACKED page is left absent like an uncorrectable one (R222, R232). -/
def linePlaceable (s : State) (v : Nat) : Bool := ((List.range 8).map (fun g => v * 512 + g * 64)).all (fun a => (readErr s a).isNone)

/-- The Store's side of a prefetched line (R232): a line that is present is not refetched; a stream hint allocates a normal line at the eviction
end of its set, any other hint allocates as its access does. -/
def prefetchLine (s : State) (p : Prefetch) (v : Nat) : State :=
  let l := lineOf (keyOf s (v * 512))
  if p.hint = 1 ∨ p.hint = 2 then touchLine s p.hint.toNat p.ctx l
  else if (s.mm.lines.find? l).isSome then s
  else setLine s l { kind := .normal, dirty := false, owner := p.ctx, old := [], used := 0 }

/-- PREFETCH_COMPLETE (R167, R232). -/
def execPrefetchComplete (c : Fin 32) (slot : Fin 8) (s : State) : Res :=
  whileClocked s (
    match (prefetchers s c).find? (fun p => p.slot == slot.val) with
    | none => .next s
    | some p =>
      let s1 := (p.lines.filter (linePlaceable s)).foldl (fun s v => prefetchLine s p v) s
      let s2 := { s1 with mm := { s1.mm with prefetch := s1.mm.prefetch.filter (fun x => !(x.ctx == p.ctx && x.slot == p.slot)) } }
      .next (fireFences p.quern (signalIf s2 p.quern .x p.idx p.sen p.stok)))

end Sys2Proof.Machine
end

