-- ==== Sys2Proof/Machine/Control.lean ====
section
/-!
DEFINITION. Instructions of the C class, at a Quern's stream or at a stage sequencer, and the start of every stage-program
instruction (R164 to R172, R180 to R186, R207 to R211, R216).
-/

namespace Sys2Proof.Machine

/-! ### The start of a stage-program instruction -/

/-- When an instruction of a stage program signals. -/
inductive SigWhen where
  | now
  | later (w : Await)
  | never
  deriving DecidableEq, Repr

/-- Whether a stage sequencer may issue an instruction: well formed and the next of its program, the context RUNNING; when the context
drains or is QUIESCED only an instruction that a drain does not hold back, and none of a takeover context that has not begun (R46, R181,
R250, R400). -/
def Ctx.ready (x : Ctx) (op : Opcode) (i : Issue) (held : Bool) : Bool :=
  wfStage op i && !x.seqr.ended && x.program[x.seqr.pos]? == some ⟨op, i⟩
    && (x.state == .running || (!held && (x.state == .draining || (x.state == .quiesced && !(x.takeover && x.seqr.pos == 0)))))

def Ctx.waitOk (x : Ctx) (i : Issue) : Bool := !i.wen || decide (x.token i.wtok.toNat ≥ 1)

def Ctx.takeWait (x : Ctx) (i : Issue) : Ctx := if i.wen then x.setToken i.wtok.toNat (x.token i.wtok.toNat - 1) else x

/-- The sequencer moves past its instruction. -/
def stageAdvance (s : State) (c : Nat) : State :=
  s.updCtx c (fun x => { x with seqr := { x.seqr with pos := x.seqr.pos + 1, waiting := none, hdrTaken := false } })

def stageWaiting (s : State) (c tok n : Nat) : State := s.updCtx c (fun x => { x with seqr := { x.seqr with waiting := some (tok, n) } })

/-- The signal of a stage-program instruction: at once, or when what it waits for has come about. -/
def stageSig (s : State) (c idx : Nat) (i : Issue) : SigWhen → State
  | .now => stageSignal s c idx i.sen i.stok.toNat
  | .later w => s.updCtx c (fun x => { x with pends := x.pends ++ [{ what := w, no := x.issued, idx := idx, sen := i.sen, stok := i.stok.toNat }] })
  | .never => s

/-- The start of an instruction of a stage program (R164, R181, R208, R211): no effect while the sequencer may not issue it; a wait
under R164; the header checks of code 0x24; then `body` gives its result and signal point, or the code with which the context stops. -/
def startStage (c : Nat) (op : Opcode) (i : Issue) (held : Bool) (enabled : State → Bool)
    (body : State → Except Nat (State × SigWhen)) (s : State) : Res :=
  let x := s.ctx c
  let idx := x.seqr.pos
  if !(x.ready op i held) then .next s
  else if i.wen && decide (i.wtok.toNat > 15) then .next (stopCtx s c 0x24 idx [])
  else if !(x.waitOk i) then .next (stageWaiting s c i.wtok.toNat 1)
  else if !(enabled s) then .next s
  else
    let s1 := s.setCtx c { x.takeWait i with issued := x.issued + 1 }
    if i.sen && decide (i.stok.toNat > 15) then .next (stopCtx s1 c 0x24 idx [])
    else
      match body s1 with
      | .error code => .next (stopCtx s1 c code idx [])
      | .ok (s2, w) => .next (stageSig (stageAdvance s2 c) c idx i w)

/-- No wait of its own. -/
def free (_ : State) : Bool := true

/-! ### CWAIT and CSIG (R164, R207) -/

/-- The operand checks of CWAIT and CSIG: reserved bits, COUNT, and a counter above 15 at a stage sequencer. -/
def ctrChecks (i : Issue) (stage : Bool) : Except Nat Unit := do
  needTop i 13
  need (fld i 5 8 ≠ 0) 0x23
  need (!stage || decide (fld i 0 5 ≤ 15)) 0x24

/-- CWAIT on a Quern: the header wait first, then COUNT of its counter in one action. -/
def quernCwait (q : Nat) (st : StreamId) (i : Issue) (s : State) : State :=
  let v := s.quern q
  let t := v.stream st
  if s.board.haltedByClock || !(v.ready st .cwait i) then s
  else if !(t.hdrTaken || v.waitOk i) then markWaiting s q st i.wtok.toNat 1
  else
    let v1 := if t.hdrTaken then v else v.takeWait i
    let s1 := s.setQuern q (v1.setStream st { t with hdrTaken := true })
    match ctrChecks i false with
    | .error code => failInstr s1 q st t.pos code
    | .ok () =>
      let k := fld i 0 5
      let n := fld i 5 8
      if v1.token k < n then markWaiting s1 q st k n
      else
        let s2 := s1.updQuern q (fun v => (v.setToken k (v.token k - n)).setStream st { v.stream st with hdrTaken := false })
        signalIf (advance s2 q st) q st t.pos i.sen i.stok.toNat

/-- CWAIT at a stage sequencer. -/
def stageCwait (c : Nat) (i : Issue) (s : State) : State :=
  let x := s.ctx c
  let idx := x.seqr.pos
  if !(x.ready .cwait i false) then s
  else if i.wen && decide (i.wtok.toNat > 15) then stopCtx s c 0x24 idx []
  else if !(x.seqr.hdrTaken || x.waitOk i) then stageWaiting s c i.wtok.toNat 1
  else
    let x1 := if x.seqr.hdrTaken then x else x.takeWait i
    let s1 := s.setCtx c { x1 with seqr := { x.seqr with hdrTaken := true } }
    match ctrChecks i true, i.sen && decide (i.stok.toNat > 15) with
    | .error code, _ => stopCtx s1 c code idx []
    | .ok (), true => stopCtx s1 c 0x24 idx []
    | .ok (), false =>
      let k := fld i 0 5
      let n := fld i 5 8
      if x1.token k < n then stageWaiting s1 c k n
      else stageSignal (stageAdvance (s1.updCtx c (fun x => x.setToken k (x.token k - n))) c) c idx i.sen i.stok.toNat

/-- CWAIT (R164, R167, R207). -/
def execCwait (u : Sequencer) (i : Issue) (s : State) : Res :=
  match u with
  | .quern q st => .next (quernCwait q st i s)
  | .stage c => .next (stageCwait c i s)

/-- CSIG (R164, R166, R207): COUNT is added at once. -/
def execCsig (u : Sequencer) (i : Issue) (s : State) : Res :=
  match u with
  | .quern q st =>
    startInstr q st .csig i true always (fun s => do
      ctrChecks i false
      let v := s.quern q
      let n := v.token (fld i 0 5) + fld i 5 8
      need (decide (n ≤ 0xFFFF)) 0x50
      .ok (s.setQuern q (v.setToken (fld i 0 5) n))) s
  | .stage c =>
    startStage c .csig i false free (fun s => do
      ctrChecks i true
      let x := s.ctx c
      let n := x.token (fld i 0 5) + fld i 5 8
      need (decide (n ≤ 0xFFFF)) 0x50
      .ok (s.setCtx c (x.setToken (fld i 0 5) n), .now)) s

/-! ### Loops (R168, R216) -/

/-- The slots that an ADVANCE mask names. -/
def maskSlots (m : W64) : List Nat := (List.range 64).filter (fun n => m.getLsbD n)

/-- TRIP's checks (R193, R207). -/
def tripChecks (i : Issue) : Except Nat Unit := do
  needTop i 16
  need (fld i 0 16 ≠ 0) 0x23

/-- The base of a slot after an advance, within its 48 bits. -/
def addr48 (a : Int) : Nat := (a % 2 ^ 48).toNat

/-- One advance of a slot: its base and scale position grow, its cursor becomes 0 (R168, R216). -/
def advanceSlot (d : DSlot) : Except Nat DSlot :=
  let l := slotLstride d.bits
  let b := slotBase d.bits
  let sb := slotScaleBase d.bits
  match fmtOfCode (slotFmt d.bits) with
  | some f =>
    if f.isBlock then
      if l % (f.blockBytes : Int) = 0 then
        .ok { d with bits := withBases d.bits (addr48 (b + l)) (addr48 (sb + l / (f.blockBytes : Int))), cursor := 0 }
      else .error 0x15
    else .ok { d with bits := withBases d.bits (addr48 (b + l)) sb, cursor := 0 }
  | none => .ok { d with bits := withBases d.bits (addr48 (b + l)) sb, cursor := 0 }

/-- Advances every slot of a mask. -/
def advanceSlots (v : Quern) : List Nat → Except Nat Quern
  | [] => .ok v
  | n :: t =>
    match advanceSlot (v.dslot n) with
    | .error e => .error e
    | .ok d => advanceSlots (v.setDslot n d) t

/-- The bases of the masked slots return to their values at CLOOP (R168). -/
def restoreSlots (v : Quern) (l : Loop) : Quern :=
  l.saved.foldl (fun v p => v.setDslot p.1 { v.dslot p.1 with bits := withBases (v.dslot p.1).bits (slotBase p.2) (slotScaleBase p.2) }) v

/-- CLOOP (R168, R207). -/
def execCloop (u : Sequencer) (i : Issue) (s : State) : Res :=
  match u with
  | .quern q st =>
    startInstr q st .cloop i true always (fun s => do
      tripChecks i
      let v := s.quern q
      let t := v.stream st
      let mask : W64 := i.ext.getD 0
      let l : Loop := { start := t.pos + 1, left := fld i 0 16 - 1, mask := mask,
                        saved := (maskSlots mask).map (fun n => (n, (v.dslot n).bits)) }
      .ok (s.setQuern q (v.setStream st { t with loops := l :: t.loops }))) s
  | .stage c =>
    startStage c .cloop i false free (fun s => do
      tripChecks i
      .ok (s.updCtx c (fun x =>
        let l : Loop := { start := x.seqr.pos + 1, left := fld i 0 16 - 1, mask := 0, saved := [] }
        { x with seqr := { x.seqr with loops := l :: x.seqr.loops } }), .now)) s

/-- A CEND at a Quern: another iteration, or the loop's end (R168, R216). -/
def quernCend (q : Nat) (st : StreamId) (s : State) : Except Nat State :=
  let v := s.quern q
  let t := v.stream st
  match t.loops with
  | [] => .ok s
  | l :: rest =>
    if l.left = 0 then .ok (s.setQuern q ((restoreSlots v l).setStream st { t with loops := rest }))
    else do
      let v1 ← advanceSlots v (maskSlots l.mask)
      .ok (s.setQuern q (v1.setStream st { t with loops := { l with left := l.left - 1 } :: rest, pos := l.start - 1 }))

/-- A CEND at a stage sequencer. -/
def stageCend (c : Nat) (s : State) : State :=
  s.updCtx c (fun x =>
    match x.seqr.loops with
    | [] => x
    | l :: rest =>
      if l.left = 0 then { x with seqr := { x.seqr with loops := rest } }
      else { x with seqr := { x.seqr with loops := { l with left := l.left - 1 } :: rest, pos := l.start - 1 } })

/-- CEND (R168, R207, R216): it acts, waits and signals at every iteration. -/
def execCend (u : Sequencer) (i : Issue) (s : State) : Res :=
  match u with
  | .quern q st =>
    startInstr q st .cend i true always (fun s => do
      needTop i 0
      quernCend q st s) s
  | .stage c =>
    startStage c .cend i false free (fun s => do
      needTop i 0
      .ok (stageCend c s, .now)) s

/-! ### CPHASE, CBAR, CHALT -/

/-- A phase marker at a Stone: the most recent one is in force; one that the controller has not sampled before the next is counted and no
more (R45). -/
def notePhase (p : StonePwr) (phase : Nat) : StonePwr :=
  { p with phase := phase, phaseMoved := p.phaseMoved || p.phase != phase, marked := true, markers := if p.marked then p.markers + 1 else p.markers }

/-- CPHASE reports a phase of the Quern's Stone to the power controller (R45, R170, R207). -/
def execCphase (q : Fin 128) (i : Issue) (s : State) : Res :=
  startInstr q .c .cphase i true always (fun s => do
    needTop i 8
    .ok (s.updStone (q.val / 32) (fun p => notePhase p (fld i 0 8)))) s

/-- The members of a DISPATCH that have sent no notice. -/
def openMembers (s : State) (c d : Nat) : List Nat :=
  match (s.ctx c).disps.find? (fun x => x.id = d) with
  | some x => x.members.filter (fun m => !(x.notices.any (fun n => n.quern == m)))
  | none => []

/-- Whether a Quern runs the program of a DISPATCH without an error. -/
def runsDisp (v : Quern) (c d : Nat) : Bool :=
  v.err.isNone && (match v.run with | some sl => sl.load.ctx == c && sl.load.disp == d | none => false)

/-- The BARID at which a member waits. -/
def barId (v : Quern) (c d : Nat) : Option W8 := if runsDisp v c d then v.barrier.map (·.1) else none

/-- Every member of the group waits at its CBAR, the matched set of R169. -/
def allAtBarrier (s : State) (c d : Nat) : Bool :=
  let ms := dispMembers s c d
  !ms.isEmpty && ms.all (fun m => (barId (s.quern m) c d).isSome)

/-- Releases a matched set of CBARs, or stops every member with code 0x51 when their BARIDs differ (R169). -/
def releaseBarrier (s : State) (c d : Nat) : State :=
  let ms := dispMembers s c d
  let ids := (ms.map (fun m => barId (s.quern m) c d)).eraseDups
  if !(allAtBarrier s c d) then s
  else if ids.length = 1 then
    ms.foldl (fun s m =>
      let v := s.quern m
      match v.barrier with
      | some (_, sen, tok) => signalIf (s.setQuern m { v with barrier := none }) m .c ((v.stream .c).pos - 1) sen tok
      | none => s) s
  else
    ms.foldl (fun s m => s.updQuern m (fun v => { v with barrier := none, err := some ⟨0x51, .c, (v.stream .c).pos - 1⟩ })) s

/-- CBAR (R169, R207): a group of one Quern releases it at once. -/
def execCbar (q : Fin 128) (i : Issue) (s : State) : Res :=
  andThen (startInstr q .c .cbar i false always (fun s => do
    needTop i 8
    .ok (s.updQuern q (fun v => { v with barrier := some (BitVec.ofNat 8 (fld i 0 8), i.sen, i.stok.toNat) }))) s)
    (fun s =>
      match (s.quern q).run with
      | some sl => if (dispMembers s sl.load.ctx sl.load.disp).length = 1 then releaseBarrier s sl.load.ctx sl.load.disp else s
      | none => s)

/-- BARRIER_RELEASE (R167, R169, R180). -/
def execBarrierRelease (c : Fin 32) (disp : Nat) (s : State) : Res :=
  whileClocked s (.next (releaseBarrier s c disp))

/-- CHALT ends the C stream (R171, R207). -/
def execChalt (q : Fin 128) (i : Issue) (s : State) : Res :=
  startInstr q .c .chalt i true always (fun s => do
    needTop i 0
    .ok s) s

/-- CHALT in a stage program ends the context's sequence; its Hoppers keep accepting (R181, R250). -/
def execStageProgramChalt (c : Fin 32) (i : Issue) (s : State) : Res :=
  startStage c .chalt i true free (fun s => do
    needTop i 0
    .ok (s.updCtx c (fun x => { x with state := .ended, seqr := { x.seqr with ended := true } }), .now)) s

/-! ### Completion (R71, R171, R172, R184) -/

/-- Whether a Quern's program has nothing left to do: all its streams ended, every instruction at its signal point, no write-out, move
or CBAR open (R171); after an error, its moves are done (R180). -/
def programDone (s : State) (q : Nat) : Bool :=
  let v := s.quern q
  let pre := s.mm.prefetch.any (fun p => p.quern == q && !p.orphan)
  v.moves.isEmpty && (v.err.isSome ||
    ([StreamId.m, .v, .x, .c].all (fun st => (v.stream st).ended) && v.drains.isEmpty && v.fences.isEmpty && !pre && v.barrier.isNone))

/-- The completion notice of a Quern's program (R71, R78, R184). -/
def noticeOf (q : Nat) (v : Quern) (l : Load) : Notice :=
  { quern := q, image := l.image, entry := l.entry, status := (v.err.map (·.code)).getD 0, stream := (v.err.map (·.stream)).getD .c,
    index := (v.err.map (·.index)).getD 0, nonfinite := v.anyNonfinite, escalate := v.anyEscalate, ieee := v.flags }

/-- The Quern after its program: register results are visible; what an error left in the array's queues is dropped (assumption 19). -/
def Quern.afterProgram (v : Quern) : Quern :=
  { v with run := none, err := none, streams := [], drains := [], fences := [], barrier := none, clears := [],
           held := if v.err.isSome then [] else v.held }

/-- The prefetchers of a program that has ended in error finish without a signal (R180). -/
def orphanPrefetches (s : State) (q : Nat) : State :=
  { s with mm := { s.mm with prefetch := s.mm.prefetch.map (fun p => if p.quern == q then { p with sen := false, orphan := true } else p) } }

/-- PROGRAM_COMPLETE (R71, R78, R171, R180, R184). -/
def execProgramComplete (q : Fin 128) (s : State) : Res :=
  whileClocked s (
    let v := s.quern q
    match v.run with
    | none => .next s
    | some sl =>
      if programDone s q && !v.fenced then
        .next (releaseDue (addNotice ((orphanPrefetches s q).setQuern q v.afterProgram) sl.load.ctx sl.load.disp (noticeOf q v sl.load)))
      else .next s)

/-- A stream that has not ended waits on a counter, or at a CBAR (R172). -/
def streamIdle (v : Quern) (st : StreamId) : Bool :=
  let t := v.stream st
  t.ended || (st == .c && v.barrier.isSome) || (match t.waiting with | some (k, n) => decide (v.token k < n) | none => false)

/-- A Quern is blocked-idle (R172). -/
def blockedIdle (s : State) (q c d : Nat) : Bool :=
  let v := s.quern q
  runsDisp v c d && v.moves.isEmpty && v.drains.isEmpty && !(s.mm.prefetch.any (fun p => p.quern == q && !p.orphan))
    && [StreamId.m, .v, .x, .c].all (streamIdle v) && !(programDone s q)

/-- The first waiting stream of a Quern, which its token-deadlock notice names (assumption 20). -/
def waitingStream (v : Quern) : StreamId := ([StreamId.m, .v, .x].find? (fun st => !(v.stream st).ended)).getD .c

/-- The instruction at which a stream waits: a CBAR has been passed by the stream's index (R172, R180). -/
def waitingAt (v : Quern) (st : StreamId) : Nat := if st == .c && v.barrier.isSome then (v.stream st).pos - 1 else (v.stream st).pos

/-- TOKEN_DEADLOCK (R172, R180): every member that has not completed is blocked-idle and no barrier of the group can be released. -/
def execTokenDeadlock (c : Fin 32) (disp : Nat) (s : State) : Res :=
  whileClocked s (
    let ms := openMembers s c disp
    if !ms.isEmpty && ms.all (fun m => blockedIdle s m c disp) && !(allAtBarrier s c disp) then
      .next (ms.foldl (fun s m => s.updQuern m (fun v =>
        let st := waitingStream v
        { v with barrier := none, err := some ⟨0x52, st, waitingAt v st⟩ })) s)
    else .next s)

/-- The error of the lowest-numbered Quern that stopped on an error of its own (R184). -/
def mergedError (ns : List Notice) : Option Notice :=
  let own := ns.filter (fun n => n.status != 0 && n.status != 0x53)
  let cands := if own.isEmpty then ns.filter (fun n => n.status != 0) else own
  cands.foldl (fun m n => match m with | none => some n | some x => if n.quern < x.quern then some n else some x) none

/-- What the notices of a DISPATCH merge to (R184). -/
def mergeNotices (d : Disp) : Merged :=
  let e := mergedError d.notices
  { disp := d.id, status := (e.map (·.status)).getD 0, stream := (e.map (·.stream)).getD .c, index := (e.map (·.index)).getD 0,
    nonfinite := d.notices.any (·.nonfinite), escalate := d.notices.any (·.escalate),
    ieee := d.notices.foldl (fun a n => a ||| n.ieee) 0 }

/-- Whether every member of a DISPATCH has sent its notice and no earlier DISPATCH to the same group is still open (R184). -/
def mergeable (x : Ctx) (d : Disp) : Bool :=
  d.noticed && !(x.disps.any (fun e => decide (e.id < d.id) && e.group == d.group))

/-- A merged ESCALATE sets the DISPATCH's latch in the record of its step (R186). -/
def setLatch (x : Ctx) (d : Disp) (m : Merged) : Ctx :=
  match d.latch with
  | some l =>
    if m.escalate then
      let i := x.step d.step.toNat
      x.setStep d.step.toNat { i with latches := i.latches ||| (1 <<< l) }
    else x
  | none => x

/-- MERGED_COMPLETION (R184, R185, R186): the token is signalled; an error stops the context. -/
def execMergedCompletion (c : Fin 32) (disp : Nat) (s : State) : Res :=
  whileClocked s (
    let x := s.ctx c
    match x.disps.find? (fun d => d.id = disp) with
    | none => .next s
    | some d =>
      if mergeable x d then
        let m := mergeNotices d
        let x1 := setLatch { x with disps := x.disps.filter (fun e => e.id ≠ disp), merged := some m } d m
        let s1 := lateSignal (s.setCtx c x1) c d.no d.idx d.sen d.stok
        .next (if m.status ≠ 0 then stopMerged s1 c m.status d.idx [m.index, streamIdx m.stream] else s1)
      else .next s)

end Sys2Proof.Machine
end

