-- ==== Sys2Proof/Machine/Image.lean ====
section
/-!
DEFINITION. Program images: their load into a slot and the start of a loaded program (R159 to R161, R174, R175, R192, R217, R218).
-/

namespace Sys2Proof.Machine

/-- The words of a byte range of Bin space. -/
def readWords (s : State) (a n : Nat) : List W64 := (List.range n).map (fun i => BitVec.ofNat 64 (readNat s (a + 8 * i) 8))

/-- A field of a list of words: word, low bit, width. -/
def wfld (ws : List W64) (k lo w : Nat) : Nat := ((ws.getD k 0).extractLsb' lo w).toNat

/-- The instructions of a sequence, or the image code of R218: an undefined opcode or one that the sequence may not hold is 0x43, an
extension word against its class or beyond the sequence 0x45. `ok`: which operations may stand; `stage`: a stage program. -/
def parseSeq (stage : Bool) (ok : Opcode → Bool) : Nat → List W64 → Except Nat (List SeqInstr)
  | _, [] => .ok []
  | 0, _ => .error 0x45
  | n + 1, w :: t =>
    match opcodeOf (w.extractLsb' 56 2).toNat (w.extractLsb' 58 6).toNat with
    | none => .error 0x43
    | some op =>
      if !(ok op) then .error 0x43
      else
        match decodeWords (w :: t) with
        | none => .error 0x45
        | some (x, rest) =>
          if x.extOk stage then
            match parseSeq stage ok n rest with
            | .ok l => .ok (x :: l)
            | .error e => .error e
          else .error 0x45

/-- CLOOP and CEND of a sequence: unmatched is 0x41, more than four deep 0x42 (R160, R218). -/
def loopCheck : Nat → List SeqInstr → Except Nat Unit
  | d, [] => if d = 0 then .ok () else .error 0x41
  | d, x :: t =>
    if x.op = .cloop then (if d ≥ 4 then .error 0x42 else loopCheck (d + 1) t)
    else if x.op = .cend then (if d = 0 then .error 0x41 else loopCheck (d - 1) t)
    else loopCheck d t

/-- A C sequence or stage program ends in its only CHALT; otherwise 0x44 (R160, R218). -/
def haltCheck (l : List SeqInstr) : Except Nat Unit :=
  need ((l.getLast?.map (·.op)) == some .chalt && decide ((l.filter (fun x => x.op == .chalt)).length = 1)) 0x44

/-- Whether two word ranges overlap. -/
def overlap (a b : Nat × Nat) : Bool := a.2 != 0 && b.2 != 0 && decide (a.1 < b.1 + b.2) && decide (b.1 < a.1 + a.2)

/-- No two ranges of a list overlap. -/
def disjoint : List (Nat × Nat) → Bool
  | [] => true
  | a :: t => t.all (fun b => !(overlap a b)) && disjoint t

/-- The (offset, length) of the M, V, X and C sequences that a header names. -/
def seqRanges (h : List W64) : List (Nat × Nat) :=
  [(wfld h 1 0 16, wfld h 1 16 16), (wfld h 1 32 16, wfld h 1 48 16), (wfld h 2 0 16, wfld h 2 16 16), (wfld h 2 32 16, wfld h 2 48 16)]

/-- The header's checks (R217, R218). DESIGN CHOICE (assumption 113): with several faults VERSION comes first, then TOTAL and the offsets,
then the rest of code 0x46. -/
def headerCheck (h : List W64) : Except Nat Unit := do
  let total := wfld h 0 16 16
  let dcount := wfld h 3 16 7
  let ranges := seqRanges h ++ [(wfld h 3 0 16, 6 * dcount)]
  need (wfld h 0 0 16 = 1) 0x46
  need (decide (total ≤ 12288) && ranges.all (fun r => decide (r.1 + r.2 ≤ total))) 0x40
  need (decide (dcount ≤ 64) && disjoint ((0, 8) :: ranges)) 0x46
  need (wfld h 4 0 6 = 0 && wfld h 4 26 6 = 0 && decide (wfld h 4 0 26 + 64 ≤ wgbOff) && decide (wfld h 4 26 26 + 16 ≤ wgbOff)) 0x46
  need (wfld h 0 32 32 = 0 && wfld h 3 23 41 = 0 && wfld h 4 52 12 = 0 && wfld h 5 48 16 = 0 && wfld h 6 14 50 = 0
    && wfld h 7 0 64 = 0) 0x46

/-- A word range of an image. -/
def slice (ws : List W64) (r : Nat × Nat) : List W64 := (ws.drop r.1).take r.2

/-- A descriptor of the table: six words, the first lowest. -/
def descWords (ws : List W64) : BitVec 384 := BitVec.ofNat 384 ((ws.zip (List.range 6)).foldl (fun a p => a + p.1.toNat * 2 ^ (64 * p.2)) 0)

/-- One sequence of a Quern program. -/
def quernSeq (ws : List W64) (st : StreamId) (r : Nat × Nat) : Except Nat (List SeqInstr) := do
  let l ← parseSeq false (Opcode.inStream st) r.2 (slice ws r)
  loopCheck 0 l
  .ok l

/-- An image's words as a loaded image, or its image code (R160, R192, R217, R218). -/
def parseImage (ws : List W64) : Except Nat ImageInfo := do
  headerCheck ws
  let rs := seqRanges ws
  let m ← quernSeq ws .m (rs.getD 0 (0, 0))
  let v ← quernSeq ws .v (rs.getD 1 (0, 0))
  let x ← quernSeq ws .x (rs.getD 2 (0, 0))
  let c ← quernSeq ws .c (rs.getD 3 (0, 0))
  haltCheck c
  let doff := wfld ws 3 0 16
  .ok { mSeq := m, vSeq := v, xSeq := x, cSeq := c,
        descs := (List.range (wfld ws 3 16 7)).map (fun i => descWords (slice ws (doff + 6 * i, 6))),
        dblkOff := wfld ws 4 0 26, stsOff := wfld ws 4 26 26 }

/-- The failing access of an image's read, if one fails: outside Bin space or on a page that R222 refuses (R192). -/
def imageErr (s : State) (a n : Nat) : Option AccErr := if a + n > 2 ^ 39 then some .addr else rangeErr (readErr s) a n

/-- Whether an image marks a move WGBEND. -/
def imageWgbend (ws : List W64) : Bool := match parseImage ws with | .ok i => i.xSeq.any marksWgbend | .error _ => false

/-- The image at an address: its words, or an access error. -/
def fetchImage (s : State) (a : Nat) : Except AccErr (List W64) :=
  match imageErr s a 64 with
  | some e => .error e
  | none =>
    let total := wfld (readWords s a 8) 0 16 16
    let n := if total ≤ 12288 then max total 8 else 8
    match imageErr s a (8 * n) with
    | some e => .error e
    | none => .ok (readWords s a n)

/-- Whether an image holds bytes that the data plane wrote: they never become instructions (R40). -/
def fromData (s : State) (a n : Nat) : Bool := (granulesOf s ((List.range n).map (a + ·))).any s.mm.fromData.contains

/-- A member's load fails: nothing starts on its Quern, its notice carries the code, and the other members of the group stop (R180, R192). -/
def failLoad (s : State) (q code : Nat) (l : Load) : State := stopOthers (addNotice s l.ctx l.disp (stopNotice q code l)) l.ctx l.disp q

/-- IMAGE_LOAD: the first waiting DISPATCH takes the free slot and its image is loaded (R160, R161, R192). A failed load starts nothing; its
notice carries the code; bytes of the data plane fail with code 0x46 (R40, assumption 133). -/
def loadImage (q : Nat) (s : State) : State :=
  let v := s.quern q
  match v.waiting, v.next with
  | l :: rest, none =>
    let s1 := s.setQuern q { v with waiting := rest }
    match fetchImage s l.image with
    | .error .addr => failLoad s1 q 0x30 l
    | .error .data => haltData s l.ctx ((List.range (8 * 12288)).map (l.image + ·))
    | .ok ws =>
      if fromData s l.image (8 * ws.length) then failLoad s1 q 0x46 l
      else
      match parseImage ws with
      | .error code => failLoad s1 q code l
      | .ok info => s.setQuern q { v with waiting := rest, next := some { load := l, info := info } }
  | _, _ => s

/-- IMAGE_LOAD (R25, R160, R161, R189, R191, R192, R217, R218, R222). -/
def execImageLoad (q : Fin 128) (s : State) : Res :=
  whileClocked s (if (s.quern q).fenced then .next s else .next (loadImage q s))

/-- BASE0 to BASE3 of a dispatch block, by base selector (R174, R175). -/
def dispatchBase (dblk : List W64) (bsel : Nat) : Nat := if 1 ≤ bsel ∧ bsel ≤ 4 then (dblk.getD (bsel + 2) 0).toNat else 0

/-- A slot as the start loads it: the selected base added (R159, R175, R212). -/
def startSlot (dblk : List W64) (b : BitVec 384) : DSlot :=
  let base := dispatchBase dblk (slotBsel b)
  loadDslot (withBases b (addr48 (slotBase b + base)) (addr48 (slotScaleBase b + (if slotSbsel b then base else 0))))

/-- The bytes of a list of words. -/
def wordBytes (ws : List W64) : List W8 := ws.flatMap (fun w => leBytes 8 w.toNat)

/-- PROGRAM_START's effect on a Quern whose loaded program starts (R159, R161, R166, R174, R175, R183). -/
def startProgram (q : Nat) (sl : Slot) (s : State) : State :=
  let v := s.quern q
  let s1 := s.setQuern q { v with
    run := some sl, next := none, err := none, tokens := [], flags := 0, streams := freshStreams sl.info,
    dslots := (List.range sl.info.descs.length).zip (sl.info.descs.map (startSlot sl.load.dblk)),
    moves := [], fences := [], xord := 0, barrier := none }
  let w1 := cellsAt (winBase q + sl.info.dblkOff) (wordBytes sl.load.dblk)
  let w2 := match sl.load.sts with | some r => cellsAt (winBase q + sl.info.stsOff) (wordBytes r) | none => []
  { s1 with mem := Memory.setAll s1.mem (w1 ++ w2) }

/-- PROGRAM_START (R146, R149, R159, R161, R166, R174, R175, R183). -/
def execProgramStart (q : Fin 128) (s : State) : Res :=
  whileClocked s (
    let v := s.quern q
    match v.run, v.next with
    | none, some sl => if v.fenced then .next s else .next (startProgram q sl s)
    | _, _ => .next s)

end Sys2Proof.Machine
end

