-- ==== Sys2Proof/Machine/Layout.lean ====
section
/-!
DEFINITION. How frames and packets are laid out: TYPE and CLASS, the clear header, the sealed header, payloads and trailers of Krovax frames,
of Gwyn packets and of TWIN records, and the ATTEST body (R332, R334, R337 to R339, R360, R361, R402).
-/

namespace Sys2Proof.Machine

/-- Fields of a word from bit 0 up, as (width, value). -/
def packW : List (Nat × Nat) → Nat
  | [] => 0
  | (w, v) :: t => v % 2 ^ w + 2 ^ w * packW t

/-- A 64-bit word of its fields. -/
def word64 (l : List (Nat × Nat)) : W64 := BitVec.ofNat 64 (packW l)

/-- The bytes of a list of words: words are little-endian (R337, R360). -/
def leWords (l : List W64) : List W8 := l.flatMap (fun w => leBytes 8 w.toNat)

/-- Bytes padded with zeros to a whole number of 16-byte units. -/
def padTo16 (l : List W8) : List W8 := l ++ List.replicate ((16 - l.length % 16) % 16) 0

/-- Bytes padded with zeros, or cut, to a length. -/
def padTo (n : Nat) (l : List W8) : List W8 := l.take n ++ List.replicate (n - l.length) 0

/-! ### TYPE, CLASS and FLUME (R337, R338, R360, R361) -/

/-- The sending Flume of a frame, for its nonce and its turn. -/
def frameFlume : Frame → Option Nat
  | .mbhdr f _ _ _ _ _ _ _ => some f | .data f _ _ _ _ _ => some f | .grant f _ _ => some f | .receipt f _ _ _ _ => some f
  | .openF f _ _ _ => some f | .openack f _ _ _ _ => some f | .close f _ _ _ _ => some f | .token f _ _ => some f
  | .notice f _ _ => some f | .red f _ _ _ _ _ _ => some f | .redack f _ _ _ _ => some f
  | .linkAck _ => none | .linkNack _ _ => none | .linkResume => none | .linkWithdraw => none
  | .hello _ => none | .attest _ _ _ => none | .attestResult _ => none | .twin _ _ _ _ => none
  | .jobrsp _ _ _ _ => none | .event _ => none | .energy _ => none | .stepEvent _ _ _ => none

/-- CLASS of a frame or packet (R338, R361): job control of a session shares the code of reductions. -/
def wireClass : Frame → Nat
  | .mbhdr _ _ _ _ _ _ _ _ => 0 | .data _ _ _ _ _ _ => 0
  | .grant _ _ _ => 1 | .receipt _ _ _ _ _ => 1 | .openF _ _ _ _ => 1 | .openack _ _ _ _ _ => 1 | .close _ _ _ _ _ => 1
  | .token _ _ _ => 1 | .notice _ _ _ => 1
  | .red _ _ _ _ _ _ _ => 2 | .redack _ _ _ _ _ => 2
  | .jobrsp _ _ _ _ => 2 | .event _ => 2 | .energy _ => 2 | .stepEvent _ _ _ => 2
  | .linkAck _ => 3 | .linkNack _ _ => 3 | .linkResume => 3 | .linkWithdraw => 3
  | .hello _ => 3 | .attest _ _ _ => 3 | .attestResult _ => 3 | .twin _ _ _ _ => 3

/-- TYPE of a Krovax frame (R338), and, under another code, of a Gwyn packet (R361). -/
def raceType : Frame → Nat
  | .mbhdr _ _ _ _ _ _ _ _ => 0x0 | .data _ _ _ _ _ _ => 0x1 | .grant _ _ _ => 0x2 | .receipt _ _ _ _ _ => 0x3
  | .openF _ _ _ _ => 0x4 | .openack _ _ _ _ _ => 0x5 | .close _ _ _ _ _ => 0x6 | .token _ _ _ => 0x7 | .notice _ _ _ => 0x8
  | .red _ _ _ _ _ _ _ => 0x9 | .redack _ _ _ _ _ => 0xA
  | .linkAck _ => 0xB | .linkNack _ _ => 0xB | .linkResume => 0xB | .linkWithdraw => 0xB
  | .hello _ => 0xC | .attest _ _ _ => 0xD | .attestResult _ => 0xD | .twin _ _ _ _ => 0xE
  | .jobrsp _ _ _ _ => 0xF | .event _ => 0xF | .energy _ => 0xF | .stepEvent _ _ _ => 0xF

def hostType : Frame → Nat
  | .jobrsp _ _ _ _ => 0x11 | .event _ => 0x12 | .energy _ => 0x12 | .stepEvent _ _ _ => 0x12
  | .linkAck _ => 0x26 | .linkNack _ _ => 0x27
  | f => raceType f

/-- FLUME of the clear header: the sending Flume, or for the link class the Race or session, and 0x3FF for ATTEST (R337, R360). -/
def hdrFlume (carrier : Nat) : Frame → Nat
  | .attest _ _ _ => 0x3FF
  | .attestResult _ => 0x3FF
  | f => (frameFlume f).getD carrier

/-! ### TWIN records (R252, R279, R402) -/

/-- The 64-byte entry of a JENTRY record, READY and without an output (R252, R401). -/
def twinEntry (b : List Nat) : List W64 :=
  let g (i : Nat) : Nat := b.getD i 0
  [word64 [(48, g 3), (10, g 2), (2, 0), (1, g 1), (3, 2)], word64 [(32, g 5), (32, g 4)], word64 [(32, g 7), (32, g 6)], 0,
   word64 [(32, 0), (13, g 9), (19, g 8)], word64 [(32, g 11), (16, 0), (16, g 10)], 0, 0]

/-- The issue and completion records of a JSTEP. -/
def twinRecs : List Nat → List W8
  | btag :: kind :: step :: r => leBytes 2 btag ++ leBytes 2 kind ++ leBytes 4 step ++ twinRecs r
  | _ => []

/-- The records of a JIMP. -/
def twinImps : List Nat → List W8
  | page :: entry :: r => leBytes 4 page ++ leBytes 4 0 ++ leBytes 8 entry ++ twinImps r
  | _ => []

/-- W5 and the payload of a TWIN record. -/
def twinParts (sub : Nat) (b : List Nat) (bytes : List W8) : W64 × List W8 :=
  let g (i : Nat) : Nat := b.getD i 0
  match sub with
  | 0x0 => (word64 [(19, g 0), (9, g 1)], bytes)
  | 0x1 => (word64 [(4, b.length / 2 - 1)], twinImps b)
  | 0x2 => (word64 [(5, g 0), (1, g 1)], leWords (twinEntry b) ++ leBytes 4 (g 12) ++ leBytes 12 0)
  | 0x3 => (word64 [(48, g 1), (10, g 0)], leBytes 2 (g 2) ++ leBytes 6 0 ++ leBytes 8 (g 3))
  | 0x4 => (word64 [(10, g 0)], leBytes 8 (g 1) ++ leBytes 4 (g 2) ++ leBytes 4 (g 3) ++ leBytes 1 (g 4) ++ leBytes 15 0)
  | 0x5 => (word64 [(13, g 0)],
      leWords [word64 [(32, g 2), (16, g 3), (13, g 0), (3, g 1)], word64 [(25, 0), (20, g 5), (19, g 4)]] ++ leBytes 4 (g 6) ++ leBytes 12 0)
  | 0x6 => (word64 [(5, g 0), (27, 0), (32, g 1)],
      leWords [word64 [(8, g 2), (8, g 3), (8, g 4), (16, g 5), (16, g 6)]] ++ leBytes 4 (g 7) ++ leBytes 4 (g 8) ++ twinRecs (b.drop 9))
  | 0x7 => (word64 [(5, g 0), (5, g 1)], leBytes 4 (g 2) ++ leBytes 4 (g 3) ++ leBytes 8 0)
  | 0x8 => (word64 [(48, g 0)], [])
  | 0x9 => (word64 [(8, g 0)], [])
  | 0xA => (word64 [(12, g 0), (8, g 1)], [])
  | 0xB => (word64 [(19, g 0), (9, g 1), (1, g 2)], [])
  | 0xC => (word64 [(19, g 0), (9, g 1), (1, g 2), (1, g 3)], bytes)
  | _ => (0, [])

/-! ### Payloads (R332, R338, R361, R447, R496) -/

/-- The 64 bytes of a HELLO (R332). -/
def helloBytes (m : HelloMsg) : List W8 :=
  leBytes 2 (m.kverMajor.toNat * 256) ++ leBytes 2 (m.admitted.toNat + 2 * m.pair.toNat + 4 * m.half.toNat) ++ leBytes 2 m.lanes.toNat
    ++ leBytes 2 m.slots.toNat ++ leBytes 16 m.serial.toNat ++ leBytes 16 m.chal.toNat ++ leBytes 16 m.jobId.toNat ++ leBytes 8 0

/-- The 32 bytes of an event record (R496). DESIGN CHOICE (assumption 122): DETAIL holds up to three values of 4 bytes, or one of 4 and up to
four of 2. -/
def eventBytes (e : Event) : List W8 :=
  leBytes 8 e.time ++ leBytes 4 e.seq ++ leBytes 2 e.code ++ leBytes 1 e.severity ++ leBytes 1 (e.ptp.toNat + 2 * e.copy.toNat)
    ++ leBytes 1 e.scope ++ leBytes 3 e.scopeId
    ++ padTo 12 (if e.detail.length ≤ 3 then e.detail.flatMap (leBytes 4) else leBytes 4 (e.detail.headD 0) ++ e.detail.tail.flatMap (leBytes 2))

/-- W4, W5 and the payload of a frame or packet; `bytes` is a payload that is read as it leaves, `host` tells a packet from a frame, and `ce`
is CE_COUNT (R338, R361). -/
def sealedParts (host : Bool) (ce : Nat) (bytes : List W8) : Frame → W64 × W64 × List W8
  | .mbhdr _ dst seq no step mbid edition len =>
    (word64 [(48, seq), (10, dst)], word64 [(32, no), (32, step.toNat)], leBytes 4 mbid.toNat ++ leBytes 4 edition.toNat ++ leBytes 4 len ++ leBytes 4 0)
  | .data _ dst seq seg last _ => (word64 [(48, seq), (10, dst)], word64 [(if host then 18 else 17, seg), (1, last.toNat)], bytes)
  | .grant _ dst no => (word64 [(48, 0), (10, dst)], word64 [(32, no)], [])
  | .receipt _ dst seq step what => (word64 [(48, seq), (10, dst)], word64 [(2, what), (30, 0), (32, step.toNat)], [])
  | .openF _ dst dir len4k => (word64 [(1, dir.toNat), (47, 0), (10, dst)], word64 [(16, len4k)], [])
  | .openack _ dst dir len4k result => (word64 [(1, dir.toNat), (47, 0), (10, dst)], word64 [(16, len4k), (4, result)], [])
  | .close _ dst forced lastIssued firstUnused => (word64 [(1, forced.toNat), (47, 0), (10, dst)], word64 [(32, firstUnused), (32, lastIssued)], [])
  | .token _ dst step => (word64 [(48, 0), (10, dst)], word64 [(32, step)], [])
  | .notice _ dst step => (word64 [(48, 0), (10, dst)], word64 [(32, step)], [])
  | .red _ _ id hdr p nb lines =>
    (word64 [(32, id.step.toNat), (12, id.btag.toNat), (8, 0), (2, id.phase.toNat), (2, id.sched.toNat), (8, id.round.toNat)],
     word64 [(13, id.hop.toNat), (21, id.chunk.toNat), (3, id.blk.toNat)], leWords ([hdr, word64 [(12, p), (24, nb)]] ++ lines))
  | .redack _ _ id credit formes =>
    (word64 [(32, id.step.toNat), (12, id.btag.toNat), (8, 0), (2, id.phase.toNat), (2, id.sched.toNat), (8, id.round.toNat)],
     word64 [(13, id.hop.toNat), (21, id.chunk.toNat), (3, id.blk.toNat), (2, credit.toNat), (5, formes)], [])
  | .linkAck _ => (if host then word64 [(32, ce)] else 0, 0, [])
  | .linkNack base missing => (if host then 0 else 1, 0, leBytes 8 (base % 2 ^ 48) ++ leBytes 8 missing.toNat)
  | .linkResume => (2, 0, [])
  | .linkWithdraw => (3, 0, [])
  | .hello m => (0, 0, helloBytes m)
  | .attest second len bs => (if second then 1 else 0, word64 [(16, len)], bs)
  | .attestResult code => (2, word64 [(16, 0), (8, code)], [])
  | .twin sub jsn b bs => (word64 [(48, jsn), (12, 0), (4, sub)], twinParts sub b bs)
  | .jobrsp reqid op status detail => (word64 [(32, reqid)], word64 [(16, op), (16, status)], detail.flatMap (leBytes 8))
  | .event e => (0, 0, eventBytes e)
  | .energy j => (0, 0, leBytes 8 j)
  | .stepEvent step us counts => (0, 0, leBytes 8 step ++ leBytes 8 us ++ leWords counts)

/-! ### Headers and trailers (R332, R337, R339, R360, R361) -/

/-- The nonce: MEMBER, FLUME, CLASS and INC as bytes 3 to 6 of the frame hold them, then CTR (R339). -/
def nonceOf (member flume cls inc ctr : Nat) : List W8 := leBytes 4 (packW [(8, inc), (2, cls), (10, flume), (12, member)]) ++ leBytes 8 ctr

/-- Whether a frame or packet is sealed: HELLO and ATTEST are not (R332). -/
def sealedFrame : Frame → Bool
  | .hello _ => false | .attest _ _ _ => false | .attestResult _ => false
  | _ => true

/-- The trailer: the tag under the job's key, or CRC-32C and zeros (R332, R339, R361). -/
def trailerOf (sealed_ : Bool) (job : W128) (nonce clear text : List W8) : W128 :=
  if sealed_ then Config.gcmTag job nonce clear text else (Config.crc32c (clear ++ text)).setWidth 128

/-- A Krovax frame as it is laid out (R337, R338). -/
def raceWire (job : W128) (r member inc ctr lsn ackNo slotLimit window : Nat) (f : Frame) (bytes : List W8) : Wire :=
  let (w4, w5, body) := sealedParts false 0 bytes f
  let payload := padTo16 body
  let flume := hdrFlume r f
  let clear := [word64 [(16, 0), (8, payload.length / 16), (8, inc), (2, wireClass f), (10, flume), (12, member), (4, raceType f), (4, 1)],
    word64 [(64, ctr)], word64 [(48, lsn), (16, slotLimit)], word64 [(48, ackNo), (16, window)]]
  { clear := clear, sealedHdr := [w4, w5], payload := payload
    trailer := trailerOf (sealedFrame f) job (nonceOf member flume (wireClass f) inc ctr) (leWords clear) (leWords [w4, w5] ++ payload) }

/-- The layout of a Gwyn packet from its fields (R360, R361). -/
def gwynWire (sealed_ : Bool) (job : W128) (type cls flume member inc ctr psn ackNo window : Nat) (w4 w5 : W64) (body : List W8) : Wire :=
  let payload := padTo16 body
  let clear := [word64 [(8, 0), (10, payload.length / 16), (6, type), (8, inc), (2, cls), (10, flume), (12, member), (4, 0), (4, 1)],
    word64 [(64, ctr)], word64 [(48, psn), (16, window)], word64 [(48, ackNo), (16, 0)]]
  { clear := clear, sealedHdr := [w4, w5], payload := payload
    trailer := trailerOf sealed_ job (nonceOf member flume cls inc ctr) (leWords clear) (leWords [w4, w5] ++ payload) }

/-- A packet of a session as it is laid out (R360, R361). -/
def hostWire (job : W128) (session ce member inc ctr psn ackNo window : Nat) (f : Frame) (bytes : List W8) : Wire :=
  let (w4, w5, body) := sealedParts true ce bytes f
  gwynWire true job (hostType f) (wireClass f) (hdrFlume session f) member inc ctr psn ackNo window w4 w5 body

/-- The sealed SOPENACK of a success (R360, R361, R365). DESIGN CHOICE (assumption 122): SESSION, SEGSIZE and WINDOW stand in W4. -/
def sopenackWire (job : W128) (session segsize member inc ctr window : Nat) : Wire :=
  gwynWire true job 0x25 3 session member inc ctr 0 0 window (word64 [(16, session), (16, if segsize = 8192 then 1 else 0), (16, window)]) 0 []

/-! ### The ATTEST body (R334) -/

/-- The ATTEST body: its fields, JOB_PROOF under the nonce of its frame, SIG and CERT. -/
def attestBytes (job : W128) (member inc ctr : Nat) (chalOwn chalPeer : W128) (digest : W256) : List W8 :=
  let head := leBytes 16 job.toNat ++ leBytes 2 member ++ leBytes 1 inc ++ leBytes 5 0 ++ leBytes 16 chalOwn.toNat ++ leBytes 16 chalPeer.toNat
    ++ leBytes 32 digest.toNat
  let proved := head ++ leBytes 16 (Config.gcmTag job (nonceOf member 0x3FF 3 inc ctr) head []).toNat
  let cert := Config.identityCert.take 3600
  proved ++ padTo 384 (Config.identitySig proved) ++ leBytes 2 cert.length ++ leBytes 6 0 ++ cert

end Sys2Proof.Machine
end

