-- ==== Sys2Proof/Machine/Link.lean ====
section
/-!
DEFINITION. What leaves the package on a Flume: paths, frames and their classes, nonce counters, sessions, and the journal of pair
mode with what waits for it (R258, R290, R337 to R350, R366, R368, R401 to R403).
-/

namespace Sys2Proof.Machine

/-! ### A Flume's configuration (R275) -/

def Flume.kind (x : Flume) : Nat := (x.cfg.extractLsb' 0 2).toNat
def Flume.inbound (x : Flume) : Bool := x.cfg.getLsbD 2
def Flume.owner (x : Flume) : Nat := (x.cfg.extractLsb' 3 5).toNat
def Flume.hopper (x : Flume) : Nat := 2 * x.owner + (x.cfg.extractLsb' 8 1).toNat
def Flume.len (x : Flume) : Nat := (x.cfg.extractLsb' 9 16).toNat * 4096
def Flume.ahead (x : Flume) : Nat := (x.cfg.extractLsb' 25 4).toNat
def Flume.far (x : Flume) : Nat := (x.cfg.extractLsb' 29 10).toNat
def Flume.raceOk (x : Flume) (r : Nat) : Bool := decide (r < 32) && x.route.getLsbD r
def Flume.hostOk (x : Flume) (p : Nat) : Bool := decide (p < 2) && x.route.getLsbD (32 + p)
def Flume.peer (x : Flume) : Nat := (x.route.extractLsb' 34 12).toNat

/-! ### Members and nonce counters (R339, R440) -/

def memberOf (s : State) (m : Nat) : Option Member := s.sec.members.find? (fun x => x.member.toNat == m)

/-- The incarnation recorded for a member (R340, R409). -/
def recordedInc (s : State) (m : Nat) : Nat :=
  match Tbl.find? s.sec.incs m with
  | some i => i
  | none => ((memberOf s m).map (·.inc.toNat)).getD 0

/-- Who a Flume's frames come from: the twin's member under its assumed incarnation for a takeover context, otherwise this package (R339,
R408). -/
def senderOf (s : State) (f : Nat) : Nat × Nat :=
  if (s.ctx (s.flume f).owner).takeover then (s.pair.twinMember, recordedInc s s.pair.twinMember) else (s.sec.self, recordedInc s s.sec.self)

/-- The next counter value of a key; counters start at 1 at admission (R339). -/
def drawCtr (s : State) (key : Nat) : Nat × State :=
  let n := s.sec.ctrs.getD key 1
  (n, { s with sec := { s.sec with ctrs := s.sec.ctrs.set key (n + 1) } })

/-! ### Frames -/

/-- The transmit class of a frame (R348). -/
def frameClass : Frame → Nat
  | .linkAck _ => 1 | .linkNack _ _ => 1 | .linkResume => 1 | .linkWithdraw => 1
  | .hello _ => 1 | .attest _ _ _ => 1 | .attestResult _ => 1
  | .twin _ _ _ _ => 2
  | .grant _ _ _ => 3 | .receipt _ _ _ _ _ => 3 | .openF _ _ _ _ => 3 | .openack _ _ _ _ _ => 3 | .close _ _ _ _ _ => 3
  | .token _ _ _ => 3 | .notice _ _ _ => 3 | .redack _ _ _ _ _ => 3
  | .jobrsp _ _ _ _ => 3 | .event _ => 3 | .energy _ => 3 | .stepEvent _ _ _ => 3
  | .red _ _ _ _ _ _ _ => 4
  | .mbhdr _ _ _ _ _ _ _ _ => 5 | .data _ _ _ _ _ _ => 5

/-- The nonce counter of a frame: FLUME of its header, and CLASS. Every ATTEST frame draws from one counter, and a HELLO from that of the link
class of its Race (R339). -/
def ctrKey (carrier : Nat) (fr : Frame) : Nat := hdrFlume carrier fr * 4 + wireClass fr

/-- The member and incarnation that a frame is sent under. -/
def frameSender (s : State) (fr : Frame) : Nat × Nat :=
  match frameFlume fr with
  | some f => senderOf s f
  | none => (s.sec.self, recordedInc s s.sec.self)

/-- Whether a frame takes a payload slot (R345). -/
def takesSlot : Frame → Bool
  | .data _ _ _ _ _ _ => true
  | .red _ _ _ _ _ _ _ => true
  | _ => false

/-- n bytes of an entry's output area from an offset (R253, R258). -/
def outBytes (s : State) (e : Entry) (off n : Nat) : List W8 :=
  (List.range n).map (fun i =>
    match e.outPages[(off + i) / 2 ^ 20]? with
    | some p => readByte s (p * 2 ^ 20 + (off + i) % 2 ^ 20)
    | none => 0)

/-- The accepted entry of a Flume's sequence number, in pair mode also one that waits for the twin; the newest of the Flume's openings (R261,
R401). -/
def entryOfSeq (s : State) (f seq : Nat) : Option (Nat × Entry) :=
  (s.pool.filter (fun x => x.2.flume == f && x.2.seq == seq && (x.2.state != .granted || decide (0 < seq)))).getLast?

/-- The entry that pushed an output (R258). -/
def entryOfOut (s : State) (f seq : Nat) : Option (Nat × Entry) :=
  (s.pool.filter (fun x => x.2.pushed && x.2.outFlume == f && x.2.outSeq == seq)).getLast?

/-- The address of byte o of an entry's input area. -/
def inAddr (e : Entry) (o : Nat) : Nat := e.inPages.getD (o / 2 ^ 20) 0 * 2 ^ 20 + o % 2 ^ 20

/-- The addresses of the first n bytes of an output area. -/
def srcAddrs (e : Entry) (n : Nat) : List Nat :=
  (List.range n).filterMap (fun i => (e.outPages[i / 2 ^ 20]?).map (fun p => p * 2 ^ 20 + i % 2 ^ 20))

/-- The payload of a frame; a DATA frame's is read from the output area as it leaves (R344). -/
def frameBytes (s : State) (seg : Nat) : Frame → List W8
  | .data _ _ _ k _ e => match s.entry? e with | some x => outBytes s x (k * seg) seg | none => []
  | .twin _ _ _ bs => bs
  | _ => []

/-! ### Races and sessions as carriers -/

/-- Whether the payload of a frame can be read: an unreadable granule is never delivered (R238, R239). -/
def frameAddrs (s : State) (seg : Nat) : Frame → List Nat
  | .data _ _ _ k _ e =>
    match s.entry? e with
    | some x => (List.range seg).filterMap (fun i => (x.outPages[(k * seg + i) / 2 ^ 20]?).map (fun p => p * 2 ^ 20 + (k * seg + i) % 2 ^ 20))
    | none => []
  | _ => []

def frameReadable (s : State) (seg : Nat) (fr : Frame) : Bool := (lostPage s (frameAddrs s seg fr)).isNone

/-- A transmit read has met lost or unreadable data: the context that owns the Flume halts, and the frame waits (R239). -/
def haltSender (seg : Nat) (s : State) (fr : Frame) : State :=
  match frameFlume fr with
  | some f => if frameReadable s seg fr then s else haltData s (s.flume f).owner (frameAddrs s seg fr)
  | none => s

def queueRace (s : State) (r : Nat) (fr : Frame) : State := s.updRace r (fun x => { x with queue := x.queue ++ [(frameClass fr, fr)] })

/-! ### IP (R358, R359): addresses are 128 bits, an IPv4 address as ::ffff:a.b.c.d -/

/-- The IP settings of a port, 2 for the management port: IPv6 and IPv4 registers, prefixes, GW6. -/
def ipOf (s : State) (p : Nat) : W128 × W64 × W64 × W128 :=
  if p = 2 then (s.mil.ip6, s.mil.ip4, s.mil.prefixes, s.mil.gw6) else ((s.host p).ip6, (s.host p).ip4, (s.host p).prefixes, (s.host p).gw6)

def isV4 (a : W128) : Bool := a >>> 32 == 0xFFFF

/-- The next hop of a destination: itself on-link, else the gateway; none when that is zero (R358). -/
def nextHop (s : State) (p : Nat) (a : W128) : Option W128 :=
  let (ip6, ip4, pre, gw6) := ipOf s p
  if isV4 a then
    let k := min 32 (pre.extractLsb' 0 6).toNat
    if (a.toNat % 2 ^ 32) / 2 ^ (32 - k) = (ip4.extractLsb' 0 32).toNat / 2 ^ (32 - k) then some a
    else if ip4.extractLsb' 32 32 = 0 then none
    else some (BitVec.ofNat 128 (0xFFFF * 2 ^ 32 + (ip4.extractLsb' 32 32).toNat))
  else
    let k := min 128 (pre.extractLsb' 8 8).toNat
    if a >>> 118 = 0x3FA ∨ a.toNat / 2 ^ (128 - k) = ip6.toNat / 2 ^ (128 - k) then some a
    else if gw6 = 0 then none
    else some gw6

def neighOf (s : State) (p : Nat) : List (W128 × W48) := if p = 2 then s.mil.neigh else (s.host p).neigh

/-- The IP form of what a host port sends: the tag of VLAN_ID when VLAN_EN is set (DESIGN CHOICE, assumption 123), UDP_PORT, DSCP, ECT(0), and
Don't Fragment over IPv4 (R358, R359). -/
def envelopeOf (s : State) (p : Nat) (dst : W128) : Envelope :=
  let c := (s.host p).cfg
  { tag := if c.getLsbD 4 then some (c.extractLsb' 5 12) else none, port := c.extractLsb' 23 16, dscp := c.extractLsb' 17 6, ecn := 2
    dontFragment := isV4 dst }

/-- What a port sends, in its IP form; the management port's replies have none here. -/
def inIp (s : State) (p : Nat) (dst : W128) (o : Out) : Out := if p = 2 then o else .udp (envelopeOf s p dst) o

/-- A packet leaves a port for a destination: behind the resolution of its next hop, or dropped and counted when that is zero (R358, R359). -/
def sendIp (s : State) (p : Nat) (dst : W128) (o : Out) : State :=
  match nextHop s p dst with
  | none => if p = 2 then s else s.updHost p (fun h => { h with dropped := satAdd h.dropped 1 65535 })
  | some n =>
    if (neighOf s p).any (fun e => e.1 == n) then s.emit (inIp s p dst o)
    else
      let s1 := { s with ipWait := s.ipWait ++ [(p, n, inIp s p dst o)] }
      if s.ipWait.any (fun w => w.1 == p && w.2.1 == n) then s1 else s1.emit (.solicit p n)

/-- The next packet that a session sends, among the classes up to `lim`: the first of the highest class that is within the peer's window, and,
but for an acknowledgement, within the session's own (R346, R348, R366, R374). -/
def sessionNext (x : Session) (lim : Nat) : Option (Nat × Frame) :=
  (List.range (lim + 1)).findSome? (fun cls =>
    match x.queue.find? (fun q => q.1 == cls) with
    | some q => if x.nextPsn ≤ x.peerAck + (if cls = 1 then x.peerWindow else min x.cwnd x.peerWindow) then some q else none
    | none => none)

/-- A packet of a session leaves with a number: a fresh counter and the latest acknowledgement (R339, R360, R366). -/
def emitPacket (s : State) (p n psn : Nat) (fr : Frame) : State :=
  let x := s.session p n
  let (ctr, s1) := drawCtr s (ctrKey n fr)
  let (m, inc) := frameSender s fr
  let bytes := frameBytes s x.segsize fr
  sendIp (s1.setSession p n { x with rx := { x.rx with sinceAck := 0 } }) p x.addr.addr
    (.packet p n m inc ctr psn x.rx.ack x.window fr (hostWire s.sec.jobId n x.ce.toNat m inc ctr psn x.rx.ack x.window fr bytes))

/-- A session sends what its windows let it, in the order of the classes; nothing leaves while the reference is stopped (R37, R366, R374). -/
def sessionSend (p n lim : Nat) : Nat → State → State
  | 0, s => s
  | fuel + 1, s =>
    let x := s.session p n
    if x.state ≠ .openS ∨ s.board.haltedByClock then s
    else
      match sessionNext x lim with
      | none => s
      | some (cls, fr) =>
        if !(frameReadable s x.segsize fr) then haltSender x.segsize s fr
        else
          let s1 := s.setSession p n { x with
            queue := x.queue.erase (cls, fr), nextPsn := x.nextPsn + 1, unacked := x.unacked ++ [{ lsn := x.nextPsn, frame := fr, cls := cls }] }
          sessionSend p n lim fuel (emitPacket s1 p n x.nextPsn fr)

def sessionPump (s : State) (p n : Nat) : State := sessionSend p n 5 (s.session p n).queue.length s

def queueSession (s : State) (p n : Nat) (fr : Frame) : State := sessionPump (enqueueSession s p n (frameClass fr) fr) p n

/-- Every session sends what it may, class by class over the sessions of a port (R374). -/
def pumpSessions (s : State) : State :=
  (List.range 2).foldl (fun s p =>
    (List.range 6).foldl (fun s cls =>
      ((s.host p).sessions.map (·.1)).foldl (fun s n => sessionSend p n cls (s.session p n).queue.length s) s) s) s

/-- A LOCAL Flume whose far end is the guest die's (R455). -/
def guestFlume (s : State) (f : Nat) : Bool :=
  let x := s.flume f
  let base := s.sec.frisket.gflumeBase.toNat
  s.part.guestBuild && x.kind == 2 && decide (base ≤ x.far) && decide (x.far < base + s.sec.frisket.gflumeCount.toNat)

/-- A LOCAL Flume between two ends of this package (R265). -/
def localFlume (s : State) (f : Nat) : Bool := (s.flume f).kind == 2 && !(guestFlume s f)

/-- A frame goes to the guest die in the clear (R265, R455). -/
def sendGuest (s : State) (fr : Frame) : State :=
  match frameFlume fr with
  | some f => if guestFlume s f then s.emit (.guestFrame fr (frameBytes s 2048 fr)) else s
  | none => s

/-- A frame goes out on a carrier. -/
def sendOn (s : State) (c : Carrier) (fr : Frame) : State :=
  match c with
  | .race r => queueRace s r fr
  | .host p n => queueSession s p n fr
  | .fabric => sendGuest s fr

/-! ### Paths (R349, R350, R368) -/

/-- Whether a Race is attested to a member in its recorded incarnation, or accepts it so after ASSUME (R349, R409). -/
def raceServes (s : State) (r m : Nat) : Bool :=
  let x := s.race r
  x.state == .attested && (x.peer == some (m, recordedInc s m) || x.assumed.contains (m, recordedInc s m))

/-- The OPEN sessions of a member on the ports of a Flume's HOSTSET, as (order of opening, port, session). -/
def openSessions (s : State) (x : Flume) : List (Nat × Nat × Nat) :=
  (List.range 2).flatMap (fun p =>
    if x.hostOk p then
      ((s.host p).sessions.filter (fun y => y.2.state == .openS && y.2.member == x.peer)).map (fun y => (y.2.age, p, y.1))
    else [])

/-- The oldest OPEN session of a Flume's PEER on a port in HOSTSET (R368). -/
def oldestSession (s : State) (x : Flume) : Option (Nat × Nat) :=
  ((openSessions s x).foldl (fun (b : Option (Nat × Nat × Nat)) y =>
    match b with | none => some y | some z => if y.1 < z.1 then some y else some z) none).map (·.2)

/-- The path that a Flume would take now (R349, R368); a LOCAL Flume's is the fabric. -/
def pickPath (s : State) (f : Nat) : Option Carrier :=
  let x := s.flume f
  if x.kind = 0 then
    ((List.range 32).find? (fun r => x.raceOk r && raceServes s r x.peer)).map (fun r => .race (Fin.ofNat 32 r))
  else if x.kind = 1 then (oldestSession s x).map (fun y => .host (Fin.ofNat 2 y.1) (Fin.ofNat 64 y.2))
  else some .fabric

/-- A carrier has failed: every Flume on it has lost its path, and leaves it even when the carrier serves the peer again (R350, R367). -/
def losePaths (c : Carrier) (s : State) : State :=
  { s with flumes := Tbl.mapV s.flumes (fun _ x => if x.path = some c then { x with pathLost := true } else x) }

/-- Whether the frames of a Flume may leave now: its path is not suspended (R349). -/
def pathLive (s : State) (f : Nat) : Bool :=
  let x := s.flume f
  !x.pathLost && (match x.path with
    | some (.race r) => (s.race r).state == .attested
    | some (.host p n) => (s.session p n).state == .openS
    | some .fabric => true
    | none => false)

/-- The payload bytes of a DATA frame on a carrier: 2,048 on a Race, the session's SEGSIZE on a host port (R337, R361). -/
def segSize (s : State) : Carrier → Nat
  | .race _ => 2048
  | .host p n => (s.session p n).segsize
  | .fabric => 2048

/-- Whether a payload frame of a Flume still waits on its carrier: a token behind it waits too (R290). -/
def payloadWaits (s : State) (f : Nat) : Bool :=
  let mine (q : List (Nat × Frame)) : Bool := q.any (fun x => x.1 == 5 && frameFlume x.2 == some f)
  match (s.flume f).path with
  | some (.race r) => mine (s.race r).queue
  | some (.host p n) => mine (s.session p n).queue
  | _ => false

/-- The frames of a micro-batch (R260, R338, R361). -/
def mbFrames (s : State) (f : Nat) (seg : Nat) (seq grant e : Nat) : List Frame :=
  let x := s.flume f
  match s.entry? e with
  | none => []
  | some v =>
    let n := x.len / seg
    .mbhdr f x.far seq grant v.step v.mbid v.edition x.len
      :: (List.range n).map (fun k => .data f x.far seq k (decide (k + 1 = n)) e)

/-- An item marked as sent, with the grant that it names. -/
def sentWith (t : TxItem) (grant : Option Nat) : TxItem := { t with sent := true, grantNo := match t.grantNo with | some g => some g | none => grant }

/-- Replaces the first item that has not been sent. -/
def markSent (grant : Option Nat) : List TxItem → List TxItem
  | [] => []
  | t :: r => if t.sent then t :: markSent grant r else sentWith t grant :: r

/-- The grant that an unsent micro-batch names, with the grants held after it: the lowest held one (R262, R271). On a Flume of a takeover context
an output may enter again whose grant the twin had named: the micro-batch of a number names the grant of that number, held or used (R261, R264,
R408; assumption 138). -/
def grantFor (s : State) (x : Flume) (seq : Nat) : Option (Nat × List Nat) :=
  match x.grants with
  | [] => none
  | g :: rest =>
    if !(s.ctx x.owner).takeover then some (g, rest)
    else if x.grants.contains seq then some (seq, x.grants.erase seq)
    else if seq < g then some (seq, x.grants)
    else some (g, rest)

/-- Whether an output of a lower number on a takeover context's Flume has yet to enter the transmit queue again (R261, R408). -/
def lowerComes (s : State) (f seq : Nat) : Bool :=
  let x := s.flume f
  (s.ctx x.owner).takeover && s.pool.any (fun e =>
    e.2.pushed && !e.2.rcpt && e.2.outFlume == f && decide (e.2.outSeq < seq) && !(x.tx.any (fun t => t.kind == .mb e.1)))

/-- An outbound Flume hands its first unsent item to its path when it may go: a micro-batch against a held grant, lowest number first, a
token or notice behind the payload before it (R262, R264, R290). -/
def pumpOne (f : Nat) (s : State) : State × Bool :=
  let x := s.flume f
  match x.path, x.tx.find? (fun t => !t.sent) with
  | some c, some t =>
    if localFlume s f ∨ ¬ pathLive s f ∨ x.inbound then (s, false)
    else
      match t.kind with
      | .mb e =>
        let unread := if c = .fabric then (mbFrames s f 2048 t.seq 0 e).find? (fun fr => !(frameReadable s 2048 fr)) else none
        if unread.isSome then (unread.elim s (haltSender 2048 s), false) else
        let go (g : Nat) (s : State) : State := (mbFrames s f (segSize s c) t.seq g e).foldl (fun s fr => sendOn s c fr) s
        match t.grantNo, grantFor s x t.seq with
        | some g, _ => (go g (s.setFlume f { x with tx := markSent none x.tx }), true)
        | none, some (g, rest) =>
          if lowerComes s f t.seq then (s, false) else
          let s1 := s.setFlume f { x with tx := markSent (some g) x.tx, grants := rest }
          (go g (s1.updEntry e (fun v => { v with outGrant := g })), true)
        | none, none => (s, false)
      | .token n => if payloadWaits s f then (s, false) else (sendOn (s.setFlume f { x with tx := markSent none x.tx }) c (.token f x.far n), true)
      | .notice n => if payloadWaits s f then (s, false) else (sendOn (s.setFlume f { x with tx := markSent none x.tx }) c (.notice f x.far n), true)
  | _, _ => (s, false)

def pumpMany (f : Nat) : Nat → State → State
  | 0, s => s
  | n + 1, s =>
    match pumpOne f s with
    | (s1, true) => pumpMany f n s1
    | (s1, false) => s1

/-- An outbound Flume sends everything that may go now. -/
def pump (f : Nat) (s : State) : State := pumpMany f (s.flume f).tx.length s

/-- What a receipt does at the outbound end (R254, R258, R262, R290): WHAT 0 names a micro-batch, 1 a token, 2 a notice. -/
def receiptAt (f seq step what : Nat) (s : State) : State :=
  let x := s.flume f
  let hit (t : TxItem) : Bool :=
    match t.kind with
    | .mb _ => what == 0 && t.seq == seq
    | .token n => what == 1 && n == step
    | .notice n => what == 2 && n == step
  let s1 := s.setFlume f { x with tx := x.tx.filter (fun t => !(hit t)) }
  if what = 0 then
    { s1 with pool := Tbl.mapV s1.pool (fun _ e => if e.pushed && e.outFlume == f && e.outSeq == seq then { e with rcpt := true } else e) }
  else s1

/-- A grant reaches the outbound end: each number counts once (R262). A Flume that has sent its close message discards it (R271). A Flume of a
takeover context takes the grants that the far end repeats, of which it knows what the journal said (R264, R408; assumption 138). -/
def grantAt (f no : Nat) (s : State) : State :=
  let x := s.flume f
  if x.state = .closed then s
  else if (s.ctx x.owner).takeover then
    if x.grants.contains no || x.tx.any (fun t => t.grantNo == some no) then s
    else pump f (s.setFlume f { x with
      grants := x.grants.takeWhile (fun g => decide (g < no)) ++ no :: x.grants.dropWhile (fun g => decide (g < no))
      nextGrant := max x.nextGrant (no + 1) })
  else if no < x.nextGrant then s
  else pump f (s.setFlume f { x with grants := x.grants ++ [no], nextGrant := no + 1 })

/-- What a frame does at the far end of a LOCAL Flume (R265). -/
def localFrame (s : State) : Frame → State
  | .grant _ g no => grantAt g no s
  | .receipt _ g seq step what => receiptAt g seq step.toNat what s
  | .red f _ id hdr p nb lines => { s with galley := { s.galley with fabric := s.galley.fabric ++ [.red f id hdr p nb lines] } }
  | .redack f _ id credit n => { s with galley := { s.galley with fabric := s.galley.fabric ++ [.ack f id credit n] } }
  | _ => s

/-- A frame of a Flume goes out on its path; without one it is not sent (R264 repeats what matters). -/
def sendFlume (s : State) (f : Nat) (fr : Frame) : State :=
  match (s.flume f).path with
  | some .fabric => if guestFlume s f then sendGuest s fr else localFrame s fr
  | some c => if (s.flume f).pathLost then s else sendOn s c fr
  | none => s

/-- Something enters a Flume's transmit queue (R258, R290). -/
def enterTx (s : State) (f : Nat) (t : TxItem) : State := pump f (s.updFlume f (fun x => { x with tx := x.tx ++ [t] }))

/-! ### The journal of pair mode (R401 to R403) -/

/-- The Races that PAIR_A and PAIR_B mark (R354). -/
def pairRaces (s : State) : List Nat :=
  (List.range 16).flatMap (fun p =>
    (if (s.racePort p).cfg.getLsbD 2 then [2 * p] else []) ++ (if (s.racePort p).cfg.getLsbD 3 then [2 * p + 1] else []))

def livePairRace (s : State) : Option Nat := (pairRaces s).find? (fun r => (s.race r).state == .attested)

/-- A TWIN frame outside the numbered journal (R402). -/
def sendTwin (s : State) (sub : Nat) (body : List Nat) (bytes : List W8) : State :=
  match livePairRace s with
  | some r => queueRace s r (.twin sub 0 body bytes)
  | none => s

/-- A numbered journal record goes to the twin, on either pair Race (R401, R403). -/
def journal (s : State) (sub : Nat) (body : List Nat) (bytes : List W8) : State :=
  if pairActive s then
    let fr : Frame := .twin sub s.pair.nextJsn body bytes
    let s1 := { s with pair := { s.pair with nextJsn := s.pair.nextJsn + 1, sentJ := s.pair.sentJ ++ [(s.pair.nextJsn, fr)] } }
    match livePairRace s with
    | some r => queueRace s1 r fr
    | none => s1
  else s

/-- A record about a context is journaled for own contexts only (R401). -/
def journalFor (s : State) (c sub : Nat) (body : List Nat) : State := if (s.ctx c).takeover then s else journal s sub body []

/-- The bytes of a 2 KiB unit of a page. -/
def unitBytes (s : State) (p u : Nat) : List W8 := readBytes s (p * 2 ^ 20 + u * 2048) 2048

/-- JWRITE for every unit written since the last flush (R401). -/
def flushUnits (s : State) : State :=
  s.pair.units.foldl (fun s u => journal s 0 [u.1, u.2] (unitBytes s u.1 u.2)) { s with pair := { s.pair with units := [] } }

/-- An Imposition entry as its 64-bit word (R221). -/
def impWord (e : ImpEnt) : Nat :=
  let st := match e.state with | .unmapped => 0 | .mapped => 1 | .migrating => 2 | .damaged => 3 | .lost => 4 | .unbacked => 5
  st * 2 ^ 61 + e.wp.toNat * 2 ^ 60 + e.last.toNat * 2 ^ 59 + e.next * 2 ^ 40 + e.owner * 2 ^ 35 + e.shared.toNat * 2 ^ 34
    + e.cecount * 2 ^ 19 + e.frame

/-- JIMP for a page list, at most 16 records a frame (R402). -/
def journalPages : Nat → List Nat → State → State
  | 0, _, s => s
  | n + 1, l, s =>
    if l.isEmpty then s
    else journalPages n (l.drop 16) (journal s 1 ((l.take 16).flatMap (fun p => [p, impWord (s.page p)])) [])

def edCode : EdState → Nat
  | .free => 0 | .filling => 1 | .pending => 2 | .committed => 3 | .retiring => 4

/-- JED for a shard's Edition entry (R401, R402). -/
def journalEd (s : State) (e : Nat) : State :=
  let v := s.ed e
  journalFor s v.owner 5 [v.shard, edCode v.state, v.number, v.refcount, v.pages.headD 0, v.pages.length, ((s.shard v.shard).settled).getD 0]

/-- JED for an Edition entry that has become FREE. -/
def journalFreed (s : State) (v : EdEnt) : State :=
  journalFor s v.owner 5 [v.shard, 0, v.number, 0, v.pages.headD 0, v.pages.length, ((s.shard v.shard).settled).getD 0]

/-- JSTEP for a step of a context, with its reduction records (R401, R402): flags FINAL, NONFINITE, CLOSED. -/
def journalStep (s : State) (c n : Nat) (recs : List Nat) : State :=
  let x := s.ctx c
  let i := x.step n
  let ls := x.lscale
  journalFor s c 6 ([c, n, ls.lsExp.toNat, ls.lsMin.toNat, ls.lsMax.toNat, ls.growth.toNat, ls.goodRun.toNat,
    i.final.toNat + 2 * i.nonfinite.toNat + 4 * i.closed.toNat, x.rstep] ++ recs)

def flumeCode : FlumeState → Nat
  | .closed => 0 | .opening => 1 | .openF => 2 | .closing => 3 | .broken => 4

/-- JFLUME for a Flume (R401, R402): SEQ, grants issued and used, state. -/
def journalFlume (s : State) (f : Nat) : State :=
  let x := s.flume f
  let unused := if x.inbound then x.issued.length else x.grants.length
  journalFor s x.owner 4 [f, x.seq, x.nextGrant - 1, x.nextGrant - 1 - unused, flumeCode x.state]

/-- JPEER for a peer of a context (R401, R402). -/
def journalPeer (s : State) (c j : Nat) : State :=
  match (s.ctx c).peers[j]? with
  | some p => journalFor s c 7 [c, j, p.lastToken.getD 0, p.lastNotice.getD 0]
  | none => s

/-- What waits for the twin before it enters a Flume's transmit queue (R401). -/
def heldTx (s : State) (f : Nat) : List TxItem :=
  s.pair.held.filterMap (fun h => match h.2 with | .txEnter g t => if g = f then some t else none | _ => none)

/-- A token or notice enters a Flume's transmit queue in its turn: behind an output that still waits for the twin (R290, R401). -/
def enterTurn (s : State) (f : Nat) (t : TxItem) : State :=
  if (heldTx s f).isEmpty then enterTx s f t
  else { s with pair := { s.pair with held := s.pair.held ++ [(s.pair.nextJsn - 1, .txEnter f t)] } }

/-- Sends the commit notice of a step to every peer (R290). -/
def sendNotice (s : State) (c n : Nat) : State :=
  (s.ctx c).peers.foldl (fun s p => enterTurn s p.out { kind := .notice n, seq := 0 }) s

/-- The response to the first request of a session goes out (R369, R371). -/
def respondNow (s : State) (p n : Nat) (f : Frame) : State :=
  let x := s.session p n
  if x.state = .free then s else queueSession (s.setSession p n { x with requests := x.requests.drop 1, acted := false }) p n f

/-- What happens once the twin has acknowledged (R401). -/
def perform (s : State) : HeldAct → State
  | .entryReady e => s.updEntry e (fun x => { x with state := .ready })
  | .txEnter f t => enterTx s f t
  | .frame f fr => sendFlume s f fr
  | .signal c no idx sen tok => lateSignal s c no idx sen tok
  | .respond p n f => respondNow s p n f
  | .notice c n => sendNotice s c n
  | .redStart b =>
    { s with galley := { s.galley with buckets := s.galley.buckets.map (fun x => if x.bid = b then { x with held := false } else x) } }
  | .redEnd b c no idx sen tok =>
    if s.galley.buckets.any (fun x => x.bid == b) then
      lateSignal { s with galley := { s.galley with buckets := s.galley.buckets.filter (fun x => x.bid != b) } } c no idx sen tok
    else s
  | .release => releaseClosed s

/-- Something that waits for the acknowledgement of every record sent so far; at once when there is none or no pair (R401). -/
def hold (s : State) (a : HeldAct) : State :=
  if pairActive s && decide (s.pair.ackJsn + 1 < s.pair.nextJsn) then
    { s with pair := { s.pair with held := s.pair.held ++ [(s.pair.nextJsn - 1, a)] } }
  else perform s a

/-- Gives the commit notice of step n when it is due (R290, R401). -/
def noticeStep (c n : Nat) (s : State) : State :=
  let x := s.ctx c
  let due := (x.step n).tokenIssued && (updatedShards s c).all (fun i => settledAt s i n)
    && (match x.noticed with | some m => decide (m < n) | none => true)
  if due then hold (s.setCtx c { x with noticed := some n }) (.notice c n) else s

end Sys2Proof.Machine
end

