-- ==== Sys2Proof/Machine/Stage.lean ====
section
/-!
DEFINITION. Stage-program instructions on entries, programs and Editions, and what follows by itself from a change at a context:
commits, notices, closes, releases, deferred instructions and signals (R49, R181 to R186, R209 to R211, R255 to R258, R266, R280 to R291).
-/

namespace Sys2Proof.Machine

/-! ### The update window (R281) -/

/-- Points window pages at the frames of an Edition's pages, or makes them UNMAPPED. -/
def aliasPages (s : State) (owner base n : Nat) (pages : List Nat) : State :=
  (List.range n).foldl (fun s i =>
    match pages[i]? with
    | some p => s.setPage (base + i) { s.page p with owner := owner, shared := true, last := false, next := 0, cecount := 0 }
    | none => s.setPage (base + i) {}) s

/-- The virtual page of a shard's window: a takeover context's lies in the upper half (R281). -/
def Shard.window (x : Shard) : Nat := x.win

/-- Sets CUR and NEW of a shard's window (R281). -/
def setWindow (s : State) (sh : Nat) (new : List Nat) : State :=
  let x := s.shard sh
  let cur := match newestCommitted s sh with | some (_, e) => e.pages | none => []
  aliasPages (aliasPages s x.owner x.window x.span cur) x.owner (x.window + x.span) x.span new

/-! ### Deferred instructions -/

/-- The signal of an instruction that waits for the twin when it must (R401). -/
def holdSignal (s : State) (c : Nat) (d : Deferred) : State := hold s (.signal c d.no d.idx d.issue.sen d.issue.stok.toNat)

/-- The lowest FREE index of the Edition table. -/
def freeEd (s : State) : Nat := ((List.range 8192).find? (fun n => (s.ed n).state == .free)).getD 0

/-- The context's Edition entries in use (R279). -/
def usedEds (s : State) (c : Nat) : Nat := (s.eds.filter (fun x => x.2.owner == c && x.2.state != .free)).length

/-- Opens an Edition once the free list holds its pages (R280 to R282, R288). -/
def wakeEdopen (c : Nat) (d : Deferred) (s : State) : Option State :=
  let sh := fld d.issue 0 13
  let x := s.shard sh
  match takePages s c x.span true with
  | none => none
  | some (l, s1) =>
    let e := freeEd s1
    let s2 := s1.setEd e { state := .filling, shard := sh, owner := c, number := d.step.toNat, pages := l }
    let s3 := setWindow (s2.setShard sh { x with opened := some d.step.toNat }) sh l
    some (holdSignal (journalEd (journalPages l.length l s3) e) c d)

/-- The FILLING Edition of a shard. -/
def fillingOf (s : State) (sh : Nat) : Option (Nat × EdEnt) := (edsOf s sh).find? (fun x => x.2.state == .filling)

/-- Marks the FILLING Edition pending, or frees it when its step is NONFINITE, once the step is final (R182, R282, R288). -/
def wakeEdpend (c : Nat) (d : Deferred) (s : State) : Option State :=
  let sh := fld d.issue 0 13
  match fillingOf s sh with
  | none => some s
  | some (e, v) =>
    let x := s.ctx c
    if !(x.isFinal v.number) then none
    else
      let s1 := flushUnits s
      let s2 :=
        if x.stepNonfinite v.number then journalFreed (settleTo (freeEdition s1 e) sh v.number false) v
        else journalEd (s1.setEd e { v with state := .pending }) e
      some (holdSignal s2 c d)

/-- The Edition that a number resolves to (R284). -/
def resolveEd (s : State) (sh n : Nat) : Option (Nat × EdEnt) :=
  newest ((edsOf s sh).filter (fun x => (x.2.state == .committed || x.2.state == .retiring) && decide (x.2.number ≤ n)))

/-- The Editions that an entry resolves to in every updated shard of its context, if each resolves (R284, R286). -/
def resolveAll (s : State) (n : Nat) : List Nat → Option (List Nat)
  | [] => some []
  | sh :: t =>
    match resolveEd s sh n, resolveAll s n t with
    | some (e, _), some l => some (e :: l)
    | _, _ => none

/-- Adds an entry's references, if it holds none (R284). -/
def addRefs (s : State) (h : Nat) (l : List Nat) : State :=
  match s.entry? h with
  | some e =>
    if e.refs.isEmpty then
      l.foldl (fun s i => s.setEd i { s.ed i with refcount := (s.ed i).refcount + 1 }) (s.setEntry h { e with refs := l })
    else s
  | none => s

/-- BASE2 for an image's shard (R174, R284, R287); none when the shard is not in the context's list (R286). -/
def base2 (s : State) (c : Nat) (hdr : List W64) (entry : Option Entry) : Option Nat :=
  if wfld hdr 6 13 1 = 0 then some 0
  else
    let sh := wfld hdr 6 0 13
    let x := s.shard sh
    if !((s.ctx c).shards.contains sh) then none
    else if x.static then ((newestCommitted s sh).map (fun v => v.2.pages.headD 0 * 2 ^ 20))
    else
      match entry with
      | none => some (x.window * 2 ^ 20)
      | some e => (resolveEd s sh e.edition.toNat).map (fun v => v.2.pages.headD 0 * 2 ^ 20)

/-- The base of page i of a list. DESIGN CHOICE (assumption 112): a base for which the entry has no area is 0. -/
def pageBase (l : List Nat) (i : Nat) : Nat := match l[i]? with | some p => p * 2 ^ 20 | none => 0

/-- The dispatch block of one member (R174, R253). -/
def dispatchBlock (e : Option Entry) (b2 q members : Nat) : List W64 :=
  let grp : W64 := BitVec.ofNat 64 (q + (members - 1) * 256)
  match e with
  | none => [0, 0, 0, 0, 0, BitVec.ofNat 64 b2, 0, grp]
  | some e =>
    [e.mbid ++ e.step, BitVec.ofNat 32 (e.flume + e.hopper % 2 * 65536) ++ e.edition, BitVec.ofNat 64 e.seq,
     BitVec.ofNat 64 (pageBase e.inPages 0), BitVec.ofNat 64 (pageBase e.outPages 0), BitVec.ofNat 64 b2,
     BitVec.ofNat 64 (pageBase e.inPages ((e.len + 2 ^ 20 - 1) / 2 ^ 20)), grp]

/-- LS_EXP in force for a step (R146): that of before its own finalisation. -/
def lsFor (x : Ctx) (n : Nat) : BitVec 8 := if !(decide (n < x.firstStep)) && (x.step n).final then (x.step n).lsExp else x.lscale.lsExp

/-- The step-status record of a step (R146, R149). -/
def statusRecord (x : Ctx) (n : Nat) : List W64 :=
  let fin := x.isFinal n
  let flags : Nat := (if fin && x.stepNonfinite n then 1 else 0) + (if fin then 2 else 0)
  [BitVec.ofNat 32 flags ++ BitVec.ofNat 32 n, (0 : W32) ++ (lsFor x n).signExtend 32]

/-- The step before n is final (R146, R186). -/
def prevFinal (x : Ctx) (n : Nat) : Bool := decide (n = 0) || x.isFinal (n - 1)

/-- What a DISPATCH waits for (R146, R186, R284). -/
def dispatchReady (s : State) (c : Nat) (d : Deferred) : Bool :=
  let x := s.ctx c
  let i := d.issue
  let n := d.step.toNat
  let stsrec := fld i 7 1 = 1
  (!(stsrec || decide (fld i 10 1 = 1)) || prevFinal x n) && (!(stsrec && decide (fld i 8 1 = 1)) || x.isFinal n)
    && (match d.entry with
        | none => true
        | some h => match s.entry? h with
          | some e => (updatedShards s c).all (fun sh => settledAt s sh e.edition.toNat)
          | none => true)

/-- The image that a DISPATCH starts: the alternate one when ALT is set, its latch is set in the step's snapshot and the header names one
(R186, R217). -/
def dispatchImage (s : State) (c : Nat) (d : Deferred) : Nat :=
  let primary := xfld d.issue 0 48
  if fld d.issue 10 1 = 1 ∧ ((s.ctx c).step d.step.toNat).snapshot.getLsbD (fld d.issue 11 5) then
    match fetchImage s primary with
    | .ok ws => if wfld ws 5 0 48 = 0 then primary else wfld ws 5 0 48
    | .error _ => primary
  else primary

/-- A DISPATCH reaches its members (R161, R183, R284 to R287), or fails with code 0x63; a halted context starts nothing (R46). -/
def wakeDispatch (c : Nat) (d : Deferred) (s : State) : Option State :=
  if (s.ctx c).state = .halted ∨ !(dispatchReady s c d) then none
  else
    let x := s.ctx c
    let image := dispatchImage s c d
    let hdr := match fetchImage s image with | .ok ws => ws | .error _ => []
    let e := d.entry.bind s.entry?
    let refs := match e with | some v => resolveAll s v.edition.toNat (updatedShards s c) | none => some []
    match refs, base2 s c hdr e with
    | some l, some b2 =>
      let members := dispMembers s c d.disp
      let s1 := match d.entry with | some h => addRefs s h l | none => s
      let n := d.step.toNat
      let s2 := s1.updCtx c (fun x => x.setStep n { x.step n with dispatched := true })
      let sts := if fld d.issue 7 1 = 1 then some (statusRecord x n) else none
      some (members.foldl (fun s q => s.updQuern q (fun v => { v with
        waiting := v.waiting ++ [{ ctx := c, disp := d.disp, image := image, entry := d.entry,
                                   dblk := dispatchBlock e b2 q members.length, sts := sts,
                                   step := n, wgbend := imageWgbend hdr }] })) s2)
    | _, _ => some (stopCtx (s.updCtx c (fun x => { x with disps := x.disps.filter (fun y => y.id ≠ d.disp) })) c 0x63 d.idx [])

/-- Tries the first deferred instruction that can act; the others of its context stay. -/
def wakeOne (c : Nat) (d : Deferred) (s : State) : State :=
  let r := match d.op with
    | .edopen => wakeEdopen c d s
    | .edpend => wakeEdpend c d s
    | _ => wakeDispatch c d s
  match r with
  | some s1 => s1.updCtx c (fun x => { x with deferred := x.deferred.filter (· != d) })
  | none => s

/-- Every deferred instruction of a context that can act acts, in program order (R181). -/
def wakeCtx (c : Nat) (s : State) : State :=
  (s.ctx c).deferred.foldl (fun s d => if (s.ctx c).deferred.contains d then wakeOne c d s else s) s

/-! ### What follows by itself -/

/-- Commits that are due at a context, journaled (R49, R401). -/
def commitAll (c : Nat) (s : State) : State :=
  (s.eds.map (·.1)).foldl (fun s e =>
    if (s.ed e).owner = c ∧ (s.ed e).state = .pending then
      let s1 := commitEdition s e
      if (s1.ed e).state = .committed then journalEd s1 e else s1
    else s) s

/-- Retiring Editions whose time has come become FREE (R289). -/
def freeAll (c : Nat) (s : State) : State :=
  (s.eds.map (·.1)).foldl (fun s e =>
    if (s.ed e).owner = c ∧ (s.ed e).state = .retiring then
      let s1 := freeRetiring s e
      if (s1.ed e).state = .free then journalFreed s1 (s.ed e) else s1
    else s) s

/-- Closes of steps, journaled before their entries are released (R267, R401). -/
def closeAll (c : Nat) (s : State) : State :=
  (ctxSteps s c).foldl (fun s n =>
    let was := ((s.ctx c).step n).closed
    let s1 := closeStep c n s
    if ((s1.ctx c).step n).closed && !was then journalStep s1 c n [] else s1) s

/-- One round at one context. -/
def settleCtx (s : State) (c : Nat) : State :=
  let s1 := commitAll c s
  let s2 := (ctxSteps s1 c).foldl (fun s n => noticeStep c n s) s1
  let s3 := wakeCtx c s2
  let s4 := closeAll c s3
  let s5 := if s4.pool.any (fun x => releasable s4 x.2) then hold s4 .release else s4
  firePends c (freeAll c s5)

def settleRound (s : State) : State := (s.ctxs.map (·.1)).foldl settleCtx s

/-- Whatever a change at the contexts brings about by itself: a commit may free an Edition, whose pages may let an EDOPEN act, whose
shard may then be named again; three rounds reach every consequence. -/
def settle (s : State) : State := settleRound (settleRound (settleRound s))

/-- The start of a stage-program instruction, and what follows from it. -/
def stageInstr (c : Nat) (op : Opcode) (i : Issue) (held : Bool) (enabled : State → Bool)
    (body : State → Except Nat (State × SigWhen)) (s : State) : Res := andThen (startStage c op i held enabled body s) settle

/-- Defers an instruction of a context that has issued. -/
def defer (s : State) (c : Nat) (op : Opcode) (i : Issue) (entry : Option Nat) (disp : Nat) (step : W32) : State :=
  s.updCtx c (fun x => { x with
    deferred := x.deferred ++ [{ op := op, no := x.issued, idx := x.seqr.pos, issue := i, entry := entry, disp := disp, step := step }] })

/-! ### HPOP (R255, R256) -/

/-- How long ago an entry was accepted, modulo 2^16 (R255). -/
def age (hp : Hopper) (e : Entry) : Nat := (hp.accNo + 65536 - e.accNo) % 65536

/-- The READY entry that an HPOP of a Hopper takes: the one at HOP_NEXT, or the oldest; a recalled entry is passed over (R255, R393). -/
def popCandidate (s : State) (h : Nat) : Option (Nat × Entry) :=
  let hp := s.hopper h
  let l := (hopperEntries s h).filter (fun x => x.2.state == .ready && !x.2.recalled)
  if hp.ordered then l.find? (fun x => decide (x.2.step.toNat = hp.nextStep) && decide (ordinalOf x.2.mbid = hp.nextOrd))
  else l.foldl (fun m x => match m with | none => some x | some y => if age hp y.2 < age hp x.2 then some x else some y) none

/-- The pages of an output area that an entry still needs (R256). -/
def areaNeed (s : State) (h : Nat) (e : Entry) : Nat := if e.outPages.isEmpty then (s.hopper h).outPages else 0

/-- Code 0x61: the register holds an entry that no HPUSH or DISPATCH has read (R211). -/
def hregUnread (x : Ctx) (k : Nat) : Bool := match x.hregs.getD k none with | some r => !r.read | none => false

/-- The next order point of an ordered Hopper (R255). -/
def nextOrder (hp : Hopper) : Hopper :=
  if hp.nextOrd + 1 = hp.mbPerStep then { hp with nextStep := (hp.nextStep + 1) % 2 ^ 32, nextOrd := 0 }
  else { hp with nextOrd := hp.nextOrd + 1 }

/-- Whether an HPOP has an entry to take and its area can be allocated. -/
def popReady (c h : Nat) (s : State) : Bool :=
  match popCandidate s h with
  | some (_, e) => decide (areaNeed s h e ≤ (s.ctx c).free.length)
  | none => false

/-- Takes an entry into an entry register. `x0`: the context before the instruction took its wait. -/
def popEntry (c h k : Nat) (x0 : Ctx) (s : State) : State :=
  match popCandidate s h with
  | none => s
  | some (id, e) =>
    match takePages s c (areaNeed s h e) false with
    | none => s
    | some (l, s1) =>
      let s2 := s1.setEntry id { e with state := .taken, outPages := e.outPages ++ l }
      let hp := s2.hopper h
      let s3 := if hp.ordered then s2.setHopper h (nextOrder hp) else s2
      s3.updCtx c (fun x => { x with
        hregs := x.hregs.set k (some { entry := id, read := false }), hpopStalled := false,
        snaps := x.snaps.filter (fun n => n.entry ≠ id)
          ++ [{ entry := id, no := x.issued, seqr := x0.seqr, tokens := x0.tokens, hregs := x0.hregs }] })

/-- An HPOP that waits for pages is counted once (R256, R274). -/
def stallHpop (c h : Nat) (s : State) : State :=
  if (popCandidate s h).isSome && !(popReady c h s) && !(s.ctx c).hpopStalled then
    { s with grantStalls := satAdd s.grantStalls 1 65535 }.updCtx c (fun x => { x with hpopStalled := true })
  else s

/-- HPOP (R209, R211, R224, R254 to R256). -/
def execHpop (c : Fin 32) (i : Issue) (s : State) : Res :=
  let x0 := s.ctx c
  let k := fld i 0 3
  let h := 2 * c.val + fld i 3 1
  let fails := i.ops >>> 4 != 0 || hregUnread x0 k
  let s0 := if x0.ready .hpop i true && x0.waitOk i && !fails then stallHpop c h s else s
  stageInstr c .hpop i true (fun s => fails || popReady c h s) (fun s => do
    needTop i 4
    need (!(hregUnread (s.ctx c) k)) 0x61
    .ok (popEntry c h k { x0 with hpopStalled := false } s, .now)) s0

/-! ### DISPATCH (R183 to R186, R209, R284) -/

/-- The pool entry that an entry register holds, if it still stands. -/
def hregEntry (s : State) (c k : Nat) : Option Nat :=
  match (s.ctx c).hregs.getD k none with
  | some r => if (s.entry? r.entry).isSome then some r.entry else none
  | none => none

/-- An HPUSH or DISPATCH reads an entry register (R211). -/
def markRead (x : Ctx) (k : Nat) : Ctx :=
  match x.hregs.getD k none with
  | some r => { x with hregs := x.hregs.set k (some { r with read := true }) }
  | none => x

/-- The step of a DISPATCH: its entry's, or without one the step before RSTEP (assumption 21). -/
def dispatchStep (s : State) (c : Nat) (e : Option Nat) : W32 :=
  match e.bind s.entry? with
  | some v => v.step
  | none => BitVec.ofNat 32 ((s.ctx c).rstep + 2 ^ 32 - 1)

/-- DISPATCH (R183 to R186, R209, R211, R284 to R287). -/
def execDispatch (c : Fin 32) (i : Issue) (s : State) : Res :=
  stageInstr c .dispatch i true free (fun s => do
    let noentry := fld i 3 1 = 1
    let e := if noentry then none else hregEntry s c (fld i 0 3)
    needTop i 16
    need (xfld i 48 16 = 0) 0x20
    need (xfld i 0 6 = 0) 0x22
    need (noentry || e.isSome) 0x60
    let members := ((s.ctx c).groups[fld i 4 3]?).getD []
    need (!members.isEmpty) 0x66
    need (!((fld i 9 1 = 1 || fld i 10 1 = 1) && noentry && fld i 7 1 = 0)) 0x66
    let x := if noentry then s.ctx c else markRead (s.ctx c) (fld i 0 3)
    let step := dispatchStep s c e
    let d : Disp := { id := x.nextDisp, group := fld i 4 3, members := members, notices := [], entry := e, step := step,
                      latch := if fld i 9 1 = 1 then some (fld i 11 5) else none, idx := x.seqr.pos, sen := i.sen, stok := i.stok.toNat,
                      no := x.issued, issue := i }
    let s1 := s.setCtx c { x with disps := x.disps ++ [d], nextDisp := x.nextDisp + 1 }
    .ok (defer s1 c .dispatch i e x.nextDisp step, .never)) s

/-! ### HPUSH and HRCPT (R209, R211, R258) -/

/-- Whether HPUSH may name a Flume: an outbound Flume of the context, OPEN or BROKEN (R211, R272). -/
def pushOk (s : State) (c f : Nat) : Bool :=
  let x := s.flume f
  (x.state == .openF || x.state == .broken) && x.owner == c && !x.inbound

/-- On a BROKEN Flume an HPUSH queues only against a held grant (R272). -/
def pushRoom (s : State) (f : Nat) : Bool :=
  let x := s.flume f
  x.state != .broken || decide (((x.tx ++ heldTx s f).filter (fun t => !t.sent && (match t.kind with | .mb _ => t.grantNo.isNone | _ => false))).length < x.grants.length)

/-- An output that has a number and neither a receipt nor a place in the transmit queue enters it again, in sequence order: a takeover
computes it afresh (R258, R408). -/
def reenterTx (f h seq : Nat) (s : State) : State :=
  let l := (s.flume f).tx
  let there (t : TxItem) : Bool := t.kind == .mb h
  let low (t : TxItem) : Bool := match t.kind with | .mb _ => decide (t.seq < seq) | _ => true
  if l.any there || (heldTx s f).any there then s
  else pump f (s.updFlume f (fun x => { x with tx := l.takeWhile low ++ [{ kind := .mb h, seq := seq }] ++ l.dropWhile low }))

/-- The output takes the Flume's next sequence number and enters its transmit queue; a SINK returns its receipt at once (R258, R265,
R401). -/
def pushEntry (f h : Nat) (s : State) : State :=
  match s.entry? h with
  | none => s
  | some e =>
    if e.state ≠ .taken then s
    else if e.pushed then
      let s1 := s.setEntry h { e with state := .done, hpushed := true }
      if e.rcpt then s1
      else if (s.flume e.outFlume).kind = 3 then s1.updEntry h (fun v => { v with rcpt := true })
      else reenterTx e.outFlume h e.outSeq s1
    else
      let x := s.flume f
      let seq := x.seq + 1
      let sink := x.kind = 3
      let s1 := (s.setFlume f { x with seq := seq }).setEntry h
        { e with state := .done, pushed := true, hpushed := true, outFlume := f, outSeq := seq, rcpt := e.rcpt || sink }
      let s2 := journalFor s1 (e.hopper / 2) 3 [e.flume, e.seq, f, seq]
      if sink then s2 else hold s2 (.txEnter f { kind := .mb h, seq := seq })

/-- A recalled payload on a LOCAL Flume is copied again from its output; while the output cannot be read the recall stands until the recomputed
output is pushed again, and without an output the entry is unrecoverable (R265, R393, R395). -/
def copyLocal (s : State) (k : Nat) (e : Entry) : State :=
  match entryOfOut s (s.flume e.flume).far e.seq with
  | some (_, src) =>
    if (lostPage s (srcAddrs src e.len)).isSome then s.setEntry k { e with recalled := true }
    else
      (writeMem (s.setEntry k { e with recalled := false })
        ((List.range e.len).zip (outBytes s src 0 e.len) |>.map (fun p => (inAddr e p.1, p.2)))).1
  | none => s.setEntry k { e with recalled := false, unrecoverable := true }

/-- An output has been pushed again: the recalls on its LOCAL Flume that wait for it are answered (R393). -/
def recopyLocal (h : Nat) (s : State) : State :=
  match s.entry? h with
  | some v =>
    if v.pushed && localFlume s v.outFlume then
      match entryOfSeq s (s.flume v.outFlume).far v.outSeq with
      | some (k, e) => if e.recalled then copyLocal s k e else s
      | none => s
    else s
  | none => s

/-- HPUSH (R209 to R211, R258, R265): in pair mode it signals once the twin has acknowledged the push (R401). -/
def execHpush (c : Fin 32) (i : Issue) (s : State) : Res :=
  let f := fld i 3 10
  let h0 := hregEntry s c (fld i 0 3)
  let fresh := match h0.bind s.entry? with | some e => !e.pushed | none => false
  stageInstr c .hpush i false (fun s => !fresh || !(pushOk s c f) || pushRoom s f) (fun s => do
    needTop i 13
    let some h := hregEntry s c (fld i 0 3) | .error 0x60
    need (!fresh || pushOk s c f) 0x62
    let s1 := recopyLocal h (pushEntry f h (s.setCtx c (markRead (s.ctx c) (fld i 0 3))))
    .ok (if (heldTx s1 f).any (fun t => t.kind == .mb h) then
      (hold s1 (.signal c (s.ctx c).issued (s.ctx c).seqr.pos i.sen i.stok.toNat), .never) else (s1, .now))) s

/-- HRCPT (R209 to R211): it signals when the entry's receipt has returned. -/
def execHrcpt (c : Fin 32) (i : Issue) (s : State) : Res :=
  stageInstr c .hrcpt i false free (fun s => do
    needTop i 3
    let some h := hregEntry s c (fld i 0 3) | .error 0x60
    need (match s.entry? h with | some e => e.hpushed | none => false) 0x60
    .ok (s, .later (.rcpt h))) s

/-! ### Editions (R182, R209, R211, R288) -/

/-- An updated shard in the context's list. -/
def shardOk (s : State) (c sh : Nat) : Bool := (updatedShards s c).contains sh

/-- EDOPEN's state condition (R288): no FILLING or PENDING Edition, and a step above SETTLED. -/
def openOk (s : State) (sh step : Nat) : Bool :=
  !((edsOf s sh).any (fun x => x.2.state == .filling || x.2.state == .pending))
    && (match (s.shard sh).settled with | some t => decide (t < step) | none => true)

/-- EDOPEN (R209, R211, R276 to R282, R288). -/
def execEdopen (c : Fin 32) (i : Issue) (s : State) : Res :=
  stageInstr c .edopen i false free (fun s => do
    needTop i 13
    need (xfld i 32 32 = 0) 0x20
    need (shardOk s c (fld i 0 13) && openOk s (fld i 0 13) (xfld i 0 32)
      && !((s.ctx c).deferred.any (fun d => d.op == .edopen && fld d.issue 0 13 == fld i 0 13))) 0x63
    need (decide (usedEds s c + ((s.ctx c).deferred.filter (fun d => d.op == .edopen)).length < (s.ctx c).alloc)) 0x64
    .ok (defer s c .edopen i none 0 (BitVec.ofNat 32 (xfld i 0 32)), .never)) s

/-- EDPEND (R182, R209, R211, R288). -/
def execEdpend (c : Fin 32) (i : Issue) (s : State) : Res :=
  stageInstr c .edpend i false free (fun s => do
    needTop i 13
    need (shardOk s c (fld i 0 13) && (fillingOf s (fld i 0 13)).isSome) 0x63
    .ok (defer s c .edpend i none 0 0, .never)) s

/-- Requests the commit of a shard's PENDING Edition (R288). -/
def requestCommit (s : State) (sh : Nat) : State :=
  match (edsOf s sh).find? (fun x => x.2.state == .pending) with
  | some (e, v) => s.setEd e { v with requested := true }
  | none => s

/-- EDCOMMIT (R49, R209, R211, R288). -/
def execEdcommit (c : Fin 32) (i : Issue) (s : State) : Res :=
  stageInstr c .edcommit i false free (fun s => do
    let sh := fld i 0 13
    needTop i 13
    need (shardOk s c sh && ((s.shard sh).settled.isSome || (edsOf s sh).any (fun x => x.2.state == .pending))) 0x63
    .ok (requestCommit s sh, .later (.commit sh (((s.shard sh).opened).getD 0)))) s

/-- The COMMITTED Editions of a shard other than the newest (R288). -/
def retireList (s : State) (sh : Nat) : List Nat :=
  match newestCommitted s sh with
  | some (n, _) => ((edsOf s sh).filter (fun x => x.2.state == .committed && x.1 != n)).map (·.1)
  | none => []

/-- EDRETIRE (R209, R211, R282, R288, R289). -/
def execEdretire (c : Fin 32) (i : Issue) (s : State) : Res :=
  stageInstr c .edretire i false free (fun s => do
    let sh := fld i 0 13
    needTop i 13
    need (shardOk s c sh) 0x63
    let l := retireList s sh
    .ok (l.foldl (fun s e => journalEd (s.setEd e { s.ed e with state := .retiring }) e) s, .later (.retire l))) s

/-- STEPTOKEN (R209, R266, R267, R290). -/
def execSteptoken (c : Fin 32) (i : Issue) (s : State) : Res :=
  stageInstr c .steptoken i false free (fun s => do
    let n := fld i 0 32
    needTop i 32
    let s1 := s.updCtx c (fun x => x.setStep n { x.step n with tokenIssued := true })
    .ok ((s.ctx c).peers.foldl (fun s p => enterTurn s p.out { kind := .token n, seq := 0 }) s1, .later (.tokens n))) s

end Sys2Proof.Machine
end

