-- ==== Sys2Proof/Machine/Wire.lean ====
section
/-!
DEFINITION. Reception and transmission of sealed frames on a Race or a session: the checks of R340, the numbering of R342 and R343, the
credits of R346, and the failure and return of Flume paths (R264, R272, R341 to R350, R366).
-/

namespace Sys2Proof.Machine

/-! ### Sending on a Race -/

/-- Whether the port of a Race is split (R325). -/
def splitPort (s : State) (r : Nat) : Bool := (s.racePort (r / 2)).cfg.getLsbD 1

/-- Payload slots and header entries of a Race (R345). -/
def raceSlots (s : State) (r : Nat) : Nat := if splitPort s r then 256 else 512
def raceEntries (s : State) (r : Nat) : Nat := if splitPort s r then 512 else 1024

/-- The slot credit that a Race gives: its buffer beyond the slots freed, modulo 2^16 (R345, R346). -/
def slotCredit (s : State) (r : Nat) : Nat := ((s.race r).slotsFreed + raceSlots s r) % 65536

/-- A frame leaves with a number: a fresh counter, and the latest acknowledgement and credits (R339, R342, R343). -/
def emitNumbered (s : State) (r lsn : Nat) (fr : Frame) : State :=
  let (ctr, s1) := drawCtr s (ctrKey r fr)
  let (m, inc) := frameSender s fr
  let x := s1.race r
  let s2 := s1.setRace r { x with rx := { x.rx with sinceAck := 0 } }
  s2.emit (.raceFrame r m inc ctr lsn x.rx.ack (slotCredit s r) (raceEntries s r) fr
    (raceWire s.sec.jobId r m inc ctr lsn x.rx.ack (slotCredit s r) (raceEntries s r) fr (frameBytes s 2048 fr)))

/-- A new sealed frame leaves: it takes the next LSN and, with a payload, a slot (R342, R345). -/
def emitRace (s : State) (r : Nat) (fr : Frame) : State :=
  let x := s.race r
  let s1 := s.setRace r { x with
    nextLsn := x.nextLsn + 1, slotsUsed := x.slotsUsed + (if takesSlot fr then 1 else 0)
    unacked := x.unacked ++ [{ lsn := x.nextLsn, frame := fr, cls := frameClass fr }] }
  emitNumbered s1 r x.nextLsn fr

/-- HELLO and ATTEST frames have LSN 0 and no credit (R332, R337, R339). -/
def emitPlain (s : State) (r : Nat) (fr : Frame) : State :=
  let (ctr, s1) := drawCtr s (ctrKey r fr)
  let inc := recordedInc s s.sec.self
  s1.emit (.raceFrame r s.sec.self inc ctr 0 0 0 0 fr (raceWire s.sec.jobId r s.sec.self inc ctr 0 0 0 0 fr []))

/-! ### What a host port takes (R357 to R359, R361, R363) -/

/-- A count of DROPPED of a host port (R358, R359, R375). -/
def dropAt (s : State) (p : Nat) : State := s.updHost p (fun x => { x with dropped := satAdd x.dropped 1 65535 })

/-- A count of AUTH_FAIL of a host port (R375). -/
def authFailAt (s : State) (p : Nat) : State := s.updHost p (fun x => { x with authFail := satAdd x.authFail 1 65535 })

/-- At most one 802.1Q tag, that of VLAN_ID when VLAN_EN is set; none at the management port (R358, R484). -/
def tagsOk (s : State) (p : Nat) (tags : List (BitVec 12)) : Bool :=
  tags.isEmpty || (p != 2 && (s.host p).cfg.getLsbD 4 && tags == [(s.host p).cfg.extractLsb' 5 12])

/-- Whether an address is one of a port's: its link-local or configured IPv6 address, or its IPv4 address when enabled (R358). -/
def ownAddress (s : State) (p : Nat) (target : W128) (v4 : Bool) : Bool :=
  let (ip6, ip4, _, _) := ipOf s p
  let on := if p = 2 then s.mil.netCfg.getLsbD 0 else (s.host p).cfg.getLsbD 3
  if v4 then on && isV4 target && target.setWidth 32 == ip4.extractLsb' 0 32 else target == Config.linkLocal p || (ip6 != 0 && target == ip6)

/-- Whether a packet is addressed to the port: its unicast address, or with `groups` one of the four groups of ETH_FWGRP_p (R358, R372). -/
def addressed (s : State) (p : Nat) (groups : Bool) : NetDest → Bool
  | .own a => ownAddress s p a (isV4 a)
  | .group i => groups && i != 0 && (List.range 4).any (fun k => (s.host p).fwgrp.extractLsb' (16 * k) 16 == i)

/-- Whether a received packet is a whole Gwyn packet for the port (R358, R359). -/
def packetOk (s : State) (p : Nat) (groups : Bool) (d : Datagram) : Bool :=
  tagsOk s p d.tags && !d.fragment && d.sumOk && decide (d.frameLen ≤ 9216) && d.dstPort == (s.host p).cfg.extractLsb' 23 16 && addressed s p groups d.dst

/-! ### Receiving -/

/-- How far a 48-bit number lies above a reference, modulo 2^48. -/
def above48 (a : W48) (ref : Nat) : Nat := (a.toNat + 2 ^ 48 - ref % 2 ^ 48) % 2 ^ 48

/-- A frame dropped under R340 is counted. -/
def countDropped (s : State) : Carrier → State
  | .race r => s.updRace r (fun x => { x with dropped := satAdd x.dropped 1 65535 })
  | .host p _ => s.updHost p (fun x => { x with dropped := satAdd x.dropped 1 65535 })
  | .fabric => s

/-- Step 5 of R340: the drop is counted and logged with TYPE and identifiers. -/
def dropFrame (s : State) (via : Carrier) (detail : List Nat) : State :=
  let (sc, id) := match via with | .race r => (scRace, r.val) | .host p _ => (scHost, p.val) | .fabric => (scPackage, 0)
  logEvent (countDropped s via) evFrameDropped sc id detail

/-- The nonce window's key (R340). -/
def replayKey (h : FrameHdr) : Nat := ((h.member.toNat * 1024 + h.flume.toNat) * 4 + h.cls.toNat) * 256 + h.inc.toNat

/-- Whether a counter value is new: above the highest, or within 4,096 below it and not seen (R340). -/
def ctrFresh (l : List Nat) (c : Nat) : Bool :=
  match l with
  | [] => true
  | hi :: _ => decide (hi < c) || (decide (hi ≤ c + 4096) && !(l.contains c))

/-- The window after a value: the highest first. -/
def ctrSeen (l : List Nat) (c : Nat) : List Nat :=
  match l with
  | [] => [c]
  | hi :: _ => if hi < c then c :: l.filter (fun v => decide (c ≤ v + 4096)) else hi :: c :: l.drop 1

/-- Whether a Race takes frames of a member and incarnation: its attested peer at its recorded one, or an assumed one (R340, R409). -/
def raceTakes (s : State) (r : Nat) (h : FrameHdr) : Bool :=
  let x := s.race r
  x.state == .attested
    && ((x.peer.map (·.1) == some h.member.toNat && decide (recordedInc s h.member.toNat = h.inc.toNat))
      || x.assumed.contains (h.member.toNat, h.inc.toNat))

/-- Whether a session takes frames of a member and incarnation (R361). -/
def sessionTakes (s : State) (p n : Nat) (h : FrameHdr) : Bool :=
  let x := s.session p n
  x.state == .openS && x.addr == h.net.src && decide (x.member = h.member.toNat) && decide (x.inc = h.inc.toNat)

/-- A Race leaves ATTESTED or RETRAINING for a state in which it carries no path: the paths on it have failed (R350). -/
def leaveAttested (s : State) (r : Nat) : State :=
  if (s.race r).state = .attested ∨ (s.race r).state = .retraining then losePaths (.race (Fin.ofNat 32 r)) s else s

/-- A pair Race has left ATTESTED: the journal records without an acknowledgement go out on the other one (R342, R403). -/
def moveJournal (r : Nat) (s : State) : State :=
  match livePairRace s with
  | some q => if pairActive s && (pairRaces s).contains r then s.pair.sentJ.foldl (fun s x => queueRace s q x.2) s else s
  | none => s

/-- A Race leaves for LINKED; what waited for its attestation starts over, and from ATTESTED its paths fail (R333, R335, R341, R350). -/
def toLinked (s : State) (r : Nat) : State :=
  moveJournal r ((leaveAttested s r).updRace r (fun x => { x with
    state := .linked, peer := none, cand := none, attParts := [], ownResult := none, peerResult := none }))

/-- A tag failure: counted; the sixteenth within 1 s withdraws the Race (R340, R341). -/
def tagFailure (s : State) (r : Nat) : State :=
  let x := s.race r
  let l := s.timeNs :: x.tagFails.filter (fun t => decide (s.timeNs < t + 1000000000))
  let s1 := s.setRace r { x with authFail := satAdd x.authFail 1 65535, tagFails := l }
  if l.length ≥ 16 then
    logEvent ((toLinked (emitRace s1 r .linkWithdraw) r).updRace r (fun x => { x with tagFails := [], retryWait := true })) evAttestFailure scRace r []
  else s1

/-- The sender's side of a received header: acknowledged frames are forgotten and the latest credits hold (R343, R346). -/
def Race.acked (x : Race) (h : FrameHdr) : Race :=
  let d := above48 h.ackNo x.peerAck
  let x1 := { x with frameWindow := h.window.toNat, slotLimit := h.slotLimit.toNat }
  if 0 < d ∧ x.peerAck + d < x.nextLsn then
    { x1 with peerAck := x.peerAck + d, timeouts := 0, unacked := x.unacked.filter (fun u => decide (x.peerAck + d < u.lsn))
              retxq := x.retxq.filter (fun l => decide (x.peerAck + d < l)) }
  else x1

/-- The same for a session, whose own window grows by one packet per window acknowledged, up to the peer's (R366). -/
def Session.acked_ (x : Session) (h : FrameHdr) : Session :=
  let d := above48 h.ackNo x.peerAck
  let x1 := { x with peerWindow := h.window.toNat }
  if 0 < d ∧ x.peerAck + d < x.nextPsn then
    let got := x.acked + d
    let grow := decide (x.cwnd ≤ got)
    { x1 with peerAck := x.peerAck + d, timeouts := 0, unacked := x.unacked.filter (fun u => decide (x.peerAck + d < u.lsn))
              acked := if grow then got - x.cwnd else got
              cwnd := if grow then max x.cwnd (min (x.cwnd + 1) x1.peerWindow) else x.cwnd }
  else x1

/-- The absent numbers below a received one, as far as a NACK from BASE = ACK + 1 can name them (R343). -/
def RxLink.absent (x : RxLink) (top : Nat) : List Nat :=
  ((List.range 64).map (x.ack + 1 + ·)).filter (fun n => decide (n < top) && !(x.above.any (fun f => f.1 == n)))

/-- The absent numbers as the MISSING mask of a NACK (R343). -/
def missingMask (x : RxLink) (top : Nat) : W64 := (x.absent top).foldl (fun m n => m ||| (1 : W64) <<< (n - (x.ack + 1))) 0

/-- What the numbering makes of a frame. -/
inductive Numbered where
  | deliver (x : RxLink)
  | early (x : RxLink) (nack : Option (Nat × W64))
  | old (x : RxLink)
  deriving DecidableEq, Repr

/-- Numbers a received frame (R342, R343, R345): at or below ACK it is discarded, next it is delivered, above a gap the receive buffer holds it.
A NACK goes out when an absent number below it has not been named within the last round trip, and names every absent one. -/
def RxLink.take (x : RxLink) (no : W48) (c : Instr) (now rtt : Nat) : Numbered :=
  let d := above48 no x.ack
  let y := { x with sinceAck := x.sinceAck + 1, count := x.count + 1 }
  if d = 0 ∨ d ≥ 2 ^ 47 ∨ x.above.any (fun f => f.1 == x.ack + d) then .old y
  else if d = 1 then .deliver { y with ack := x.ack + 1, nacked := x.nacked.filter (fun n => decide (x.ack + 1 < n.1)) }
  else
    let n := x.ack + d
    let gaps := x.absent n
    let z := { y with above := x.above ++ [(n, c)] }
    if gaps.any (fun k => match Tbl.find? x.nacked k with | some t => decide (t + rtt ≤ now) | none => true) then
      .early { z with nacked := gaps.map (·, now) } (some (x.ack + 1, missingMask x n))
    else .early z none

/-- The frame of the receive buffer whose turn has come: the gap before it has filled (R342, R345). -/
def RxLink.next (x : RxLink) : Option (Instr × RxLink) :=
  (List.find? (fun f : Nat × Instr => f.1 == x.ack + 1) x.above).map (fun f =>
    (f.2, { x with ack := x.ack + 1, above := x.above.filter (fun g => g.1 != f.1), nacked := x.nacked.filter (fun n => n.1 != f.1) }))

/-- A LINK ACK is due in any case after every 64 frames (R343). -/
def raceAckDue (s : State) (r : Nat) : State :=
  let x := s.race r
  if x.rx.count ≥ 64 then queueRace (s.setRace r { x with rx := { x.rx with count := 0 } }) r (.linkAck x.rx.ack) else s

/-- An ACK is due in any case after every 32 packets (R366). -/
def sessionAckDue (s : State) (p n : Nat) : State :=
  let x := s.session p n
  if x.rx.count ≥ 32 then queueSession (s.setSession p n { x with rx := { x.rx with count := 0 } }) p n (.linkAck x.rx.ack) else s

/-- Whether a frame takes a payload slot of the receive buffer (R345). -/
def slotOf : Instr → Bool
  | .data _ _ _ _ _ => true
  | .red _ _ _ _ _ _ _ => true
  | _ => false

/-- A counter value has been seen (R340 step 4). -/
def seeCtr (s : State) (h : FrameHdr) : State :=
  { s with sec := { s.sec with replay := s.sec.replay.upd (replayKey h) [] (fun l => ctrSeen l h.ctr.toNat) } }

/-- Whether a counter value is new (R340 step 4). -/
def freshCtr (s : State) (h : FrameHdr) : Bool := ctrFresh (s.sec.replay.getD (replayKey h) []) h.ctr.toNat

/-- R340 and R342 on a Race; true when the frame is to be delivered. Nothing is received while the reference is stopped (R37). -/
def receiveRace (r : Nat) (h : FrameHdr) (c : Instr) (s : State) : State × Bool :=
  let x := s.race r
  if s.board.haltedByClock then (s, false)
  else if h.ver ≠ 1 ∨ ¬ h.typeOk ∨ ¬ raceTakes s r h then (countDropped s h.via, false)
  else if !h.tagOk then (tagFailure s r, false)
  else if !(freshCtr s h) then (s.setRace r { x with replay := satAdd x.replay 1 65535 }, false)
  else
    let s1 := seeCtr s h
    let y := x.acked h
    match y.rx.take h.seqNo c s.timeNs y.rttNs with
    | .old rx => (raceAckDue (s1.setRace r { y with rx := rx }) r, false)
    | .early rx nack =>
      let s2 := s1.setRace r { y with rx := rx }
      (raceAckDue (match nack with | some (b, m) => queueRace s2 r (.linkNack b m) | none => s2) r, false)
    | .deliver rx => (raceAckDue (s1.setRace r { y with rx := rx, slotsFreed := y.slotsFreed + (slotOf c).toNat }) r, true)

/-- R358, R359, R361 and R366 on a session. Nothing is received while the link is down or the reference stopped (R37). -/
def receiveHost (p n : Nat) (h : FrameHdr) (c : Instr) (s : State) : State × Bool :=
  let x := s.session p n
  if !(s.host p).link ∨ s.board.haltedByClock then (s, false)
  else if !(packetOk s p false h.net) ∨ h.ver ≠ 1 ∨ ¬ h.typeOk ∨ ¬ sessionTakes s p n h then (dropAt s p, false)
  else if !h.tagOk then (authFailAt s p, false)
  else if !(freshCtr s h) then (dropAt s p, false)
  else
    let s1 := seeCtr s h
    let y := { x.acked_ h with ce := x.ce + (if h.net.marked then 1 else 0) }
    match y.rx.take h.seqNo c s.timeNs (Config.rtt (p * 64 + n)) with
    | .old rx => (sessionPump (sessionAckDue (s1.setSession p n { y with rx := rx }) p n) p n, false)
    | .early rx nack =>
      let s2 := s1.setSession p n { y with rx := rx }
      (sessionPump (sessionAckDue (match nack with | some (b, m) => queueSession s2 p n (.linkNack b m) | none => s2) p n) p n, false)
    | .deliver rx => (sessionPump (sessionAckDue (s1.setSession p n { y with rx := rx }) p n) p n, true)

/-- Receives a sealed frame, the command `c` that carries it: R340 steps 1 to 4 and the numbering. -/
def receive (h : FrameHdr) (c : Instr) (s : State) : State × Bool :=
  match h.via with
  | .race r => receiveRace r h c s
  | .host p n => receiveHost p n h c s
  | .fabric => (s, !s.board.haltedByClock)

/-- The next frame that the receive buffer of a carrier releases (R342, R345, R366). -/
def takeKept (via : Carrier) (s : State) : Option (Instr × State) :=
  match via with
  | .race r =>
    let x := s.race r
    if x.state = .attested then
      (x.rx.next).map (fun y => (y.1, s.setRace r { x with rx := y.2, slotsFreed := x.slotsFreed + (slotOf y.1).toNat }))
    else none
  | .host p n =>
    let x := s.session p n
    if x.state = .openS then (x.rx.next).map (fun y => (y.1, s.setSession p n { x with rx := y.2 })) else none
  | .fabric => none

/-! ### Paths of Flumes -/

/-- Sets a Flume's state, logged and journaled (R371, R401). -/
def setFlumeState (s : State) (f : Nat) (st : FlumeState) : State :=
  if (s.flume f).state = st then s
  else journalFlume (logEvent (s.updFlume f (fun x => { x with state := st })) evFlumeState scFlume f [flumeCode st]) f

/-- A micro-batch that a path carried only in part is abandoned: its reservation stands (R263, R264). -/
def abandonRx (s : State) (f : Nat) : State :=
  s.updFlume f (fun x => match x.rx with | some v => if v.whole then x else { x with rx := none } | none => x)

/-- The recalls of an inbound Flume that no retransmission has answered go out again, and the close that was asked for (R264, R271, R393). -/
def resendAsks (f : Nat) (s : State) : State :=
  let x := s.flume f
  let s1 := (s.pool.filter (fun e => e.2.flume == f && e.2.recalled)).foldl (fun s e =>
    sendFlume s f (.receipt f x.far e.2.seq e.2.step 3)) s
  match x.closeAsked with
  | some forced => sendFlume s1 f (.close f x.far forced (x.nextGrant - 1) 0)
  | none => s1

/-- What a Flume sends again on a new path: every item without a receipt, naming the same grants, or its unused grants and what it has asked
for (R264). -/
def resendFlume (f : Nat) (s : State) : State :=
  let x := s.flume f
  if x.inbound then resendAsks f ((x.issued.map (·.1)).foldl (fun s no => sendFlume s f (.grant f x.far no)) s)
  else pump f (s.setFlume f { x with tx := x.tx.map (fun t => { t with sent := false }) })

/-- The open offer of an end (R270). -/
def offerFrame (s : State) (f : Nat) : Frame :=
  let x := s.flume f
  .openF f x.far x.inbound (x.len / 4096)

end Sys2Proof.Machine
end

