-- ==== Sys2Proof/Machine/Galley.lean ====
section
/-!
DEFINITION. The Galley: bucket descriptors, the fixed tree, block-scaled conversion, the schedules of a round, chunks with their credits and
acknowledgements, and the decision of a round (spec/11, R295 to R324; R389, R390).
-/

namespace Sys2Proof.Machine

/-! ### Bucket descriptors (R297, R298) -/

def linkOfBits (v : Nat) : RLink := { valid := decide (v / 2 ^ 20 % 2 = 1), inn := v / 1024 % 1024, out := v % 1024 }

/-- The fields of a bucket descriptor. -/
def bdescOf (w : List W64) : BDesc :=
  { contribBase := wfld w 0 0 48, contribStride := wfld w 1 0 48, qmask := w.getD 3 0 ++ w.getD 2 0, resultBase := wfld w 4 0 48
    scaleBase := wfld w 5 0 48, statusBase := wfld w 6 0 48, scaleSched := BitVec.ofNat 2 (wfld w 6 48 2), rank := wfld w 7 52 12
    p := wfld w 7 40 12, formes := wfld w 7 35 5, fp64Dst := decide (wfld w 7 34 1 = 1), fp64Src := decide (wfld w 7 33 1 = 1)
    elems := wfld w 7 0 32, link0 := linkOfBits (wfld w 8 0 21), link1 := linkOfBits (wfld w 8 21 21)
    link2 := linkOfBits (wfld w 8 42 21) }

def BDesc.links (d : BDesc) : List RLink := [d.link0, d.link1, d.link2]

/-- Reserved bits of a descriptor are 0 (R297). -/
def bdescReserved (w : List W64) : Bool :=
  wfld w 0 48 16 == 0 && wfld w 1 48 16 == 0 && wfld w 4 48 16 == 0 && wfld w 5 48 16 == 0 && wfld w 6 50 14 == 0 && wfld w 7 32 1 == 0
    && wfld w 8 63 1 == 0 && (List.range 7).all (fun i => w.getD (9 + i) 0 == 0)

/-- The links that a schedule uses at a rank: 0 ring, 1 bidirectional ring, 2 tree (R311). -/
def neededLinks (sched rank p : Nat) : List Nat :=
  if p ≤ 1 then []
  else if sched = 2 then
    (if rank > 0 then [0] else []) ++ (if 2 * rank + 1 < p then [1] else []) ++ (if 2 * rank + 2 < p then [2] else [])
  else [0, 1]

/-- A Flume that a link may name: the context's own, OPEN or BROKEN (R298). -/
def linkFlumeOk (s : State) (c f : Nat) : Bool :=
  let x := s.flume f
  x.owner == c && (x.state == .openF || x.state == .broken)

def linkOk (s : State) (c : Nat) (l : RLink) : Bool := l.valid && linkFlumeOk s c l.inn && linkFlumeOk s c l.out

/-- Whether a descriptor is well formed for the schedules that its instruction names (R298). -/
def bdescOk (s : State) (c : Nat) (w : List W64) (scheds : List Nat) : Bool :=
  let d := bdescOf w
  bdescReserved w && d.scaleSched != 3 && decide (1 ≤ d.p ∧ d.p ≤ 4095) && decide (1 ≤ d.formes ∧ d.formes ≤ 16)
    && decide (1 ≤ d.elems ∧ d.elems ≤ 2 ^ 31) && decide (d.rank < d.p) && d.qmask != 0 && d.contribBase % 64 == 0
    && d.contribStride % 64 == 0 && d.resultBase % 64 == 0 && d.scaleBase % 64 == 0 && d.statusBase % 64 == 0
    && scheds.all (fun sc => (neededLinks sc d.rank d.p).all (fun l => linkOk s c (d.links.getD l {})))
    && !(scheds.contains 1 && d.formes == 1)

/-- Blocks of a bucket (R302). -/
def BDesc.nb (d : BDesc) : Nat := (d.elems + 255) / 256

/-- ceil(log2 P) (R306, R313). -/
def clog2 (p : Nat) : Nat := if p ≤ 1 then 0 else Nat.log2 (p - 1) + 1

/-! ### The fixed tree and the conversion (R300 to R304) -/

/-- A binary tree over logical Quern numbers: an absent operand passes the other (R300). -/
def treeSum (add : Val → Val → Val) (leaf : Nat → Option Val) : Nat → Nat → Option Val
  | 0, i => leaf i
  | n + 1, i =>
    match treeSum add leaf n (2 * i), treeSum add leaf n (2 * i + 1) with
    | some a, some b => some (add a b)
    | some a, none => some a
    | none, b => b

def lowestBit (m : BitVec 128) : Nat := ((List.range 128).find? (fun q => m.getLsbD q)).getD 0

def BDesc.elemBytes (d : BDesc) : Nat := if d.fp64Src then 8 else 4

/-- Where the contribution of a Quern begins (R300). -/
def BDesc.contribAt (d : BDesc) (q : Nat) : Nat := d.contribBase + (q - lowestBit d.qmask) * d.contribStride

/-- The contribution of a Quern to element i. -/
def BDesc.contrib (d : BDesc) (s : State) (q i : Nat) : Val :=
  let n := readNat s (d.contribAt q + i * d.elemBytes) d.elemBytes
  if d.fp64Src then dec64 (BitVec.ofNat 64 n) else dec32 (BitVec.ofNat 32 n)

/-- The tree sum of element i; an element beyond ELEMS is zero (R300, R302). -/
def BDesc.treeAt (d : BDesc) (s : State) (i : Nat) : Val :=
  if i < d.elems then
    let add (a b : Val) : Val := if d.fp64Src then (add64 a b).1 else (add32 a b).1
    (treeSum add (fun q => if d.qmask.getLsbD q then some (d.contrib s q i) else none) 7 0).getD valZero
  else valZero

/-- Why the contributions cannot be read. -/
def BDesc.contribErr (d : BDesc) (s : State) : Option AccErr :=
  let es := ((List.range 128).filter (fun q => d.qmask.getLsbD q)).map (fun q => rangeErr (readErr s) (d.contribAt q) (d.elems * d.elemBytes))
  if es.contains (some .addr) then some .addr else if es.contains (some .data) then some .data else none

/-- The bit length of a number, at most 127 (R304). -/
def bitLen (n : Nat) : Nat := if n = 0 then 0 else min 127 (Nat.log2 n + 1)

/-- RNE(t × 2^−E) as an exact integer (R304). -/
def gridInt (neg : Bool) (m : Nat) (e E : Int) : Int :=
  let q : Int := (roundAt .rne neg m e false E 0).1
  if neg then -q else q

/-- Adds one tree sum to a block's line and header (R304). -/
def convertSum (E : Int) (h : BlkHdr) : Val → W64 × BlkHdr
  | .fin neg m e =>
    if m = 0 then (0, h)
    else
      let v := gridInt neg m e E
      (if -2 ^ 63 ≤ v ∧ v < 2 ^ 63 then BitVec.ofInt 64 v else 0,
        { h with bmax := max h.bmax (bitLen v.natAbs), emax := max h.emax (log2Scaled m e) })
  | _ => (0, { h with nf := true })

/-- A block as this member converts it (R302 to R304). -/
def BDesc.convertBlock (d : BDesc) (s : State) (E : Int) (b : Nat) : RedUnit :=
  (List.range 256).foldl (fun u i =>
    let (w, h) := convertSum E u.hdr (d.treeAt s (256 * b + i))
    { u with hdr := h, lines := u.lines ++ [w] }) { hdr := { e := E } }

/-- EMAX of a block at this member; −32,768 where it holds no finite non-zero sum (R303, R306). -/
def BDesc.blockEmax (d : BDesc) (s : State) (b : Nat) : Int :=
  if b < d.nb then
    (List.range 256).foldl (fun m i =>
      match d.treeAt s (256 * b + i) with
      | .fin _ mm e => if mm = 0 then m else max m (log2Scaled mm e)
      | _ => m) (-32768)
  else -32768

/-- Four exponents in a line (R306). -/
def packExps (l : List Int) : W64 :=
  BitVec.ofNat 64 (((l.take 4).zip (List.range 4)).foldl (fun a p => a + (p.1 % 65536).toNat * 65536 ^ p.2) 0)

/-- Exponent j of a list of lines. -/
def expAt (ls : List W64) (j : Nat) : Int := ((ls.getD (j / 4) 0).extractLsb' (j % 4 * 16) 16).toInt

/-- The scale unit u at this member: 1,024 exponents, fewer lines in the last (R306, R338). -/
def BDesc.scaleUnit (d : BDesc) (s : State) (u : Nat) : RedUnit :=
  let n := min 1024 (d.nb - 1024 * u)
  { lines := (List.range ((n + 3) / 4)).map (fun l => packExps ((List.range 4).map (fun k => d.blockEmax s (1024 * u + 4 * l + k)))) }

/-- The block header as its word (R303). -/
def BlkHdr.word (h : BlkHdr) : W64 :=
  BitVec.ofNat 64 ((h.e % 65536).toNat * 2 ^ 48 + (h.emax % 65536).toNat * 2 ^ 32 + h.bmax % 128 * 2 ^ 25 + h.ovb % 16 * 2 ^ 21
    + h.ovf.toNat * 2 ^ 20 + h.nf.toNat * 2 ^ 19 + h.rep.toNat * 2 ^ 18 + h.rgn % 4 * 2 ^ 16)

def blkHdrOf (w : W64) : BlkHdr :=
  { e := (w.extractLsb' 48 16).toInt, emax := (w.extractLsb' 32 16).toInt, bmax := (w.extractLsb' 25 7).toNat, ovb := (w.extractLsb' 21 4).toNat
    ovf := w.getLsbD 20, nf := w.getLsbD 19, rep := w.getLsbD 18, rgn := (w.extractLsb' 16 2).toNat }

/-- Headers combine: maximum of EMAX and BMAX, OR of NF and REPEAT (R313). -/
def BlkHdr.join (a b : BlkHdr) : BlkHdr :=
  { a with emax := max a.emax b.emax, bmax := max a.bmax b.bmax, nf := a.nf || b.nf, rep := a.rep || b.rep }

/-- Lines combine: addition modulo 2^64 in a data round, the maximum of each exponent in a scale round (R306, R310). -/
def joinLines (scale : Bool) (a b : List W64) : List W64 :=
  (a.zip b).map (fun p =>
    if scale then packExps ((List.range 4).map (fun k => max (expAt [p.1] k) (expAt [p.2] k))) else p.1 + p.2)

/-- The decision of a block: OVF and OVB (R313). -/
def BlkHdr.decide_ (h : BlkHdr) (p : Nat) : BlkHdr := { h with ovf := decide (h.bmax + clog2 p > 63), ovb := min (h.bmax + clog2 p - 63) 15 }

/-- The scales that a list of EMAX gives (R306): the block's own, or for a block without a finite non-zero value the largest of the
others, or 0. -/
def scalesOf (p : Nat) (emax : List Int) : List Int :=
  let clamp (x : Int) : Int := max (-32767) (min 32767 x)
  let own := (emax.filter (· != -32768)).map (fun m => clamp (m - 61 + clog2 p))
  let top := own.foldl (fun (m : Option Int) x => some (match m with | some y => max x y | none => x)) none
  emax.map (fun m => if m = -32768 then top.getD 0 else clamp (m - 61 + clog2 p))

/-! ### Schedules (R311) -/

/-- A ring in one direction: OUT and IN link, rank, first unit and number of units. The ring over predecessors counts ranks the other
way round. -/
structure Lane where
  out : Nat
  inn : Nat
  rank : Nat
  base : Nat
  n : Nat
  deriving DecidableEq, Repr

def lanesOf (sched rank p nu : Nat) : List Lane :=
  if p ≤ 1 ∨ sched = 2 then []
  else if sched = 0 then [⟨0, 1, rank, 0, nu⟩]
  else [⟨0, 1, rank, 0, (nu + 1) / 2⟩, ⟨1, 0, (p - rank) % p, (nu + 1) / 2, nu / 2⟩]

/-- The segment of a unit in its lane. -/
def Lane.seg (l : Lane) (p u : Nat) : Nat :=
  let j := ((u - l.base + 1) * p - 1) / l.n
  if l.out = 1 then (p - j) % p else j

/-- The SCHED of the round that runs. -/
def Bucket.sched (b : Bucket) : Nat :=
  match b.phase, b.kind with
  | .scale, _ => b.desc.scaleSched.toNat
  | _, .bred sc => sc.toNat
  | _, .bscale _ _ => b.desc.scaleSched.toNat

def Bucket.isScale (b : Bucket) : Bool := b.phase == .scale

/-- The units of the round that runs. -/
def Bucket.nu (b : Bucket) : Nat := if b.isScale then (b.desc.nb + 1023) / 1024 else b.desc.nb

def Bucket.lane (b : Bucket) (u : Nat) : Option Lane :=
  (lanesOf b.sched b.desc.rank b.desc.p b.nu).find? (fun l => decide (l.base ≤ u) && decide (u < l.base + l.n))

def Bucket.children (b : Bucket) : List Nat := (neededLinks 2 b.desc.rank b.desc.p).filter (· != 0)

/-- Where a unit comes in: (link, HOP), a reduce before a gather. -/
def Bucket.ins (b : Bucket) (u : Nat) : List (Nat × Nat) :=
  let p := b.desc.p
  if p ≤ 1 then []
  else if b.sched = 2 then b.children.map (fun l => (l, 0)) ++ (if b.desc.rank > 0 then [(0, 0)] else [])
  else
    match b.lane u with
    | none => []
    | some l =>
      let j := l.seg p u
      let k := (l.rank + 2 * p - 1 - j) % p
      let m := (l.rank + p - j) % p
      (if k ≤ p - 2 then [(l.inn, k)] else []) ++ (if m ≤ p - 2 then [(l.inn, p - 1 + m)] else [])

/-- Where a unit goes out: (link, HOP). -/
def Bucket.outs (b : Bucket) (u : Nat) : List (Nat × Nat) :=
  let p := b.desc.p
  if p ≤ 1 then []
  else if b.sched = 2 then (if b.desc.rank > 0 then [(0, 0)] else []) ++ b.children.map (fun l => (l, 0))
  else
    match b.lane u with
    | none => []
    | some l =>
      let j := l.seg p u
      let k := (l.rank + p - j) % p
      let m := (l.rank + p + 1 - j) % p
      (if k ≤ p - 2 then [(l.out, k)] else []) ++ (if m ≤ p - 2 then [(l.out, p - 1 + m)] else [])

/-- Whether a chunk on (link, HOP) of an arriving or leaving unit carries decided sums. -/
def Bucket.gathers (b : Bucket) (arriving : Bool) (link hop : Nat) : Bool :=
  if b.sched = 2 then (if arriving then link == 0 else link != 0) else decide (b.desc.p - 1 ≤ hop)

/-- PHASE of a frame (R338). -/
def Bucket.phaseCode (b : Bucket) (gather : Bool) : Nat := if b.isScale then 0 else if gather then 2 else 1

/-- The units of a chunk that arrive on a link at a hop. -/
def Bucket.chunkIn (b : Bucket) (c : ChunkId) : List Nat :=
  ((List.range 8).map (fun i => 8 * c.2.2 + i)).filter (fun u => decide (u < b.nu) && (b.ins u).contains (c.1, c.2.1))

/-- The units of a chunk that leave on a link at a hop. -/
def Bucket.chunkOut (b : Bucket) (c : ChunkId) : List Nat :=
  ((List.range 8).map (fun i => 8 * c.2.2 + i)).filter (fun u => decide (u < b.nu) && (b.outs u).contains (c.1, c.2.1))

/-- The chunks that arrive on a link in a round. -/
def Bucket.linkChunks (b : Bucket) (link : Nat) : List ChunkId :=
  ((List.range b.nu).flatMap (fun u => ((b.ins u).filter (fun x => x.1 == link)).map (fun x => (link, x.2, u / 8)))).eraseDups

/-- Whether a chunk is wholly in. -/
def Bucket.wholeIn (b : Bucket) (c : ChunkId) : Bool := (b.chunkIn c).all (fun u => b.seen.contains (c.1, c.2.1, u))

/-- The chunks that this member makes from an arrived chunk: its Forme is free once they are acknowledged. -/
def Bucket.derived (b : Bucket) (c : ChunkId) : List ChunkId :=
  if b.sched = 2 then
    if c.1 ≠ 0 ∧ b.desc.rank > 0 then [(0, 0, c.2.2)] else b.children.map (fun l => (l, 0, c.2.2))
  else
    match (b.chunkIn c).head?.bind b.lane with
    | some l => if c.2.1 + 1 ≤ 2 * b.desc.p - 3 then [(l.out, c.2.1 + 1, c.2.2)] else []
    | none => []

/-! ### Access to buckets -/

def State.bucket? (s : State) (bid : Nat) : Option Bucket := s.galley.buckets.find? (fun b => b.bid == bid)

def State.setBucket (s : State) (b : Bucket) : State :=
  { s with galley := { s.galley with buckets := s.galley.buckets.map (fun x => if x.bid = b.bid then b else x) } }

def State.updBucket (s : State) (bid : Nat) (f : Bucket → Bucket) : State :=
  match s.bucket? bid with
  | some b => s.setBucket (f b)
  | none => s

/-- A bucket ends: its Formes are free (R308). -/
def dropBucket (s : State) (bid : Nat) : State :=
  { s with galley := { s.galley with buckets := s.galley.buckets.filter (fun b => b.bid != bid) } }

/-- Buckets in progress: their Formes are taken and they have not ended. -/
def Bucket.active (b : Bucket) : Bool := b.phase != .waiting && !b.ended

/-! ### Sending chunks (R310, R312) -/

/-- The identifiers of a frame. -/
def Bucket.redId (b : Bucket) (gather : Bool) (hop chunk blk : Nat) : RedId :=
  { round := BitVec.ofNat 8 b.round, sched := BitVec.ofNat 2 b.sched, phase := BitVec.ofNat 2 (b.phaseCode gather)
    btag := BitVec.ofNat 12 b.btag, step := BitVec.ofNat 32 b.step, blk := BitVec.ofNat 3 blk, chunk := BitVec.ofNat 21 chunk
    hop := BitVec.ofNat 13 hop }

def Bucket.outFlume (b : Bucket) (link : Nat) : Nat := (b.desc.links.getD link {}).out

/-- A unit leaves on a link; word 0 of a scale frame's prefix is zero (R338), so a REPEAT of a scale round stays with the member that lost the
line (assumption 120). -/
def emitUnit (b : Bucket) (link hop u : Nat) (s : State) : State :=
  let f := b.outFlume link
  let v := b.units.getD u {}
  let h : W64 := if b.isScale then 0 else v.hdr.word
  sendFlume s f (.red f (s.flume f).far (b.redId (b.gathers false link hop) hop (u / 8) (u % 8)) h b.desc.p b.desc.nb v.lines)

/-- Sends what the queue holds in order: the first unit of a chunk takes a credit, and a unit that finds none holds back those behind it
on its link. -/
def sendQueue (s : State) (b : Bucket) : List RedSend → List Nat → State × Bucket
  | [], _ => (s, b)
  | x :: t, blocked =>
    let ch : ChunkId := (x.link, x.hop, x.unit / 8)
    if blocked.contains x.link then sendQueue s { b with outq := b.outq ++ [x] } t blocked
    else if b.unacked.contains ch then sendQueue (emitUnit b x.link x.hop x.unit s) b t blocked
    else if b.credits.getD x.link 0 > 0 then
      sendQueue (emitUnit b x.link x.hop x.unit s)
        { b with credits := b.credits.set x.link (b.credits.getD x.link 0 - 1), unacked := b.unacked ++ [ch] } t blocked
    else sendQueue s { b with outq := b.outq ++ [x] } t (x.link :: blocked)

/-- A bucket sends what it may. -/
def pumpRed (bid : Nat) (s : State) : State :=
  match s.bucket? bid with
  | some b =>
    let (s1, b1) := sendQueue s { b with outq := [] } b.outq []
    s1.setBucket b1
  | none => s

/-- An acknowledgement or a credit leaves on a link. -/
def sendAck (s : State) (out : Nat) (id : RedId) (credit : Bool) (n : Nat) : State :=
  sendFlume s out (.redack out (s.flume out).far id credit n)

/-- Credits Formes to the neighbour of a link, no more than the chunks that it has still to begin (R310). -/
def giveCredit (link hop chunk n : Nat) (sb : State × Bucket) : State × Bucket :=
  let (s, b) := sb
  let left := ((b.linkChunks link).filter (fun c => !(b.opened.contains c))).length
  let n := min n (left - b.given.getD link 0)
  if n = 0 then (s, b)
  else
    (sendAck s (b.outFlume link) (b.redId false hop chunk 0) true n,
      { b with given := b.given.upd link 0 (· + n), givenLog := b.givenLog ++ [((link, hop, chunk), n)] })

/-- The HOP of the credit that opens a round: no hop of a schedule reaches it. -/
def firstCredit : Nat := 8191

/-- The Formes that a member credits to each neighbour when a round begins (R310, R311). In a tree a Forme serves one chunk at a time: the
children's chunks of one number are added into one Forme, which takes the decided chunk from the parent after the sum has been sent up
(assumption 121). -/
def Bucket.firstCredits (b : Bucket) : List (Nat × Nat) :=
  let n := b.formes.length
  if b.desc.p ≤ 1 then []
  else if b.sched = 2 then (if b.children.isEmpty then [(0, n)] else b.children.map (fun l => (l, n)))
  else if b.sched = 0 then [(1, n)]
  else if n = 1 then [(if b.secondHalf then 0 else 1, 1)]
  else [(1, (n + 1) / 2), (0, n / 2)]

/-- The neighbours that a Forme is credited to when the chunks made from an arrived chunk are acknowledged (R310): the one that sent it; in a
tree the parent after a chunk went up, and the children after one went down. -/
def Bucket.creditsAfter (b : Bucket) (c : ChunkId) : List Nat :=
  if b.sched ≠ 2 then [c.1]
  else if c.1 = 0 then (if b.children.isEmpty then [0] else b.children)
  else if b.desc.rank = 0 then [c.1]
  else if b.children.head? = some c.1 then [0]
  else []

/-- The sends with which a round, or the second half of a bidirectional ring on one Forme, begins. -/
def Bucket.firstSends (b : Bucket) : List RedSend :=
  if b.desc.p ≤ 1 then []
  else if b.sched = 2 then (if b.children.isEmpty then (List.range b.nu).map (fun u => ⟨0, 0, u⟩) else [])
  else
    (List.range b.nu).filterMap (fun u =>
      match b.lane u with
      | some l =>
        if l.seg b.desc.p u = l.rank ∧ (b.sched = 0 ∨ b.formes.length ≠ 1 ∨ (l.out = 1 ↔ b.secondHalf)) then some ⟨l.out, 0, u⟩ else none
      | none => none)

/-- Credits that came early and are for the round that begins (R310). -/
def takeEarly (s : State) (b : Bucket) : State × Bucket :=
  let mine (x : EarlyCredit) : Bool :=
    x.id.btag.toNat == b.btag && x.id.step.toNat == b.step && x.id.round == BitVec.ofNat 8 b.round && (x.id.phase == 0) == b.isScale
  let b1 := (s.galley.early.filter mine).foldl (fun b x =>
    match (List.range 3).find? (fun l => (b.desc.links.getD l {}).valid && (s.flume (b.desc.links.getD l {}).inn).far == x.flume
        && !(b.creditSeen.contains (l, x.id.hop.toNat, x.id.chunk.toNat))) with
    | some l => { b with credits := b.credits.upd l 0 (· + x.formes), creditSeen := b.creditSeen ++ [(l, x.id.hop.toNat, x.id.chunk.toNat)] }
    | none => b) b
  ({ s with galley := { s.galley with early := s.galley.early.filter (fun x => !(mine x)) } }, b1)

/-! ### Rounds -/

/-- RGN of the round that runs: the Regrinds before it, 3 behind a scale round that followed two (R303, R314). -/
def Bucket.rgn (b : Bucket) : Nat := if b.rescaled then 3 else b.regrinds

/-- A block as it travels: converted by this member, with RGN of the round (R303). -/
def Bucket.ownBlock (b : Bucket) (s : State) (u : Nat) : RedUnit :=
  let v := b.desc.convertBlock s (b.e.getD u 0) u
  { v with hdr := { v.hdr with rgn := b.rgn } }

/-- The units of a round as this member converts them (R301, R304, R306). -/
def Bucket.ownUnits (b : Bucket) (s : State) : Tbl RedUnit :=
  (List.range b.nu).map (fun u => (u, if b.isScale then b.desc.scaleUnit s u else b.ownBlock s u))

/-- A unit is decided (R313). -/
def Bucket.decideUnit (b : Bucket) (u : Nat) : Bucket :=
  { b with units := b.units.upd u {} (fun v => { v with decided := true, hdr := if b.isScale then v.hdr else v.hdr.decide_ b.desc.p }) }

/-- Starts the round that the bucket stands at: the contributions are read, the first chunks and credits go out; with P = 1 every unit
is decided (R301, R308 to R311). -/
def startRound (b : Bucket) (s : State) : Except AccErr State :=
  match b.desc.contribErr s with
  | some e => .error e
  | none =>
    let b1 := { b with units := b.ownUnits s, seen := [], credits := [], creditSeen := [], given := [], givenLog := [], opened := [],
                       unacked := [], holding := [], secondHalf := false, outq := [] }
    if b.desc.p ≤ 1 then .ok (s.setBucket ((List.range b1.nu).foldl Bucket.decideUnit b1))
    else
      let (s2, b2) := takeEarly s { b1 with outq := b1.firstSends }
      let (s3, b3) := b2.firstCredits.foldl (fun x p => giveCredit p.1 firstCredit 0 p.2 x) (s2, b2)
      .ok (pumpRed b.bid (s3.setBucket b3))

/-- The scale array of a bucket, or why it cannot be read (R305). -/
def readScales (d : BDesc) (s : State) : Except AccErr (List Int) :=
  match rangeErr (readErr s) d.scaleBase (2 * d.nb) with
  | some e => .error e
  | none => .ok ((List.range d.nb).map (fun b => (BitVec.ofNat 16 (readNat s (d.scaleBase + 2 * b) 2)).toInt))

/-- The bytes of a scale array. -/
def scaleBytes (d : BDesc) (e : List Int) : List (Nat × W8) := cellsAt d.scaleBase (e.flatMap (fun x => leBytes 2 (x % 65536).toNat))

/-- The ranges that a reduction reads and writes (R297). -/
def BDesc.accesses (d : BDesc) : List (Nat × Nat) :=
  ((List.range 128).filter (fun q => d.qmask.getLsbD q)).map (fun q => (d.contribAt q, d.elems * d.elemBytes))
    ++ [(d.scaleBase, 2 * d.nb), (d.resultBase, d.elems * (if d.fp64Dst then 8 else 4)), (d.statusBase, 8 * d.nb)]

/-- The failing access of a reduction: an address error stops the context and ends the bucket here; lost or unreadable data halts the
context, and the reduction stays (R25, R239, R389). -/
def redFails (b : Bucket) (e : AccErr) (s : State) : State :=
  match e with
  | .addr => addressError (dropBucket s b.bid) b.ctx
  | .data => haltData s b.ctx (b.desc.accesses.flatMap (fun r => (List.range r.2).map (r.1 + ·)))

/-! ### The end of a reduction (R142, R308, R317, R390) -/

/-- The end of a reduction, once the twin holds its arrays: its Formes are free and it signals (R308, R401). -/
def redSignal (c bid : Nat) (s : State) : State :=
  let x := s.ctx c
  match x.pends.find? (fun p => p.what == .red bid) with
  | some p => hold (s.setCtx c { x with pends := x.pends.filter (fun y => !(y.what == .red bid)) }) (.redEnd bid c p.no p.idx p.sen p.stok)
  | none => hold s (.redEnd bid c 0 0 false 0)

/-- A reduction ends: it counts as completed in its step, which may become final, and signals; a BSCALE's scale round is recorded (R142, R299,
R308, R312). -/
def finishRed (b : Bucket) (nf : Bool) (s : State) : State :=
  let s0 := (flushUnits s).updBucket b.bid (fun x => { x with ended := true })
  let s1 := match b.kind, b.phase with
    | .bscale _ _, .scale => { s0 with galley := { s0.galley with scaled := s0.galley.scaled.set b.btag (b.step, b.round) } }
    | _, _ => s0
  let s2 := s1.updCtx b.ctx (fun x => x.setStep b.step { x.step b.step with done := (x.step b.step).done + 1, nonfinite := (x.step b.step).nonfinite || nf })
  let was := ((s2.ctx b.ctx).step b.step).final
  let s3 := finalizeIfDone s2 b.ctx b.step
  let s4 := if ((s3.ctx b.ctx).step b.step).final && !was then journalStep s3 b.ctx b.step [] else s3
  redSignal b.ctx b.bid s4

/-- OR of NF over a status array (R390). -/
def statusNf (d : BDesc) (s : State) : Bool := (List.range d.nb).any (fun b => (blkHdrOf (BitVec.ofNat 64 (readNat s (d.statusBase + 8 * b) 8))).nf)

/-! ### Taking Formes (R296, R308) -/

def busyFormes (s : State) (c : Nat) : Nat := ((s.galley.buckets.filter (fun b => b.ctx == c)).map (·.formes.length)).sum

/-- Formes in service that no reduction holds; one with two lost lines is taken no more (R316). -/
def freeFormes (s : State) : List Nat :=
  (List.range 16).filter (fun f => !(s.galley.disabled.contains f) && decide (s.galley.lost.getD f 0 < 2) && !(s.galley.buckets.any (fun b => b.formes.contains f)))

/-- A reduction that holds its Formes begins: a scale round, or a data round with the array's scales, or with an 0x8000 entry a forced scale
round first (R305, R307). A round whose contributions cannot be read yet has begun: its retry counts nothing again. -/
def beginRed (b : Bucket) (s : State) : State :=
  let count (s : State) : State := { s with galley := { s.galley with forcedScale := satAdd s.galley.forcedScale 1 65535 } }
  let go (b : Bucket) (s : State) : State :=
    match startRound b (s.setBucket b) with
    | .ok s1 => s1
    | .error e => redFails b e (s.setBucket b)
  match b.kind with
  | .bscale carried _ => go { b with phase := .scale } (if carried then count s else s)
  | .bred _ =>
    match readScales b.desc s with
    | .error e => redFails b e s
    | .ok l => if l.contains (-32768) then go { b with phase := .scale } (count s) else go { b with phase := .data, e := l } s

/-- A carried scale: H is added to every entry, clamped to 32,767; none when an entry is 0x8000 (R307). -/
def carryScale (b : Bucket) (h : Nat) (s : State) : Option State :=
  match readScales b.desc s with
  | .error e => some (redFails b e s)
  | .ok l =>
    if l.contains (-32768) then none
    else
      match writeMem s (scaleBytes b.desc (l.map (fun x => min 32767 (x + h)))) with
      | (s1, none) => some (finishRed b false s1)
      | (_, some .addr) => some (redFails b .addr s)
      | (s1, some .data) => some (redFails b .data s1)

/-- Tries to begin one waiting reduction; true when it leaves those behind it waiting for Formes (R308, R390). -/
def tryBegin (bid : Nat) (sb : State × Bool) : State × Bool :=
  let (s, blocked) := sb
  match s.bucket? bid with
  | none => (s, blocked)
  | some b =>
    if b.phase ≠ .waiting ∨ b.ended then (s, blocked)
    else if (match (s.ctx b.ctx).completed.find? b.btag with | some t => decide (b.step ≤ t) | none => false) then
      (finishRed b (match b.kind with | .bred _ => statusNf b.desc s | .bscale _ _ => false) s, blocked)
    else if s.galley.buckets.any (fun x => x.ctx == b.ctx && x.btag == b.btag && decide (x.bid < bid)) then (s, true)
    else
      let carried := match b.kind with | .bscale true h => carryScale b h s | _ => none
      match carried with
      | some s1 => (s1, blocked)
      | none =>
        let n := min b.desc.formes (s.ctx b.ctx).quota
        if blocked ∨ b.held ∨ n = 0 ∨ (s.ctx b.ctx).quota < busyFormes s b.ctx + n ∨ (freeFormes s).length < n then (s, true)
        else
          let b1 := { b with formes := (freeFormes s).take n }
          (beginRed b1 (s.setBucket b1), blocked)

/-- A round whose contributions could not be read is tried again. -/
def retryRound (bid : Nat) (s : State) : State :=
  match s.bucket? bid with
  | some b =>
    if b.ended then s
    else if (b.phase = .scale ∨ b.phase = .data) ∧ b.units.isEmpty then
      match startRound b s with | .ok s1 => s1 | .error e => redFails b e s
    else if b.phase = .waiting ∧ ¬ b.formes.isEmpty then beginRed b s
    else s
  | none => s

/-- The reductions of a context that may begin now begin, in issue order. -/
def wakeReds (c : Nat) (s : State) : State :=
  let ids (s : State) : List Nat := ((s.galley.buckets.filter (fun b => b.ctx == c)).map (·.bid))
  let s1 := (ids s).foldl (fun s b => retryRound b s) s
  ((ids s1).foldl (fun x b => tryBegin b x) (s1, false)).1

/-! ### BSCALE and BRED (R209, R211, R297 to R299, R305 to R309) -/

/-- Issues a reduction: counted in the step that RSTEP holds, with its descriptor read now (R299, R319, R401). -/
def issueRed (c : Nat) (i : Issue) (kind : RedKind) (lastred : Bool) (w : List W64) (s : State) : State :=
  let x := s.ctx c
  let n := x.rstep
  let b : Bucket := { bid := s.galley.nextBid, ctx := c, btag := fld i 0 12, step := n, idx := x.seqr.pos, kind := kind, desc := bdescOf w,
                      held := true }
  let x1 := x.setStep n { x.step n with issued := (x.step n).issued + 1, lastIssued := (x.step n).lastIssued || lastred }
  let s1 := s.setCtx c (if lastred then { x1 with rstep := n + 1 } else x1)
  let s2 := { s1 with galley := { s1.galley with
    nextBid := s1.galley.nextBid + 1, buckets := s1.galley.buckets ++ [b], links := s1.galley.links.set b.btag b.desc.links } }
  hold (journalStep s2 c n [b.btag, 0, n]) (.redStart b.bid)

/-- What BSCALE and BRED share. -/
def issueBody (c : Nat) (i : Issue) (scheds : Nat → List Nat) (kind : RedKind) (lastred : Bool) (s : State) : Except Nat (State × SigWhen) := do
  let a := xfld i 0 48
  let x := s.ctx c
  need (decide (x.tagBase ≤ fld i 0 12) && decide (fld i 0 12 < x.tagBase + x.tagCount) && a % 64 == 0) 0x65
  match (if a + 128 > 2 ^ 39 then some .addr else rangeErr (readErr s) a 128) with
  | some .addr => .ok (addressError s c, .never)
  | some .data => .ok (haltData s c ((List.range 128).map (a + ·)), .never)
  | none =>
    let w := readWords s a 16
    need (bdescOk s c w (scheds (wfld w 6 48 2))) 0x65
    .ok (issueRed c i kind lastred w s, .later (.red s.galley.nextBid))

/-- A reduction that has been issued begins when it may. -/
def afterIssue (c : Nat) (s : State) : State := settle (wakeReds c s)

/-- BSCALE (R209, R211, R298, R299, R307). -/
def execBscale (c : Fin 32) (i : Issue) (s : State) : Res :=
  andThen (startStage c .bscale i false free (fun s => do
    needTop i 16
    need (xfld i 48 16 = 0) 0x20
    issueBody c i (fun sc => [sc]) (.bscale (fld i 12 1 = 1) (fld i 13 3)) false s) s) (afterIssue c)

/-- BRED (R209, R211, R298, R299, R305, R308, R311). -/
def execBred (c : Fin 32) (i : Issue) (s : State) : Res :=
  andThen (startStage c .bred i false free (fun s => do
    needTop i 15
    need (xfld i 48 16 = 0) 0x20
    need (fld i 13 2 ≠ 3) 0x22
    issueBody c i (fun sc => [sc, fld i 13 2]) (.bred (BitVec.ofNat 2 (fld i 13 2))) (fld i 12 1 = 1) s) s) (afterIssue c)

/-! ### Chunks that arrive (R310 to R312, R320) -/

/-- The links whose IN Flume a frame came on. -/
def linksOf (s : State) (ls : List RLink) (h : FrameHdr) : List Nat :=
  (List.range 3).filter (fun l =>
    let v := ls.getD l {}
    v.valid && (s.flume v.inn).far == h.flume.toNat && (h.via == .fabric || (s.flume v.inn).peer == h.member.toNat))

/-- The context that owns a bucket tag (R296). -/
def tagOwner (s : State) (btag : Nat) : Option Nat :=
  (List.find? (fun x : Nat × Ctx => x.2.state != .unloaded && decide (x.2.tagBase ≤ btag) && decide (btag < x.2.tagBase + x.2.tagCount)) s.ctxs).map (·.1)

/-- Whether this member has completed a bucket's step (R312, R390). -/
def redCompleted (s : State) (id : RedId) : Bool :=
  match tagOwner s id.btag.toNat with
  | some c => (match (s.ctx c).completed.find? id.btag.toNat with | some t => decide (id.step.toNat ≤ t) | none => false)
  | none => false

/-- The running bucket that a frame belongs to. -/
def redBucket (s : State) (id : RedId) : Option Bucket :=
  s.galley.buckets.find? (fun b => b.active && b.btag == id.btag.toNat && b.step == id.step.toNat)

/-- Whether a BSCALE of a frame's tag and step ended with the scale round that the frame is of (R312). -/
def scaledBefore (s : State) (id : RedId) : Bool :=
  id.phase == 0 && (match s.galley.scaled.find? id.btag.toNat with
    | some (n, r) => n == id.step.toNat && decide ((BitVec.ofNat 8 r - id.round).toNat < 128)
    | none => false)

/-- Whether a frame is of a round before the one that runs: of a lower ROUND, or of a scale round that this bucket, or the BSCALE before it, has
completed in the same ROUND (R307, R312). -/
def Bucket.past (b : Bucket) (before : Bool) (id : RedId) : Bool :=
  let d := (BitVec.ofNat 8 b.round - id.round).toNat
  (decide (1 ≤ d) && decide (d < 128)) || (decide (d = 0) && id.phase == 0 && !b.isScale && (before || b.scaled == some b.round))

/-- The first field in which a frame and the bucket conflict: 1 SCHED, 2 P, 3 nb, 4 ROUND, 5 PHASE (R320). -/
def Bucket.conflict (b : Bucket) (id : RedId) (p nb : Nat) (gather : Bool) : Option Nat :=
  if id.sched.toNat ≠ b.sched then some 1
  else if p ≠ b.desc.p then some 2
  else if nb ≠ b.desc.nb then some 3
  else if id.round ≠ BitVec.ofNat 8 b.round then some 4
  else if id.phase.toNat ≠ b.phaseCode gather then some 5
  else none

/-- A mismatch ends the bucket, is logged and stops the context (R320). -/
def redMismatch (b : Bucket) (field : Nat) (s : State) : State :=
  let s1 := logEvent (dropBucket s b.bid) evRedMismatch scBucket b.btag [field]
  let s2 := { s1 with galley := { s1.galley with mismatches := satAdd s1.galley.mismatches 1 65535 } }
  stopCtx s2 b.ctx 0x65 b.idx []

/-- Adds an arrived unit, or takes the decided one; the sends that follow (R310, R311, R313). A line that was lost goes on as zeros (R316). -/
def Bucket.addUnit (b : Bucket) (link hop u : Nat) (hdr : BlkHdr) (lines : List W64) (lost : Option Nat) : Bucket :=
  let keep (l : List W64) : List W64 := match lost with | some i => l.set i 0 | none => l
  let b1 := { b with seen := b.seen ++ [(link, hop, u)] }
  let next (b : Bucket) (gather : Bool) : List RedSend :=
    ((b.outs u).filter (fun o => b.gathers false o.1 o.2 == gather && (b.sched == 2 || o.2 == hop + 1))).map (fun o => ⟨o.1, o.2, u⟩)
  if b.gathers true link hop then
    let b2 := { b1 with units := b1.units.upd u {} (fun v => { v with hdr := { hdr with e := v.hdr.e }, lines := keep lines, decided := true }) }
    { b2 with outq := b2.outq ++ next b2 true }
  else
    let b2 := { b1 with units := b1.units.upd u {} (fun v =>
      { v with hdr := v.hdr.join hdr, lines := keep (joinLines b.isScale v.lines lines), got := v.got ++ [link] }) }
    let all := b.sched != 2 || b.children.all (fun l => (b2.units.getD u {}).got.contains l)
    let last := if b.sched = 2 then b.desc.rank == 0 else hop + 2 == b.desc.p
    if !all then b2
    else if last then
      let b3 := b2.decideUnit u
      { b3 with outq := b3.outq ++ next b3 true }
    else { b2 with outq := b2.outq ++ next b2 false }

/-- With one Forme, the predecessor half begins when the successor half is complete here (R311). -/
def beginSecond (sb : State × Bucket) : State × Bucket :=
  let (s, b) := sb
  if b.sched = 1 ∧ b.formes.length = 1 ∧ ¬ b.secondHalf ∧ b.unacked.isEmpty ∧ b.outq.isEmpty
      ∧ (List.range ((b.nu + 1) / 2)).all (fun u => (b.units.getD u {}).decided) then
    let b1 := { b with secondHalf := true }
    b1.firstCredits.foldl (fun x p => giveCredit p.1 firstCredit 0 p.2 x) (s, { b1 with outq := b1.firstSends })
  else sb

/-- A Forme whose chunks have been acknowledged is credited again (R310). -/
def freeHolding (sb : State × Bucket) : State × Bucket :=
  let (s, b) := sb
  let done := b.holding.filter (fun h => h.2.isEmpty)
  (done.flatMap (fun h => (b.creditsAfter h.1).map (fun l => (l, h.1)))).foldl (fun x h => giveCredit h.1 h.2.2.1 h.2.2.2 1 x) (s, { b with holding := b.holding.filter (fun h => !h.2.isEmpty) })

/-- The Forme of a chunk in which a line was found lost (R316). -/
def loseLine (b : Bucket) (chunk : Nat) (s : State) : State :=
  match b.formes[chunk % b.formes.length]? with
  | some f => { s with galley := { s.galley with lost := s.galley.lost.upd f 0 (· + 1) } }
  | none => s

/-- A frame of the round that runs is added into its Forme, acknowledged when its chunk is whole (R310, R312, R316). -/
def acceptUnit (b : Bucket) (link : Nat) (id : RedId) (hdr : W64) (lines : List W64) (err : LineError) (s : State) : State :=
  let hop := id.hop.toNat
  let u := 8 * id.chunk.toNat + id.blk.toNat
  let ch : ChunkId := (link, hop, id.chunk.toNat)
  let b1 := if b.opened.contains ch then b else { b with opened := b.opened ++ [ch], given := b.given.upd link 0 (· - 1) }
  let lineLost := err == .lost
  let lost := if lineLost then some ((Config.random s.freeCtr).toNat % max 1 lines.length) else none
  let h := if b.isScale then { rep := lineLost : BlkHdr } else { blkHdrOf hdr with rep := (blkHdrOf hdr).rep || lineLost }
  let s1 := match err with
    | .none => s
    | .corrected => countCe s
    | .lost => overlapping false s (loseLine b id.chunk.toNat s.nextFree)
  let b2 := b1.addUnit link hop u h lines lost
  let (s2, b3) := if b2.wholeIn ch then
      freeHolding (sendAck s1 (b2.outFlume link) id false 0, { b2 with holding := b2.holding ++ [(ch, b2.derived ch)] })
    else (s1, b2)
  let (s3, b4) := beginSecond (s2, b3)
  pumpRed b.bid (s3.setBucket b4)

/-- A reduction frame that has been received (R310, R312, R320, R340). -/
def redArrives (h : FrameHdr) (id : RedId) (hdr : W64) (p nb : Nat) (lines : List W64) (err : LineError) (s : State) : State :=
  let ls := linksOf s (s.galley.links.getD id.btag.toNat []) h
  let out (l : Nat) : Nat := ((s.galley.links.getD id.btag.toNat []).getD l {}).out
  let drop := dropFrame s h.via [9, id.btag.toNat, id.step.toNat]
  let again := match ls with | l :: _ => sendAck s (out l) id false 0 | [] => drop
  if redCompleted s id then again
  else
    match redBucket s id with
    | none => if scaledBefore s id then again else drop
    | some b =>
      let hop := id.hop.toNat
      let u := 8 * id.chunk.toNat + id.blk.toNat
      let credited := ls.any (fun l => decide (b.given.getD l 0 > 0) || b.opened.any (fun c => c.1 == l))
      if b.past (scaledBefore s id) id then again
      else if !credited then drop
      else
        let fit := ls.find? (fun l => decide (u < b.nu) && (b.ins u).contains (l, hop))
        match b.conflict id p nb (b.gathers true (fit.getD (ls.headD 0)) hop) with
        | some field => redMismatch b field s
        | none =>
          match fit with
          | none => drop
          | some l =>
            if b.seen.contains (l, hop, u) then
              if b.wholeIn (l, hop, id.chunk.toNat) then sendAck s (b.outFlume l) id false 0 else s
            else if b.opened.contains (l, hop, id.chunk.toNat) ∨ b.given.getD l 0 > 0 then acceptUnit b l id hdr lines err s
            else drop

/-- Takes a frame from the fabric of LOCAL Flumes, if it is under way there. -/
def takeLocal (s : State) (x : LocalRed) : Option State :=
  if s.galley.fabric.contains x then some { s with galley := { s.galley with fabric := s.galley.fabric.erase x } } else none

/-! ### Acknowledgements and credits -/

/-- An acknowledgement of a chunk that this member sent (R310, R312). -/
def ackArrives (b : Bucket) (ch : ChunkId) (s : State) : State :=
  let b1 := { b with unacked := b.unacked.filter (· != ch), holding := b.holding.map (fun h => (h.1, h.2.filter (· != ch))) }
  let (s1, b2) := beginSecond (freeHolding (s, b1))
  pumpRed b.bid (s1.setBucket b2)

/-- A REDACK that has been received. A credit for a round that this member has not begun is kept for it (assumption 23); one of another SCHED, or of
a scale round that this bucket does not run in the ROUND, is a mismatch (R320). -/
def redackArrives (h : FrameHdr) (id : RedId) (credit : Bool) (n : Nat) (s : State) : State :=
  let drop := dropFrame s h.via [10, id.btag.toNat, id.step.toNat]
  let keep := { s with galley := { s.galley with
    early := if s.galley.early.any (fun x => x.id == id && x.flume == h.flume.toNat) then s.galley.early
             else s.galley.early ++ [⟨id, h.flume.toNat, n⟩] } }
  if redCompleted s id then drop
  else
    match redBucket s id with
    | none => if credit ∧ (tagOwner s id.btag.toNat).isSome ∧ ¬ scaledBefore s id then keep else drop
    | some b =>
      let ls := linksOf s b.desc.links h
      let same := id.round == BitVec.ofNat 8 b.round
      if b.past (scaledBefore s id) id then drop
      else if ls.isEmpty then drop
      else if same ∧ id.phase = 0 ∧ ¬ b.isScale then redMismatch b 5 s
      else if !same || (id.phase == 0) != b.isScale then (if credit then keep else drop)
      else if id.sched.toNat ≠ b.sched then redMismatch b 1 s
      else if credit then
        match ls.find? (fun l => !(b.creditSeen.contains (l, id.hop.toNat, id.chunk.toNat))) with
        | some l =>
          pumpRed b.bid (s.setBucket { b with
            credits := b.credits.upd l 0 (· + n), creditSeen := b.creditSeen ++ [(l, id.hop.toNat, id.chunk.toNat)] })
        | none => drop
      else
        match ls.find? (fun l => b.unacked.contains (l, id.hop.toNat, id.chunk.toNat)) with
        | some l => ackArrives b (l, id.hop.toNat, id.chunk.toNat) s
        | none => drop

/-- A path of a link has returned: the unacknowledged chunks go out again in CHUNK order, and the credits of the round (R312). -/
def resendReds (f : Nat) (s : State) : State :=
  (s.galley.buckets.filter Bucket.active).foldl (fun s b =>
    let ls := (List.range 3).filter (fun l => (b.desc.links.getD l {}).valid && b.outFlume l == f)
    let s1 := (b.givenLog.filter (fun g => ls.contains g.1.1)).foldl (fun s g => sendAck s f (b.redId false g.1.2.1 g.1.2.2 0) true g.2) s
    ((b.unacked.filter (fun c => ls.contains c.1)).mergeSort (fun a c => decide (a.2.2 ≤ c.2.2))).foldl (fun s c =>
      (b.chunkOut c).foldl (fun s u => if b.outq.contains ⟨c.1, c.2.1, u⟩ then s else emitUnit b c.1 c.2.1 u s) s) s1) s

/-! ### The decision of a round (R314 to R316) -/

/-- Whether a round is complete at this member: every unit decided, and every chunk that it sent acknowledged. -/
def Bucket.roundDone (b : Bucket) : Bool :=
  (b.phase == .scale || b.phase == .data) && !b.ended && !b.units.isEmpty && b.units.all (fun u => u.2.decided) && b.outq.isEmpty && b.unacked.isEmpty

/-- The headers of a data round. -/
def Bucket.hdrs (b : Bucket) : List BlkHdr := b.units.map (fun u => u.2.hdr)

/-- EMAX of every block after a scale round. -/
def Bucket.emaxs (b : Bucket) : List Int := (List.range b.desc.nb).map (fun k => expAt (b.units.getD (k / 1024) {}).lines (k % 1024))

/-- Starts another round of a bucket. -/
def nextRound (b : Bucket) (s : State) : State :=
  let b1 := { b with units := [] }
  match startRound b1 (s.setBucket b1) with
  | .ok s1 => s1
  | .error e => redFails b e (s.setBucket b1)

def countRepeat (s : State) : State := { s with galley := { s.galley with repeats := satAdd s.galley.repeats 1 65535 } }

/-- The end of a scale round (R306, R307, R314). -/
def scaleDone (b : Bucket) (s : State) : State :=
  if b.hdrs.any (·.rep) then nextRound { b with round := b.round + 1 } (countRepeat s)
  else
    let e := scalesOf b.desc.p b.emaxs
    match b.kind with
    | .bscale _ _ =>
      match writeMem s (scaleBytes b.desc e) with
      | (s1, none) => finishRed b false s1
      | (_, some .addr) => redFails b .addr s
      | (s1, some .data) => redFails b .data s1
    | .bred _ => nextRound { b with phase := .data, e := e, round := if b.rescaled then b.round + 1 else b.round, scaled := some b.round } s

/-- The end of a data round: a Regrind, a scale round after two Regrinds, a repeat, or the final round (R314, R316). -/
def dataDone (b : Bucket) (s : State) : State :=
  if b.hdrs.any (·.ovf) && !b.rescaled then
    if b.regrinds < 2 then
      let e := (b.e.zip b.hdrs).map (fun x => if x.2.ovf then min 32767 (x.1 + x.2.ovb + 1) else x.1)
      nextRound { b with e := e, regrinds := b.regrinds + 1, round := b.round + 1 }
        { s with galley := { s.galley with regrinds := satAdd s.galley.regrinds 1 65535 } }
    else
      nextRound { b with phase := .scale, rescaled := true, round := b.round + 1 }
        { s with galley := { s.galley with forcedScale := satAdd s.galley.forcedScale 1 65535 } }
  else if b.hdrs.any (·.rep) then nextRound { b with round := b.round + 1 } (countRepeat s)
  else s.setBucket { b with phase := .complete }

/-- The oldest running bucket of a tag in a context. -/
def runningRed (s : State) (c btag : Nat) : Option Bucket := s.galley.buckets.find? (fun b => b.ctx == c && b.btag == btag && b.active)

/-- ROUND_COMPLETE (R306, R307, R314, R316). -/
def execRoundComplete (c : Fin 32) (btag : BitVec 12) (s : State) : Res :=
  whileClocked s (
    match runningRed s c btag.toNat with
    | none => .next s
    | some b =>
      if !b.roundDone then .next s
      else .next (settle (wakeReds c (if b.isScale then scaleDone b s else dataDone b s))))

/-! ### Results (R305, R317) -/

/-- A result element: S × 2^E rounded once, and whether it overflowed (R317). -/
def resultBits (f64 : Bool) (w : W64) (E : Int) : Nat × Bool :=
  let v : Val := .fin (decide (w.toInt < 0)) w.toInt.natAbs E
  let c := convFp (if f64 then fmt64 else fmt32) false .rne false 0 v false
  (c.bits, c.fl &&& flOverflow != 0)

/-- The elements of a block's result. -/
def Bucket.resultOf (b : Bucket) (k : Nat) : List (Nat × Bool) :=
  (b.units.getD k {}).lines.map (fun w => resultBits b.desc.fp64Dst w (b.e.getD k 0)) |>.take (b.desc.elems - 256 * k)

/-- The final header of a block: with the NF of its results, OVF = 0 and RGN (R303, R317). -/
def Bucket.finalHdr (b : Bucket) (k : Nat) : BlkHdr :=
  let h := (b.units.getD k {}).hdr
  { h with e := b.e.getD k 0, ovf := false, ovb := 0, nf := h.nf || (b.resultOf k).any (·.2), rgn := b.rgn }

/-- The bytes that a completed bucket writes: result, status array, measured scales. -/
def Bucket.outBytes (b : Bucket) : List (Nat × W8) :=
  let ks := List.range b.desc.nb
  let n := if b.desc.fp64Dst then 8 else 4
  cellsAt b.desc.resultBase (ks.flatMap (fun k => (b.resultOf k).flatMap (fun r => leBytes n r.1)))
    ++ cellsAt b.desc.statusBase (ks.flatMap (fun k => leBytes 8 (b.finalHdr k).word.toNat))
    ++ scaleBytes b.desc (scalesOf b.desc.p (b.hdrs.map (·.emax)))

/-- The highest completed step of a tag rises (R390). -/
def recordDone (b : Bucket) (x : Ctx) : Ctx :=
  { x with completed := x.completed.set b.btag (match x.completed.find? b.btag with | some t => max t b.step | none => b.step) }

/-- A bucket completes (R315, R317, R390, R401). -/
def completeBucket (b : Bucket) (s : State) : State :=
  match writeMem s b.outBytes with
  | (_, some .addr) => redFails b .addr s
  | (s1, some .data) => redFails b .data s1
  | (s1, none) =>
    let bad := (List.range b.desc.nb).filter (fun k => (b.finalHdr k).nf)
    let s2 := s1.updCtx b.ctx (recordDone b)
    let s3 := match bad with
      | [] => s2
      | k :: _ => logEvent { s2 with galley := { s2.galley with nfBuckets := satAdd s2.galley.nfBuckets 1 65535 } } evRedNonfinite scBucket b.btag [k]
    finishRed b (!bad.isEmpty) (journalStep (flushUnits s3) b.ctx b.step [b.btag, 1, b.step])

/-- BUCKET_COMPLETE (R142, R145, R305, R308, R315, R317, R390). -/
def execBucketComplete (c : Fin 32) (btag : BitVec 12) (s : State) : Res :=
  whileClocked s (
    match runningRed s c btag.toNat with
    | none => .next s
    | some b => if b.phase = .complete then .next (settle (wakeReds c (completeBucket b s))) else .next s)

/-! ### Stalls and lost Formes (R316, R321) -/

/-- The link and hop that a bucket waits for: of an arrival, or of an acknowledgement. -/
def Bucket.awaited (b : Bucket) : Nat × Nat :=
  let open_ := (List.range b.nu).flatMap (fun u => (b.ins u).filter (fun x => !(b.seen.contains (x.1, x.2, u))))
  match open_ with
  | x :: _ => x
  | [] => match b.unacked with | c :: _ => (c.1, c.2.1) | [] => (0, 0)

/-- PHASE of a stall event, by the codes of a frame: scale, reduce or gather, that of the chunk awaited (R310, R321, R338). -/
def Bucket.stallPhase (b : Bucket) : Nat :=
  if b.isScale then 0
  else
    let open_ := (List.range b.nu).any (fun u => (b.ins u).any (fun x => !(b.seen.contains (x.1, x.2, u))))
    if b.gathers open_ b.awaited.1 b.awaited.2 then 2 else 1

/-- GALLEY_STALL (R321): the period has passed without progress of an active bucket. -/
def execGalleyStall (c : Fin 32) (btag : BitVec 12) (s : State) : Res :=
  whileClocked s (
    match runningRed s c btag.toNat with
    | none => .next s
    | some b =>
      .next (logEvent { s with galley := { s.galley with stalls := satAdd s.galley.stalls 1 65535 } } evGalleyStall scBucket b.btag
        [b.step, b.stallPhase, b.awaited.2, b.awaited.1]))

/-- Formes in service. -/
def enabledFormes (s : State) : Nat := 16 - s.galley.disabled.length

def quotaSum (s : State) : Nat :=
  s.ctxs.foldl (fun n x => if x.2.state ≠ .unloaded ∧ ¬ x.2.takeover then n + x.2.quota else n) 0

/-- The highest-numbered loaded context that satisfies a test. -/
def highestCtx (s : State) (p : Ctx → Bool) : Option Nat :=
  s.ctxs.foldl (fun (m : Option Nat) x => if x.2.state ≠ .unloaded ∧ ¬ x.2.takeover ∧ p x.2 then some (max x.1 (m.getD 0)) else m) none

/-- Lowers one quota by one when the quotas exceed the Formes in service (R316). -/
def lowerQuota (s : State) : State :=
  if quotaSum s ≤ enabledFormes s then s
  else
    match highestCtx s (fun x => decide (x.quota > 1)) with
    | some c => s.updCtx c (fun x => { x with quota := x.quota - 1 })
    | none =>
      match highestCtx s (fun x => decide (x.quota = 1)) with
      | some c =>
        logEvent { s.updCtx c (fun x => { x with quota := 0 }) with galley := { s.galley with degraded := true } } evGalleyDegraded scCtx c []
      | none => s

/-- FORME_DISABLE (R316, R470): a Forme with two lost lines that no reduction holds leaves service. -/
def execFormeDisable (forme : Fin 16) (s : State) : Res :=
  whileClocked s (
    let f := forme.val
    if s.galley.disabled.contains f ∨ s.galley.lost.getD f 0 < 2 ∨ s.galley.buckets.any (fun b => b.formes.contains f) then .next s
    else
      let s1 := { s with galley := { s.galley with disabled := s.galley.disabled ++ [f] } }
      .next (overlapping false s (lowerQuota (addDefect (logEvent s1 evFormeDisabled scPackage 0 [f]) 0x0A 3 0 f 0))))

end Sys2Proof.Machine
end

