-- ==== Sys2Proof/Machine/Flume.lean ====
section
/-!
DEFINITION. Flumes: grants, micro-batches and their acceptance, receipts and recalls, tokens and notices, opening, closing and breaking
(spec/09, R254, R258 to R273; spec/10, R290, R291; R349, R350, R393).
-/

namespace Sys2Proof.Machine

/-! ### Frames for a Flume -/

/-- Whether DST_FLUME names a Flume that takes a frame of this sender (R340 step 5). The PEER of an open offer is left to the check of the
offer, which answers a mismatch (R270, R338; assumption 118). -/
def dstOk (s : State) (h : FrameHdr) (offer : Bool) : Bool :=
  let x := s.flume h.dst.toNat
  let peer := x.peer == h.member.toNat || (offer && x.state == .opening)
  x.state != .closed
    && (match h.via with
        | .race _ => x.kind == 0 && peer
        | .host _ _ => x.kind == 1 && peer
        | .fabric => x.kind == 2 && x.far == h.flume.toNat && (guestFlume s h.dst.toNat || (s.flume h.flume.toNat).far == h.dst.toNat))

/-- A frame that only a LOCAL Flume of this package could carry: its ends exchange none (R265); the guest die's do (R455). -/
def onFabric (s : State) (h : FrameHdr) : Bool := h.via == .fabric && !(guestFlume s h.dst.toNat)

/-- Closings that are due: an outbound Flume in CLOSING whose outputs all have receipts returns its unused grants (R271). -/
def firstUnused (x : Flume) : Nat := (x.grants.head?).getD x.nextGrant

/-- An unused grant's reservation is released (R254, R271). -/
def releaseGrant (s : State) (e : Nat) : State := releaseEntry s e

/-- A Flume enters CLOSED: its reservations are released (R271). -/
def enterClosed (s : State) (f : Nat) : State :=
  let s1 := (s.flume f).issued.foldl (fun s g => releaseGrant s g.2) s
  setFlumeState (s1.updFlume f (fun x => { x with
    issued := [], grants := [], tx := [], rx := none, forced := false, stalled := false, closeAsked := none })) f .closed

/-- An outbound end returns its grants in a close message, and both ends close; a SINK and a LOCAL Flume close without a message. -/
def sendClose (s : State) (f : Nat) : State :=
  let x := s.flume f
  let s1 := enterClosed s f
  if localFlume s f then enterClosed s1 x.far
  else if x.kind = 3 then s1
  else hold s1 (.frame f (.close f x.far x.forced 0 (firstUnused x)))

/-- Whether an outbound end in CLOSING may send its close message: every output has its receipt, none waits for the twin, and a path is there
to carry the message, which a forced close does not wait for (R271). -/
def closeDue (s : State) (f : Nat) : Bool :=
  let x := s.flume f
  x.state == .closing && !x.inbound && x.tx.isEmpty && (heldTx s f).isEmpty && (decide (2 ≤ x.kind) || x.path.isSome && !x.pathLost || x.forced)

def closings (s : State) : State :=
  (s.flumes.map (·.1)).foldl (fun s f => if closeDue s f then sendClose s f else s) s

/-- What follows a change at a Flume. -/
def afterFlume (s : State) : State := settle (closings s)

/-- A frame that a Flume's carrier has delivered: the destination check of R340 step 5, and its effect. -/
def onFlume (h : FrameHdr) (typ : Nat) (detail : List Nat) (act : State → State) (s : State) : State :=
  if dstOk s h (typ == 4) then afterFlume (act s) else dropFrame s h.via (typ :: h.dst.toNat :: detail)

/-! ### Grants (R262) -/

/-- The pages that a grant reserves. -/
def grantPages (s : State) (x : Flume) : Nat := (x.len + 2 ^ 20 - 1) / 2 ^ 20 + (s.hopper x.hopper).retPages

/-- An entry within CAP and enough pages are free. -/
def grantRoom (s : State) (x : Flume) : Bool :=
  decide ((hopperEntries s x.hopper).length < (s.hopper x.hopper).cap) && decide (grantPages s x ≤ (s.ctx x.owner).free.length)

/-- Whether a Flume is short of grants. -/
def grantWanted (x : Flume) : Bool := x.inbound && x.state == .openF && decide (x.issued.length < x.ahead)

/-- Reserves an entry and pages and sends the grant. -/
def issueGrant (f : Nat) (s : State) : State :=
  let x := s.flume f
  match takePages s x.owner (grantPages s x) false with
  | none => s
  | some (l, s1) =>
    let e := s1.nextEntry
    let s2 := { s1 with
      nextEntry := e + 1, pool := s1.pool.set e { hopper := x.hopper, state := .granted, flume := f, inPages := l, grantNo := x.nextGrant } }
    let s3 := s2.setFlume f { x with issued := x.issued ++ [(x.nextGrant, e)], nextGrant := x.nextGrant + 1, stalled := false }
    hold s3 (.frame f (.grant f x.far x.nextGrant))

/-- GRANT_ISSUE (R254, R262, R274): a grant that cannot be issued is counted once. -/
def execGrantIssue (f : Fin 1024) (s : State) : Res :=
  whileClocked s (
    let x := s.flume f
    if !(grantWanted x) then .next s
    else if grantRoom s x then .next (issueGrant f s)
    else if x.stalled then .next s
    else .next ({ s with grantStalls := satAdd s.grantStalls 1 65535 }.setFlume f { x with stalled := true }))

/-- What a grant does (R262, R271). -/
def grantActs (h : FrameHdr) (grantNo : W32) (s : State) : State :=
  onFlume h 2 [] (fun s => if (s.flume h.dst.toNat).inbound || onFabric s h then s else grantAt h.dst.toNat grantNo.toNat s) s

/-! ### Micro-batches (R260 to R265) -/

/-- Journals an accepted micro-batch: its payload, its page list, its entry with the next grant number (R401). -/
def journalAccepted (s : State) (f e : Nat) : State :=
  match s.entry? e with
  | none => s
  | some v =>
    if !(pairActive s) ∨ (s.ctx (s.flume f).owner).takeover then s
    else
      let s1 := (List.range ((v.len + 2047) / 2048)).foldl (fun s k =>
        let p := v.inPages.getD (k / 512) 0
        journal s 0 [p, k % 512] (unitBytes s p (k % 512))) s
      let s2 := journalPages v.inPages.length v.inPages s1
      journalFor s2 (v.hopper / 2) 2 [v.hopper / 2, v.hopper % 2, f, v.seq, v.step.toNat, v.mbid.toNat, v.edition.toNat, v.len,
        v.inPages.headD 0, v.inPages.length, v.accNo, v.grantNo, (s.flume f).nextGrant]

/-- Acceptance: the entry's fields, ACC_NO, SEQ_ACC, the consumed grant, the receipt (R254, R262, R263, R401). -/
def acceptEntry (f e : Nat) (seq : Nat) (step mbid edition : W32) (s : State) : State :=
  match s.entry? e with
  | none => s
  | some v =>
    let x := s.flume f
    let hp := s.hopper x.hopper
    let used := (x.len + 2 ^ 20 - 1) / 2 ^ 20 + hp.retPages
    let v1 := { v with seq := seq, step := step, mbid := mbid, edition := edition, len := x.len, accNo := hp.accNo, inPages := v.inPages.take used }
    let s1 := returnPages s x.owner (v.inPages.drop used)
    let s2 := (s1.setEntry e v1).setHopper x.hopper { hp with accNo := (hp.accNo + 1) % 65536 }
    let s3 := s2.setFlume f { s2.flume f with seq := seq, issued := x.issued.filter (fun g => g.2 != e), rx := none }
    let s4 := journalAccepted s3 f e
    hold (hold s4 (.entryReady e)) (.frame f (.receipt f x.far seq step 0))

/-- A whole received micro-batch is accepted. -/
def acceptRx (f : Nat) (s : State) : State :=
  match (s.flume f).rx with
  | some v => if v.whole ∧ ¬ v.recallSeen then acceptEntry f v.entry v.seq v.step v.mbid v.edition s else s
  | none => s

/-- Whether a twin's acknowledgement of an accepted entry is still awaited (R401). -/
def stillHeld (s : State) (e : Nat) : Bool := s.pair.held.any (fun h => h.2 == .entryReady e)

/-- A duplicate: nothing is written, a receipt is sent again (R261, R401). -/
def duplicateMb (f seq : Nat) (s : State) : State :=
  let x := s.flume f
  let s1 := s.setFlume f { x with dup := satAdd x.dup 1 65535 }
  match entryOfSeq s f seq with
  | some (e, v) => if stillHeld s e then s1 else sendFlume s1 f (.receipt f x.far seq v.step 0)
  | none => sendFlume s1 f (.receipt f x.far seq 0 0)

/-- A micro-batch header at an inbound Flume, by its sequence number (R261, R263, R393): duplicate, gap, conflict, or the next one. -/
def mbArrives (via : Carrier) (f seq : Nat) (step grantNo mbid edition len : W32) (s : State) : State :=
  let x := s.flume f
  let rx (e : Nat) (again : Bool) : Rx :=
    { seq := seq, grantNo := grantNo.toNat, step := step, mbid := mbid, edition := edition, len := len.toNat, recallSeen := again, entry := e }
  if !x.inbound then s
  else if seq ≤ x.seq then
    match entryOfSeq s f seq with
    | some (e, v) =>
      if v.recalled ∧ len.toNat = x.len then s.setFlume f { x with rx := some (rx e true) } else duplicateMb f seq s
    | none => duplicateMb f seq s
  else if seq > x.seq + 1 then logEvent s evSequenceGap scFlume f [seq, x.seq]
  else
    match List.find? (fun g : Nat × Nat => g.1 == grantNo.toNat) x.issued with
    | none => dropFrame s via [0, f, 0]
    | some g => if len.toNat ≠ x.len then dropFrame s via [0, f, 1] else s.setFlume f { x with rx := some (rx g.2 false) }

/-- What a micro-batch header does (R260, R261, R263, R338, R393). A whole micro-batch before it is accepted first. -/
def mbhdrActs (h : FrameHdr) (seq : W48) (step grantNo mbid edition len : W32) (s : State) : State :=
  onFlume h 0 [step.toNat] (fun s => mbArrives h.via h.dst.toNat seq.toNat step grantNo mbid edition len (acceptRx h.dst.toNat s)) s

/-- A segment is written into the reserved pages; the last one makes the micro-batch whole. A recalled payload that is whole clears the
recall mark and is receipted (R262, R393). -/
def dataArrives (f seq seg : Nat) (size : Nat) (last : Bool) (bytes : List W8) (s : State) : State :=
  let x := s.flume f
  match x.rx with
  | none => s
  | some v =>
    if v.seq ≠ seq ∨ v.nextSeg ≠ seg ∨ v.whole ∨ bytes.length ≠ size then s
    else
      match s.entry? v.entry with
      | none => s
      | some e =>
        let s1 := (writeMem s ((List.range size).zip bytes |>.map (fun p => (inAddr e (seg * size + p.1), p.2)))).1
        let whole := last && decide (v.len ≤ (seg + 1) * size)
        if whole && v.recallSeen then
          sendFlume ((s1.setEntry v.entry { e with recalled := false }).setFlume f { x with rx := none }) f (.receipt f x.far seq v.step 0)
        else s1.setFlume f { x with rx := some { v with nextSeg := seg + 1, whole := whole } }

/-- What a segment does (R262, R338, R340, R361, R393). -/
def dataActs (h : FrameHdr) (seq : W48) (last : Bool) (seg : BitVec 18) (bytes : List W8) (s : State) : State :=
  onFlume h 1 [] (fun s => dataArrives h.dst.toNat seq.toNat seg.toNat (segSize s h.via) last bytes s) s

/-- Marks the first unsent item of a LOCAL Flume's outbound end as handed over. -/
def takeItem (s : State) (g : Nat) (grant : Option Nat) : State :=
  s.updFlume g (fun x => { x with tx := markSent grant x.tx, grants := match grant with | some n => x.grants.filter (· != n) | none => x.grants })

/-- The next item of an outbound end. -/
def nextItem (s : State) (g : Nat) : Option TxItem := (s.flume g).tx.find? (fun t => !t.sent)

/-- A micro-batch moves on a LOCAL Flume: the lowest unsent output against a held grant; its payload is copied and it is accepted, or it is a
duplicate (R261, R265). -/
def localMb (f : Nat) (s : State) : State :=
  let x := s.flume f
  let g := x.far
  match nextItem s g with
  | some { kind := .mb o, seq := seq, .. } =>
    if seq ≤ x.seq then duplicateMb f seq (takeItem s g none)
    else if x.seq + 1 < seq then s
    else
      match s.entry? o, (grantFor s (s.flume g) seq).bind (fun n => List.find? (fun p : Nat × Nat => p.1 == n.1) x.issued) with
      | some src, some (no, e) =>
        match s.entry? e with
        | some dst =>
          let as := srcAddrs src x.len
          if (lostPage s as).isSome then haltData s (s.flume g).owner as
          else
            let bs := outBytes s src 0 x.len
            let s1 := (writeMem s ((List.range x.len).zip bs |>.map (fun p => (inAddr dst p.1, p.2)))).1
            acceptEntry f e seq src.step src.mbid src.edition (takeItem s1 g (some no))
        | none => s
      | _, _ => s
  | _ => s

/-- ACCEPTANCE (R11, R254, R262 to R265, R401). -/
def execAcceptance (f : Fin 1024) (s : State) : Res :=
  whileClocked s (
    let x := s.flume f
    if !x.inbound then .next s
    else if localFlume s f then (if x.state = .openF then .next (afterFlume (localMb f s)) else .next s)
    else .next (afterFlume (acceptRx f s)))

/-! ### Receipts and recalls (R254, R264, R393) -/

/-- What a receipt does (R48, R254, R262, R264, R290): WHAT 0 to 2. -/
def receiptActs (h : FrameHdr) (seq : W48) (step : W32) (what : BitVec 2) (s : State) : State :=
  onFlume h 3 [step.toNat] (fun s =>
    if (s.flume h.dst.toNat).inbound ∨ onFabric s h ∨ what = 3 then s else receiptAt h.dst.toNat seq.toNat step.toNat what.toNat s) s

/-- A recall at the outbound end: the output goes out again with the same SEQ and GRANT_NO, or the recall returns (R393). -/
def recallAtOut (f seq : Nat) (step : W32) (s : State) : State :=
  match entryOfOut s f seq with
  | some (e, v) =>
    match (s.flume f).path with
    | some c => if (s.flume f).pathLost then s else (mbFrames s f (segSize s c) seq v.outGrant e).foldl (fun s fr => sendOn s c fr) s
    | none => s
  | none => sendFlume s f (.receipt f (s.flume f).far seq step 3)

/-- A returned recall at the inbound end: the entry is unrecoverable (R393). -/
def recallAtIn (f seq : Nat) (s : State) : State :=
  match entryOfSeq s f seq with
  | some (e, v) => if v.recalled then s.setEntry e { v with recalled := false, unrecoverable := true } else s
  | none => s

/-- What a recall does: a RECEIPT whose WHAT is 3 (R393). -/
def recallActs (h : FrameHdr) (seq : W48) (step : W32) (s : State) : State :=
  onFlume h 3 [step.toNat] (fun s =>
    if onFabric s h then s
    else if (s.flume h.dst.toNat).inbound then recallAtIn h.dst.toNat seq.toNat s
    else recallAtOut h.dst.toNat seq.toNat step s) s

/-! ### Tokens and notices (R290, R291) -/

/-- The peer whose tokens arrive on a Flume. -/
def peerOn (s : State) (c f : Nat) : Option Nat := (s.ctx c).peers.findIdx? (fun p => p.inn == f)

/-- Records the step of a token or a notice of a peer, if it is new (R291). -/
def recordPeer (s : State) (c j n : Nat) (token : Bool) : State :=
  match (s.ctx c).peers[j]? with
  | none => s
  | some p =>
    let old := if token then p.lastToken else p.lastNotice
    if (match old with | some m => decide (n ≤ m) | none => false) then s
    else
      let p1 := if token then { p with lastToken := some n } else { p with lastNotice := some n }
      journalPeer (s.updCtx c (fun x => { x with peers := x.peers.set j p1 })) c j

/-- A token or notice at an inbound Flume: recorded, or discarded as a duplicate; receipted (R291, R401). -/
def tokenArrives (f n : Nat) (token : Bool) (s : State) : State :=
  let x := s.flume f
  if !x.inbound then s
  else
    let s1 := match peerOn s x.owner f with | some j => recordPeer s x.owner j n token | none => s
    hold s1 (.frame f (.receipt f x.far 0 (BitVec.ofNat 32 n) (if token then 1 else 2)))

/-- A token or notice on a LOCAL Flume is the next item of its outbound end. -/
def localToken (f n : Nat) (token : Bool) (s : State) : State :=
  let g := (s.flume f).far
  match nextItem s g with
  | some t => if t.kind = (if token then .token n else .notice n) then tokenArrives f n token (takeItem s g none) else s
  | none => s

/-- What a token does (R49, R267, R290, R291). -/
def tokenActs (h : FrameHdr) (step : W32) (s : State) : State :=
  onFlume h 7 [step.toNat] (fun s =>
    if onFabric s h then localToken h.dst.toNat step.toNat true s else tokenArrives h.dst.toNat step.toNat true s) s

/-- What a commit notice does (R289 to R291). -/
def noticeActs (h : FrameHdr) (step : W32) (s : State) : State :=
  onFlume h 8 [step.toNat] (fun s =>
    if onFabric s h then localToken h.dst.toNat step.toNat false s else tokenArrives h.dst.toNat step.toNat false s) s

/-! ### Opening (R259, R270) -/

/-- A Flume enters OPEN from OPENING: its numbering and grants start over, and the tokens and notices that were queued before go out (R261,
R270, R290). -/
def enterOpen (f : Nat) (s : State) : State :=
  let keep (t : TxItem) : Bool := match t.kind with | .mb _ => false | _ => true
  let s1 := s.updFlume f (fun x => { x with
    seq := 0, tx := x.tx.filter keep, grants := [], issued := [], nextGrant := 1, rx := none, forced := false, stalled := false, closeAsked := none })
  pump f (setFlumeState s1 f .openF)

/-- An end refuses or is refused: CLOSED, with the first field in conflict logged (R270). -/
def refuseOpen (f field : Nat) (s : State) : State := logEvent (setFlumeState s f .closed) evFlumeMismatch scFlume f [field]

/-- The first conflict of an offer with the end's own configuration (R270, R338): 1 DIR, 2 FAR_FLUME, 3 PEER, 4 LEN_4K. -/
def openConflict (x : Flume) (dir : Bool) (from_ member len4k : Nat) : Nat :=
  if dir = x.inbound then 1 else if x.far ≠ from_ then 2 else if x.peer ≠ member then 3 else if x.len ≠ len4k * 4096 then 4 else 0

/-- An open offer at an end; a refusal goes back to its sender (R270). -/
def offerArrives (via : Carrier) (f from_ member : Nat) (dir : Bool) (len4k : Nat) (s : State) : State :=
  let x := s.flume f
  let answer (r : Nat) : Frame := .openack f x.far x.inbound (x.len / 4096) r
  if x.state = .opening then
    match openConflict x dir from_ member len4k with
    | 0 => hold (enterOpen f s) (.frame f (answer 0))
    | k => refuseOpen f k (sendOn s via (answer k))
  else if x.state = .openF ∧ openConflict x dir from_ member len4k = 0 then sendFlume s f (answer 0)
  else s

/-- What an open offer does (R270). A LOCAL Flume opens within the Spur. -/
def openActs (h : FrameHdr) (dir : Bool) (len4k : W16) (s : State) : State :=
  onFlume h 4 [] (fun s => if onFabric s h then s else offerArrives h.via h.dst.toNat h.flume.toNat h.member.toNat dir len4k.toNat s) s

/-- What an open acknowledgement does (R270). -/
def openackActs (h : FrameHdr) (result : BitVec 4) (s : State) : State :=
  onFlume h 5 [] (fun s =>
    if onFabric s h ∨ (s.flume h.dst.toNat).state ≠ .opening then s
    else if result = 0 then enterOpen h.dst.toNat s
    else refuseOpen h.dst.toNat result.toNat s) s

/-- Both ends of a LOCAL Flume, once both are in OPENING (R270). -/
def openLocal (f : Nat) (s : State) : State :=
  let x := s.flume f
  let g := x.far
  let y := s.flume g
  if !(localFlume s g) ∨ y.state ≠ .opening then s
  else
    let k := if y.inbound = x.inbound then 1 else if y.far ≠ f then 2
      else if x.peer ≠ s.sec.self ∨ y.peer ≠ s.sec.self then 3 else if x.len ≠ y.len then 4 else 0
    if k = 0 then enterOpen g (enterOpen f s) else refuseOpen g k (refuseOpen f k s)

/-- A Flume's path starts or returns: its offer goes out, or the Flume is OPEN again and resends (R264, R270, R272, R312). -/
def wakePath (f : Nat) (s : State) : State :=
  let x := s.flume f
  if x.kind ≥ 2 ∨ x.state = .closed ∨ x.path.isSome then s
  else
    match pickPath s f with
    | none => s
    | some c =>
      let s1 := s.setFlume f { x with path := some c, pathLost := false }
      if x.state = .opening then sendFlume s1 f (offerFrame s1 f)
      else resendReds f (resendFlume f (if x.state = .broken then setFlumeState s1 f .openF else s1))

/-- Every Flume whose path starts or returns. -/
def wakePaths (s : State) : State := (s.flumes.map (·.1)).foldl (fun s f => pump f (wakePath f s)) s

/-- A Flume's end starts to open at the host's request (R270). -/
def startOpen (f : Nat) (s : State) : State :=
  let s1 := s.updFlume f (fun x => { x with path := none, pathLost := false })
  match (s.flume f).kind with
  | 3 => enterOpen f s1
  | 2 =>
    let s2 := setFlumeState (s1.updFlume f (fun x => { x with path := some .fabric })) f .opening
    if guestFlume s f then sendGuest s2 (offerFrame s2 f) else openLocal f s2
  | _ => wakePath f (setFlumeState s1 f .opening)

/-! ### Closing (R254, R271) -/

/-- A forced close gives up every output without a receipt (R254, R271). -/
def abandonTx (f : Nat) (s : State) : State :=
  let lost := s.pool.filter (fun x => x.2.pushed && x.2.outFlume == f && !x.2.rcpt)
  let s1 := lost.foldl (fun s x => logEvent (s.setEntry x.1 { x.2 with rcpt := true, abandoned := true }) evAbandoned scFlume f [x.2.outSeq]) s
  s1.updFlume f (fun x => { x with tx := [] })

/-- An inbound end asks the outbound end for a close, with the highest grant that it has issued (R271, R338). -/
def askClose (f : Nat) (forced : Bool) (s : State) : State :=
  let x := s.flume f
  sendFlume s f (.close f x.far forced (x.nextGrant - 1) 0)

/-- A close is requested at an end (R271). The outbound end enters CLOSING. An inbound end asks it to: it goes on granting and accepting until
the outbound end's close message returns the unused grants; a forced close of an end that no path reaches needs no message (assumption 119). -/
def startClose (f : Nat) (forced : Bool) (s : State) : State :=
  let x := s.flume f
  if x.state = .closed then s
  else if x.state = .opening then enterClosed s f
  else if x.inbound then
    if localFlume s f then
      let s1 := setFlumeState (s.updFlume x.far (fun y => { y with forced := y.forced || forced })) x.far .closing
      if forced then abandonTx x.far s1 else s1
    else if forced ∧ (x.path.isNone ∨ x.pathLost) then enterClosed s f
    else askClose f forced (s.setFlume f { x with closeAsked := some forced })
  else
    let s1 := setFlumeState (s.setFlume f { x with forced := x.forced || forced }) f .closing
    if forced then abandonTx f s1 else s1

/-- What a close message does (R271): from the outbound end it returns unused grants and closes; from the inbound end it asks for the close. -/
def closeActs (h : FrameHdr) (forced : Bool) (firstUnused : W32) (s : State) : State :=
  onFlume h 6 [] (fun s =>
    let f := h.dst.toNat
    let x := s.flume f
    if onFabric s h then s
    else if x.inbound then
      let s1 := (x.issued.filter (fun g => decide (firstUnused.toNat ≤ g.1))).foldl (fun s g => releaseGrant s g.2) s
      enterClosed (s1.updFlume f (fun y => { y with issued := y.issued.filter (fun g => decide (g.1 < firstUnused.toNat)) })) f
    else startClose f forced s) s

/-! ### Breaking and failing paths (R264, R272, R349, R350, R367, R368) -/

/-- Whether the path that a Flume had has failed: its carrier has failed, or serves the peer no longer while a Race does not merely retrain, or
the route set no longer holds it (R272, R350, R367). -/
def pathGone (s : State) (f : Nat) : Bool :=
  let x := s.flume f
  match x.path with
  | some (.race r) =>
    x.pathLost || !(x.raceOk r) || (!(raceServes s r x.peer) && !((s.race r).state == .retraining && (s.race r).peer.map (·.1) == some x.peer))
  | some (.host p n) => x.pathLost || !(x.hostOk p) || (s.session p n).state != .openS
  | some .fabric => false
  | none => false

/-- FLUME_BREAK (R272): an OPEN Flume that no path reaches. -/
def execFlumeBreak (f : Fin 1024) (s : State) : Res :=
  whileClocked s (
    let x := s.flume f
    if x.state = .openF ∧ x.kind ≤ 1 ∧ (x.path.isNone ∨ pathGone s f) ∧ (pickPath s f).isNone then
      .next (setFlumeState ((abandonRx s f).updFlume f (fun y => { y with path := none, pathLost := false })) f .broken)
    else .next s)

/-- The Flume leaves its failed path for the next that qualifies, or becomes BROKEN (R264, R349, R350, R368). -/
def leavePath (f : Nat) (s : State) : State :=
  let s1 := (abandonRx s f).updFlume f (fun y => { y with path := none, pathLost := false })
  match pickPath s f with
  | some _ => pump f (wakePath f s1)
  | none => if (s.flume f).state = .openF then setFlumeState s1 f .broken else s1

/-- PATH_FAIL (R264, R272, R350). -/
def execPathFail (f : Fin 1024) (s : State) : Res :=
  whileClocked s (if pathGone s f then .next (afterFlume (leavePath f s)) else .next s)

/-! ### Draining (R46, R47, R250) -/

/-- DRAIN_COMPLETE (R47, R250): no DISPATCH of a draining context is outstanding. -/
def execDrainComplete (c : Fin 32) (s : State) : Res :=
  whileClocked s (
    let x := s.ctx c
    if x.state = .draining ∧ x.disps.isEmpty then
      .next (settle (s.setCtx c { x with state := if x.resumeAfterDrain then .running else .quiesced, resumeAfterDrain := false }))
    else .next s)

end Sys2Proof.Machine
end

