-- ==== Sys2Proof/Machine/Race.lean ====
section
/-!
DEFINITION. Races: training and qualification, HELLO and attestation, acknowledgement and retransmission, transmit order, lane failures
(spec/12, R325 to R354).
-/

namespace Sys2Proof.Machine

/-! ### Lanes (R325, R326, R352) -/

/-- Whether a Race exists and may leave OFF (R325, R329, R476). -/
def raceEnabled (s : State) (r : Nat) : Bool :=
  let p := s.racePort (r / 2)
  p.cfg.getLsbD 0 && !p.disabled && (r % 2 == 0 || p.cfg.getLsbD 1) && decide (6 ≤ s.boot.stage) && s.boot.stage != 15

/-- The lanes of a Race at full width (R325). -/
def baseLanes (s : State) (r : Nat) : BitVec 9 := if splitPort s r then (if r % 2 = 0 then 0x00F else 0x0F0) else 0x0FF

/-- Whether lane 8 of a port is in use by the other Race. -/
def spareTaken (s : State) (r : Nat) : Bool :=
  let o := if r % 2 = 0 then r + 1 else r - 1
  (s.race o).spareInUse && (s.race o).state != .off && (s.race o).state != .failed

/-- Lanes with one of them replaced by lane 8. -/
def withSpare (base good : BitVec 9) : BitVec 9 := (base &&& good) ||| 0x100

def countLanes (l : BitVec 9) : Nat := ((List.range 9).filter (fun i => l.getLsbD i)).length

/-- The half of an eight-lane Race that a set of lanes in use stands on. -/
def halfOf (lanes : BitVec 9) : BitVec 9 := if countLanes (lanes &&& 0x0F0) < countLanes (lanes &&& 0x00F) then 0x00F else 0x0F0

/-- The lane set of step 3 of R352, from the good lanes: lanes, half width, lane 8 in use; none when the Race fails. A Race that stays at half
width names the half that it is on. -/
def laneSet (s : State) (r : Nat) (good : BitVec 9) (spare : Bool) (own : Option (BitVec 9)) : Option (BitVec 9 × Bool × Bool) :=
  let base := baseLanes s r
  let ok8 := spare && good.getLsbD 8 && !(spareTaken s r)
  let missing (l : BitVec 9) : Nat := countLanes (l &&& ~~~good)
  if own.isNone ∧ missing base = 0 then some (base, false, false)
  else if own.isNone ∧ missing base = 1 ∧ ok8 then some (withSpare base good, false, true)
  else if splitPort s r then none
  else
    match own with
    | some h => if missing h = 1 ∧ ok8 then some (withSpare h good, true, true) else halves missing ok8
    | none => halves missing ok8
where
  halves (missing : BitVec 9 → Nat) (ok8 : Bool) : Option (BitVec 9 × Bool × Bool) :=
    if missing 0x00F = 0 then some (0x00F, true, false)
    else if missing 0x0F0 = 0 then some (0x0F0, true, false)
    else if missing 0x0F0 = 1 ∧ ok8 then some (withSpare 0x0F0 good, true, true)
    else none

/-- The lowest lane of a set. -/
def firstLane (l : BitVec 9) : Nat := ((List.range 9).find? (fun i => l.getLsbD i)).getD 0

/-- A lane event and its record: the port, the lane that failed last, and the peer's serial number (R353). -/
def noteLane (s : State) (r action : Nat) : State :=
  let x := s.race r
  addDefect (logEvent s evLane scRace r [x.failLane, action]) 0x0B 3 action (r / 2 * 16 + x.failLane) x.peerSerial

/-- A Race holds no lanes and no peer (R356). -/
def Race.bare (x : Race) : Race :=
  { x with lanes := 0, half := false, spareInUse := false, wide := false, recover := .lanes, peer := none, cand := none, attParts := []
           ownResult := none, peerResult := none }

/-- A Race leaves what it was for a state without a link; the paths on it have failed (R329, R350). -/
def endRace (s : State) (r : Nat) (st : RaceState) : State :=
  moveJournal r ((leaveAttested s r).updRace r (fun x => { x.bare with state := st }))

/-- A Race fails: logged and recorded (R329, R353). -/
def failRace (s : State) (r : Nat) : State := noteLane (logEvent (endRace s r .failed) evRaceFailed scRace r [(s.race r).failLane]) r 4

/-- A chosen lane set takes effect; the use of lane 8 and half width are recorded (R352, R353). -/
def takeLanes (r : Nat) (set : BitVec 9 × Bool × Bool) (s : State) : State :=
  let x := s.race r
  let s1 := s.setRace r { x with lanes := set.1, half := set.2.1, spareInUse := set.2.2, wide := false }
  let s2 := if set.2.2 && !x.spareInUse then noteLane s1 r 1 else s1
  if set.2.1 && !x.half then noteLane s2 r 4 else s2

/-- Lanes of a Race have failed: their transmitters go idle, and LANE_BAD holds them (R330, R351, R353, R356). -/
def markBad (s : State) (r : Nat) (l : BitVec 9) : State :=
  if l = 0 then s
  else
    let p := s.racePort (r / 2)
    (s.setRacePort (r / 2) { p with laneBad := p.laneBad ||| l, idle := p.idle ||| l }).updRace r (fun x => { x with failLane := firstLane l })

/-- The lanes that a Race may use: its own, and lane 8 where the medium carries it and the other Race does not use it (R325, R326). -/
def ownLanes (s : State) (r : Nat) : BitVec 9 :=
  baseLanes s r ||| (if (s.race r).sparePresent && !(spareTaken s r) then 0x100 else 0)

/-- Transmitters of lanes leave electrical idle: the lanes are trained again (R353). -/
def wakeLanes (s : State) (r : Nat) (l : BitVec 9) : State :=
  let p := s.racePort (r / 2)
  s.setRacePort (r / 2) { p with idle := p.idle &&& ~~~l }

/-- A retrain: counted, logged and recorded (R353, R356). -/
def countRetrain (s : State) (r : Nat) : State :=
  let p := s.racePort (r / 2)
  let x := s.race r
  addDefect (logEvent (s.setRacePort (r / 2) { p with retrains := satAdd p.retrains 1 65535 }) evRetrain scRace r [x.failLane])
    0x0B 3 4 (r / 2 * 16 + x.failLane) x.peerSerial

/-- Training starts afresh, a new bring-up of the link: every lane of the Race is tried again (R353, R356). -/
def freshTraining (s : State) (r : Nat) : State :=
  let s1 := endRace s r .training
  let p := s1.racePort (r / 2)
  let l := baseLanes s1 r ||| (if spareTaken s1 r then 0 else 0x100)
  s1.setRacePort (r / 2) { p with laneBad := p.laneBad &&& ~~~l, idle := p.idle &&& ~~~l }

/-- A Race enters RETRAINING: its paths are suspended (R349, R352). -/
def enterRetraining (s : State) (r : Nat) : State := s.updRace r (fun x => { x with state := .retraining, recover := .lanes })

/-- A Race trains again at full width, on request or after the return of the reference (R353, R356, R396): from ATTESTED it retrains and keeps
its numbering, otherwise it trains afresh. -/
def retrainRace (s : State) (r : Nat) : State :=
  if (s.race r).state = .attested ∨ (s.race r).state = .retraining then
    (enterRetraining (wakeLanes s r (ownLanes s r)) r).updRace r (fun x => { x with wide := true })
  else freshTraining s r

/-- RACE_TRAINING (R329, R352 step 3): an enabled Race detects signal, or its training ends with the lanes that trained. -/
def execRaceTraining (r : Fin 32) (e : TrainEvent) (s : State) : Res :=
  whileClocked s (
    if !(raceEnabled s r) then .next s
    else
      match e, (s.race r).state with
      | .signal, .off => .next (freshTraining s r)
      | .trained good sparePresent, .training =>
        let s1 := s.updRace r (fun x => { x with sparePresent := sparePresent })
        let s2 := markBad s1 r (ownLanes s1 r &&& ~~~good)
        match laneSet s2 r (good &&& ~~~((s2.racePort (r / 2)).idle)) sparePresent none with
        | some l => .next ((takeLanes r l s2).updRace r (fun x => { x with state := .qualifying }))
        | none => .next (failRace s2 r)
      | _, _ => .next s)

/-- TRAINING_TIMEOUT (R329, R352): 120 ms have passed in TRAINING, or in the recovery of a Race that retrains. -/
def execTrainingTimeout (r : Fin 32) (s : State) : Res :=
  whileClocked s (if (s.race r).state = .training ∨ (s.race r).state = .retraining then .next (failRace s r) else .next s)

/-- The lanes of a set that fail qualification (R330). -/
def badLanes (lanes : BitVec 9) (errors : List Nat) : BitVec 9 :=
  (List.range 9).foldl (fun m i => if lanes.getLsbD i ∧ errors.getD i 0 > 22400 then m ||| (1 : BitVec 9) <<< i else m) 0

/-- Records the highest error count of a qualification (R356). -/
def noteErrors (s : State) (r : Nat) (errors : List Nat) : State :=
  let p := s.racePort (r / 2)
  s.setRacePort (r / 2) { p with qualErrMax := min (errors.foldl max 0) (2 ^ 32 - 1) }

/-- A fresh challenge for a new HELLO state (R332). -/
def freshChallenge (s : State) (r : Nat) : State :=
  s.nextFree.updRace r (fun x => { x with chalOwn := Config.random s.freeCtr, cand := none, attParts := [], ownResult := none, peerResult := none })

/-- A Race enters HELLO with a fresh challenge (R332). -/
def enterHello (s : State) (r : Nat) : State := (freshChallenge s r).updRace r (fun x => { x with state := .hello })

/-- The lanes that qualification runs on: the lane set, and lane 8 where it is present (R330). -/
def qualLanes (s : State) (r : Nat) : BitVec 9 := (s.race r).lanes ||| (ownLanes s r &&& 0x100)

/-- QUALIFICATION (R329, R330). -/
def execQualification (r : Fin 32) (errors : List Nat) (s : State) : Res :=
  whileClocked s (
    if (s.race r).state ≠ .qualifying then .next s
    else
      let bad := badLanes (qualLanes s r) errors
      let s1 := markBad (noteErrors s r errors) r bad
      if bad &&& (s.race r).lanes = 0 then .next (enterHello s1 r)
      else .next (s1.updRace r (fun x => { x with state := .training })))

/-! ### HELLO and attestation (R332 to R336) -/

def isPairRace (s : State) (r : Nat) : Bool := (s.racePort (r / 2)).cfg.getLsbD (2 + r % 2)

/-- This end's HELLO (R332). -/
def ownHello (s : State) (r : Nat) : HelloMsg :=
  let x := s.race r
  let admitted := s.sec.phase == .admitted
  { kverMajor := 1, admitted := admitted, pair := isPairRace s r, half := x.half, lanes := x.lanes, slots := BitVec.ofNat 16 (raceSlots s r)
    serial := s.part.serial, chal := x.chalOwn, jobId := if admitted then s.sec.jobId else 0, crcOk := true }

/-- Whether a Race sends HELLO: in HELLO, in step 5 of a recovery, and in LINKED, where it tells the peer of an admission (assumption 24). -/
def sendsHello (x : Race) : Bool := x.state == .hello || x.state == .linked || (x.state == .retraining && x.recover == .hello)

/-- HELLO_SEND (R329, R332, R352). -/
def execHelloSend (r : Fin 32) (s : State) : Res :=
  whileClocked s (if sendsHello (s.race r) then .next (emitPlain s r (.hello (ownHello s r))) else .next s)

/-- The words of a Colophon's measurement section, bytes 0x000 to 0x10F, in the order of R453. -/
def colophonWords (c : ColophonRec) : List Nat :=
  [c.serial.toNat, c.variant] ++ c.fwHashes.map (·.toNat)
    ++ [c.calHash.toNat, c.frisketHash.toNat, c.frisketSeq.toNat, c.fwFloor.toNat, c.secver.toNat, c.keyHash.toNat]

/-- The digest of the current Colophon (R334, R364, R453). -/
def colophonDigest (s : State) : W256 := Config.sha256 (colophonWords s.sec.colophon)

/-- PART 0 and PART 1 of this end's ATTEST body leave (R333, R334, R338). -/
def sendBody (s : State) (r : Nat) : State :=
  let x := s.race r
  let inc := recordedInc s s.sec.self
  let body := attestBytes s.sec.jobId s.sec.self inc (s.sec.ctrs.getD (ctrKey r (.attestResult 0)) 1) x.chalOwn x.chalPeer (colophonDigest s)
  emitPlain (emitPlain s r (.attest false body.length (body.take 2048))) r (.attest true body.length (body.drop 2048))

/-- Both ends are admitted to the same job: ATTESTING, or the attestation of a recovery, and the body is sent (R329, R333, R352). Within 1 s of a
failure nothing starts (R329, R341). -/
def tryAttest (s : State) (r : Nat) : State :=
  let x := s.race r
  let ready := s.sec.phase == .admitted && x.peerAdmitted && x.peerJob == s.sec.jobId
  let y := { x with cand := none, attParts := [], ownResult := none, peerResult := none }
  if !ready then s
  else if x.state = .linked ∧ ¬ x.retryWait then sendBody (s.setRace r { y with state := .attesting }) r
  else if x.state = .retraining ∧ x.recover = .hello then sendBody (s.setRace r { y with recover := .attest }) r
  else s

/-- HELLO (R329, R332, R333, R352 step 5). -/
def execHello (r : Fin 32) (m : HelloMsg) (s : State) : Res :=
  whileClocked s (
    let x := s.race r
    if !m.crcOk then .next s
    else if !(sendsHello x) then .next s
    else if m.kverMajor ≠ 1 ∨ m.lanes ≠ x.lanes then .next (failRace s r)
    else
      .next (tryAttest (s.setRace r { x with
        state := if x.state = .retraining then .retraining else .linked, chalPeer := m.chal, peerSerial := m.serial, peerJob := m.jobId
        peerAdmitted := m.admitted, peerSlots := m.slots.toNat }) r))

/-- Whether the member table makes a member the twin of this package (R354, R440). -/
def isTwin (s : State) (member : Nat) : Bool := match memberOf s s.sec.self with | some me => decide (me.twin.toNat = member) | none => false

/-- The first failing check of an ATTEST body, or 0 (R334). -/
def attestCheck (s : State) (r : Nat) (a : AttestBody) : Nat :=
  let known := match memberOf s a.member.toNat with | some m => m.keyHash == a.keyHash | none => false
  if !a.certOk then 1
  else if !a.sigOk then 2
  else if !known || (isPairRace s r && !(isTwin s a.member.toNat)) then 3
  else if a.jobId ≠ s.sec.jobId then 4
  else if !a.proofOk then 5
  else if a.chalPeer ≠ (s.race r).chalOwn then 6
  else if a.inc.toNat < recordedInc s a.member.toNat then 7
  else if s.sec.frisket.keypol.getLsbD 2 && !((s.sec.frisket.digests.take s.sec.frisket.ndigest.toNat).contains a.digest) then 8
  else 0

/-- The journal records without an acknowledgement go out again on a pair Race (R403). -/
def resendJournal (s : State) (r : Nat) : State :=
  if pairActive s && isPairRace s r then s.pair.sentJ.foldl (fun s x => queueRace s r x.2) s else s

/-- ASSUME of a survivor on a Race (R407 to R409). -/
def announce (s : State) (r : Nat) : State := queueRace s r (.twin 0xA 0 [s.pair.twinMember, recordedInc s s.pair.twinMember] [])

/-- A pair Race that attests again ends an isolation (assumption 58). -/
def rejoin (s : State) (r : Nat) : State :=
  if isPairRace s r ∧ s.pair.phase = .isolated then { s with pair := { s.pair with phase := .paired } } else s

/-- Whether a sender has room for a new frame (R346). -/
def windowOk (x : Race) : Bool := decide (x.nextLsn ≤ x.peerAck + x.frameWindow)

/-- The first encrypted frame of an attested Race (R333 step 5). DESIGN CHOICE (assumption 124): it is a LINK ACK. -/
def firstSealed (s : State) (r : Nat) : State := queueRace s r (.linkAck (s.race r).rx.ack)

/-- A Race is ATTESTED to the member that it has verified. The numbering resumes with the same peer, and what is not acknowledged goes out again;
with another peer it starts at 1, and the frames return to their sources, whose paths have failed (R342, R350, R352). -/
def enterAttested (s : State) (r : Nat) : State :=
  let x := s.race r
  let s0 := s.nextFree
  let s1 :=
    match x.cand with
    | none => s0
    | some (m, inc) => { s0 with sec := { s0.sec with incs := s0.sec.incs.set m inc } }
  let z := { x with state := .attested, peer := x.cand, cand := none, attParts := [], recover := .lanes, timeouts := 0, tagFails := [] }
  let y :=
    if x.lastPeer = x.cand then { z with retxq := x.unacked.map (·.lsn) }
    else
      { z with lastPeer := x.cand, assumed := [], queue := [], retxq := [], resumeq := [], nextLsn := 1, unacked := [], rx := {}, peerAck := 0,
               frameWindow := 2 * x.peerSlots, slotLimit := x.peerSlots, slotsUsed := 0, slotsFreed := 0, rr := [] }
  let s2 := firstSealed (s1.setRace r { y with rttNs := min (Config.rtt s.freeCtr) 65535 }) r
  let s3 := if x.lastPeer = x.cand then s2 else resendJournal s2 r
  wakePaths (rejoin (if s.pair.phase = .sole ∧ (x.lastPeer ≠ x.cand ∨ isPairRace s r) then announce s3 r else s3) r)

/-- The paths on a Race move again. -/
def pumpRaceFlumes (s : State) (r : Nat) : State :=
  (s.flumes.map (·.1)).foldl (fun s f => match (s.flume f).path with | some (.race q) => if q.val = r then pump f s else s | _ => s) s

/-- Every frame above the peer's ACK_LSN is to go out again in LSN order, and the paths resume (R352 step 6). -/
def resumeFrames (s : State) (r : Nat) : State :=
  pumpRaceFlumes (s.updRace r (fun x => { x with resumeq := x.unacked.map (·.lsn), retxq := [] })) r

/-- The recovery of a Race completes with the same peer: ATTESTED again, a LINK RESUME, and the frames above the peer's ACK_LSN in LSN order (R352
step 6). -/
def endRecovery (s : State) (r : Nat) : State :=
  let s1 := s.updRace r (fun x => { x with
    state := .attested, peer := x.cand, cand := none, attParts := [], recover := .lanes, timeouts := 0, resumeq := x.unacked.map (·.lsn), retxq := [] })
  pumpRaceFlumes (if windowOk (s1.race r) then emitRace s1 r .linkResume else queueRace s1 r .linkResume) r

/-- A verification failed, with the code logged: LINKED for 1 s, or in a recovery FAILED (R329, R334, R352). -/
def attestFails (s : State) (r code : Nat) : State :=
  if (s.race r).state = .retraining then failRace (logEvent s evAttestFailure scRace r [code]) r
  else logEvent ((toLinked s r).updRace r (fun x => { x with retryWait := true })) evAttestFailure scRace r [code]

/-- Both results are 0: ATTESTED, or in a recovery ATTESTED again, where another MEMBER or INC fails it (R329, R333, R352 steps 5 and 6). -/
def attestPasses (s : State) (r : Nat) : State :=
  let x := s.race r
  if x.state ≠ .retraining then enterAttested s r
  else if x.cand = x.lastPeer then endRecovery s r
  else failRace s r

/-- The end of an attestation: both results are 0, or one is not. -/
def attestStep (s : State) (r : Nat) : State :=
  let x := s.race r
  match x.ownResult, x.peerResult with
  | some 0, some 0 => attestPasses s r
  | some 0, some k => attestFails s r k
  | some 0, none => s
  | some k, _ => attestFails s r k
  | none, some (k + 1) => attestFails s r (k + 1)
  | none, _ => s

/-- Whether a Race attests, or attests again in a recovery. -/
def attests (x : Race) : Bool := x.state == .attesting || (x.state == .retraining && x.recover == .attest)

/-- This end's verification of the peer's body, whose RESULT goes back in PART 2 (R333 step 4, R334). -/
def verifyBody (r : Nat) (a : AttestBody) (s : State) : State :=
  let k := attestCheck s r a
  let s1 := s.updRace r (fun x => { x with
    ownResult := some k, attResult := k, attParts := [], cand := if k = 0 then some (a.member.toNat, a.inc.toNat) else none })
  attestStep (emitPlain s1 r (.attestResult k)) r

/-- ATTEST (R332 to R334): a part of the peer's body, which is verified when both parts are here, or the peer's RESULT. -/
def execAttest (r : Fin 32) (a : AttestMsg) (s : State) : Res :=
  whileClocked s (
    let x := s.race r
    if !(attests x) then .next s
    else
      match a with
      | .part second body crcOk =>
        if !crcOk ∨ x.ownResult.isSome then .next s
        else if x.attParts.contains (!second) then .next (afterFlume (verifyBody r body s))
        else .next (s.setRace r { x with attParts := [second] })
      | .result code crcOk =>
        if !crcOk then .next s
        else .next (afterFlume (attestStep (s.setRace r { x with peerResult := some code.toNat, attResult := code.toNat }) r)))

/-- ATTEST_RETRY (R329, R341): 1 s has passed since the failure. -/
def execAttestRetry (r : Fin 32) (s : State) : Res :=
  whileClocked s (.next (tryAttest (s.updRace r (fun x => { x with retryWait := false })) r))

/-- FAILED_RETRY (R329, R356). -/
def execFailedRetry (r : Fin 32) (s : State) : Res :=
  whileClocked s (if (s.race r).state = .failed ∧ raceEnabled s r then .next (countRetrain (freshTraining s r) r) else .next s)

/-! ### Transmit order (R346, R348) -/

/-- Whether a new frame finds its credits (R346). -/
def creditOk (x : Race) (fr : Frame) : Bool :=
  windowOk x && (!(takesSlot fr) || (let d := (x.slotLimit + 65536 - x.slotsUsed % 65536) % 65536; decide (0 < d ∧ d < 32768)))

/-- Where a frame stands in the turns of its class: its bucket for a reduction, its Flume, or none (R348). -/
def turnKey : Frame → Nat
  | .red _ _ id _ _ _ _ => 2 * id.btag.toNat + 3
  | .redack _ _ id _ _ => 2 * id.btag.toNat + 3
  | fr => match frameFlume fr with | some f => 2 * f + 2 | none => 0

/-- The frames of a class that stand first for their Flume or bucket (R348). -/
def headFrames (q : List (Nat × Frame)) (cls : Nat) : List Frame :=
  let l := (q.filter (fun x => x.1 == cls)).map (·.2)
  ((l.map turnKey).eraseDups).filterMap (fun k => l.find? (fun f => turnKey f == k))

/-- The next of a list of frames after the turn of `rr`, in the order of their turns. -/
def nextTurn (l : List Frame) (rr : Nat) : Option Frame :=
  let o := l.mergeSort (fun a b => decide (turnKey a ≤ turnKey b))
  match o.find? (fun f => decide (rr < turnKey f)) with
  | some f => some f
  | none => o.head?

/-- What a Race sends next, among the frames whose payload can be read: what a LINK RESUME resends, in LSN order; then class by class a
retransmission, then the frame of the next Flume or bucket that finds its credits (R348, R352). -/
def nextFrame (x : Race) (readable : Frame → Bool) : Option (Sum Nat Frame) :=
  let may (n : Nat) (p : Unacked → Bool) : Bool := x.unacked.any (fun u => u.lsn == n && p u && readable u.frame)
  match x.resumeq.find? (fun n => may n (fun _ => true)) with
  | some n => some (.inl n)
  | none =>
    (List.range 6).findSome? (fun cls =>
      match x.retxq.find? (fun n => may n (fun u => u.cls == cls)) with
      | some n => some (.inl n)
      | none => (nextTurn ((headFrames x.queue cls).filter (fun f => creditOk x f && readable f)) (x.rr.getD cls 0)).map .inr)

/-! ### LINK frames (R343, R352) -/

/-- LINK_ACK_TIMER (R343): a received frame is not acknowledged, and nothing else can be sent. -/
def execLinkAckTimer (r : Fin 32) (s : State) : Res :=
  whileClocked s (
    let x := s.race r
    if x.state = .attested ∧ x.rx.sinceAck > 0 ∧ (nextFrame x (frameReadable s 2048)).isNone ∧ windowOk x then .next (emitRace s r (.linkAck x.rx.ack))
    else .next s)

/-- The numbers that a NACK names: BASE + i for each set bit. -/
def nackNumbers (base missing : Nat) : List Nat := ((List.range 64).filter (fun i => missing.testBit i)).map (base + ·)

/-- The full number of a 48-bit one near a reference. -/
def near48 (w : W48) (ref : Nat) : Nat :=
  let d := above48 w ref
  if d < 2 ^ 47 then ref + d else ref - (2 ^ 48 - d)

/-- A NACK: the named frames go out again (R343). -/
def nackActs (r : Nat) (base : W48) (missing : W64) (s : State) : State :=
  let x := s.race r
  let ns := (nackNumbers (near48 base x.peerAck) missing.toNat).filter (fun n =>
    x.unacked.any (fun u => u.lsn == n) && !(x.retxq.contains n) && !(x.resumeq.contains n))
  s.setRace r { x with retxq := x.retxq ++ ns }

/-! ### Transmission (R342 to R348) -/

/-- RETRANSMISSION_TIMEOUT (R344). -/
def execRetransmissionTimeout (r : Fin 32) (s : State) : Res :=
  whileClocked s (
    let x := s.race r
    match x.state, x.unacked with
    | .attested, u :: _ =>
      let s1 := s.setRace r { x with timeouts := x.timeouts + 1, retxq := if x.retxq.contains u.lsn then x.retxq else u.lsn :: x.retxq }
      .next (if x.timeouts + 1 ≥ 1000 then enterRetraining s1 r else s1)
    | _, _ => .next s)

/-- Removes the first waiting frame equal to one sent. -/
def dropQueued (q : List (Nat × Frame)) (fr : Frame) : List (Nat × Frame) := q.erase (frameClass fr, fr)

/-- FRAME_TRANSMIT (R239, R339, R342 to R348). A frame behind it in its Flume may follow. -/
def execFrameTransmit (r : Fin 32) (s0 : State) : Res :=
  let x := s0.race r
  if x.state ≠ .attested ∨ s0.board.haltedByClock then .next s0
  else
    let again := x.unacked.filter (fun u => x.retxq.contains u.lsn || x.resumeq.contains u.lsn)
    let s := (again.map (·.frame) ++ x.queue.map (·.2)).foldl (haltSender 2048) s0
    match nextFrame x (frameReadable s0 2048) with
    | some (.inl n) =>
      match x.unacked.find? (fun u => u.lsn == n) with
      | some u =>
        let y := { x with retxq := x.retxq.erase n, resumeq := x.resumeq.erase n, retx := satAdd x.retx 1 65535 }
        .next (emitNumbered (s.setRace r y) r n u.frame)
      | none => .next s
    | some (.inr fr) =>
      let s1 := emitRace (s.setRace r { x with queue := dropQueued x.queue fr, rr := x.rr.set (frameClass fr) (turnKey fr) }) r fr
      .next (match frameFlume fr with | some f => pump f s1 | none => s1)
    | none => .next s

/-! ### Lane failure (R351 to R353) -/

/-- LANE_FAILURE (R329, R351, R352 steps 1 and 2): the lane's transmitter goes idle, and an attested Race that uses the lane retrains; a failure
during a recovery starts it over. -/
def execLaneFailure (r : Fin 32) (lane : Fin 9) (s : State) : Res :=
  whileClocked s (
    let x := s.race r
    let bit := (1 : BitVec 9) <<< lane.val
    if x.state = .off ∨ x.state = .failed ∨ x.state = .unused ∨ (ownLanes s r ||| x.lanes) &&& bit = 0 then .next s
    else
      let s1 := noteLane (markBad s r bit) r 4
      .next (if (x.state = .attested ∨ x.state = .retraining) ∧ x.lanes.getLsbD lane then enterRetraining s1 r else s1))

/-- RETRAIN_RECOVERY (R352 steps 3 to 5): the lane set is chosen among the lanes that train again, the failed ones left out; it qualifies with
the given errors; the ends exchange HELLO and attest again. -/
def execRetrainRecovery (r : Fin 32) (good : BitVec 9) (errors : List Nat) (s : State) : Res :=
  whileClocked s (
    let x := s.race r
    if x.state ≠ .retraining ∨ x.recover ≠ .lanes then .next s
    else
      let failed := x.lanes &&& (s.racePort (r / 2)).idle
      let tried := ownLanes s r &&& ~~~failed
      let s1 := markBad (wakeLanes s r (tried &&& good)) r (tried &&& ~~~good)
      match laneSet s1 r (tried &&& good) x.sparePresent (if x.half && !x.wide then some (halfOf x.lanes) else none) with
      | none => .next (failRace s1 r)
      | some l =>
        let s2 := countRetrain (noteErrors (takeLanes r l s1) r errors) r
        let bad := badLanes (qualLanes s2 r) errors
        let s3 := markBad s2 r bad
        if bad &&& l.1 ≠ 0 then .next (failRace s3 r)
        else .next ((freshChallenge s3 r).updRace r (fun x => { x with recover := .hello })))

end Sys2Proof.Machine
end

