-- ==== Sys2Proof/Machine/HostPort.lean ====
section
/-!
DEFINITION. Host ports: discovery, cookies and sessions, their acknowledgement and windows, the neighbour cache (spec/13, R357 to R368).
-/

namespace Sys2Proof.Machine

/-! ### Replies outside sessions (R362 to R364) -/

/-- Whether the package is ready (R462, R477, R480). -/
def isReady (s : State) : Bool := (s.boot.stage == 7 || s.boot.stage == 8) && (s.boot.calPhase == 0 || s.boot.calPhase == 5)

/-- Whether a port hears packets: its link is up, the reference runs, and 300 ms have passed since power-good (R37, R362, R463). -/
def portHears (s : State) (p : Nat) : Bool := (s.host p).link && !(s.host p).disabled && decide (300000000 ≤ s.timeNs) && !s.board.haltedByClock

/-- A packet outside a session: nothing happens on a port that hears none; one that is not a whole Gwyn packet for the port is dropped and
counted; one whose CRC fails is dropped (R358, R359, R361, R362). -/
def hearPacket (p : Nat) (groups : Bool) (d : Datagram) (s : State) (act : State → State) : Res :=
  if !(portHears s p) then .next s
  else if !(packetOk s p groups d) then .next (dropAt s p)
  else if !d.crcOk then .next s
  else .next (act s)

/-- Takes a reply from the token bucket and sends it, or counts a rate drop (R363). -/
def rateReply (s : State) (p : Nat) (dst : NetAddr) (o : Out) : State :=
  let h := s.host p
  if h.bucket < 1000000000 then s.setHost p { h with rateDrops := satAdd h.rateDrops 1 65535 }
  else sendIp (s.setHost p { h with bucket := h.bucket - 1000000000 }) p dst.addr o

/-- RETRY_MS: the estimate rounded up to 100 ms, at least 100 ms; 0xFFFF after a failed bring-up (R463). -/
def retryMs (s : State) : Nat := if s.boot.stage = 15 then 0xFFFF else max 100 ((Config.retryEstimate s.freeCtr + 99) / 100 * 100)

/-- STATE of ADVERT (R364). -/
def advertState (s : State) : Nat :=
  (match s.sec.phase with | .noJob => 0 | .admitted => 1 | .scrubbing => 2) + (if s.boot.degraded then 4 else 0)

def variantCode (s : State) : Nat := (match s.part.variant with | .e => 0 | .m => 1 | .t => 2) + (if s.part.guestBuild then 128 else 0)

/-- Sessions that are not free. -/
def usedSessions (s : State) (p : Nat) : Nat := (s.host p).sessions.length

/-- DISCOVER (R361 to R364). -/
def execDiscover (p : Fin 2) (d : Datagram) (s : State) : Res :=
  hearPacket p false d s (fun s =>
    if d.udpLen < 144 then s
    else if isReady s then
      rateReply s p d.src (.advert p d.src s.part.serial (if s.sec.phase = .admitted then s.sec.jobId else 0) (colophonDigest s) (advertState s)
        (variantCode s) (64 - usedSessions s p))
    else rateReply s.nextFree p d.src (.notReady p d.src (retryMs s)))

/-! ### Sessions (R365 to R367) -/

/-- The address that a packet was sent to. -/
def destOf (d : Datagram) : W128 := match d.dst with | .own a => a | .group _ => 0

/-- The cookie of a requester under the secret of an epoch (R365). -/
def cookieFor (s : State) (d : Datagram) (prev : Bool) : W128 :=
  Config.cookie (if prev then s.cookiePrev else s.cookieSecret) d.src.addr d.src.port (destOf d) (if prev then s.cookieEpoch - 1 else s.cookieEpoch)

def giveCookie (s : State) (p : Nat) (d : Datagram) : State := rateReply s p d.src (.cookie p d.src (cookieFor s d false))

/-- SOPEN, first form (R361 to R363, R365). -/
def execSopenFirstForm (p : Fin 2) (d : Datagram) (s : State) : Res :=
  hearPacket p false d s (fun s => if !(isReady s) ∨ d.udpLen < 144 then s else giveCookie s p d)

/-- A session is freed: its slots return, and what it had not acknowledged goes back to its sources, whose paths have failed (R366, R367). -/
def freeSession (s : State) (p n : Nat) : State :=
  let x := s.session p n
  losePaths (.host (Fin.ofNat 2 p) (Fin.ofNat 64 n))
    (s.updHost p (fun h => { h with sessions := h.sessions.erase n, slotsFree := h.slotsFree + x.window }))

/-- A session becomes BROKEN: the paths on it fail (R367). -/
def breakSession (p n : Nat) (s : State) : State :=
  losePaths (.host (Fin.ofNat 2 p) (Fin.ofNat 64 n)) (s.setSession p n { s.session p n with state := .broken })

/-- Whether REPLACES names a session of the same member (R365). -/
def replacesOk (s : State) (p member : Nat) (replaces : W16) : Bool :=
  match Tbl.find? (s.host p).sessions replaces.toNat with
  | some x => decide (x.member = member)
  | none => false

/-- What a failure of R340 steps 1, 3 or 4 counts; none when they pass. -/
def sopenFails (s : State) (p : Nat) (h : FrameHdr) : Option State :=
  if h.ver ≠ 1 ∨ !h.typeOk then some (dropAt s p)
  else if !h.tagOk then some (authFailAt s p)
  else if !(freshCtr s h) then some (dropAt s p)
  else none

/-- The reason of a refusal, or 0, and what its check counts (R340 steps 1 to 4, R365). -/
def sopenRefusal (s : State) (p : Nat) (h : FrameHdr) (jobId : W128) (replaces : W16) : Nat × State :=
  let m := h.member.toNat
  let host := match memberOf s m with | some x => x.host | none => false
  let back := replacesOk s p m replaces
  if s.sec.phase ≠ .admitted then (2, s)
  else
    match sopenFails s p h with
    | some s1 => (1, s1)
    | none =>
      if jobId ≠ s.sec.jobId then (1, s)
      else if !host ∨ h.inc.toNat < recordedInc s m then (4, s)
      else if (64 ≤ usedSessions s p ∨ (s.host p).slotsFree = 0) ∧ ¬ back then (3, s)
      else (0, s)

/-- Opens a session for a member, and answers with a sealed SOPENACK (R365, R366, R368). -/
def openSession (s : State) (p : Nat) (h : FrameHdr) (segsize : Bool) (window : Nat) : State :=
  let src := h.net.src
  let hp := s.host p
  let n := ((List.range 64).find? (fun i => (Tbl.find? hp.sessions i).isNone)).getD 0
  let w := min (min window 256) hp.slotsFree
  let seg := if segsize then 8192 else 1024
  let x : Session := { state := .openS, addr := src, member := h.member.toNat, inc := h.inc.toNat, segsize := seg, window := w,
                       age := (s.host 0).nextAge + (s.host 1).nextAge, peerWindow := window }
  let s1 := s.setHost p { hp with sessions := hp.sessions.set n x, slotsFree := hp.slotsFree - w, nextAge := hp.nextAge + 1 }
  let s2 := seeCtr { s1 with sec := { s1.sec with incs := s1.sec.incs.set h.member.toNat h.inc.toNat } } h
  let (ctr, s3) := drawCtr s2 (n * 4 + 3)
  sendIp s3 p src.addr (.sopenack p src n seg w (sopenackWire s.sec.jobId n seg s.sec.self (recordedInc s s.sec.self) ctr w))

/-- SOPEN, second form (R340, R358, R363, R365, R366). To a destination that cannot be reached no session opens. -/
def execSopenSecondForm (p : Fin 2) (h : FrameHdr) (cookie : W128) (jobId : W128) (segsize : Bool) (window : W16) (replaces : W16) (s : State) : Res :=
  let d := h.net
  if !(portHears s p) then .next s
  else if !(packetOk s p false d) then .next (dropAt s p)
  else if !(isReady s) ∨ d.udpLen < 144 then .next s
  else if cookie ≠ cookieFor s d false ∧ ¬ (s.cookieEpoch ≥ 1 ∧ cookie = cookieFor s d true) then .next (giveCookie s p d)
  else
    match sopenRefusal s p h jobId replaces with
    | (0, s1) =>
      if (nextHop s1 p d.src.addr).isNone then .next (dropAt s1 p)
      else
        let s2 := if replacesOk s1 p h.member.toNat replaces then freeSession s1 p replaces.toNat else s1
        .next (afterFlume (wakePaths (openSession s2 p h segsize window.toNat)))
    | (k, s1) => .next (rateReply s1 p d.src (.sopenRefused p d.src k))

/-- COOKIE_EPOCH (R365). -/
def execCookieEpoch (s : State) : Res :=
  .next { s.nextFree with cookiePrev := s.cookieSecret, cookieSecret := Config.secret s.freeCtr, cookieEpoch := s.cookieEpoch + 1 }

/-! ### Acknowledgement and windows (R366) -/

/-- The window halves, once in each round trip and to no fewer than 4 packets (R366). -/
def halve (s : State) (p n : Nat) : State :=
  let x := s.session p n
  if (match x.halved with | some t => decide (s.timeNs < t + Config.rtt (p * 64 + n)) | none => false) then s
  else s.setSession p n { x with cwnd := max 4 (x.cwnd / 2), halved := some s.timeNs }

/-- What an ACK does: a rise of CE_COUNT halves the window (R366). -/
def ackActs (p n : Nat) (ceCount : W32) (s : State) : State :=
  let x := s.session p n
  let s1 := if x.peerCe.toNat < ceCount.toNat then halve s p n else s
  sessionPump (s1.setSession p n { s1.session p n with peerCe := ceCount }) p n

/-- A numbered packet goes out again with the same PSN and a new counter (R343, R366). -/
def resendPacket (p n : Nat) (s : State) (u : Unacked) : State :=
  let x := s.session p n
  if !(frameReadable s x.segsize u.frame) then haltSender x.segsize s u.frame
  else emitPacket (s.updHost p (fun h => { h with retx := satAdd h.retx 1 65535 })) p n u.lsn u.frame

/-- What a NACK does (R343, R366). -/
def sessionNackActs (p n : Nat) (base : W48) (missing : W64) (s : State) : State :=
  let x := s.session p n
  let ns := nackNumbers (near48 base x.peerAck) missing.toNat
  (x.unacked.filter (fun u => ns.contains u.lsn)).foldl (resendPacket p n) (halve s p n)

/-- SESSION_ACK_TIMER (R366). -/
def execSessionAckTimer (p : Fin 2) (session : Fin 64) (s : State) : Res :=
  whileClocked s (
    let x := s.session p session
    if x.state = .openS ∧ x.rx.sinceAck > 0 then .next (queueSession s p session (.linkAck x.rx.ack)) else .next s)

/-- SESSION_RETRANSMISSION_TIMEOUT (R366, R367). -/
def execSessionRetransmissionTimeout (p : Fin 2) (session : Fin 64) (s : State) : Res :=
  whileClocked s (
    let x := s.session p session
    match x.state, x.unacked with
    | .openS, u :: _ =>
      let s1 := s.setSession p session { x with timeouts := x.timeouts + 1 }
      .next (if x.timeouts + 1 ≥ 64 then breakSession p session s1 else halve (resendPacket p session s1 u) p session)
    | _, _ => .next s)

/-- What SCLOSE does: it is acknowledged, and the session is freed (R367). -/
def scloseActs (p n : Nat) (s : State) : State :=
  let x := s.session p n
  freeSession (emitPacket (s.setSession p n { x with nextPsn := x.nextPsn + 1 }) p n x.nextPsn (.linkAck x.rx.ack)) p n

/-- The receiving side after a number, whatever comes of the packet. -/
def RxLink.taken (x : RxLink) (no : W48) (c : Instr) (now rtt : Nat) : RxLink :=
  match x.take no c now rtt with
  | .deliver y => y
  | .early y _ => y
  | .old y => y

/-- SCLOSE in a BROKEN session, which takes nothing else (R340, R361, R367). -/
def scloseBroken (p n : Nat) (h : FrameHdr) (s : State) : State :=
  let x := s.session p n
  if !(s.host p).link ∨ s.board.haltedByClock then s
  else if !(packetOk s p false h.net) ∨ h.ver ≠ 1 ∨ !h.typeOk ∨ x.addr ≠ h.net.src ∨ x.member ≠ h.member.toNat ∨ x.inc ≠ h.inc.toNat then dropAt s p
  else if !h.tagOk then authFailAt s p
  else if !(freshCtr s h) then dropAt s p
  else
    let rx := x.rx.taken h.seqNo (.sclose h) s.timeNs (Config.rtt (p * 64 + n))
    scloseActs p n ((seeCtr s h).setSession p n { x with rx := rx })

/-! ### Links (R357, R367) -/

/-- HOST_PORT_LINK_LOSS (R367). -/
def execHostPortLinkLoss (p : Fin 2) (s : State) : Res :=
  let s1 := s.updHost p (fun h => { h with link := false })
  .next (((s.host p).sessions.filter (fun x => x.2.state == .openS)).foldl (fun s x => breakSession p x.1 s) s1)

/-- HOST_PORT_LINK_UP (R357, R375, R463): RATE of ETH_CFG_p sets the rate of a module interface, and auto-negotiation gives it where RATE is
0b00. -/
def execHostPortLinkUp (p : Fin 2) (rate : BitVec 2) (s : State) : Res :=
  whileClocked s (
    let h := s.host p
    let now := if h.cfg.extractLsb' 1 2 = 0 then rate else h.cfg.extractLsb' 1 2
    if h.cfg.getLsbD 0 ∧ ¬ h.disabled ∧ s.board.pwrgood ∧ now ≠ 0 then .next (s.setHost p { h with link := true, rateNow := now }) else .next s)

/-! ### Neighbours (R358, R359) -/

/-- NEIGHBOUR_SOLICITATION (R358, R362, R484): one that is not for an address of the port, or carries a tag that the port does not take, is
dropped, and counted at a host port. -/
def execNeighbourSolicitation (port : Fin 3) (target : W128) (v4 : Bool) (tags : List (BitVec 12)) (s : State) : Res :=
  let up := if port.val = 2 then s.mil.link else portHears s port
  if !up then .next s
  else if tagsOk s port tags && ownAddress s port target v4 then .next (s.emit (.neighbour port target v4))
  else .next (if port.val = 2 then s else dropAt s port)

/-- The cache with a new entry, at most 1,024 of them (R359). -/
def withNeigh (l : List (W128 × W48)) (a : W128) (mac : W48) : List (W128 × W48) := ((a, mac) :: l.filter (fun e => e.1 != a)).take 1024

/-- NEIGHBOUR_RESOLUTION (R359): the packets behind the entry leave. -/
def execNeighbourResolution (port : Fin 3) (addr : W128) (mac : W48) (s : State) : Res :=
  if port.val ≠ 2 ∧ s.board.haltedByClock then .next s
  else
    let s1 := if port.val = 2 then { s with mil := { s.mil with neigh := withNeigh s.mil.neigh addr mac } }
              else s.updHost port (fun h => { h with neigh := withNeigh h.neigh addr mac })
    let ready (w : Nat × W128 × Out) : Bool := w.1 == port.val && w.2.1 == addr
    .next { s1 with out := s1.out ++ (s1.ipWait.filter ready).map (·.2.2), ipWait := s1.ipWait.filter (fun w => !(ready w)) }

end Sys2Proof.Machine
end

