-- ==== Sys2Proof/Machine/Twin.lean ====
section
/-!
DEFINITION. Pair mode at the twin: the journal's records and how they are applied to the mirror, JACK, repair by RFETCH, the hold time,
LEAVE, ASSUME and takeover (spec/15, R399 to R411).
-/

namespace Sys2Proof.Machine

/-! ### The mirror (R381, R399) -/

/-- The mirror of the twin's page. -/
def mirrorPage (v : Nat) : Nat := 262144 + v

/-- The takeover contexts, in increasing number. -/
def takeoverCtxs (s : State) : List Nat := (List.range 32).filter (fun c => s.pair.tkoMask.getLsbD c)

/-- The takeover context that mirrors a context of the twin: rank for rank, the twin's own contexts being those outside the mask
(assumption 59). -/
def mirrorCtx (s : State) (c : Nat) : Option Nat :=
  (takeoverCtxs s)[((List.range c).filter (fun k => !(s.pair.tkoMask.getLsbD k))).length]?

/-- Whether a mirror page can take what a record names. -/
def mirrorMapped (s : State) (v : Nat) : Bool := decide (v < 262144) && (s.page (mirrorPage v)).state != .unmapped

/-- The page list behind a mirror page, through NEXT. -/
def mirrorList (s : State) : Nat → Nat → List Nat
  | 0, _ => []
  | n + 1, p => p :: mirrorList s n (s.page p).next

/-- A mirror page that joins a page list leaves the free list (R224, R408). -/
def leaveFreeList (s : State) (p : Nat) : State :=
  let c := (s.page p).owner
  if (s.ctx c).free.contains p then
    let l := (s.ctx c).free.filter (· != p)
    (chainPages none l s).updCtx c (fun x => { x with free := l })
  else s

/-- One JIMP record: the page's place in its list and SHARED (R221, R402). -/
def applyImp (s : State) (r : ImpRec) : State :=
  let p := mirrorPage r.vpage.toNat
  let s1 := leaveFreeList s p
  s1.setPage p { s1.page p with
    last := r.entry.getLsbD 59, next := mirrorPage (r.entry.extractLsb' 40 19).toNat, shared := r.entry.getLsbD 34 }

/-! ### Applying a record (R401 to R403, R408) -/

/-- The journaled state of a Flume. -/
def State.twinFlume (s : State) (f : Nat) : Nat × Nat × Nat × Nat := s.pair.twinFlumes.getD f (0, 0, 0, 0)

def State.setTwinFlume (s : State) (f : Nat) (v : Nat × Nat × Nat × Nat) : State :=
  { s with pair := { s.pair with twinFlumes := s.pair.twinFlumes.set f v } }

/-- JENTRY: the accepted entry of a takeover context. NEXT_GRANT is the number of the grant that follows (assumption 60). -/
def applyEntry (c bwd : Nat) (e : EntryImg) (nextGrant : Nat) (s : State) : State :=
  let h := 2 * c + bwd
  let f := e.flume.toNat
  let key := match entryOfSeq s f e.seq.toNat with | some (k, _) => k | none => s.nextEntry
  let v : Entry :=
    { hopper := h, state := .ready, flume := f, seq := e.seq.toNat, step := e.step, mbid := e.mbid, edition := e.edition, len := e.len.toNat
      rcpt := e.rcpt, pushed := e.pushed, outFlume := e.outFlume.toNat, outSeq := e.outSeq.toNat
      inPages := mirrorList s e.inPages.toNat (mirrorPage e.inHead.toNat), accNo := e.accNo.toNat, abandoned := e.abandoned
      grantNo := e.grantNo.toNat }
  let s1 := { s with nextEntry := max s.nextEntry (key + 1), pool := s.pool.set key v }
  let (q, i, u, st) := s1.twinFlume f
  (s1.setTwinFlume f (max q e.seq.toNat, max i (nextGrant - 1), max u e.grantNo.toNat, st)).setHopper h
    { s.hopper h with accNo := (e.accNo.toNat + 1) % 65536 }

/-- JPUSH: the entry of an inbound Flume's sequence number has an output. -/
def applyPush (f seq outF outSeq : Nat) (s : State) : State :=
  let s1 :=
    match entryOfSeq s f seq with
    | some (k, v) => s.setEntry k { v with pushed := true, outFlume := outF, outSeq := outSeq }
    | none => s
  let (q, i, u, st) := s1.twinFlume outF
  s1.setTwinFlume outF (max q outSeq, i, u, st)

/-- JED: an Edition entry of a mirrored shard, by its number, and SETTLED; REFCOUNT belongs to the origin's entries (assumption 61). -/
def applyEd (sh state num head n settled : Nat) (s : State) : State :=
  let x := s.shard sh
  let old := (edsOf s sh).find? (fun e => e.2.number == num)
  let st : EdState := match state with | 1 => .filling | 2 => .pending | 3 => .committed | 4 => .retiring | _ => .free
  let pages := mirrorList s n (mirrorPage head)
  let s1 :=
    if st = .free then
      match old with
      | some (k, v) =>
        (v.pages.foldl (fun s p => s.setPage p { s.page p with shared := false }) s).setEd k { owner := v.owner }
      | none => s
    else
      let k := match old with | some (k, _) => k | none => freeEd s
      s.setEd k { state := st, shard := sh, owner := x.owner, number := num, pages := pages }
  if settled = 0 ∧ st ≠ .committed ∧ st ≠ .retiring ∧ x.settled.isNone then s1
  else s1.setShard sh { x with settled := some settled, opened := if st = .filling then some num else x.opened }

/-- ED_LSCALE_c from its word (R144). -/
def lscaleOf (w : W64) : LScale :=
  { lsExp := w.extractLsb' 0 8, lsMin := w.extractLsb' 8 8, lsMax := w.extractLsb' 16 8, growth := w.extractLsb' 24 16
    goodRun := w.extractLsb' 40 16 }

/-- One issue or completion record of a JSTEP. -/
def applyStepRec (c : Nat) (s : State) (r : StepRec) : State :=
  let k := (c, r.btag.toNat, r.step.toNat)
  if r.completed then
    let s1 := { s with pair := { s.pair with twinIssued := s.pair.twinIssued.filter (· != k) } }
    s1.updCtx c (fun x => { x with completed := x.completed.set r.btag.toNat (max r.step.toNat (x.completed.getD r.btag.toNat 0)) })
  else if s.pair.twinIssued.contains k then s
  else { s with pair := { s.pair with twinIssued := s.pair.twinIssued ++ [k] } }

/-- JSTEP: a step's status, the loss scale and RSTEP. -/
def applyStep (c n : Nat) (lscale : W64) (final nonfinite closed : Bool) (rstep : Nat) (recs : List StepRec) (s : State) : State :=
  let s1 := s.updCtx c (fun x =>
    let i := x.step n
    let y := x.setStep n { i with final := final, nonfinite := nonfinite, closed := closed }
    { y with lscale := lscaleOf lscale, rstep := rstep
             finalStep := if closed then some (match x.finalStep with | some f => max f n | none => n) else x.finalStep })
  recs.foldl (applyStepRec c) s1

/-- JPEER: the steps of a peer's last token and notice; zero stands for no notice (assumption 62). -/
def applyPeer (c j token notice : Nat) (s : State) : State :=
  match (s.ctx c).peers[j]? with
  | none => s
  | some p =>
    let q := { p with lastToken := some token, lastNotice := if notice = 0 then p.lastNotice else some notice }
    s.updCtx c (fun x => { x with peers := x.peers.set j q })

/-- What applying a record comes to (R402, R403). -/
inductive Applied where
  | done (s : State)
  | unmapped (v : Nat)
  | malformed

/-- For a record about a context of the twin. -/
def onMirror (s : State) (c : Nat) (act : Nat → Applied) : Applied :=
  match mirrorCtx s c with
  | some k => act k
  | none => .malformed

/-- Applies a record of the twin's journal. -/
def applyRecord (s : State) : Instr → Applied
  | .jwrite _ v u bs =>
    if mirrorMapped s v.toNat then .done (storeBytes s (cellsAt (mirrorPage v.toNat * 2 ^ 20 + u.toNat * 2048) bs)) else .unmapped v.toNat
  | .jimp _ recs =>
    match recs.find? (fun r => !(mirrorMapped s r.vpage.toNat)) with
    | some r => .unmapped r.vpage.toNat
    | none => .done (recs.foldl applyImp s)
  | .jentry _ c bwd e g =>
    onMirror s c.val (fun k =>
      match (mirrorList s e.inPages.toNat (mirrorPage e.inHead.toNat)).find? (fun p => (s.page p).state == .unmapped) with
      | some p => .unmapped (p - 262144)
      | none => .done (applyEntry k bwd.toNat e g.toNat s))
  | .jpush _ f seq o oseq => .done (applyPush f.toNat seq.toNat o.toNat oseq.toNat s)
  | .jflume _ f seq issued used st =>
    if 4 < st.toNat then .malformed else .done (s.setTwinFlume f.toNat (seq.toNat, issued.toNat, used.toNat, st.toNat))
  | .jed _ sh st num _ head n settled =>
    if 4 < st.toNat then .malformed
    else if st = 0 then .done (applyEd sh.toNat 0 num.toNat head.toNat 0 settled.toNat s)
    else
      match (mirrorList s n.toNat (mirrorPage head.toNat)).find? (fun p => (s.page p).state == .unmapped) with
      | some p => .unmapped (p - 262144)
      | none => .done (applyEd sh.toNat st.toNat num.toNat head.toNat n.toNat settled.toNat s)
  | .jstep _ c n ls final nf closed rstep recs => onMirror s c.val (fun k => .done (applyStep k n.toNat ls final nf closed rstep.toNat recs s))
  | .jpeer _ c j token notice => onMirror s c.val (fun k => .done (applyPeer k j.val token.toNat notice.toNat s))
  | _ => .malformed

/-- JACK with the highest number applied (R403); it stays due while no pair Race can carry it (assumption 139). -/
def sendJack (s : State) : State :=
  if (livePairRace s).isNone then s else sendTwin { s with pair := { s.pair with sinceAck := 0 } } 8 [s.pair.applied] []

/-- A record has been applied; after 64 of them a JACK is due (R403). -/
def countApplied (s : State) : State :=
  let s1 := { s with pair := { s.pair with applied := s.pair.applied + 1, sinceAck := s.pair.sinceAck + 1 } }
  if s1.pair.sinceAck ≥ 64 then sendJack s1 else s1

/-- Applies the next record if it is here (R402, R403); `fresh` is the number of a record that has just arrived, whose failure is logged. -/
def applyNext (fresh : Nat) (s : State) : State × Bool :=
  let n := s.pair.applied + 1
  match List.find? (fun r : Nat × Instr => r.1 == n) s.pair.early with
  | none => (s, false)
  | some r =>
    if s.pair.stopped then (s, false)
    else
      match applyRecord s r.2 with
      | .done s1 => (countApplied { s1 with pair := { s1.pair with early := s1.pair.early.filter (fun x => x.1 != n) } }, true)
      | .unmapped v => (if n = fresh then logEvent s evMirrorUnmapped scPage (mirrorPage v) [n] else s, false)
      | .malformed => (logEvent { s with pair := { s.pair with stopped := true } } evJournalMalformed scPackage 0 [n], false)

def applyMany (fresh : Nat) : Nat → State → State
  | 0, s => s
  | k + 1, s =>
    match applyNext fresh s with
    | (s1, true) => applyMany fresh k s1
    | (s1, false) => s1

/-- Applies every record whose turn has come (R403). -/
def applyEarly (fresh : Nat) (s : State) : State := applyMany fresh s.pair.early.length s

/-- A TWIN frame that has been received: it has an effect on a pair Race from the twin (R354, R402). -/
def onTwin (t : TwinHdr) (act : State → State) (s : State) : State :=
  match t.hdr.via with
  | .race r => if isPairRace s r then act s else dropFrame s t.hdr.via [15]
  | _ => dropFrame s t.hdr.via [15]

/-- What a numbered record of the journal does (R402, R403): it is applied in its turn, once; one that was applied before is discarded, and a JACK
is due again (assumption 139). -/
def journalActs (t : TwinHdr) (i : Instr) (s : State) : State :=
  onTwin t (fun s =>
    let n := t.jsn.toNat
    if !(pairActive s) ∨ s.pair.stopped then s
    else if t.reservedSet then logEvent { s with pair := { s.pair with stopped := true } } evJournalMalformed scPackage 0 [n]
    else if n ≤ s.pair.applied then { s with pair := { s.pair with sinceAck := max s.pair.sinceAck 1 } }
    else if s.pair.early.any (fun r => r.1 == n) then s
    else settle (applyEarly n { s with pair := { s.pair with early := s.pair.early ++ [(n, i)] } })) s

/-! ### Acknowledgement (R401, R403) -/

/-- Every context's reductions go on as far as they may. -/
def wakeAllRounds (s : State) : State :=
  let s1 := (s.galley.buckets.map (·.bid)).foldl (fun s b => retryRound b s) s
  (s1.ctxs.map (·.1)).foldl (fun s c => wakeReds c s) s1

/-- What waited for records up to n happens, in order. -/
def release (n : Nat) (s : State) : State :=
  let due := s.pair.held.filter (fun h => decide (h.1 ≤ n))
  let s1 := { s with pair := { s.pair with held := s.pair.held.filter (fun h => decide (n < h.1)) } }
  afterFlume (wakeAllRounds ((due.map (·.2)).foldl perform s1))

/-- What a JACK does (R401, R403). -/
def jackActs (t : TwinHdr) (ackJsn : W48) (s : State) : State :=
  onTwin t (fun s =>
    let n := ackJsn.toNat
    if !(pairActive s) ∨ n ≤ s.pair.ackJsn ∨ s.pair.nextJsn ≤ n then s
    else release n { s with pair := { s.pair with ackJsn := n, sentJ := s.pair.sentJ.filter (fun r => decide (n < r.1)) } }) s

/-- JOURNAL_ACK_TIMER (R403). -/
def execJournalAckTimer (s : State) : Res :=
  whileClocked s (if s.pair.sinceAck > 0 ∧ pairActive s then .next (sendJack s) else .next s)

/-! ### Takeover (R406 to R410) -/

/-- The highest step of a context that is closed, or none. -/
def unclosedFrom (x : Ctx) : Nat := match x.finalStep with | some f => f + 1 | none => x.firstStep

/-- The reserved entries of the grants that an inbound Flume had issued and not used, as far as pages are free. -/
def rebuildGrants (f : Nat) : List Nat → State → State
  | [], s => s
  | n :: rest, s =>
    let x := s.flume f
    match takePages s x.owner (grantPages s x) false with
    | none => s
    | some (l, s1) =>
      let e := s1.nextEntry
      let s2 := { s1 with
        nextEntry := e + 1, pool := s1.pool.set e { hopper := x.hopper, state := .granted, flume := f, inPages := l, grantNo := n } }
      rebuildGrants f rest (s2.updFlume f (fun x => { x with issued := x.issued ++ [(n, e)] }))

/-- A Flume of a takeover context takes its journaled state (R408 step 3). -/
def rebuildFlume (s : State) (f : Nat) : State :=
  let (seq, issued, used, st) := s.twinFlume f
  let state : FlumeState := match st with | 1 => .opening | 2 => .openF | 3 => .closing | 4 => .broken | _ => .closed
  let unused := (List.range (issued - used)).map (used + 1 + ·)
  let s1 := s.updFlume f (fun x => { x with
    state := state, seq := seq, tx := [], rx := none, path := none, pathLost := false, closeAsked := none, nextGrant := issued + 1, issued := []
    grants := if x.inbound then [] else unused })
  if (s1.flume f).inbound then rebuildGrants f unused s1 else s1

/-- The mirror pages that no list holds (R408 step 3). -/
def unheld (s : State) (c : Nat) : List Nat :=
  let held := s.pool.flatMap (fun x => x.2.inPages ++ x.2.outPages) ++ s.eds.flatMap (fun x => x.2.pages)
  let win (p : Nat) : Bool := s.shards.any (fun x => x.2.valid && !x.2.static && decide (x.2.win ≤ p) && decide (p < x.2.win + 2 * x.2.span))
  (s.mm.imp.filter (fun p => decide (262144 ≤ p.1) && p.2.state != .unmapped && p.2.owner == c && !p.2.shared && !(held.contains p.1) && !(win p.1))).map (·.1)

/-- Builds a takeover context from the mirror (R408 step 3). -/
def buildCtx (s : State) (c : Nat) : State :=
  let n := unclosedFrom (s.ctx c)
  let s1 := { s with pool := s.pool.filter (fun x => !(x.2.hopper / 2 == c && decide (x.2.step.toNat < n))) }
  let filling := (s1.eds.filter (fun e => e.2.owner == c && e.2.state == .filling))
  let s2 := filling.foldl (fun s e =>
    (e.2.pages.foldl (fun s p => s.setPage p { s.page p with shared := false }) s).setEd e.1 { owner := c }) s1
  let s3 := (updatedShards s2 c).foldl (fun s sh => setWindow s sh []) s2
  let free := unheld s3 c
  let s4 := (chainPages none free s3).updCtx c (fun x => { x with free := free })
  let order (s : State) (h : Nat) : State :=
    let hp := s.hopper h
    if hp.ordered then s.setHopper h { hp with nextStep := n, nextOrd := 0 } else s
  let s5 := order (order s4 (2 * c)) (2 * c + 1)
  ((s5.flumes.filter (fun f => f.2.owner == c)).map (·.1)).foldl rebuildFlume s5

/-- The takeover contexts that are loaded. -/
def loadedTakeovers (s : State) : List Nat := (s.ctxs.filter (fun x => x.2.takeover && x.2.state != .unloaded)).map (·.1)

/-- Takeover (R400, R408, R410, R411): it is refused with an event when the twin's incarnation is already 255. -/
def takeOver (s : State) : State :=
  if !(pairActive s) ∨ s.board.haltedByClock then s
  else
    let b := s.pair.twinMember
    let inc := recordedInc s b + 1
    if inc > 255 then logEvent s evTakeover scPackage 0 [b, 255]
    else
      let s1 := { s with
        pair := { s.pair with phase := .takingOver, sentJ := [], early := [], units := [] }
        sec := { s.sec with incs := s.sec.incs.set b inc } }
      let s2 := release s1.pair.nextJsn s1
      let cs := loadedTakeovers s2
      let s3 := cs.foldl buildCtx s2
      let s4 := s3.ctxs.foldl (fun s x => if x.2.takeover then s else s.updCtx x.1 (fun y => { y with quota := y.quotaAfter })) s3
      let s5 := ((List.range 32).filter (fun r => (s4.race r).state == .attested)).foldl announce s4
      let incomplete := !s5.pair.twinIssued.isEmpty
      let s6 := logEvent { s5 with pair := { s5.pair with phase := .sole, incompleteRed := incomplete } } evTakeover scPackage 0
        [b, inc, incomplete.toNat]
      let s7 :=
        if incomplete then { s6 with mil := { s6.mil with holds := s6.mil.holds ++ cs.map (fun c => (18, c)) } }
        else (cs.filter (fun c => !(s6.mil.holds.any (fun h => h.2 == c)))).foldl resumeCtx s6
      pumpSessions (afterFlume (wakeAllRounds (wakePaths s7)))

/-- What a LEAVE does (R406): the twin is lost. -/
def leaveActs (t : TwinHdr) (s : State) : State := onTwin t takeOver s

/-- Own contexts. -/
def ownCtxs (s : State) : List Nat := (s.ctxs.filter (fun x => !x.2.takeover && x.2.state != .unloaded)).map (·.1)

/-- A fenced package halts its own contexts and leaves the job (R407). -/
def fence (s : State) : State :=
  let s1 := (ownCtxs s).foldl haltCtx s
  logEvent { s1 with pair := { s1.pair with phase := .left } } evFenced scPackage 0 []

/-- Whether the member table pairs two members (R409, R440). -/
def paired (s : State) (a b : Nat) : Bool := match memberOf s a with | some m => decide (m.twin.toNat = b) | none => false

/-- Flumes of a member whose paths lie on other Races, or nowhere (R350, R409). -/
def movePaths (s : State) (b r : Nat) : State :=
  ((s.flumes.filter (fun f => decide (f.2.kind = 0) && f.2.peer == b)).map (·.1)).foldl (fun s f =>
    match (s.flume f).path with
    | some (.race q) => if q.val = r then s else wakePath f ((abandonRx s f).updFlume f (fun y => { y with path := none, pathLost := false }))
    | _ => wakePath f s) s

/-- ASSUME accepted at a far end (R409). -/
def assumeAt (r b inc : Nat) (s : State) : State :=
  let s1 := { s with sec := { s.sec with incs := s.sec.incs.set b inc } }
  let s2 := s1.updRace r (fun x => { x with assumed := (b, inc) :: x.assumed.filter (fun a => a.1 != b) })
  afterFlume (movePaths s2 b r)

/-- What an ASSUME does (R407, R409): it comes from the attested peer of any Race; one that fails a condition is discarded and logged. -/
def assumeActs (t : TwinHdr) (member : BitVec 12) (incNew : W8) (s : State) : State :=
  match t.hdr.via with
  | .race r =>
    let b := member.toNat
    if (s.race r).peer.map (·.1) = some t.hdr.member.toNat ∧ paired s t.hdr.member.toNat b ∧ recordedInc s b < incNew.toNat then
      (if b = s.sec.self then fence s else assumeAt r b incNew.toNat s)
    else dropFrame s t.hdr.via [15, b]
  | _ => dropFrame s t.hdr.via [15]

/-- PAIR_HOLD_TIMEOUT (R406, R411): both pair Races have been out of ATTESTED and RETRAINING for PAIR_HOLD_MS. Where takeover by the timer
is not permitted the package stays isolated (assumption 58). -/
def execPairHoldTimeout (s : State) : Res :=
  whileClocked s (
    let down := (pairRaces s).all (fun r => (s.race r).state != .attested && (s.race r).state != .retraining)
    if s.pair.phase ≠ .paired ∨ !down then .next s
    else
      let s1 := logEvent { s with pair := { s.pair with phase := .isolated } } evTwinUnreachable scPackage 0 []
      if s.pair.autoTko ∧ s.sec.self < s.pair.twinMember then .next (takeOver s1) else .next s1)

/-- A LEAVE to the twin (R402): 1 degraded, 2 management request, 3 Spur fault. -/
def leavePair (reason : Nat) (s : State) : State :=
  let s1 := sendTwin s 9 [reason] []
  let s2 := (ownCtxs s1).foldl haltCtx s1
  settle { s2 with pair := { s2.pair with phase := .left } }

/-! ### Mirror repair (R403) -/

/-- The unit that RFETCH names, at this package: MIRROR says that the page is the requester's own. -/
def fetchPage (vpage : Nat) (mirror : Bool) : Nat := if mirror then mirrorPage vpage else vpage

/-- Whether a 2 KiB unit can be read. -/
def unitReadable (s : State) (p u : Nat) : Bool := (rangeErr (readErr s) (p * 2 ^ 20 + u * 2048) 2048).isNone

/-- What an RFETCH does (R402, R403): the unit goes back, or BAD. -/
def rfetchActs (t : TwinHdr) (vpage : BitVec 19) (unit : BitVec 9) (mirror : Bool) (s : State) : State :=
  onTwin t (fun s =>
    let p := fetchPage vpage.toNat mirror
    let ok := unitReadable s p unit.toNat
    sendTwin s 0xC [vpage.toNat, unit.toNat, mirror.toNat, (!ok).toNat] (if ok then unitBytes s p unit.toNat else [])) s

end Sys2Proof.Machine
end

