-- ==== Sys2Proof/Machine/Job.lean ====
section
/-!
DEFINITION. Job control: the requests of a session, the load, reload and unload of contexts, maps, writes of bytes, Flume requests and the
host's recovery requests (R42, R223, R224, R248 to R251, R259, R268, R270, R271, R277 to R281, R292, R293, R296, R299, R369 to R371, R381,
R397, R400).
-/

namespace Sys2Proof.Machine

/-! ### Requests and responses (R369, R371) -/

/-- What a request comes to: it waits, or it answers with a STATUS and a detail. -/
inductive Answer where
  | wait
  | done (s : State) (status : Nat) (detail : List Nat)

/-- A refusal: nothing changes. Its detail names the first field in conflict (assumption 28). -/
def refuse (s : State) (status : Nat) (detail : List Nat) : Answer := .done s status detail

/-- STATUS and detail as a JOBRSP. -/
def jobrsp (j : JobHdr) (op status : Nat) (detail : List Nat) : Frame := .jobrsp j.reqid.toNat op status detail

/-! ### LOAD and RELOAD (R248, R249, R277 to R281, R296, R369, R400) -/

/-- A stage program, or its image code (R192, R208, R218). DESIGN CHOICE (assumption 113): an empty program, and one that does not end in
CHALT, have code 0x44 as a C sequence has. -/
def parseProgram (ws : List W64) : Except Nat (List SeqInstr) :=
  if ws.length > 4096 then .error 0x40
  else
    match parseSeq true Opcode.inStage ws.length ws with
    | .error e => .error e
    | .ok l =>
      match loopCheck 0 l, haltCheck l with
      | .error e, _ => .error e
      | .ok _, .error e => .error e
      | .ok _, .ok _ => .ok l

/-- Quern groups: at most eight, each of distinct Querns (R248). -/
def groupsOk (gs : List (List Nat)) : Bool :=
  decide (gs.length ≤ 8) && gs.all (fun g => g.all (fun q => decide (q < 128)) && decide (g.eraseDups.length = g.length))

/-- Order counters: a Quern and one of its four (R156). -/
def wgoOk (l : List (Nat × Nat)) : Bool := l.all (fun w => decide (w.1 < 128) && decide (w.2 < 4))

def hopSpecOk (h : HopSpec) : Bool :=
  decide (h.cap ≤ 32768) && decide (h.mbPerStep ≤ 0xFFFFF) && (!h.ordered || decide (1 ≤ h.mbPerStep)) && decide (h.retPages < 8192)
    && decide (h.outPages < 8192) && decide (h.nextOrd < 2 ^ 20)

def shardSpecOk (x : ShardSpec) : Bool := decide (1 ≤ x.span) && decide (x.span ≤ 524287) && decide (x.winPage < 2 ^ 19)

/-- The first operand of a LOAD, by its place in the list of R369, that is not within the widths of its registers (R155, R156, R274, R290,
R294, R324); 0 when every one is. -/
def loadField (m : LoadMsg) : Nat :=
  if !(groupsOk m.groups) then 3
  else if !(m.shards.all shardSpecOk) || !(decide ((m.shards.map (·.shard)).eraseDups.length = m.shards.length)) then 4
  else if !(decide (m.peers.length ≤ 32) && m.peers.all (fun p => decide (p.1 < 1024) && decide (p.2 < 1024))) then 5
  else if !(wgoOk m.wgo) then 6
  else if !(hopSpecOk m.fwd && hopSpecOk m.bwd) then 7
  else if 4096 < m.tagBase + m.tagCount then 8
  else if 16 < m.quota ∨ 16 < m.quotaAfter then 9
  else if 8192 < m.alloc then 10
  else 0

def loadedCtxs (s : State) : List (Nat × Ctx) := s.ctxs.filter (fun x => x.2.state ≠ .unloaded)

/-- Whether the groups would put a Quern into more than four contexts, or name one beyond the enabled count (R249). -/
def quernsRefused (s : State) (c : Nat) (gs : List (List Nat)) : Bool :=
  (gs.flatMap id).eraseDups.any (fun q =>
    decide (4 ≤ ((loadedCtxs s).filter (fun x => x.1 != c && (x.2.groups.flatMap id).contains q)).length)
      || (s.boot.degraded && (Tbl.find? s.boot.quernMap q).isNone))

/-- Whether pair mode holds for the job, up to takeover (R399, R411). -/
def pairMode (s : State) : Bool := s.pair.phase == .paired || s.pair.phase == .isolated || s.pair.phase == .takingOver

def takeoverCtx (s : State) (c : Nat) : Bool := (pairMode s || s.pair.phase == .sole) && s.pair.tkoMask.getLsbD c

/-- The Formes that quotas take after a takeover (R400). -/
def afterSum (s : State) : Nat := ((loadedCtxs s).map (fun x => if x.2.takeover then x.2.quota else x.2.quotaAfter)).sum

def quotaRefused (s : State) (c : Nat) (m : LoadMsg) : Bool :=
  let tko := takeoverCtx s c
  (!tko && decide (quotaSum s + m.quota > enabledFormes s))
    || (pairMode s && decide (afterSum s + (if tko then m.quota else m.quotaAfter) > enabledFormes s))

def tagsOverlap (s : State) (m : LoadMsg) : Bool :=
  (loadedCtxs s).any (fun x => overlap (x.2.tagBase, x.2.tagCount) (m.tagBase, m.tagCount))

def staticPages (m : LoadMsg) : Nat := ((m.shards.filter (·.static)).map (·.span)).sum

/-- The window of a shard as (first page, pages): a takeover context's lies in the upper half (R281). -/
def windowOf (tko : Bool) (x : ShardSpec) : Nat × Nat := (x.winPage + (if tko then 262144 else 0), if x.static then 0 else 2 * x.span)

/-- The windows that loaded shards claim. -/
def claimed (s : State) : List (Nat × Nat) := (s.shards.filter (fun x => x.2.valid && !x.2.static)).map (fun x => (x.2.win, 2 * x.2.span))

def pageClaimed (s : State) (p : Nat) : Bool := (claimed s).any (fun w => decide (w.1 ≤ p) && decide (p < w.1 + w.2))

/-- The first shard that the load may not have: it is loaded already, or its window covers a mapped page, a claimed page or a page beyond
524,287 (R281). -/
def shardRefused (s : State) (tko : Bool) (xs : List ShardSpec) : Option Nat :=
  let ws := xs.map (windowOf tko)
  match xs.find? (fun x =>
    let w := windowOf tko x
    (s.shard x.shard.toNat).valid || decide (w.1 + w.2 > 524288) || (claimed s).any (overlap w)
      || s.mm.imp.any (fun p => p.2.state ≠ .unmapped && decide (w.1 ≤ p.1) && decide (p.1 < w.1 + w.2))) with
  | some x => some x.shard.toNat
  | none => if disjoint ws then none else some 0

/-- Why a LOAD is refused, as STATUS and detail (R42, R249, R277, R279, R281, R296, R371, R400). -/
def loadRefusal (s : State) (m : LoadMsg) : Option (Nat × List Nat) :=
  let c := m.ctx.val
  let caps := ((loadedCtxs s).map (fun x => (s.hopper (2 * x.1)).cap + (s.hopper (2 * x.1 + 1)).cap)).sum
  let allocs := ((loadedCtxs s).map (·.2.alloc)).sum
  if s.sec.phase ≠ .admitted then some (3, [c])
  else if loadField m ≠ 0 then some (6, [loadField m])
  else if (s.ctx c).state ≠ .unloaded then some (3, [c])
  else if caps + m.fwd.cap + m.bwd.cap > 32768 then some (4, [1])
  else if quernsRefused s c m.groups then some (4, [2])
  else if tagsOverlap s m then some (4, [3])
  else if quotaRefused s c m then some (4, [4])
  else if allocs + m.alloc > 8192 ∨ (m.shards.filter (·.static)).length > m.alloc then some (4, [5])
  else if (s.ctx c).free.length < staticPages m then some (4, [6])
  else (shardRefused s (takeoverCtx s c) m.shards).map (fun n => (3, [n]))

def hopperOf (h : HopSpec) : Hopper :=
  { cap := h.cap, ordered := h.ordered, mbPerStep := h.mbPerStep, retPages := h.retPages, outPages := h.outPages,
    nextStep := h.nextStep.toNat, nextOrd := h.nextOrd }

/-- A shard is loaded; a static one gets its one Edition (R277, R279, R281). -/
def loadShard (c : Nat) (s : State) (x : ShardSpec) : State :=
  let n := x.shard.toNat
  let s1 := s.setShard n { valid := true, win := (windowOf (takeoverCtx s c) x).1, span := x.span, owner := c, static := x.static }
  if x.static then
    match takePages s1 c x.span true with
    | none => s1
    | some (l, s2) =>
      let e := freeEd s2
      journalEd (journalPages l.length l (s2.setEd e { state := .committed, shard := n, owner := c, number := 0, pages := l })) e
  else s1

/-- The state that a load leads to: a takeover context rests QUIESCED until takeover (R250, R400). -/
def loadState (s : State) (c : Nat) : CtxState := if takeoverCtx s c && s.pair.phase != .sole then .quiesced else .running

/-- The effect of an accepted LOAD; the lines that the context had pinned are released (R228). -/
def loadCtx (m : LoadMsg) (prog : List SeqInstr) (s : State) : State :=
  let c := m.ctx.val
  let old := s.ctx c
  let x : Ctx :=
    { state := loadState s c, program := prog, groups := m.groups, shards := m.shards.map (·.shard.toNat),
      peers := m.peers.map (fun p => { out := p.1, inn := p.2 }), firstStep := m.firstStep.toNat, rstep := m.firstStep.toNat,
      lscale := old.lscale, free := old.free, tagBase := m.tagBase, tagCount := m.tagCount, quota := m.quota, quotaAfter := m.quotaAfter,
      alloc := m.alloc, takeover := takeoverCtx s c }
  let s1 := ((s.setCtx c x).setHopper (2 * c) (hopperOf m.fwd)).setHopper (2 * c + 1) (hopperOf m.bwd)
  let s2 := resetOrder (loadQuerns s1 c m.groups) m.wgo
  releasePins (m.shards.foldl (loadShard c) s2) (· == c)

/-- LOAD (R40, R42, R142, R159, R208, R248 to R250, R277, R279, R281, R296, R299, R369, R399, R400). -/
def loadActs (msg : LoadMsg) (s : State) : Answer :=
  match loadRefusal s msg with
  | some (k, d) => refuse s k d
  | none =>
    match parseProgram msg.program with
    | .error code => refuse s 6 [code]
    | .ok prog => .done (settle (loadCtx msg prog s)) 0 []

/-- The buckets of a context that a test names end: their Formes are free and they never signal (R397). -/
def endBuckets (s : State) (c : Nat) (p : Bucket → Bool) : State :=
  (s.galley.buckets.filter (fun b => b.ctx == c && p b)).foldl (fun s b =>
    (dropBucket s b.bid).updCtx c (fun x => { x with pends := x.pends.filter (fun y => !(y.what == .red b.bid)) })) s

/-- Every context's reductions take the Formes that have become free. -/
def wakeAllReds (s : State) : State := (s.ctxs.map (·.1)).foldl (fun s c => wakeReds c s) s

/-- The reductions of a step that is to run again are counted afresh: those that still run, and those that its program issues again. -/
def recountStep (s : State) (c : Nat) (x : Ctx) (n : Nat) : Ctx :=
  let i := x.step n
  if i.final then x
  else x.setStep n { i with issued := (s.galley.buckets.filter (fun b => b.ctx == c && b.step == n)).length, done := 0, lastIssued := false, nonfinite := false }

def recountFrom (s : State) (c n : Nat) : State :=
  s.updCtx c (fun x => ((x.steps.map (·.1)).filter (fun m => decide (n ≤ m))).foldl (fun x m => recountStep s c x m) x)

/-- What a reload does: programs are abandoned, the Querns of the new groups are loaded, taken entries revert, pinned lines are released, the
new program starts (R159, R228, R250). -/
def reloadCtx (c : Nat) (groups : List (List Nat)) (wgo : List (Nat × Nat)) (prog : List SeqInstr) (s : State) : State :=
  let s1 := (ctxQuerns s c).foldl (fun s q => abandonOn s c q) s
  let s2 := revertEntries (revertEntries (resetOrder (loadQuerns s1 c groups) wgo) (2 * c) isTaken) (2 * c + 1) isTaken
  (releasePins s2 (· == c)).updCtx c (fun x => { x with
    state := loadState s c, program := prog, groups := groups, seqr := {}, tokens := [], hregs := [], disps := [], merged := none, pends := [],
    deferred := [], snaps := [], hpopStalled := false, resumeAfterDrain := false, err := none })

/-- RELOAD (R185, R249, R250, R369). What a load fixes beside the program and the groups stays as loaded (R248). -/
def reloadActs (msg : LoadMsg) (s : State) : Answer :=
  let c := msg.ctx.val
  let st := (s.ctx c).state
  if s.sec.phase ≠ .admitted then refuse s 3 [c]
  else if !(groupsOk msg.groups) then refuse s 6 [3]
  else if !(wgoOk msg.wgo) then refuse s 6 [6]
  else if st ≠ .stopped ∧ st ≠ .halted then refuse s 3 [c]
  else if quernsRefused s c msg.groups then refuse s 4 [2]
  else
    match parseProgram msg.program with
    | .error code => refuse s 6 [code]
    | .ok prog => .done (settle (reloadCtx c msg.groups msg.wgo prog s)) 0 []

/-! ### UNLOAD (R250, R251, R254, R282) -/

/-- A shard's window pages become UNMAPPED and unclaimed (R281). -/
def unloadShard (s : State) (n : Nat) : State :=
  let x := s.shard n
  let s1 := if x.static then s else aliasPages s x.owner x.win (2 * x.span) []
  { s1 with shards := Tbl.erase s1.shards n }

/-- Unloads a context: entries that are not released are logged as abandoned work; entries, Editions and pages return (R250, R282). -/
def unloadCtx (c : Nat) (s : State) : State :=
  let s1 := (ctxQuerns s c).foldl (fun s q => abandonOn s c q) s
  let s2 := { s1 with
    galley := { s1.galley with buckets := s1.galley.buckets.filter (fun b => b.ctx != c) }
    mm := { s1.mm with prefetch := s1.mm.prefetch.filter (fun p => p.ctx != c) }
    pair := { s1.pair with held := s1.pair.held.filter (fun h => match h.2 with | .signal k _ _ _ _ => k != c | .notice k _ => k != c | _ => true) } }
  let mine := s2.pool.filter (fun x => x.2.hopper / 2 == c)
  let s3 := mine.foldl (fun s x =>
    let s1 := if x.2.state = .granted then s else logEvent s evAbandoned scCtx c [x.2.step.toNat, x.2.mbid.toNat]
    releaseEntry s1 x.1) s2
  let s4 := ((s3.eds.filter (fun e => e.2.owner == c && e.2.state != .free)).map (·.1)).foldl freeEdition s3
  let s5 := (s4.ctx c).shards.foldl unloadShard s4
  let x := s5.ctx c
  ((s5.setCtx c { free := x.free, lscale := x.lscale }).setHopper (2 * c) {}).setHopper (2 * c + 1) {}

/-- A Flume of a context that is not CLOSED. -/
def openFlumeOf (s : State) (c : Nat) : Option Nat := (List.find? (fun x : Nat × Flume => x.2.owner == c && x.2.state != .closed) s.flumes).map (·.1)

/-- UNLOAD (R250, R251, R282). -/
def unloadActs (c : Fin 32) (s : State) : Answer :=
  if (s.ctx c).state = .unloaded then refuse s 3 [c.val]
  else
    match openFlumeOf s c with
    | some f => refuse s 3 [f]
    | none => .done (settle (wakeAllReds (unloadCtx c s))) 0 []

/-! ### MAP and UNMAP (R219, R221, R223, R224, R243, R381) -/

/-- n free frames from `cur` up, below `stop`, passing over the blocked ones; each step takes a frame or passes one blocked frame. -/
def takeFrames (stop : Nat) (blocked : List Nat) : Nat → Nat → Nat → List Nat
  | 0, _, _ => []
  | fuel + 1, n, cur =>
    if n = 0 ∨ stop ≤ cur then []
    else if blocked.contains cur then takeFrames stop blocked fuel n (cur + 1)
    else cur :: takeFrames stop blocked fuel (n - 1) (cur + 1)

/-- Frames that a map may not take: retired, in reserve, or behind a page (R223, R243). -/
def blockedFrames (s : State) : List Nat :=
  s.mm.retired ++ s.mm.reserve ++ (s.mm.imp.filter (fun p => p.2.state ≠ .unmapped && p.2.state ≠ .unbacked)).map (·.2.frame)

/-- The frames for n pages in an enabled Bin, in increasing number, if the Bin has that many. -/
def framesFor (s : State) (b n : Nat) : Option (List Nat) :=
  let blocked := blockedFrames s
  let l := takeFrames ((b + 1) * 131072) blocked (n + blocked.length) n (b * 131072)
  if l.length = n ∧ s.boot.binsEn.getLsbD b then some l else none

/-- The pages of own contexts that are mapped, and those that the windows of their shards claim (R281, R381). -/
def ownMapped (s : State) : Nat := (s.mm.imp.filter (fun p => decide (p.1 < 262144) && p.2.state ≠ .unmapped && !(pageClaimed s p.1))).length

def ownWindows (s : State) : Nat :=
  ((s.shards.filter (fun x => x.2.valid && !x.2.static && !(takeoverCtx s x.2.owner))).map (fun x => 2 * x.2.span)).sum

/-- The half that pair mode leaves for own contexts: 262,144 pages counting windows, of which at most 262,016 are mapped (R381). -/
def halfRefused (s : State) (first count : Nat) (owner : Nat) : Bool :=
  pairMode s && !(takeoverCtx s owner)
    && (decide (first + count > 262144) || decide (ownMapped s + count > 262016) || decide (ownMapped s + ownWindows s + count > 262144))

/-- The pages join the tail of the owner's free list (R224). -/
def appendFree (s : State) (c : Nat) (l : List Nat) : State :=
  let s1 := chainPages none l s
  let s2 := match (s1.ctx c).free.getLast?, l.head? with
    | some t, some h => s1.setPage t { s1.page t with next := h, last := false }
    | _, _ => s1
  s2.updCtx c (fun x => { x with free := x.free ++ l })

/-- Maps pages to frames. -/
def mapPages (s : State) (first : Nat) (frames : List Nat) (owner : Nat) (shared wp : Bool) : State :=
  let s1 := ((List.range frames.length).zip frames).foldl (fun s x =>
    s.setPage (first + x.1) { state := .mapped, wp := wp, owner := owner, shared := shared, frame := x.2 }) s
  if shared then s1 else appendFree s1 owner ((List.range frames.length).map (first + ·))

/-- MAP (R219, R221, R223, R224, R243, R369, R381, R403): records of the journal that waited for a page are applied. -/
def mapActs (first count : Nat) (owner : Fin 32) (shared wp : Bool) (bin : Fin 4) (s : State) : Answer :=
  if count = 0 then refuse s 6 [2]
  else if first + count > 524288 then refuse s 6 [1]
  else
    match (List.range count).find? (fun i => (s.page (first + i)).state ≠ .unmapped || pageClaimed s (first + i)) with
    | some i => refuse s 3 [first + i]
    | none =>
      if halfRefused s first count owner then refuse s 4 [6]
      else
        match framesFor s bin count with
        | none => refuse s 4 [6]
        | some l => .done (settle (wakeAllReds (applyEarly 0 (mapPages s first l owner shared wp)))) 0 []

/-- The pages that the moves in flight use. -/
def movePages (s : State) : List Nat :=
  s.querns.flatMap (fun q => q.2.moves.flatMap (fun m => m.tensors.flatMap (fun d => (d.addrs.map (· / 2 ^ 20)).eraseDups)))

/-- The UNBACKED page of lowest number. -/
def firstUnbacked (s : State) : Option Nat := (List.find? (fun p : Nat × ImpEnt => p.2.state == .unbacked) s.mm.imp).map (·.1)

/-- A freed frame that waits for its retirement is retired (R240); any other goes to the reserve of its Bin, then to the lowest UNBACKED page,
then to the free frames (R243). -/
def freeFrame (s : State) (f : Nat) : State :=
  let bin := f / 131072
  if s.mm.retiring.contains f then retireFrame f 3 s
  else if (s.mm.reserve.filter (fun g => g / 131072 == bin)).length < s.mm.reservePerBin then
    { s with mm := { s.mm with reserve := s.mm.reserve ++ [f] } }
  else
    match firstUnbacked s with
    | some p => s.setPage p { s.page p with state := .lost, frame := f }
    | none => s

/-- The tracked lines of a frame leave the Store without write-back (R223, R230). -/
def dropFrame_ (s : State) (f : Nat) : State :=
  ((s.mm.lines.filter (fun l => l.1 / 2048 == f)).map (·.1)).foldl dropLine s

/-- The frames of an unmapped page are given back: its marks are forgotten, its lines leave the Store, and a migration ends with both its
frames free (R223, R240, R242). -/
def releaseFrames (f : Nat) (s : State) : State :=
  let s1 := dropFrame_ s f
  let s2 := freeFrame { s1 with mm := { s1.mm with unreadable := s1.mm.unreadable.erase f, migr := s1.mm.migr.erase f } } f
  match s.mm.migr.find? f with
  | some (g, _) => freeFrame (dropFrame_ s2 g) g
  | none => s2

/-- Unmaps one page; the window of a shard aliases its frame and frees none, and an UNBACKED page has no frame (R223, R243, R281). -/
def unmapPage (s : State) (p : Nat) : State :=
  let e := s.page p
  let s1 := (leaveFreeList s p).setPage p {}
  if pageClaimed s p ∨ e.state = .unbacked then s1 else releaseFrames e.frame s1

/-- UNMAP (R223, R243, R369): it passes over pages that are UNMAPPED, and waits for the moves in flight that use the others. -/
def unmapActs (first count : Nat) (s : State) : Answer :=
  if count = 0 then refuse s 6 [2]
  else if first + count > 524288 then refuse s 6 [1]
  else
    let ps := ((List.range count).map (first + ·)).filter (fun p => (s.page p).state ≠ .unmapped)
    if (movePages s).any ps.contains then .wait
    else .done (ps.foldl unmapPage s) 0 [ps.length]

/-! ### PUT (R231, R240, R370) -/

/-- PUT (R222, R231, R240, R370, R401): it writes through WP; a granule marked unreadable that it covers in part is not written. -/
def putActs (addr : W48) (bytes : List W8) (s : State) : Answer :=
  let a := addr.toNat
  let p := a / 2 ^ 20
  if bytes.isEmpty then refuse s 6 [2]
  else if a + bytes.length > 2 ^ 39 ∨ (a + bytes.length - 1) / 2 ^ 20 ≠ p ∨ (s.page p).state = .unmapped then refuse s 7 [a]
  else
    let ws := cellsAt a bytes
    let as := ws.map (·.1)
    let bad := as.filter (uncovered s as)
    let ok := ws.filter (fun w => !(uncovered s as w.1))
    let s1 := flushUnits (storeBytes (clearData s (ok.map (·.1))) ok)
    match bad with
    | [] => .done s1 0 []
    | b :: _ => .done s1 3 [b / 64 * 64]

/-! ### Flume requests (R42, R259, R270, R271) -/

/-- Why an open is refused: not admitted or not CLOSED, a length that its kind does not allow, or one beyond OUT_PAGES (R42, R259, R270). -/
def fopenRefusal (s : State) (f : Nat) : Option (Nat × List Nat) :=
  let x := s.flume f
  let mib := (x.len + 2 ^ 20 - 1) / 2 ^ 20
  if s.sec.phase ≠ .admitted ∨ x.state ≠ .closed then some (3, [f])
  else if (x.kind = 3) ≠ (x.len = 0) then some (6, [8])
  else if x.kind = 3 ∧ x.inbound then some (6, [9])
  else if x.inbound ∧ x.ahead = 0 then some (6, [10])
  else if ¬ x.inbound ∧ (mib > (s.hopper (2 * x.owner)).outPages ∨ mib > (s.hopper (2 * x.owner + 1)).outPages) then
    some (4, [7, min (s.hopper (2 * x.owner)).outPages (s.hopper (2 * x.owner + 1)).outPages])
  else none

/-- FOPEN (R42, R44, R259, R270). -/
def fopenActs (f : Fin 1024) (s : State) : Answer :=
  match fopenRefusal s f with
  | some (k, d) => refuse s k d
  | none => .done (afterFlume (startOpen f s)) 0 []

/-- FCLOSE (R254, R271). -/
def fcloseActs (f : Fin 1024) (forced : Bool) (s : State) : Answer :=
  if (s.flume f).state = .closed then refuse s 3 [f.val] else .done (afterFlume (startClose f forced s)) 0 []

/-! ### Rewind, abandon and rollback (R268, R292, R293, R299, R397) -/

/-- The states in which the host's recovery requests act. -/
def atRest (x : Ctx) : Bool := x.state == .halted || x.state == .quiesced || x.state == .stopped

/-- A Hopper's entries of a step return to READY; HOP_NEXT of an ordered one falls to the step's first ordinal (R254, R268). -/
def rewindHopper (h n : Nat) (s : State) : State :=
  let back (e : Entry) : Bool := decide (e.step.toNat = n) && (e.state == .taken || e.state == .done)
  let s1 := { s with pool := Tbl.mapV s.pool (fun _ e => if e.hopper == h && back e then { e with state := .ready } else e) }
  let hp := s1.hopper h
  if hp.ordered && stepOrdLt (n, 0) (hp.nextStep, hp.nextOrd) then s1.setHopper h { hp with nextStep := n, nextOrd := 0 } else s1

/-- A rewind of a step in the named Hoppers: RSTEP falls to it, and its reductions are counted afresh (R142, R268, R299). -/
def rewindStep (c n : Nat) (fwd bwd : Bool) (s : State) : State :=
  let s1 := if fwd then rewindHopper (2 * c) n s else s
  let s2 := if bwd then rewindHopper (2 * c + 1) n s1 else s1
  recountFrom (s2.updCtx c (fun x => { x with rstep := min x.rstep n })) c n

/-- REWIND (R268, R299, R397): the host's rewind ends the buckets of the step and of those above it. -/
def rewindActs (c : Fin 32) (step : W32) (fwd bwd : Bool) (s : State) : Answer :=
  if !(atRest (s.ctx c)) then refuse s 3 [c.val]
  else
    let s1 := endBuckets s c (fun b => decide (step.toNat ≤ b.step))
    .done (settle (wakeAllReds (rewindStep c step.toNat fwd bwd s1))) 0 []

/-- The PENDING or FILLING Edition of a shard becomes FREE (R292). -/
def abandonShard (s : State) (sh : Nat) : State :=
  ((edsOf s sh).filter (fun e => e.2.state == .filling || e.2.state == .pending)).foldl (fun s e => journalFreed (freeEdition s e.1) e.2) s

/-- ABANDON (R282, R292). -/
def abandonActs (c : Fin 32) (s : State) : Answer :=
  if !(atRest (s.ctx c)) then refuse s 3 [c.val] else .done (settle ((updatedShards s c).foldl abandonShard s)) 0 []

/-- The Editions of a shard that stay valid under a rollback to step t. -/
def keptEds (s : State) (sh t : Nat) : List (Nat × EdEnt) :=
  (edsOf s sh).filter (fun e => (e.2.state == .committed || e.2.state == .retiring) && decide (e.2.number ≤ t))

/-- Every entry that refers to one of the Editions loses all its references (R293). -/
def forgetEds (s : State) (es : List Nat) : State :=
  s.pool.foldl (fun s x =>
    if x.2.refs.any es.contains then (dropRefs s x.2.refs).setEntry x.1 { x.2 with refs := [] } else s) s

/-- A rollback of one shard to step t (R293). -/
def rollShard (t : Nat) (s : State) (sh : Nat) : State :=
  let kept := (keptEds s sh t).map (·.1)
  let gone := ((edsOf s sh).filter (fun e => !(kept.contains e.1))).map (·.1)
  let s1 := gone.foldl (fun s e => journalFreed (freeEdition s e) (s.ed e)) (forgetEds s gone)
  let s2 := kept.foldl (fun s e => s.setEd e { s.ed e with state := .committed }) s1
  let s3 := s2.setShard sh { s2.shard sh with settled := some t }
  kept.foldl journalEd s3

/-- What a rollback to step t takes back at the context: the records of completed buckets, and of the tokens and notices of the steps above it,
which a re-run issues and sends again (R290, R390, R398). -/
def rollSteps (t : Nat) (x : Ctx) : Ctx :=
  { x with
    completed := Tbl.mapV x.completed (fun _ n => min n t)
    noticed := x.noticed.map (min t)
    steps := Tbl.mapV x.steps (fun n i => if t < n then { i with tokenIssued := false, tokenDone := false } else i) }

/-- ROLLBACK (R282, R290, R293, R390, R397). -/
def rollbackActs (c : Fin 32) (step : W32) (s : State) : Answer :=
  let t := step.toNat
  if !(atRest (s.ctx c)) then refuse s 3 [c.val]
  else
    match (updatedShards s c).find? (fun sh => (keptEds s sh t).isEmpty) with
    | some sh => refuse s 3 [sh]
    | none =>
      let s1 := (updatedShards s c).foldl (rollShard t) (endBuckets s c (fun b => decide (t < b.step)))
      let s2 := s1.updCtx c (rollSteps t)
      .done (settle (wakeAllReds (recountFrom s2 c (t + 1)))) 0 []

/-! ### SUBSCRIBE (R371) -/

/-- SUBSCRIBE of a session (R371, R497). -/
def jobSubscribeActs (p n : Nat) (on : Bool) (s : State) : Answer :=
  .done (s.setSession p n { s.session p n with subscribed := on }) 0 []

end Sys2Proof.Machine
end

