-- ==== Sys2Proof/Machine/Power.lean ====
section
/-!
DEFINITION. Step times, the cap controller, the throttle, heat and ageing (spec/16, R412 to R429; R518, R519).
-/

namespace Sys2Proof.Machine

/-! ### The variant (R4, R413, R416, R427) -/

def variantCeil : Variant → Nat
  | .e => 60 | .m => 100 | .t => 140

def variantCap : Variant → Nat
  | .e => 1250 | .m => 1700 | .t => 2450

/-- T_PACE in units of 0.25 ps. -/
def tPace : Variant → Nat
  | .e => 3600 | .m => 2960 | .t => 2360

/-! ### Step time (R412, R429): times in units of 0.25 ps -/

/-- t_s of a row at a temperature, with the rise of TS_REF by age. -/
def StonePwr.rowTs (x : StonePwr) (i : Nat) : Rat :=
  (x.ts.getD i 0 : Rat) * (1 + (x.k.getD i 0 : Rat) / 40000 * ((x.temp : Rat) - 70)) * (x.tsRef.toNat : Rat) / (max 1 x.tsRef0.toNat : Nat)

/-- t_s at a code of 2.5 mV, between rows of 25 mV by linear interpolation. -/
def StonePwr.tsAt (x : StonePwr) (code : Nat) : Rat :=
  let c := min 160 (max 20 code)
  let i := (c - 20) / 10
  let f : Rat := ((c - 20) % 10 : Nat)
  (x.rowTs i * (10 - f) + x.rowTs (i + 1) * f) / 10

/-- V in volts. -/
def volts (code : Nat) : Rat := 1 / 2 + (code : Rat) / 400

/-- The step time in force: at the set-point, or TS_REF while the rail is off. -/
def StonePwr.tsNow (x : StonePwr) : Rat := if x.vcode = 0 then (x.tsRef.toNat : Rat) else x.tsAt x.vcode

/-- The lowest code whose step time does not exceed t; the ceiling when none does. -/
def StonePwr.lowestCode (x : StonePwr) (ceil : Nat) (t : Rat) : Nat :=
  ((List.range (ceil + 1)).find? (fun c => decide (20 ≤ c) && decide (x.tsAt c ≤ t))).getD ceil

/-- The coefficient of a Stone's present phase, in W·ps ÷ V² (R417). -/
def StonePwr.c (x : StonePwr) : Rat := ((x.coeff.find? x.phase).getD ((x.cMax : Rat) * 1000))

/-- Enabled Stones. -/
def liveStones (s : State) : List Nat := (List.range 4).filter (fun n => s.boot.stonesEn.getLsbD n)

/-! ### The target (R418, R421, R424) -/

/-- Predicted package power at a target, every Stone at its lowest code. A time of 0.25 ps units is four to the picosecond. -/
def predict (s : State) (fixedW : Nat) (t : Rat) : Rat :=
  (liveStones s).foldl (fun p n =>
    let x := s.stone n
    let v := volts (x.lowestCode s.pwr.ceilCode t)
    p + x.c * v * v * 4 / t) (fixedW : Rat)

/-- Whether the floor row of a Stone is reached. -/
def atFloor (s : State) (t : Rat) : Bool := (liveStones s).any (fun n => decide ((s.stone n).tsAt 20 ≤ t))

/-- The ladder of 0.5 % steps; at most 400 of them span the voltage range. -/
def ladder (s : State) (fixedW : Nat) : Nat → Rat → Rat
  | 0, t => t
  | fuel + 1, t => if predict s fixedW t ≤ (s.pwr.capW : Rat) ∨ atFloor s t then t else ladder s fixedW fuel (t * 201 / 200)

/-- The least target that ceiling and pace allow. -/
def tMin (s : State) : Rat :=
  let t := (liveStones s).foldl (fun (m : Rat) n => max m ((s.stone n).tsAt s.pwr.ceilCode)) 0
  if s.pwr.paceEn then max t (tPace s.part.variant : Nat) else t

/-- x × 1.005^n. -/
def raise (x : Rat) : Nat → Rat
  | 0 => x
  | n + 1 => raise (x * 201 / 200) n

/-- The AVSBus target voltage of a code in mV, rounded up (R518). -/
def avsMv (code : Nat) : Nat := 500 + (5 * code + 1) / 2

/-- A Stone's set-point (R413, R518): never above the ceiling. -/
def setCode (n code : Nat) (s : State) : State :=
  let c := min code s.pwr.ceilCode
  if (s.stone n).vcode = c then s else (s.updStone n (fun x => { x with vcode := c })).emit (.avs n (avsMv c))

/-- PACE_HELD with its events (R428). -/
def pacedNow (s : State) : State :=
  let held := s.pwr.paceEn && decide (s.pwr.tsTarget ≤ tPace s.part.variant) && (liveStones s).all (fun n => (s.stone n).throttle == 0)
  if held = s.pwr.paceHeld then s
  else
    let s1 := { s with pwr := { s.pwr with paceHeld := held } }
    if s.pwr.paceEn then logEvent s1 (if held then evPaceRegained else evPaceLost) scPackage 0 [] else s1

/-- A new target: TS_TARGET and every Stone's lowest code for it (R418). -/
def applyTarget (t : Rat) (s : State) : State :=
  let s1 := (liveStones s).foldl (fun s n => setCode n ((s.stone n).lowestCode s.pwr.ceilCode t) s) s
  pacedNow { s1 with pwr := { s1.pwr with tsTarget := t.floor.toNat } }

/-- The coefficients after a period (R417): a Stone whose phase did not change and that was not throttled. -/
def learn (n powerW : Nat) (s : State) : State :=
  s.updStone n (fun x =>
    let v := volts x.vcode
    let sample : Rat := (powerW : Rat) * (x.tsNow / 4) / (v * v)
    let y := { x with powerW := powerW, phaseMoved := false, marked := false }
    if x.phaseMoved ∨ x.throttle ≠ 0 ∨ x.vcode = 0 then y else { y with coeff := y.coeff.set x.phase (x.c + (sample - x.c) / 8) })

/-- The thermal action of R424 on the target begins: logged for each Stone above 100 °C. -/
def logHot (s : State) : State :=
  ((liveStones s).filter (fun n => decide (100 < (s.stone n).temp))).foldl (fun s n => logEvent s evThermal scStone n [(s.stone n).temp.toNat]) s

/-- CONTROLLER_PERIOD (R413, R416 to R418, R424, R426, R428): the measured powers of the last 100 µs period. -/
def execControllerPeriod (fixedW : Nat) (stoneW : List Nat) (s : State) : Res :=
  let hot := (liveStones s).any (fun n => decide (100 < (s.stone n).temp))
  let s0 := if hot && !s.pwr.thermalLimited then logHot s else s
  let s1 := (liveStones s0).foldl (fun s n => learn n (stoneW.getD n 0) s) s0
  let steps := if hot then s.pwr.hotSteps + 1 else 0
  let total := fixedW + stoneW.sum
  let s2 := { s1 with pwr := { s1.pwr with
    fixedW := fixedW, basis := none, hotSteps := steps, thermalLimited := hot, energyUj := s1.pwr.energyUj + total * 100 } }
  if (liveStones s).isEmpty then .next s2
  else
    let t0 := tMin s2
    let t := ladder s2 fixedW 400 t0
    .next (applyTarget (raise t steps) { s2 with pwr := { s2.pwr with capLimited := decide (t0 < t) } })

/-- REGULATOR_READING (R419, R421): a measured 2 ms average above 1.1 × CAP_W. -/
def execRegulatorReading (avg2msW : Nat) (s : State) : Res :=
  if avg2msW * 10 > s.pwr.capW * 11 ∧ ¬ (liveStones s).isEmpty then
    let s1 := { s with pwr := { s.pwr with basis := some avg2msW, capLimited := true } }
    .next (applyTarget ((s.pwr.tsTarget : Rat) * 21 / 20) s1)
  else .next s

/-! ### The throttle (R420, R421, R423, R519) -/

/-- The estimate scaled by measured to estimated power over the last 10 ms, after an estimator fault (R423). -/
def scaledEst (s : State) (e : Nat) : Nat :=
  let est := (s.pwr.estWin.map (·.1)).sum
  let meas := (s.pwr.estWin.map (·.2)).sum
  if s.pwr.estFault ∧ 0 < est then e * meas / est else e

/-- THROTTLE of a Stone; a Stone at or above 105 °C keeps 15 (R424). -/
def setThrottle (n k : Nat) (s : State) : State := s.updStone n (fun x => { x with throttle := if x.hot then 15 else k })

/-- THROTTLE_ESTIMATE (R420, R421, R423, R424, R519): the estimated power of the Stones over the running 2 ms. An average that would pass the
limit sets THROTTLE to a value that the spec does not name (assumption 9); below 1.1 × CAP_W throttling ends. -/
def execThrottleEstimate (estW : List Nat) (s : State) : Res :=
  let e := scaledEst s (estW.sum + s.pwr.fixedW)
  let p := match s.pwr.basis with | some b => max b e | none => e
  let limit10 := if s.pwr.railLost.isEmpty then s.pwr.capW * 12 else s.pwr.capW * 10
  let s1 := { s with pwr := { s.pwr with estW := e } }
  if p * 10 > limit10 then
    .next (pacedNow ((liveStones s).foldl (fun s n => setThrottle n (1 + Config.throttle s.freeCtr % 15) s.nextFree) s1))
  else if p * 10 < s.pwr.capW * 11 then .next (pacedNow ((liveStones s).foldl (fun s n => setThrottle n 0 s) s1))
  else .next s1

/-- ESTIMATOR_FAULT (R423): one 1 ms window of estimated and measured package power; the 51st in a row that disagrees is a fault. -/
def execEstimatorFault (estW measW : Nat) (s : State) : Res :=
  let d := if estW ≤ measW then measW - estW else estW - measW
  let run := if d * 100 > measW * 15 then s.pwr.disagreeRun + 1 else 0
  let s1 := { s with pwr := { s.pwr with
    estW := estW, measW := measW, disagree := if measW = 0 then 4095 else min 4095 (d * 1000 / measW)
    disagreeRun := run % 51, estWin := (estW, measW) :: s.pwr.estWin.take 9 } }
  if run < 51 then .next s1
  else
    let ceil := max 20 (s.pwr.ceilCode - 10)
    let s2 := { s1 with pwr := { s1.pwr with estFault := true, estFaults := satAdd s1.pwr.estFaults 1 255, ceilCode := ceil } }
    .next ((liveStones s).foldl (fun s n => setCode n (s.stone n).vcode s) (logEvent s2 evEstimatorFault scPackage 0 []))

/-! ### Heat (R424) -/

/-- A drain quiesce of a context for a cause (R46, R424). -/
def holdCtx (cause : Nat) (s : State) (c : Nat) : State :=
  let s1 := if s.mil.holds.contains (cause, c) then s else { s with mil := { s.mil with holds := s.mil.holds ++ [(cause, c)] } }
  drainCtx s1 c

/-- The contexts that run, for a cause that reaches them all. -/
def runningCtxs (s : State) : List Nat := (s.ctxs.filter (fun x => x.2.state == .running)).map (·.1)

/-- The contexts whose groups name a Quern of a Stone. -/
def stoneCtxs (s : State) (n : Nat) : List Nat := ctxsWith s (fun q => q / 32 == n)

/-- A cause has gone: the contexts that no other cause holds resume (R47, R424). -/
def releaseCause (cause : Nat) (s : State) : State :=
  let mine := (s.mil.holds.filter (fun h => h.1 == cause)).map (·.2)
  let s1 := { s with mil := { s.mil with holds := s.mil.holds.filter (fun h => h.1 != cause) } }
  mine.foldl (fun s c => if s.mil.holds.any (fun h => h.2 == c) then s else resumeCtx s c) s1

/-- A sensor's drain threshold: at or above it the contexts drain, 10 °C below it they resume. -/
def drainSensor (cause scope id : Nat) (t limit : Int) (cs : List Nat) (s : State) : State :=
  let held := s.mil.holds.any (fun h => h.1 == cause)
  if limit ≤ t then
    let live := cs.filter (fun c => (s.ctx c).state == .running)
    let s1 := live.foldl (holdCtx cause) s
    if live.isEmpty then s1 else logEvent s1 evThermal scope id [t.toNat]
  else if held ∧ t ≤ limit - 10 then logEvent (releaseCause cause s) evThermal scope id [t.toNat]
  else s

/-- A Stone's sample. -/
def stoneSample (n : Nat) (t : Int) (s : State) : State :=
  let was := (s.stone n).hot
  let hot := decide (105 ≤ t)
  let s1 := s.updStone n (fun x => { x with temp := t, hot := hot, throttle := if hot then 15 else if x.hot then 0 else x.throttle })
  let s2 := if hot && !was then logEvent s1 evThermal scStone n [t.toNat] else s1
  drainSensor n scStone n t 105 (stoneCtxs s2 n) s2

/-- A Bin base die's sample. -/
def binSample (b : Nat) (t : Int) (s : State) : State :=
  let double := decide (85 < t)
  let s1 := { s with mm := { s.mm with refreshDouble := s.mm.refreshDouble.set b double } }
  let s2 := if double != s.mm.refreshDouble.getD b false then logEvent s1 evThermal scBin b [t.toNat] else s1
  drainSensor (5 + b) scBin b t 95 (runningCtxs s2) s2

/-- TEMPERATURE_SAMPLE (R46, R47, R226, R424). -/
def execTemperatureSample (stones : List Int) (spur : Int) (bins : List Int) (s : State) : Res :=
  let s1 := (List.range 4).foldl (fun s n => stoneSample n (stones.getD n 0) s) s
  let s2 := drainSensor 4 scPackage 0 spur 105 (runningCtxs s1) { s1 with pwr := { s1.pwr with spurHot := decide (105 ≤ spur) } }
  let s3 := (List.range 4).foldl (fun s b => binSample b (bins.getD b 0) s) s2
  .next (pacedNow (settle s3))

/-! ### Delay lines (R414, R429) -/

/-- DELAY_SETTING_CHANGE (R414): the Stone's array and vector handshakes hold for 64 steps. -/
def execDelaySettingChange (n : Fin 4) (row : Fin 15) (s : State) : Res :=
  if s.boot.stonesEn.getLsbD n ∧ (s.stone n).row ≠ row then .next (s.updStone n (fun x => { x with row := row, hold := x.hold + 64 })) else .next s

/-- The rise of TS_REF over TS_REF0 in units of 0.1 %. -/
def agePermil (ref ref0 : Nat) : Nat := if ref0 = 0 then 0 else min 255 ((ref - ref0) * 1000 / ref0)

/-- AGEING_SAMPLE (R429): a margin below its guard lengthens the row's delay line by one tap. -/
def execAgeingSample (n : Fin 4) (row : Fin 15) (marginLow : Bool) (tsRefNew : W16) (s : State) : Res :=
  if !(s.boot.stonesEn.getLsbD n) then .next s
  else
    let x := s.stone n
    let y := { x with tsRef := tsRefNew, agePermil := agePermil tsRefNew.toNat x.tsRef0.toNat }
    .next ((flashWrite s).setStone n (if marginLow then
      { y with taps := y.taps.set row (y.taps.getD row 0 + 1), trims := satAdd y.trims 1 255, hold := y.hold + 64 } else y))

/-- ENERGY_EVENT (R371, R426, R447): whole joules since the admission. -/
def execEnergyEvent (s : State) : Res :=
  if s.sec.phase = .admitted ∧ s.sec.frisket.jobView.getLsbD 0 then
    .next (pumpSessions (toSubscribers s (.energy (s.pwr.energyUj / 1000 / 1000 - s.pwr.energyAtAdmit / 1000 / 1000))))
  else .next s

end Sys2Proof.Machine
end

