-- ==== Sys2Proof/Machine/Regs.lean ====
section
/-!
DEFINITION. Configuration space: every register's value, what a read clears, what a write does (spec/00, R26 to R30; R144, R246, R247, R274, R275,
R294, R324, R354, R356, R375, R411, R434, R458, R482, R483, R503 to R506), and the register commands that no request wraps.
-/

namespace Sys2Proof.Machine

/-! ### Fields -/

/-- A register of a run of n at a base and a stride. -/
def inArr (base stride n o : Nat) (f : Nat → Nat) : Option Nat :=
  if base ≤ o ∧ o < base + stride * n ∧ (o - base) % stride = 0 then some (f ((o - base) / stride)) else none

def atReg (base o v : Nat) : Option Nat := if o = base then some v else none

def b2n (b : Bool) : Nat := if b then 1 else 0

/-- Number of entries of a list that satisfy a test. -/
def countOf {α : Type} (l : List α) (p : α → Bool) : Nat := (l.filter p).length

/-! ### What registers show -/

def readPwr (s : State) (o : Nat) : Option Nat :=
  atReg 0x000 o (packW [(12, s.pwr.capW), (12, variantCap s.part.variant)])
  <|> atReg 0x008 o (packW [(1, b2n s.pwr.paceEn), (1, b2n s.pwr.paceHeld), (8, s.pwr.ceilCode), (1, b2n s.pwr.estFault)])
  <|> inArr 0x040 8 4 o (fun n =>
    let x := s.stone n
    let now := x.tsNow.floor.toNat
    packW [(16, if s.pwr.paceEn then max now (tPace s.part.variant) else now), (16, x.tsRef.toNat), (16, x.tsRef0.toNat), (8, x.agePermil),
      (8, x.trims)])
  <|> inArr 0x080 8 4 o (fun n =>
    let x := s.stone n
    packW [(8, x.vcode), (8, (x.temp % 256).toNat), (8, x.phase), (4, x.throttle), (12, x.powerW)])
  <|> atReg 0x100 o (s.pwr.energyUj / 1000 % 2 ^ 64)
  <|> atReg 0x108 o (packW [(12, s.pwr.estW), (12, s.pwr.measW), (12, s.pwr.disagree), (8, s.pwr.estFaults)])
  <|> atReg 0x110 o (packW [(16, tPace s.part.variant), (16, s.pwr.tsTarget), (1, b2n s.pwr.capLimited), (1, b2n s.pwr.thermalLimited)])

def ctxCode : CtxState → Nat
  | .unloaded => 0 | .running => 1 | .draining => 2 | .quiesced => 3 | .halted => 4 | .stopped => 5 | .ended => 6

def reservedEntries (s : State) : Nat := ((loadedCtxs s).map (fun x => (s.hopper (2 * x.1)).cap + (s.hopper (2 * x.1 + 1)).cap)).sum

def readHop (s : State) (o : Nat) : Option Nat :=
  inArr 0x000 8 64 o (fun h =>
    let x := s.hopper h
    packW [(16, x.cap), (1, b2n x.ordered), (20, x.mbPerStep), (13, x.retPages), (13, x.outPages)])
  <|> inArr 0x200 8 64 o (fun h =>
    let l := (hopperEntries s h).map (·.2.state)
    packW [(16, l.count .ready), (16, l.count .taken), (16, l.count .done), (16, l.count .granted)])
  <|> inArr 0x400 8 64 o (fun h => packW [(32, (s.hopper h).nextStep), (20, (s.hopper h).nextOrd)])
  <|> inArr 0x600 8 32 o (fun c =>
    let x := s.ctx c
    packW [(3, ctxCode x.state), (32, x.finalStep.getD 0), (1, b2n x.finalStep.isSome)])
  <|> atReg 0x700 o (packW [(16, 32768 - reservedEntries s), (16, s.grantStalls)])

/-- PATH, PATH_VALID, PATH_KIND and SESSION (R275); a LOCAL Flume has no path to show. -/
def pathFields : Option Carrier → Nat × Nat × Nat × Nat
  | some (.race r) => (r.val, 1, 0, 0)
  | some (.host p n) => (p.val, 1, 1, n.val)
  | _ => (0, 0, 0, 0)

def isMb (t : TxItem) : Bool := match t.kind with | .mb _ => true | _ => false

def readFlm (s : State) (o : Nat) : Option Nat :=
  inArr 0x0000 8 1024 o (fun f => (s.flume f).cfg.toNat)
  <|> inArr 0x2000 8 1024 o (fun f => (s.flume f).route.toNat)
  <|> inArr 0x4000 8 1024 o (fun f =>
    let x := s.flume f
    let (path, valid, kind, sess) := pathFields x.path
    packW [(3, flumeCode x.state), (16, if x.inbound then b2n x.rx.isSome else countOf (x.tx ++ heldTx s f) isMb),
      (16, if x.inbound then x.issued.length else x.grants.length), (5, path), (1, valid), (16, x.dup), (1, kind), (6, sess)])
  <|> inArr 0x6000 8 1024 o (fun f => packW [(48, (s.flume f).seq)])

def readEd (s : State) (o : Nat) : Option Nat :=
  atReg 0 o (packW [(14, 8192 - ((loadedCtxs s).map (·.2.alloc)).sum)])
  <|> inArr 0x100 8 32 o (fun c => packW [(14, (s.ctx c).alloc), (14, usedEds s c), (6, (s.ctx c).peers.length)])
  <|> inArr 0x800 8 32 o (fun c =>
    let l := (s.ctx c).lscale
    packW [(8, l.lsExp.toNat), (8, l.lsMin.toNat), (8, l.lsMax.toNat), (16, l.growth.toNat), (16, l.goodRun.toNat)])
  <|> inArr 0x1000 8 1024 o (fun i =>
    match (s.ctx (i / 32)).peers[i % 32]? with
    | some p => packW [(32, p.lastToken.getD 0), (10, p.out), (10, p.inn), (1, b2n p.lastToken.isSome), (1, 1)]
    | none => 0)
  <|> inArr 0x3000 8 1024 o (fun i =>
    match (s.ctx (i / 32)).peers[i % 32]? with
    | some p => packW [(32, p.lastNotice.getD 0), (1, b2n p.lastNotice.isSome)]
    | none => 0)
  <|> inArr 0x10000 8 8192 o (fun i =>
    let x := s.shard i
    packW [(19, x.win), (20, x.span), (5, x.owner), (1, b2n x.static), (1, b2n x.valid), (1, b2n x.settled.isSome)])
  <|> inArr 0x20000 8 8192 o (fun i => packW [(32, (s.shard i).settled.getD ((s.shard i).skipped.getD 0))])
  <|> inArr 0x30000 16 8192 o (fun n =>
    let e := s.ed n
    packW [(32, e.number), (16, e.refcount), (13, e.shard), (3, edCode e.state)])
  <|> inArr 0x30008 16 8192 o (fun n => packW [(25, 0), (20, (s.ed n).pages.length), (19, (s.ed n).pages.headD 0)])

def readGal (s : State) (o : Nat) : Option Nat :=
  let g := s.galley
  atReg 0x000 o (packW [(5, enabledFormes s), (5, (g.buckets.map (·.formes.length)).sum), (13, countOf g.buckets Bucket.active)])
  <|> atReg 0x008 o (packW [(16, g.periodMs)])
  <|> atReg 0x010 o (packW [(16, g.regrinds), (16, g.forcedScale), (16, g.repeats), (16, g.stalls)])
  <|> atReg 0x018 o (packW [(16, g.nfBuckets), (16, g.mismatches)])
  <|> inArr 0x100 8 32 o (fun c => packW [(5, (s.ctx c).quota), (12, (s.ctx c).tagBase), (13, (s.ctx c).tagCount), (5, busyFormes s c)])
  <|> inArr 0x200 8 32 o (fun c => packW [(32, (s.ctx c).rstep)])

def raceCode (s : State) (r : Nat) : Nat :=
  if r % 2 = 1 ∧ ¬ splitPort s r then 9
  else
    match (s.race r).state with
    | .off => 0 | .training => 1 | .qualifying => 2 | .hello => 3 | .linked => 4 | .attesting => 5 | .attested => 6 | .retraining => 7
    | .failed => 8 | .unused => 9

def readRace (s : State) (o : Nat) : Option Nat :=
  inArr 0x000 8 16 o (fun p => (s.racePort p).cfg.toNat % 16)
  <|> inArr 0x100 8 32 o (fun r =>
    let x := s.race r
    packW [(4, raceCode s r), (9, x.lanes.toNat), (1, b2n x.half), (1, b2n x.spareInUse), (1, b2n x.sparePresent), (12, (x.peer.getD (0, 0)).1),
      (1, b2n x.peer.isSome), (8, (x.peer.getD (0, 0)).2), (8, x.attResult), (16, min x.rttNs 65535)])
  <|> inArr 0x200 8 32 o (fun r => packW [(16, (s.race r).retx), (16, (s.race r).authFail), (16, (s.race r).replay), (16, (s.race r).dropped)])
  <|> inArr 0x300 8 16 o (fun p => packW [(9, (s.racePort p).laneBad.toNat), (32, (s.racePort p).qualErrMax), (16, (s.racePort p).retrains)])

def readEth (s : State) (o : Nat) : Option Nat :=
  inArr 0x000 8 2 o (fun p => (s.host p).cfg.toNat)
  <|> inArr 0x010 16 2 o (fun p => (s.host p).ip6.toNat / 2 ^ 64)
  <|> inArr 0x018 16 2 o (fun p => (s.host p).ip6.toNat % 2 ^ 64)
  <|> inArr 0x030 8 2 o (fun p => (s.host p).ip4.toNat)
  <|> inArr 0x040 8 2 o (fun p => (s.host p).fwgrp.toNat)
  <|> inArr 0x050 8 2 o (fun p => (s.host p).prefixes.toNat)
  <|> inArr 0x060 16 2 o (fun p => (s.host p).gw6.toNat / 2 ^ 64)
  <|> inArr 0x068 16 2 o (fun p => (s.host p).gw6.toNat % 2 ^ 64)
  <|> inArr 0x100 8 2 o (fun p =>
    let h := s.host p
    packW [(1, b2n h.link), (2, h.rateNow.toNat), (7, h.sessions.length), (10, h.slotsFree)])
  <|> inArr 0x200 8 2 o (fun p => packW [(16, (s.host p).retx), (16, (s.host p).authFail), (16, (s.host p).dropped), (16, (s.host p).rateDrops)])

/-- Whether the part is enrolled (R449). -/
def enrolled (s : State) : Bool := s.sec.frisket.ownerHash != 0 || s.sec.frisket.operatorHash != 0

/-- The two words of a guest window (R455). -/
def gwinWord0 (w : GWin) : Nat := packW [(48, w.base.toNat), (1, b2n w.dir), (1, b2n w.rd), (1, b2n w.w), (1, b2n w.en)]

def readSec (s : State) (o : Nat) : Option Nat :=
  let f := s.sec.frisket
  atReg 0x000 o (packW [(1, b2n (s.sec.phase == .admitted)), (1, b2n (s.sec.phase == .scrubbing || s.boot.stage == 5)), (1, b2n s.sec.scrubPending),
    (1, b2n (enrolled s)), (1, b2n s.sec.pendingFrisket.isSome), (32, match s.sec.pendingFrisket with | some p => p.seq.toNat | none => 0)])
  <|> atReg 0x008 o (packW [(32, f.seq.toNat), (2, f.dbg.toNat), (3, f.jobView.toNat), (3, f.keypol.toNat), (4, f.ndigest.toNat)])
  <|> atReg 0x010 o (packW [(32, f.fwFloor.toNat), (10, f.gflumeBase.toNat), (11, f.gflumeCount.toNat)])
  <|> inArr 0x040 16 8 o (fun w => match f.gwin[w]? with | some g => gwinWord0 g | none => 0)
  <|> inArr 0x048 16 8 o (fun w => match f.gwin[w]? with | some g => g.sizeMib.toNat | none => 0)
  <|> atReg 0x100 o (packW [(16, s.sec.frisketViol), (16, s.sec.guestDenied), (16, s.sec.admitRefused)])

/-- Enabled physical Querns of a Stone. -/
def okQuerns (s : State) (n : Nat) : List Nat := (List.range 34).filter (fun i => (s.boot.physOk.getD n []).getD i false)

def sparesLeft (s : State) : Nat := ((liveStones s).map (fun n => (okQuerns s n).length - 32)).sum

def readBrg (s : State) (o : Nat) : Option Nat :=
  let b := s.boot
  atReg 0x000 o (packW [(4, b.stage), (4, b.failStage), (4, b.stonesEn.toNat), (4, b.binsEn.toNat), (1, b2n b.listFull), (1, b2n b.clockWait),
    (12, b.readyMs.toNat), (32, b.bootNo.toNat)])
  <|> atReg 0x008 o (packW [(17, b.defects.length), (8, b.newRecords), (16, b.fuseContra), (8, sparesLeft s)])

def readImp (s : State) (o : Nat) : Option Nat :=
  let st := s.mm.imp.map (·.2.state)
  atReg 0x000 o (packW [(20, countOf st (· != .unmapped)), (9, countOf st (· == .damaged)), (20, countOf st (fun x => x == .lost || x == .unbacked))])
  <|> inArr 0x100 8 32 o (fun c =>
    let l := (s.ctx c).free
    packW [(19, l.headD 0), (1, b2n l.isEmpty), (20, l.length)])

/-- The number of a bonded die. -/
def siteKey : BondSite → Nat
  | .stone n => n.val | .bin b => 4 + b.val | .guest => 8

/-- The key of a bond group (R32, R531). -/
def groupKey (site : BondSite) (group : Nat) : Nat := siteKey site * 256 + group

/-- Disabled bond groups of a die (R33). -/
def groupsOffIn (s : State) (site : Nat) : Nat := countOf s.boot.groupsOff (fun k => k / 256 == site)

def inBin (b f : Nat) : Bool := f / 131072 == b

def readMem (s : State) (o : Nat) : Option Nat :=
  inArr 0x000 8 4 o (fun b =>
    packW [(18, 131072 - countOf s.mm.retired (inBin b)), (7, groupsOffIn s (4 + b)), (17, s.mm.spareRows.getD b 0), (8, countOf s.mm.reserve (inBin b)),
      (1, b2n (s.mm.binDegraded.getD b false))])
  <|> atReg 0x040 o s.mm.arb.toNat
  <|> atReg 0x048 o (packW [(8, s.mm.reserveNext)])
  <|> atReg 0x050 o (packW [(32, s.mm.ce), (16, s.mm.ue), (16, s.mm.keepOvf)])

def readCal (s : State) (o : Nat) : Option Nat :=
  let b := s.boot
  atReg 0x000 o (packW [(1, b2n b.calInvalid), (1, b2n b.calField), (3, b.calPhase), (2, b.calResult), (12, (b.calDelta % 4096).toNat), (32, b.calBootNo.toNat)])

/-- SECVER and hash of the image that runs (R452). -/
def FwSlots.running (x : FwSlots) : W32 × W256 := if x.runB then x.b else x.a

def millerSecver (s : State) : W32 := (s.boot.fw.getD 0 {}).running.1

def pairCode : PairPhase → Nat
  | .off => 0 | .paired => 1 | .isolated => 2 | .takingOver => 3 | .sole => 4 | .left => 5

/-- The incarnation in force for the twin's number; none without a job (R411). -/
def twinInc (s : State) : Nat := if s.pair.phase = .off then 0 else recordedInc s s.pair.twinMember

def readMil (s : State) (o : Nat) : Option Nat :=
  let m := s.mil
  atReg 0x000 o (packW [(2, m.mstate), (1, b2n m.ptpLocked), (1, b2n m.keyOwner), (1, b2n m.keyOperator), (8, m.wdogResets), (32, (millerSecver s).toNat)])
  <|> atReg 0x008 o m.netCfg.toNat
  <|> atReg 0x010 o m.ip4.toNat
  <|> atReg 0x018 o (m.ip6.toNat / 2 ^ 64)
  <|> atReg 0x020 o (m.ip6.toNat % 2 ^ 64)
  <|> atReg 0x028 o m.prefixes.toNat
  <|> atReg 0x030 o (m.gw6.toNat / 2 ^ 64)
  <|> atReg 0x038 o (m.gw6.toNat % 2 ^ 64)
  <|> atReg 0x040 o ((if m.ptpLocked then m.ptpNs else s.timeNs) % 2 ^ 64)
  <|> atReg 0x048 o (packW [(17, m.ring.length), (15, m.flashRing.length), (16, m.lost), (16, m.telemSkipped)])
  <|> atReg 0x050 o (packW [(16, m.refused), (16, m.replay), (16, m.queueDrops)])
  <|> atReg 0x800 o (packW [(1, b2n s.pair.pairEn), (1, b2n s.pair.autoTko), (12, s.pair.twinMember), (14, s.pair.holdMs), (32, s.pair.tkoMask.toNat)])
  <|> atReg 0x808 o (packW [(3, pairCode s.pair.phase), (8, twinInc s), (48, s.pair.ackJsn), (1, b2n s.pair.incompleteRed)])

/-- A register's value; none for a reserved register or an unaligned offset (R28, R503, R504). -/
def readReg (s : State) (off : Nat) : Option Nat :=
  if off % 8 ≠ 0 then none
  else
    let o := off % 2 ^ 20
    match off / 2 ^ 20 with
    | 0x0 => readPwr s o
    | 0x1 => readHop s o
    | 0x2 => readFlm s o
    | 0x3 => readEd s o
    | 0x4 => readGal s o
    | 0x5 => readRace s o
    | 0x6 => readEth s o
    | 0x7 => readSec s o
    | 0x8 => readBrg s o
    | 0x9 => readImp s o
    | 0xA => readMem s o
    | 0xB => readCal s o
    | 0xC => readMil s o
    | _ => none

/-! ### Fields that a read clears (R27, R30) -/

/-- A run of n registers at a base and a stride, by index. -/
def idxOf (base stride n o : Nat) : Option Nat :=
  if base ≤ o ∧ o < base + stride * n ∧ (o - base) % stride = 0 then some ((o - base) / stride) else none

/-- The RC bits of a register. -/
def rcMask (off : Nat) : Nat :=
  let o := off % 2 ^ 20
  match off / 2 ^ 20 with
  | 0x0 => if o = 0x108 then 0xFF * 2 ^ 36 else 0
  | 0x1 => if o = 0x700 then 0xFFFF * 2 ^ 16 else 0
  | 0x2 => if (idxOf 0x4000 8 1024 o).isSome then 0xFFFF * 2 ^ 41 else 0
  | 0x4 => if o = 0x010 then 2 ^ 64 - 1 else if o = 0x018 then 2 ^ 32 - 1 else 0
  | 0x5 => if (idxOf 0x200 8 32 o).isSome then 2 ^ 64 - 1 else if (idxOf 0x300 8 16 o).isSome then 0xFFFF * 2 ^ 41 else 0
  | 0x6 => if (idxOf 0x200 8 2 o).isSome then 2 ^ 64 - 1 else 0
  | 0x7 => if o = 0x100 then 2 ^ 48 - 1 else 0
  | 0x8 => if o = 0x008 then 0xFFFF * 2 ^ 25 else 0
  | 0xA => if o = 0x050 then 2 ^ 64 - 1 else 0
  | 0xC => if o = 0x000 then 0xFF * 2 ^ 5 else if o = 0x048 then 0xFFFFFFFF * 2 ^ 32 else if o = 0x050 then 2 ^ 48 - 1 else 0
  | _ => 0

def clearFlm (s : State) (o : Nat) : State :=
  match idxOf 0x4000 8 1024 o with
  | some f => s.updFlume f (fun x => { x with dup := 0 })
  | none => s

def clearRace (s : State) (o : Nat) : State :=
  match idxOf 0x200 8 32 o, idxOf 0x300 8 16 o with
  | some r, _ => s.updRace r (fun x => { x with retx := 0, authFail := 0, replay := 0, dropped := 0 })
  | none, some p => s.setRacePort p { s.racePort p with retrains := 0 }
  | none, none => s

/-- A read clears the RC fields of a register. -/
def clearRc (s : State) (off : Nat) : State :=
  let o := off % 2 ^ 20
  if rcMask off = 0 ∨ off % 8 ≠ 0 then s
  else
    match off / 2 ^ 20 with
    | 0x0 => { s with pwr := { s.pwr with estFaults := 0 } }
    | 0x1 => { s with grantStalls := 0 }
    | 0x2 => clearFlm s o
    | 0x4 =>
      if o = 0x010 then { s with galley := { s.galley with regrinds := 0, forcedScale := 0, repeats := 0, stalls := 0 } }
      else { s with galley := { s.galley with nfBuckets := 0, mismatches := 0 } }
    | 0x5 => clearRace s o
    | 0x6 =>
      match idxOf 0x200 8 2 o with
      | some p => s.updHost p (fun h => { h with retx := 0, authFail := 0, dropped := 0, rateDrops := 0 })
      | none => s
    | 0x7 => { s with sec := { s.sec with frisketViol := 0, guestDenied := 0, admitRefused := 0 } }
    | 0x8 => { s with boot := { s.boot with fuseContra := 0 } }
    | 0xA => { s with mm := { s.mm with ce := 0, ue := 0, keepOvf := 0 } }
    | 0xC =>
      if o = 0x000 then { s with mil := { s.mil with wdogResets := 0 } }
      else if o = 0x048 then { s with mil := { s.mil with lost := 0, telemSkipped := 0 } }
      else { s with mil := { s.mil with refused := 0, replay := 0, queueDrops := 0 } }
    | _ => s

/-! ### Writes (R27 to R30, R504) -/

/-- What a write comes to: done, ignored by the state or the writer, or to no register. -/
inductive Wrote where
  | done (s : State)
  | ignored (s : State)
  | reserved (s : State)

def Wrote.state : Wrote → State
  | .done s => s
  | .ignored s => s
  | .reserved s => s

/-- A write that is ignored is logged (R28). -/
def logIgnored (s : State) (off : Nat) : State := logEvent s evWriteIgnored scPackage 0 [off]

/-- new = (old AND NOT MASK) OR (VALUE AND MASK). -/
def merge (old value mask : W64) : W64 := (old &&& ~~~mask) ||| (value &&& mask)

/-- A mask of n bits from bit k. -/
def maskAt (k n : Nat) : W64 := BitVec.ofNat 64 ((2 ^ n - 1) * 2 ^ k)

def hits (mask : W64) (k n : Nat) : Bool := mask &&& maskAt k n != 0

/-- CAP_W within its range (R416, R422). -/
def writeCap (new : W64) (s : State) : Option State :=
  let v := (new.extractLsb' 0 12).toNat
  if 700 ≤ v ∧ v ≤ variantCap s.part.variant then
    some (logEvent { s with pwr := { s.pwr with capW := v } } evCapChanged scPackage 0 [v])
  else none

/-- PACE_EN (R427, R428). -/
def setPace (on : Bool) (s : State) : State := pacedNow { s with pwr := { s.pwr with paceEn := on } }

/-- EST_CLEAR (R423). -/
def clearEst (s : State) : State := { s with pwr := { s.pwr with ceilCode := variantCeil s.part.variant, estFault := false } }

def writePwr (o : Nat) (value mask : W64) (s : State) : Option State :=
  if o = 0 then (if hits mask 0 12 then writeCap (merge (BitVec.ofNat 64 s.pwr.capW) value mask) s else some s)
  else if o = 8 then
    let s1 := if mask.getLsbD 0 then setPace (value.getLsbD 0) s else s
    some (if mask.getLsbD 11 && value.getLsbD 11 then clearEst s1 else s1)
  else some s

/-- FLM_CFG_f and FLM_ROUTE_f (R272, R275): PEER changes only while CLOSED, as FLM_CFG_f, and the route sets while CLOSED, OPEN or BROKEN. -/
def writeFlm (off o : Nat) (value mask : W64) (s : State) : Option State :=
  match idxOf 0x0000 8 1024 o, idxOf 0x2000 8 1024 o with
  | some f, _ =>
    let x := s.flume f
    if x.state = .closed then some (s.setFlume f { x with cfg := merge x.cfg value (mask &&& maskAt 0 39) }) else none
  | none, some f =>
    let x := s.flume f
    let new := merge x.route value (mask &&& maskAt 0 46)
    let held := x.state != .closed && (new &&& maskAt 34 12) != (x.route &&& maskAt 34 12)
    if !(x.state == .closed || x.state == .openF || x.state == .broken) then none
    else
      let s1 := if held then logIgnored s off else s
      let route := if held then merge new x.route (maskAt 34 12) else new
      let s2 := s1.setFlume f { x with route := route }
      some (afterFlume (if pathGone s2 f then leavePath f s2 else pump f (wakePath f s2)))
  | none, none => some s

/-- Whether a step of a context lies between its first dispatch and its finalisation (R144). -/
def stepOpen (s : State) (c : Nat) : Bool := (s.ctx c).steps.any (fun i => i.2.dispatched && !i.2.final)

/-- ED_LSCALE_c: a write while a step is open is ignored whole, whichever bits it names (R144). -/
def writeLscale (c : Nat) (value mask : W64) (s : State) : Option State :=
  if stepOpen s c then none
  else
    let l := (s.ctx c).lscale
    let old : W64 := BitVec.ofNat 64 (packW [(8, l.lsExp.toNat), (8, l.lsMin.toNat), (8, l.lsMax.toNat), (16, l.growth.toNat), (16, l.goodRun.toNat)])
    some (s.updCtx c (fun x => { x with lscale := lscaleOf (merge old value (mask &&& maskAt 0 40)) }))

/-- RETRAIN of a port (R353, R356): both its Races train again, at full width. -/
def retrainPort (p : Nat) (s : State) : State :=
  [2 * p, 2 * p + 1].foldl (fun s r =>
    if raceEnabled s r ∧ (s.race r).state ≠ .off then countRetrain (retrainRace s r) r else s) s

def idleRace (s : State) (r : Nat) : Bool := (s.race r).state == .off || (s.race r).state == .failed || (s.race r).state == .unused

/-- RACE_CFG_p (R325, R329, R354, R356): SPLIT changes while both Races are OFF or FAILED, a pair bit while its Race is not ATTESTED; without
ENABLE both Races are OFF. -/
def writeRaceCfg (p off : Nat) (value mask : W64) (s : State) : State :=
  let x := s.racePort p
  let new := merge (x.cfg.setWidth 64) value (mask &&& 0xF)
  let differs (i : Nat) : Bool := new.getLsbD i != x.cfg.getLsbD i
  let att (r : Nat) : Bool := (s.race r).state == .attested
  let bad1 := differs 1 && !(idleRace s (2 * p) && idleRace s (2 * p + 1))
  let bad2 := differs 2 && att (2 * p)
  let bad3 := differs 3 && att (2 * p + 1)
  let keep : W64 := (if bad1 then 2 else 0) ||| (if bad2 then 4 else 0) ||| (if bad3 then 8 else 0)
  let s1 := if keep = 0 then s else logIgnored s off
  let s2 := s1.setRacePort p { x with cfg := (merge (x.cfg.setWidth 64) value (mask &&& 0xF &&& ~~~keep)).setWidth 5 }
  let s3 :=
    if new.getLsbD 0 then s2
    else [2 * p, 2 * p + 1].foldl (fun s r => endRace s r .off) s2
  if mask.getLsbD 4 && value.getLsbD 4 then retrainPort p s3 else s3

def setHi (v : W128) (value mask : W64) : W128 := merge (v.extractLsb' 64 64) value mask ++ v.extractLsb' 0 64
def setLo (v : W128) (value mask : W64) : W128 := v.extractLsb' 64 64 ++ merge (v.extractLsb' 0 64) value mask

/-- ETH_ registers that only the Miller writes, while the port is disabled (R375). -/
def writeEth (o : Nat) (value mask : W64) (s : State) : Option State :=
  let put (p : Nat) (f : HostPort → HostPort) : Option State := if (s.host p).cfg.getLsbD 0 then none else some (s.updHost p f)
  match idxOf 0x000 8 2 o, idxOf 0x010 16 2 o, idxOf 0x018 16 2 o, idxOf 0x030 8 2 o with
  | some p, _, _, _ => put p (fun h => { h with cfg := merge h.cfg value (mask &&& maskAt 0 39) })
  | _, some p, _, _ => put p (fun h => { h with ip6 := setHi h.ip6 value mask })
  | _, _, some p, _ => put p (fun h => { h with ip6 := setLo h.ip6 value mask })
  | _, _, _, some p => put p (fun h => { h with ip4 := merge h.ip4 value mask })
  | _, _, _, _ =>
    match idxOf 0x040 8 2 o, idxOf 0x050 8 2 o, idxOf 0x060 16 2 o, idxOf 0x068 16 2 o with
    | some p, _, _, _ => put p (fun h => { h with fwgrp := merge h.fwgrp value mask })
    | _, some p, _, _ => put p (fun h => { h with prefixes := merge h.prefixes value (mask &&& 0xFF3F) })
    | _, _, some p, _ => put p (fun h => { h with gw6 := setHi h.gw6 value mask })
    | _, _, _, some p => put p (fun h => { h with gw6 := setLo h.gw6 value mask })
    | _, _, _, _ => some s

/-- A Frisket violation: counted and logged (R29, R458). -/
def frisketViolation (s : State) (detail : List Nat) : State :=
  logEvent { s with sec := { s.sec with frisketViol := satAdd s.sec.frisketViol 1 65535 } } evFrisketViolation scPackage 0 detail

/-- The RWT bits of a SEC_ register (R458, R505). -/
def rwtMask (o : Nat) : W64 :=
  if o = 0x008 then maskAt 0 44
  else if o = 0x010 then maskAt 0 53
  else if (idxOf 0x040 8 16 o).isSome then maskAt 0 64
  else 0

/-- MEM_ARB (R246): a weight of 0, and an LC_MAX above 16, leave their field as it is and are logged. -/
def writeArb (off : Nat) (value mask : W64) (s : State) : State :=
  let new := merge s.mm.arb value mask
  let f (k n : Nat) : Nat := (new.extractLsb' k n).toNat
  let keep : W64 :=
    (if 16 < f 0 5 then maskAt 0 5 else 0) ||| (if f 5 4 = 0 then maskAt 5 4 else 0) ||| (if f 9 4 = 0 then maskAt 9 4 else 0)
      ||| (if f 13 4 = 0 then maskAt 13 4 else 0)
  let s1 := if mask &&& keep = 0 then s else logIgnored s off
  { s1 with mm := { s1.mm with arb := merge s.mm.arb value (mask &&& maskAt 0 17 &&& ~~~keep) } }

/-- MIL_PAIR_CFG's RW fields, changed only while no job is admitted (R399, R411). A PAIR_HOLD_MS of 0 leaves the field and is logged. -/
def writePairCfg (off : Nat) (value mask : W64) (s : State) : State :=
  let p := s.pair
  let old : W64 := BitVec.ofNat 64 (packW [(1, b2n p.pairEn), (1, b2n p.autoTko), (12, p.twinMember), (14, p.holdMs), (32, p.tkoMask.toNat)])
  let zero := (merge old value mask).extractLsb' 14 14 = 0
  let s1 := if zero ∧ hits mask 14 14 then logIgnored s off else s
  let new := merge old value (if zero then mask &&& ~~~(maskAt 14 14) else mask)
  { s1 with pair := { s1.pair with
    pairEn := new.getLsbD 0, autoTko := new.getLsbD 1, twinMember := (new.extractLsb' 2 12).toNat, holdMs := (new.extractLsb' 14 14).toNat
    tkoMask := new.extractLsb' 28 32 } }

/-- TAKEOVER and LEAVE act while PAIR_EN is 1 and the package is in its job's pair (R406, R411). -/
def pairCommand (takeover leave : Bool) (s : State) : State :=
  let s1 := if takeover then takeOver s else s
  if leave ∧ s1.pair.phase ≠ .off ∧ s1.pair.phase ≠ .left then leavePair 2 s1 else s1

/-- MIL_PAIR_CFG (R399, R411). -/
def writePair (off : Nat) (value mask : W64) (s : State) : Option State :=
  let act := s.pair.pairEn
  let t := mask.getLsbD 60 && value.getLsbD 60
  let l := mask.getLsbD 61 && value.getLsbD 61
  let rw := hits mask 0 60
  let admitted := s.sec.phase == .admitted
  if (rw && admitted && !(act && (t || l))) || ((t || l) && !act && !rw) then none
  else
    let s1 := if rw then (if admitted then logIgnored s off else writePairCfg off value mask s) else s
    let s2 := if (t || l) && !act then logIgnored s1 off else s1
    some (if act then pairCommand t l s2 else s2)

/-- The Miller's own registers (R411, R506); its network fields persist in flash (R506, R524). -/
def writeMil (off o : Nat) (value mask : W64) (s : State) : Option State :=
  let m := s.mil
  if o = 0x008 then some { flashWrite s with mil := { m with netCfg := merge m.netCfg value (mask &&& maskAt 0 26) } }
  else if o = 0x010 then some { flashWrite s with mil := { m with ip4 := merge m.ip4 value mask } }
  else if o = 0x018 then some { flashWrite s with mil := { m with ip6 := setHi m.ip6 value mask } }
  else if o = 0x020 then some { flashWrite s with mil := { m with ip6 := setLo m.ip6 value mask } }
  else if o = 0x028 then some { flashWrite s with mil := { m with prefixes := merge m.prefixes value (mask &&& 0xFF3F) } }
  else if o = 0x030 then some { flashWrite s with mil := { m with gw6 := setHi m.gw6 value mask } }
  else if o = 0x038 then some { flashWrite s with mil := { m with gw6 := setLo m.gw6 value mask } }
  else if o = 0x800 then writePair off value mask s
  else some s

/-- A write to a defined register by its block; none when the block's rules ignore it. RO and RC bits are left as they are. -/
def writeBlock (off : Nat) (value mask : W64) (miller : Bool) (s : State) : Option State :=
  let o := off % 2 ^ 20
  let own (r : Option State) : Option State := if miller then r else none
  match off / 2 ^ 20 with
  | 0x0 => own (writePwr o value mask s)
  | 0x1 => if (idxOf 0x000 8 64 o).isSome && hits mask 0 63 then none else some s
  | 0x2 => writeFlm off o value mask s
  | 0x3 => match idxOf 0x800 8 32 o with | some c => writeLscale c value mask s | none => some s
  | 0x4 =>
    if o = 0x008 ∧ hits mask 0 16 then
      let v := ((merge (BitVec.ofNat 64 s.galley.periodMs) value mask).extractLsb' 0 16).toNat
      if v = 0 then none else some { s with galley := { s.galley with periodMs := v } }
    else some s
  | 0x5 => match idxOf 0x000 8 16 o with | some p => own (some (writeRaceCfg p off value mask s)) | none => some s
  | 0x6 => if o < 0x100 then own (writeEth o value mask s) else some s
  | 0x7 => if mask &&& rwtMask o = 0 then some s else some (frisketViolation s [off])
  | 0xA =>
    if o = 0x040 then some (writeArb off value mask s)
    else if o = 0x048 ∧ hits mask 0 8 then
      some { s with mm := { s.mm with reserveNext := ((merge (BitVec.ofNat 64 s.mm.reserveNext) value mask).extractLsb' 0 8).toNat } }
    else some s
  | 0xC => own (writeMil off o value mask s)
  | _ => some s

/-- A register write (R27 to R29, R504). -/
def writeReg (off : Nat) (value mask : W64) (miller : Bool) (s : State) : Wrote :=
  match readReg s off with
  | none => .reserved (logIgnored s off)
  | some _ =>
    match writeBlock off value mask miller s with
    | some s1 => .done s1
    | none => .ignored (logIgnored s off)

/-! ### Register commands (R27, R28, R30, R144, R370) -/

/-- RC_REGISTER_READ (R30): the value has been read, and its RC fields are cleared in the same instant. -/
def execRcRegisterRead (off : W48) (s : State) : Res := .next (clearRc s off.toNat)

/-- REGISTER_WRITE (R27 to R29). -/
def execRegisterWrite (off : W48) (value mask : W64) (fromMiller : Bool) (s : State) : Res :=
  .next (writeReg off.toNat value mask fromMiller s).state

/-- ED_LSCALE_WRITE (R144). -/
def execEdLscaleWrite (c : Fin 32) (value mask : W64) (s : State) : Res :=
  .next (writeReg (0x300800 + 8 * c.val) value mask false s).state

/-- The blocks that the job side reaches (R370, R503). -/
def jobBlock (off : Nat) : Bool := [0x1, 0x2, 0x3, 0x4, 0x9, 0xA].contains (off / 2 ^ 20)

/-- A request that names another block is refused, and logged as a Frisket violation (R38, R370). -/
def refuseBlock (s : State) (off : Nat) : Answer := .done (frisketViolation s [off]) 2 []

/-- JOB_REGREAD (R27, R30, R370, R371, R447, R504). -/
def jobRegreadActs (off : W48) (s : State) : Answer :=
  let o := off.toNat
  if !(jobBlock o) ∧ o / 2 ^ 20 ≤ 0xC then refuseBlock s o
  else
    match readReg s o with
    | none => refuse s 7 [o]
    | some v =>
      if s.sec.frisket.jobView.getLsbD 2 then .done (clearRc s o) 0 [v] else .done s 0 [v &&& (2 ^ 64 - 1 - rcMask o)]

/-- JOB_REGWRITE (R27 to R30, R38, R370, R371, R504). -/
def jobRegwriteActs (off : W48) (value : W64) (s : State) : Answer :=
  let o := off.toNat
  if !(jobBlock o) ∧ o / 2 ^ 20 ≤ 0xC then refuseBlock s o
  else
    match writeReg o value (maskAt 0 64) false s with
    | .done s1 => .done s1 0 []
    | .ignored s1 => .done s1 3 [o]
    | .reserved s1 => .done s1 7 [o]

end Sys2Proof.Machine
end

