-- ==== Sys2Proof/Machine/Request.lean ====
section
/-!
DEFINITION. The Miller's requests: the checks of R488 and R489, what is accepted before ready, replies and their bucket, assemblies, register,
event, defect and subscription requests, quiesce and resume (spec/19, R486 to R500; R44 to R47, R422, R423, R427, R462).
-/

namespace Sys2Proof.Machine

/-! ### Replies (R487, R490, R494) -/

/-- A reply to an unsigned request, or a refusal: it takes one of 256 replies per second (R490). -/
def bucketReply (s : State) (dst : NetAddr) (o : Out) : State :=
  if s.mil.bucket < 1000000000 then { s with mil := { s.mil with queueDrops := satAdd s.mil.queueDrops 1 65535 } }
  else sendIp { s with mil := { s.mil with bucket := s.mil.bucket - 1000000000 } } 2 dst.addr o

/-- Keeps a reply for repeats of the request, by signer (R488). -/
def storeReply (m : MilHdr) (o : Option Out) (s : State) : State :=
  { s with mil := { s.mil with
    replyOwner := if m.signer.getLsbD 0 then o else s.mil.replyOwner
    replyOperator := if m.signer.getLsbD 1 then o else s.mil.replyOperator } }

/-- The reply to a signed request. -/
def signedReply (m : MilHdr) (o : Out) (s : State) : State := sendIp (storeReply m (some o) s) 2 m.src.addr o

def replyOf (m : MilHdr) (op status : Nat) (body : List Nat) : Out := .mreply m.src op m.reqSeq status body

/-- A refusal for a signature, a key or a signer: counted and logged (R488, R506). -/
def refuseRequest (m : MilHdr) (op status : Nat) (s : State) : State :=
  let s1 := logEvent { s with mil := { s.mil with refused := satAdd s.mil.refused 1 65535 } } evRequestRefused scPackage 0 [op, status]
  bucketReply s1 m.src (replyOf m op status [])

/-- A request that is dropped and counted in REPLAY (R488). -/
def countReplay (s : State) : State := { s with mil := { s.mil with replay := satAdd s.mil.replay 1 65535 } }

/-! ### Checks (R488, R489) -/

/-- Who signs an operation (R493). -/
inductive Signers where
  | either | operator | both | unsignedOr
  deriving DecidableEq, Repr

def Signers.allows (w : Signers) (signer : BitVec 2) : Bool :=
  match w with
  | .either => signer != 0
  | .operator => signer == 2
  | .both => signer == 3
  | .unsignedOr => true

/-- Whether one signature verifies under a key of the hash in force; on an unenrolled part, under the key that the request carries (R489). -/
def sigGood (s : State) (m : MilHdr) (inForce carried : W256) (held sigOk : Bool) : Bool :=
  sigOk && (if enrolled s then (if m.keys then carried == inForce else held) else m.keys)

def signaturesOk (s : State) (m : MilHdr) : Bool :=
  let f := s.sec.frisket
  (!(m.signer.getLsbD 0) || sigGood s m f.ownerHash m.ownerHash s.mil.keyOwner m.ownerSigOk)
    && (!(m.signer.getLsbD 1) || sigGood s m f.operatorHash m.operatorHash s.mil.keyOperator m.operatorSigOk)

/-- LAST_SEQ of every signer of a request. -/
def lastSeqs (s : State) (m : MilHdr) : List Nat :=
  (if m.signer.getLsbD 0 then [s.mil.lastOwner.toNat] else []) ++ (if m.signer.getLsbD 1 then [s.mil.lastOperator.toNat] else [])

/-- The reply that a repeat finds: that of a signer whose LAST_SEQ it equals. -/
def storedReply (s : State) (m : MilHdr) : Option Out :=
  if m.signer.getLsbD 0 ∧ s.mil.lastOwner = m.reqSeq then s.mil.replyOwner else s.mil.replyOperator

/-- A request is taken: LAST_SEQ of its signers, the keys that it carries (R488, R489). -/
def takeRequest (m : MilHdr) (s : State) : State :=
  let f := s.sec.frisket
  let keep := m.keys && enrolled s
  storeReply m none { s with mil := { s.mil with
    lastOwner := if m.signer.getLsbD 0 then m.reqSeq else s.mil.lastOwner
    lastOperator := if m.signer.getLsbD 1 then m.reqSeq else s.mil.lastOperator
    keyOwner := s.mil.keyOwner || (keep && m.signer.getLsbD 0 && m.ownerHash == f.ownerHash)
    keyOperator := s.mil.keyOperator || (keep && m.signer.getLsbD 1 && m.operatorHash == f.operatorHash) } }

/-- What a request comes to: a reply with STATUS and body, a reply of another form, or a reply that comes later. -/
inductive Reply where
  | now (s : State) (status : Nat) (body : List Nat)
  | form (s : State) (o : Out)
  | later (s : State)

/-- Whether the Miller hears an operation: running, or in recovery for firmware installation and its HELLO (R452, R462). -/
def millerHears (s : State) (op : Nat) : Bool :=
  s.mil.link && (s.mil.mstate == 1 || (s.mil.mstate == 2 && (op == 0x0001 || op == 0x0050 || op == 0x0051)))

/-- Whether a packet is a Miller protocol packet of the management port (R484): untagged, whole, within the MTU, to UDP_PORT of an address of the
port. -/
def millerPacket (s : State) (d : Datagram) : Bool :=
  tagsOk s 2 d.tags && !d.fragment && d.sumOk && decide (d.udpLen ≤ 1472) && d.dstPort == s.mil.netCfg.extractLsb' 10 16 && addressed s 2 false d.dst

/-- A signed request through the checks of R484, R487 and R488, and its effect (R462, R487 to R494). `early`: it is served before ready;
`onRefuse` is what a failed signature brings about beside the refusal. -/
def milRequest (m : MilHdr) (op : Nat) (who : Signers) (early : Bool) (onRefuse : State → State) (act : State → Reply) (s : State) : Res :=
  if !(millerHears s op) ∨ !(millerPacket s m.net) then .next s
  else if !m.formOk then .next (bucketReply s m.src (replyOf m op 6 []))
  else if m.bootId ≠ s.mil.bootId then .next (countReplay s)
  else if !(signaturesOk s m) then .next (refuseRequest m op 5 (onRefuse s))
  else if m.signer = 0 ∨ !(who.allows m.signer) then .next (refuseRequest m op 7 (onRefuse s))
  else if (lastSeqs s m).any (fun n => decide (m.reqSeq.toNat < n)) then .next (countReplay s)
  else if (lastSeqs s m).any (fun n => decide (m.reqSeq.toNat = n)) then
    .next (sendIp s 2 m.src.addr ((storedReply s m).getD (replyOf m op 2 [])))
  else
    let s1 := takeRequest m s
    if !early ∧ !(isReady s) then .next (signedReply m (replyOf m op 4 []) s1)
    else
      match act s1 with
      | .now s2 status body => .next (signedReply m (replyOf m op status body) s2)
      | .form s2 o => .next (signedReply m o s2)
      | .later s2 => .next s2

/-- A request that nothing but its refusal follows when its signature fails. -/
def plainRequest (m : MilHdr) (op : Nat) (who : Signers) (early : Bool) (act : State → Reply) (s : State) : Res :=
  milRequest m op who early id act s

/-! ### HELLO (R488 to R490, R493) -/

/-- MILLER_HELLO: BOOT_ID, SERIAL, STAGE, ENROLLED, the LAST_SEQ of each signer and the keys held. -/
def execMillerHello (m : MilHdr) (s : State) : Res :=
  if !(millerHears s 0x0001) ∨ !(millerPacket s m.net) then .next s
  else if !m.formOk then .next (bucketReply s m.src (replyOf m 0x0001 6 []))
  else
    .next (bucketReply s m.src (replyOf m 0x0001 0 [s.mil.bootId.toNat, s.part.serial.toNat, s.boot.stage, b2n (enrolled s), s.mil.lastOwner.toNat,
      s.mil.lastOperator.toNat, b2n s.mil.keyOwner, b2n s.mil.keyOperator]))

/-! ### Registers (R422, R423, R427, R493, R503 to R506) -/

/-- REGREAD: the values, read and cleared in order; a reserved or unaligned first register is refused, a later one reads as zero (R28). -/
def readRegs : Nat → Nat → State → List Nat × State
  | 0, _, s => ([], s)
  | n + 1, off, s =>
    let (l, s1) := readRegs n (off + 8) (clearRc s off)
    (((readReg s off).getD 0) :: l, s1)

/-- REGREAD (R30, R493, R500, R504). -/
def execRegread (m : MilHdr) (off : W48) (count : Nat) (s : State) : Res :=
  plainRequest m 0x0010 .either true (fun s =>
    if count = 0 ∨ 64 < count then .now s 6 []
    else if (readReg s off.toNat).isNone then .now s 9 []
    else
      let (l, s1) := readRegs count off.toNat s
      .now s1 0 l) s

/-- The reply to a register write (R494). -/
def wroteReply : Wrote → Reply
  | .done s => .now s 0 []
  | .ignored s => .now s 3 []
  | .reserved s => .now s 9 []

/-- A REGWRITE of the Operator (R493, R504). -/
def regwrite (m : MilHdr) (off : Nat) (value mask : W64) (early : Bool) (s : State) : Res :=
  plainRequest m 0x0011 .operator early (fun s => wroteReply (writeReg off value mask true s)) s

/-- Whether a REGWRITE waits for ready: one of CAP_W, PACE_EN or RETRAIN (R462). -/
def lateWrite (off : Nat) (value mask : W64) : Bool :=
  (off == 0x000 && hits mask 0 12) || (off == 0x008 && mask.getLsbD 0)
    || (decide (0x500000 ≤ off) && decide (off < 0x500080) && mask.getLsbD 4 && value.getLsbD 4)

/-- REGWRITE (R462, R493, R504, R506). -/
def execRegwrite (m : MilHdr) (off : W48) (value mask : W64) (s : State) : Res :=
  regwrite m off.toNat value mask (!(lateWrite off.toNat value mask)) s

/-- CAP_W_WRITE (R416, R422, R462). -/
def execCapWWrite (m : MilHdr) (value mask : W64) (s : State) : Res := regwrite m 0x000 value mask (!(lateWrite 0x000 value mask)) s

/-- PACE_EN_WRITE (R427, R462). -/
def execPaceEnWrite (m : MilHdr) (on : Bool) (s : State) : Res := regwrite m 0x008 (if on then 1 else 0) 1 false s

/-- EST_CLEAR (R423). -/
def execEstClear (m : MilHdr) (s : State) : Res := regwrite m 0x008 (maskAt 11 1) (maskAt 11 1) true s

/-- RETRAIN (R353, R356, R462). -/
def execRetrain (m : MilHdr) (port : Fin 16) (s : State) : Res := regwrite m (0x500000 + 8 * port.val) 0x10 0x10 false s

/-- TAKEOVER (R406, R408, R411). -/
def execTakeover (m : MilHdr) (s : State) : Res := regwrite m 0xC00800 (maskAt 60 1) (maskAt 60 1) true s

/-- LEAVE (R402, R411). -/
def execLeave (m : MilHdr) (s : State) : Res := regwrite m 0xC00800 (maskAt 61 1) (maskAt 61 1) true s

/-! ### Events, defects, subscriptions (R470, R493, R496 to R500) -/

/-- EVREAD (R493, R498): up to 28 records from the first, in EV_SEQ order. -/
def execEvread (m : MilHdr) (flash : Bool) (first : W32) (s : State) : Res :=
  plainRequest m 0x0020 .either true (fun s =>
    let l := (((if flash then s.mil.flashRing else s.mil.ring).filter (fun e => decide (first.toNat ≤ e.seq))).reverse).take 28
    let top := l.foldl (fun n e => max n e.seq) s.mil.readTo
    .form (if flash then s else { s with mil := { s.mil with readTo := top } }) (.mevents m.src m.reqSeq l)) s

/-- The words of a defect record (R470). -/
def Defect.words (d : Defect) : List Nat := [d.kind, d.source, d.action, d.bootNo, d.location, d.detail.toNat]

/-- DEFREAD (R493). -/
def execDefread (m : MilHdr) (first : W32) (s : State) : Res :=
  plainRequest m 0x0022 .either true (fun s => .now s 0 (((s.boot.defects.drop first.toNat).take 28).flatMap Defect.words)) s

/-- The place of a requester's subscription: its own, or a free one of four (R500). -/
def subPlace (s : State) (a : NetAddr) : Option Nat :=
  match List.find? (fun x : Nat × Subscription => x.2.dst == a) s.mil.subs with
  | some x => some x.1
  | none => (List.range 4).find? (fun k => (Tbl.find? s.mil.subs k).isNone)

/-- SUBSCRIBE (R493, R494, R500). -/
def execSubscribe (m : MilHdr) (minSeverity : W8) (periodMs : W32) (offsets : List W48) (s : State) : Res :=
  plainRequest m 0x0021 .either true (fun s =>
    let p := periodMs.toNat
    if 32 < offsets.length ∨ (p ≠ 0 ∧ (p < 10 ∨ 60000 < p)) then .now s 6 []
    else if offsets.any (fun o => (readReg s o.toNat).isNone) then .now s 9 []
    else
      match subPlace s m.src with
      | none => .now s 8 []
      | some k =>
        let x : Subscription := { dst := m.src, minSeverity := if minSeverity = 255 then 256 else minSeverity.toNat, periodMs := p, offsets := offsets }
        .now { s with mil := { s.mil with subs := s.mil.subs.set k x } } 0 []) s

/-- TELEMETRY_PUSH (R486, R490, R500): the values are read without clearing a field. -/
def execTelemetryPush (k : Fin 4) (s : State) : Res :=
  match Tbl.find? s.mil.subs k with
  | none => .next s
  | some x =>
    if x.periodMs = 0 then .next s
    else if !s.mil.link then .next { s with mil := { s.mil with telemSkipped := satAdd s.mil.telemSkipped 1 65535 } }
    else
      .next (sendIp s 2 x.dst.addr (.telem x.dst (eventTime s) (x.offsets.map (fun o => BitVec.ofNat 64 ((readReg s o.toNat).getD 0)))))

/-- SUBSCRIPTION_LAPSE (R500). -/
def execSubscriptionLapse (k : Fin 4) (s : State) : Res := .next { s with mil := { s.mil with subs := Tbl.erase s.mil.subs k } }

/-! ### Assemblies (R490 to R492) -/

/-- The first assembly of a request. -/
def assemblyOf (s : State) (op reqSeq : Nat) (split : Bool) : Option (Nat × Assembly) :=
  List.find? (fun a : Nat × Assembly => decide (a.2.op = op) && decide (a.2.reqSeq.toNat = reqSeq) && a.2.split == split) s.mil.assemblies

/-- The assembly that a part joins: its own, or a free one of four for a body of at most 256 KiB. -/
def joinAssembly (s : State) (op : Nat) (reqSeq : W64) (split : Bool) (total : Nat) : Option (Nat × Assembly) :=
  match assemblyOf s op reqSeq.toNat split with
  | some a => if a.2.total = total then some a else none
  | none =>
    if total > 262144 ∨ (op = 0x0050 ∧ !split) then none
    else ((List.range 4).find? (fun k => (Tbl.find? s.mil.assemblies k).isNone)).map (fun k => (k, { op := op, reqSeq := reqSeq, split := split, total := total, parts := [] }))

/-- Whether a part finds every assembly taken by other requests (R491, R494). -/
def noAssembly (s : State) (op : Nat) (reqSeq : W64) (split : Bool) (total : Nat) : Bool :=
  (assemblyOf s op reqSeq.toNat split).isNone && decide (total ≤ 262144) && (op != 0x0050 || split)
    && (List.range 4).all (fun k => (Tbl.find? s.mil.assemblies k).isSome)

/-- CONTINUATION_PART (R484, R490 to R492): the last byte ends the assembly; the request that it makes is a command of its own (assumption 63), and a
body that fails its hash gets STATUS 6, a part without an assembly STATUS 8 (R494). -/
def execContinuationPart (net : Datagram) (op : W16) (reqSeq : W64) (split : Bool) (total offset : Nat) (len : Nat) (hashOk : Bool) (s : State) : Res :=
  if !(millerHears s op.toNat) ∨ !(millerPacket s net) ∨ len = 0 ∨ (if split then 1016 else 1020) < len ∨ total < offset + len then .next s
  else
    match joinAssembly s op.toNat reqSeq split total with
    | none => .next (if noAssembly s op.toNat reqSeq split total then bucketReply s net.src (.mreply net.src op.toNat reqSeq 8 []) else s)
    | some (k, a) =>
      let parts := if a.parts.any (fun p => p.1 == offset) then a.parts else a.parts ++ [(offset, len)]
      let whole := decide (total ≤ (parts.map (·.2)).sum)
      let s1 := { s with mil := { s.mil with
        assemblies := if whole then Tbl.erase s.mil.assemblies k else s.mil.assemblies.set k { a with parts := parts } } }
      .next (if whole && !split && !hashOk then bucketReply s1 net.src (.mreply net.src op.toNat reqSeq 6 []) else s1)

/-- ASSEMBLY_TIMEOUT (R491, R492). -/
def execAssemblyTimeout (k : Fin 4) (s : State) : Res := .next { s with mil := { s.mil with assemblies := Tbl.erase s.mil.assemblies k } }

/-! ### The link and time (R484 to R486) -/

/-- MANAGEMENT_LINK_LOSS (R486): the link goes down, or returns. -/
def execManagementLinkLoss (up : Bool) (s : State) : Res := .next { s with mil := { s.mil with link := up } }

/-- PTP_MESSAGE (R485): with PTP_EN set, a message of the domain of PTP_DOMAIN sets Miller time and gives the lock. -/
def execPtpMessage (domain : W8) (timeNs : W64) (lock : Bool) (s : State) : Res :=
  if s.mil.link && s.mil.netCfg.getLsbD 1 && s.mil.mstate == 1 && s.mil.netCfg.extractLsb' 2 8 == domain then .next { s with mil := { s.mil with ptpNs := timeNs.toNat, ptpLocked := lock } }
  else .next s

/-! ### Quiesce and resume (R44 to R47, R462, R493) -/

def maskCtxs (mask : W32) : List Nat := (List.range 32).filter (fun c => mask.getLsbD c)

/-- QUIESCE: a drain of the named contexts that run. -/
def execQuiesce (m : MilHdr) (mask : W32) (s : State) : Res :=
  plainRequest m 0x0032 .operator false (fun s =>
    .now (((maskCtxs mask).filter (fun c => (s.ctx c).state == .running)).foldl (holdCtx 16) s) 0 []) s

/-- The causes that the Operator's resume ends: QUIESCE, the watchdog, an incomplete reduction (R47, R410, R502). -/
def operatorCause (k : Nat) : Bool := k == 16 || k == 17 || k == 18

/-- A context resumes unless another cause holds it, or it is a takeover context before takeover (R47, R400, R424). -/
def resumeHeld (s : State) (c : Nat) : State :=
  let holds := s.mil.holds.filter (fun h => !(operatorCause h.1 && h.2 == c))
  let s1 := { s with mil := { s.mil with holds := holds } }
  if holds.any (fun h => h.2 == c) ∨ ((s.ctx c).takeover ∧ pairMode s) then s1 else resumeCtx s1 c

/-- RESUME (R47, R410, R462, R493). -/
def execResume (m : MilHdr) (mask : W32) (s : State) : Res :=
  plainRequest m 0x0033 .operator false (fun s =>
    let s1 := (maskCtxs mask).foldl resumeHeld s
    .now (settle (wakeAllRounds { s1 with pair := { s1.pair with incompleteRed := s1.pair.incompleteRed && s1.mil.holds.any (fun h => h.1 == 18) } })) 0 []) s

end Sys2Proof.Machine
end

