-- ==== Sys2Proof/Machine/Faults.lean ====
section
/-!
DEFINITION. Single-part faults and their recovery: Stones, Querns, Bin pages and rows, Store ways, bonds, the reference clock, the Miller's
watchdog, and the repair of a page from the twin (spec/01, R32 to R37; spec/08, R236 to R245; spec/15, R386 to R396, R403; R502).
-/

namespace Sys2Proof.Machine

/-! ### Querns and their physical units (R21, R159, R467 to R469) -/

/-- The number of a physical Quern: Stone × 34 + index (R470). -/
def physNo (n i : Nat) : Nat := n * 34 + i

/-- The units of a kind that the fuses or the defect list mark bad (R469, R470). -/
def markedUnits (s : State) (kind : Nat) : List Nat :=
  ((s.boot.fuses.filter (·.1 == kind)).map (·.2) ++ (s.boot.defects.filter (·.kind == kind)).map (·.location)).eraseDups

/-- Whether the fuses or the defect list mark a physical Quern bad (R469). -/
def markedQuern (s : State) (k : Nat) : Bool := (markedUnits s 1).contains k

/-- The enabled physical Querns of a Stone after a test: those that pass and that neither fuses, list nor running package exclude (R469). -/
def setPhys (n : Nat) (ok : List Bool) (s : State) : State := { s with boot := { s.boot with physOk := s.boot.physOk.set n ok } }

/-- A physical Quern is disabled and recorded (R392, R469, R470). -/
def disablePhys (n i source : Nat) (s : State) : State :=
  addDefect (setPhys n ((s.boot.physOk.getD n []).set i false) s) 0x01 source 0 (physNo n i) 0

/-- The logical Querns of a Stone mapped in order onto its enabled physical ones; none with fewer than 32 (R467, R468). -/
def mapQuerns (n : Nat) (s : State) : State :=
  let ok := okQuerns s n
  let other := s.boot.quernMap.filter (fun m => m.1 / 32 != n)
  let m := if ok.length < 32 then other
    else (List.range 32).foldl (fun t i => Tbl.set t (n * 32 + i) (physNo n (ok.getD i 0))) other
  { s with boot := { s.boot with quernMap := m } }

/-- A spare of a Stone: an enabled physical Quern that no logical number uses (R468). -/
def spareOf (s : State) (n : Nat) : Option Nat := (okQuerns s n).find? (fun i => !(s.boot.quernMap.any (fun m => m.2 == physNo n i)))

/-- A Quern is loaded after its power returned: the state of R159, with nothing in its arrays (assumption 10). -/
def loadQuern (s : State) (q : Nat) : State :=
  { s.setQuern q { loaded := true } with mem := Memory.clear s.mem (winBase q) 0x4000000 }

def stoneQuerns (n : Nat) : List Nat := (List.range 32).map (n * 32 + ·)

/-! ### Halts and rewinds of the Miller (R268, R388, R396) -/

def stoneCause (n : Nat) : Nat := 24 + n
def quernCause (q : Nat) : Nat := 64 + q
def clockCause : Nat := 32

/-- The contexts that a cause holds. -/
def heldBy (s : State) (cause : Nat) : List Nat := (s.mil.holds.filter (fun h => h.1 == cause)).map (·.2)

/-- A cause ends without a resume: its contexts stay HALTED. -/
def forgetCause (cause : Nat) (s : State) : State := { s with mil := { s.mil with holds := s.mil.holds.filter (fun h => h.1 != cause) } }

/-- The steps of a context's entries that are not final. -/
def openSteps (s : State) (c : Nat) : List Nat :=
  (((s.pool.filter (fun e => e.2.hopper / 2 == c && e.2.state != .granted)).map (fun e => e.2.step.toNat)) ++ (s.ctx c).steps.map (·.1)).eraseDups.filter
    (fun n => !((s.ctx c).isFinal n))

/-- The Miller's rewind of every step that is not final, in the backward-in Hopper or in both (R388, R396). -/
def rewindOpen (both : Bool) (s : State) (c : Nat) : State := (openSteps s c).foldl (fun s n => rewindStep c n both true s) s

/-- The end of a recovery: the contexts of a cause rewind and resume. -/
def recoverCause (both : Bool) (cause : Nat) (s : State) : State := releaseCause cause ((heldBy s cause).foldl (rewindOpen both) s)

/-! ### Stones (R386 to R391) -/

/-- A Stone is fenced, its moves are cancelled, and the contexts that name it halt (R36, R387, R388 step 1). -/
def fenceStone (n : Nat) (s : State) : State :=
  let s1 := (stoneCtxs s n).foldl (haltFor (stoneCause n)) (s.updStone n (fun x => { x with fenced := true, probesMissed := 0 }))
  (stoneQuerns n).foldl (fun s q => (cancelMoves s q).updQuern q (fun v => { v with fenced := true })) s1

/-- A Stone stops for a reason that its event names (R387, R388 step 1). -/
def stopStone (n : Nat) (why : List Nat) (s : State) : State :=
  if (s.stone n).fenced ∨ !(s.boot.stonesEn.getLsbD n) then s
  else overlapping false s (logEvent (fenceStone n s) evStoneReset scStone n why)

/-- The reply that a reset of the Stone waits for (R388, R494). -/
def answerStone (n status : Nat) (s : State) : State :=
  match Tbl.find? s.mil.awaitStone n with
  | none => s
  | some m => signedReply m (replyOf m 0x0034 status []) { s with mil := { s.mil with awaitStone := Tbl.erase s.mil.awaitStone n } }

/-- A degraded package leaves its pair (R391, R402). -/
def degradedLeaves (s : State) : State := if pairMode s then leavePair 1 s else s

/-- The Stone is disabled and the package is degraded; its contexts stay HALTED (R391). -/
def degradeStone (n source : Nat) (s : State) : State :=
  let s1 := { s with boot := { s.boot with
    stonesEn := s.boot.stonesEn &&& ~~~((1 : BitVec 4) <<< n), degraded := true, quernMap := s.boot.quernMap.filter (fun m => m.1 / 32 != n) } }
  let s2 := logEvent (addDefect s1 0x02 source 0 n 0) evDegrade scStone n []
  let s3 := (stoneQuerns n).foldl (fun s q => forgetCause (quernCause q) s) (forgetCause (stoneCause n) s2)
  degradedLeaves s3

/-- STONE_PROBE (R387): the eighth probe without an answer stops the Stone. -/
def execStoneProbe (n : Fin 4) (answered : Bool) (s : State) : Res :=
  whileClocked s (
    let x := s.stone n
    if !(s.boot.stonesEn.getLsbD n) ∨ x.fenced then .next s
    else if answered then .next (s.setStone n { x with probesMissed := 0 })
    else if x.probesMissed + 1 < 8 then .next (s.setStone n { x with probesMissed := x.probesMissed + 1 })
    else .next (stopStone n [] s))

/-- STONERESET (R388, R462, R493, R494): the reply comes with the end of the recovery. -/
def execStonereset (m : MilHdr) (stone : Fin 4) (s : State) : Res :=
  plainRequest m 0x0034 .operator false (fun s =>
    if !(s.boot.stonesEn.getLsbD stone) ∨ (Tbl.find? s.mil.awaitStone stone).isSome then .now s 3 []
    else
      let s1 := stopStone stone [] s
      .later { s1 with mil := { s1.mil with awaitStone := s1.mil.awaitStone.set stone m } }) s

/-- The union rule on a restarted Stone (R388 step 3, R469): a Quern that was enabled and now fails is recorded. -/
def restartUnion (n : Nat) (pass : List Bool) (s : State) : State :=
  (okQuerns s n).foldl (fun s i => if pass.getD i false then s else disablePhys n i 3 s) s

/-- STONE_RECOVERY (R388 steps 2 to 6, R391). -/
def execStoneRecovery (n : Fin 4) (o : RestartOutcome) (s : State) : Res :=
  whileClocked s (
    if !((s.stone n).fenced) then .next s
    else
      let s1 := if o.railUp then restartUnion n o.pass s else s
      if !o.railUp ∨ (okQuerns s1 n).length < 32 ∨ !o.loadOk then .next (answerStone n 3 (degradeStone n 3 s1))
      else
        let s2 := (stoneQuerns n).foldl loadQuern (mapQuerns n s1)
        let s3 := s2.updStone n (fun x => { x with fenced := false })
        let s4 := (stoneQuerns n).foldl (fun s q => recoverCause false (quernCause q) s) (recoverCause false (stoneCause n) s3)
        .next (answerStone n 0 (settle (wakeAllReds s4))))

/-! ### One Quern (R237, R387, R392) -/

/-- A Quern is fenced, its contexts halt and its moves are cancelled; its physical unit is recorded (R392 step 1). -/
def fenceQuern (q phys : Nat) (s : State) : State :=
  let s1 := (ctxsWith s (· == q)).foldl (haltFor (quernCause q)) (s.updQuern q (fun v => { v with fenced := true }))
    |> fun s => cancelMoves s q
  overlapping false s (disablePhys (q / 32) (phys % 34) 3 s1)

/-- The spare takes the logical number and is loaded (R392 steps 2 and 3). -/
def substitute (q old i : Nat) (s : State) : State :=
  let s1 := { s with boot := { s.boot with quernMap := s.boot.quernMap.set q (physNo (q / 32) i) } }
  let s2 := logEvent (loadQuern s1 q) evQuernSubstituted scQuern q [old, physNo (q / 32) i]
  settle (wakeAllReds (recoverCause false (quernCause q) s2))

/-- No spare is left on the Stone: it is as a failed Stone (R386, R391, R392). Its contexts halt and it is fenced, then it is disabled. -/
def noSpare (n : Nat) (s : State) : State := degradeStone n 3 (fenceStone n s)

/-- QUERN_FAULT (R237, R387, R392): a corrected error of the Quern's storage; the Quern's fault; or the next try after a spare that failed its
test. -/
def execQuernFault (q : Fin 128) (o : QuernOutcome) (s : State) : Res :=
  whileClocked s (
    let n := q.val / 32
    match Tbl.find? s.boot.quernMap q with
    | none => .next s
    | some old =>
      if (s.stone n).fenced then .next s
      else if o = .corrected then .next (countCe s)
      else
        let s1 := if (s.quern q).fenced then s else fenceQuern q old s
        match spareOf s1 n with
        | none => .next (noSpare n s1)
        | some i =>
          if o = .spareOk then .next (substitute q old i s1)
          else
            let s2 := disablePhys n i 3 s1
            .next (if (spareOf s2 n).isNone then noSpare n s2 else s2))

/-! ### Pages and their frames (R219, R238 to R243) -/

/-- The context that a reading party's error halts (R239). -/
def readerCtx (s : State) : Reader → Option Nat
  | .move q => (s.quern q).run.map (fun sl => sl.load.ctx)
  | .flume f => some (s.flume f).owner
  | .reduction c => some c.val
  | .prefetch _ => none
  | .miller => none

/-- A corrected error that a reading party, a patrol read or a copy meets; a row that fails with it while another unit's recovery runs is an
overlapping fault (R15, R238, R241). -/
def meetCorrected (f : Nat) (s : State) (g : Nat) : State :=
  if rowFails s f g then overlapping false s (correctedError f s g) else correctedError f s g

/-- Contexts that are loaded. -/
def allCtxs (s : State) : List Nat := (s.ctxs.filter (fun x => x.2.state != .unloaded)).map (·.1)

def haltReader (s : State) (p : Nat) (r : Reader) : State :=
  match readerCtx s r with
  | some c => haltFor (pageCause p) s c
  | none => s

/-- A fault of the Spur (R13, R225): no rule recovers its work inside the package. Every loaded context halts for good, and in pair mode the
package leaves with the reason that R402 gives for it. -/
def spurFault (s : State) : State :=
  let s1 := (allCtxs s).foldl haltCtx s
  if pairMode s1 then leavePair 3 s1 else s1

/-- UNCORRECTABLE_ERROR: an uncorrectable granule of a page (R239, R240 steps 1 to 4), a corrected one that a reading party meets (R238), or an
uncorrectable entry of one copy of the Imposition table or of both (R225). -/
def execUncorrectableError (page : BitVec 19) (found : Found) (reader : Reader) (s : State) : Res :=
  whileClocked s (
    let p := page.toNat
    match found with
    | .granule g =>
      if backed s p then .next (overlapping true s (haltReader (damageFrame (s.page p).frame p g.toNat s) p reader)) else .next s
    | .corrected g => if backed s p then .next (meetCorrected (s.page p).frame s g.toNat) else .next s
    | .entry second => .next (repairEntry second p s)
    | .entryBoth => .next (spurFault s))

/-! ### What a page holds (R393 to R395) -/

/-- The pages of an entry's input payload; the retained area follows them (R253). -/
def Entry.payloadPages (e : Entry) : List Nat := e.inPages.take ((e.len + 2 ^ 20 - 1) / 2 ^ 20)
def Entry.workPages (e : Entry) : List Nat := e.inPages.drop ((e.len + 2 ^ 20 - 1) / 2 ^ 20) ++ e.outPages

/-- An input payload is recalled; on a LOCAL Flume it is copied again from the output (R393). -/
def recallEntry (s : State) (k : Nat) : State :=
  match s.entry? k with
  | none => s
  | some e =>
    if localFlume s e.flume then copyLocal s k e
    else sendFlume (s.setEntry k { e with recalled := true }) e.flume (.receipt e.flume (s.flume e.flume).far e.seq e.step 3)

/-- The step of an entry is rewound in both Hoppers (R268, R395): a context that runs or drains is halted for it, and resumes with the end of
the recovery. -/
def rewindEntry (page : Nat) (s : State) (k : Nat) : State :=
  match s.entry? k with
  | none => s
  | some e =>
    let c := e.hopper / 2
    let st := (s.ctx c).state
    let s1 := if st == .running || st == .draining then haltFor (pageCause page) s c else s
    if atRest (s1.ctx c) then rewindStep c e.step.toNat true true s1 else s1

/-- Entries, not released, with one of the pages in a list of theirs. -/
def entriesWith (s : State) (ps : List Nat) (l : Entry → List Nat) : List Nat :=
  (s.pool.filter (fun e => e.2.state != .granted && (l e.2).any ps.contains)).map (·.1)

/-- Whether a page is model state, a reduction's array, or a page that the user writes: neither a list page nor an entry's (R395). -/
def userPage (s : State) (p : Nat) : Bool :=
  !(s.pool.any (fun e => (e.2.inPages ++ e.2.outPages).contains p)) && !((s.ctx (s.page p).owner).free.contains p)

/-- RFETCH for every unit of a page that holds an unreadable granule (R403). -/
def fetchUnits (s : State) (p : Nat) : State :=
  (((s.badGranules p).map (· / 32)).eraseDups).foldl (fun s u =>
    if p < 262144 then sendTwin s 0xB [p, u, 1] [] else sendTwin s 0xB [p - 262144, u, 0] []) s

/-- The recovery of a damaged page by what it holds (R240 step 6, R395). A page without a frame is the user's (R243). -/
def recoverPages (ps : List Nat) (s : State) : State :=
  let s1 := (entriesWith s ps Entry.payloadPages).foldl recallEntry s
  let s2 := (entriesWith s1 ps Entry.workPages).foldl (rewindEntry (ps.headD 0)) s1
  let user := ps.filter (fun p => userPage s2 p || (s2.page p).state == .unbacked)
  if user.isEmpty then settle (wakeAllReds (ps.foldl (fun s p => releaseCause (pageCause p) s) s2))
  else if pairMode s2 ∧ !(ps.any (fun p => (s2.page p).state == .unbacked)) then user.foldl fetchUnits s2
  else ps.foldl (fun s p => forgetCause (pageCause p) s) s2

/-- PAGE_MIGRATION (R240 steps 5 and 6, R242, R243, R393 to R395, R403): the next chunks of the page's retiring frame are copied, the first
command being the one that begins the migration; when the last chunk is done, or without a reserve frame, the page's contents recover. For a
page whose frame has moved already it is the recovery alone. -/
def execPageMigration (page : BitVec 19) (chunks : BitVec 9) (unreadable : List (BitVec 14)) (s : State) : Res :=
  whileClocked s (
    let p := page.toNat
    let e := s.page p
    let f := e.frame
    if e.state = .unmapped then .next s
    else if s.mm.retiring.contains f ∧ e.state ≠ .unbacked then
      let ps := pagesOf s f
      let s1 := if (s.mm.migr.find? f).isSome then s else startMigration f s
      let s2 := migrateChunks f p chunks.toNat ((unreadable.map (·.toNat)).eraseDups) s1
      .next (if s2.mm.retiring.contains f then s2 else recoverPages ps s2)
    else if e.state = .mapped then .next s
    else .next (recoverPages (if e.state = .unbacked then [p] else pagesOf s f) s))

/-- What an RDATA does (R402, R403): the unit is stored, and a page without marks lets its contexts resume; on BAD the recovery is the user's, as
in single-package mode (R395). -/
def rdataActs (t : TwinHdr) (vpage : BitVec 19) (unit : BitVec 9) (mirror bad : Bool) (bytes : List W8) (s : State) : State :=
  onTwin t (fun s =>
    let p := if mirror then vpage.toNat else mirrorPage vpage.toNat
    let ps := pagesOf s (s.page p).frame
    if (s.page p).state ≠ .damaged then s
    else if bad then ps.foldl (fun s p => forgetCause (pageCause p) s) s
    else if bytes.length ≠ 2048 then s
    else
      let s1 := storeBytes s (cellsAt (p * 2 ^ 20 + unit.toNat * 2048) bytes)
      if (s1.page p).state = .mapped then settle (wakeAllReds (ps.foldl (fun s p => releaseCause (pageCause p) s) s1)) else s1) s

/-- ROW_REMAP (R240 from step 4, R241). -/
def execRowRemap (row : RowLoc) (uncorrectable : Option (BitVec 14)) (s : State) : Res :=
  whileClocked s (
    let f := rowFrame row
    if s.mm.retiring.contains f ∨ s.mm.retired.contains f then .next s
    else
      let s1 := remapRow row 3 s
      match uncorrectable with
      | some g => .next (overlapping false s (if (pagesOf s1 f).isEmpty then s1 else damageFrame f (framePage s1 f) g.toNat s1))
      | none => .next (overlapping false s s1))

/-- PATROL_READ of one mapped frame (R238, R239, R241, R245): nothing stops. -/
def execPatrolRead (frame : BitVec 19) (corrected : List (BitVec 14)) (uncorrectable : Option (BitVec 14)) (s : State) : Res :=
  whileClocked s (
    let f := frame.toNat
    if (pagesOf s f).isEmpty then .next s
    else
      let s1 := (corrected.map (·.toNat)).foldl (meetCorrected f) s
      match uncorrectable with
      | some g => .next (overlapping true s (damageFrame f (framePage s1 f) g.toNat s1))
      | none => .next s1)

/-! ### Store ways (R244) -/

/-- STORE_UNCORRECTABLE (R238, R239, R244): a clean line is dropped and its way counted, and disabled at the second failure; a dirty line's
granule is lost; a corrected granule is counted for the part and the page, and against no row, since no row has failed (assumption 117). -/
def execStoreUncorrectable (page : BitVec 19) (granule : BitVec 14) (way : Fin 16) (line : StoreError) (reader : Reader) (s : State) : Res :=
  whileClocked s (
    let p := page.toNat
    if !(backed s p) then .next s
    else
      let f := frameAt s (s.page p) (granule.toNat * 64)
      let l := f * 2048 + granule.toNat / 8
      let set := storeSet l
      match line with
      | .corrected => .next ((pagesOf s (s.page p).frame).foldl (fun s p => s.setPage p { s.page p with cecount := satAdd (s.page p).cecount 1 255 }) (countCe s))
      | .dirty =>
        .next (overlapping false s (disableWay set way 3 (eraseLine l (haltReader (damageFrame (s.page p).frame p granule.toNat s) p reader))))
      | .clean =>
        let key := set * 16 + way.val
        let s1 := countUe p granule.toNat (eraseLine l s)
        if s.mm.waysHit.contains key then .next (overlapping false s (disableWay set way 3 s1))
        else .next { s1 with mm := { s1.mm with waysHit := s1.mm.waysHit ++ [key] } })

/-! ### Bonds (R32 to R34, R470, R531) -/

def siteGroups : BondSite → Nat
  | .stone _ => 256 | .bin _ => 64 | .guest => 32

/-- KIND of a group's record, that of a bond being one more, and LOCATION; the guest bond has none (R470). -/
def bondKind : BondSite → Option Nat
  | .stone _ => some 3 | .bin _ => some 5 | .guest => none

def bondLocation (site : BondSite) (group bond : Nat) : Nat :=
  match site with
  | .stone n => n.val * 2 ^ 30 + group * 2 ^ 22 + bond % 1024
  | .bin b => b.val * 2 ^ 30 + group * 2 ^ 24 + bond % 1024
  | .guest => 0

def siteScope : BondSite → Nat × Nat
  | .stone n => (scStone, n.val) | .bin b => (scBin, b.val) | .guest => (scPackage, 0)

def bondDefect (site : BondSite) (group bond : Nat) (spare : Bool) (source : Nat) (s : State) : State :=
  match bondKind site with
  | some k => addDefect s (if spare then k + 1 else k) source (if spare then 1 else 0) (bondLocation site group (if spare then bond else 0)) 0
  | none => s

/-- A Bin with 8 groups off counts as failed (R34). -/
def degradeBin (b : Nat) (s : State) : State :=
  if !(s.boot.binsEn.getLsbD b) then s
  else
    degradedLeaves (logEvent { s with
      mm := { s.mm with binDegraded := s.mm.binDegraded.set b true }
      boot := { s.boot with binsEn := s.boot.binsEn &&& ~~~((1 : BitVec 4) <<< b), degraded := true } } evDegrade scBin b [])

/-- The guest site with 8 groups off: its windows close and stay closed (R532). -/
def degradeGuest (s : State) : State :=
  if s.sec.guestHeld then s
  else logEvent { s with sec := { s.sec with guestHeld := true, windowsOpen := false } } evDegrade scPackage 0 []

/-- What follows from the groups that a die's bond has lost (R34, R391). -/
def bondConsequence (site : BondSite) (s : State) : State :=
  match site with
  | .stone n => if 32 ≤ groupsOffIn s n.val ∧ s.boot.stonesEn.getLsbD n then degradeStone n 3 (stopStone n [] s) else s
  | .bin b => if 8 ≤ groupsOffIn s (4 + b.val) then degradeBin b s else s
  | .guest => if 8 ≤ groupsOffIn s 8 then degradeGuest s else s

/-- A bond group is disabled. -/
def disableGroup (site : BondSite) (group source : Nat) (s : State) : State :=
  let k := groupKey site group
  if s.boot.groupsOff.contains k then s
  else
    let s1 := { s with boot := { s.boot with groupsOff := s.boot.groupsOff ++ [k] } }
    logEvent (bondDefect site group 0 false source s1) evBondGroup (siteScope site).1 (siteScope site).2 [group]

/-- One failed bond: a spare of its group replaces it, or the group is disabled (R33). -/
def failBond (l : BondLoc) (source : Nat) (s : State) : State :=
  let k := groupKey l.site l.group
  let used := s.boot.sparesUsed.getD k 0
  if siteGroups l.site ≤ l.group ∨ s.boot.groupsOff.contains k then s
  else if used < 32 then
    let s1 := { s with boot := { s.boot with sparesUsed := s.boot.sparesUsed.set k (used + 1) } }
    logEvent (bondDefect l.site l.group l.bond true source s1) evBondSpare (siteScope l.site).1 (siteScope l.site).2 [l.group, l.bond]
  else disableGroup l.site l.group source s

/-- BOND_FAILURE (R33, R34, R531, R532). -/
def execBondFailure (l : BondLoc) (s : State) : Res := .next (bondConsequence l.site (failBond l 3 s))

/-! ### The reference clock (R37, R396) -/

/-- REFERENCE_CLOCK_LOSS (R37, R396, R514): whichever of the four inputs stops. -/
def execReferenceClockLoss (refclk : Fin 4) (s : State) : Res :=
  let s1 := { s with board := { s.board with refclk := s.board.refclk &&& ~~~((1 : BitVec 4) <<< refclk.val) } }
  if s.board.haltedByClock ∨ !s.board.pwrgood then .next s1
  else
    let s2 := logEvent { s1 with board := { s1.board with haltedByClock := true } } evClockLoss scPackage 0 []
    .next ((s2.querns.map (·.1)).foldl cancelMoves ((allCtxs s2).foldl (haltFor clockCause) s2))

/-- The Races train again, their numbering kept (R342, R396). -/
def retrainAll (s : State) : State :=
  (List.range 32).foldl (fun s r => if raceEnabled s r && !(idleRace s r) then retrainRace s r else s) s

/-- The Bins' contents are lost: every page behind a frame is LOST (R396). -/
def loseBins (s : State) : State :=
  let lost (e : ImpEnt) : ImpEnt :=
    if e.state == .mapped || e.state == .migrating || e.state == .damaged then { e with state := .lost } else e
  { s with mm := { s.mm with
    imp := Tbl.mapV s.mm.imp (fun _ e => lost e), impB := Tbl.mapV s.mm.impB (fun _ e => lost e), unreadable := [] } }

/-- REFERENCE_CLOCK_RESUME (R37, R396): INTACT, or the Bins' contents count as lost and the contexts stay halted. -/
def execReferenceClockResume (within60s : Bool) (binLapse : Bool) (s : State) : Res :=
  let s1 := { s with board := { s.board with refclk := 0xF } }
  if !s.board.haltedByClock then .next s1
  else
    let intact := within60s && !binLapse
    let s2 := retrainAll { s1 with board := { s1.board with haltedByClock := false, intact := intact } }
    if intact then .next (settle (wakeAllReds (logEvent (recoverCause true clockCause s2) evClockResume scPackage 0 [1])))
    else
      let s3 := forgetCause clockCause (logEvent (loseBins s2) evClockResume scPackage 0 [0])
      .next (if pairMode s3 then leavePair 3 s3 else s3)

/-! ### The Miller's watchdog (R488, R491, R500, R502) -/

/-- A Miller boot draws a BOOT_ID and forgets what only its firmware held. -/
def freshMiller (s : State) : State :=
  { s.nextFree with mil := { s.mil with
    mstate := 1, bootId := Config.random s.freeCtr, lastOwner := 0, lastOperator := 0, replyOwner := none, replyOperator := none, awaitStone := [],
    keyOwner := false, keyOperator := false, assemblies := [], subs := [], ptpLocked := false } }

/-- The slot that boots: the valid one of higher SECVER, the preferred one of equals; none when neither is valid (R460, R501). -/
def bootSlot (x : FwSlots) (okA okB : Bool) : Option Bool :=
  match okA, okB with
  | true, true => some (if x.a.1 < x.b.1 then true else if x.b.1 < x.a.1 then false else x.preferB)
  | true, false => some false
  | false, true => some true
  | false, false => none

/-- A re-calibration that runs is aborted (R478, R479). -/
def abortRecal (s : State) : State :=
  if 1 ≤ s.boot.calPhase ∧ s.boot.calPhase ≤ 3 then { s with boot := { s.boot with calPhase := 0, calResult := 3 } } else s

/-- MILLER_WATCHDOG_RESET (R502). -/
def execMillerWatchdogReset (within60s : Bool) (s : State) : Res :=
  if s.mil.mstate ≠ 1 then .next s
  else
    let running := runningCtxs s
    let s1 := abortRecal (freshMiller { s with sec := { s.sec with heldAdmit := none } })
    let s2 := logEvent { s1 with mil := { s1.mil with wdogResets := satAdd s1.mil.wdogResets 1 255 } } evMillerWatchdog scPackage 0 []
    if within60s then .next ((allCtxs s2).foldl (haltFor 17) s2)
    else .next (settle (running.foldl (fun s c => resumeCtx (drainCtx s c) c) s2))

end Sys2Proof.Machine
end

