-- ==== Sys2Proof/Machine/Security.lean ====
section
/-!
DEFINITION. The job's life: Colophon, admission, end, scrub, Frisket change, and the guest die's accesses (spec/17, R435 to R458; R42, R43,
R493).
-/

namespace Sys2Proof.Machine

/-! ### The Colophon (R448, R453, R454) -/

/-- The words of a Frisket record, for its hash (R448). -/
def friskWords (f : FrisketRec) : List Nat :=
  [f.seq.toNat, f.ownerHash.toNat, f.operatorHash.toNat, f.dbg.toNat, f.jobView.toNat, f.keypol.toNat, f.ndigest.toNat, f.fwFloor.toNat,
    f.gflumeBase.toNat, f.gflumeCount.toNat]
    ++ f.gwin.flatMap (fun w => [gwinWord0 w, w.sizeMib.toNat]) ++ f.digests.map (·.toNat)

/-- The words of the calibration store, for its hash (R478). -/
def calWords (s : State) : List Nat :=
  s.part.serial.toNat :: (List.range 4).flatMap (fun n =>
    let x := s.stone n
    x.ts ++ x.k ++ x.delay ++ x.guard ++ [x.tsRef0.toNat, x.cMax])
    ++ (s.boot.racePresets ++ s.boot.hostPresets).map (·.toNat) ++ [s.boot.calField.toNat, s.boot.calBootNo.toNat]

/-- Bytes 0x018 to 0x01A of a Colophon: variant, stepping, guest build. -/
def variantWord (s : State) : Nat :=
  (match s.part.variant with | .e => 0 | .m => 1 | .t => 2) + s.part.stepping * 256 + (if s.part.guestBuild then 65536 else 0)

/-- STATE of a Colophon: as ADVERT, and not ready before ready (R364, R462). -/
def colophonState (s : State) : Nat := if s.boot.stage = 7 ∨ s.boot.stage = 8 then advertState s else 3 + (if s.boot.degraded then 4 else 0)

/-- A Colophon of the present state (R453). -/
def makeColophon (s : State) (nonce : W128) : ColophonRec :=
  { serial := s.part.serial, variant := variantWord s, fwHashes := s.boot.fw.map (fun x => x.running.2), calHash := Config.sha256 (calWords s)
    frisketHash := Config.sha256 (friskWords s.sec.frisket), frisketSeq := s.sec.frisket.seq, fwFloor := s.sec.frisket.fwFloor
    secver := millerSecver s, keyHash := s.part.keyHash, seq := s.sec.coloSeq + 1, nonce := nonce
    defectHash := Config.sha256 (s.boot.defects.flatMap Defect.words), adv := colophonState s
    jobId := if s.sec.phase = .admitted then s.sec.jobId else 0, scrub := s.sec.scrub }

/-- A new current Colophon (R454). -/
def issueColophon (s : State) : State :=
  let c := makeColophon s 0
  { s with sec := { s.sec with coloSeq := c.seq, colophon := c } }

/-- A fresh Colophon with a nonce; the current one does not change (R454). -/
def freshColophon (nonce : W128) (s : State) : ColophonRec × State :=
  let c := makeColophon s nonce
  (c, { s with sec := { s.sec with coloSeq := c.seq } })

/-- A request that needs the security engine: while the engine's clock is stopped it is not ready (R37, R494, assumption 131). -/
def whenEngine (act : State → Reply) (s : State) : Reply := if s.board.haltedByClock then .now s 4 [] else act s

/-- COLOPHON (R454, R462, R490, R493): unsigned within the replies of R490, or signed by either key. -/
def execColophon (m : MilHdr) (nonce : W128) (s : State) : Res :=
  if m.signer = 0 then
    if !(millerHears s 0x0002) ∨ !(millerPacket s m.net) then .next s
    else if !m.formOk then .next (bucketReply s m.src (replyOf m 0x0002 6 []))
    else if s.board.haltedByClock then .next (bucketReply s m.src (replyOf m 0x0002 4 []))
    else
      let (c, s1) := freshColophon nonce s
      .next (bucketReply s1 m.src (.mcolophon m.src m.reqSeq c))
  else
    plainRequest m 0x0002 .either true (whenEngine (fun s =>
      let (c, s1) := freshColophon nonce s
      .form s1 (.mcolophon m.src m.reqSeq c))) s

/-! ### The Frisket (R448 to R451) -/

/-- Held keys whose hash is no longer in force are dropped (R489). -/
def dropKeys (old new : FrisketRec) (s : State) : State :=
  { s with mil := { s.mil with
    keyOwner := s.mil.keyOwner && old.ownerHash == new.ownerHash, keyOperator := s.mil.keyOperator && old.operatorHash == new.operatorHash } }

/-- A record takes effect: event and Colophon (R450 steps 5 and 6). -/
def applyFrisket (f : FrisketRec) (s : State) : State :=
  let s1 := dropKeys s.sec.frisket f { flashWrite s with sec := { s.sec with frisket := f, pendingFrisket := none } }
  issueColophon (logEvent s1 evFrisketChange scPackage 0 [f.seq.toNat])

/-- The first failing check of a Frisket change beside its signatures, or 0 (R449, R450 step 3): 1 SEQ, 2 the keys, 3 equal hashes, 5 the floor,
6 reserved bytes, 7 an enrolment during a job. -/
def frisketCheck (s : State) (m : MilHdr) (f : FrisketRec) (reservedZero : Bool) : Nat :=
  let cur := s.sec.frisket
  if f.seq ≠ cur.seq + 1 then 1
  else if !m.keys then 2
  else if f.ownerHash = f.operatorHash then 3
  else if f.ownerHash = 0 ∨ f.operatorHash = 0 then 2
  else if !(enrolled s) ∧ (m.ownerHash ≠ f.ownerHash ∨ m.operatorHash ≠ f.operatorHash) then 2
  else if f.fwFloor < cur.fwFloor then 5
  else if !reservedZero then 6
  else if !(enrolled s) ∧ s.sec.phase = .admitted then 7
  else 0

/-- FRISKET (R43, R449, R450, R462): applied at once without a job and a scrub, otherwise at the next admission. -/
def execFrisket (m : MilHdr) (rec : FrisketRec) (reservedZero : Bool) (s : State) : Res :=
  milRequest m 0x0040 .both true (fun s => frisketViolation s [4]) (fun s =>
    match frisketCheck s m rec reservedZero with
    | 0 =>
      if s.sec.phase = .noJob ∧ !s.sec.scrubPending then .now (applyFrisket rec s) 0 []
      else .now { flashWrite s with sec := { s.sec with pendingFrisket := some rec } } 0 []
    | k => .now (frisketViolation s [k]) (if k = 6 then 6 else 3) [k]) s

/-! ### Admission (R42, R43, R439 to R441) -/

def risingMembers : List Member → Bool
  | a :: b :: t => decide (a.member.toNat < b.member.toNat) && risingMembers (b :: t)
  | _ => true

/-- TWIN is symmetric (R440). -/
def twinsOk (l : List Member) : Bool :=
  l.all (fun a => a.twin == 0xFFFF || l.any (fun b => decide (b.member.toNat = a.twin.toNat) && decide (b.twin.toNat = a.member.toNat)))

/-- The member table with SELF's entry (R439, R440, R441 step 3). -/
def bundleOk (s : State) (b : Bundle) : Bool :=
  b.jobId != 0 && b.reservedZero && decide (1 ≤ b.members.length) && decide (b.members.length ≤ 4095) && risingMembers b.members && twinsOk b.members
    && b.members.all (fun x => !x.host || x.keyHash == 0)
    && b.members.any (fun x => x.member == b.self && !x.host && x.keyHash == s.part.keyHash)

/-- A refused admission (R441). -/
def admitRefused (step : Nat) (s : State) : State :=
  logEvent { s with sec := { s.sec with admitRefused := satAdd s.sec.admitRefused 1 65535 } } evAdmissionRefused scPackage 0 [step]

/-- The n highest frames of a Bin, from `top` down, that are not retired. -/
def takeDown (retired : List Nat) : Nat → Nat → Nat → List Nat
  | 0, _, _ => []
  | fuel + 1, n, top => if n = 0 ∨ top = 0 then []
    else if retired.contains (top - 1) then takeDown retired fuel n (top - 1) else (top - 1) :: takeDown retired fuel (n - 1) (top - 1)

/-- The reserve of an admission: RESERVE_PER_BIN frames of each Bin, the highest in number (R243, R246). -/
def renewReserve (s : State) : State :=
  let n := s.mm.reserveNext
  let l := (List.range 4).flatMap (fun b => takeDown s.mm.retired (n + s.mm.retired.length) n ((b + 1) * 131072))
  { s with mm := { s.mm with reserve := l, reservePerBin := n } }

/-- The pair's state at admission (R399, R402). -/
def formPair (p : Pair) : Pair :=
  { pairEn := p.pairEn, autoTko := p.autoTko, twinMember := p.twinMember, holdMs := p.holdMs, tkoMask := p.tkoMask
    phase := if p.pairEn then .paired else .off }

/-- Steps 5 and 6 of an admission (R43, R339, R399, R417, R423, R441, R455, R457). -/
def admitJob (b : Bundle) (s : State) : State :=
  let s1 := match s.sec.pendingFrisket with | some f => applyFrisket f s | none => s
  let s2 := renewReserve { flashWrite s1 with
    sec := { s1.sec with
      phase := .admitted, keySlot := true, jobId := b.jobId, seed := b.seed, self := b.self.toNat, members := b.members, incs := [], ctrs := [], replay := []
      scrubPending := true, windowsOpen := s1.part.guestBuild, guestHeld := false, debugOpen := false, heldAdmit := none }
    pair := formPair s1.pair
    pwr := { s1.pwr with stones := Tbl.mapV s1.pwr.stones (fun _ x => { x with coeff := [] }), ceilCode := variantCeil s1.part.variant
                         energyAtAdmit := s1.pwr.energyUj }
    stepEventLow := none, stepEventBase := s1.timeNs }
  let s3 := issueColophon (logEvent s2 evAdmitted scPackage 0 [])
  (List.range 32).foldl tryAttest s3

/-- Steps 2 to 6 of an admission: the state, and STATUS with the failing step; none while a scrub runs, which holds the request (R43). -/
def tryAdmit (m : MilHdr) (b : Bundle) (s : State) : State × Option (Nat × List Nat) :=
  if s.sec.phase = .scrubbing then
    if s.sec.heldAdmit.isSome then (admitRefused 2 s, some (3, [2])) else ({ s with sec := { s.sec with heldAdmit := some (m, b) } }, none)
  else if s.sec.phase = .admitted ∨ s.boot.listFull then (admitRefused 2 s, some (3, [2]))
  else if !(bundleOk s b) then (admitRefused 3 s, some (6, [3]))
  else if !b.kcvOk then (admitRefused 4 { s with sec := { s.sec with keySlot := false } }, some (5, [4]))
  else (admitJob b s, some (0, []))

/-- ADMIT (R42, R43, R441, R462, R472, R493). -/
def execAdmission (m : MilHdr) (b : Bundle) (s : State) : Res :=
  milRequest m 0x0030 (if s.sec.frisket.keypol.getLsbD 0 then .both else .operator) false (admitRefused 1) (whenEngine (fun s =>
    match tryAdmit m b s with
    | (s1, some (st, d)) => .now s1 st d
    | (s1, none) => .later s1)) s

/-- The admission that waited for the scrub record (R43). -/
def admitHeld (s : State) : State :=
  match s.sec.heldAdmit with
  | none => s
  | some (m, b) =>
    match tryAdmit m b { s with sec := { s.sec with heldAdmit := none } } with
    | (s1, some (st, d)) => signedReply m (replyOf m 0x0030 st d) s1
    | (s1, none) => s1

/-! ### The end of a job (R442, R457) -/

/-- Every host session is freed without reply (R442 step 2). -/
def freeSessions (s : State) : State :=
  (List.range 2).foldl (fun s p => s.updHost p (fun h => { h with sessions := [], slotsFree := 512 })) s

/-- The steps of R442 up to the scrub; on a guest build the guest die is told (R457). -/
def endJob (s : State) : State :=
  let cs := allCtxs s
  let s1 := cs.foldl (fun s c => unloadCtx c s) (cs.foldl haltCtx s)
  let s2 := pumpSessions (logEvent s1 evJobEnded scPackage 0 [])
  let s3 := (List.range 32).foldl (fun s r => if (s.race r).state = .attested then toLinked (emitRace s r .linkWithdraw) r else s) s2
  let s4 := freeSessions s3
  let s5 := { s4 with
    sec := { s4.sec with
      phase := .scrubbing, keySlot := false, endedJob := s4.sec.jobId, jobId := 0, windowsOpen := false, guestWait := s4.part.guestBuild, guestResult := 0 }
    pair := { s4.pair with phase := .off }
    mil := { s4.mil with holds := [] } }
  if s5.part.guestBuild then s5.emit .guestJobEnd else s5

/-- END (R442, R493, R494): refused without an admitted job. -/
def execEndJob (m : MilHdr) (s : State) : Res :=
  plainRequest m 0x0031 .either true (whenEngine (fun s => if s.sec.phase = .admitted then .now (endJob s) 1 [] else .now s 3 [])) s

/-- GUEST_SCRUB_CONFIRM (R457): the answer, or none within 1 s. -/
def execGuestScrubConfirm (confirmed : Bool) (s : State) : Res :=
  if !s.sec.guestWait then .next s
  else
    let s1 := { s with sec := { s.sec with guestWait := false, guestResult := if confirmed then 1 else 2, guestHeld := s.sec.guestHeld || !confirmed } }
    .next (if confirmed then s1 else logEvent s1 evGuestNoConfirm scPackage 0 [])

/-! ### The scrub (R443 to R446) -/

/-- What every location holds after the scrub (R443): bytes zero, Querns as loaded, tables empty. Registers, retired units, counters, and the
loss scales, which no Spur table of R443 holds, stay. -/
def scrubbed (s : State) : State :=
  { s with
    mem := []
    mm := { s.mm with imp := [], impB := [], unreadable := [], fromData := [], migr := [], lines := [], prefetch := [] }
    querns := Tbl.mapV s.querns (fun _ v => { loaded := v.loaded, fenced := v.fenced })
    ctxs := Tbl.mapV s.ctxs (fun _ x => { lscale := x.lscale })
    hoppers := [], pool := [], flumes := [], eds := [], shards := []
    galley := { s.galley with buckets := [], early := [], links := [], scaled := [], fabric := [] }
    races := Tbl.mapV s.races (fun _ x => { x with
      queue := [], retxq := [], unacked := [], rx := {}, lastPeer := none, peer := none, assumed := [] })
    ipWait := s.ipWait.filter (fun w => w.1 == 2)
    sec := { s.sec with members := [], incs := [], ctrs := [], replay := [], seed := 0 }
    pair := { formPair s.pair with phase := .off } }

/-- A Quern that fails the scrub leaves service; a spare takes its number (R392, R444). -/
def failPhys (n i source : Nat) (s : State) : State :=
  if !((s.boot.physOk.getD n []).getD i false) then s
  else
    let s1 := disablePhys n i source s
    match (List.find? (fun m : Nat × Nat => m.2 == physNo n i) s1.boot.quernMap).map (·.1), spareOf s1 n with
    | none, _ => s1
    | some q, some j => { s1 with boot := { s1.boot with quernMap := s1.boot.quernMap.set q (physNo n j) } }
    | some _, none => degradeStone n source s1

/-- A Forme leaves service (R316, R444, R464). -/
def failForme (source : Nat) (s : State) (f : Nat) : State :=
  if s.galley.disabled.contains f then s
  else addDefect (logEvent { s with galley := { s.galley with disabled := s.galley.disabled ++ [f] } } evFormeDisabled scPackage 0 [f]) 0x0A source 0 f 0

/-- The scrub record (R446): END_TIME is that of the record. GUEST is 2 for a guest die that was not asked. -/
def scrubRecord (s : State) (fails frames : Nat) (durationUs : W32) : ScrubRec :=
  { jobId := s.sec.endedJob, endTime := BitVec.ofNat 64 (eventTime s), durationUs := durationUs
    result := if s.boot.stage = 5 then 2 else if fails = 0 then 0 else 1
    guest := if !s.part.guestBuild then 0 else if s.sec.guestResult = 0 then 2 else s.sec.guestResult
    ptp := s.mil.ptpLocked, bytes := Config.scrubBytes s.freeCtr, verifyFail := fails, framesRetired := frames }

/-- SCRUB (R43, R442 step 4, R443 to R446, R454, R461): after a job's end, once the guest die has answered, or at power-up while the mark stands. -/
def execScrub (badFrames : List (BitVec 19)) (badQuerns : List (Fin 4 × Fin 34)) (badWays : List (Nat × Nat)) (badFormes : List Nat)
    (durationUs : W32) (s : State) : Res :=
  whileClocked s (
    let up := s.boot.stage = 5 ∧ s.sec.scrubPending
    if (s.sec.phase = .scrubbing ∧ !s.sec.guestWait) ∨ up then
      let frames := (badFrames.map (·.toNat)).eraseDups
      let fails := frames.length + badQuerns.length + badWays.length + badFormes.length
      let s1 := scrubbed s
      let s2 := frames.foldl (fun s f => retireFrame f 5 s) (s1.mm.retiring.foldl (fun s f => retireFrame f 3 s) s1)
      let s3 := badQuerns.foldl (fun s q => failPhys q.1 q.2 5 s) s2
      let s4 := badFormes.foldl (failForme 5) (badWays.foldl (fun s w => disableWay w.1 w.2 5 s) s3)
      let rec_ := scrubRecord s fails frames.length durationUs
      let s5 := { flashWrite s4.nextFree with
        sec := { s4.sec with phase := .noJob, scrubPending := false, scrub := rec_ }
        boot := { s4.boot with stage := if s.boot.stage = 5 then 6 else s4.boot.stage } }
      .next (admitHeld (logEvent (issueColophon s5) evScrubRecord scPackage 0 [rec_.result]))
    else .next s)

/-! ### The guest die (R455, R456) -/

/-- Whether a window lets the guest die reach a range of package addresses (R455). -/
def guestWindow (s : State) (write : Bool) (a n : Nat) : Bool :=
  s.part.guestBuild && s.sec.windowsOpen && s.sec.frisket.gwin.any (fun w =>
    w.en && !w.dir && (if write then w.w else w.rd) && decide (w.base.toNat ≤ a) && decide (a + n ≤ w.base.toNat + w.sizeMib.toNat * 2 ^ 20))

/-- A refused access: answered with an error, logged and counted; no context stops (R456). -/
def guestDeny (a : Nat) (s : State) : State :=
  (logEvent { s with sec := { s.sec with guestDenied := satAdd s.sec.guestDenied 1 65535 } } evGuestDenied scPackage 0 [a]).emit .guestError

/-- GUEST_ACCESS (R222, R455, R456): a read or write of the length of `bytes`; a read gives what the package holds. -/
def execGuestAccess (write : Bool) (addr : W48) (bytes : List W8) (s : State) : Res :=
  whileClocked s (
    let a := addr.toNat
    let n := bytes.length
    if !s.part.guestBuild then .next s
    else if a + n > 2 ^ 39 ∨ !(guestWindow s write a n) then .next (guestDeny a s)
    else if write then
      let ws := cellsAt a bytes
      if (writeMem s ws).2.isSome then .next (guestDeny a s) else .next ((writeMem s ws).1.emit (.guestData []))
    else if (rangeErr (readErr s) a n).isSome then .next (guestDeny a s)
    else .next (s.emit (.guestData (readBytes s a n))))

end Sys2Proof.Machine
end

