-- ==== Sys2Proof/Machine/Firmware.lean ====
section
/-!
DEFINITION. Firmware images: staging through a host port or the management port, repair, activation (spec/13, R372, R373; R452, R462, R501,
R525).
-/

namespace Sys2Proof.Machine

/-! ### Staging (R372, R373, R452, R501, R525) -/

def fwIndex : FwKind → Nat
  | .miller => 0 | .spur => 1 | .quern => 2 | .serdes => 3

/-- What the checks of an image give (R373 step 5): 1 verified, 2 signature failed, 3 below the floor. -/
def verifyImage (s : State) (img : FwImage) : Nat := if !img.sigOk then 2 else if img.secver < s.sec.frisket.fwFloor then 3 else 1

/-- The outcome of a verification: logged with the image's kind. -/
def logVerified (s : State) (img : FwImage) (k : Nat) : State :=
  logEvent s (if k = 1 then evFwStaged else evFwRejected) scPackage 0 [fwIndex img.kind, k]

/-- A re-calibration holds the staging partition (R525). -/
def recalRuns (s : State) : Bool := decide (1 ≤ s.boot.calPhase) && decide (s.boot.calPhase ≤ 4)

/-- A staged image may give way: rejected, or idle for 10 s (R372, R501). -/
def Staging.yields (x : Staging) : Bool := x.idle || x.verified == some 2 || x.verified == some 3

def Staging.whole (x : Staging) : Bool := decide (x.have_.length = x.blocks)

/-- The staging that a block joins: its own image's, or a new one where none stands in the way. -/
def joinStaging (s : State) (imageId : W32) (blocks : Nat) (img : FwImage) : Option Staging :=
  let fresh : Staging := { fromPort := true, imageId := imageId, blocks := blocks, have_ := [], img := img, verified := none }
  match s.boot.staging with
  | none => some fresh
  | some x =>
    if x.fromPort ∧ x.imageId = imageId ∧ x.blocks = blocks ∧ x.verified.isNone then some x
    else if x.yields then some fresh else none

/-- A block joins its image in the staging partition; the last missing one has the image verified (R372, R373). -/
def stageBlock (x : Staging) (b : Nat) (bytes : List W8) (s : State) : State :=
  let y := { x with have_ := x.have_ ++ [b], data := x.data.set b bytes, idle := false }
  let s1 := flashWrite s
  if y.whole then
    let k := verifyImage s y.img
    logVerified { s1 with boot := { s.boot with staging := some { y with verified := some k } } } y.img k
  else { s1 with boot := { s.boot with staging := some y } }

/-- FWDATA (R358, R372, R373): a block of an image, on a group of ETH_FWGRP_p or the unicast address; `busy`: the flash is still taking an
earlier block. -/
def execFwdata (p : Fin 2) (d : Datagram) (imageId block blocks : W32) (blockOk busy : Bool) (bytes : List W8) (img : FwImage) (s : State) : Res :=
  hearPacket p true d s (fun s =>
    let n := blocks.toNat
    let b := block.toNat
    if !(isReady s) ∨ !(s.sec.frisket.keypol.getLsbD 1) ∨ !blockOk ∨ busy ∨ n ≤ b ∨ 65536 < n ∨ recalRuns s then s
    else
      match joinStaging s imageId n img with
      | none => s
      | some x => if x.have_.contains b then s else stageBlock x b bytes s)

/-- FIRMWARE_STAGING_IDLE (R372, R501): 10 s without a block. -/
def execFirmwareStagingIdle (s : State) : Res :=
  match s.boot.staging with
  | some x => .next { s with boot := { s.boot with staging := some { x with idle := true } } }
  | none => .next s

/-- FWSTATUS, query (R363, R373): a verified or failed image is reported at once; a repair list follows later. -/
def execFwstatus (p : Fin 2) (d : Datagram) (imageId : W32) (s : State) : Res :=
  hearPacket p true d s (fun s =>
    if !(isReady s) ∨ d.udpLen < 1104 then s
    else
      match s.boot.staging with
      | none => s
      | some x =>
        if !x.fromPort ∨ x.imageId ≠ imageId then s
        else
          match x.verified with
          | some k => rateReply s p d.src (.fwstatus p d.src k)
          | none => s.updHost p (fun h => { h with fwQueries := h.fwQueries ++ [d.src] }))

/-- The blocks that an image still misses. -/
def Staging.missing (x : Staging) : List Nat := (List.range x.blocks).filter (fun b => !(x.have_.contains b))

/-- FWREPAIR (R363, R373 step 3): the answer to the oldest waiting query, for the window of 8,192 blocks with the lowest missing one. -/
def execFwrepair (p : Fin 2) (s : State) : Res :=
  whileClocked s (
    match (s.host p).fwQueries, s.boot.staging with
    | dst :: rest, some x =>
      let s1 := s.updHost p (fun h => { h with fwQueries := rest })
      let miss := x.missing
      match x.verified, miss with
      | some k, _ => .next (rateReply s1 p dst (.fwstatus p dst k))
      | none, [] => .next s1
      | none, b :: _ =>
        let base := b / 8192 * 8192
        .next (rateReply s1 p dst (.fwrepair p dst x.imageId.toNat base miss.length (miss.filter (fun k => decide (k < base + 8192)))))
    | _ :: rest, none => .next (s.updHost p (fun h => { h with fwQueries := rest }))
    | [], _ => .next s)

/-! ### The management port (R452, R462, R501) -/

/-- FWSTAGE: verified before the reply; a failed image is discarded. -/
def execFwstage (m : MilHdr) (img : FwImage) (s : State) : Res :=
  plainRequest m 0x0050 .operator true (fun s =>
    let held : Bool := match s.boot.staging with | some x => x.fromPort && !x.yields | none => false
    if held ∨ recalRuns s then .now s 8 []
    else
      let k := verifyImage s img
      let x : Staging := { fromPort := false, imageId := 0, blocks := 0, have_ := [], img := img, verified := some 1 }
      let s1 := logVerified { flashWrite s with boot := { s.boot with staging := if k = 1 then some x else none } } img k
      .now s1 (if k = 1 then 0 else if k = 2 then 5 else 3) (if k = 1 then [] else [k])) s

/-- An image into the inactive slot of its kind, marked preferred (R501). -/
def FwSlots.install (x : FwSlots) (img : FwImage) : FwSlots :=
  let v := (img.secver, img.hash)
  if x.runB then { x with a := v, preferB := false, newRun := true } else { x with b := v, preferB := true, newRun := true }

/-- FWACTIVATE (R462, R494, R501): in recovery it is firmware installation and is not refused as not ready. -/
def execFwactivate (m : MilHdr) (kind : FwKind) (s : State) : Res :=
  plainRequest m 0x0051 .operator (s.mil.mstate == 2) (fun s =>
    if s.sec.phase = .admitted ∨ s.sec.scrubPending then .now s 3 []
    else
      match s.boot.staging with
      | none => .now s 3 []
      | some x =>
        if x.verified ≠ some 1 ∨ x.img.kind ≠ kind then .now s 3 []
        else
          let i := fwIndex kind
          .now { flashWrite s with boot := { s.boot with staging := none, fw := s.boot.fw.set i ((s.boot.fw.getD i {}).install x.img) } } 1 []) s

end Sys2Proof.Machine
end

