-- ==== Sys2Proof/Machine/BringUp.lean ====
section
/-!
DEFINITION. Power-good, the phases of bring-up, restart and field re-calibration (spec/18, R459 to R483; R445, R452, R501).
-/

namespace Sys2Proof.Machine

/-! ### Reset of the dies and power-up (R445, R459, R461, R498, R526) -/

/-- What every die but the Miller holds after PWRGOOD was lost: reset values, beside what the flash and the defect list keep (R459, R524). The units
that the list disables leave service again at the tests (R469). -/
def resetDies (s : State) : State :=
  let keep (x : StonePwr) : StonePwr :=
    { ts := x.ts, k := x.k, taps := x.taps, delay := x.delay, guard := x.guard, tsRef := x.tsRef, tsRef0 := x.tsRef0, agePermil := x.agePermil, trims := x.trims, cMax := x.cMax }
  let b := s.boot
  renewReserve { s with
    mem := [], querns := [], ctxs := [], hoppers := [], pool := [], flumes := [], eds := [], shards := []
    mm := { retired := s.mm.retired ++ s.mm.retiring, sparesUsed := s.mm.sparesUsed, spareRows := s.mm.spareRows }
    galley := {}, races := [], racePorts := [], hosts := []
    sec := { frisket := s.sec.frisket, pendingFrisket := s.sec.pendingFrisket, scrubPending := s.sec.scrubPending, scrub := s.sec.scrub
             coloSeq := s.sec.coloSeq, endedJob := if s.sec.phase = .admitted then s.sec.jobId else s.sec.endedJob }
    mil := { s.mil with holds := [], awaitStone := [] }
    boot := { bootNo := b.bootNo, fuses := b.fuses, defects := b.defects, listFull := decide (65536 ≤ b.defects.length), groupsOff := b.groupsOff
              sparesUsed := b.sparesUsed, fw := b.fw, staging := b.staging, calInvalid := b.calInvalid, calField := b.calField
              calBootNo := b.calBootNo, calStaged := b.calStaged, racePresets := b.racePresets, hostPresets := b.hostPresets
              calResult := if recalRuns s && b.calStaged.isNone then 3 else 0 }
    pwr := { stones := Tbl.mapV s.pwr.stones (fun _ x => keep x), capW := variantCap s.part.variant, ceilCode := variantCeil s.part.variant }
    pair := {}, grantStalls := 0, ipWait := s.ipWait.filter (fun w => w.1 == 2), cookieSecret := 0, cookiePrev := 0, cookieEpoch := 0
    stepEventBase := 0, stepEventLow := none }

/-- The loss of PWRGOOD: CONTROL is deasserted, the dies are reset, the Miller logs it (R459, R514, R515, R526). -/
def losePower (why : List Nat) (s : State) : State :=
  let s1 := if s.board.control then s.emit (.control false) else s
  logEvent (resetDies { s1 with board := { s1.board with control := false, haltedByClock := false, intact := true } }) evPwrgoodLost scPackage 0 why

/-- The Miller's registers at a boot: what persists in flash, and the link (R498, R506). -/
def bootedMiller (m : Miller) : Miller :=
  { flashRing := m.flashRing, netCfg := m.netCfg, ip4 := m.ip4, ip6 := m.ip6, prefixes := m.prefixes, gw6 := m.gw6, link := m.link }

/-- A power-up: bring-up starts at its first phase (R459, R461, R482, R498). -/
def powerUp (s : State) : State :=
  { s with timeNs := 0, mil := bootedMiller s.mil, boot := { s.boot with bootNo := s.boot.bootNo + 1, newRecords := 0, stage := 0, failStage := 0 }
           pwr := { s.pwr with energyUj := 0, energyAtAdmit := 0 } }

/-- PWRGOOD_ASSERT (R459, R514, R529). -/
def execPwrgoodAssert (s : State) : Res :=
  if s.board.pwrgood ∨ s.board.thermtrip ∨ s.board.scan then .next s
  else .next (powerUp { s with board := { s.board with vstby := true, pwrgood := true, refclk := 0xF } })

/-- PWRGOOD_DEASSERT (R445, R459). -/
def execPwrgoodDeassert (s : State) : Res :=
  if !s.board.pwrgood then .next s
  else
    let s1 := losePower [] s
    .next { s1 with board := { s1.board with pwrgood := false } }

/-- A failed bring-up (R460, R465, R479). -/
def failBringUp (k : Nat) (s : State) : State :=
  logEvent { s with boot := { s.boot with stage := 15, failStage := k } } evBringUpFailed scPackage 0 [k]

/-! ### Miller boot (R452, R460, R479, R488, R501) -/

/-- The slots of a kind that pass: signature and hash as the boot ROM finds them, SECVER at the floor or above. -/
def slotsPass (s : State) (valid : List (FwKind × Bool × Bool)) (kind : FwKind) : Bool × Bool :=
  let x := s.boot.fw.getD (fwIndex kind) {}
  let ok : Bool × Bool := match valid.find? (fun v => v.1 == kind) with | some v => v.2 | none => (false, false)
  (ok.1 && decide (s.sec.frisket.fwFloor.toNat ≤ x.a.1.toNat), ok.2 && decide (s.sec.frisket.fwFloor.toNat ≤ x.b.1.toNat))

/-- The image of a kind is chosen; one that runs for the first time is logged (R460, R501). -/
def bootImage (valid : List (FwKind × Bool × Bool)) (s : State) (kind : FwKind) : State :=
  let i := fwIndex kind
  let x := s.boot.fw.getD i {}
  let ok := slotsPass s valid kind
  match bootSlot x ok.1 ok.2 with
  | none => { s with boot := { s.boot with fw := s.boot.fw.set i { x with valid := false } } }
  | some b =>
    let first := x.newRun && b == x.preferB
    let s1 := { s with boot := { s.boot with fw := s.boot.fw.set i { x with valid := true, runB := b, newRun := x.newRun && !first } } }
    if first then issueColophon (logEvent s1 evFwActivated scPackage 0 [i]) else s1

/-- Whether an image of a kind runs. -/
def imageRuns (s : State) (kind : FwKind) : Bool := (s.boot.fw.getD (fwIndex kind) {}).valid

/-- The fastest of the modes that a flash declares (R523). -/
def fastest (modes : List FlashMode) : FlashMode :=
  if modes.contains .octalDtr then .octalDtr else if modes.contains .quad then .quad else .single

/-- The boot flash leaves its reset, the Miller reads SFDP and uses the fastest mode declared, and BOOT_NO is written (R523, R524). -/
def openFlash (modes : List FlashMode) (s : State) : State :=
  let s1 := if s.board.freset then s.emit (.freset false) else s
  flashWrite { s1.emit .sfdpRead with board := { s.board with freset := false, flashMode := fastest modes } }

/-- A new calibration set is in force for a Stone; the trims are part of it (R481). -/
def commitStone (x : CalSet) (s : State) (n : Nat) : State :=
  s.updStone n (fun v => { v with
    ts := x.ts.getD n [], k := x.k.getD n [], delay := x.delay.getD n [], guard := x.guard.getD n [], cMax := x.cMax.getD n 0
    taps := List.replicate 15 0, trims := 0 })

/-- The staged set is in the calibration store with ORIGIN 1, and the staged copy is erased (R481). -/
def writeCal (x : CalSet) (s : State) : State :=
  let s1 := (List.range 4).foldl (commitStone x) (flashWrite s)
  { s1 with boot := { s1.boot with
    calPhase := 5, calResult := 1, calDelta := x.deltaPermil, calField := true, calBootNo := s1.boot.bootNo, calInvalid := false, calStaged := none } }

/-- A copy that a loss of power cut short is completed from the staged copy (R481). -/
def completeCal (s : State) : State := match s.boot.calStaged with | some x => writeCal x s | none => s

/-- The defect records whose CRC fails at a power-up are ignored and logged (R471; the code is the model's, assumption 140). -/
def dropRecords (bad : List Nat) (s : State) : State :=
  let n := s.boot.defects.length
  let drop := (bad.filter (· < n)).eraseDups
  let keep := (List.range n).filterMap (fun i => if drop.contains i then none else s.boot.defects[i]?)
  drop.foldl (fun s i => logEvent s evDefectsNearFull scPackage 0 [1, i]) { s with boot := { s.boot with defects := keep } }

/-- MILLER_BOOT (R452, R460, R461, R471, R479, R481, R488, R523). -/
def execMillerBoot (valid : List (FwKind × Bool × Bool)) (calCrcOk calSerialOk : Bool) (modes : List FlashMode) (badRecords : List Nat) (s : State) : Res :=
  if !s.board.pwrgood ∨ s.boot.stage ≠ 0 ∨ s.mil.mstate ≠ 0 ∨ s.board.scan then .next s
  else
    let s0 := dropRecords badRecords (freshMiller (openFlash modes s))
    let s1 := [FwKind.miller, .spur, .quern, .serdes].foldl (bootImage valid) s0
    if !(imageRuns s1 .miller) then .next { s1 with mil := { s1.mil with mstate := 2 } }
    else
      let bad := (!calCrcOk || !calSerialOk) && s.boot.calStaged.isNone
      let s1 := completeCal s1
      let s2 := { s1 with boot := { s1.boot with stage := 1, calInvalid := bad } }
      .next (if bad then logEvent s2 evCalInvalid scPackage 0 [] else s2)

/-! ### Spur self-test (R464, R465) -/

/-- A fuse contradiction: the unit, as KIND and LOCATION of R470 (R469, R482). -/
def contradiction (kind loc : Nat) (s : State) : State :=
  logEvent { s with boot := { s.boot with fuseContra := satAdd s.boot.fuseContra 1 65535 } } evFuseContradiction scPackage 0 [kind, loc]

/-- A Race port, or from 16 a host port, leaves service. -/
def hidePort (s : State) (k : Nat) : State :=
  if 16 ≤ k then s.updHost (k - 16) (fun h => { h with disabled := true }) else s.setRacePort k { s.racePort k with disabled := true }

/-- A unit that the fuses or the list mark bad stays disabled (R464, R469). -/
def hideUnit (kind : Nat) (s : State) (k : Nat) : State :=
  match kind with
  | 0x09 => { s with mm := { s.mm with waysOff := (s.mm.waysOff ++ [(k / 16, k % 16)]).eraseDups } }
  | 0x0A => { s with galley := { s.galley with disabled := (s.galley.disabled ++ [k]).eraseDups } }
  | _ => hidePort s k

/-- A unit that the self-test finds bad is disabled and recorded (R464, R469). -/
def failUnit (kind : Nat) (s : State) (k : Nat) : State :=
  match kind with
  | 0x09 => disableWay (k / 16) (k % 16) 1 s
  | 0x0A => failForme 1 s k
  | _ => addDefect (hidePort s k) 0x0C 1 0 k 0

/-- The union rule for the units of a kind (R469): a marked one stays disabled, which contradicts a test that finds it good; a bad one that nothing
marks is disabled, recorded and logged. -/
def unionUnits (kind : Nat) (bad : List Nat) (s : State) : State :=
  let marked := markedUnits s kind
  let s1 := marked.foldl (fun s k => let s1 := hideUnit kind s k; if bad.contains k then s1 else contradiction kind k s1) s
  (bad.eraseDups.filter (fun k => !(marked.contains k))).foldl (fun s k => contradiction kind k (failUnit kind s k)) s1

/-- SPUR_SELF_TEST (R365, R460, R464, R465, R469): without the reference the Miller waits. -/
def execSpurSelfTest (refPresent fatal : Bool) (badWays : List (Nat × Nat)) (badFormes : List Nat) (badRacePorts : List Nat)
    (badHostPorts : List Nat) (s : State) : Res :=
  if s.boot.stage ≠ 1 then .next s
  else if !refPresent then
    let s1 := { s with boot := { s.boot with clockWait := true, waited := true } }
    .next (if s.boot.clockWait then s1 else logEvent s1 evClockAbsent scPackage 0 [])
  else
    let s1 := unionUnits 0x0A (badFormes.filter (· < 16))
      (unionUnits 0x09 (badWays.map (fun w => w.1 * 16 + w.2 % 16)) { s with boot := { s.boot with clockWait := false } })
    let s2 := unionUnits 0x0C (badRacePorts.filter (· < 16) ++ (badHostPorts.filter (· < 2)).map (16 + ·)) s1
    if fatal ∨ !(imageRuns s2 .spur) ∨ !(imageRuns s2 .serdes) ∨ ((s2.host 0).disabled ∧ (s2.host 1).disabled) then .next (failBringUp 1 s2)
    else .next { s2.nextFree with cookieSecret := Config.secret s2.freeCtr, boot := { s2.boot with stage := 2 } }

/-! ### Bins (R466, R479) -/

/-- A bad row of the Bin test: a spare row, or its frame is retired (R466). -/
def testRow (s : State) (r : RowLoc) : State :=
  if s.mm.sparesUsed.getD (bankKey r) 0 < 8 then remapRow r 2 s else retireFrame (rowFrame r) 2 s

/-- BIN_TEST (R33, R34, R466, R479): the fourth ends the phase; without calibration bring-up stops there. -/
def execBinTest (b : Fin 4) (badRows : List RowLoc) (badGroups : List Nat) (s : State) : Res :=
  if s.boot.stage ≠ 2 ∨ s.boot.binsTested.contains b.val then .next s
  else
    let s1 := { s with
      mem := Memory.clear s.mem (b.val * 2 ^ 37) (2 ^ 37)
      boot := { s.boot with binsTested := s.boot.binsTested ++ [b.val], binsEn := s.boot.binsEn ||| ((1 : BitVec 4) <<< b.val) } }
    let s2 := (badGroups.filter (· < 64)).foldl (fun s g => disableGroup (.bin b) g 2 s) s1
    let s3 := bondConsequence (.bin b) ((badRows.filter (fun r => r.bin == b)).foldl testRow s2)
    if s3.boot.binsTested.length < 4 then .next s3
    else if s3.boot.calInvalid then .next (failBringUp 2 s3)
    else .next { s3 with boot := { s3.boot with stage := 3 } }

/-! ### Stones (R467 to R469) -/

/-- The union rule for one physical Quern at the start test (R469, R472). -/
def unionQuern (n : Nat) (pass : List Bool) (s : State) (i : Nat) : State :=
  let ok := pass.getD i false
  let k := physNo n i
  if markedQuern s k then (if ok then contradiction 1 k s else s)
  else if ok then setPhys n ((s.boot.physOk.getD n []).set i true) s
  else contradiction 1 k (addDefect s 0x01 1 0 k 0)

/-- The rail of a Stone at the 0.75 V row, or the ceiling when that is lower; CONTROL is asserted with the first (R467, R516, R518). -/
def raiseStone (n : Nat) (s : State) : State :=
  let s1 := if s.board.control then s else { s with board := { s.board with control := true } }.emit (.control true)
  setCode n 100 s1

/-- STONE_START_TEST (R34, R391, R467 to R469): a Stone that the list disables stays so. -/
def execStoneStartTest (n : Fin 4) (t : StoneTest) (s : State) : Res :=
  if s.boot.stage ≠ 3 ∨ s.boot.stonesTested.contains n.val then .next s
  else
    let listed := (markedUnits s 2).contains n.val
    let s1 := raiseStone n { s with boot := { s.boot with
      stonesTested := s.boot.stonesTested ++ [n.val], stonesEn := s.boot.stonesEn ||| ((1 : BitVec 4) <<< n.val) } }
    let s2 := (t.badGroups.filter (· < 256)).foldl (fun s g => disableGroup (.stone n) g 1 s) s1
    let s3 := if t.railUp then (List.range 34).foldl (unionQuern n t.pass) (setPhys n (List.replicate 34 false) s2) else s2
    let bad := !t.railUp || decide ((okQuerns s3 n).length < 32) || decide (32 ≤ groupsOffIn s3 n)
    let s4 := if listed then
        let s4 := { s3 with boot := { s3.boot with stonesEn := s3.boot.stonesEn &&& ~~~((1 : BitVec 4) <<< n.val), degraded := true } }
        if bad then s4 else contradiction 2 n s4
      else if bad then degradeStone n 1 s3
      else mapQuerns n s3
    .next (if s4.boot.stonesTested.length < 4 then s4 else { s4 with boot := { s4.boot with stage := 4 } })

/-! ### Firmware broadcast and Quern load (R473, R474) -/

/-- FIRMWARE_BROADCAST (R460, R473). -/
def execFirmwareBroadcast (s : State) : Res :=
  if s.boot.stage ≠ 4 ∨ s.boot.broadcast then .next s
  else if !(imageRuns s .quern) then .next (failBringUp 4 s)
  else .next { s with boot := { s.boot with broadcast := true } }

/-- A Quern whose sequencers stay incomplete after the third round (R474 step 6). -/
def failBroadcast (s : State) (q : Fin 4 × Fin 34) : State :=
  failPhys q.1 q.2 4 (logEvent s evQuernBroadcast scQuern (q.1.val * 32) [physNo q.1 q.2])

/-- Every logical Quern that has a physical one is loaded (R159, R461). -/
def loadAll (s : State) : State := (s.boot.quernMap.map (·.1)).foldl loadQuern s

/-- BROADCAST_REPAIR (R445, R461, R474): the end of the broadcast, the delay restore and the load; a pending scrub comes next. -/
def execBroadcastRepair (incomplete : List (Fin 4 × Fin 34)) (s : State) : Res :=
  if s.boot.stage ≠ 4 ∨ !s.boot.broadcast then .next s
  else
    let s1 := loadAll (incomplete.foldl failBroadcast s)
    .next { s1 with boot := { s1.boot with stage := if s1.sec.scrubPending then 5 else 6 } }

/-! ### Link stage and ready (R461, R475 to R477) -/

def bondSource : BondSite → Nat
  | .stone _ => 1 | .bin _ => 2 | .guest => 1

/-- LINK_QUALIFICATION (R33, R34, R475): the bonds whose estimated error rate is too high. -/
def execLinkQualification (bad : List BondLoc) (s : State) : Res :=
  if s.boot.stage ≠ 6 ∨ s.boot.linkDone then .next s
  else
    let s1 := bad.foldl (fun s l => bondConsequence l.site (failBond l (bondSource l.site) s)) s
    .next { s1 with boot := { s1.boot with linkDone := true } }

/-- READY (R461, R465, R472, R477): later than 3 s after power-good, without a wait for the reference, bring-up has failed. -/
def execReady (ms : BitVec 12) (s : State) : Res :=
  if s.boot.stage ≠ 6 ∨ !s.boot.linkDone then .next s
  else if 3000 < ms.toNat ∧ !s.boot.waited then .next (failBringUp 6 s)
  else
    let s1 := { s with
      timeNs := max s.timeNs (ms.toNat * 1000000)
      boot := { s.boot with stage := if s.boot.degraded || s.boot.listFull then 8 else 7, degraded := s.boot.degraded || s.boot.listFull, readyMs := ms } }
    .next (logEvent (issueColophon s1) evReady scPackage 0 [ms.toNat])

/-- RESTART (R459, R493, R494, R501). -/
def execRestart (m : MilHdr) (s : State) : Res :=
  plainRequest m 0x0052 .operator true (fun s =>
    if s.sec.phase = .admitted ∨ s.sec.scrubPending then .now s 3 [] else .now (powerUp (losePower [] s)) 1 []) s

/-! ### Field re-calibration (R478 to R481, R525) -/

/-- RECAL (R462, R480, R494, R525). -/
def execRecal (m : MilHdr) (serial : W128) (s : State) : Res :=
  plainRequest m 0x0041 .both true (fun s =>
    if s.sec.phase ≠ .noJob ∨ s.sec.scrubPending then .now s 3 []
    else if recalRuns s then .now s 2 []
    else if !(isReady s) ∧ !s.boot.calInvalid then .now s 4 []
    else if serial ≠ s.part.serial then .now s 6 []
    else if s.boot.staging.isSome then .now s 8 []
    else .now { s with boot := { s.boot with calPhase := 1, calResult := 0 } } 1 []) s

/-- Whether a new set meets pace on a Stone (R481): t_s at the ceiling and 100 °C, in units of 0.25 ps, k in units of 0.0025 % per °C. -/
def recalPaces (s : State) (n : Nat) (ts k : List Nat) : Bool :=
  let i := (variantCeil s.part.variant - 20) / 10
  decide (ts.getD i 0 * (40000 + 30 * k.getD i 0) * (1040 - (s.stone n).agePermil) ≤ tPace s.part.variant * 40000 * 1000)

/-- Whether a set meets R481 on every Stone. -/
def calMeets (x : CalSet) (s : State) : Bool := (List.range 4).all (fun n => recalPaces s n (x.ts.getD n []) (x.k.getD n []))

/-- A re-calibration that ends without a commit: the old values stay (R481). -/
def failCal (x : CalSet) (s : State) : State := { s with boot := { s.boot with calPhase := 5, calResult := 2, calDelta := x.deltaPermil } }

/-- RECAL_DONE (R480, R481): the routine has reached a phase. The sweeps and the staging advance CAL_PHASE; at phase 4 the measured set, which every
row holds with the guard where `pass` says so, is staged and its copy begins, or the routine fails; at the end the copy is done, and
bring-up runs again from the Stones. -/
def execRecalDone (phase : Fin 6) (pass : Bool) (cal : CalSet) (s : State) : Res :=
  if !(recalRuns s) then .next s
  else if phase.val < 4 then
    .next (if s.boot.calPhase < phase.val then { s with boot := { s.boot with calPhase := phase.val } } else s)
  else
    match s.boot.calStaged with
    | some x =>
      if phase.val = 4 then .next s
      else
        let s1 := writeCal x s
        .next { s1 with boot := { s1.boot with
          stage := 3, failStage := 0, stonesEn := 0, stonesTested := [], broadcast := false, linkDone := false, quernMap := [] } }
    | none =>
      if phase.val = 4 ∧ pass ∧ calMeets cal s then .next { flashWrite s with boot := { s.boot with calPhase := 4, calStaged := some cal } }
      else .next (failCal cal s)

/-- RECALABORT (R480, R493): before the commit. -/
def execRecalabort (m : MilHdr) (s : State) : Res :=
  plainRequest m 0x0042 .either true (fun s =>
    if 1 ≤ s.boot.calPhase ∧ s.boot.calPhase ≤ 3 then .now (abortRecal s) 0 [] else .now s 3 []) s

end Sys2Proof.Machine
end

