-- ==== Sys2Proof/Machine/Deliver.lean ====
section
/-!
DEFINITION. Sealed frames and packets as they come: reception, the effect of a frame that is delivered, the frames that the receive buffer then
releases (R342, R345, R366), and the requests of a session, one at a time in PSN order (R369).
-/

namespace Sys2Proof.Machine

/-! ### Job requests (R369, R371, R401) -/

/-- What a job request is: its header, its OP, whether its response waits for the twin's acknowledgement (R401), and its effect. -/
def jobOp : Instr → Option (JobHdr × Nat × Bool × (State → Answer))
  | .load j p => some (j, 0x0001, false, match p.final with | some m => loadActs m | none => fun s => refuse s 6 [2])
  | .unload j c => some (j, 0x0002, false, unloadActs c)
  | .reload j m => some (j, 0x0003, false, reloadActs m)
  | .map j first count owner shared wp bin => some (j, 0x0010, false, mapActs first count owner shared wp bin)
  | .unmap j first count => some (j, 0x0011, false, unmapActs first count)
  | .put j addr bytes => some (j, 0x0020, true, putActs addr bytes)
  | .jobRegread j off => some (j, 0x0030, false, jobRegreadActs off)
  | .jobRegwrite j off value => some (j, 0x0031, false, jobRegwriteActs off value)
  | .fopen j f => some (j, 0x0040, false, fopenActs f)
  | .fclose j f forced => some (j, 0x0041, false, fcloseActs f forced)
  | .rewind j c step fwd bwd => some (j, 0x0050, false, rewindActs c step fwd bwd)
  | .abandon j c => some (j, 0x0051, false, abandonActs c)
  | .rollback j c step => some (j, 0x0052, false, rollbackActs c step)
  | .jobSubscribe j on => some (j, 0x0060, false, jobSubscribeActs j.port j.session on)
  | _ => none

/-- The response to a request that has acted: at once, or behind the twin's acknowledgement (R369, R401). -/
def respond (p n : Nat) (held : Bool) (f : Frame) (s : State) : State :=
  if held then hold (s.setSession p n { s.session p n with acted := true }) (.respond p n f) else respondNow s p n f

/-- The first request of a session acts, unless the one before it still waits for its response or this one has to wait (R369). -/
def runFirst (p n : Nat) (s : State) : Option State :=
  let x := s.session p n
  if x.state ≠ .openS ∨ x.acted then none
  else
    match x.requests.head?.bind jobOp with
    | none => none
    | some (j, op, held, act) =>
      match act s with
      | .wait => none
      | .done s1 status detail => some (respond p n held (jobrsp j op status detail) s1)

/-- The requests of a session, one at a time and each response before the next request, as far as they go (R369). -/
def runRequests (p n : Nat) : Nat → State → State
  | 0, s => s
  | k + 1, s =>
    match runFirst p n s with
    | some s1 => runRequests p n k s1
    | none => s

def runSession (p n : Nat) (s : State) : State := runRequests p n (s.session p n).requests.length s

/-- Every session whose request waited goes on as far as it may. -/
def runSessions (s : State) : State :=
  if s.board.haltedByClock then s else s.hosts.foldl (fun s h => h.2.sessions.foldl (fun s x => runSession h.1 x.1 s) s) s

/-- A seventeenth request without a response gets STATUS 5 at once (R369). -/
def tooMany (x : Session) : Bool := decide (16 ≤ x.requests.length)

/-- A request joins those of its session, and acts when it is the first. -/
def joinRequests (j : JobHdr) (c : Instr) (s : State) : State :=
  let x := s.session j.port j.session
  if tooMany x then queueSession s j.port j.session (jobrsp j (((jobOp c).map (·.2.1)).getD 0) 5 [])
  else runSession j.port j.session (s.setSession j.port j.session { x with requests := x.requests ++ [c] })

/-- The parts of a LOAD (R369): the final one makes the request. A part out of its place makes the request malformed, and what still comes of it
is passed over. -/
def loadPart (j : JobHdr) (q : LoadPart) (s : State) : State :=
  let x := s.session j.port j.session
  let keep (v : Option (W32 × Option Nat)) (s : State) : State := s.setSession j.port j.session { s.session j.port j.session with part := v }
  let sofar : Option Nat := match x.part with | some (id, n) => if id = j.reqid then n else some 0 | none => some 0
  match sofar with
  | none => if q.final.isSome then keep none s else s
  | some n =>
    let next : Option (W32 × Option Nat) := if q.final.isSome then none else some (j.reqid, none)
    if q.offset ≠ n then joinRequests j (.load j { q with final := none }) (keep next s)
    else
      match q.final with
      | some m => joinRequests j (.load j { q with final := some m }) (keep none s)
      | none =>
        if n = 0 ∧ tooMany x then joinRequests j (.load j q) (keep (some (j.reqid, none)) s)
        else keep (some (j.reqid, some (n + q.len))) s

/-! ### Delivery -/

/-- What a frame or packet that its carrier delivers does. -/
def deliverFrame (c : Instr) (s : State) : State :=
  match c with
  | .mbhdr h seq step grantNo mbid edition len => mbhdrActs h seq step grantNo mbid edition len s
  | .data h seq last seg bytes => dataActs h seq last seg bytes s
  | .grant h grantNo => grantActs h grantNo s
  | .receipt h seq step what => receiptActs h seq step what s
  | .recallMb h seq step => recallActs h seq step s
  | .openFlume h dir len4k => openActs h dir len4k s
  | .openack h _ _ result => openackActs h result s
  | .close h forced _ firstUnused => closeActs h forced firstUnused s
  | .token h step => tokenActs h step s
  | .notice h step => noticeActs h step s
  | .red h id hdr p nb lines err => settle (redArrives h id hdr p.toNat nb.toNat lines err s)
  | .redack h id credit formes => redackArrives h id credit formes.toNat s
  | .linkNack r _ base missing => nackActs r base missing s
  | .linkResume r _ => resumeFrames s r
  | .linkWithdraw r _ => toLinked s r
  | .ack h ce => match h.via with | .host p n => ackActs p n ce s | _ => s
  | .nack h base missing => match h.via with | .host p n => sessionNackActs p n base missing s | _ => s
  | .sclose h => match h.via with | .host p n => scloseActs p n s | _ => s
  | .load j q => loadPart j q s
  | .unload j _ => joinRequests j c s
  | .reload j _ => joinRequests j c s
  | .map j _ _ _ _ _ _ => joinRequests j c s
  | .unmap j _ _ => joinRequests j c s
  | .put j _ _ => joinRequests j c s
  | .jobRegread j _ => joinRequests j c s
  | .jobRegwrite j _ _ => joinRequests j c s
  | .fopen j _ => joinRequests j c s
  | .fclose j _ _ => joinRequests j c s
  | .rewind j _ _ _ _ => joinRequests j c s
  | .abandon j _ => joinRequests j c s
  | .rollback j _ _ => joinRequests j c s
  | .jobSubscribe j _ => joinRequests j c s
  | .jwrite t _ _ _ => journalActs t c s
  | .jimp t _ => journalActs t c s
  | .jentry t _ _ _ _ => journalActs t c s
  | .jpush t _ _ _ _ => journalActs t c s
  | .jflume t _ _ _ _ _ => journalActs t c s
  | .jed t _ _ _ _ _ _ _ => journalActs t c s
  | .jstep t _ _ _ _ _ _ _ _ => journalActs t c s
  | .jpeer t _ _ _ _ => journalActs t c s
  | .jack t n => runSessions (jackActs t n s)
  | .twinLeave t _ => runSessions (leaveActs t s)
  | .assume t member incNew => assumeActs t member incNew s
  | .rfetch t vpage unit mirror => rfetchActs t vpage unit mirror s
  | .rdata t vpage unit mirror bad bytes => rdataActs t vpage unit mirror bad bytes s
  | _ => s

/-- The frames of a carrier's receive buffer whose turn has come (R342, R345, R366). -/
def deliverKept (via : Carrier) : Nat → State → State
  | 0, s => s
  | k + 1, s =>
    match takeKept via s with
    | some (c, s1) => deliverKept via k (deliverFrame c s1)
    | none => s

/-- How many frames a carrier's receive buffer holds above a gap. -/
def keptCount (via : Carrier) (s : State) : Nat :=
  match via with
  | .race r => (s.race r).rx.above.length
  | .host p n => (s.session p n).rx.above.length
  | .fabric => 0

/-- A sealed frame comes: reception (R340, R342), its effect, and the frames behind it. -/
def arrive (h : FrameHdr) (c : Instr) (s : State) : Res :=
  match receive h c s with
  | (s1, true) => .next (deliverKept h.via (keptCount h.via s1) (deliverFrame c s1))
  | (s1, false) => .next s1

/-- A frame of a Race. -/
def onRace (r : Fin 32) (h : FrameHdr) (c : Instr) (s : State) : Res := if h.via = .race r then arrive h c s else .next s

/-- A packet of a session. -/
def onHost (h : FrameHdr) (c : Instr) (s : State) : Res :=
  match h.via with
  | .host _ _ => arrive h c s
  | _ => .next s

/-! ### Flume frames (R260 to R272, R290, R291, R393) -/

/-- MBHDR (R260, R261, R263, R338, R393). -/
def execMbhdr (h : FrameHdr) (seq : W48) (step grantNo mbid edition len : W32) (s : State) : Res :=
  if onFabric s h then .next s else arrive h (.mbhdr h seq step grantNo mbid edition len) s

/-- DATA (R262, R338, R340, R361, R393). -/
def execData (h : FrameHdr) (seq : W48) (last : Bool) (seg : BitVec 18) (bytes : List W8) (s : State) : Res :=
  if onFabric s h then .next s else arrive h (.data h seq last seg bytes) s

/-- GRANT (R262, R271). -/
def execGrant (h : FrameHdr) (grantNo : W32) (s : State) : Res := arrive h (.grant h grantNo) s

/-- RECEIPT (R48, R254, R262, R264, R290): WHAT 0 to 2. -/
def execReceipt (h : FrameHdr) (seq : W48) (step : W32) (what : BitVec 2) (s : State) : Res := arrive h (.receipt h seq step what) s

/-- RECALL: a RECEIPT whose WHAT is 3 (R393). -/
def execRecallMb (h : FrameHdr) (seq : W48) (step : W32) (s : State) : Res := arrive h (.recallMb h seq step) s

/-- OPEN (R270). -/
def execOpenFlume (h : FrameHdr) (dir : Bool) (len4k : W16) (s : State) : Res := arrive h (.openFlume h dir len4k) s

/-- OPENACK (R270). -/
def execOpenack (h : FrameHdr) (dir : Bool) (len4k : W16) (result : BitVec 4) (s : State) : Res := arrive h (.openack h dir len4k result) s

/-- CLOSE (R271). -/
def execClose (h : FrameHdr) (forced : Bool) (lastIssued firstUnused : W32) (s : State) : Res := arrive h (.close h forced lastIssued firstUnused) s

/-- TOKEN (R49, R267, R290, R291). -/
def execToken (h : FrameHdr) (step : W32) (s : State) : Res := arrive h (.token h step) s

/-- NOTICE (R289 to R291). -/
def execNotice (h : FrameHdr) (step : W32) (s : State) : Res := arrive h (.notice h step) s

/-! ### Reductions (R310, R312, R320, R340) -/

/-- RED: from a Race, or from the fabric of LOCAL Flumes (R265, R310, R312, R320). -/
def execRed (h : FrameHdr) (id : RedId) (blockHdr : W64) (p : BitVec 12) (nb : BitVec 24) (lines : List W64) (err : LineError) (s : State) : Res :=
  let c : Instr := .red h id blockHdr p nb lines err
  match h.via with
  | .fabric =>
    whileClocked s <|
    match takeLocal s (.red h.flume.toNat id blockHdr p.toNat nb.toNat lines) with
    | some s1 => .next (deliverFrame c s1)
    | none => .next s
  | _ => arrive h c s

/-- REDACK (R310, R312, R320). -/
def execRedack (h : FrameHdr) (id : RedId) (credit : Bool) (formes : BitVec 5) (s : State) : Res :=
  let c : Instr := .redack h id credit formes
  match h.via with
  | .fabric =>
    whileClocked s <|
    match takeLocal s (.ack h.flume.toNat id credit formes.toNat) with
    | some s1 => .next (deliverFrame c s1)
    | none => .next s
  | _ => arrive h c s

/-! ### LINK frames of a Race (R329, R335, R343, R352) -/

/-- LINK_ACK (R343): the header's ACK_LSN is its content. -/
def execLinkAck (r : Fin 32) (h : FrameHdr) (s : State) : Res := onRace r h (.linkAck r h) s

/-- LINK_NACK (R343): the named frames go out again. -/
def execLinkNack (r : Fin 32) (h : FrameHdr) (base : W48) (missing : W64) (s : State) : Res := onRace r h (.linkNack r h base missing) s

/-- LINK_RESUME (R352 step 6). -/
def execLinkResume (r : Fin 32) (h : FrameHdr) (s : State) : Res := onRace r h (.linkResume r h) s

/-- LINK_WITHDRAW (R329, R335). -/
def execLinkWithdraw (r : Fin 32) (h : FrameHdr) (s : State) : Res := onRace r h (.linkWithdraw r h) s

/-! ### Packets of a session (R366, R367) -/

/-- ACK (R366). -/
def execAck (h : FrameHdr) (ceCount : W32) (s : State) : Res := onHost h (.ack h ceCount) s

/-- NACK (R343, R366). -/
def execNack (h : FrameHdr) (base : W48) (missing : W64) (s : State) : Res := onHost h (.nack h base missing) s

/-- SCLOSE (R367): also in a BROKEN session. -/
def execSclose (h : FrameHdr) (s : State) : Res :=
  match h.via with
  | .host p n => if (s.session p n).state = .broken then .next (scloseBroken p n h s) else arrive h (.sclose h) s
  | _ => .next s

/-! ### Job requests (R369) -/

/-- LOAD (R40, R42, R142, R159, R208, R248 to R250, R277, R279, R281, R296, R299, R369, R399, R400). -/
def execLoad (j : JobHdr) (part : LoadPart) (s : State) : Res := onHost j.hdr (.load j part) s

/-- UNLOAD (R250, R251, R282). -/
def execUnload (j : JobHdr) (c : Fin 32) (s : State) : Res := onHost j.hdr (.unload j c) s

/-- RELOAD (R185, R249, R250, R369). -/
def execReload (j : JobHdr) (msg : LoadMsg) (s : State) : Res := onHost j.hdr (.reload j msg) s

/-- MAP (R219, R221, R223, R224, R243, R369, R381, R403). -/
def execMap (j : JobHdr) (first count : Nat) (owner : Fin 32) (shared wp : Bool) (bin : Fin 4) (s : State) : Res :=
  onHost j.hdr (.map j first count owner shared wp bin) s

/-- UNMAP (R223, R243, R369). -/
def execUnmap (j : JobHdr) (first count : Nat) (s : State) : Res := onHost j.hdr (.unmap j first count) s

/-- PUT (R222, R231, R240, R370, R401). -/
def execPut (j : JobHdr) (addr : W48) (bytes : List W8) (s : State) : Res := onHost j.hdr (.put j addr bytes) s

/-- JOB_REGREAD (R27, R30, R370, R371, R447, R504). -/
def execJobRegread (j : JobHdr) (off : W48) (s : State) : Res := onHost j.hdr (.jobRegread j off) s

/-- JOB_REGWRITE (R27 to R30, R38, R370, R371, R504). -/
def execJobRegwrite (j : JobHdr) (off : W48) (value : W64) (s : State) : Res := onHost j.hdr (.jobRegwrite j off value) s

/-- FOPEN (R42, R44, R259, R270). -/
def execFopen (j : JobHdr) (f : Fin 1024) (s : State) : Res := onHost j.hdr (.fopen j f) s

/-- FCLOSE (R254, R271). -/
def execFclose (j : JobHdr) (f : Fin 1024) (forced : Bool) (s : State) : Res := onHost j.hdr (.fclose j f forced) s

/-- REWIND (R268, R299, R397). -/
def execRewind (j : JobHdr) (c : Fin 32) (step : W32) (fwd bwd : Bool) (s : State) : Res := onHost j.hdr (.rewind j c step fwd bwd) s

/-- ABANDON (R282, R292). -/
def execAbandon (j : JobHdr) (c : Fin 32) (s : State) : Res := onHost j.hdr (.abandon j c) s

/-- ROLLBACK (R282, R290, R293, R390, R397). -/
def execRollback (j : JobHdr) (c : Fin 32) (step : W32) (s : State) : Res := onHost j.hdr (.rollback j c step) s

/-- JOB_SUBSCRIBE (R371, R497). -/
def execJobSubscribe (j : JobHdr) (on : Bool) (s : State) : Res := onHost j.hdr (.jobSubscribe j on) s

/-! ### The twin's frames (R401 to R410) -/

/-- JWRITE (R401 to R403). -/
def execJwrite (t : TwinHdr) (vpage : BitVec 19) (unit : BitVec 9) (bytes : List W8) (s : State) : Res := arrive t.hdr (.jwrite t vpage unit bytes) s

/-- JIMP (R401 to R403). -/
def execJimp (t : TwinHdr) (recs : List ImpRec) (s : State) : Res := arrive t.hdr (.jimp t recs) s

/-- JENTRY (R401 to R403). -/
def execJentry (t : TwinHdr) (ctx : Fin 32) (bwd : Bool) (e : EntryImg) (nextGrant : W32) (s : State) : Res :=
  arrive t.hdr (.jentry t ctx bwd e nextGrant) s

/-- JPUSH (R401 to R403). -/
def execJpush (t : TwinHdr) (flume : BitVec 10) (seq : W48) (outFlume : BitVec 10) (outSeq : W48) (s : State) : Res :=
  arrive t.hdr (.jpush t flume seq outFlume outSeq) s

/-- JFLUME (R401 to R403). -/
def execJflume (t : TwinHdr) (flume : BitVec 10) (seq : W48) (issued used : W32) (state : W8) (s : State) : Res :=
  arrive t.hdr (.jflume t flume seq issued used state) s

/-- JED (R401 to R403). -/
def execJed (t : TwinHdr) (shard : BitVec 13) (state : BitVec 3) (number : W32) (refcount : W16) (head : BitVec 19) (pages : BitVec 20)
    (settled : W32) (s : State) : Res := arrive t.hdr (.jed t shard state number refcount head pages settled) s

/-- JSTEP (R401 to R403). -/
def execJstep (t : TwinHdr) (ctx : Fin 32) (step : W32) (lscale : W64) (final nonfinite closed : Bool) (rstep : W32) (recs : List StepRec)
    (s : State) : Res := arrive t.hdr (.jstep t ctx step lscale final nonfinite closed rstep recs) s

/-- JPEER (R401 to R403). -/
def execJpeer (t : TwinHdr) (ctx : Fin 32) (peer : Fin 32) (lastToken lastNotice : W32) (s : State) : Res :=
  arrive t.hdr (.jpeer t ctx peer lastToken lastNotice) s

/-- JACK (R401, R403). -/
def execJack (t : TwinHdr) (ackJsn : W48) (s : State) : Res := arrive t.hdr (.jack t ackJsn) s

/-- TWIN_LEAVE (R406). -/
def execTwinLeave (t : TwinHdr) (reason : W8) (s : State) : Res := arrive t.hdr (.twinLeave t reason) s

/-- ASSUME (R407, R409). -/
def execAssume (t : TwinHdr) (member : BitVec 12) (incNew : W8) (s : State) : Res := arrive t.hdr (.assume t member incNew) s

/-- RFETCH (R402, R403). -/
def execRfetch (t : TwinHdr) (vpage : BitVec 19) (unit : BitVec 9) (mirror : Bool) (s : State) : Res :=
  arrive t.hdr (.rfetch t vpage unit mirror) s

/-- RDATA (R402, R403). -/
def execRdata (t : TwinHdr) (vpage : BitVec 19) (unit : BitVec 9) (mirror bad : Bool) (bytes : List W8) (s : State) : Res :=
  arrive t.hdr (.rdata t vpage unit mirror bad bytes) s

end Sys2Proof.Machine
end

