-- ==== Sys2Proof/Machine/Board.lean ====
section
/-!
DEFINITION. Pins, rails and references: brown-out, thermal trip, rail monitors, the power buses, the Miller's crystal, boundary scan and debug,
standby power (spec/20, R513 to R529; R451, R459).
-/

namespace Sys2Proof.Machine

/-- BROWN_OUT (R388, R520): the event's DETAIL reads brown-out (1). -/
def execBrownOut (n : Fin 4) (s : State) : Res := .next (if (s.stone n).vcode = 0 then s else stopStone n [1] s)

/-- Every Stone's rail is off. -/
def stonesOff (s : State) : State :=
  { s with pwr := { s.pwr with stones := Tbl.mapV s.pwr.stones (fun _ x => { x with vcode := 0 }) } }

/-- THERMTRIP (R529): CONTROL is deasserted at once, and the Miller logs a thermal action whose DETAIL reads THERMTRIP (1). -/
def execThermtrip (s : State) : Res :=
  if s.board.thermtrip ∨ !s.board.vstby then .next s
  else
    let s1 := { s with board := { s.board with thermtrip := true, control := false } }.emit (.thermtrip true)
    .next (logEvent (stonesOff (if s.board.control then s1.emit (.control false) else s1)) evThermal scPackage 0 [1])

/-- THERMTRIP_RELEASE (R529): the die has fallen below 100 °C. -/
def execThermtripRelease (s : State) : Res :=
  if s.board.thermtrip then .next ({ s with board := { s.board with thermtrip := false } }.emit (.thermtrip false)) else .next s

/-- RAIL_MONITOR_TRIP (R459, R515): handled as a deassertion of PWRGOOD; the DETAIL names the rail. -/
def execRailMonitorTrip (rail : Nat) (s : State) : Res :=
  if !s.board.pwrgood then .next s
  else
    let s1 := losePower [rail] s
    .next { s1 with board := { s1.board with pwrgood := false } }

/-- The rails that the Miller reads, 0 to 3 the VSTONE rails; 11 is VGUEST (R513, R517). -/
def rails (s : State) : List Nat := List.range (if s.part.guestBuild then 12 else 11)

/-- Telemetry of a rail is lost: logged, and the throttle holds 1.0 × CAP_W (R519). -/
def loseRail (s : State) (rail : Nat) : State :=
  let s1 := { s with pwr := { s.pwr with railLost := if s.pwr.railLost.contains rail then s.pwr.railLost else s.pwr.railLost ++ [rail] } }
  logEvent s1 evEstimatorFault scPackage 0 [rail]

/-- PMBUS_FAILURE (R388, R391, R519). -/
def execPmbusFailure (b : BusFailure) (s : State) : Res :=
  match b with
  | .telemetry rail => .next (loseRail s rail)
  | .setpoint n railOk =>
    let s1 := stopStone n [] (logEvent s evEstimatorFault scPackage 0 [n.val])
    .next (if railOk ∨ !(s.boot.stonesEn.getLsbD n) then s1 else degradeStone n 3 s1)
  | .restored rail => .next { s with pwr := { s.pwr with railLost := s.pwr.railLost.filter (· != rail) } }

/-- The PMBus addresses of the controllers (R516). -/
def controllers (s : State) : List Nat := (rails s).map (0x40 + ·)

/-- ALERT (R516): STATUS_WORD of every controller is read. -/
def execAlert (status : List (Nat × W16)) (s : State) : Res :=
  let s1 := (controllers s).foldl (fun s a => s.emit (.pmbusRead a)) s
  .next { s1 with board := { s1.board with
    statusWords := (status.filter (fun x => (controllers s).contains x.1)).foldl (fun t x => t.set x.1 x.2) s1.board.statusWords } }

/-- XIN_LOSS (R519, R522): the management port, PTP and the AVSBus clock stop; the DETAIL names the Miller reference (2). -/
def execXinLoss (s : State) : Res :=
  if !s.board.xin then .next s
  else
    let s1 := logEvent { s with board := { s.board with xin := false }, mil := { s.mil with link := false, ptpLocked := false } } evClockLoss scPackage 0 [2]
    .next ((rails s1).foldl loseRail s1)

/-- XIN_RESUME (R519, R522): the management link returns by its own event. -/
def execXinResume (s : State) : Res :=
  if s.board.xin then .next s
  else .next (logEvent { s with board := { s.board with xin := true }, pwr := { s.pwr with railLost := [] } } evClockResume scPackage 0 [2])

/-- IDCODE (R526): the stepping, with 1 for A1, the part number, the manufacturer's identity, and the 1 of IEEE 1149.1 in bit 0. -/
def idcode (s : State) : W32 := BitVec.ofNat 4 s.part.stepping ++ (0x5A08 : BitVec 16) ++ Config.manufacturer ++ (1 : BitVec 1)

/-- The flash as the Miller lays it out: partitions as (offset, size) in the order of R524. -/
def flashLayout : List (Nat × Nat) :=
  [(0x00000000, 0x10000), (0x00100000, 0x1000000), (0x01100000, 0x1000000), (0x02100000, 0x800000), (0x02900000, 0x800000),
   (0x03100000, 0x400000), (0x03500000, 0x400000), (0x03900000, 0x400000), (0x03D00000, 0x400000), (0x04100000, 0x200000), (0x04300000, 0x80000),
   (0x04400000, 0x40000), (0x04500000, 0x10000), (0x04510000, 0x10000), (0x04520000, 0x10000), (0x04530000, 0x10000), (0x10000000, 0x20000000)]

/-- BOUNDARY_SCAN (R459, R526): EXTEST or CLAMP holds every die but the Miller in reset; the DETAIL reads boundary scan (255). -/
def execBoundaryScan (_clamp : Bool) (s : State) : Res :=
  if s.board.scan ∨ !s.board.vstby then .next s
  else
    let s1 := losePower [255] s
    .next { s1 with board := { s1.board with scan := true } }

/-- TEST_LOGIC_RESET (R526): after a boundary scan the Miller reboots and bring-up runs from its first phase. -/
def execTestLogicReset (s : State) : Res :=
  if !s.board.scan then .next s
  else
    let s1 := { s with board := { s.board with scan := false } }
    .next (if s.board.pwrgood then powerUp s1 else s1)

/-- Whether DEBUG lets a debug instruction reach the debug port (R451). -/
def debugPermitted (s : State) : Bool :=
  let d := s.sec.frisket.dbg
  d == 2 || (d == 1 && s.sec.phase == .noJob && !s.sec.scrubPending)

/-- DEBUG_INSTRUCTION (R451): it opens a debug session, or acts as BYPASS and is logged. -/
def execDebugInstruction (ir : W16) (s : State) : Res :=
  if debugPermitted s then .next { s with sec := { s.sec with debugOpen := true } } else .next (frisketViolation s [ir.toNat])

/-- VSTBY_LOSS (R445, R506, R513, R529): the Miller loses what it does not hold in flash. -/
def execVstbyLoss (s : State) : Res :=
  let s1 := if s.board.control then s.emit (.control false) else s
  let s2 := resetDies (if s.board.freset then s1 else s1.emit (.freset true))
  .next { s2 with
    mil := { bootedMiller s2.mil with link := false }, timeNs := 0
    board := { s2.board with vstby := false, pwrgood := false, control := false, thermtrip := false, scan := false, haltedByClock := false, intact := true
                             statusWords := [], freset := true, fwp := true, flashMode := .single } }

/-! ### The clock (R363, R490, R521, assumption 2) -/

/-- The reply buckets refill: 4,096 replies per second to a level of 64 at a host port, 256 to a level of 16 at the Miller (R363, R490). -/
def refill (s : State) : State :=
  { s with
    hosts := Tbl.mapV s.hosts (fun _ h => { h with bucket := min 64000000000 (h.bucket + 163840) })
    mil := { s.mil with bucket := min 16000000000 (s.mil.bucket + 10240) } }

/-- One period of the 25 MHz reference without a command: time, the buckets, the requests that wait, and what the sessions may send. -/
def idleTick (s : State) : State := pumpSessions (runSessions (refill (clockTick s)))

end Sys2Proof.Machine
end

