-- ==== Sys2Proof/Machine/Vector.lean ====
section
/-!
DEFINITION. The V stream: operands, organisations and the element-wise instructions (spec/04_vector_units.md, R198 to R204).
-/

namespace Sys2Proof.Machine

/-- The fields of a V-stream instruction, of format VA or VB (R199 to R201). -/
structure VOp where
  d : Nat
  a : Nat
  b : Nat
  c : Nat
  rm : Nat
  n : Nat
  cfmt : Nat
  lensel : Bool
  opbit : Bool
  subop : Nat
  roll : Bool
  scalar : W32
  draw : Nat
  rstream : Nat
  mbmix : Bool
  hasExt : Bool
  deriving DecidableEq, Repr

/-- Format VA (R199, R201). -/
def vaOp (i : Issue) : VOp :=
  { d := fld i 36 7, a := fld i 29 7, b := fld i 22 7, c := 0x7F, rm := fld i 19 3, n := fld i 4 15, cfmt := fld i 2 2,
    lensel := fld i 1 1 = 1, opbit := fld i 0 1 = 1, subop := xfld i 32 2, roll := xfld i 34 1 = 1,
    scalar := BitVec.ofNat 32 (xfld i 0 32), draw := xfld i 48 16, rstream := xfld i 36 12, mbmix := xfld i 35 1 = 1,
    hasExt := i.ext.isSome }

/-- Format VB (R200). -/
def vbOp (i : Issue) : VOp :=
  { d := fld i 36 7, a := fld i 29 7, b := fld i 22 7, c := xfld i 57 7, rm := xfld i 54 3, n := fld i 7 15, cfmt := xfld i 52 2,
    lensel := xfld i 51 1 = 1, opbit := false, subop := 0, roll := xfld i 34 1 = 1, scalar := BitVec.ofNat 32 (xfld i 0 32),
    draw := 0, rstream := 0, mbmix := false, hasExt := i.ext.isSome }

/-- The reserved bits of format VB (R200). -/
def vbReserved (i : Issue) : Except Nat Unit := need (fld i 0 7 = 0 && xfld i 35 16 = 0 && xfld i 32 2 = 0) 0x20

def isSlot (x : Nat) : Bool := decide (x < 0x40)
def isReg (x : Nat) : Bool := decide (0x40 ≤ x) && decide (x < 0x60)

/-- A specifier that R198 defines. -/
def specOk (x : Nat) : Bool := decide (x < 0x64) || decide (x = 0x7F)

/-- The encoding checks of R193, R198, R199 and R135: `used` and `unused` sources; `sr`: SR is permitted; `streamOnly`: R113. -/
def vCheck (v : Quern) (o : VOp) (used unused : List Nat) (sr streamOnly : Bool) : Except Nat Unit := do
  need ((o.d :: used ++ unused).all specOk && decide (o.d < 0x60)) 0x22
  need (used.all (fun x => x != 0x7F && (x != 0x60 || o.hasExt)) && unused.all (fun x => x == 0x7F)) 0x22
  need (o.rm ≠ 6 && (o.rm ≠ 5 || sr)) 0x21
  if v.org then do
    need (o.n = 0) 0x22
    need (!streamOnly && decide ((used.filter isSlot).length ≤ 1)) 0x1B
  else do
    need (o.cfmt = 0 && !o.lensel) 0x22
    need (o.n ≤ 16384) 0x23
    need (!(o.d :: used).any isReg) 0x1B

/-- The rounding mode of a V-stream instruction. -/
def vMode (v : Quern) (o : VOp) : RMode := (v.rmode o.rm).getD .rne

/-- The computation format that CFMT names (R199). -/
def cfmtOf (c : Nat) : Fmt := if c = 0 then .fp32 else if c = 1 then .fp64 else if c = 2 then .bf16 else .fp16

/-- The floating-point encoding of a wide format. -/
def Fmt.fpw (f : Fmt) : FpFmt := f.fp?.getD fmt32

/-- Elements of a format in one register (R121). -/
def regElems (f : Fmt) : Nat := 2048 / f.width

/-- The number of elements of an instruction (R118, R125, R126), in register mode in elements of a format, or code 0x1D. -/
def vCountIn (v : Quern) (o : VOp) (f : Fmt) : Except Nat Nat :=
  if !v.org then .ok (if o.n = 0 then v.vlen else o.n)
  else
    if !o.lensel then .ok (regElems f)
    else if f == .fp64 ∧ v.vlen % 2 = 1 then .error 0x1D
    else .ok (v.vlen * 32 / f.width)

/-- The number of elements of an instruction in its computation format. -/
def vCount (v : Quern) (o : VOp) : Except Nat Nat := vCountIn v o (cfmtOf o.cfmt)

/-! ### Register-mode visibility (R123) -/

/-- Written bits of a byte are not hidden any more: what a pending result hides less those bits. -/
def VPend.shown (p : VPend) (ws : List (Nat × W8)) : VPend :=
  { p with bytes := p.bytes.map (fun b => (b.1, b.2.1, (ws.filter (fun w => w.1 == b.1)).foldl (fun m w => m &&& ~~~w.2) b.2.2)) }

/-- What pending results still hide at instruction j: visible ones are gone, and no older one hides what a visible one wrote. -/
def expire (j : Nat) : List VPend → List VPend
  | [] => []
  | p :: rest =>
    if p.due ≤ j then expire j rest
    else
      let seen := rest.filter (fun r => decide (r.due ≤ j))
      let kept := p.lanes.filter (fun l => !(seen.any (fun r => r.lanes.any (fun x => x.1 == l.1))))
      VPend.shown { p with lanes := kept } (seen.flatMap (fun r => r.bytes.map (fun b => (b.1, b.2.2)))) :: expire j rest

/-- A register lane as the next V-stream instruction reads it. -/
def laneAt (v : Quern) (k : Nat) : W32 :=
  match v.vpend.findSome? (fun p => (p.lanes.find? (fun x => x.1 == k)).map (·.2)) with
  | some w => w
  | none => v.lanes.getD k 0

/-- A byte with what pending results hide of it, the oldest before the later ones (R123). -/
def hideByte (ps : List VPend) (a : Nat) (b : W8) : W8 :=
  ps.foldr (fun p b =>
    match p.bytes.find? (fun x => x.1 == a) with
    | some (_, old, mask) => (old &&& mask) ||| (b &&& ~~~mask)
    | none => b) b

/-- A byte of memory as the next V-stream instruction reads it: in stream mode every earlier write has reached its destination (R119). -/
def vByte (s : State) (q : Nat) (a : Nat) : W8 :=
  if (s.quern q).org then hideByte (s.quern q).vpend a (readByte s a) else readByte s a

/-- Bits of element j of a register in a format of width w (R121). -/
def regBits (v : Quern) (r w j : Nat) : Nat :=
  if w = 64 then (laneAt v (r * 64 + 2 * j)).toNat + (laneAt v (r * 64 + 2 * j + 1)).toNat * 2 ^ 32
  else if w = 32 then (laneAt v (r * 64 + j)).toNat
  else (laneAt v (r * 64 + j / 2)).toNat / 2 ^ (16 * (j % 2)) % 2 ^ 16

/-- Register lanes after elements are written: (element, bits), the lanes' other bits staying (R121, R126). -/
def regWrites (v : Quern) (r w : Nat) (els : List (Nat × Nat)) : List (Nat × W32) :=
  if w = 64 then els.flatMap (fun x =>
    [(r * 64 + 2 * x.1, BitVec.ofNat 32 x.2), (r * 64 + 2 * x.1 + 1, BitVec.ofNat 32 (x.2 / 2 ^ 32))])
  else if w = 32 then els.map (fun x => (r * 64 + x.1, BitVec.ofNat 32 x.2))
  else
    els.foldl (fun (acc : Tbl W32) x =>
      let k := r * 64 + x.1 / 2
      let old := (Tbl.getD acc k (v.lanes.getD k 0)).toNat
      let sh := 2 ^ (16 * (x.1 % 2))
      Tbl.set acc k (BitVec.ofNat 32 (old - old / sh % 2 ^ 16 * sh + x.2 % 2 ^ 16 * sh))) []

/-! ### Sources and destinations -/

/-- A memory operand: its descriptor and cursor; the checks of R115 and R117 for n elements. -/
def vMem (v : Quern) (q : Nat) (slot n : Nat) : Except Nat (Desc × Nat) := do
  let d ← needDesc v slot
  let k := (v.dslot slot).cursor
  need (k + n ≤ d.count) 0x1A
  need (rangesIn (d.ranges k n) (winBase q) (winBase q + winEnd)) 0x18
  .ok (d, k)

/-- SCALAR and the constants in a computation format (R198). -/
def scalarVal (f : Fmt) (o : VOp) (x : Nat) : Val :=
  if x = 0x60 then (if f.width = 16 then f.fpw.dec (o.scalar.toNat % 2 ^ 16) else dec32 o.scalar)
  else if x = 0x61 then valOne
  else if x = 0x62 then valZero
  else .fin true 1 0

/-- Whether a source of format f may enter a computation in format comp (R116). -/
def fmtFits (comp f : Fmt) : Bool := f.wide && (f == comp || decide (f.width < comp.width))

/-- The format of a memory operand. -/
def slotFmtOf (v : Quern) (slot : Nat) : Except Nat Fmt := do
  let d ← needDesc v slot
  .ok d.fmt

/-- The computation format (R116): the first source slot's, else the destination's, in stream mode; CFMT in register mode. -/
def compFmt (v : Quern) (o : VOp) (used : List Nat) : Except Nat Fmt :=
  if v.org then .ok (cfmtOf o.cfmt)
  else do
    let f ← slotFmtOf v (((used.filter isSlot).head?).getD o.d)
    need f.wide 0x19
    .ok f

/-- The n values of a source in a computation format (R116, R117, R121). -/
def vSource (s : State) (q : Nat) (o : VOp) (comp : Fmt) (x n : Nat) : Except Nat (List Val) :=
  let v := s.quern q
  if isSlot x then do
    let (d, k) ← vMem v q x n
    need (fmtFits comp d.fmt) 0x19
    .ok ((List.range n).map (fun i => d.get (vByte s q) (k + i)))
  else if isReg x then .ok ((List.range n).map (fun i => comp.fpw.dec (regBits v (x - 0x40) comp.width i)))
  else .ok (List.replicate n (scalarVal comp o x))

/-- Advances the cursors of the named slots, each once (R117). -/
def advCursors (v : Quern) (slots : List Nat) (n : Nat) : Quern :=
  ((slots.filter isSlot).eraseDups).foldl (fun v k => v.setDslot k { v.dslot k with cursor := (v.dslot k).cursor + n }) v

/-- Stores the bytes of a V-stream result. In register mode what they replace stays visible to V-stream instructions at a smaller distance
than D (R123); a stream-mode result is visible to the next instruction (R119). `mask` gives the bits of a byte that the result takes. -/
def vStore (s : State) (q : Nat) (dist : Nat) (lanes : List (Nat × W32)) (bytes : List (Nat × W8)) (mask : Nat → W8) : State :=
  let v := s.quern q
  let v1 : Quern := { v with lanes := lanes.foldl (fun (t : Tbl W32) x => Tbl.set t x.1 x.2) v.lanes }
  let v2 : Quern :=
    if v.org then
      { v1 with vpend := v.vpend ++ [⟨v.vcount, v.vcount + dist, lanes.map (fun x => (x.1, v.lanes.getD x.1 0)),
          bytes.map (fun x => (x.1, Memory.get s.mem x.1, mask x.1))⟩] }
    else { v1 with vpend := v.vpend.map (fun p => p.shown (bytes.map (fun x => (x.1, mask x.1)))) }
  { (s.setQuern q v2) with mem := Memory.setAll s.mem bytes }

/-- A result takes the whole of its bytes. -/
def wholeByte (_ : Nat) : W8 := 0xFF

/-- The bits that elements take of their bytes: all of them but in a packed format (R59). -/
def Desc.maskOf (d : Desc) (ks : List Nat) (a : Nat) : W8 :=
  if d.fmt.packed then
    let m := packBits (fun _ => 0) d.fmt.width (ks.map (fun k => (d.bitOf k, 2 ^ d.fmt.width - 1)))
    ((m.find? (fun x => x.1 == a)).map (·.2)).getD 0xFF
  else 0xFF

/-- One result element: its value in the computation format, and the bits of that value there. -/
def vDestConv (s : State) (q : Nat) (o : VOp) (dist : Nat) (comp : Fmt) (conv : Bool) (rm : RMode) (sat : Bool)
    (vals : List Val) (draw : Nat → Nat) (n : Nat) : Except Nat State :=
  let v := s.quern q
  if isReg o.d then
    let cs := (List.range n).zip vals |>.map (fun x => (x.1, convEl comp true rm sat (draw x.1) x.2 false))
    let s1 := s.setQuern q (v.raiseFl (cs.foldl (fun f c => f ||| c.2.fl) 0))
    .ok (vStore s1 q dist (regWrites v (o.d - 0x40) comp.width (cs.map (fun c => (c.1, c.2.bits)))) [] wholeByte)
  else do
    let (d, k) ← vMem v q o.d n
    need (d.fmt != .raw64 && (conv || d.fmt.wide)) 0x19
    let rd := readByte s
    let t := v.slot d.stslot
    let els := (List.range n).zip vals |>.map (fun x => (k + x.1, x.2, draw (d.elembase + k + x.1)))
    let p :=
      if conv || d.fmt != comp then d.putConv rd rm sat t els
      else d.putRaw rd t (els.map (fun x => (x.1, (convFp comp.fpw false .rne false 0 x.2.1 false).bits)))
    let t1 := if o.roll then p.slot.roll else p.slot
    .ok (vStore (s.setQuern q ((v.setSlot d.stslot t1).raiseFl p.fl)) q dist [] p.bytes (d.maskOf ((List.range n).map (k + ·))))

/-- The low 24 bits of the draw at an element index (R64, R140). -/
def vDraw (s : State) (q : Nat) (o : VOp) (elem : Nat) : Nat :=
  let v := s.quern q
  (draw64 s.sec.seed (sidOf o.rstream o.mbmix v.ordinal) v.drawStep o.draw elem).toNat % 2 ^ 24

/-- An element-wise arithmetic instruction: sources, exact operation, one rounding to the computation format, conversion into the
destination (R75, R116). -/
def vArith (q : Nat) (o : VOp) (srcs unused : List Nat) (op : RMode → List Val → Val × Fl) (s : State) : Except Nat State := do
  let v := s.quern q
  vCheck v o srcs unused false false
  let comp ← compFmt v o srcs
  let n ← vCount v o
  let vals ← srcs.mapM (fun x => vSource s q o comp x n)
  let rm := vMode v o
  let res := (List.range n).map (fun i => opRound comp.fpw rm (op rm (vals.map (fun l => l.getD i valZero))))
  let s1 := s.updQuern q (fun v => v.raiseFl (res.foldl (fun f r => f ||| r.2) 0))
  let s2 ← vDestConv s1 q o 4 comp false rm false (res.map (·.1)) (fun _ => 0) n
  .ok (s2.updQuern q (fun v => advCursors v (o.d :: srcs) n))

/-- The operation of two operands. -/
def op2 (f : RMode → Val → Val → Val × Fl) (rm : RMode) (l : List Val) : Val × Fl := f rm (l.getD 0 valZero) (l.getD 1 valZero)

def op3 (f : RMode → Val → Val → Val → Val × Fl) (rm : RMode) (l : List Val) : Val × Fl :=
  f rm (l.getD 0 valZero) (l.getD 1 valZero) (l.getD 2 valZero)

/-- The start of a V-stream instruction: results at their distance become visible, and the instruction is counted (R123). -/
def startV (q : Nat) (op : Opcode) (i : Issue) (body : State → Except Nat State) (s : State) : Res :=
  startInstr q .v op i true always (fun s => do
    let s1 := s.updQuern q (fun v => { v with vpend := expire v.vcount v.vpend })
    let s2 ← body s1
    .ok (s2.updQuern q (fun v => { v with vcount := v.vcount + 1 }))) s

/-- The reserved OPBIT and SUBOP of format VA (R190, R202). -/
def vaReserved (o : VOp) (opbit subop : Bool) : Except Nat Unit := need ((!opbit || !o.opbit) && (!subop || o.subop = 0)) 0x20

/-- A two-source instruction of format VA. -/
def vTwo (q : Nat) (i : Issue) (f : RMode → Val → Val → Val × Fl) (s : State) : Except Nat State := do
  let o := vaOp i
  vaReserved o true true
  vArith q o [o.a, o.b] [] (op2 f) s

def execVadd (q : Fin 128) (i : Issue) (s : State) : Res := startV q .vadd i (vTwo q i addV) s

def execVmul (q : Fin 128) (i : Issue) (s : State) : Res := startV q .vmul i (vTwo q i (fun _ a b => mulV a b)) s

def execVmax (q : Fin 128) (i : Issue) (s : State) : Res := startV q .vmax i (vTwo q i (fun _ a b => maxV a b)) s

def execVmin (q : Fin 128) (i : Issue) (s : State) : Res := startV q .vmin i (vTwo q i (fun _ a b => minV a b)) s

/-- VFMA: d = a × b + c, rounded once (R75, R200). -/
def execVfma (q : Fin 128) (i : Issue) (s : State) : Res :=
  startV q .vfma i (fun s => do
    vbReserved i
    let o := vbOp i
    vArith q o [o.a, o.b, o.c] [] (op3 fmaV) s) s

/-! ### VSEL (R127) -/

/-- The conditions of VSEL. -/
def selTest (t : Nat) (a : Val) : Bool :=
  match t, a with
  | 0, _ => true
  | 1, .fin _ m _ => decide (m ≠ 0)
  | 1, .inf _ => true
  | 2, .fin s m _ => !s && decide (m ≠ 0)
  | 2, .inf s => !s
  | 3, .fin s m _ => !s || decide (m = 0)
  | 3, .inf s => !s
  | 4, .nan _ _ => true
  | 5, .fin s _ _ => s
  | 5, .inf s => s
  | 5, .nan s _ => s
  | _, _ => false

/-- An FP32 encoding widened to FP64, a NaN with its quiet bit as it is: VSEL quiets none (R127, R198). -/
def widenBits (w : W32) : Nat :=
  match dec32 w with
  | .nan n p => fmt64.infBits n + p
  | x => enc64 x

/-- The bits of source b or c of VSEL in the destination's format; a descriptor of another format is code 0x19. -/
def selBits (s : State) (q : Nat) (o : VOp) (df : Fmt) (x n : Nat) : Except Nat (List Nat) :=
  let v := s.quern q
  if isSlot x then do
    let (d, k) ← vMem v q x n
    need (d.fmt == df) 0x19
    .ok ((List.range n).map (fun i => bitsAt (vByte s q) (d.bitOf (k + i)) df.width))
  else if isReg x then .ok ((List.range n).map (fun i => regBits v (x - 0x40) df.width i))
  else if x = 0x60 ∧ df.width = 16 then .ok (List.replicate n (o.scalar.toNat % 2 ^ 16))
  else if x = 0x60 ∧ df.width = 32 then .ok (List.replicate n o.scalar.toNat)
  else if x = 0x60 then .ok (List.replicate n (widenBits o.scalar))
  else .ok (List.replicate n (convFp df.fpw false .rne false 0 (scalarVal df o x) false).bits)

/-- The values of source a of VSEL in its own format. -/
def selTested (s : State) (q : Nat) (o : VOp) (df : Fmt) (x n : Nat) : Except Nat (List Val) :=
  let v := s.quern q
  if isSlot x then do
    let (d, k) ← vMem v q x n
    need d.fmt.wide 0x19
    .ok ((List.range n).map (fun i => d.get (vByte s q) (k + i)))
  else vSource s q o df x n

/-- VSEL copies the chosen element's bits. DESIGN CHOICE (assumption 114): in register mode a memory destination's format is the one in which
the instruction reads its registers and counts its elements; CFMT gives it for a register destination. -/
def vSel (q : Nat) (i : Issue) (s : State) : Except Nat State := do
  vbReserved i
  let o := vbOp i
  let v := s.quern q
  let test := o.rm
  let used := if test = 0 then [o.b, o.c] else [o.a, o.b, o.c]
  need (test ≤ 5) 0x22
  vCheck v { o with rm := 0 } used (if test = 0 then [o.a] else []) false false
  let df ← if isSlot o.d then slotFmtOf v o.d else .ok (cfmtOf o.cfmt)
  need df.wide 0x19
  let n ← vCountIn v o df
  let av ← if test = 0 then .ok (List.replicate n valZero) else selTested s q o df o.a n
  let bb ← selBits s q o df o.b n
  let cb ← selBits s q o df o.c n
  let out := (List.range n).map (fun j => (j, if selTest test (av.getD j valZero) then bb.getD j 0 else cb.getD j 0))
  let s1 ←
    if isReg o.d then .ok (vStore s q 4 (regWrites v (o.d - 0x40) df.width out) [] wholeByte)
    else do
      let (d, k) ← vMem v q o.d n
      let p := d.putRaw (readByte s) (v.slot d.stslot) (out.map (fun x => (k + x.1, x.2)))
      let t1 := if o.roll then p.slot.roll else p.slot
      .ok (vStore (s.setQuern q (v.setSlot d.stslot t1)) q 4 [] p.bytes wholeByte)
  .ok (s1.updQuern q (fun v => advCursors v (o.d :: used) n))

def execVsel (q : Fin 128) (i : Issue) (s : State) : Res := startV q .vsel i (vSel q i) s

/-! ### VCVT (R53, R65) -/

/-- The values of VCVT's source: a descriptor in any format but RAW64, a register or scalar in the computation format. -/
def cvtSource (s : State) (q : Nat) (o : VOp) (comp : Fmt) (n : Nat) : Except Nat (List Val) :=
  let v := s.quern q
  if isSlot o.a then do
    let (d, k) ← vMem v q o.a n
    need (d.fmt != .raw64) 0x19
    .ok ((List.range n).map (fun i => d.get (vByte s q) (k + i)))
  else vSource s q o comp o.a n

/-- The computation format of VCVT: CFMT in register mode; in stream mode it matters for a scalar alone, which takes the
destination's format, or FP32 where that is not one of the four (assumption 15). -/
def cvtComp (v : Quern) (o : VOp) : Except Nat Fmt :=
  if v.org then .ok (cfmtOf o.cfmt)
  else if isSlot o.a then .ok .fp32
  else do
    let f ← slotFmtOf v o.d
    .ok (if f.wide then f else .fp32)

def vCvt (q : Nat) (i : Issue) (s : State) : Except Nat State := do
  let o := vaOp i
  vaReserved o false true
  let v := s.quern q
  vCheck v o [o.a] [o.b] true false
  let n ← vCount v o
  let comp ← cvtComp v o
  let vals ← cvtSource s q o comp n
  let rm := vMode v o
  let s1 ← vDestConv s q o 4 comp true rm o.opbit vals (fun e => if rm = .sr then vDraw s q o e else 0) n
  .ok (s1.updQuern q (fun v => advCursors v [o.d, o.a] n))

def execVcvt (q : Fin 128) (i : Issue) (s : State) : Res := startV q .vcvt i (vCvt q i) s

/-! ### Special functions (R130 to R132) -/

/-- A special function: FP32 results, then the conversion into the destination under RMODE. -/
def vSpecial (q : Nat) (i : Issue) (opbit : Bool) (f : VOp → Val → Val × Fl) (s : State) : Except Nat State := do
  let o := vaOp i
  vaReserved o (!opbit) true
  let v := s.quern q
  vCheck v o [o.a] [o.b] false false
  let comp ← compFmt v o [o.a]
  need (comp != .fp64) 0x1C
  let n ← vCount v o
  let vals ← vSource s q o comp o.a n
  let res := vals.map (f o)
  let s1 := s.updQuern q (fun v => v.raiseFl (res.foldl (fun g r => g ||| r.2) 0))
  let s2 ←
    if isReg o.d then vDestConv s1 q o 8 comp true (vMode v o) false (res.map (·.1)) (fun _ => 0) n
    else vDestConv s1 q o 8 .fp32 false (vMode v o) false (res.map (·.1)) (fun _ => 0) n
  .ok (s2.updQuern q (fun v => advCursors v [o.d, o.a] n))

/-- The factor k of VEXP: SCALAR, or 1.0 without an extension word (R201). -/
def vexpK (o : VOp) : Val := if o.hasExt then dec32 o.scalar else valOne

def execVexp (q : Fin 128) (i : Issue) (s : State) : Res :=
  startV q .vexp i (vSpecial q i true (fun o x => vexpV o.opbit (vexpK o) x)) s

def execVlog (q : Fin 128) (i : Issue) (s : State) : Res := startV q .vlog i (vSpecial q i true (fun o x => logV o.opbit x)) s

def execVrcp (q : Fin 128) (i : Issue) (s : State) : Res := startV q .vrcp i (vSpecial q i false (fun _ x => rcpV x)) s

def execVrsq (q : Fin 128) (i : Issue) (s : State) : Res := startV q .vrsq i (vSpecial q i false (fun _ x => rsqV x)) s

/-! ### VSETVL and VMODE (R114, R125, R204) -/

def vlMax (org : Bool) : Nat := if org then 64 else 4096

def execVsetvl (q : Fin 128) (i : Issue) (s : State) : Res :=
  startV q .vsetvl i (fun s => do
    needTop i 16
    need (fld i 0 16 ≤ vlMax (s.quern q).org) 0x1D
    .ok (s.updQuern q (fun v => { v with vlen := fld i 0 16 }))) s

/-- VMODE (R114). A change of ORG sets every register, so no pending result hides a register any more; the distances of R123 go on counting
over it for the bytes of memory. -/
def setOrg (org : Bool) (defrm : BitVec 3) (v : Quern) : Quern :=
  if v.org == org then { v with defrm := defrm }
  else { v with defrm := defrm, org := org, lanes := [], vlen := vlMax org, vpend := v.vpend.map (fun p => { p with lanes := [] }) }

def execVmode (q : Fin 128) (i : Issue) (s : State) : Res :=
  startV q .vmode i (fun s => do
    needTop i 4
    need (fld i 1 3 ≤ 4) 0x22
    .ok (s.updQuern q (setOrg (fld i 0 1 = 1) (BitVec.ofNat 3 (fld i 1 3))))) s

end Sys2Proof.Machine
end

