-- ==== Sys2Proof/Machine/Learn.lean ====
section
/-!
DEFINITION. Row statistics and the arithmetic for learning: VROWSTAT, VRNG, VSRND, VNORM2, VUPD (R133, R140, R141, R147, R149 to R152).
-/

namespace Sys2Proof.Machine

/-- A value with the flags raised in forming it. -/
abbrev VF := Val × Fl

/-- A binary operation on values with flags. -/
def vf2 (f : Val → Val → Val × Fl) (a b : VF) : VF :=
  let r := f a.1 b.1
  (r.1, r.2 ||| a.2 ||| b.2)

/-- One level of the fixed tree: pairs (0, 1), (2, 3), … (R133). -/
def treeLevel (f : VF → VF → VF) : List VF → List VF
  | a :: b :: t => f a b :: treeLevel f t
  | l => l

/-- The fixed binary tree over 64 lanes: six levels (R133). -/
def tree64 (f : VF → VF → VF) (l : List VF) : VF :=
  ((List.range 6).foldl (fun l _ => treeLevel f l) l).headD (valZero, 0)

/-- The partials of 64 lanes: element j of the row goes to lane j mod 64, in increasing j (R133). -/
def lanePartials (start : Val) (f : VF → Val → VF) (row : List Val) : List VF :=
  (List.range 64).map (fun l =>
    ((List.range row.length).zip row |>.filter (fun x => x.1 % 64 == l)).foldl (fun a x => f a x.2) (start, 0))

/-- Σ of a row in FP32 by lanes and tree; partials start at +0. -/
def rowSum (row : List Val) : VF := tree64 (vf2 add32) (lanePartials valZero (fun a x => vf2 add32 a (x, 0)) row)

/-- The maximum of a row with VMAX semantics; a lane without elements takes no part. -/
def rowMax (row : List Val) : VF := tree64 (vf2 maxV) (lanePartials (.inf true) (fun a x => vf2 maxV a (x, 0)) row)

/-- x − y in FP32 under RNE: a NaN y is an operand as it stands, with its sign (R77). -/
def sub32 (x y : Val) : VF := add32 x (if y.isNan then y else y.neg)

/-- MAXSUM of one row (R133). -/
def maxSum (row : List Val) : VF × VF :=
  let m := rowMax row
  let es := row.map (fun x =>
    let d := sub32 x m.1
    let e := vexpV false valOne d.1
    (e.1, d.2 ||| e.2))
  let s := rowSum (es.map (·.1))
  (m, (s.1, s.2 ||| es.foldl (fun f e => f ||| e.2) 0))

/-- MEANRSTD of one row (R133), with ε. -/
def meanRstd (eps : Val) (row : List Val) : VF × VF :=
  let rho := dec32 (divRne32 valOne row.length)
  let mu := vf2 mul32 (rowSum row) (rho, 0)
  let part := lanePartials valZero (fun a x =>
    let d := sub32 x mu.1
    let r := fma32 d.1 d.1 a.1
    (r.1, a.2 ||| d.2 ||| r.2)) row
  let v := vf2 mul32 (tree64 (vf2 add32) part) (rho, 0)
  let w := vf2 add32 v (eps, 0)
  let r := rsqV w.1
  (mu, (r.1, w.2 ||| r.2))

/-- VROWSTAT (R133, R134, R203). -/
def vRowstat (q : Nat) (i : Issue) (s : State) : Except Nat State := do
  let o := vaOp i
  vaReserved o true false
  let v := s.quern q
  need (isSlot o.a) 0x22
  vCheck v o [o.a] [o.b] false true
  need (o.subop ≤ 1 && isSlot o.d) 0x22
  let n ← vCount v o
  let da ← needDesc v o.a
  need (da.fmt != .fp64) 0x1C
  need (da.fmt.wide) 0x19
  need (n % da.cols = 0) 0x1E
  let rows := n / da.cols
  let (d, k) ← vMem v q o.a n
  let (dd, kd) ← vMem v q o.d (2 * rows)
  need (dd.fmt == .fp32) 0x19
  let rd := vByte s q
  let pairs := (List.range rows).map (fun r =>
    let row := (List.range d.cols).map (fun c => d.get rd (k + r * d.cols + c))
    if o.subop = 0 then maxSum row else meanRstd (dec32 o.scalar) row)
  let words := pairs.flatMap (fun p => [p.1.1, p.2.1])
  let fl : Fl := pairs.foldl (fun f p => f ||| p.1.2 ||| p.2.2) 0
  let els := (List.range words.length).zip words |>.map (fun x => (kd + x.1, x.2, 0))
  let p := dd.putConv rd .rne false (v.slot dd.stslot) els
  let t1 := if o.roll then p.slot.roll else p.slot
  let s1 := vStore (s.setQuern q ((v.setSlot dd.stslot t1).raiseFl fl)) q 8 [] p.bytes wholeByte
  .ok (s1.updQuern q (fun v => advCursors (advCursors v [o.a] n) [o.d] (2 * rows)))

def execVrowstat (q : Fin 128) (i : Issue) (s : State) : Res := startV q .vrowstat i (vRowstat q i) s

/-- The element bits that VRNG forms from a draw: the word itself, a uniform FP32 value, or 1.0 of the format with the chance that the low 24
bits of SCALAR give (R141). -/
def rngBits (subop : Nat) (f : Fmt) (scalar : W32) (x : W64) : Nat :=
  let top := x.toNat / 2 ^ 40
  if subop = 0 then x.toNat
  else if subop = 1 then (convFp fmt32 false .rne false 0 (.fin false top (-24)) false).bits
  else if top < scalar.toNat % 2 ^ 24 then (convFp f.fpw false .rne false 0 valOne false).bits else 0

/-- VRNG (R141): RAW words, uniform FP32 values, or Bernoulli values. -/
def vRng (q : Nat) (i : Issue) (s : State) : Except Nat State := do
  let o := vaOp i
  vaReserved o true false
  let v := s.quern q
  vCheck v o [] [o.a, o.b] false true
  need (o.subop ≤ 2 && isSlot o.d) 0x22
  let n ← vCount v o
  let d0 ← needDesc v o.d
  need (if o.subop = 0 then d0.fmt == .raw64
        else if o.subop = 1 then d0.fmt == .fp32 else d0.fmt == .fp32 || d0.fmt == .bf16 || d0.fmt == .fp16) 0x19
  let (d, k) ← vMem v q o.d n
  let x (e : Nat) : W64 := draw64 s.sec.seed (sidOf o.rstream o.mbmix v.ordinal) v.drawStep o.draw (d.elembase + e)
  let bits (e : Nat) : Nat := rngBits o.subop d.fmt o.scalar (x e)
  let p := d.putRaw (readByte s) (v.slot d.stslot) ((List.range n).map (fun j => (k + j, bits (k + j))))
  let t1 := if o.roll then p.slot.roll else p.slot
  let s1 := vStore (s.setQuern q (v.setSlot d.stslot t1)) q 8 [] p.bytes wholeByte
  .ok (s1.updQuern q (fun v => advCursors v [o.d] n))

def execVrng (q : Fin 128) (i : Issue) (s : State) : Res := startV q .vrng i (vRng q i) s

/-- The range of TBITS for a source format (R140). -/
def tbitsMax (f : Fmt) : Nat := if f == .fp32 then 22 else if f == .fp16 then 9 else 6

/-- Rounding to the grid of TBITS mantissa bits in a format's exponent range (R140), with the out-of-range rule of R65. -/
def convGrid (f : FpFmt) (tb : Nat) (rm : RMode) (r : Nat) (x : Val) : Cv :=
  match x with
  | .fin s m e =>
    if m = 0 then convFp f false rm false r x false
    else
      let u := max (log2Scaled m e) f.emin - tb
      let (k, ix) := roundAt rm s m e false u r
      let c := convFp f false rm false r (.fin s k u) false
      let (k', _) := roundAt rm s m e false (log2Scaled m e - tb) r
      let tiny := !(leScaled 1 f.emin k' (log2Scaled m e - tb))
      if k = 0 then { bits := f.signBit s, fl := flInexact ||| flUnderflow, ufl := true }
      else { c with fl := c.fl ||| (if ix then flInexact else 0) ||| (if ix && tiny then flUnderflow else 0) }
  | v => convFp f false rm false r v false

/-- VSRND (R140, R535): each element onto the grid, then into the destination's format. -/
def vSrnd (q : Nat) (i : Issue) (s : State) : Except Nat State := do
  let o := vaOp i
  vaReserved o true true
  let v := s.quern q
  vCheck v o [o.a] [o.b] true true
  let comp ← compFmt v o [o.a]
  need (comp != .fp64) 0x1C
  let tb := o.scalar.toNat % 32
  need (1 ≤ tb && tb ≤ tbitsMax comp) 0x22
  let n ← vCount v o
  let vals ← vSource s q o comp o.a n
  let (d, k) ← vMem v q o.d n
  need d.fmt.wide 0x19
  let rm := vMode v o
  let r (j : Nat) : Nat := if rm = .sr then vDraw s q o (d.elembase + k + j) else 0
  let step (acc : List (Int × Nat) × StatusSlot × Fl) (x : Nat × Val) :=
    let c1 := convGrid comp.fpw tb rm (r x.1) x.2
    let c2 := convEl d.fmt true rm false (r x.1) (comp.fpw.dec c1.bits) false
    (acc.1 ++ [(d.bitOf (k + x.1), c2.bits)],
     acc.2.1.note x.2 { bits := c2.bits, sat := c1.sat || c2.sat, ufl := c1.ufl || c2.ufl, nf := c1.nf || c2.nf },
     acc.2.2 ||| c1.fl ||| c2.fl)
  let res := ((List.range n).zip vals).foldl step ([], v.slot d.stslot, 0)
  let t1 := if o.roll then res.2.1.roll else res.2.1
  let s1 := vStore (s.setQuern q ((v.setSlot d.stslot t1).raiseFl res.2.2)) q 8 [] (packBits (readByte s) d.fmt.width res.1) wholeByte
  .ok (s1.updQuern q (fun v => advCursors v [o.d, o.a] n))

def execVsrnd (q : Fin 128) (i : Issue) (s : State) : Res := startV q .vsrnd i (vSrnd q i) s

/-- The bytes that the lanes of a norm record take (R147). -/
def normLanes (rd : Nat → W8) (base : Nat) : List W64 := (List.range 64).map (fun l => BitVec.ofNat 64 (rdNat rd (base + 8 * l) 8))

/-- Adds the exact square of one element to its lane, or marks the record non-finite (R147). -/
def normAdd (acc : List W64 × Bool × Fl) (x : Nat × Val) : List W64 × Bool × Fl :=
  match x.2 with
  | .fin _ _ _ =>
    let l := x.1 % 64
    let r := add64 (dec64 (acc.1.getD l 0)) (mulV x.2 x.2).1
    (acc.1.set l (BitVec.ofNat 64 (enc64 r.1)), acc.2.1, acc.2.2 ||| r.2)
  | _ => (acc.1, true, acc.2.2)

/-- What VNORM2 writes into the record at `base`: the lanes with the squares of the values added, the first of them with element index `e0`, and
the record's mark; the flags raised (R147). -/
def normWrites (rd : Nat → W8) (base e0 : Nat) (vals : List Val) : List (Nat × W8) × Fl :=
  let r := ((List.range vals.length).zip vals).foldl (fun a x => normAdd a (e0 + x.1, x.2)) (normLanes rd base, false, 0)
  let fl := rdNat rd (base + 520) 4
  let fl1 := if r.2.1 ∧ fl % 2 = 0 then fl + 1 else fl
  ((List.range 64).flatMap (fun l => cellsAt (base + 8 * l) (leBytes 8 (r.1.getD l 0).toNat)) ++ cellsAt (base + 520) (leBytes 4 fl1), r.2.2)

/-- The tree sum of the lanes of the record at `base` and the flags raised (R147). -/
def normFold (rd : Nat → W8) (base : Nat) : VF := tree64 (vf2 add64) ((normLanes rd base).map (fun w => (dec64 w, 0)))

/-- The element index of the first value of VNORM2's source (R147). -/
def normFirst (v : Quern) (a : Nat) : Nat :=
  if isSlot a then (match descOf (v.dslot a) with | some d => d.elembase + (v.dslot a).cursor | none => 0) else 0

/-- VNORM2 (R147). DESIGN CHOICE (assumption 114): the elements of a source that is no memory slot, which has neither ELEMBASE nor cursor, are
counted from 0. -/
def vNorm2 (q : Nat) (i : Issue) (s : State) : Except Nat State := do
  let o := vaOp i
  vaReserved o false true
  let v := s.quern q
  let fold := o.opbit
  vCheck v o (if fold then [] else [o.a]) (if fold then [o.a, o.b] else [o.b]) false true
  need (isSlot o.d) 0x22
  let dd ← needDesc v o.d
  need (dd.fmt != .raw64) 0x19
  need (rangesIn [((dd.base : Int), 576)] (winBase q) (winBase q + winEnd)) 0x18
  let rd := vByte s q
  if fold then do
    let t := normFold rd dd.base
    .ok (vStore (s.setQuern q (v.raiseFl t.2)) q 8 [] (cellsAt (dd.base + 512) (leBytes 8 (enc64 t.1))) wholeByte)
  else do
    let comp ← compFmt v o [o.a]
    need (comp != .fp64) 0x1C
    let n ← vCount v o
    let vals ← vSource s q o comp o.a n
    let w := normWrites rd dd.base (normFirst v o.a) vals
    let s1 := vStore (s.setQuern q (v.raiseFl w.2)) q 8 [] w.1 wholeByte
    .ok (s1.updQuern q (fun v => advCursors v [o.a] n))

def execVnorm2 (q : Fin 128) (i : Issue) (s : State) : Res := startV q .vnorm2 i (vNorm2 q i) s

/-! ### VUPD (R149 to R152) -/

/-- The update control block (R149). -/
structure Ucb where
  nonfinite : Bool
  final : Bool
  lsExp : Int
  norm2 : Val
  tau : Val
  nlr : Val
  decay : Val
  b1 : Val
  omb1 : Val
  b2 : Val
  omb2 : Val
  bc1 : Val
  bc2 : Val
  eps2 : Val
  deriving DecidableEq, Repr

def ucbAt (rd : Nat → W8) (a : Nat) : Ucb :=
  let w (o : Nat) : Nat := rdNat rd (a + o) 4
  let f (o : Nat) : Val := dec32 (BitVec.ofNat 32 (w o))
  { nonfinite := w 4 % 2 = 1, final := w 4 / 2 % 2 = 1, lsExp := signed 32 (w 8), norm2 := dec64 (BitVec.ofNat 64 (rdNat rd (a + 16) 8)),
    tau := f 0x18, nlr := f 0x1C, decay := f 0x20, b1 := f 0x24, omb1 := f 0x28, b2 := f 0x2C, omb2 := f 0x30, bc1 := f 0x34,
    bc2 := f 0x38, eps2 := f 0x3C }

/-- x × 2^k rounded to FP32 under RNE; beyond ±10,000 the exponent no longer matters. -/
def scale32 (x : Val) (k : Int) : VF :=
  match x with
  | .fin s m e => opRound fmt32 .rne (.fin s m (e + max (-10000) (min 10000 k)), 0)
  | v => opRound fmt32 .rne (mulV v valOne)

/-- The gradient factor (R150). DESIGN CHOICE (assumption 114): the comparison of the norm with the threshold raises no flag, a quiet NaN on
either side being no reason for one. -/
def gradientFactor (u : Ucb) : VF :=
  let t := scale32 u.tau u.lsExp
  let c : VF :=
    if geV (mulV t.1 t.1).1 u.norm2 then (valOne, 0)
    else
      let x := sat32 u.norm2
      let y := rsqV x.1
      let z := mul32 t.1 y.1
      let w := minV z.1 valOne
      (w.1, x.2 ||| y.2 ||| z.2 ||| w.2)
  let r := scale32 c.1 (-u.lsExp)
  (r.1, t.2 ||| c.2 ||| r.2)

/-- One element of the update (R151): w′, and m′ and v′ where the rule computes them. -/
def updateEl (rule : Nat) (u : Ucb) (f w g m v : Val) : VF × Option Val × Option Val :=
  let g1 := mul32 g f
  let wd := mul32 w u.decay
  if rule = 0 then
    let r := fma32 u.nlr g1.1 wd.1
    ((r.1, g1.2 ||| wd.2 ||| r.2), none, none)
  else if rule = 1 then
    let m1 := fma32 u.b1 m g1.1
    let r := fma32 u.nlr m1.1 wd.1
    ((r.1, g1.2 ||| wd.2 ||| m1.2 ||| r.2), some m1.1, none)
  else
    let og := mul32 u.omb1 g1.1
    let m1 := fma32 u.b1 m og.1
    let gg := mul32 g1.1 g1.1
    let ogg := mul32 u.omb2 gg.1
    let v1 := fma32 u.b2 v ogg.1
    let mh := mul32 m1.1 u.bc1
    let vh := mul32 v1.1 u.bc2
    let ve := add32 vh.1 u.eps2
    let rs := rsqV ve.1
    let uu := mul32 mh.1 rs.1
    let r := fma32 u.nlr uu.1 wd.1
    ((r.1, g1.2 ||| wd.2 ||| og.2 ||| m1.2 ||| gg.2 ||| ogg.2 ||| v1.2 ||| mh.2 ||| vh.2 ||| ve.2 ||| rs.2 ||| uu.2 ||| r.2),
      some m1.1, some v1.1)

/-- The FP32 word of a result, or where the rule names none the free value of what the instruction reads (assumption 9). -/
def wordOr (ins : List Nat) (x : Option Val) : Nat := match x with | some v => enc32 v | none => (Config.freeWord ins).toNat

/-- Writes FP32 words through a destination slot of VUPD; NONFINITE alone reaches its status slot (R70, R151). -/
def updPut (q : Nat) (slot n : Nat) (roll : Bool) (words : List Nat) (s : State) : Except Nat State := do
  let v := s.quern q
  let (d, k) ← vMem v q slot n
  let p := d.putRaw (readByte s) (v.slot d.stslot) ((List.range n).zip words |>.map (fun x => (k + x.1, x.2)))
  let t1 := if roll then p.slot.roll else p.slot
  .ok (vStore (s.setQuern q (v.setSlot d.stslot t1)) q 8 [] p.bytes wholeByte)

/-- VUPD (R149 to R152, R203). -/
def vUpd (q : Nat) (i : Issue) (s : State) : Except Nat State := do
  let o := vaOp i
  vaReserved o true false
  let v := s.quern q
  vCheck v o [o.a, o.b] [] false true
  need (o.subop ≤ 2 && isSlot o.a && isSlot o.b && isSlot o.d) 0x22
  need (o.a + 2 ≤ 63 && o.d + 2 ≤ 63 && o.b + 1 ≤ 63) 0x1B
  let n ← vCount v o
  let named := [o.a, o.a + 1, o.a + 2, o.b, o.d, o.d + 1, o.d + 2]
  let ops ← named.mapM (fun x => vMem v q x n)
  need (ops.all (fun x => x.1.fmt != .fp64)) 0x1C
  need (ops.all (fun x => x.1.fmt == .fp32)) 0x19
  let cb ← needDesc v (o.b + 1)
  need (cb.fmt != .raw64) 0x19
  need (rangesIn [((cb.base : Int), 64)] (winBase q) (winBase q + winEnd)) 0x18
  let rd := vByte s q
  let u := ucbAt rd cb.base
  need u.final 0x1F
  let fin (s : State) : State := s.updQuern q (fun v => advCursors v named n)
  if u.nonfinite then .ok (fin s)
  else do
    let src (x : Nat) : List Val :=
      match ops[x]? with
      | some (d, k) => (List.range n).map (fun j => d.get rd (k + j))
      | none => []
    let f := gradientFactor u
    let ws := src 0
    let ms := src 1
    let vs := src 2
    let gs := src 3
    let res := (List.range n).map (fun j =>
      updateEl o.subop u f.1 (ws.getD j valZero) (gs.getD j valZero) (ms.getD j valZero) (vs.getD j valZero))
    let fl : Fl := res.foldl (fun g r => g ||| r.1.2) f.2
    let ucb := rdNat rd cb.base 64
    let ins (which j : Nat) : List Nat :=
      o.subop :: which :: ucb :: (ops.take 4).map (fun x => bitsAt rd (x.1.bitOf (x.2 + j)) 32)
    let mw := (List.range n).zip res |>.map (fun x => wordOr (ins 0 x.1) x.2.2.1)
    let vw := (List.range n).zip res |>.map (fun x => wordOr (ins 1 x.1) x.2.2.2)
    let s0 := s.updQuern q (fun v => v.raiseFl fl)
    let s1 ← updPut q o.d n o.roll (res.map (fun r => enc32 r.1.1)) s0
    let s2 ← updPut q (o.d + 1) n o.roll mw s1
    let s3 ← updPut q (o.d + 2) n o.roll vw s2
    .ok (fin s3)

def execVupd (q : Fin 128) (i : Issue) (s : State) : Res := startV q .vupd i (vUpd q i) s

end Sys2Proof.Machine
end

