-- ==== Sys2Proof/Machine/Matrix.lean ====
section
/-!
DEFINITION. The M stream: the matrix array, its planes, passes, epochs and write-outs (spec/03_matrix_arrays.md, R195 to R197).
-/

namespace Sys2Proof.Machine

/-- The edge n and the number of partitions of a mode (R80). -/
def modeEdge (pm : BitVec 2) : Nat := if pm = 0 then 256 else if pm = 1 then 128 else 64
def modeParts (pm : BitVec 2) : Nat := if pm = 0 then 1 else if pm = 1 then 4 else 16

/-- The address of accumulator set k of a Quern (R102). -/
def setBase (q k : Nat) : Nat := winBase q + accOff + k * 0x40000

/-- Sets an accumulator set to +0 and forgets its special elements. -/
def clearSet (s : State) (q k : Nat) : State :=
  let s1 := { s with mem := Memory.clear s.mem (setBase q k) 0x40000 }
  s1.updQuern q (fun v => { v with special := v.special.filter (fun a => !(decide (setBase q k ≤ a) && decide (a < setBase q k + 0x40000))) })

/-- An MCFG's effect: a change of mode clears both planes and the active set (R83). -/
def setMode (q : Nat) (pm : BitVec 2) (s : State) : State :=
  let v := s.quern q
  if v.pmode = pm then s
  else clearSet (s.setQuern q { v with pmode := pm, plane0 := {}, plane1 := {} }) q (v.epoch % 2)

/-! ### Operands of the array -/

/-- The element of an exact value (R56, R90). -/
def elOf (v : Val) : El :=
  match v with
  | .nan _ _ => .nan
  | .inf s => .inf s
  | .fin s m e => .fin (if s then -(m : Int) else m) e

/-- floor(log2 |x|) of a finite non-zero value. -/
def valLog2 (v : Val) : Option Int :=
  match v with
  | .fin _ m e => if m = 0 then none else some (log2Scaled m e)
  | _ => none

/-- The largest exponent of a block's finite non-zero elements, or −127 (R97). -/
def blockExp (l : List Val) : Int :=
  l.foldl (fun a v => match valLog2 v with | some e => (match a with | none => some e | some x => some (max x e)) | none => a)
    (none : Option Int) |>.getD (-127)

/-- Piece `piece` (0 h, 1 m, 2 l) of an element of a block with exponent eb, under S2 (1) or S3 (2) (R97, R98, R101). -/
def splitEl (split piece : Nat) (eb : Int) (v : Val) : El :=
  match v with
  | .nan _ _ => .nan
  | .inf s => .inf s
  | .fin s m e =>
    let w : Int := if split = 1 then 14 else 22
    let q := (roundAt .rne s m e false (eb - w) 0).1
    let x : Int := if s then -(q : Int) else q
    let x := if split = 2 ∧ x = 2 ^ 23 then 2 ^ 23 - 1 else x
    let sg : Int := if m = 0 then 0 else if s then -1 else 1
    if split = 1 then
      (if piece = 0 then .piece (x / 256) (eb - w + 8) sg else .piece (x % 256) (eb - w) sg)
    else if piece = 0 then .piece (x / 65536) (eb - w + 16) sg
    else if piece = 1 then .piece (x % 65536 / 256) (eb - w + 8) sg
    else .piece (x % 256) (eb - w) sg

/-- Splits a run of elements along K in blocks of 32 (R97). -/
def splitRun (split piece : Nat) : Nat → List Val → List El
  | 0, _ => []
  | fuel + 1, l =>
    if l.isEmpty then []
    else
      let b := l.take 32
      b.map (splitEl split piece (blockExp b)) ++ splitRun split piece fuel (l.drop 32)

/-- Elements along K of one row or column of an operand. -/
def runEls (split piece : Nat) (l : List Val) : List El := if split = 0 then l.map elOf else splitRun split piece l.length l

/-- The format of an operand against its split mode (R81, R97): elements per cell. -/
def operandClass (f : Fmt) (split : Nat) : Except Nat Nat :=
  if split = 0 then (if f.perCell = 0 then .error 0x14 else .ok f.perCell)
  else if split = 1 then (if f == .bf16 || f == .fp16 then .ok 1 else .error 0x14)
  else if f == .fp32 then .ok 1 else .error 0x14

/-- SPLIT and PIECE fields (R195): reserved values and pieces that the mode does not have are code 0x22. -/
def needPiece (split piece : Nat) : Except Nat Unit :=
  need (split ≠ 3 && piece ≠ 3 && (split ≠ 0 || piece = 0) && (piece ≠ 1 || split = 2)) 0x22

/-- The descriptor as partition p reads it: base and scale position moved by PSTRIDE (R82). -/
def Desc.part (d : Desc) (p ps : Nat) : Desc :=
  { d with base := d.base + p * ps, scalebase := d.scalebase + p * ps / d.fmt.blockBytes }

/-- PSTRIDE against the operand: a multiple of b for a block-scaled one, of the packing group for a packed one (R82, R59). DESIGN CHOICE
(assumption 109): the check is made in every mode, in full mode too, where no partition uses PSTRIDE. -/
def pstrideOk (d : Desc) (ps : Nat) : Bool :=
  if d.fmt.isBlock then decide (ps % d.fmt.blockBytes = 0) else !d.fmt.packed || decide (ps % d.fmt.groupBytes = 0)

/-- Byte ranges of an R × C corner of plane 0 of a tensor. -/
def Desc.corner (d : Desc) (r c : Nat) : List (Int × Nat) :=
  (List.range r).flatMap (fun i => d.ranges (i * d.cols) c)

/-- Element (r, c) of plane 0 for the array: zero beyond the tensor's extents (R89), without a VQ4 tensor scale (R90). -/
def Desc.cell (d : Desc) (rd : Nat → W8) (r c : Nat) : Val :=
  if r < d.rows ∧ c < d.cols then d.getAt rd (r * d.cols + c) else valZero

/-- MLOAD's checks (R87, R88, R112, R193, R195): the plane that it fills. DESIGN CHOICE (assumption 110): code 0x18 is judged on the bytes
that the instruction reads. -/
def loadPlane (q : Nat) (i : Issue) (s : State) : Except Nat Plane := do
  let v := s.quern q
  let split := fld i 8 2
  let piece := fld i 10 2
  let trans := fld i 7 1 = 1
  let ps := xfld i 0 48
  needTop i 12
  need (xfld i 48 16 = 0) 0x20
  needPiece split piece
  let d ← needDesc v (fld i 0 6)
  need (pstrideOk d ps) 0x15
  let pc ← operandClass d.fmt split
  need (!trans || v.pmode = 0 || d.chase) 0x11
  need (trans || !(d.fmt.isBlock || split ≠ 0)) 0x12
  let n := modeEdge v.pmode
  let k := n * pc
  let parts := List.range (modeParts v.pmode)
  let ncols := min n (if trans then d.rows else d.cols)
  let kext := min k (if trans then d.cols else d.rows)
  need (parts.all (fun p =>
    let dp := d.part p ps
    rangesIn (if trans then dp.corner ncols kext else dp.corner kext ncols) (winBase q) (winBase q + wgbOff))) 0x18
  let rd := readByte s
  let col (dp : Desc) (j : Nat) : List El :=
    runEls split piece ((List.range kext).map (fun kk => if trans then dp.cell rd j kk else dp.cell rd kk j))
  .ok { split := BitVec.ofNat 2 split, piece := BitVec.ofNat 2 piece, tscale := d.tensorScale rd, perCell := pc,
        cols := parts.map (fun p => (List.range ncols).map (col (d.part p ps))) }

/-! ### The pass (R90 to R94) -/

/-- The signed integer and exponent of an element; specials count as zero (R101). -/
def El.num : El → Int × Int
  | .fin m e => (m, e)
  | .piece m e _ => (m, e)
  | _ => (0, 0)

/-- The sign of an element's unsplit value; 0 for a zero, none for a NaN. -/
def El.sgn : El → Option Int
  | .fin m _ => some (if m < 0 then -1 else if m = 0 then 0 else 1)
  | .piece _ _ g => some g
  | .inf s => some (if s then -1 else 1)
  | .nan => none

def El.isSpecial : El → Bool
  | .nan => true
  | .inf _ => true
  | _ => false

/-- What the products of one accumulator element hold of R56: a NaN operand, an infinity times zero, an infinity of each sign. -/
structure Specials where
  nan : Bool := false
  infZero : Bool := false
  pos : Bool := false
  neg : Bool := false
  deriving DecidableEq, Repr

/-- The product of a pair of operands joins what the products before it hold (R56). -/
def Specials.join (x : Specials) (a b : El) : Specials :=
  if a.isSpecial || b.isSpecial then
    match a.sgn, b.sgn with
    | some u, some v =>
      if u * v = 0 then { x with infZero := true }
      else if u * v < 0 then { x with neg := true } else { x with pos := true }
    | _, _ => { x with nan := true }
  else x

/-- The special value that the products give, if they give one, and whether its NaN is invalid: one from ∞ × 0 or from infinities of both
signs (R56, R94). -/
def Specials.value (x : Specials) : Option (El × Bool) :=
  let both := x.pos && x.neg
  if x.nan || x.infZero || both then some (.nan, x.infZero || both)
  else if x.pos || x.neg then some (.inf x.neg, false) else none

/-- The special value of an accumulator element in a pass, over its operands along K, in whatever order (R56). -/
def specialOf (a b : List El) : Option (El × Bool) := ((a.zip b).foldl (fun x p => x.join p.1 p.2) ({} : Specials)).value

/-- The exact sum of two scaled integers. -/
def addScaled (a b : Int × Int) : Int × Int :=
  if a.1 = 0 then b else if b.1 = 0 then a
  else
    let e := min a.2 b.2
    (a.1 * 2 ^ (a.2 - e).toNat + b.1 * 2 ^ (b.2 - e).toNat, e)

/-- The term of one cell: the sum of its products (R90). -/
def cellTerm (a b : List El) : Int × Int :=
  (a.zip b).foldl (fun t p => addScaled t (p.1.num.1 * p.2.num.1, p.1.num.2 + p.2.num.2)) (0, 0)

/-- The terms of a run of cells of `pc` elements each. -/
def cellTerms (pc : Nat) : Nat → List El → List El → List (Int × Int)
  | 0, _, _ => []
  | n + 1, a, b => cellTerm (a.take pc) (b.take pc) :: cellTerms pc n (a.drop pc) (b.drop pc)

/-- The sum of a group of terms: each is floored to the window below the largest exponent (R91). -/
def groupSum (ts : List (Int × Int)) : El :=
  let emax := ts.foldl (fun a t =>
    if t.1 = 0 then a
    else
      let e := log2Scaled t.1.natAbs t.2
      match a with
      | none => some e
      | some x => some (max x e)) (none : Option Int)
  match emax with
  | none => .fin 0 0
  | some em =>
    let lsb := em - 46
    let fl (t : Int × Int) : Int :=
      if t.2 ≥ lsb then t.1 * 2 ^ (t.2 - lsb).toNat else t.1 / 2 ^ (lsb - t.2).toNat
    .fin (ts.foldl (fun a t => a + fl t) 0) lsb

/-- The group sums of a column, in order g = 0, 1, … (R91, R94). -/
def groupSums : Nat → List (Int × Int) → List El
  | 0, _ => []
  | g + 1, ts => groupSum (ts.take 32) :: groupSums g (ts.drop 32)

/-- A list of elements extended with zeros to length k (R89). -/
def padEls (l : List El) (k : Nat) : List El := l.take k ++ List.replicate (k - l.length) (.fin 0 0)

/-- The value of a group sum. -/
def elVal : El → Val
  | .fin m e => .fin (decide (m < 0)) m.natAbs e
  | .piece m e _ => .fin (decide (m < 0)) m.natAbs e
  | .inf s => .inf s
  | .nan => qnan

/-- Adds a pass's group sums to the accumulator elements, each addition rounded once to FP32 (R94); a special value replaces the
element, raises invalid where R56 makes a NaN, and stands for the rest of the tile (R56). -/
def addSums (s : State) (q : Nat) (adds : List AccAdd) : State :=
  adds.foldl (fun s x =>
    let v := s.quern q
    if v.special.contains x.key then s
    else
      match x.sums with
      | .nan :: _ => { (s.setQuern q { v.raiseFl (if x.invalid then flInvalid else 0) with special := x.key :: v.special }) with
          mem := Memory.setAll s.mem (cellsAt x.key (leBytes 4 0x7FC00000)) }
      | .inf g :: _ => { (s.setQuern q { v with special := x.key :: v.special }) with
          mem := Memory.setAll s.mem (cellsAt x.key (leBytes 4 (fmt32.infBits g))) }
      | gs =>
        let acc := dec32 (BitVec.ofNat 32 (rdNat (fun a => Memory.get s.mem a) x.key 4))
        let (r, f) := gs.foldl (fun (a : Val × Fl) g => let (y, h) := add32 a.1 (elVal g); (y, a.2 ||| h)) (acc, 0)
        { (s.setQuern q (v.raiseFl (f &&& flOverflow))) with mem := Memory.setAll s.mem (cellsAt x.key (leBytes 4 (enc32 r))) }) s

/-- What a pass gives: its accumulator additions and the tensor-scale pair. -/
structure PassOut where
  adds : List AccAdd
  pair : W32 × W32
  deriving DecidableEq, Repr

/-- MPASS's checks and products (R82, R87 to R91, R96, R97, R112, R195, R196). -/
def passOf (q : Nat) (i : Issue) (s : State) : Except Nat PassOut := do
  let v := s.quern q
  let trans := fld i 7 1 = 1
  let pl := if fld i 6 1 = 0 then v.plane0 else v.plane1
  let split := fld i 8 2
  let mp := fld i 10 2
  let sp := fld i 12 2
  let m := fld i 14 9
  let off := fld i 23 8
  let ps := xfld i 0 48
  let n := modeEdge v.pmode
  needTop i 31
  need (xfld i 48 16 = 0) 0x20
  needPiece split mp
  needPiece split sp
  need (m ≠ 0 && m ≤ n && off + m ≤ n) 0x10
  let d ← needDesc v (fld i 0 6)
  need (pstrideOk d ps) 0x15
  let mc ← operandClass d.fmt split
  need (!trans || d.chase) 0x11
  need (!trans || !(d.fmt.isBlock || split ≠ 0)) 0x12
  need (split = pl.split.toNat && sp = pl.piece.toNat) 0x14
  let pc := if pl.perCell = 0 then mc else min mc pl.perCell
  let k := n * pc
  let rows := min m (if trans then d.cols else d.rows)
  let kext := min k (if trans then d.rows else d.cols)
  need ((List.range (modeParts v.pmode)).all (fun p =>
    let dp := d.part p ps
    rangesIn (if trans then dp.corner kext rows else dp.corner rows kext) (winBase q) (winBase q + wgbOff))) 0x18
  let rd := readByte s
  let pair := (d.tensorScale rd, pl.tscale)
  need (match v.scales with | none => true | some x => x == pair) 0x13
  let base := setBase q (v.epoch % 2)
  let els := (List.range (modeParts v.pmode)).flatMap (fun p =>
    let dp := d.part p ps
    let cols := if pl.perCell = 0 then List.replicate n [] else pl.cols.getD p []
    (List.range m).flatMap (fun r =>
      let a := padEls (runEls split mp ((List.range kext).map (fun c => if trans then dp.cell rd c r else dp.cell rd r c))) k
      ((List.range cols.length).zip cols).map (fun jc =>
        let b := padEls jc.2 k
        let key := base + (p * n * n + (off + r) * n + jc.1) * 4
        match specialOf a b with
        | some x => { key := key, sums := [x.1], invalid := x.2 }
        | none => { key := key, sums := groupSums (n / 32) (cellTerms pc n a b), invalid := false })))
  .ok { adds := els, pair := pair }

/-- Whether the set of an epoch is still to be written out for an earlier epoch (R105). -/
def Quern.setBusy (v : Quern) : Bool := v.drains.any (fun d => d.epoch % 2 == v.epoch % 2)

/-- A pass takes effect: its sums are added, or held until the set is free (R103 to R105). -/
def runPass (q : Nat) (o : PassOut) (s : State) : State :=
  let v := s.quern q
  let s1 := s.setQuern q { v with scales := (match v.scales with | none => some o.pair | x => x) }
  if v.setBusy then s1.updQuern q (fun w => { w with held := w.held ++ [⟨v.epoch, o.adds⟩] }) else addSums s1 q o.adds

/-! ### Drains (R104 to R107, R156) -/

/-- The rounding mode of an MDRAIN, or code 0x21 (R63, R195, R197). DESIGN CHOICE (assumption 109): with DTGT = 1 the encoding 0b110 is
refused with 0x21 as in any instruction, and every other RMODE is ignored. -/
def drainMode (v : Quern) (i : Issue) (f : Fmt) : Except Nat RMode :=
  if fld i 6 1 = 1 then (if fld i 7 3 = 6 then .error 0x21 else .ok .rne)
  else
    match v.rmode (fld i 7 3) with
    | none => .error 0x21
    | some .sr => if f == .fp32 || f == .fp64 then .error 0x21 else .ok .sr
    | some r => .ok r

/-- MDRAIN's checks (R112, R193, R195, R197): the drain that it queues. DESIGN CHOICE (assumption 110): with DTGT = 0 code 0x18 is judged on
the bytes that the write-out can write, and a RAW64 destination has code 0x19. -/
def drainOf (q : Nat) (i : Issue) (s : State) : Except Nat Drain := do
  let v := s.quern q
  needTop i 15
  let d ← needDesc v (fld i 0 6)
  let _ ← drainMode v i d.fmt
  let n := modeEdge v.pmode
  let total := modeParts v.pmode * n * n
  if fld i 6 1 = 1 then
    need (d.fmt == .fp32 && rangesIn (d.ranges 0 d.count) (winBase q + wgbOff) (winBase q + accOff)) 0x18
  else
    need (d.fmt != .raw64) 0x19
    need (rangesIn (d.ranges 0 (min d.count total)) (winBase q) (winBase q + wgbOff)) 0x18
  .ok { epoch := v.epoch, issue := i, desc := v.dslot (fld i 0 6), scales := v.scales, ordinal := v.ordinal, step := v.drawStep,
        defrm := v.defrm, idx := (v.stream .m).pos }

/-- The element of a set scaled by the epoch's pair, each product rounded under RNE (R106 step 1). -/
def scaleAcc (pair : Option (W32 × W32)) (x : Val) : Val × Fl :=
  match pair with
  | none => (x, 0)
  | some (a, b) =>
    if a = 0x3F800000 ∧ b = 0x3F800000 then (x, 0)
    else
      let inv (u w : Val) (r : Val × Fl) : Fl := arrayFl (if u.isNan || w.isNan then r.2 &&& flOverflow else r.2)
      let r1 := mul32 x (dec32 a)
      let r2 := mul32 r1.1 (dec32 b)
      (r2.1, inv x (dec32 a) r1 ||| inv r1.1 (dec32 b) r2)

/-- Adds scaled elements one after another into the FP32 elements of the weight-gradient buffer, each with one rounding (R107): an element
whose address an earlier one has written reads the sum that it left. Overflow is raised, and invalid where a NaN is made from operands
that are none; NONFINITE reaches the slot. -/
def addElements (rd : Nat → W8) (d : Desc) (t : StatusSlot) (els : List (Nat × Val)) : PutRes :=
  let r := els.foldl (fun (acc : Tbl W8 × StatusSlot × Fl) x =>
    let now (a : Nat) : W8 := acc.1.getD a (rd a)
    let old := d.get now x.1
    let sum := add32 old x.2
    let fl := if old.isNan || x.2.isNan then sum.2 &&& flOverflow else arrayFl sum.2
    (((packBits now 32 [(d.bitOf x.1, enc32 sum.1)]).foldl (fun (b : Tbl W8) w => Tbl.set b w.1 w.2) acc.1),
      acc.2.1.noteBits sum.1, acc.2.2 ||| fl)) ([], t, 0)
  { bytes := r.1, slot := r.2.1, fl := r.2.2 }

/-- What a write-out writes: R106 into the destination's format, or R107 into the weight-gradient buffer. -/
def writeOutRes (s : State) (q : Nat) (dr : Drain) (d : Desc) : PutRes :=
  let v := s.quern q
  let n := modeEdge v.pmode
  let cnt := min d.count (modeParts v.pmode * n * n)
  let i := dr.issue
  let rd := readByte s
  let base := setBase q (dr.epoch % 2)
  let accs := (List.range cnt).map (fun t => (t, scaleAcc dr.scales (dec32 (BitVec.ofNat 32 (rdNat rd (base + 4 * t) 4)))))
  let fl1 : Fl := accs.foldl (fun f x => f ||| x.2.2) 0
  if fld i 6 1 = 1 then
    let p := addElements rd d (v.slot d.stslot) (accs.map (fun x => (x.1, x.2.1)))
    { p with fl := fl1 ||| p.fl }
  else
    let rm := match drainMode { v with defrm := dr.defrm } i d.fmt with | .ok r => r | .error _ => .rne
    let sid := sidOf (xfld i 36 12) (xfld i 35 1 = 1) dr.ordinal
    let r (t : Nat) : Nat :=
      if rm = .sr then (draw64 s.sec.seed sid dr.step (xfld i 48 16) (d.elembase + t)).toNat % 2 ^ 24 else 0
    let p := d.putConv rd rm (fld i 10 1 = 1) (v.slot d.stslot) (accs.map (fun x => (x.1, x.2.1, r x.1)))
    { p with slot := if fld i 11 1 = 1 then p.slot.roll else p.slot, fl := fl1 ||| p.fl }

/-- The held passes of the next epoch of a set enter it (R105). -/
def releaseHeld (s : State) (q epoch : Nat) : State :=
  let v := s.quern q
  let go := v.held.filter (fun h => h.epoch = epoch)
  let s1 := s.setQuern q { v with held := v.held.filter (fun h => h.epoch ≠ epoch) }
  go.foldl (fun s h => addSums s q h.adds) s1

/-- The MCLRs of an epoch whose set is now clear signal (R108, R110). -/
def releaseClears (s : State) (q epoch : Nat) : State :=
  let v := s.quern q
  let go := v.clears.filter (fun c => c.epoch = epoch)
  go.foldl (fun s c => signalIf s q .m c.idx c.sen c.stok) (s.setQuern q { v with clears := v.clears.filter (fun c => c.epoch ≠ epoch) })

/-- The end of a write-out: the set is cleared, the drain is done, its signal is sent, the MCLRs and held passes that waited for the set
act (R105, R106, R110, R156). -/
def endWriteOut (s : State) (q : Nat) (dr : Drain) (advWgo : Bool) : State :=
  let s1 := clearSet s q (dr.epoch % 2)
  let s2 := s1.updQuern q (fun v => { v with
    drains := v.drains.drop 1
    wgo := if advWgo then v.wgo.set (fld dr.issue 12 2) (dr.ordinal + 1) else v.wgo })
  let s3 := releaseHeld (releaseClears s2 q (dr.epoch + 2)) q (dr.epoch + 2)
  signalIf s3 q .m dr.idx dr.issue.sen dr.issue.stok.toNat

/-- A write-out of an ordinal that has been added already is counted as a discarded duplicate (R156; assumption 111). -/
def countDuplicate (s : State) (q : Nat) : State := s.updQuern q (fun v => { v with wgoDup := v.wgoDup + 1 })

/-- The write-out of the oldest drain of a Quern (R106, R107, R156). -/
def writeOut (q : Nat) (s : State) : State :=
  let v := s.quern q
  match v.drains with
  | [] => s
  | dr :: _ =>
    let wgb := fld dr.issue 6 1 = 1
    let k := v.wgo.getD (fld dr.issue 12 2) 0
    if v.fenced then s
    else if wgb ∧ dr.ordinal > k then s
    else if wgb ∧ dr.ordinal < k then endWriteOut (countDuplicate s q) q dr false
    else
      match descOf dr.desc with
      | none => s
      | some d =>
        let p := writeOutRes s q dr d
        let s1 := { (s.setQuern q ((v.setSlot d.stslot p.slot).raiseFl p.fl)) with mem := Memory.setAll s.mem p.bytes }
        endWriteOut s1 q dr (wgb && fld dr.issue 14 1 = 1)

/-! ### The commands -/

/-- MCFG (R83, R195): after every earlier write-out. -/
def execMcfg (q : Fin 128) (i : Issue) (s : State) : Res :=
  startInstr q .m .mcfg i true (fun v => v.drains.isEmpty) (fun s => do
    needTop i 2
    need (fld i 0 2 ≠ 3) 0x22
    .ok (setMode q (BitVec.ofNat 2 (fld i 0 2)) s)) s

/-- MLOAD (R84, R85, R195, R196). -/
def execMload (q : Fin 128) (i : Issue) (s : State) : Res :=
  startInstr q .m .mload i true always (fun s => do
    let p ← loadPlane q i s
    .ok (s.updQuern q (fun v => if fld i 6 1 = 0 then { v with plane0 := p } else { v with plane1 := p }))) s

/-- MPASS (R90 to R96, R103, R105). -/
def execMpass (q : Fin 128) (i : Issue) (s : State) : Res :=
  startInstr q .m .mpass i true always (fun s => do
    let o ← passOf q i s
    .ok (runPass q o s)) s

/-- MDRAIN closes the epoch and queues its write-out (R103, R104). -/
def execMdrain (q : Fin 128) (i : Issue) (s : State) : Res :=
  startInstr q .m .mdrain i false always (fun s => do
    let d ← drainOf q i s
    .ok (s.updQuern q (fun v => { v with drains := v.drains ++ [d], epoch := v.epoch + 1, scales := none }))) s

/-- MDRAIN_WRITE_OUT (R106, R107, R156). -/
def execMdrainWriteOut (q : Fin 128) (s : State) : Res :=
  whileClocked s (.next (writeOut q s))

/-- MCLR sets the current epoch's set to +0 and discards its sums, held ones included (R108). A set that an earlier write-out still uses
holds nothing of the epoch: it is clear when that write-out ends, and MCLR signals then (R105, R110). -/
def clearEpoch (q : Nat) (i : Issue) (s : State) : State :=
  let v := s.quern q
  let s1 := s.setQuern q { v with held := v.held.filter (fun h => h.epoch ≠ v.epoch) }
  if v.setBusy then
    s1.updQuern q (fun w => { w with clears := w.clears ++ [{ epoch := v.epoch, idx := (v.stream .m).pos, sen := i.sen, stok := i.stok.toNat }] })
  else clearSet s1 q (v.epoch % 2)

/-- MCLR (R108, R110, R195). -/
def execMclr (q : Fin 128) (i : Issue) (s : State) : Res :=
  startInstr q .m .mclr i (!(s.quern q).setBusy) always (fun s => do
    needTop i 0
    .ok (clearEpoch q i s)) s

end Sys2Proof.Machine
end

