-- ==== Sys2Proof/Machine/Dispatch.lean ====
section
/-! DEFINITION. The dispatch from each command to its meaning: one arm per constructor of Instr. -/

namespace Sys2Proof.Machine

def exec (i : Instr) (s : State) : Host.Outcome State Fault Refusal :=
  match i with
  | .mcfg q w => Sys2Proof.Machine.execMcfg q w s
  | .mload q w => Sys2Proof.Machine.execMload q w s
  | .mpass q w => Sys2Proof.Machine.execMpass q w s
  | .mdrain q w => Sys2Proof.Machine.execMdrain q w s
  | .mdrainWriteOut q => Sys2Proof.Machine.execMdrainWriteOut q s
  | .mclr q w => Sys2Proof.Machine.execMclr q w s
  | .vadd q w => Sys2Proof.Machine.execVadd q w s
  | .vmul q w => Sys2Proof.Machine.execVmul q w s
  | .vfma q w => Sys2Proof.Machine.execVfma q w s
  | .vmax q w => Sys2Proof.Machine.execVmax q w s
  | .vmin q w => Sys2Proof.Machine.execVmin q w s
  | .vsel q w => Sys2Proof.Machine.execVsel q w s
  | .vcvt q w => Sys2Proof.Machine.execVcvt q w s
  | .vexp q w => Sys2Proof.Machine.execVexp q w s
  | .vlog q w => Sys2Proof.Machine.execVlog q w s
  | .vrcp q w => Sys2Proof.Machine.execVrcp q w s
  | .vrsq q w => Sys2Proof.Machine.execVrsq q w s
  | .vrowstat q w => Sys2Proof.Machine.execVrowstat q w s
  | .vrng q w => Sys2Proof.Machine.execVrng q w s
  | .vsrnd q w => Sys2Proof.Machine.execVsrnd q w s
  | .vnorm2 q w => Sys2Proof.Machine.execVnorm2 q w s
  | .vupd q w => Sys2Proof.Machine.execVupd q w s
  | .vsetvl q w => Sys2Proof.Machine.execVsetvl q w s
  | .vmode q w => Sys2Proof.Machine.execVmode q w s
  | .xmove q w => Sys2Proof.Machine.execXmove q w s
  | .xfetch q w => Sys2Proof.Machine.execXfetch q w s
  | .xpref q w => Sys2Proof.Machine.execXpref q w s
  | .xdrop q w => Sys2Proof.Machine.execXdrop q w s
  | .xfence q w => Sys2Proof.Machine.execXfence q w s
  | .moveComplete q tag => Sys2Proof.Machine.execMoveComplete q tag s
  | .prefetchComplete c slot => Sys2Proof.Machine.execPrefetchComplete c slot s
  | .cwait u w => Sys2Proof.Machine.execCwait u w s
  | .csig u w => Sys2Proof.Machine.execCsig u w s
  | .cloop u w => Sys2Proof.Machine.execCloop u w s
  | .cend u w => Sys2Proof.Machine.execCend u w s
  | .cphase q w => Sys2Proof.Machine.execCphase q w s
  | .cbar q w => Sys2Proof.Machine.execCbar q w s
  | .barrierRelease c disp => Sys2Proof.Machine.execBarrierRelease c disp s
  | .chalt q w => Sys2Proof.Machine.execChalt q w s
  | .stageProgramChalt c w => Sys2Proof.Machine.execStageProgramChalt c w s
  | .programComplete q => Sys2Proof.Machine.execProgramComplete q s
  | .tokenDeadlock c disp => Sys2Proof.Machine.execTokenDeadlock c disp s
  | .imageLoad q => Sys2Proof.Machine.execImageLoad q s
  | .programStart q => Sys2Proof.Machine.execProgramStart q s
  | .mergedCompletion c disp => Sys2Proof.Machine.execMergedCompletion c disp s
  | .hpop c w => Sys2Proof.Machine.execHpop c w s
  | .dispatch c w => Sys2Proof.Machine.execDispatch c w s
  | .hpush c w => Sys2Proof.Machine.execHpush c w s
  | .hrcpt c w => Sys2Proof.Machine.execHrcpt c w s
  | .edopen c w => Sys2Proof.Machine.execEdopen c w s
  | .edpend c w => Sys2Proof.Machine.execEdpend c w s
  | .edcommit c w => Sys2Proof.Machine.execEdcommit c w s
  | .edretire c w => Sys2Proof.Machine.execEdretire c w s
  | .bscale c w => Sys2Proof.Machine.execBscale c w s
  | .bred c w => Sys2Proof.Machine.execBred c w s
  | .steptoken c w => Sys2Proof.Machine.execSteptoken c w s
  | .grantIssue f => Sys2Proof.Machine.execGrantIssue f s
  | .acceptance f => Sys2Proof.Machine.execAcceptance f s
  | .mbhdr h seq step grantNo mbid edition len => Sys2Proof.Machine.execMbhdr h seq step grantNo mbid edition len s
  | .data h seq last seg bytes => Sys2Proof.Machine.execData h seq last seg bytes s
  | .grant h grantNo => Sys2Proof.Machine.execGrant h grantNo s
  | .receipt h seq step what => Sys2Proof.Machine.execReceipt h seq step what s
  | .recallMb h seq step => Sys2Proof.Machine.execRecallMb h seq step s
  | .openFlume h dir len4k => Sys2Proof.Machine.execOpenFlume h dir len4k s
  | .openack h dir len4k result => Sys2Proof.Machine.execOpenack h dir len4k result s
  | .close h forced lastIssued firstUnused => Sys2Proof.Machine.execClose h forced lastIssued firstUnused s
  | .token h step => Sys2Proof.Machine.execToken h step s
  | .notice h step => Sys2Proof.Machine.execNotice h step s
  | .flumeBreak f => Sys2Proof.Machine.execFlumeBreak f s
  | .pathFail f => Sys2Proof.Machine.execPathFail f s
  | .red h id blockHdr p nb lines err => Sys2Proof.Machine.execRed h id blockHdr p nb lines err s
  | .redack h id credit formes => Sys2Proof.Machine.execRedack h id credit formes s
  | .roundComplete c btag => Sys2Proof.Machine.execRoundComplete c btag s
  | .bucketComplete c btag => Sys2Proof.Machine.execBucketComplete c btag s
  | .galleyStall c btag => Sys2Proof.Machine.execGalleyStall c btag s
  | .formeDisable forme => Sys2Proof.Machine.execFormeDisable forme s
  | .drainComplete c => Sys2Proof.Machine.execDrainComplete c s
  | .raceTraining r e => Sys2Proof.Machine.execRaceTraining r e s
  | .trainingTimeout r => Sys2Proof.Machine.execTrainingTimeout r s
  | .qualification r errors => Sys2Proof.Machine.execQualification r errors s
  | .helloSend r => Sys2Proof.Machine.execHelloSend r s
  | .hello r m => Sys2Proof.Machine.execHello r m s
  | .attest r a => Sys2Proof.Machine.execAttest r a s
  | .attestRetry r => Sys2Proof.Machine.execAttestRetry r s
  | .failedRetry r => Sys2Proof.Machine.execFailedRetry r s
  | .linkAck r h => Sys2Proof.Machine.execLinkAck r h s
  | .linkAckTimer r => Sys2Proof.Machine.execLinkAckTimer r s
  | .linkNack r h base missing => Sys2Proof.Machine.execLinkNack r h base missing s
  | .linkResume r h => Sys2Proof.Machine.execLinkResume r h s
  | .linkWithdraw r h => Sys2Proof.Machine.execLinkWithdraw r h s
  | .retransmissionTimeout r => Sys2Proof.Machine.execRetransmissionTimeout r s
  | .frameTransmit r => Sys2Proof.Machine.execFrameTransmit r s
  | .laneFailure r lane => Sys2Proof.Machine.execLaneFailure r lane s
  | .retrainRecovery r good errors => Sys2Proof.Machine.execRetrainRecovery r good errors s
  | .discover p d => Sys2Proof.Machine.execDiscover p d s
  | .sopenFirstForm p d => Sys2Proof.Machine.execSopenFirstForm p d s
  | .sopenSecondForm p h cookie jobId segsize window replaces => Sys2Proof.Machine.execSopenSecondForm p h cookie jobId segsize window replaces s
  | .cookieEpoch => Sys2Proof.Machine.execCookieEpoch s
  | .ack h ceCount => Sys2Proof.Machine.execAck h ceCount s
  | .nack h base missing => Sys2Proof.Machine.execNack h base missing s
  | .sessionAckTimer p session => Sys2Proof.Machine.execSessionAckTimer p session s
  | .sessionRetransmissionTimeout p session => Sys2Proof.Machine.execSessionRetransmissionTimeout p session s
  | .sclose h => Sys2Proof.Machine.execSclose h s
  | .hostPortLinkLoss p => Sys2Proof.Machine.execHostPortLinkLoss p s
  | .load j part => Sys2Proof.Machine.execLoad j part s
  | .unload j c => Sys2Proof.Machine.execUnload j c s
  | .reload j msg => Sys2Proof.Machine.execReload j msg s
  | .map j first count owner shared wp bin => Sys2Proof.Machine.execMap j first count owner shared wp bin s
  | .unmap j first count => Sys2Proof.Machine.execUnmap j first count s
  | .put j addr bytes => Sys2Proof.Machine.execPut j addr bytes s
  | .jobRegread j off => Sys2Proof.Machine.execJobRegread j off s
  | .jobRegwrite j off value => Sys2Proof.Machine.execJobRegwrite j off value s
  | .fopen j f => Sys2Proof.Machine.execFopen j f s
  | .fclose j f forced => Sys2Proof.Machine.execFclose j f forced s
  | .rewind j c step fwd bwd => Sys2Proof.Machine.execRewind j c step fwd bwd s
  | .abandon j c => Sys2Proof.Machine.execAbandon j c s
  | .rollback j c step => Sys2Proof.Machine.execRollback j c step s
  | .jobSubscribe j on => Sys2Proof.Machine.execJobSubscribe j on s
  | .fwdata p d imageId block blocks blockOk busy bytes img => Sys2Proof.Machine.execFwdata p d imageId block blocks blockOk busy bytes img s
  | .fwstatus p d imageId => Sys2Proof.Machine.execFwstatus p d imageId s
  | .firmwareStagingIdle => Sys2Proof.Machine.execFirmwareStagingIdle s
  | .millerHello m => Sys2Proof.Machine.execMillerHello m s
  | .colophon m nonce => Sys2Proof.Machine.execColophon m nonce s
  | .regread m off count => Sys2Proof.Machine.execRegread m off count s
  | .regwrite m off value mask => Sys2Proof.Machine.execRegwrite m off value mask s
  | .evread m flash first => Sys2Proof.Machine.execEvread m flash first s
  | .subscribe m minSeverity periodMs offsets => Sys2Proof.Machine.execSubscribe m minSeverity periodMs offsets s
  | .defread m first => Sys2Proof.Machine.execDefread m first s
  | .admission m b => Sys2Proof.Machine.execAdmission m b s
  | .endJob m => Sys2Proof.Machine.execEndJob m s
  | .quiesce m mask => Sys2Proof.Machine.execQuiesce m mask s
  | .resume m mask => Sys2Proof.Machine.execResume m mask s
  | .stonereset m stone => Sys2Proof.Machine.execStonereset m stone s
  | .frisket m rec reservedZero => Sys2Proof.Machine.execFrisket m rec reservedZero s
  | .recal m serial => Sys2Proof.Machine.execRecal m serial s
  | .recalDone phase pass cal => Sys2Proof.Machine.execRecalDone phase pass cal s
  | .recalabort m => Sys2Proof.Machine.execRecalabort m s
  | .fwstage m img => Sys2Proof.Machine.execFwstage m img s
  | .fwactivate m kind => Sys2Proof.Machine.execFwactivate m kind s
  | .restart m => Sys2Proof.Machine.execRestart m s
  | .assemblyTimeout k => Sys2Proof.Machine.execAssemblyTimeout k s
  | .continuationPart net op reqSeq split total offset len hashOk => Sys2Proof.Machine.execContinuationPart net op reqSeq split total offset len hashOk s
  | .telemetryPush k => Sys2Proof.Machine.execTelemetryPush k s
  | .subscriptionLapse k => Sys2Proof.Machine.execSubscriptionLapse k s
  | .energyEvent => Sys2Proof.Machine.execEnergyEvent s
  | .capWWrite m value mask => Sys2Proof.Machine.execCapWWrite m value mask s
  | .paceEnWrite m on => Sys2Proof.Machine.execPaceEnWrite m on s
  | .estClear m => Sys2Proof.Machine.execEstClear m s
  | .retrain m port => Sys2Proof.Machine.execRetrain m port s
  | .takeover m => Sys2Proof.Machine.execTakeover m s
  | .leave m => Sys2Proof.Machine.execLeave m s
  | .edLscaleWrite c value mask => Sys2Proof.Machine.execEdLscaleWrite c value mask s
  | .rcRegisterRead off => Sys2Proof.Machine.execRcRegisterRead off s
  | .registerWrite off value mask fromMiller => Sys2Proof.Machine.execRegisterWrite off value mask fromMiller s
  | .controllerPeriod fixedW stoneW => Sys2Proof.Machine.execControllerPeriod fixedW stoneW s
  | .throttleEstimate estW => Sys2Proof.Machine.execThrottleEstimate estW s
  | .regulatorReading avg2msW => Sys2Proof.Machine.execRegulatorReading avg2msW s
  | .estimatorFault estW measW => Sys2Proof.Machine.execEstimatorFault estW measW s
  | .temperatureSample stones spur bins => Sys2Proof.Machine.execTemperatureSample stones spur bins s
  | .delaySettingChange n row => Sys2Proof.Machine.execDelaySettingChange n row s
  | .ageingSample n row marginLow tsRefNew => Sys2Proof.Machine.execAgeingSample n row marginLow tsRefNew s
  | .stoneProbe n answered => Sys2Proof.Machine.execStoneProbe n answered s
  | .stoneRecovery n o => Sys2Proof.Machine.execStoneRecovery n o s
  | .quernFault q o => Sys2Proof.Machine.execQuernFault q o s
  | .uncorrectableError page found reader => Sys2Proof.Machine.execUncorrectableError page found reader s
  | .pageMigration page chunks unreadable => Sys2Proof.Machine.execPageMigration page chunks unreadable s
  | .rowRemap row uncorrectable => Sys2Proof.Machine.execRowRemap row uncorrectable s
  | .storeUncorrectable page granule way line reader => Sys2Proof.Machine.execStoreUncorrectable page granule way line reader s
  | .patrolRead frame corrected uncorrectable => Sys2Proof.Machine.execPatrolRead frame corrected uncorrectable s
  | .bondFailure l => Sys2Proof.Machine.execBondFailure l s
  | .referenceClockLoss refclk => Sys2Proof.Machine.execReferenceClockLoss refclk s
  | .referenceClockResume within60s binLapse => Sys2Proof.Machine.execReferenceClockResume within60s binLapse s
  | .millerWatchdogReset within60s => Sys2Proof.Machine.execMillerWatchdogReset within60s s
  | .brownOut n => Sys2Proof.Machine.execBrownOut n s
  | .thermtrip => Sys2Proof.Machine.execThermtrip s
  | .railMonitorTrip rail => Sys2Proof.Machine.execRailMonitorTrip rail s
  | .pmbusFailure b => Sys2Proof.Machine.execPmbusFailure b s
  | .alert status => Sys2Proof.Machine.execAlert status s
  | .xinLoss => Sys2Proof.Machine.execXinLoss s
  | .xinResume => Sys2Proof.Machine.execXinResume s
  | .boundaryScan clamp => Sys2Proof.Machine.execBoundaryScan clamp s
  | .testLogicReset => Sys2Proof.Machine.execTestLogicReset s
  | .debugInstruction ir => Sys2Proof.Machine.execDebugInstruction ir s
  | .pwrgoodAssert => Sys2Proof.Machine.execPwrgoodAssert s
  | .pwrgoodDeassert => Sys2Proof.Machine.execPwrgoodDeassert s
  | .millerBoot valid calCrcOk calSerialOk modes badRecords => Sys2Proof.Machine.execMillerBoot valid calCrcOk calSerialOk modes badRecords s
  | .spurSelfTest refPresent fatal badWays badFormes badRacePorts badHostPorts => Sys2Proof.Machine.execSpurSelfTest refPresent fatal badWays badFormes badRacePorts badHostPorts s
  | .binTest b badRows badGroups => Sys2Proof.Machine.execBinTest b badRows badGroups s
  | .stoneStartTest n t => Sys2Proof.Machine.execStoneStartTest n t s
  | .firmwareBroadcast => Sys2Proof.Machine.execFirmwareBroadcast s
  | .broadcastRepair incomplete => Sys2Proof.Machine.execBroadcastRepair incomplete s
  | .linkQualification bad => Sys2Proof.Machine.execLinkQualification bad s
  | .ready ms => Sys2Proof.Machine.execReady ms s
  | .scrub badFrames badQuerns badWays badFormes durationUs => Sys2Proof.Machine.execScrub badFrames badQuerns badWays badFormes durationUs s
  | .guestScrubConfirm confirmed => Sys2Proof.Machine.execGuestScrubConfirm confirmed s
  | .guestAccess write addr bytes => Sys2Proof.Machine.execGuestAccess write addr bytes s
  | .jwrite t vpage unit bytes => Sys2Proof.Machine.execJwrite t vpage unit bytes s
  | .jimp t recs => Sys2Proof.Machine.execJimp t recs s
  | .jentry t ctx bwd e nextGrant => Sys2Proof.Machine.execJentry t ctx bwd e nextGrant s
  | .jpush t flume seq outFlume outSeq => Sys2Proof.Machine.execJpush t flume seq outFlume outSeq s
  | .jflume t flume seq issued used state => Sys2Proof.Machine.execJflume t flume seq issued used state s
  | .jed t shard state number refcount head pages settled => Sys2Proof.Machine.execJed t shard state number refcount head pages settled s
  | .jstep t ctx step lscale final nonfinite closed rstep recs => Sys2Proof.Machine.execJstep t ctx step lscale final nonfinite closed rstep recs s
  | .jpeer t ctx peer lastToken lastNotice => Sys2Proof.Machine.execJpeer t ctx peer lastToken lastNotice s
  | .jack t ackJsn => Sys2Proof.Machine.execJack t ackJsn s
  | .twinLeave t reason => Sys2Proof.Machine.execTwinLeave t reason s
  | .assume t member incNew => Sys2Proof.Machine.execAssume t member incNew s
  | .rfetch t vpage unit mirror => Sys2Proof.Machine.execRfetch t vpage unit mirror s
  | .rdata t vpage unit mirror bad bytes => Sys2Proof.Machine.execRdata t vpage unit mirror bad bytes s
  | .pairHoldTimeout => Sys2Proof.Machine.execPairHoldTimeout s
  | .hostPortLinkUp p rate => Sys2Proof.Machine.execHostPortLinkUp p rate s
  | .managementLinkLoss up => Sys2Proof.Machine.execManagementLinkLoss up s
  | .ptpMessage domain timeNs lock => Sys2Proof.Machine.execPtpMessage domain timeNs lock s
  | .neighbourSolicitation port target v4 tags => Sys2Proof.Machine.execNeighbourSolicitation port target v4 tags s
  | .neighbourResolution port addr mac => Sys2Proof.Machine.execNeighbourResolution port addr mac s
  | .vstbyLoss => Sys2Proof.Machine.execVstbyLoss s
  | .thermtripRelease => Sys2Proof.Machine.execThermtripRelease s
  | .fwrepair p => Sys2Proof.Machine.execFwrepair p s
  | .journalAckTimer => Sys2Proof.Machine.execJournalAckTimer s

end Sys2Proof.Machine
end

