-- ==== Sys2Proof/Safety.lean ====
section
/-!
DEFINITION. The terms in which claims speak of a run: when an instruction starts, what stands around its own effect, what every step
keeps.
-/

namespace Sys2Proof.Machine

/-- A state with a command put at the front of its queue. -/
def queued (c : Instr) (s : State) : State := { s with pending := c :: s.pending }

/-- An instruction of a Quern's stream starts: it is well formed, its stream's next one and free to run, and its header wait is
satisfied, while the reference runs (R37, R163, R164). -/
def Starts (s : State) (q : Nat) (st : StreamId) (op : Opcode) (i : Issue) : Prop :=
  s.board.haltedByClock = false ∧ (s.quern q).ready st op i = true ∧ (s.quern q).waitOk i = true

/-- The state in which a Quern's instruction acts: its header wait has been taken (R164). -/
def begun (s : State) (q : Nat) (i : Issue) : State := s.setQuern q ((s.quern q).takeWait i)

/-- What stands behind the effect `t` of a Quern's instruction that started in `s`: the stream moves on and the instruction signals
(R163, R166). -/
def ended (s t : State) (q : Nat) (st : StreamId) (i : Issue) : State :=
  signalIf (advance t q st) q st ((s.quern q).stream st).pos i.sen i.stok.toNat

/-- The state in which a V-stream instruction acts: results at their distance have become visible (R123). -/
def vBegun (s : State) (q : Nat) (i : Issue) : State := (begun s q i).updQuern q (fun v => { v with vpend := expire v.vcount v.vpend })

/-- What stands behind the effect `t` of a V-stream instruction: it is counted, the stream moves on, and it signals. -/
def vEnded (s t : State) (q : Nat) (i : Issue) : State := ended s (t.updQuern q (fun v => { v with vcount := v.vcount + 1 })) q .v i

/-- The checks of an element-wise instruction in the state `s` in which it acts: the encoding is one that R198, R199 and R135 allow, the
number of elements stands, and the destination is a register or an operand that can be written (R115 to R118, R126). `conv`: the
destination may have any format. -/
structure VReads (s : State) (q : Nat) (o : VOp) (srcs unused : List Nat) (sr conv : Bool) (n : Nat) : Prop where
  check : vCheck (s.quern q) o srcs unused sr false = .ok ()
  count : vCount (s.quern q) o = .ok n
  dest : isReg o.d = true ∨ ∃ d k, vMem (s.quern q) q o.d n = .ok (d, k) ∧ d.fmt ≠ .raw64 ∧ (conv = true ∨ d.fmt.wide = true)

/-- The results of an exact operation on n elements of its sources, each rounded once to the computation format (R75). -/
def vResults (s : State) (q : Nat) (o : VOp) (comp : Fmt) (n : Nat) (op : RMode → List Val → Val × Fl) (vals : List (List Val)) :
    List (Val × Fl) :=
  (List.range n).map (fun j =>
    opRound comp.fpw (vMode (s.quern q) o) (op (vMode (s.quern q) o) (vals.map (fun l => l.getD j valZero))))

/-- The Quern with the flags of results added. -/
def raised (s : State) (q : Nat) (rs : List (Val × Fl)) : State := s.updQuern q (fun v => v.raiseFl (rs.foldl (fun f r => f ||| r.2) 0))

/-- An element-wise arithmetic instruction completes (R75, R116, R117): for every start with operands that pass their checks it writes the
results through its destination and moves the cursors of the slots that it names. -/
def ArithRuns (mk : Fin 128 → Issue → Instr) (op : Opcode) (fields : Issue → VOp) (reserved : Issue → Bool) (srcs : VOp → List Nat)
    (f : RMode → List Val → Val × Fl) : Prop :=
  ∀ (s : State) (q : Fin 128) (i : Issue) (comp : Fmt) (n : Nat) (vals : List (List Val)),
    Starts s q .v op i → reserved i = true → VReads (vBegun s q i) q (fields i) (srcs (fields i)) [] false false n →
    compFmt ((vBegun s q i).quern q) (fields i) (srcs (fields i)) = .ok comp →
    (srcs (fields i)).mapM (fun x => vSource (vBegun s q i) q (fields i) comp x n) = .ok vals →
    ∃ t, vDestConv (raised (vBegun s q i) q (vResults (vBegun s q i) q (fields i) comp n f vals)) q (fields i) 4 comp false
        (vMode (s.quern q) (fields i)) false ((vResults (vBegun s q i) q (fields i) comp n f vals).map (·.1)) (fun _ => 0) n = .ok t
      ∧ exec (mk q i) s = .next (vEnded s (t.updQuern q (fun v => advCursors v ((fields i).d :: srcs (fields i)) n)) q i)

/-- A special function completes (R130 to R132): FP32 results, converted into the destination; FP64 sources are refused elsewhere. -/
def SpecialRuns (mk : Fin 128 → Issue → Instr) (op : Opcode) (opbit : Bool) (f : VOp → Val → Val × Fl) : Prop :=
  ∀ (s : State) (q : Fin 128) (i : Issue) (comp : Fmt) (n : Nat) (vals : List Val),
    Starts s q .v op i → vaReserved (vaOp i) (!opbit) true = .ok () → VReads (vBegun s q i) q (vaOp i) [(vaOp i).a] [(vaOp i).b] false false n →
    compFmt ((vBegun s q i).quern q) (vaOp i) [(vaOp i).a] = .ok comp → comp ≠ .fp64 →
    vSource (vBegun s q i) q (vaOp i) comp (vaOp i).a n = .ok vals →
    ∃ t, vDestConv (raised (vBegun s q i) q (vals.map (f (vaOp i)))) q (vaOp i) 8 (if isReg (vaOp i).d then comp else .fp32)
        (isReg (vaOp i).d) (vMode (s.quern q) (vaOp i)) false ((vals.map (f (vaOp i))).map (·.1)) (fun _ => 0) n = .ok t
      ∧ exec (mk q i) s = .next (vEnded s (t.updQuern q (fun v => advCursors v [(vaOp i).d, (vaOp i).a] n)) q i)

/-- The n values of one of the operands of VUPD, in the state in which it acts. -/
def updSource (s : State) (q : Nat) (ops : List (Desc × Nat)) (n x : Nat) : List Val :=
  match ops[x]? with
  | some (d, k) => (List.range n).map (fun j => d.get (vByte s q) (k + j))
  | none => []

/-- The update of element j of VUPD (R151), in the state in which it acts. -/
def updOf (s : State) (q : Nat) (ops : List (Desc × Nat)) (n rule : Nat) (u : Ucb) (j : Nat) : VF × Option Val × Option Val :=
  updateEl rule u (gradientFactor u).1 ((updSource s q ops n 0).getD j valZero) ((updSource s q ops n 3).getD j valZero)
    ((updSource s q ops n 1).getD j valZero) ((updSource s q ops n 2).getD j valZero)

/-- An instruction of a stage program starts: it is well formed and the next one, its context may issue it, its wait is satisfied and its
counters exist (R164, R181, R208). `held`: a drain holds it back (R46, R250). -/
def StageStarts (s : State) (c : Nat) (op : Opcode) (i : Issue) (held : Bool) : Prop :=
  (s.ctx c).ready op i held = true ∧ (s.ctx c).waitOk i = true ∧ (i.wen = true → i.wtok.toNat ≤ 15) ∧ (i.sen = true → i.stok.toNat ≤ 15)

/-- The state in which a stage-program instruction acts: its header wait has been taken, and it is counted as issued (R164). -/
def stageBegun (s : State) (c : Nat) (i : Issue) : State := s.setCtx c { (s.ctx c).takeWait i with issued := (s.ctx c).issued + 1 }

/-- What stands behind the effect `t` of a stage-program instruction that started in `s`: the sequencer moves on and the signal is given,
or waits for `w`. -/
def stageEnded (s t : State) (c : Nat) (i : Issue) (w : SigWhen) : State := stageSig (stageAdvance t c) c (s.ctx c).seqr.pos i w

/-- What stands behind the effect `t` of a frame that its carrier delivered in `s1`: the frames that the receive buffer held behind it follow
(R342, R345, R366). -/
def released (h : FrameHdr) (s1 t : State) : State := deliverKept h.via (keptCount h.via s1) t

/-- A request is received and acts at once: it comes on a session that is OPEN and has no request without a response, and no part of a LOAD
(R342, R361, R369). -/
def JobTurn (s s1 : State) (j : JobHdr) (c : Instr) : Prop :=
  (∃ p n, j.hdr.via = .host p n) ∧ receive j.hdr c s = (s1, true) ∧ (s1.session j.port j.session).state = .openS
    ∧ (s1.session j.port j.session).requests = [] ∧ (s1.session j.port j.session).acted = false ∧ (s1.session j.port j.session).part = none

/-- The state in which such a request acts: it is the session's only request. -/
def jobTaken (s1 : State) (j : JobHdr) (c : Instr) : State :=
  s1.setSession j.port j.session { s1.session j.port j.session with requests := [c] }

/-- The request has acted with the effect `t` and its response leaves (R369, R371). -/
def jobAnswered (s1 : State) (j : JobHdr) (op status : Nat) (detail : List Nat) (t : State) : State :=
  released j.hdr s1 (respondNow t j.port j.session (.jobrsp j.reqid.toNat op status detail))

/-- The same for a request whose response waits for the twin's acknowledgement (R401). -/
def jobHeld (s1 : State) (j : JobHdr) (op status : Nat) (detail : List Nat) (t : State) : State :=
  released j.hdr s1 (hold (t.setSession j.port j.session { t.session j.port j.session with acted := true })
    (.respond j.port j.session (.jobrsp j.reqid.toNat op status detail)))

/-- A signed request passes the checks of R484, R487, R488 and R489: the Miller hears it, its packet is one for the port, the BOOT_ID is current, the signatures verify, its signers may
issue it, and its number is new to each of them. -/
def MilTurn (s : State) (m : MilHdr) (op : Nat) (who : Signers) : Prop :=
  millerHears s op = true ∧ millerPacket s m.net = true ∧ m.formOk = true ∧ m.bootId = s.mil.bootId ∧ signaturesOk s m = true ∧ m.signer ≠ 0 ∧ who.allows m.signer = true
    ∧ ∀ n ∈ lastSeqs s m, n < m.reqSeq.toNat

/-- The request has had the effect `t`, and its reply leaves and is kept (R487, R488, R494). -/
def milAnswered (m : MilHdr) (op status : Nat) (body : List Nat) (t : State) : State := signedReply m (replyOf m op status body) t

/-- What becomes of a record `i` of the twin's journal that is due when it arrives on a pair Race (R402, R403): it is applied and counted, or it
waits at an unmapped mirror page with event 0x0900, or it is malformed and stops the application with event 0x0904. -/
def JournalRuns (t : TwinHdr) (i : Instr) : Prop :=
  ∀ (s s1 : State) (r : Fin 32), t.hdr.via = .race r → receive t.hdr i s = (s1, true) → isPairRace s1 r = true → pairActive s1 = true →
    s1.pair.stopped = false → t.reservedSet = false → s1.pair.early = [] → t.jsn.toNat = s1.pair.applied + 1 →
    let u := { s1 with pair := { s1.pair with early := [(t.jsn.toNat, i)] } }
    (∀ v, applyRecord u i = .done v → exec i s = .next (released t.hdr s1 (settle (countApplied
      { v with pair := { v.pair with early := v.pair.early.filter (fun x => x.1 != t.jsn.toNat) } }))))
    ∧ (∀ p, applyRecord u i = .unmapped p → exec i s = .next (released t.hdr s1 (settle (logEvent u evMirrorUnmapped scPage (262144 + p) [t.jsn.toNat]))))
    ∧ (applyRecord u i = .malformed → exec i s = .next (released t.hdr s1 (settle (logEvent { u with pair := { u.pair with stopped := true } }
        evJournalMalformed scPackage 0 [t.jsn.toNat]))))

/-- The rational number that a term of the group adder stands for. -/
def termVal (t : Int × Int) : Rat := (t.1 : Rat) * 2 ^ t.2

/-- What every step keeps (R219, assumption 10): the bytes of the package stand in their canonical form. -/
def State.Inv (s : State) : Prop := Memory.wf s.mem = true

/-! ### What a command leaves as it was -/

/-- The components of the package's state. -/
inductive Component where
  | part | freeCtr | timeNs | mem | mm | querns | ctxs | hoppers | pool | nextEntry | flumes | eds | shards | galley | races
  | racePorts | hosts | sec | mil | boot | pwr | pair | board | grantStalls | ipWait | cookieSecret | cookiePrev | cookieEpoch
  | stepEventBase | stepEventLow | out | pending
  deriving DecidableEq, Repr

/-- A component is the same in two states. -/
def Same (s t : State) : Component → Prop
  | .part => t.part = s.part
  | .freeCtr => t.freeCtr = s.freeCtr
  | .timeNs => t.timeNs = s.timeNs
  | .mem => t.mem = s.mem
  | .mm => t.mm = s.mm
  | .querns => t.querns = s.querns
  | .ctxs => t.ctxs = s.ctxs
  | .hoppers => t.hoppers = s.hoppers
  | .pool => t.pool = s.pool
  | .nextEntry => t.nextEntry = s.nextEntry
  | .flumes => t.flumes = s.flumes
  | .eds => t.eds = s.eds
  | .shards => t.shards = s.shards
  | .galley => t.galley = s.galley
  | .races => t.races = s.races
  | .racePorts => t.racePorts = s.racePorts
  | .hosts => t.hosts = s.hosts
  | .sec => t.sec = s.sec
  | .mil => t.mil = s.mil
  | .boot => t.boot = s.boot
  | .pwr => t.pwr = s.pwr
  | .pair => t.pair = s.pair
  | .board => t.board = s.board
  | .grantStalls => t.grantStalls = s.grantStalls
  | .ipWait => t.ipWait = s.ipWait
  | .cookieSecret => t.cookieSecret = s.cookieSecret
  | .cookiePrev => t.cookiePrev = s.cookiePrev
  | .cookieEpoch => t.cookieEpoch = s.cookieEpoch
  | .stepEventBase => t.stepEventBase = s.stepEventBase
  | .stepEventLow => t.stepEventLow = s.stepEventLow
  | .out => t.out = s.out
  | .pending => t.pending = s.pending

/-- What an event changes: the ring, the sessions that carry a copy of it, and what leaves the package (R496, R485). -/
def eventsSet : List Component :=
  [.hosts, .mil, .out]

/-- What a reply of the Miller or of a host port changes beside events. -/
def repliesSet : List Component :=
  [.hosts, .mil, .ipWait, .out]

/-- What an instruction of a Quern changes beside its stores: the Quern, and the contexts that its error stops. -/
def streamsSet : List Component :=
  [.querns, .ctxs, .hosts, .mil, .out]

/-- What the halt of a context changes (R251, R268): its Querns, its entries, and what waits for it. -/
def haltsSet : List Component :=
  [.freeCtr, .mem, .mm, .querns, .ctxs, .hoppers, .pool, .hosts, .mil, .pair, .out]

/-- What frames to a member or a session change. -/
def carriesSet : List Component :=
  [.freeCtr, .mem, .mm, .querns, .ctxs, .hoppers, .pool, .hosts, .sec, .mil, .pair, .ipWait, .out]

/-- What frames, requests and stage programs of a job may change. -/
def jobsSet : List Component :=
  [.freeCtr, .mem, .mm, .querns, .ctxs, .hoppers, .pool, .flumes, .eds, .shards, .galley, .races, .hosts, .sec, .mil, .pair, .ipWait,
    .stepEventBase, .stepEventLow, .out]

/-- What a sealed frame or packet may change: also the frames that the receive buffer releases behind it, of whatever kind (R342, R366). -/
def framesSet : List Component :=
  .nextEntry :: .racePorts :: .boot :: .pwr :: .grantStalls :: jobsSet

/-- What the loss of PWRGOOD resets (R459). -/
def resetsSet : List Component :=
  [.mem, .mm, .querns, .ctxs, .hoppers, .pool, .flumes, .eds, .shards, .galley, .races, .racePorts, .hosts, .sec, .mil, .boot, .pwr, .pair,
    .board, .grantStalls, .ipWait, .cookieSecret, .cookiePrev, .cookieEpoch, .stepEventBase, .stepEventLow, .out]

/-- The components that a command may change; it leaves every other one as it is. -/
def touched : Instr → List Component
  | .mcfg .. | .mpass .. | .mclr .. | .vadd .. | .vmul .. | .vfma .. | .vmax .. | .vmin .. | .vsel .. | .vcvt .. | .vexp .. | .vlog ..
  | .vrcp .. | .vrsq .. | .vrowstat .. | .vrng .. | .vsrnd .. | .vnorm2 .. | .vupd .. => .mem :: streamsSet
  | .mload .. | .mdrain .. | .vsetvl .. | .vmode .. | .xmove .. | .xfetch .. | .xfence .. | .cwait .. | .csig .. | .cloop .. | .cend ..
  | .cbar .. | .chalt .. => streamsSet
  | .mdrainWriteOut .. => [.mem, .querns, .ctxs]
  | .xpref .. => .mm :: streamsSet
  | .xdrop .. => .freeCtr :: .mem :: .mm :: streamsSet
  | .moveComplete .. => .eds :: haltsSet
  | .prefetchComplete .. => [.mm, .querns, .ctxs]
  | .cphase .. => .pwr :: streamsSet
  | .barrierRelease .. => [.querns, .ctxs]
  | .programComplete .. => [.mm, .querns, .ctxs, .pool, .eds, .pair]
  | .stageProgramChalt .. | .mergedCompletion .. => .ctxs :: eventsSet
  | .tokenDeadlock .. => [.querns]
  | .imageLoad .. => haltsSet
  | .programStart .. => [.mem, .querns]
  | .hpop .. => .grantStalls :: jobsSet
  | .dispatch .. | .hpush .. | .hrcpt .. | .edopen .. | .edpend .. | .edcommit .. | .edretire .. | .bscale .. | .bred ..
  | .steptoken .. | .acceptance .. | .pathFail .. | .roundComplete .. | .bucketComplete .. | .drainComplete .. | .sopenSecondForm ..
  | .resume .. => jobsSet
  | .attest .. => .boot :: jobsSet
  | .mbhdr .. | .data .. | .grant .. | .receipt .. | .recallMb .. | .openFlume .. | .openack .. | .close .. | .token .. | .notice ..
  | .red .. | .redack .. | .linkAck .. | .linkNack .. | .linkResume .. | .linkWithdraw .. | .ack .. | .nack .. | .sclose ..
  | .load .. | .unload .. | .reload .. | .map .. | .unmap .. | .put .. | .jobRegread .. | .jobRegwrite .. | .fopen .. | .fclose ..
  | .rewind .. | .abandon .. | .rollback .. | .jobSubscribe .. | .jwrite .. | .jimp .. | .jentry .. | .jpush .. | .jflume .. | .jed ..
  | .jstep .. | .jpeer .. | .jack .. | .twinLeave .. | .assume .. | .rfetch .. | .rdata .. => framesSet
  | .grantIssue .. => .nextEntry :: .flumes :: .eds :: .galley :: .races :: .grantStalls :: carriesSet
  | .flumeBreak .. => .flumes :: .races :: .pair :: eventsSet
  | .galleyStall .. => .galley :: eventsSet
  | .formeDisable .. => .ctxs :: .galley :: .boot :: eventsSet
  | .raceTraining .. | .failedRetry .. => .flumes :: .races :: .racePorts :: .boot :: eventsSet
  | .retrainRecovery .. => .freeCtr :: .flumes :: .races :: .racePorts :: .boot :: eventsSet
  | .laneFailure .. => .races :: .racePorts :: .boot :: eventsSet
  | .trainingTimeout .. => .flumes :: .races :: .boot :: eventsSet
  | .qualification .. => [.freeCtr, .races, .racePorts]
  | .helloSend .. => [.sec, .out]
  | .hello .. => .flumes :: .races :: .sec :: .boot :: eventsSet
  | .attestRetry .. | .linkAckTimer .. => [.races, .sec, .out]
  | .frameTransmit .. => .flumes :: .races :: carriesSet
  | .retransmissionTimeout .. => [.races]
  | .discover .. => [.freeCtr, .hosts, .ipWait, .out]
  | .sopenFirstForm .. | .fwstatus .. | .fwrepair .. => [.hosts, .ipWait, .out]
  | .cookieEpoch .. => [.freeCtr, .cookieSecret, .cookiePrev, .cookieEpoch]
  | .sessionAckTimer .. | .energyEvent .. => carriesSet
  | .sessionRetransmissionTimeout .. => .flumes :: carriesSet
  | .hostPortLinkLoss .. => [.flumes, .hosts]
  | .hostPortLinkUp .. => [.hosts]
  | .pairHoldTimeout .. => .nextEntry :: jobsSet
  | .regwrite .. | .capWWrite .. | .paceEnWrite .. | .estClear .. | .retrain .. | .takeover .. | .leave ..
  | .edLscaleWrite .. | .registerWrite .. => .nextEntry :: .racePorts :: .boot :: .pwr :: jobsSet
  | .fwdata .. | .firmwareBroadcast .. => .boot :: eventsSet
  | .firmwareStagingIdle .. => [.boot]
  | .millerHello .. | .evread .. | .subscribe .. | .defread .. | .telemetryPush .. | .neighbourResolution .. => repliesSet
  | .colophon .. | .frisket .. => .sec :: repliesSet
  | .regread .. => .mm :: .flumes :: .galley :: .races :: .racePorts :: .sec :: .boot :: .pwr :: .grantStalls :: repliesSet
  | .admission .. => .mm :: .races :: .sec :: .pwr :: .pair :: .stepEventBase :: .stepEventLow :: repliesSet
  | .endJob .. => .flumes :: .eds :: .shards :: .galley :: .races :: carriesSet
  | .quiesce .. => .ctxs :: repliesSet
  | .stonereset .. => .pwr :: .ipWait :: haltsSet
  | .recal .. | .recalabort .. | .fwstage .. | .fwactivate .. => .boot :: repliesSet
  | .recalDone .. => [.boot, .pwr, .out]
  | .continuationPart .. => repliesSet
  | .restart .. | .vstbyLoss .. => .timeNs :: resetsSet
  | .assemblyTimeout .. | .subscriptionLapse .. | .managementLinkLoss .. | .ptpMessage .. => [.mil]
  | .rcRegisterRead .. => [.mm, .flumes, .galley, .races, .racePorts, .hosts, .sec, .mil, .boot, .pwr, .grantStalls]
  | .controllerPeriod .. | .regulatorReading .. | .estimatorFault .. => .pwr :: eventsSet
  | .throttleEstimate .. => .freeCtr :: .pwr :: eventsSet
  | .temperatureSample .. => .pwr :: jobsSet
  | .delaySettingChange .. => [.pwr]
  | .ageingSample .. => [.pwr, .out]
  | .stoneProbe .. | .brownOut .. => .pwr :: haltsSet
  | .stoneRecovery .. | .bondFailure .. | .pmbusFailure .. | .binTest .. | .linkQualification .. | .scrub .. | .quernFault .. => .boot :: .pwr :: jobsSet
  | .uncorrectableError .. | .pageMigration .. | .millerWatchdogReset .. | .broadcastRepair .. => .boot :: jobsSet
  | .storeUncorrectable .. => .boot :: haltsSet
  | .rowRemap .. | .patrolRead .. => .mm :: .ctxs :: .boot :: eventsSet
  | .referenceClockLoss .. => .board :: haltsSet
  | .referenceClockResume .. => .racePorts :: .board :: jobsSet
  | .thermtrip .. | .xinLoss .. | .xinResume .. => .pwr :: .board :: eventsSet
  | .railMonitorTrip .. | .boundaryScan .. | .pwrgoodDeassert .. => resetsSet
  | .alert .. | .thermtripRelease .. => [.board, .out]
  | .testLogicReset .. | .pwrgoodAssert .. => [.timeNs, .mil, .boot, .pwr, .board]
  | .debugInstruction .. | .guestScrubConfirm .. => .sec :: eventsSet
  | .millerBoot .. => .freeCtr :: .sec :: .boot :: .pwr :: .board :: eventsSet
  | .spurSelfTest .. => .freeCtr :: .mm :: .galley :: .racePorts :: .boot :: .cookieSecret :: eventsSet
  | .stoneStartTest .. => .boot :: .pwr :: .board :: jobsSet
  | .ready .. => .timeNs :: .sec :: .boot :: eventsSet
  | .guestAccess .. => .mem :: .mm :: .sec :: .pair :: eventsSet
  | .neighbourSolicitation .. => [.hosts, .out]
  | .journalAckTimer .. => [.races, .pair]

/-- The Quern whose stream issues an instruction that concerns no other Quern: every one but CBAR. -/
def issuer : Instr → Option Nat
  | .mcfg q _ | .mload q _ | .mpass q _ | .mdrain q _ | .mclr q _ | .vadd q _ | .vmul q _ | .vfma q _ | .vmax q _ | .vmin q _ | .vsel q _
  | .vcvt q _ | .vexp q _ | .vlog q _ | .vrcp q _ | .vrsq q _ | .vrowstat q _ | .vrng q _ | .vsrnd q _ | .vnorm2 q _ | .vupd q _
  | .vsetvl q _ | .vmode q _ | .xmove q _ | .xfetch q _ | .xpref q _ | .xdrop q _ | .xfence q _ | .cphase q _ | .chalt q _ => some q.val
  | .cwait (.quern q _) _ | .csig (.quern q _) _ | .cloop (.quern q _) _ | .cend (.quern q _) _ => some q.val
  | _ => none

/-- The bytes of elements of a slot's tensor from its cursor on (R117). -/
def slotBytesOf (s : State) (q slot n : Nat) : List Nat :=
  match vMem (s.quern q) q slot n with
  | .ok (d, k) => rangeAddrs (d.ranges k n)
  | .error _ => []

/-- The bytes of an element-wise instruction's destination: those of the elements that it names, none for a register (R117, R121). -/
def vDestBytes (s : State) (q : Nat) (o : VOp) : List Nat :=
  match vCount (s.quern q) o with
  | .ok n => if isReg o.d then [] else slotBytesOf s q o.d n
  | .error _ => []

/-- The bytes that the other V-stream instructions store to: two words for each row (R133), the lanes and flags of a norm record or its sum
(R147), the elements of three slots (R151). -/
def rowBytes (s : State) (q : Nat) (o : VOp) : List Nat :=
  match vCount (s.quern q) o, needDesc (s.quern q) o.a with
  | .ok n, .ok da => slotBytesOf s q o.d (2 * (n / da.cols))
  | _, _ => []

/-- The bytes of VSEL's destination, counted in the destination's own format (R117, R127). -/
def selBytes (s : State) (q : Nat) (o : VOp) : List Nat :=
  if isReg o.d then []
  else
    match needDesc (s.quern q) o.d with
    | .ok d => (match vCountIn (s.quern q) o d.fmt with | .ok n => slotBytesOf s q o.d n | .error _ => [])
    | .error _ => []

def normBytes (s : State) (q : Nat) (o : VOp) : List Nat :=
  match needDesc (s.quern q) o.d with
  | .ok d => if o.opbit then rangeAddrs [((d.base : Int) + 512, 8)] else rangeAddrs [((d.base : Int), 512), ((d.base : Int) + 520, 4)]
  | .error _ => []

def updBytes (s : State) (q : Nat) (o : VOp) : List Nat :=
  match vCount (s.quern q) o with
  | .ok n => slotBytesOf s q o.d n ++ slotBytesOf s q (o.d + 1) n ++ slotBytesOf s q (o.d + 2) n
  | .error _ => []

/-- The bytes that a V-stream instruction stores to when it starts in a state (R117, R133, R147, R151); none for VSETVL and VMODE. -/
def vStored (s : State) (q : Nat) : Instr → List Nat
  | .vadd _ i | .vmul _ i | .vmax _ i | .vmin _ i | .vcvt _ i | .vexp _ i | .vlog _ i | .vrcp _ i | .vrsq _ i | .vrng _ i | .vsrnd _ i =>
    vDestBytes (vBegun s q i) q (vaOp i)
  | .vfma _ i => vDestBytes (vBegun s q i) q (vbOp i)
  | .vsel _ i => selBytes (vBegun s q i) q (vbOp i)
  | .vrowstat _ i => rowBytes (vBegun s q i) q (vaOp i)
  | .vnorm2 _ i => normBytes (vBegun s q i) q (vaOp i)
  | .vupd _ i => updBytes (vBegun s q i) q (vaOp i)
  | _ => []

/-- The instructions of the V stream. -/
def vStream (q : Fin 128) (i : Issue) : List Instr :=
  [.vadd q i, .vmul q i, .vfma q i, .vmax q i, .vmin q i, .vsel q i, .vcvt q i, .vexp q i, .vlog q i, .vrcp q i, .vrsq q i, .vrowstat q i,
    .vrng q i, .vsrnd q i, .vnorm2 q i, .vupd q i, .vsetvl q i, .vmode q i]

end Sys2Proof.Machine
end

