-- ==== Sys2Proof/Certificates/Slice0/Obligations.lean ====
section
/-!
DEFINITION. The statements about the package for the provers. A clause names the conditions under which a command acts, the state it
leads to and, where it matters, what that state leaves as it was.
-/

open Sys2Proof Sys2Proof.Machine

/-! ### The matrix array -/

/-- MCFG and MCLR (R83, R108, R195). A change of mode clears both planes and the set of the current epoch; the same mode changes nothing.
MCLR sets the set of the current epoch to zero and signals; while an earlier write-out still uses that set, it waits for the end of
the write-out with its signal, and discards the sums held for the epoch. Every byte outside the set stays. -/
def Obligations.MatrixModesAndClears : Prop :=
  ∀ (s : State) (q : Fin 128) (i : Issue), Memory.wf s.mem = true →
    (Starts s q .m .mcfg i → (s.quern q).drains = [] → i.ops >>> 2 = 0 → fld i 0 2 ≠ 3 →
      ∃ t, exec (.mcfg q i) s = .next (ended s t q .m i) ∧ (t.quern q).pmode = BitVec.ofNat 2 (fld i 0 2)
        ∧ ((s.quern q).pmode = BitVec.ofNat 2 (fld i 0 2) → t = begun s q i)
        ∧ ((s.quern q).pmode ≠ BitVec.ofNat 2 (fld i 0 2) →
            (t.quern q).plane0 = {} ∧ (t.quern q).plane1 = {}
              ∧ ∀ a, Memory.get t.mem a =
                  if setBase q ((s.quern q).epoch % 2) ≤ a ∧ a < setBase q ((s.quern q).epoch % 2) + 0x40000 then 0 else Memory.get s.mem a))
    ∧ (Starts s q .m .mclr i → i.ops = 0 →
      ∃ t, exec (.mclr q i) s = .next (if (s.quern q).setBusy = true then advance t q .m else ended s t q .m i)
        ∧ (t.quern q).clears = (if (s.quern q).setBusy = true then (s.quern q).clears
              ++ [⟨(s.quern q).epoch, ((s.quern q).stream .m).pos, i.sen, i.stok.toNat⟩] else (s.quern q).clears)
        ∧ (t.quern q).held = (s.quern q).held.filter (fun h => h.epoch ≠ (s.quern q).epoch)
        ∧ ∀ a, Memory.get t.mem a =
            if (s.quern q).setBusy = false ∧ setBase q ((s.quern q).epoch % 2) ≤ a ∧ a < setBase q ((s.quern q).epoch % 2) + 0x40000 then 0
            else Memory.get s.mem a)

/-- MLOAD and MPASS (R84, R94, R103, R105, R196). MLOAD fills the plane that its word names and changes no byte. MPASS takes the
tensor scales of the first pass of its epoch; its sums wait while the set is still to be written out, and otherwise change only the
accumulator elements that they name. -/
def Obligations.MatrixLoadsAndPasses : Prop :=
  ∀ (s : State) (q : Fin 128) (i : Issue), Memory.wf s.mem = true →
    (∀ p, Starts s q .m .mload i → loadPlane q i (begun s q i) = .ok p →
      ∃ t, exec (.mload q i) s = .next (ended s t q .m i) ∧ t.mem = s.mem
        ∧ (t.quern q).plane0 = (if fld i 6 1 = 0 then p else (s.quern q).plane0)
        ∧ (t.quern q).plane1 = (if fld i 6 1 = 0 then (s.quern q).plane1 else p))
    ∧ (∀ o, Starts s q .m .mpass i → passOf q i (begun s q i) = .ok o →
      ∃ t, exec (.mpass q i) s = .next (ended s t q .m i)
        ∧ (t.quern q).scales = some ((s.quern q).scales.getD o.pair)
        ∧ ((s.quern q).setBusy = true → t.mem = s.mem ∧ (t.quern q).held = (s.quern q).held ++ [⟨(s.quern q).epoch, o.adds⟩])
        ∧ ((s.quern q).setBusy = false → ∀ a, (∀ x ∈ o.adds, a < x.key ∨ x.key + 4 ≤ a) → Memory.get t.mem a = Memory.get s.mem a))

/-- MDRAIN and its write-out (R103, R104, R106, R107, R110, R156). MDRAIN closes the epoch: the next one has no tensor scales, and the drain
queues with the closed epoch's number and scales; no byte changes yet and no signal is given. The write-out waits on a fenced Quern and,
into the weight-gradient buffer, for the ordinals before its own; a lower ordinal than the counter's is discarded and counted; otherwise it
writes what R106 and R107 give and the set is cleared. -/
def Obligations.MatrixDrainsAndWritesOut : Prop :=
  ∀ (s : State) (q : Fin 128),
    (∀ (i : Issue) (d : Drain), Starts s q .m .mdrain i → drainOf q i (begun s q i) = .ok d →
      d.epoch = (s.quern q).epoch ∧ d.scales = (s.quern q).scales
        ∧ ∃ t, exec (.mdrain q i) s = .next (advance t q .m) ∧ t.mem = s.mem ∧ (t.quern q).epoch = (s.quern q).epoch + 1
          ∧ (t.quern q).scales = none ∧ (t.quern q).drains = (s.quern q).drains ++ [d])
    ∧ (∀ (dr : Drain) (rest : List Drain), (s.quern q).drains = dr :: rest →
        ((s.quern q).fenced = true ∨ (fld dr.issue 6 1 = 1 ∧ (s.quern q).wgo.getD (fld dr.issue 12 2) 0 < dr.ordinal) →
          exec (.mdrainWriteOut q) s = .next s)
        ∧ (s.board.haltedByClock = false → (s.quern q).fenced = false → fld dr.issue 6 1 = 1 → dr.ordinal < (s.quern q).wgo.getD (fld dr.issue 12 2) 0 →
          exec (.mdrainWriteOut q) s = .next (endWriteOut (countDuplicate s q) q dr false))
        ∧ (∀ d, s.board.haltedByClock = false → (s.quern q).fenced = false → descOf dr.desc = some d →
            (fld dr.issue 6 1 = 1 → dr.ordinal = (s.quern q).wgo.getD (fld dr.issue 12 2) 0) →
          ∃ t, exec (.mdrainWriteOut q) s = .next (endWriteOut t q dr (fld dr.issue 6 1 = 1 && fld dr.issue 14 1 = 1))
            ∧ t.mem = Memory.setAll s.mem (writeOutRes s q dr d).bytes ∧ (t.quern q).drains = (s.quern q).drains))

/-- Group truncation (R91, R92). For at most 32 terms whose largest exponent is emax, the group adder's sum G is the exact sum of the terms
floored to multiples of 2^(emax − 46); it never exceeds the exact sum of the terms, falls short of it by less than 2^(emax − 41), and fits
the 53-bit adder. A group without a non-zero term has the sum zero. -/
def Obligations.GroupTruncation : Prop :=
  ∀ (ts : List (Int × Int)), ts.length ≤ 32 →
    ((∀ t ∈ ts, t.1 = 0) → groupSum ts = .fin 0 0)
    ∧ (∀ emax : Int, (∃ t ∈ ts, t.1 ≠ 0 ∧ log2Scaled t.1.natAbs t.2 = emax) → (∀ t ∈ ts, t.1 ≠ 0 → log2Scaled t.1.natAbs t.2 ≤ emax) →
      ∃ g : Int, groupSum ts = .fin g (emax - 46)
        ∧ termVal (g, emax - 46) = (ts.map (fun t => termVal ((termVal t / 2 ^ (emax - 46)).floor, emax - 46))).sum
        ∧ 0 ≤ (ts.map termVal).sum - termVal (g, emax - 46) ∧ (ts.map termVal).sum - termVal (g, emax - 46) < 2 ^ (emax - 41)
        ∧ -(2 ^ 52) ≤ g ∧ g < 2 ^ 52)

/-! ### The vector unit -/

/-- VADD, VMUL, VMAX, VMIN and VFMA (R75, R116, R117, R200, R202) and VEXP, VLOG, VRCP and VRSQ (R130 to R132, R201) in every organisation and
format: each element of the first five is the exact result rounded once to the computation format, each of the others the FP32 result of
its function, converted into the destination; the cursors of the named slots move on. -/
def Obligations.VectorArithmetic : Prop :=
  ArithRuns .vadd .vadd vaOp (fun i => !(vaOp i).opbit && decide ((vaOp i).subop = 0)) (fun o => [o.a, o.b]) (op2 addV)
    ∧ ArithRuns .vmul .vmul vaOp (fun i => !(vaOp i).opbit && decide ((vaOp i).subop = 0)) (fun o => [o.a, o.b]) (op2 (fun _ a b => mulV a b))
    ∧ ArithRuns .vmax .vmax vaOp (fun i => !(vaOp i).opbit && decide ((vaOp i).subop = 0)) (fun o => [o.a, o.b]) (op2 (fun _ a b => maxV a b))
    ∧ ArithRuns .vmin .vmin vaOp (fun i => !(vaOp i).opbit && decide ((vaOp i).subop = 0)) (fun o => [o.a, o.b]) (op2 (fun _ a b => minV a b))
    ∧ ArithRuns .vfma .vfma vbOp (fun i => decide (fld i 0 7 = 0 ∧ xfld i 35 16 = 0 ∧ xfld i 32 2 = 0)) (fun o => [o.a, o.b, o.c]) (op3 fmaV)
    ∧ SpecialRuns .vexp .vexp true (fun o x => vexpV o.opbit (vexpK o) x) ∧ SpecialRuns .vlog .vlog true (fun o x => logV o.opbit x)
    ∧ SpecialRuns .vrcp .vrcp false (fun _ x => rcpV x) ∧ SpecialRuns .vrsq .vrsq false (fun _ x => rsqV x)

/-- VSEL and VCVT in every organisation and format (R53, R65, R127). VSEL copies for each element the bits of source b where the test of
source a holds, otherwise those of source c, into registers without changing a byte, or through a slot without changing a register.
VCVT converts each element. -/
def Obligations.VectorSelectsAndConverts : Prop :=
  ∀ (s : State) (q : Fin 128) (i : Issue) (n : Nat),
    (∀ (df : Fmt) (av : List Val) (bb cb : List Nat),
      Starts s q .v .vsel i → vbReserved i = .ok () → (vbOp i).rm ≤ 5 → isReg (vbOp i).d = true → df = cfmtOf (vbOp i).cfmt →
      vCheck (s.quern q) { vbOp i with rm := 0 } (if (vbOp i).rm = 0 then [(vbOp i).b, (vbOp i).c] else [(vbOp i).a, (vbOp i).b, (vbOp i).c])
        (if (vbOp i).rm = 0 then [(vbOp i).a] else []) false false = .ok () →
      vCount (s.quern q) (vbOp i) = .ok n →
      ((vbOp i).rm ≠ 0 → selTested (vBegun s q i) q (vbOp i) df (vbOp i).a n = .ok av) →
      selBits (vBegun s q i) q (vbOp i) df (vbOp i).b n = .ok bb → selBits (vBegun s q i) q (vbOp i) df (vbOp i).c n = .ok cb →
      ∃ t, exec (.vsel q i) s = .next (vEnded s t q i) ∧ t.mem = s.mem
        ∧ (t.quern q).lanes = (regWrites (s.quern q) ((vbOp i).d - 0x40) df.width ((List.range n).map (fun j =>
            (j, if (vbOp i).rm = 0 ∨ selTest (vbOp i).rm (av.getD j valZero) = true then bb.getD j 0 else cb.getD j 0)))).foldl
            (fun (w : Tbl W32) x => Tbl.set w x.1 x.2) (s.quern q).lanes)
    ∧ (∀ (df : Fmt) (av : List Val) (bb cb : List Nat) (d : Desc) (k : Nat),
      Starts s q .v .vsel i → vbReserved i = .ok () → (vbOp i).rm ≤ 5 → isSlot (vbOp i).d = true → slotFmtOf (s.quern q) (vbOp i).d = .ok df →
      df.wide = true → vMem (s.quern q) q (vbOp i).d n = .ok (d, k) →
      vCheck (s.quern q) { vbOp i with rm := 0 } (if (vbOp i).rm = 0 then [(vbOp i).b, (vbOp i).c] else [(vbOp i).a, (vbOp i).b, (vbOp i).c])
        (if (vbOp i).rm = 0 then [(vbOp i).a] else []) false false = .ok () →
      vCountIn (s.quern q) (vbOp i) df = .ok n →
      ((vbOp i).rm ≠ 0 → selTested (vBegun s q i) q (vbOp i) df (vbOp i).a n = .ok av) →
      selBits (vBegun s q i) q (vbOp i) df (vbOp i).b n = .ok bb → selBits (vBegun s q i) q (vbOp i) df (vbOp i).c n = .ok cb →
      ∃ t, exec (.vsel q i) s = .next (vEnded s t q i) ∧ (t.quern q).lanes = (s.quern q).lanes
        ∧ t.mem = Memory.setAll s.mem (d.putRaw (readByte s) ((s.quern q).slot d.stslot) ((List.range n).map (fun j =>
            (k + j, if (vbOp i).rm = 0 ∨ selTest (vbOp i).rm (av.getD j valZero) = true then bb.getD j 0 else cb.getD j 0)))).bytes)
    ∧ (∀ (comp : Fmt) (vals : List Val),
      Starts s q .v .vcvt i → (vaOp i).subop = 0 → VReads (vBegun s q i) q (vaOp i) [(vaOp i).a] [(vaOp i).b] true true n →
      cvtComp ((vBegun s q i).quern q) (vaOp i) = .ok comp → cvtSource (vBegun s q i) q (vaOp i) comp n = .ok vals →
      ∃ t, vDestConv (vBegun s q i) q (vaOp i) 4 comp true (vMode (s.quern q) (vaOp i)) (vaOp i).opbit vals
          (fun e => if vMode (s.quern q) (vaOp i) = .sr then vDraw (vBegun s q i) q (vaOp i) e else 0) n = .ok t
        ∧ exec (.vcvt q i) s = .next (vEnded s (t.updQuern q (fun v => advCursors v [(vaOp i).d, (vaOp i).a] n)) q i))

/-- VSETVL and VMODE (R114, R125, R204). VSETVL holds its length in bits [15:0] and sets it within the organisation's maximum. VMODE holds ORG in
bit 0 and DEFRM in bits [3:1]; it sets the default rounding mode; a change of organisation clears every register and sets the length to
the organisation's maximum, and the same organisation keeps both. Reserved bits that are not zero stop the program with 0x20, and a
reserved DEFRM with 0x22. No byte changes. -/
def Obligations.VectorLengthAndMode : Prop :=
  ∀ (s : State) (q : Fin 128) (i : Issue),
    (Starts s q .v .vsetvl i →
      (i.ops >>> 16 = 0 → fld i 0 16 ≤ vlMax (s.quern q).org →
        ∃ t, exec (.vsetvl q i) s = .next (vEnded s t q i) ∧ (t.quern q).vlen = fld i 0 16 ∧ (t.quern q).org = (s.quern q).org
          ∧ (t.quern q).lanes = (s.quern q).lanes ∧ t.mem = s.mem)
      ∧ (i.ops >>> 16 ≠ 0 → exec (.vsetvl q i) s = .next (failInstr (begun s q i) q .v ((s.quern q).stream .v).pos 0x20)))
    ∧ (Starts s q .v .vmode i →
      (i.ops >>> 4 = 0 → fld i 1 3 ≤ 4 →
        ∃ t, exec (.vmode q i) s = .next (vEnded s t q i) ∧ (t.quern q).org = decide (fld i 0 1 = 1)
          ∧ (t.quern q).defrm = BitVec.ofNat 3 (fld i 1 3) ∧ t.mem = s.mem
          ∧ ((s.quern q).org = decide (fld i 0 1 = 1) → (t.quern q).lanes = (s.quern q).lanes ∧ (t.quern q).vlen = (s.quern q).vlen)
          ∧ ((s.quern q).org ≠ decide (fld i 0 1 = 1) → (t.quern q).lanes = [] ∧ (t.quern q).vlen = vlMax (decide (fld i 0 1 = 1))))
      ∧ (i.ops >>> 4 ≠ 0 → exec (.vmode q i) s = .next (failInstr (begun s q i) q .v ((s.quern q).stream .v).pos 0x20))
      ∧ (i.ops >>> 4 = 0 → 5 ≤ fld i 1 3 → exec (.vmode q i) s = .next (failInstr (begun s q i) q .v ((s.quern q).stream .v).pos 0x22)))

/-- VROWSTAT, VRNG, VSRND and VNORM2 (R133, R140, R141, R147): with operands that pass their checks each completes, and it writes the named
results through its destination, two words a row, the drawn words, the rounded elements, or the record, and no other byte. -/
def Obligations.VectorRowsDrawsAndNorms : Prop :=
  ∀ (s : State) (q : Fin 128) (i : Issue) (n : Nat),
    (∀ (d dd : Desc) (k kd : Nat),
      Starts s q .v .vrowstat i → vaReserved (vaOp i) true false = .ok () → isSlot (vaOp i).a = true →
      vCheck (s.quern q) (vaOp i) [(vaOp i).a] [(vaOp i).b] false true = .ok () → (vaOp i).subop ≤ 1 →
      isSlot (vaOp i).d = true → vCount (s.quern q) (vaOp i) = .ok n → vMem (s.quern q) q (vaOp i).a n = .ok (d, k) → d.fmt ≠ .fp64 →
      d.fmt.wide = true → n % d.cols = 0 → vMem (s.quern q) q (vaOp i).d (2 * (n / d.cols)) = .ok (dd, kd) → dd.fmt = .fp32 →
      ∃ t, exec (.vrowstat q i) s = .next (vEnded s t q i)
        ∧ t.mem = Memory.setAll s.mem (dd.putConv (readByte s) .rne false ((s.quern q).slot dd.stslot)
            (((List.range (2 * (n / d.cols))).zip (((List.range (n / d.cols)).map (fun r =>
                let row := (List.range d.cols).map (fun c => d.get (readByte s) (k + r * d.cols + c))
                if (vaOp i).subop = 0 then maxSum row else meanRstd (dec32 (vaOp i).scalar) row)).flatMap (fun x => [x.1.1, x.2.1]))).map
              (fun x => (kd + x.1, x.2, 0)))).bytes)
    ∧ (∀ (d : Desc) (k : Nat),
      Starts s q .v .vrng i → (vaOp i).opbit = false → vCheck (s.quern q) (vaOp i) [] [(vaOp i).a, (vaOp i).b] false true = .ok () →
      (vaOp i).subop ≤ 2 → isSlot (vaOp i).d = true → vCount (s.quern q) (vaOp i) = .ok n →
      vMem (s.quern q) q (vaOp i).d n = .ok (d, k) →
      (if (vaOp i).subop = 0 then d.fmt = .raw64 else if (vaOp i).subop = 1 then d.fmt = .fp32 else d.fmt = .fp32 ∨ d.fmt = .bf16 ∨ d.fmt = .fp16) →
      ∃ t, exec (.vrng q i) s = .next (vEnded s t q i)
        ∧ t.mem = Memory.setAll s.mem (d.putRaw (readByte s) ((s.quern q).slot d.stslot) ((List.range n).map (fun j => (k + j,
            rngBits (vaOp i).subop d.fmt (vaOp i).scalar (draw64 s.sec.seed (sidOf (vaOp i).rstream (vaOp i).mbmix (s.quern q).ordinal)
              (s.quern q).drawStep (vaOp i).draw (d.elembase + (k + j))))))).bytes)
    ∧ (∀ (comp : Fmt) (vals : List Val) (d : Desc) (k : Nat),
      Starts s q .v .vsrnd i → (vaOp i).opbit = false → (vaOp i).subop = 0 →
      vCheck (s.quern q) (vaOp i) [(vaOp i).a] [(vaOp i).b] true true = .ok () → compFmt (s.quern q) (vaOp i) [(vaOp i).a] = .ok comp →
      comp ≠ .fp64 → 1 ≤ (vaOp i).scalar.toNat % 32 → (vaOp i).scalar.toNat % 32 ≤ tbitsMax comp → vCount (s.quern q) (vaOp i) = .ok n →
      vSource s q (vaOp i) comp (vaOp i).a n = .ok vals → vMem (s.quern q) q (vaOp i).d n = .ok (d, k) → d.fmt.wide = true →
      ∃ t, exec (.vsrnd q i) s = .next (vEnded s t q i)
        ∧ t.mem = Memory.setAll s.mem (packBits (readByte s) d.fmt.width (((List.range n).zip vals).map (fun x =>
            (d.bitOf (k + x.1),
              let rm := vMode (s.quern q) (vaOp i)
              let r := if rm = .sr then vDraw s q (vaOp i) (d.elembase + k + x.1) else 0
              (convEl d.fmt true rm false r
                (comp.fpw.dec (convGrid comp.fpw ((vaOp i).scalar.toNat % 32) rm r x.2).bits) false).bits)))))
    ∧ (∀ dd, Starts s q .v .vnorm2 i → (vaOp i).subop = 0 → isSlot (vaOp i).d = true → needDesc (s.quern q) (vaOp i).d = .ok dd →
      dd.fmt ≠ .raw64 → rangesIn [((dd.base : Int), 576)] (winBase q) (winBase q + winEnd) = true →
      ((vaOp i).opbit = true → vCheck (s.quern q) (vaOp i) [] [(vaOp i).a, (vaOp i).b] false true = .ok () →
        ∃ t, exec (.vnorm2 q i) s = .next (vEnded s t q i)
          ∧ t.mem = Memory.setAll s.mem (cellsAt (dd.base + 512) (leBytes 8 (enc64 (normFold (readByte s) dd.base).1))))
      ∧ (∀ (comp : Fmt) (vals : List Val), (vaOp i).opbit = false →
        vCheck (s.quern q) (vaOp i) [(vaOp i).a] [(vaOp i).b] false true = .ok () → compFmt (s.quern q) (vaOp i) [(vaOp i).a] = .ok comp →
        comp ≠ .fp64 → vCount (s.quern q) (vaOp i) = .ok n → vSource s q (vaOp i) comp (vaOp i).a n = .ok vals →
        ∃ t, exec (.vnorm2 q i) s = .next (vEnded s t q i)
          ∧ t.mem = Memory.setAll s.mem (normWrites (readByte s) dd.base (normFirst (s.quern q) (vaOp i).a) vals).1
          ∧ (t.quern q).dslots = (advCursors (s.quern q) [(vaOp i).a] n).dslots))

/-- VUPD (R149 to R152, R203). A control block that is not marked FINAL stops the program with code 0x1F. For a step marked NONFINITE nothing
is written; otherwise the words of w′ of R151, and of m′ and v′ where the rule computes them, are written through the three destination
slots; the cursors of all seven slots move either way. -/
def Obligations.WeightUpdate : Prop :=
  ∀ (s : State) (q : Fin 128) (i : Issue) (n : Nat) (ops : List (Desc × Nat)) (cb : Desc),
    let o := vaOp i
    let b := vBegun s q i
    let named := [o.a, o.a + 1, o.a + 2, o.b, o.d, o.d + 1, o.d + 2]
    let u := ucbAt (readByte s) cb.base
    Starts s q .v .vupd i → vaReserved o true false = .ok () → vCheck (s.quern q) o [o.a, o.b] [] false true = .ok () → o.subop ≤ 2 →
    isSlot o.a = true → isSlot o.b = true → isSlot o.d = true → o.a + 2 ≤ 63 → o.d + 2 ≤ 63 → o.b + 1 ≤ 63 →
    vCount (s.quern q) o = .ok n → named.mapM (fun x => vMem (s.quern q) q x n) = .ok ops → (∀ x ∈ ops, x.1.fmt = .fp32) →
    needDesc (s.quern q) (o.b + 1) = .ok cb → cb.fmt ≠ .raw64 →
    rangesIn [((cb.base : Int), 64)] (winBase q) (winBase q + winEnd) = true →
    (u.final = false → exec (.vupd q i) s = .next (failInstr (begun s q i) q .v ((s.quern q).stream .v).pos 0x1F))
    ∧ (u.final = true → u.nonfinite = true →
      exec (.vupd q i) s = .next (vEnded s (b.updQuern q (fun v => advCursors v named n)) q i))
    ∧ (u.final = true → u.nonfinite = false →
      ∃ s1 s2 s3 fl ms vs,
        updPut q o.d n o.roll ((List.range n).map (fun j => enc32 (updOf s q ops n o.subop u j).1.1)) (b.updQuern q (fun v => v.raiseFl fl))
          = .ok s1
        ∧ updPut q (o.d + 1) n o.roll ms s1 = .ok s2 ∧ updPut q (o.d + 2) n o.roll vs s2 = .ok s3
        ∧ ms.length = n ∧ vs.length = n
        ∧ (∀ j < n, ∀ x, (updOf s q ops n o.subop u j).2.1 = some x → ms[j]? = some (enc32 x))
        ∧ (∀ j < n, ∀ x, (updOf s q ops n o.subop u j).2.2 = some x → vs[j]? = some (enc32 x))
        ∧ exec (.vupd q i) s = .next (vEnded s (s3.updQuern q (fun v => advCursors v named n)) q i))

/-! ### Moves, prefetches and fences -/

/-- XMOVE, XFETCH and MOVE_COMPLETE (R177, R178, R205, R206). A move whose ends pass their checks takes the lowest free tag and is in flight;
nothing is copied yet. The completion of a plain move between tensors whose every byte can be read and written stores exactly the copied
bytes, frees the tag, and gives the signal. -/
def Obligations.MovesIssueAndComplete : Prop :=
  ∀ (s : State) (q : Fin 128),
    (∀ (i : Issue) (ends : MoveEnd × MoveEnd), Starts s q .x .xmove i → (s.quern q).moves.length < 96 →
      moveEnds q i (s.quern q) = .ok ends →
      ∃ t m, exec (.xmove q i) s = .next (advance t q .x) ∧ t.mem = s.mem ∧ (t.quern q).moves = (s.quern q).moves ++ [m]
        ∧ m.tag = freeTag (s.quern q) ∧ m.src = ends.1 ∧ m.dst = ends.2 ∧ m.last = decide (fld i 16 1 = 1)
        ∧ m.wgbend = (if fld i 17 1 = 1 then some (fld i 18 2) else none) ∧ m.sen = i.sen ∧ m.stok = i.stok.toNat)
    ∧ (∀ (i : Issue) (ends : MoveEnd × MoveEnd), Starts s q .x .xfetch i → (s.quern q).moves.length < 96 →
      fetchEnds q i (s.quern q) = .ok ends →
      ∃ t m, exec (.xfetch q i) s = .next (advance t q .x) ∧ t.mem = s.mem ∧ (t.quern q).moves = (s.quern q).moves ++ [m]
        ∧ m.tag = freeTag (s.quern q) ∧ m.src = ends.1 ∧ m.dst = ends.2 ∧ m.last = decide (fld i 16 1 = 1) ∧ m.wgbend = none)
    ∧ (∀ (tag : Nat) (m : Move) (a b : DSlot) (da db : Desc),
      s.board.haltedByClock = false → (s.quern q).moves.find? (fun x => x.tag == tag) = some m → m.src = .tensor a → m.dst = .tensor b → descOf a = some da →
      descOf b = some db → da.inSpace = true → db.inSpace = true → m.last = false → m.wgbend = none → readable s da = (da.count, none) →
      (∀ w ∈ copyTensor (readByte s) da db da.count, writeErr s false w.1 ≠ some .addr
        ∧ uncovered s ((copyTensor (readByte s) da db da.count).map (·.1)) w.1 = false) →
      ∃ u, u.mem = s.mem ∧ u.querns = s.querns ∧ exec (.moveComplete q tag) s = .next (releaseDue (fireFences q (signalIf
        (endMove (forgetSpecial (storeData u (copyTensor (readByte s) da db da.count)) (copyTensor (readByte s) da db da.count)) q m.tag)
        q .x m.idx m.sen m.stok))))

/-- XPREF, PREFETCH_COMPLETE, XDROP and XFENCE (R167, R205, R206, R228, R232). XPREF puts a free prefetcher of its context to work on the lines of
its range; its completion frees the prefetcher and signals. XDROP makes the pinned Store lines of its range normal and drops the
discardable ones, and every other line stays. XFENCE waits for the moves and prefetches before it. None of them changes a byte, but for
XDROP of a dirty discardable line. -/
def Obligations.PrefetchesDropsAndFences : Prop :=
  ∀ (s : State) (q : Fin 128) (i : Issue),
    (∀ d, Starts s q .x .xpref i → (prefetchers s (s.quern q).ctxOf).length < 8 → i.ops >>> 6 = 0 → binRange i s (s.quern q) = .ok d →
      ∃ t p, exec (.xpref q i) s = .next (advance t q .x) ∧ t.mem = s.mem ∧ t.mm.lines = s.mm.lines ∧ t.mm.prefetch = s.mm.prefetch ++ [p]
        ∧ p.ctx = (s.quern q).ctxOf ∧ p.quern = q.val ∧ p.lines = (d.addrs.map (· / 512)).eraseDups ∧ p.hint = BitVec.ofNat 2 d.hint
        ∧ p.sen = i.sen ∧ p.stok = i.stok.toNat ∧ p.slot < 8 ∧ ∀ x ∈ prefetchers s (s.quern q).ctxOf, x.slot ≠ p.slot)
    ∧ (∀ (c : Fin 32) (slot : Fin 8) (p : Prefetch), s.board.haltedByClock = false →
      (prefetchers s c).find? (fun p => p.slot == slot.val) = some p →
      ∃ t, exec (.prefetchComplete c slot) s = .next (fireFences p.quern (signalIf t p.quern .x p.idx p.sen p.stok)) ∧ t.mem = s.mem
        ∧ t.querns = s.querns ∧ t.mm.prefetch = s.mm.prefetch.filter (fun x => !(x.ctx == p.ctx && x.slot == p.slot)))
    ∧ (∀ d, Starts s q .x .xdrop i → fld i 6 10 = 0 → fld i 17 26 = 0 → binRange i s (s.quern q) = .ok d →
      ∃ t, exec (.xdrop q i) s = .next (ended s t q .x i) ∧ t.mm.imp = s.mm.imp
        ∧ (∀ l, Tbl.find? t.mm.lines l = (Tbl.find? s.mm.lines l).bind (fun v =>
            if (linesOf s d.addrs).contains l = true ∧ v.kind = .pinned then some { v with kind := .normal }
            else if (linesOf s d.addrs).contains l = true ∧ v.kind = .discardable then none else some v))
        ∧ ((∀ l ∈ linesOf s d.addrs, ∀ v, Tbl.find? s.mm.lines l = some v → v.kind = .discardable → v.dirty = false) → t.mem = s.mem))
    ∧ (Starts s q .x .xfence i → i.ops = 0 →
      ∃ t, exec (.xfence q i) s = .next (fireFences q (advance t q .x)) ∧ t.mem = s.mem ∧ t.mm = s.mm ∧ (t.quern q).moves = (s.quern q).moves
        ∧ (t.quern q).fences = (s.quern q).fences ++ [{ ord := (s.quern q).xord, idx := ((s.quern q).stream .x).pos, sen := i.sen, stok := i.stok.toNat }])

/-! ### Control of Querns -/

/-- CWAIT, CSIG, CLOOP and CEND at a Quern (R164, R166, R168, R207, R216). CWAIT takes its header's wait first and then COUNT of its counter in
one action, or waits with the header's wait taken; CSIG adds COUNT. CLOOP opens a loop of TRIP iterations over the slots of its mask. CEND
of the last iteration closes the loop; before that it advances those slots and the stream goes on at the loop's first instruction. None
of them changes a byte. -/
def Obligations.QuernCountersAndLoops : Prop :=
  (∀ (s : State) (q : Fin 128) (st : StreamId) (i : Issue), ctrChecks i false = .ok () →
      (Starts s q st .cwait i → ((s.quern q).stream st).hdrTaken = false →
        (((s.quern q).takeWait i).token (fld i 0 5) < fld i 5 8 →
          ∃ t, exec (.cwait (.quern q st) i) s = .next (markWaiting t q st (fld i 0 5) (fld i 5 8)) ∧ t.mem = s.mem
            ∧ (t.quern q).tokens = ((s.quern q).takeWait i).tokens ∧ ((t.quern q).stream st).hdrTaken = true)
        ∧ (fld i 5 8 ≤ ((s.quern q).takeWait i).token (fld i 0 5) →
          ∃ t, exec (.cwait (.quern q st) i) s = .next (ended s t q st i) ∧ t.mem = s.mem
            ∧ (t.quern q).tokens = ((s.quern q).takeWait i).tokens.set (fld i 0 5) (((s.quern q).takeWait i).token (fld i 0 5) - fld i 5 8)))
      ∧ (Starts s q st .csig i → ((s.quern q).takeWait i).token (fld i 0 5) + fld i 5 8 ≤ 0xFFFF →
        ∃ t, exec (.csig (.quern q st) i) s = .next (ended s t q st i) ∧ t.mem = s.mem
          ∧ (t.quern q).tokens = ((s.quern q).takeWait i).tokens.set (fld i 0 5) (((s.quern q).takeWait i).token (fld i 0 5) + fld i 5 8)))
  ∧ (∀ (s : State) (q : Fin 128) (st : StreamId) (i : Issue),
      (Starts s q st .cloop i → tripChecks i = .ok () →
        ∃ t l, exec (.cloop (.quern q st) i) s = .next (ended s t q st i) ∧ t.mem = s.mem
          ∧ ((t.quern q).stream st).loops = l :: ((s.quern q).stream st).loops ∧ l.start = ((s.quern q).stream st).pos + 1
          ∧ l.left = fld i 0 16 - 1 ∧ l.mask = i.ext.getD 0)
      ∧ (∀ l rest, Starts s q st .cend i → i.ops = 0 → ((s.quern q).stream st).loops = l :: rest →
        (l.left = 0 → ∃ t, exec (.cend (.quern q st) i) s = .next (ended s t q st i) ∧ t.mem = s.mem
          ∧ ((t.quern q).stream st).loops = rest ∧ ((t.quern q).stream st).pos = ((s.quern q).stream st).pos)
        ∧ (∀ v1, l.left ≠ 0 → advanceSlots ((begun s q i).quern q) (maskSlots l.mask) = .ok v1 →
          ∃ t, exec (.cend (.quern q st) i) s = .next (ended s t q st i) ∧ t.mem = s.mem ∧ (t.quern q).dslots = v1.dslots
            ∧ ((t.quern q).stream st).loops = { l with left := l.left - 1 } :: rest ∧ ((t.quern q).stream st).pos = l.start - 1)))

/-- CPHASE, CBAR, BARRIER_RELEASE and CHALT (R45, R169 to R171, R207). CPHASE puts a phase of its Stone in force; a marker that the power
controller has not sampled before the next is counted. CBAR holds the C stream at its BARID
until every member of the group waits at one; the release then frees every member, or stops every member with code 0x51 when the BARIDs
differ. CHALT ends the C stream. -/
def Obligations.PhasesBarriersAndHalts : Prop :=
  ∀ (s : State) (q : Fin 128) (i : Issue),
    (Starts s q .c .cphase i → i.ops >>> 8 = 0 →
      ∃ t, exec (.cphase q i) s = .next (ended s t q .c i) ∧ t.mem = s.mem ∧ t.ctxs = s.ctxs ∧ (t.stone (q.val / 32)).phase = fld i 0 8
        ∧ (t.stone (q.val / 32)).markers = (s.stone (q.val / 32)).markers + (s.stone (q.val / 32)).marked.toNat)
    ∧ (Starts s q .c .cbar i → i.ops >>> 8 = 0 → (∀ sl, (s.quern q).run = some sl → (dispMembers s sl.load.ctx sl.load.disp).length ≠ 1) →
      ∃ t, exec (.cbar q i) s = .next (advance t q .c) ∧ t.mem = s.mem
        ∧ (t.quern q).barrier = some (BitVec.ofNat 8 (fld i 0 8), i.sen, i.stok.toNat))
    ∧ (∀ (c : Fin 32) (d : Nat), s.board.haltedByClock = false → allAtBarrier s c d = true →
      let ms := dispMembers s c d
      let ids := (ms.map (fun m => barId (s.quern m) c d)).eraseDups
      (ids.length = 1 → exec (.barrierRelease c d) s = .next (ms.foldl (fun s m =>
        match (s.quern m).barrier with
        | some (_, sen, tok) => signalIf (s.setQuern m { s.quern m with barrier := none }) m .c (((s.quern m).stream .c).pos - 1) sen tok
        | none => s) s))
      ∧ (ids.length ≠ 1 → exec (.barrierRelease c d) s = .next (ms.foldl (fun s m =>
          s.updQuern m (fun v => { v with barrier := none, err := some ⟨0x51, .c, (v.stream .c).pos - 1⟩ })) s)))
    ∧ (Starts s q .c .chalt i → i.ops = 0 → exec (.chalt q i) s = .next (ended s (begun s q i) q .c i))

/-- IMAGE_LOAD and PROGRAM_START (R40, R159 to R161, R166, R174, R175, R192). The first waiting DISPATCH takes the free slot with its image, or its
notice carries the image's code, which for bytes that the data plane wrote is 0x46 (the model's choice, assumption 133). A loaded program
starts on a Quern that runs none: counters, flags and streams are fresh, the descriptor slots hold the image's descriptors with the
dispatch bases added, and the dispatch block stands where the image says. -/
def Obligations.ImagesLoadAndStart : Prop :=
  ∀ (s : State) (q : Fin 128) (l : Load) (rest : List Load) (sl : Slot), s.board.haltedByClock = false → (s.quern q).fenced = false →
    ((s.quern q).waiting = l :: rest → (s.quern q).next = none →
      (∀ ws, fetchImage s l.image = .ok ws →
        (∀ info, fromData s l.image (8 * ws.length) = false → parseImage ws = .ok info →
          exec (.imageLoad q) s = .next (s.setQuern q { s.quern q with waiting := rest, next := some { load := l, info := info } }))
        ∧ (∀ code, fromData s l.image (8 * ws.length) = false → parseImage ws = .error code →
          exec (.imageLoad q) s = .next (failLoad (s.setQuern q { s.quern q with waiting := rest }) q code l))
        ∧ (fromData s l.image (8 * ws.length) = true →
          exec (.imageLoad q) s = .next (failLoad (s.setQuern q { s.quern q with waiting := rest }) q 0x46 l)))
      ∧ (fetchImage s l.image = .error .addr →
        exec (.imageLoad q) s = .next (failLoad (s.setQuern q { s.quern q with waiting := rest }) q 0x30 l)))
    ∧ ((s.quern q).run = none → (s.quern q).next = some sl →
      ∃ t, exec (.programStart q) s = .next t ∧ (t.quern q).run = some sl ∧ (t.quern q).next = none ∧ (t.quern q).err = none
        ∧ (t.quern q).tokens = [] ∧ (t.quern q).flags = 0 ∧ (t.quern q).streams = freshStreams sl.info ∧ (t.quern q).moves = []
        ∧ (t.quern q).dslots = (List.range sl.info.descs.length).zip (sl.info.descs.map (startSlot sl.load.dblk))
        ∧ (t.quern q).status = (s.quern q).status ∧ (t.quern q).lanes = (s.quern q).lanes
        ∧ (sl.load.sts = none → t.mem = Memory.setAll s.mem (cellsAt (winBase q + sl.info.dblkOff) (wordBytes sl.load.dblk))))

/-- PROGRAM_COMPLETE, TOKEN_DEADLOCK and MERGED_COMPLETION (R71, R171, R172, R180, R184, R185). A program with nothing left to do sends its notice and
leaves the Quern. Members that can none of them go on stop with code 0x52. When every member's notice is in, the DISPATCH is closed and
its signal given; an error then stops the context. -/
def Obligations.ProgramsComplete : Prop :=
  ∀ (s : State), s.board.haltedByClock = false →
    (∀ (q : Fin 128) (sl : Slot), (s.quern q).run = some sl → programDone s q = true → (s.quern q).fenced = false →
      exec (.programComplete q) s = .next (releaseDue (addNotice ((orphanPrefetches s q).setQuern q (s.quern q).afterProgram) sl.load.ctx
        sl.load.disp (noticeOf q (s.quern q) sl.load))))
    ∧ (∀ (c : Fin 32) (d : Nat), openMembers s c d ≠ [] → (∀ m ∈ openMembers s c d, blockedIdle s m c d = true) → allAtBarrier s c d = false →
      ∃ t, exec (.tokenDeadlock c d) s = .next t ∧ t.mem = s.mem
        ∧ ∀ m ∈ openMembers s c d, ∃ e, (t.quern m).err = some e ∧ e.code = 0x52 ∧ (t.quern m).barrier = none)
    ∧ (∀ (c : Fin 32) (d : Nat) (x : Disp), (s.ctx c).disps.find? (fun e => e.id = d) = some x → mergeable (s.ctx c) x = true →
      ∃ t, (t.ctx c).disps = (s.ctx c).disps.filter (fun e => e.id ≠ d) ∧ (t.ctx c).merged = some (mergeNotices x)
        ∧ exec (.mergedCompletion c d) s = .next
            (if (mergeNotices x).status = 0 then lateSignal t c x.no x.idx x.sen x.stok
             else stopMerged (lateSignal t c x.no x.idx x.sen x.stok) c (mergeNotices x).status x.idx [(mergeNotices x).index, streamIdx (mergeNotices x).stream]))

/-- CWAIT, CSIG, CLOOP, CEND and CHALT of a stage program (R164, R168, R181, R207, R208). The counters are the context's sixteen; a loop has no
slots; CHALT ends the context's sequence. -/
def Obligations.StageControl : Prop :=
  ∀ (s : State) (c : Fin 32) (i : Issue),
    (∀ x : Ctx, x = (stageBegun s c i).ctx c → StageStarts s c .cwait i false → ctrChecks i true = .ok () → (s.ctx c).seqr.hdrTaken = false →
      fld i 5 8 ≤ x.token (fld i 0 5) →
      ∃ t, exec (.cwait (.stage c) i) s = .next (stageEnded s t c i .now)
        ∧ (t.ctx c).tokens = x.tokens.set (fld i 0 5) (x.token (fld i 0 5) - fld i 5 8))
    ∧ (∀ x : Ctx, x = (stageBegun s c i).ctx c → StageStarts s c .csig i false → ctrChecks i true = .ok () →
      x.token (fld i 0 5) + fld i 5 8 ≤ 0xFFFF →
      exec (.csig (.stage c) i) s = .next (stageEnded s
        ((stageBegun s c i).setCtx c (x.setToken (fld i 0 5) (x.token (fld i 0 5) + fld i 5 8))) c i .now))
    ∧ (StageStarts s c .cloop i false → tripChecks i = .ok () →
      ∃ t, exec (.cloop (.stage c) i) s = .next (stageEnded s t c i .now)
        ∧ (t.ctx c).seqr.loops = { start := (s.ctx c).seqr.pos + 1, left := fld i 0 16 - 1, mask := 0, saved := [] } :: (s.ctx c).seqr.loops)
    ∧ (∀ l rest, StageStarts s c .cend i false → i.ops = 0 → (s.ctx c).seqr.loops = l :: rest →
      ∃ t, exec (.cend (.stage c) i) s = .next (stageEnded s t c i .now)
        ∧ (l.left = 0 → (t.ctx c).seqr.loops = rest ∧ (t.ctx c).seqr.pos = (s.ctx c).seqr.pos)
        ∧ (l.left ≠ 0 → (t.ctx c).seqr.loops = { l with left := l.left - 1 } :: rest ∧ (t.ctx c).seqr.pos = l.start - 1))
    ∧ (StageStarts s c .chalt i true → i.ops = 0 →
      ∃ t, exec (.stageProgramChalt c i) s = .next (stageEnded s t c i .now) ∧ (t.ctx c).state = .ended ∧ (t.ctx c).seqr.ended = true
        ∧ t.hoppers = s.hoppers ∧ t.pool = s.pool)

/-! ### Stage programs -/

/-- HPOP, HPUSH and HRCPT (R209, R211, R252 to R258, R265). HPOP takes the READY entry that the Hopper's order names, with its output area, into
an entry register. HPUSH of a TAKEN entry whose output has no number gives it the Flume's next one, makes the entry DONE and lets the
output enter the transmit queue, a SINK's being receipted at once; it signals once the push needs no acknowledgement of the twin any more.
HRCPT signals when the receipt has returned. -/
def Obligations.EntriesPopAndPush : Prop :=
  ∀ (s : State) (c : Fin 32) (i : Issue),
    (∀ id e, StageStarts s c .hpop i true → i.ops >>> 4 = 0 → hregUnread (s.ctx c) (fld i 0 3) = false →
      popCandidate s (2 * c + fld i 3 1) = some (id, e) → areaNeed s (2 * c + fld i 3 1) e ≤ (s.ctx c).free.length →
      ∃ t, exec (.hpop c i) s = .next (settle (stageEnded s t c i .now))
        ∧ t.entry? id = some { e with state := .taken, outPages := e.outPages ++ (s.ctx c).free.take (areaNeed s (2 * c + fld i 3 1) e) }
        ∧ (t.ctx c).hregs.getD (fld i 0 3) none = some { entry := id, read := false }
        ∧ t.hopper (2 * c + fld i 3 1) = (if (s.hopper (2 * c + fld i 3 1)).ordered then nextOrder (s.hopper (2 * c + fld i 3 1))
            else s.hopper (2 * c + fld i 3 1)))
    ∧ (∀ h e, StageStarts s c .hpush i false → i.ops >>> 13 = 0 → hregEntry s c (fld i 0 3) = some h → s.entry? h = some e →
      e.state = .taken → e.pushed = false → pushOk s c (fld i 3 10) = true → pushRoom s (fld i 3 10) = true →
      ∃ t u v, exec (.hpush c i) s = .next (settle
          (if (heldTx t (fld i 3 10)).any (fun x => x.kind == .mb h) = true then
            stageEnded s (hold t (.signal c ((s.ctx c).issued + 1) (s.ctx c).seqr.pos i.sen i.stok.toNat)) c i .never
          else stageEnded s t c i .now))
        ∧ (u.flume (fld i 3 10)).seq = (s.flume (fld i 3 10)).seq + 1
        ∧ u.entry? h = some { e with
            state := .done, pushed := true, hpushed := true, outFlume := fld i 3 10
            outSeq := (s.flume (fld i 3 10)).seq + 1, rcpt := e.rcpt || decide ((s.flume (fld i 3 10)).kind = 3) }
        ∧ v = (if (s.flume (fld i 3 10)).kind = 3 then u
            else hold (journalFor u (e.hopper / 2) 3 [e.flume, e.seq, fld i 3 10, (s.flume (fld i 3 10)).seq + 1])
              (.txEnter (fld i 3 10) { kind := .mb h, seq := (s.flume (fld i 3 10)).seq + 1 }))
        ∧ t = recopyLocal h v)
    ∧ (∀ h e, StageStarts s c .hrcpt i false → i.ops >>> 3 = 0 → hregEntry s c (fld i 0 3) = some h → s.entry? h = some e →
      e.hpushed = true →
      exec (.hrcpt c i) s = .next (settle (stageEnded s (stageBegun s c i) c i (.later (.rcpt h)))))

/-- DISPATCH (R183 to R186, R209, R211). A DISPATCH with an entry in its register, or without one, and a group that is not empty takes the
context's next number, is outstanding for every member of the group, and waits for what its word names. -/
def Obligations.DispatchIssues : Prop :=
  ∀ (s : State) (c : Fin 32) (i : Issue) (ms : List Nat), StageStarts s c .dispatch i true → i.ops >>> 16 = 0 → xfld i 48 16 = 0 →
    xfld i 0 6 = 0 → (s.ctx c).groups[fld i 4 3]? = some ms → ms ≠ [] →
    (fld i 3 1 = 1 → (fld i 9 1 = 1 ∨ fld i 10 1 = 1) → fld i 7 1 = 1) →
    (fld i 3 1 = 1 ∨ (hregEntry s c (fld i 0 3)).isSome = true) →
    ∃ t d w, exec (.dispatch c i) s = .next (settle (stageEnded s t c i .never))
      ∧ (t.ctx c).disps = (s.ctx c).disps ++ [d] ∧ d.id = (s.ctx c).nextDisp ∧ d.members = ms ∧ d.group = fld i 4 3 ∧ d.notices = []
      ∧ d.entry = (if fld i 3 1 = 1 then none else hregEntry s c (fld i 0 3))
      ∧ d.latch = (if fld i 9 1 = 1 then some (fld i 11 5) else none) ∧ (t.ctx c).nextDisp = (s.ctx c).nextDisp + 1
      ∧ (t.ctx c).deferred = (s.ctx c).deferred ++ [w] ∧ w.op = .dispatch ∧ w.disp = d.id ∧ w.entry = d.entry ∧ t.mem = s.mem

/-- EDOPEN, EDPEND, EDCOMMIT, EDRETIRE and STEPTOKEN (R209, R211, R266, R276 to R291). EDOPEN and EDPEND wait for their pages and their step; with
the pages an Edition of the opened number is FILLING. EDCOMMIT requests the commit of the PENDING Edition; EDRETIRE marks every COMMITTED
Edition but the newest RETIRING; STEPTOKEN puts the step's token behind what each peer's Flume already holds. -/
def Obligations.EditionsAndTokens : Prop :=
  ∀ (s : State) (c : Fin 32) (i : Issue),
    (StageStarts s c .edopen i false → i.ops >>> 13 = 0 → xfld i 32 32 = 0 → shardOk s c (fld i 0 13) = true →
      openOk s (fld i 0 13) (xfld i 0 32) = true → (∀ d ∈ (s.ctx c).deferred, d.op ≠ .edopen) → usedEds s c < (s.ctx c).alloc →
      exec (.edopen c i) s = .next (settle (stageEnded s
        (defer (stageBegun s c i) c .edopen i none 0 (BitVec.ofNat 32 (xfld i 0 32))) c i .never)))
    ∧ (∀ (d : Deferred) (l : List Nat) (s1 : State), d.op = .edopen → takePages s c (s.shard (fld d.issue 0 13)).span true = some (l, s1) →
      ∃ t e, wakeEdopen c d s = some (holdSignal (journalEd (journalPages l.length l t) e) c d) ∧ e = freeEd s1
        ∧ t.ed e = { state := .filling, shard := fld d.issue 0 13, owner := c, number := d.step.toNat, pages := l }
        ∧ (t.shard (fld d.issue 0 13)).opened = some d.step.toNat)
    ∧ (StageStarts s c .edpend i false → i.ops >>> 13 = 0 → shardOk s c (fld i 0 13) = true → (fillingOf s (fld i 0 13)).isSome = true →
      exec (.edpend c i) s = .next (settle (stageEnded s (defer (stageBegun s c i) c .edpend i none 0 0) c i .never)))
    ∧ (StageStarts s c .edcommit i false → i.ops >>> 13 = 0 → shardOk s c (fld i 0 13) = true →
      ((s.shard (fld i 0 13)).settled.isSome = true ∨ (edsOf s (fld i 0 13)).any (fun x => x.2.state == .pending) = true) →
      exec (.edcommit c i) s = .next (settle (stageEnded s (requestCommit (stageBegun s c i) (fld i 0 13)) c i
        (.later (.commit (fld i 0 13) (((s.shard (fld i 0 13)).opened).getD 0))))))
    ∧ (StageStarts s c .edretire i false → i.ops >>> 13 = 0 → shardOk s c (fld i 0 13) = true →
      exec (.edretire c i) s = .next (settle (stageEnded s ((retireList s (fld i 0 13)).foldl
        (fun s e => journalEd (s.setEd e { s.ed e with state := .retiring }) e) (stageBegun s c i)) c i
        (.later (.retire (retireList s (fld i 0 13)))))))
    ∧ (StageStarts s c .steptoken i false → i.ops >>> 32 = 0 →
      exec (.steptoken c i) s = .next (settle (stageEnded s ((s.ctx c).peers.foldl
        (fun s p => enterTurn s p.out { kind := .token (fld i 0 32), seq := 0 })
        ((stageBegun s c i).updCtx c (fun x => x.setStep (fld i 0 32) { x.step (fld i 0 32) with tokenIssued := true }))) c i
        (.later (.tokens (fld i 0 32))))))

/-- BSCALE and BRED (R209, R211, R297 to R299, R307, R308). With a tag of the context and a well-formed descriptor in readable Bin space, the
reduction is issued in the step that RSTEP holds, counted there, and RSTEP moves on behind the marked last BRED of a step. -/
def Obligations.ReductionsIssue : Prop :=
  ∀ (s : State) (c : Fin 32) (i : Issue),
    let a := xfld i 0 48
    let w := readWords s a 16
    xfld i 48 16 = 0 → (s.ctx c).tagBase ≤ fld i 0 12 → fld i 0 12 < (s.ctx c).tagBase + (s.ctx c).tagCount → a % 64 = 0 → a + 128 ≤ 2 ^ 39 →
    rangeErr (readErr s) a 128 = none →
    (StageStarts s c .bscale i false → i.ops >>> 16 = 0 → bdescOk s c w [wfld w 6 48 2] = true →
      exec (.bscale c i) s = .next (afterIssue c (stageEnded s (issueRed c i (.bscale (fld i 12 1 = 1) (fld i 13 3)) false w (stageBegun s c i))
        c i (.later (.red s.galley.nextBid)))))
    ∧ (StageStarts s c .bred i false → i.ops >>> 15 = 0 → fld i 13 2 ≠ 3 → bdescOk s c w [wfld w 6 48 2, fld i 13 2] = true →
      exec (.bred c i) s = .next (afterIssue c (stageEnded s
        (issueRed c i (.bred (BitVec.ofNat 2 (fld i 13 2))) (fld i 12 1 = 1) w (stageBegun s c i)) c i (.later (.red s.galley.nextBid)))))
    ∧ (∀ kind last, ((issueRed c i kind last w s).ctx c).rstep = (if last then (s.ctx c).rstep + 1 else (s.ctx c).rstep)
        ∧ (((issueRed c i kind last w s).ctx c).step (s.ctx c).rstep).issued = ((s.ctx c).step (s.ctx c).rstep).issued + 1
        ∧ (issueRed c i kind last w s).galley.nextBid = s.galley.nextBid + 1)

/-! ### Flumes -/

/-- A sealed frame on a Race (R340, R342, R343, R345): a wrong version, pairing or sender is dropped and counted; a tag that fails is counted and
nothing else of the frame acts; a replayed counter is counted; otherwise the counter is recorded, the frame that the numbering expects is
delivered, and one above a gap stays in the receive buffer. -/
def Obligations.FramesAreReceived : Prop :=
  ∀ (s : State) (r : Fin 32) (h : FrameHdr) (c : Instr), h.via = .race r → s.board.haltedByClock = false →
    ((h.ver ≠ 1 ∨ h.typeOk = false ∨ raceTakes s r h = false) →
      ∃ t, receive h c s = (t, false) ∧ (t.race r).dropped = satAdd (s.race r).dropped 1 65535 ∧ (t.race r).rx = (s.race r).rx ∧ t.mem = s.mem)
    ∧ (h.ver = 1 → h.typeOk = true → raceTakes s r h = true → h.tagOk = false →
      ∃ t, receive h c s = (t, false) ∧ (t.race r).authFail = satAdd (s.race r).authFail 1 65535 ∧ t.mem = s.mem)
    ∧ (h.ver = 1 → h.typeOk = true → raceTakes s r h = true → h.tagOk = true →
      (ctrFresh (s.sec.replay.getD (replayKey h) []) h.ctr.toNat = false →
        ∃ t, receive h c s = (t, false) ∧ (t.race r).replay = satAdd (s.race r).replay 1 65535 ∧ (t.race r).rx = (s.race r).rx)
      ∧ (ctrFresh (s.sec.replay.getD (replayKey h) []) h.ctr.toNat = true →
        (above48 h.seqNo (s.race r).rx.ack = 1 → (∀ f ∈ (s.race r).rx.above, f.1 ≠ (s.race r).rx.ack + 1) →
          ∃ t, receive h c s = (t, true) ∧ (t.race r).rx.ack = (s.race r).rx.ack + 1 ∧ t.mem = s.mem ∧ t.flumes = s.flumes
            ∧ (t.race r).slotsFreed = (s.race r).slotsFreed + (slotOf c).toNat
            ∧ t.sec.replay.getD (replayKey h) [] = ctrSeen (s.sec.replay.getD (replayKey h) []) h.ctr.toNat)
        ∧ (∀ d, above48 h.seqNo (s.race r).rx.ack = d → 2 ≤ d → d < 2 ^ 47 → (∀ f ∈ (s.race r).rx.above, f.1 ≠ (s.race r).rx.ack + d) →
          ∃ t, receive h c s = (t, false) ∧ (t.race r).rx.ack = (s.race r).rx.ack ∧ t.mem = s.mem
            ∧ (t.race r).rx.above = (s.race r).rx.above ++ [((s.race r).rx.ack + d, c)])))

/-- GRANT_ISSUE, GRANT and ACCEPTANCE (R254, R261 to R263, R274). An inbound Flume short of grants reserves an entry and pages and sends the next
grant number, or the delay is counted once. A grant counts once at the outbound end. A whole micro-batch is accepted into the entry that
its grant reserved. -/
def Obligations.GrantsAndAcceptance : Prop :=
  ∀ (s : State), s.board.haltedByClock = false →
    (∀ (f : Fin 1024), grantWanted (s.flume f) = true →
      (grantRoom s (s.flume f) = true → ∃ u e, exec (.grantIssue f) s = .next (hold u (.frame f (.grant f (s.flume f).far (s.flume f).nextGrant)))
        ∧ e = s.nextEntry ∧ u.nextEntry = e + 1
        ∧ (u.flume f).issued = (s.flume f).issued ++ [((s.flume f).nextGrant, e)] ∧ (u.flume f).nextGrant = (s.flume f).nextGrant + 1
        ∧ u.entry? e = some {
            hopper := (s.flume f).hopper, state := .granted, flume := f, grantNo := (s.flume f).nextGrant
            inPages := (s.ctx (s.flume f).owner).free.take (grantPages s (s.flume f)) }
        ∧ (u.ctx (s.flume f).owner).free = (s.ctx (s.flume f).owner).free.drop (grantPages s (s.flume f)))
      ∧ (grantRoom s (s.flume f) = false → (s.flume f).stalled = false →
        ∃ t, exec (.grantIssue f) s = .next t ∧ t.grantStalls = satAdd s.grantStalls 1 65535 ∧ (t.flume f).stalled = true ∧ t.pool = s.pool))
    ∧ (∀ (h : FrameHdr) (no : W32) (s1 : State), receive h (.grant h no) s = (s1, true) → dstOk s1 h false = true → onFabric s1 h = false →
      (s1.flume h.dst.toNat).inbound = false → (s1.flume h.dst.toNat).nextGrant ≤ no.toNat → (s1.flume h.dst.toNat).state ≠ .closed →
      ∃ u, exec (.grant h no) s = .next (released h s1 (afterFlume (pump h.dst.toNat u)))
        ∧ (u.flume h.dst.toNat).grants = (s1.flume h.dst.toNat).grants ++ [no.toNat] ∧ (u.flume h.dst.toNat).nextGrant = no.toNat + 1
        ∧ u.mem = s1.mem ∧ u.pool = s1.pool)
    ∧ (∀ (f : Fin 1024) (v : Rx), (s.flume f).inbound = true → localFlume s f = false → (s.flume f).rx = some v → v.whole = true →
      v.recallSeen = false → (s.entry? v.entry).isSome = true →
      ∃ u, exec (.acceptance f) s = .next (afterFlume (hold (hold u (.entryReady v.entry)) (.frame f (.receipt f (s.flume f).far v.seq v.step 0))))
        ∧ (∃ e, u.entry? v.entry = some e ∧ e.seq = v.seq ∧ e.step = v.step ∧ e.mbid = v.mbid ∧ e.edition = v.edition ∧ e.len = (s.flume f).len)
        ∧ (u.flume f).seq = v.seq ∧ (u.flume f).rx = none ∧ u.mem = s.mem)

/-- MBHDR, DATA, RECEIPT and RECALL (R258, R260 to R264, R393). The next header in order names the reserved entry of its grant; a header that
leaves a gap is logged with code 0x0502 and nothing else. The segment that is due is written into the entry's pages. A receipt removes its
item at the outbound end. A recall that comes back marks the entry unrecoverable. -/
def Obligations.MicroBatchesArrive : Prop :=
  ∀ (s : State) (h : FrameHdr) (s1 : State),
    let f := h.dst.toNat
    dstOk s1 h false = true → onFabric s h = false → onFabric s1 h = false →
    (∀ (seq : W48) (step no mbid ed len : W32), receive h (.mbhdr h seq step no mbid ed len) s = (s1, true) →
      let x := (acceptRx f s1).flume f
      (x.inbound = true → seq.toNat = x.seq + 1 → len.toNat = x.len → ∀ e, List.find? (fun g : Nat × Nat => g.1 == no.toNat) x.issued = some e →
        exec (.mbhdr h seq step no mbid ed len) s = .next (released h s1 (afterFlume ((acceptRx f s1).setFlume f { x with
          rx := some { seq := seq.toNat, grantNo := no.toNat, step := step, mbid := mbid, edition := ed, len := len.toNat, recallSeen := false, entry := e.2 } }))))
      ∧ (x.inbound = true → x.seq + 1 < seq.toNat →
        exec (.mbhdr h seq step no mbid ed len) s = .next (released h s1
          (afterFlume (logEvent (acceptRx f s1) evSequenceGap scFlume f [seq.toNat, x.seq])))))
    ∧ (∀ (seq : W48) (last : Bool) (seg : BitVec 18) (bytes : List W8) (v : Rx) (e : Entry),
      receive h (.data h seq last seg bytes) s = (s1, true) → (s1.flume f).rx = some v →
      v.seq = seq.toNat → v.nextSeg = seg.toNat → v.whole = false → bytes.length = segSize s1 h.via → s1.entry? v.entry = some e →
      v.recallSeen = false →
      ∃ u, exec (.data h seq last seg bytes) s = .next (released h s1 (afterFlume u))
        ∧ (u.flume f).rx = some { v with nextSeg := v.nextSeg + 1, whole := last && decide (v.len ≤ (v.nextSeg + 1) * segSize s1 h.via) }
        ∧ u.mem = (writeMem s1 ((List.range bytes.length).zip bytes |>.map (fun p => (inAddr e (v.nextSeg * bytes.length + p.1), p.2)))).1.mem)
    ∧ (∀ (seq : W48) (step : W32) (what : BitVec 2), receive h (.receipt h seq step what) s = (s1, true) → (s1.flume f).inbound = false →
      what ≠ 3 →
      ∃ u, exec (.receipt h seq step what) s = .next (released h s1 (afterFlume u)) ∧ u.mem = s1.mem
        ∧ (what = 0 → ∀ t ∈ (u.flume f).tx, ∀ e, t.kind = .mb e → t.seq ≠ seq.toNat)
        ∧ (what = 0 → ∀ e x, s1.entry? e = some x → x.pushed = true → x.outFlume = f → x.outSeq = seq.toNat →
            u.entry? e = some { x with rcpt := true })
        ∧ (what = 1 → ∀ t ∈ (u.flume f).tx, t.kind ≠ .token step.toNat) ∧ (what = 2 → ∀ t ∈ (u.flume f).tx, t.kind ≠ .notice step.toNat))
    ∧ (∀ (seq : W48) (step : W32) (e : Nat) (v : Entry), receive h (.recallMb h seq step) s = (s1, true) → (s1.flume f).inbound = true →
      entryOfSeq s1 f seq.toNat = some (e, v) → v.recalled = true →
      exec (.recallMb h seq step) s = .next (released h s1 (afterFlume (s1.setEntry e { v with recalled := false, unrecoverable := true }))))

/-- OPEN, OPENACK, CLOSE, TOKEN and NOTICE (R259, R261, R267, R270, R271, R289 to R291). An offer that agrees with an end in OPENING opens it with
fresh numbering and is answered; one that conflicts closes the end. An acknowledgement opens or closes the end that offered. A close at
the inbound end releases the unused grants and closes; at the outbound end it starts the close. At an inbound Flume a peer's token or
notice of a step above the recorded one is recorded; a duplicate token is not; either is receipted. -/
def Obligations.FlumesOpenCloseAndCarry : Prop :=
  (∀ (s : State) (h : FrameHdr) (s1 : State),
      let f := h.dst.toNat
      let x := s1.flume f
      onFabric s1 h = false →
      (∀ (dir : Bool) (len4k : W16), receive h (.openFlume h dir len4k) s = (s1, true) → dstOk s1 h true = true → x.state = .opening →
        (openConflict x dir h.flume.toNat h.member.toNat len4k.toNat = 0 →
          exec (.openFlume h dir len4k) s = .next (released h s1
            (afterFlume (hold (enterOpen f s1) (.frame f (.openack f x.far x.inbound (x.len / 4096) 0))))))
        ∧ (∀ k, openConflict x dir h.flume.toNat h.member.toNat len4k.toNat = k + 1 →
          exec (.openFlume h dir len4k) s = .next (released h s1 (afterFlume (refuseOpen f (k + 1)
            (sendOn s1 h.via (.openack f x.far x.inbound (x.len / 4096) (k + 1))))))))
      ∧ (∀ (dir : Bool) (len4k : W16) (result : BitVec 4), receive h (.openack h dir len4k result) s = (s1, true) → dstOk s1 h false = true →
        x.state = .opening →
        (result = 0 → exec (.openack h dir len4k result) s = .next (released h s1 (afterFlume (enterOpen f s1))))
        ∧ (result ≠ 0 → exec (.openack h dir len4k result) s = .next (released h s1 (afterFlume (refuseOpen f result.toNat s1)))))
      ∧ (∀ (forced : Bool) (last first : W32), receive h (.close h forced last first) s = (s1, true) → dstOk s1 h false = true →
        (x.inbound = true → exec (.close h forced last first) s = .next (released h s1 (afterFlume (enterClosed
          (((x.issued.filter (fun g => decide (first.toNat ≤ g.1))).foldl (fun s g => releaseEntry s g.2) s1).updFlume f
            (fun y => { y with issued := y.issued.filter (fun g => decide (g.1 < first.toNat)) })) f))))
        ∧ (x.inbound = false → exec (.close h forced last first) s = .next (released h s1 (afterFlume (startClose f forced s1))))))
  ∧ (∀ (s : State) (h : FrameHdr) (step : W32) (s1 : State) (j : Nat) (p : Peer),
      let f := h.dst.toNat
      let c := (s1.flume f).owner
      dstOk s1 h false = true → onFabric s1 h = false → (s1.flume f).inbound = true → peerOn s1 c f = some j → (s1.ctx c).peers[j]? = some p →
      (receive h (.token h step) s = (s1, true) →
        ((∀ m, p.lastToken = some m → m < step.toNat) →
          exec (.token h step) s = .next (released h s1 (afterFlume (hold (journalPeer (s1.updCtx c (fun x =>
            { x with peers := x.peers.set j { p with lastToken := some step.toNat } })) c j)
            (.frame f (.receipt f (s1.flume f).far 0 (BitVec.ofNat 32 step.toNat) 1))))))
        ∧ (∀ m, p.lastToken = some m → step.toNat ≤ m →
          exec (.token h step) s = .next (released h s1
            (afterFlume (hold s1 (.frame f (.receipt f (s1.flume f).far 0 (BitVec.ofNat 32 step.toNat) 1)))))))
      ∧ (receive h (.notice h step) s = (s1, true) → (∀ m, p.lastNotice = some m → m < step.toNat) →
        exec (.notice h step) s = .next (released h s1 (afterFlume (hold (journalPeer (s1.updCtx c (fun x =>
          { x with peers := x.peers.set j { p with lastNotice := some step.toNat } })) c j)
          (.frame f (.receipt f (s1.flume f).far 0 (BitVec.ofNat 32 step.toNat) 2)))))))

/-- FLUME_BREAK, PATH_FAIL and DRAIN_COMPLETE (R46, R47, R250, R264, R272, R349, R350). An OPEN Flume that no path reaches is BROKEN; a Flume whose path
has failed leaves it for the next that qualifies; a draining context without outstanding DISPATCHes comes to rest, or runs again when its
resumption waited for the drain. -/
def Obligations.PathsBreakAndDrainsEnd : Prop :=
  ∀ (s : State), s.board.haltedByClock = false →
    (∀ (f : Fin 1024), (s.flume f).state = .openF → (s.flume f).kind ≤ 1 → ((s.flume f).path = none ∨ pathGone s f = true) → pickPath s f = none →
      exec (.flumeBreak f) s = .next (setFlumeState ((abandonRx s f).updFlume f (fun y => { y with path := none, pathLost := false })) f .broken))
    ∧ (∀ (f : Fin 1024), pathGone s f = true →
      (∀ c, pickPath s f = some c → exec (.pathFail f) s = .next (afterFlume (pump f (wakePath f
        ((abandonRx s f).updFlume f (fun y => { y with path := none, pathLost := false }))))))
      ∧ (pickPath s f = none → (s.flume f).state = .openF → exec (.pathFail f) s = .next (afterFlume (setFlumeState
        ((abandonRx s f).updFlume f (fun y => { y with path := none, pathLost := false })) f .broken))))
    ∧ (∀ (c : Fin 32), (s.ctx c).state = .draining → (s.ctx c).disps = [] →
      exec (.drainComplete c) s = .next (settle (s.setCtx c { s.ctx c with
        state := if (s.ctx c).resumeAfterDrain then .running else .quiesced, resumeAfterDrain := false })))

/-! ### Reductions -/

/-- RED and REDACK (R310 to R313, R320). A unit that the round expects on its link is added once: its lines and header join the bucket's. A
frame that names the bucket's tag and step and conflicts with it ends the bucket and stops the context with code 0x65. A credit of the
round is counted once; an acknowledgement of a chunk that was sent frees it. -/
def Obligations.ReductionFrames : Prop :=
  ∀ (s : State) (h : FrameHdr) (id : RedId) (s1 : State) (b : Bucket),
    h.via ≠ .fabric → redCompleted s1 id = false → redBucket s1 id = some b → b.past (scaledBefore s1 id) id = false →
    (∀ (hdr : W64) (p : BitVec 12) (nb : BitVec 24) (lines : List W64) (err : LineError) (l : Nat),
      receive h (.red h id hdr p nb lines err) s = (s1, true) →
      (linksOf s1 (s1.galley.links.getD id.btag.toNat []) h).find? (fun l =>
        decide (8 * id.chunk.toNat + id.blk.toNat < b.nu) && (b.ins (8 * id.chunk.toNat + id.blk.toNat)).contains (l, id.hop.toNat)) = some l →
      (decide (b.given.getD l 0 > 0) || b.opened.any (fun c => c.1 == l)) = true →
      (b.conflict id p.toNat nb.toNat (b.gathers true l id.hop.toNat) = none →
        b.seen.contains (l, id.hop.toNat, 8 * id.chunk.toNat + id.blk.toNat) = false →
        (b.opened.contains (l, id.hop.toNat, id.chunk.toNat) = true ∨ b.given.getD l 0 > 0) →
        exec (.red h id hdr p nb lines err) s = .next (released h s1 (settle (acceptUnit b l id hdr lines err s1))))
      ∧ (∀ k, b.conflict id p.toNat nb.toNat (b.gathers true l id.hop.toNat) = some k →
        exec (.red h id hdr p nb lines err) s = .next (released h s1 (settle (redMismatch b k s1)))))
    ∧ (∀ (n : BitVec 5) (l : Nat), id.round = BitVec.ofNat 8 b.round → (id.phase == 0) = b.isScale → id.sched.toNat = b.sched →
      (receive h (.redack h id true n) s = (s1, true) →
        (linksOf s1 b.desc.links h).find? (fun l => !(b.creditSeen.contains (l, id.hop.toNat, id.chunk.toNat))) = some l →
        exec (.redack h id true n) s = .next (released h s1 (pumpRed b.bid (s1.setBucket { b with
          credits := b.credits.upd l 0 (· + n.toNat), creditSeen := b.creditSeen ++ [(l, id.hop.toNat, id.chunk.toNat)] }))))
      ∧ (receive h (.redack h id false n) s = (s1, true) →
        (linksOf s1 b.desc.links h).find? (fun l => b.unacked.contains (l, id.hop.toNat, id.chunk.toNat)) = some l →
        exec (.redack h id false n) s = .next (released h s1 (ackArrives b (l, id.hop.toNat, id.chunk.toNat) s1))))

/-- ROUND_COMPLETE, BUCKET_COMPLETE, GALLEY_STALL and FORME_DISABLE (R303 to R307, R314 to R317, R321, R390, R470). A data round without overflow or
repeat completes the bucket; one whose blocks overflow raises their exponents by OVB + 1 and runs again, at most twice before a scale
round; a completed bucket writes its results, is recorded as completed and frees its Formes. A stall is counted and logged with code
0x0503, its step, phase, HOP and link. A Forme with two lost lines that no reduction holds leaves service with a defect record and event
0x0206. -/
def Obligations.RoundsBucketsAndFormes : Prop :=
  (∀ (s : State) (c : Fin 32) (btag : BitVec 12) (b : Bucket), s.board.haltedByClock = false → runningRed s c btag.toNat = some b →
      (b.phase = .data → b.roundDone = true →
        ((∀ x ∈ b.hdrs, x.ovf = false ∧ x.rep = false) →
          exec (.roundComplete c btag) s = .next (settle (wakeReds c (s.setBucket { b with phase := .complete }))))
        ∧ (b.hdrs.any (·.ovf) = true → b.rescaled = false → b.regrinds < 2 →
          exec (.roundComplete c btag) s = .next (settle (wakeReds c (nextRound { b with
              e := (b.e.zip b.hdrs).map (fun x => if x.2.ovf then min 32767 (x.1 + x.2.ovb + 1) else x.1), regrinds := b.regrinds + 1,
              round := b.round + 1 } { s with galley := { s.galley with regrinds := satAdd s.galley.regrinds 1 65535 } })))))
      ∧ (b.phase = .complete → ∀ s1, writeMem s b.outBytes = (s1, none) → (∀ k < b.desc.nb, (b.finalHdr k).nf = false) →
        exec (.bucketComplete c btag) s = .next (settle (wakeReds c (finishRed b false
          (journalStep (flushUnits (s1.updCtx b.ctx (recordDone b))) b.ctx b.step [b.btag, 1, b.step]))))))
  ∧ (∀ (s : State), s.board.haltedByClock = false →
      (∀ (c : Fin 32) (btag : BitVec 12) (b : Bucket), runningRed s c btag.toNat = some b →
        exec (.galleyStall c btag) s = .next (logEvent { s with galley := { s.galley with stalls := satAdd s.galley.stalls 1 65535 } } evGalleyStall
          scBucket b.btag [b.step, b.stallPhase, b.awaited.2, b.awaited.1]))
      ∧ (∀ (f : Fin 16), s.galley.disabled.contains f.val = false → 2 ≤ s.galley.lost.getD f 0 → (∀ b ∈ s.galley.buckets, b.formes.contains f.val = false) →
        exec (.formeDisable f) s = .next (overlapping false s (lowerQuota (addDefect (logEvent
          { s with galley := { s.galley with disabled := s.galley.disabled ++ [f.val] } } evFormeDisabled scPackage 0 [f.val]) 0x0A 3 0 f 0)))))

/-! ### Races -/

/-- RACE_TRAINING, TRAINING_TIMEOUT and QUALIFICATION (R325, R329, R330, R352). An enabled Race trains on signal. Training in which every lane of the
base set is good takes the base set; with exactly one bad lane and a free lane 8 it takes lane 8 instead, and a Race without a usable set
fails, as it does after 120 ms. Qualification with at most 22,400 errors on every lane in use enters HELLO; a worse lane is marked bad and
training starts again. -/
def Obligations.RacesTrainAndQualify : Prop :=
  ∀ (s : State) (r : Fin 32), s.board.haltedByClock = false →
    (raceEnabled s r = true → (s.race r).state = .off →
      ∃ t, exec (.raceTraining r .signal) s = .next t ∧ (t.race r).state = .training ∧ t.mem = s.mem)
    ∧ (∀ (good : BitVec 9) (spare : Bool), raceEnabled s r = true → (s.race r).state = .training →
      let ok := good &&& ~~~(s.racePort (r.val / 2)).idle
      ((baseLanes s r &&& ~~~ok = 0) →
        ∃ t, exec (.raceTraining r (.trained good spare)) s = .next t ∧ (t.race r).state = .qualifying ∧ (t.race r).lanes = baseLanes s r
          ∧ (t.race r).half = false ∧ (t.race r).spareInUse = false ∧ (t.race r).sparePresent = spare ∧ t.mem = s.mem)
      ∧ (countLanes (baseLanes s r &&& ~~~ok) = 1 → spare = true → ok.getLsbD 8 = true → spareTaken s r = false →
        ∃ t, exec (.raceTraining r (.trained good spare)) s = .next t ∧ (t.race r).state = .qualifying
          ∧ (t.race r).lanes = ((baseLanes s r &&& ok) ||| 0x100) ∧ (t.race r).half = false ∧ (t.race r).spareInUse = true ∧ t.mem = s.mem)
      ∧ (laneSet s r ok spare none = none →
        ∃ t, exec (.raceTraining r (.trained good spare)) s = .next t ∧ (t.race r).state = .failed ∧ t.mem = s.mem))
    ∧ ((s.race r).state = .training ∨ (s.race r).state = .retraining → exec (.trainingTimeout r) s = .next (failRace s r))
    ∧ (∀ (errors : List Nat), (s.race r).state = .qualifying →
      ((∀ k < 9, (s.race r).lanes.getLsbD k = true → errors.getD k 0 ≤ 22400) →
        ∃ t, exec (.qualification r errors) s = .next t ∧ (t.race r).state = .hello ∧ (t.race r).lanes = (s.race r).lanes ∧ t.mem = s.mem)
      ∧ (∀ k < 9, (s.race r).lanes.getLsbD k = true → 22400 < errors.getD k 0 →
        ∃ t, exec (.qualification r errors) s = .next t ∧ (t.race r).state = .training
          ∧ (t.racePort (r.val / 2)).laneBad.getLsbD k = true ∧ t.mem = s.mem))

/-- LANE_FAILURE, RETRAIN_RECOVERY and FAILED_RETRY (R329, R351 to R353). A lane failure of an ATTESTED Race idles the lane and enters
RETRAINING, keeping numbers, unacknowledged frames and credits. The recovery takes a lane set among the lanes that train again and goes on
to HELLO when it qualifies, or fails the Race; when both ends have attested again, to the same member, the Race is ATTESTED again. A FAILED
Race trains again. -/
def Obligations.RacesRecover : Prop :=
  ∀ (s : State) (r : Fin 32), s.board.haltedByClock = false →
    (∀ (lane : Fin 9), (s.race r).state = .attested → (s.race r).lanes.getLsbD lane = true →
      ∃ t, exec (.laneFailure r lane) s = .next t ∧ (t.race r).state = .retraining ∧ (t.racePort (r.val / 2)).laneBad.getLsbD lane = true
        ∧ (t.racePort (r.val / 2)).idle.getLsbD lane = true
        ∧ (t.race r).unacked = (s.race r).unacked ∧ (t.race r).nextLsn = (s.race r).nextLsn ∧ (t.race r).rx = (s.race r).rx
        ∧ (t.race r).slotLimit = (s.race r).slotLimit ∧ (t.race r).frameWindow = (s.race r).frameWindow ∧ t.mem = s.mem)
    ∧ (∀ (good : BitVec 9) (errors : List Nat), (s.race r).state = .retraining → (s.race r).recover = .lanes →
      let tried := ownLanes s r &&& ~~~((s.race r).lanes &&& (s.racePort (r.val / 2)).idle)
      let u := markBad (wakeLanes s r (tried &&& good)) r (tried &&& ~~~good)
      let set := laneSet u r (tried &&& good) (s.race r).sparePresent
        (if ((s.race r).half && !(s.race r).wide) = true then some (halfOf (s.race r).lanes) else none)
      (set = none → exec (.retrainRecovery r good errors) s = .next (failRace u r))
      ∧ (∀ l, set = some l → (∀ k < 9, l.1.getLsbD k = true → errors.getD k 0 ≤ 22400) →
        ∃ t, exec (.retrainRecovery r good errors) s = .next t ∧ (t.race r).state = .retraining ∧ (t.race r).recover = .hello
          ∧ (t.race r).lanes = l.1 ∧ (t.race r).half = l.2.1 ∧ (t.race r).unacked = (s.race r).unacked ∧ t.mem = s.mem))
    ∧ ((s.race r).state = .retraining → (s.race r).recover = .attest → (s.race r).ownResult = some 0 → (s.race r).cand = (s.race r).lastPeer →
      exec (.attest r (.result 0 true)) s = .next (afterFlume (endRecovery (s.setRace r { s.race r with peerResult := some 0, attResult := 0 }) r)))
    ∧ ((s.race r).state = .failed → raceEnabled s r = true →
      ∃ t, exec (.failedRetry r) s = .next t ∧ (t.race r).state = .training ∧ (t.race r).half = false ∧ (t.race r).spareInUse = false
        ∧ (t.racePort (r.val / 2)).retrains = satAdd (s.racePort (r.val / 2)).retrains 1 65535 ∧ t.mem = s.mem)

/-- HELLO_SEND, HELLO, ATTEST_RETRY and LINK_WITHDRAW (R329, R332, R333, R335, R341). A HELLO of the same version and lanes links the Race and
records the peer's challenge, serial number, job and slots; another version or lane set fails it. When both ends are admitted to one job,
the parts of the ATTEST body go out, at a HELLO and, 1 s after a failure, at a retry. A withdrawal returns an ATTESTED Race to LINKED. -/
def Obligations.RacesLink : Prop :=
  ∀ (s : State) (r : Fin 32), s.board.haltedByClock = false →
    (sendsHello (s.race r) = true → exec (.helloSend r) s = .next (emitPlain s r (.hello (ownHello s r))))
    ∧ (∀ (m : HelloMsg), m.crcOk = true → (s.race r).state = .hello →
      (m.kverMajor = 1 → m.lanes = (s.race r).lanes → (s.sec.phase = .admitted → m.admitted = true → m.jobId ≠ s.sec.jobId) →
        exec (.hello r m) s = .next (s.setRace r { s.race r with
          state := .linked, chalPeer := m.chal, peerSerial := m.serial, peerJob := m.jobId, peerAdmitted := m.admitted
          peerSlots := m.slots.toNat }))
      ∧ (m.kverMajor = 1 → m.lanes = (s.race r).lanes → s.sec.phase = .admitted → m.admitted = true → m.jobId = s.sec.jobId →
        (s.race r).retryWait = false →
        ∃ u, exec (.hello r m) s = .next (sendBody u r) ∧ (u.race r).state = .attesting ∧ (u.race r).chalPeer = m.chal ∧ u.out = s.out
          ∧ u.sec = s.sec)
      ∧ (m.kverMajor ≠ 1 ∨ m.lanes ≠ (s.race r).lanes → exec (.hello r m) s = .next (failRace s r)))
    ∧ ((s.race r).state = .linked → s.sec.phase = .admitted → (s.race r).peerAdmitted = true → (s.race r).peerJob = s.sec.jobId →
      ∃ u, exec (.attestRetry r) s = .next (sendBody u r) ∧ (u.race r).state = .attesting ∧ (u.race r).retryWait = false ∧ u.out = s.out
        ∧ u.sec = s.sec)
    ∧ (∀ (h : FrameHdr) (s1 : State), h.via = .race r → receive h (.linkWithdraw r h) s = (s1, true) →
      exec (.linkWithdraw r h) s = .next (released h s1 (toLinked s1 r)) ∧ ((toLinked s1 r).race r).state = .linked
        ∧ (toLinked s1 r).mem = s1.mem)

/-- ATTEST (R329, R333, R334). The first part of a body waits for the other. The verdict on the whole body is the code of the first check of
R334 that fails, or 0, and is sent back. With both verdicts 0 the Race becomes ATTESTED; a verdict other than 0 returns it to LINKED and
logs the code. -/
def Obligations.RacesAttest : Prop :=
  ∀ (s : State) (r : Fin 32), s.board.haltedByClock = false → (s.race r).state = .attesting →
    (∀ (second : Bool) (a : AttestBody), (s.race r).ownResult = none →
      let k := attestCheck s r a
      let u := s.setRace r { s.race r with
        ownResult := some k, attResult := k, attParts := [], cand := if k = 0 then some (a.member.toNat, a.inc.toNat) else none }
      ((s.race r).attParts = [] → exec (.attest r (.part second a true)) s = .next (s.setRace r { s.race r with attParts := [second] }))
      ∧ ((s.race r).attParts = [!second] →
        (k ≠ 0 → exec (.attest r (.part second a true)) s = .next (afterFlume (attestFails (emitPlain u r (.attestResult k)) r k)))
        ∧ (k = 0 → (s.race r).peerResult = some 0 →
          exec (.attest r (.part second a true)) s = .next (afterFlume (enterAttested (emitPlain u r (.attestResult 0)) r)))
        ∧ (k = 0 → (s.race r).peerResult = none →
          exec (.attest r (.part second a true)) s = .next (afterFlume (emitPlain u r (.attestResult 0))))))
    ∧ (∀ (code : W8), code ≠ 0 → (s.race r).ownResult = none → ∃ t, exec (.attest r (.result code true)) s = .next (afterFlume t)
        ∧ (t.race r).state = .linked ∧ (t.race r).attResult = code.toNat ∧ t.mem = s.mem)

/-- The checks of R334 in their order: the code of each is the answer when every earlier check passes, and 0 when all of them pass. -/
def Obligations.AttestationChecks : Prop :=
  ∀ (s : State) (r : Nat) (a : AttestBody) (m : Member),
    memberOf s a.member.toNat = some m →
    (a.certOk = false → attestCheck s r a = 1)
    ∧ (a.certOk = true →
      (a.sigOk = false → attestCheck s r a = 2)
      ∧ (a.sigOk = true →
        (m.keyHash ≠ a.keyHash ∨ (isPairRace s r = true ∧ isTwin s a.member.toNat = false) → attestCheck s r a = 3)
        ∧ (m.keyHash = a.keyHash → (isPairRace s r = true → isTwin s a.member.toNat = true) →
          (a.jobId ≠ s.sec.jobId → attestCheck s r a = 4)
          ∧ (a.jobId = s.sec.jobId →
            (a.proofOk = false → attestCheck s r a = 5)
            ∧ (a.proofOk = true →
              (a.chalPeer ≠ (s.race r).chalOwn → attestCheck s r a = 6)
              ∧ (a.chalPeer = (s.race r).chalOwn →
                (a.inc.toNat < recordedInc s a.member.toNat → attestCheck s r a = 7)
                ∧ (recordedInc s a.member.toNat ≤ a.inc.toNat → attestCheck s r a =
                    (if s.sec.frisket.keypol.getLsbD 2 = true ∧ a.digest ∉ s.sec.frisket.digests.take s.sec.frisket.ndigest.toNat
                      then 8 else 0))))))))

/-- LINK_ACK, LINK_ACK_TIMER, LINK_NACK and LINK_RESUME (R343, R352), FRAME_TRANSMIT and RETRANSMISSION_TIMEOUT (R342, R344 to R346, R348). A NACK
makes the frames it names due again and none else; RESUME makes every unacknowledged frame due. The timer sends an acknowledgement of
what has arrived. A Race with one waiting frame and room for it sends that frame under the next number and keeps it until it is
acknowledged; without room it sends nothing new. The oldest frame without acknowledgement becomes due at a timeout; the thousandth timeout
in a row retrains the Race. -/
def Obligations.RaceFrames : Prop :=
  (∀ (s : State) (r : Fin 32) (h : FrameHdr) (s1 : State), h.via = .race r →
    (receive h (.linkAck r h) s = (s1, true) → exec (.linkAck r h) s = .next (released h s1 s1))
    ∧ (∀ (base : W48) (missing : W64), receive h (.linkNack r h base missing) s = (s1, true) →
        ∃ t, exec (.linkNack r h base missing) s = .next (released h s1 t) ∧ t.mem = s1.mem ∧ (t.race r).unacked = (s1.race r).unacked
          ∧ ∀ n, n ∈ (t.race r).retxq ++ (t.race r).resumeq ↔ n ∈ (s1.race r).retxq ++ (s1.race r).resumeq
              ∨ (n ∈ nackNumbers (near48 base (s1.race r).peerAck) missing.toNat ∧ ∃ u ∈ (s1.race r).unacked, u.lsn = n))
    ∧ (receive h (.linkResume r h) s = (s1, true) →
        ∃ t, exec (.linkResume r h) s = .next (released h s1 (pumpRaceFlumes t r)) ∧ (t.race r).resumeq = (s1.race r).unacked.map (·.lsn)
          ∧ t.mem = s1.mem)
    ∧ (s.board.haltedByClock = false → (s.race r).state = .attested → 0 < (s.race r).rx.sinceAck → (s.race r).queue = [] →
      (s.race r).retxq = [] → (s.race r).resumeq = [] → (s.race r).nextLsn ≤ (s.race r).peerAck + (s.race r).frameWindow →
      ∃ t ctr w, exec (.linkAckTimer r) s = .next t ∧ (t.race r).nextLsn = (s.race r).nextLsn + 1 ∧ (t.race r).rx.sinceAck = 0
        ∧ t.out = s.out ++ [.raceFrame r s.sec.self (recordedInc s s.sec.self) ctr (s.race r).nextLsn (s.race r).rx.ack (slotCredit s r)
            (raceEntries s r) (.linkAck (s.race r).rx.ack) w]))
  ∧ (∀ (s : State) (r : Fin 32), s.board.haltedByClock = false → (s.race r).state = .attested →
    (∀ (fr : Frame) (cls : Nat), (s.race r).queue = [(cls, fr)] → cls = frameClass fr → frameFlume fr = none → (s.race r).retxq = [] →
      (s.race r).resumeq = [] →
      ((s.race r).nextLsn ≤ (s.race r).peerAck + (s.race r).frameWindow →
        ∃ t ctr, exec (.frameTransmit r) s = .next t ∧ (t.race r).nextLsn = (s.race r).nextLsn + 1 ∧ (t.race r).queue = []
          ∧ (t.race r).unacked = (s.race r).unacked ++ [{ lsn := (s.race r).nextLsn, frame := fr, cls := cls }]
          ∧ t.out = s.out ++ [.raceFrame r s.sec.self (recordedInc s s.sec.self) ctr (s.race r).nextLsn (s.race r).rx.ack (slotCredit s r)
              (raceEntries s r) fr (raceWire s.sec.jobId r s.sec.self (recordedInc s s.sec.self) ctr (s.race r).nextLsn (s.race r).rx.ack
                (slotCredit s r) (raceEntries s r) fr (frameBytes s 2048 fr))])
      ∧ ((s.race r).peerAck + (s.race r).frameWindow < (s.race r).nextLsn →
        ∃ t, exec (.frameTransmit r) s = .next t ∧ t.out = s.out ∧ (t.race r).queue = (s.race r).queue))
    ∧ (∀ u rest, (s.race r).unacked = u :: rest →
      ∃ t, exec (.retransmissionTimeout r) s = .next t ∧ u.lsn ∈ (t.race r).retxq ∧ (t.race r).unacked = (s.race r).unacked
        ∧ (t.race r).timeouts = (s.race r).timeouts + 1 ∧ t.mem = s.mem
        ∧ ((t.race r).state = .retraining ↔ 1000 ≤ (s.race r).timeouts + 1)))

/-! ### Host ports -/

/-- DISCOVER, SOPEN and COOKIE_EPOCH (R362 to R366). A ready port answers DISCOVER with ADVERT and one that is not with NOTREADY; a packet shorter than
144 bytes is dropped. The first form gets the cookie of its source. The second form with a valid cookie opens a session with
min(offered, 256, free) slots, or gets the reason of its refusal. A cookie stays valid through the epoch after its own. -/
def Obligations.SessionsOpen : Prop :=
  ∀ (s : State) (p : Fin 2), portHears s p = true →
    (∀ (d : Datagram), packetOk s p false d = true → d.crcOk = true →
      (d.udpLen < 144 → exec (.discover p d) s = .next s ∧ exec (.sopenFirstForm p d) s = .next s)
      ∧ (144 ≤ d.udpLen → isReady s = false →
        ∃ ms, 100 ≤ ms ∧ exec (.discover p d) s = .next (rateReply s.nextFree p d.src (.notReady p d.src ms)))
      ∧ (144 ≤ d.udpLen → isReady s = true →
        exec (.discover p d) s = .next (rateReply s p d.src (.advert p d.src s.part.serial
          (if s.sec.phase = .admitted then s.sec.jobId else 0) (colophonDigest s) (advertState s) (variantCode s) (64 - usedSessions s p)))
        ∧ exec (.sopenFirstForm p d) s = .next (rateReply s p d.src (.cookie p d.src (cookieFor s d false)))))
    ∧ (∀ (h : FrameHdr) (job : W128) (seg : Bool) (w rep : W16), packetOk s p false h.net = true → 144 ≤ h.net.udpLen → isReady s = true →
      (∀ k s1, sopenRefusal s p h job rep = (k + 1, s1) →
        exec (.sopenSecondForm p h (cookieFor s h.net false) job seg w rep) s = .next (rateReply s1 p h.net.src (.sopenRefused p h.net.src (k + 1))))
      ∧ (sopenRefusal s p h job rep = (0, s) → (nextHop s p h.net.src.addr).isSome = true → replacesOk s p h.member.toNat rep = false →
        ∃ t n, exec (.sopenSecondForm p h (cookieFor s h.net false) job seg w rep) s = .next (afterFlume (wakePaths t))
          ∧ n < 64 ∧ Tbl.find? (s.host p).sessions n = none ∧ t.mem = s.mem ∧ t.flumes = s.flumes
          ∧ (t.session p n).state = .openS ∧ (t.session p n).member = h.member.toNat ∧ (t.session p n).inc = h.inc.toNat
          ∧ (t.session p n).window = min (min w.toNat 256) (s.host p).slotsFree ∧ (t.session p n).segsize = (if seg then 8192 else 1024)
          ∧ (t.host p).slotsFree = (s.host p).slotsFree - min (min w.toNat 256) (s.host p).slotsFree))
    ∧ (∃ t, exec .cookieEpoch s = .next t ∧ t.cookieEpoch = s.cookieEpoch + 1 ∧ t.hosts = s.hosts ∧ t.mem = s.mem
        ∧ ∀ d, cookieFor t d true = cookieFor s d false)

/-- ACK, NACK, SCLOSE, the timers of a session and its port's link (R357, R359, R366, R367). A rise of CE_COUNT, a NACK and a timeout halve the
window, once in a round trip and to no fewer than 4; named packets go out again; the 64th timeout and the loss of link break sessions;
SCLOSE frees one. A resolved neighbour lets the packets behind it leave. -/
def Obligations.SessionsRun : Prop :=
  ∀ (s : State) (p : Fin 2) (n : Fin 64), s.board.haltedByClock = false →
    (∀ (h : FrameHdr) (s1 : State), h.via = .host p n →
      (∀ (ce : W32), receive h (.ack h ce) s = (s1, true) → (s1.session p n).peerCe.toNat < ce.toNat → (s1.session p n).halved = none →
        ∃ t, exec (.ack h ce) s = .next (released h s1 (sessionPump t p n)) ∧ t.mem = s1.mem ∧ (t.session p n).peerCe = ce
          ∧ (t.session p n).cwnd = max 4 ((s1.session p n).cwnd / 2) ∧ (t.session p n).halved = some s1.timeNs)
      ∧ (∀ (base : W48) (missing : W64), receive h (.nack h base missing) s = (s1, true) →
        exec (.nack h base missing) s = .next (released h s1
          (((s1.session p n).unacked.filter (fun u => (nackNumbers (near48 base (s1.session p n).peerAck) missing.toNat).contains u.lsn)).foldl
            (resendPacket p n) (halve s1 p n))))
      ∧ ((s.session p n).state ≠ .broken → receive h (.sclose h) s = (s1, true) →
        exec (.sclose h) s = .next (released h s1 (freeSession (emitPacket (s1.setSession p n { s1.session p n with
          nextPsn := (s1.session p n).nextPsn + 1 }) p n (s1.session p n).nextPsn (.linkAck (s1.session p n).rx.ack)) p n))))
    ∧ ((s.session p n).state = .openS → 0 < (s.session p n).rx.sinceAck →
      exec (.sessionAckTimer p n) s = .next (queueSession s p n (.linkAck (s.session p n).rx.ack)))
    ∧ (∀ u rest, (s.session p n).state = .openS → (s.session p n).unacked = u :: rest →
      (64 ≤ (s.session p n).timeouts + 1 → ∃ t, exec (.sessionRetransmissionTimeout p n) s = .next t ∧ (t.session p n).state = .broken
        ∧ (t.session p n).window = (s.session p n).window ∧ t.mem = s.mem)
      ∧ ((s.session p n).timeouts + 1 < 64 → exec (.sessionRetransmissionTimeout p n) s = .next (halve (resendPacket p n
          (s.setSession p n { s.session p n with timeouts := (s.session p n).timeouts + 1 }) u) p n)))
    ∧ (∃ t, exec (.hostPortLinkLoss p) s = .next t ∧ (t.host p).link = false ∧ t.mem = s.mem
        ∧ ∀ k x, Tbl.find? (s.host p).sessions k = some x → x.state = .openS → (t.session p k).state = .broken ∧ (t.session p k).window = x.window)
    ∧ (∀ (rate now : BitVec 2), now = (if (s.host p).cfg.extractLsb' 1 2 = 0 then rate else (s.host p).cfg.extractLsb' 1 2) → now ≠ 0 →
      (s.host p).cfg.getLsbD 0 = true → (s.host p).disabled = false → s.board.pwrgood = true →
      exec (.hostPortLinkUp p rate) s = .next (s.setHost p { s.host p with link := true, rateNow := now }))
    ∧ (∀ (port : Fin 3) (a : W128) (v4 : Bool) (tags : List (BitVec 12)), (if port.val = 2 then s.mil.link else portHears s port) = true →
      tagsOk s port tags = true → ownAddress s port a v4 = true →
      exec (.neighbourSolicitation port a v4 tags) s = .next (s.emit (.neighbour port a v4)))
    ∧ (∀ (a : W128) (mac : W48), ∃ t, exec (.neighbourResolution (Fin.castLE (by omega) p) a mac) s = .next t ∧ t.mem = s.mem
        ∧ t.out = s.out ++ (s.ipWait.filter (fun w => w.1 == p.val && w.2.1 == a)).map (·.2.2)
        ∧ (a, mac) ∈ (t.host p).neigh ∧ ∀ w ∈ t.ipWait, ¬ (w.1 = p.val ∧ w.2.1 = a))

/-! ### Job control -/

/-- LOAD, RELOAD and UNLOAD (R40, R159, R248 to R251, R369, R371). A load that no check refuses gives the context its program and groups, RUNNING or,
for a takeover context before takeover, QUIESCED, and loads the Querns of its groups that serve no other context. A refusal answers its
STATUS and changes nothing else. A part of a LOAD waits for the next one; with the final part the request acts. A stopped or halted
context can be reloaded; a context without an open Flume can be unloaded. -/
def Obligations.ContextsLoadAndUnload : Prop :=
  ∀ (s s1 : State) (j : JobHdr),
    (∀ (m : LoadMsg) (len : Nat), let c : Instr := .load j { offset := 0, len := len, final := some m }; JobTurn s s1 j c →
      let u := jobTaken s1 j c
      (∀ prog, loadRefusal u m = none → parseProgram m.program = .ok prog →
        let t := loadCtx m prog u
        exec c s = .next (jobAnswered s1 j 0x0001 0 [] (settle t)) ∧ (t.ctx m.ctx).program = prog ∧ (t.ctx m.ctx).groups = m.groups
          ∧ (t.ctx m.ctx).state = loadState u m.ctx ∧ (∀ k < quernBase, Memory.get t.mem k = Memory.get s1.mem k)
          ∧ ∀ q ∈ m.groups.flatMap id, servesOther u m.ctx q = false →
              ∃ l, t.quern q = { loaded := true, fenced := (u.quern q).fenced, wgo := l } ∧ ∀ k, l.getD k 0 = 0)
      ∧ (∀ k d, loadRefusal u m = some (k, d) → exec c s = .next (jobAnswered s1 j 0x0001 k d u))
      ∧ (∀ code, loadRefusal u m = none → parseProgram m.program = .error code → exec c s = .next (jobAnswered s1 j 0x0001 6 [code] u)))
    ∧ (∀ (len : Nat), let c : Instr := .load j { offset := 0, len := len, final := none }; JobTurn s s1 j c →
      exec c s = .next (released j.hdr s1 (s1.setSession j.port j.session { s1.session j.port j.session with part := some (j.reqid, some len) })))
    ∧ (∀ (m : LoadMsg), let c : Instr := .reload j m; JobTurn s s1 j c →
      let u := jobTaken s1 j c
      u.sec.phase = .admitted → groupsOk m.groups = true → wgoOk m.wgo = true →
      (∀ prog, ((u.ctx m.ctx).state = .stopped ∨ (u.ctx m.ctx).state = .halted) → quernsRefused u m.ctx m.groups = false →
        parseProgram m.program = .ok prog →
        let t := reloadCtx m.ctx m.groups m.wgo prog u
        exec c s = .next (jobAnswered s1 j 0x0003 0 [] (settle t)) ∧ (t.ctx m.ctx).program = prog
          ∧ (t.ctx m.ctx).groups = m.groups ∧ (t.ctx m.ctx).disps = [] ∧ (t.ctx m.ctx).err = none ∧ (t.ctx m.ctx).state = loadState u m.ctx)
      ∧ ((u.ctx m.ctx).state ≠ .stopped → (u.ctx m.ctx).state ≠ .halted → exec c s = .next (jobAnswered s1 j 0x0003 3 [m.ctx.val] u)))
    ∧ (∀ (c : Fin 32), let i : Instr := .unload j c; JobTurn s s1 j i →
      let u := jobTaken s1 j i
      ((u.ctx c).state = .unloaded → exec i s = .next (jobAnswered s1 j 0x0002 3 [c.val] u))
      ∧ ((u.ctx c).state ≠ .unloaded → ∀ f, openFlumeOf u c = some f → exec i s = .next (jobAnswered s1 j 0x0002 3 [f] u))
      ∧ ((u.ctx c).state ≠ .unloaded → openFlumeOf u c = none →
        let t := unloadCtx c u
        exec i s = .next (jobAnswered s1 j 0x0002 0 [] (settle (wakeAllReds t))) ∧ (t.ctx c).state = .unloaded
          ∧ (t.ctx c).program = [] ∧ (t.hopper (2 * c)).cap = 0 ∧ (t.hopper (2 * c + 1)).cap = 0))

/-- MAP, UNMAP, PUT, REGREAD and REGWRITE of a session (R219 to R224, R231, R369 to R371, R504). A map backs unmapped pages with free frames of its Bin
in increasing number; an unmap leaves its pages UNMAPPED, once no move uses them; PUT stores its bytes within one mapped page; register
requests reach the job side's blocks, and any other block gets STATUS 2. -/
def Obligations.MemoryAndRegisterRequests : Prop :=
  ∀ (s s1 : State) (j : JobHdr),
    (∀ (first count : Nat) (owner : Fin 32) (shared wp : Bool) (bin : Fin 4) (l : List Nat), let c : Instr := .map j first count owner shared wp bin
      JobTurn s s1 j c → let u := jobTaken s1 j c
      0 < count → first + count ≤ 524288 → (∀ i < count, (u.page (first + i)).state = .unmapped ∧ pageClaimed u (first + i) = false) →
      halfRefused u first count owner = false → framesFor u bin count = some l →
      let t := mapPages u first l owner shared wp
      exec c s = .next (jobAnswered s1 j 0x0010 0 [] (settle (wakeAllReds (applyEarly 0 t)))) ∧ t.mem = s1.mem
        ∧ ∀ i < count, (t.page (first + i)).state = .mapped ∧ (t.page (first + i)).frame = l.getD i 0 ∧ (t.page (first + i)).owner = owner.val
            ∧ (t.page (first + i)).wp = wp ∧ (t.page (first + i)).shared = shared)
    ∧ (∀ (first count : Nat), let c : Instr := .unmap j first count; JobTurn s s1 j c →
      let u := jobTaken s1 j c
      0 < count → first + count ≤ 524288 →
      let ps := ((List.range count).map (first + ·)).filter (fun p => (u.page p).state ≠ .unmapped)
      (((movePages u).any ps.contains) = true → exec c s = .next (released j.hdr s1 u))
      ∧ (((movePages u).any ps.contains) = false → exec c s = .next (jobAnswered s1 j 0x0011 0 [ps.length] (ps.foldl unmapPage u))))
    ∧ (∀ (a : W48) (bytes : List W8), let c : Instr := .put j a bytes; JobTurn s s1 j c →
      let u := jobTaken s1 j c
      let ws := cellsAt a.toNat bytes
      bytes ≠ [] → a.toNat + bytes.length ≤ 2 ^ 39 → (a.toNat + bytes.length - 1) / 2 ^ 20 = a.toNat / 2 ^ 20 →
      ((u.page (a.toNat / 2 ^ 20)).state = .unmapped → exec c s = .next (jobHeld s1 j 0x0020 7 [a.toNat] u))
      ∧ ((u.page (a.toNat / 2 ^ 20)).state ≠ .unmapped → (∀ x, uncovered u (ws.map (·.1)) x = false) →
        exec c s = .next (jobHeld s1 j 0x0020 0 [] (flushUnits (storeBytes (clearData u (ws.map (·.1))) ws)))))
    ∧ (∀ (off : W48), let c : Instr := .jobRegread j off; JobTurn s s1 j c →
      let u := jobTaken s1 j c
      (jobBlock off.toNat = true →
        (∀ v, readReg u off.toNat = some v →
          (u.sec.frisket.jobView.getLsbD 2 = true → exec c s = .next (jobAnswered s1 j 0x0030 0 [v] (clearRc u off.toNat)))
          ∧ (u.sec.frisket.jobView.getLsbD 2 = false → exec c s = .next (jobAnswered s1 j 0x0030 0 [v &&& (2 ^ 64 - 1 - rcMask off.toNat)] u)))
        ∧ (readReg u off.toNat = none → exec c s = .next (jobAnswered s1 j 0x0030 7 [off.toNat] u)))
      ∧ (jobBlock off.toNat = false → off.toNat / 2 ^ 20 ≤ 0xC →
        exec c s = .next (jobAnswered s1 j 0x0030 2 [] (frisketViolation u [off.toNat]))))
    ∧ (∀ (off : W48) (v : W64), let c : Instr := .jobRegwrite j off v; JobTurn s s1 j c →
      let u := jobTaken s1 j c
      (jobBlock off.toNat = true →
        (∀ t : State, writeReg off.toNat v (maskAt 0 64) false u = .done t → exec c s = .next (jobAnswered s1 j 0x0031 0 [] t))
        ∧ (∀ t : State, writeReg off.toNat v (maskAt 0 64) false u = .ignored t → exec c s = .next (jobAnswered s1 j 0x0031 3 [off.toNat] t)))
      ∧ (jobBlock off.toNat = false → off.toNat / 2 ^ 20 ≤ 0xC →
        exec c s = .next (jobAnswered s1 j 0x0031 2 [] (frisketViolation u [off.toNat]))))

/-- FOPEN, FCLOSE, REWIND, ABANDON, ROLLBACK and SUBSCRIBE of a session (R259, R268, R270, R271, R292, R293, R369, R371, R397). The recovery requests
act on a context at rest and are refused with STATUS 3 on one that runs. -/
def Obligations.FlumeAndRecoveryRequests : Prop :=
  ∀ (s s1 : State) (j : JobHdr),
    (∀ (f : Fin 1024), let c : Instr := .fopen j f; JobTurn s s1 j c →
      let u := jobTaken s1 j c
      (fopenRefusal u f = none → exec c s = .next (jobAnswered s1 j 0x0040 0 [] (afterFlume (startOpen f u))))
      ∧ (∀ k d, fopenRefusal u f = some (k, d) → exec c s = .next (jobAnswered s1 j 0x0040 k d u)))
    ∧ (∀ (f : Fin 1024) (forced : Bool), let c : Instr := .fclose j f forced; JobTurn s s1 j c →
      let u := jobTaken s1 j c
      ((u.flume f).state = .closed → exec c s = .next (jobAnswered s1 j 0x0041 3 [f.val] u))
      ∧ ((u.flume f).state ≠ .closed → exec c s = .next (jobAnswered s1 j 0x0041 0 [] (afterFlume (startClose f forced u)))))
    ∧ (∀ (c : Fin 32) (n : W32) (fwd bwd : Bool), let i : Instr := .rewind j c n fwd bwd; JobTurn s s1 j i →
      let u := jobTaken s1 j i
      (atRest (u.ctx c) = true →
        let t := rewindStep c n.toNat fwd bwd (endBuckets u c (fun b => decide (n.toNat ≤ b.step)))
        exec i s = .next (jobAnswered s1 j 0x0050 0 [] (settle (wakeAllReds t))) ∧ (t.ctx c).rstep ≤ n.toNat)
      ∧ (atRest (u.ctx c) = false → exec i s = .next (jobAnswered s1 j 0x0050 3 [c.val] u)))
    ∧ (∀ (c : Fin 32), let i : Instr := .abandon j c; JobTurn s s1 j i →
      let u := jobTaken s1 j i
      (atRest (u.ctx c) = true → exec i s = .next (jobAnswered s1 j 0x0051 0 [] (settle ((updatedShards u c).foldl abandonShard u))))
      ∧ (atRest (u.ctx c) = false → exec i s = .next (jobAnswered s1 j 0x0051 3 [c.val] u)))
    ∧ (∀ (c : Fin 32) (n : W32), let i : Instr := .rollback j c n; JobTurn s s1 j i →
      let u := jobTaken s1 j i
      (atRest (u.ctx c) = true →
        ((∀ sh ∈ updatedShards u c, keptEds u sh n.toNat ≠ []) →
          ∃ t, exec i s = .next (jobAnswered s1 j 0x0052 0 [] (settle (wakeAllReds (recountFrom t c (n.toNat + 1)))))
            ∧ (∀ b k, Tbl.find? (t.ctx c).completed b = some k → k ≤ n.toNat) ∧ ∀ k, (t.ctx c).noticed = some k → k ≤ n.toNat)
        ∧ (∀ sh, (updatedShards u c).find? (fun sh => (keptEds u sh n.toNat).isEmpty) = some sh →
          exec i s = .next (jobAnswered s1 j 0x0052 3 [sh] u)))
      ∧ (atRest (u.ctx c) = false → exec i s = .next (jobAnswered s1 j 0x0052 3 [c.val] u)))
    ∧ (∀ (on : Bool), let c : Instr := .jobSubscribe j on; JobTurn s s1 j c →
      let u := jobTaken s1 j c
      exec c s = .next (jobAnswered s1 j 0x0060 0 [] (u.setSession j.port j.session { u.session j.port j.session with subscribed := on })))

/-! ### The Miller -/

/-- The checks of a signed request in their order (R484, R487, R488, R490, R494). A packet that is not one for the management port is nothing to it; a
malformed request gets STATUS 6; a stale BOOT_ID is dropped and counted in REPLAY; a signature that fails gets
STATUS 5, a signer that may not issue the operation STATUS 7, and either is counted in REFUSED; a number at or below LAST_SEQ is never
executed again: a lower one is dropped and counted, an equal one gets the stored reply, or STATUS 2. -/
def Obligations.RequestChecks : Prop :=
  ∀ (s : State) (m : MilHdr) (op : Nat) (who : Signers) (early : Bool) (act : State → Reply), millerHears s op = true →
    (millerPacket s m.net = false → milRequest m op who early id act s = .next s)
    ∧ (millerPacket s m.net = true → m.formOk = false → milRequest m op who early id act s = .next (bucketReply s m.src (.mreply m.src op m.reqSeq 6 [])))
    ∧ (millerPacket s m.net = true → m.formOk = true →
    (m.bootId ≠ s.mil.bootId →
      milRequest m op who early id act s = .next { s with mil := { s.mil with replay := satAdd s.mil.replay 1 65535 } })
    ∧ (m.bootId = s.mil.bootId → signaturesOk s m = false →
      ∃ t, milRequest m op who early id act s = .next (bucketReply t m.src (.mreply m.src op m.reqSeq 5 []))
        ∧ t.mil.refused = satAdd s.mil.refused 1 65535 ∧ t.mil.lastOwner = s.mil.lastOwner ∧ t.mil.lastOperator = s.mil.lastOperator ∧ t.mem = s.mem)
    ∧ (m.bootId = s.mil.bootId → signaturesOk s m = true → (m.signer = 0 ∨ who.allows m.signer = false) →
      ∃ t, milRequest m op who early id act s = .next (bucketReply t m.src (.mreply m.src op m.reqSeq 7 []))
        ∧ t.mil.refused = satAdd s.mil.refused 1 65535 ∧ t.mem = s.mem)
    ∧ (m.bootId = s.mil.bootId → signaturesOk s m = true → m.signer ≠ 0 → who.allows m.signer = true →
      ((∃ n ∈ lastSeqs s m, m.reqSeq.toNat < n) →
        milRequest m op who early id act s = .next { s with mil := { s.mil with replay := satAdd s.mil.replay 1 65535 } })
      ∧ ((∀ n ∈ lastSeqs s m, n ≤ m.reqSeq.toNat) → (∃ n ∈ lastSeqs s m, m.reqSeq.toNat = n) →
        milRequest m op who early id act s = .next (sendIp s 2 m.src.addr ((storedReply s m).getD (.mreply m.src op m.reqSeq 2 [])))))
    ∧ (MilTurn s m op who → (early = true ∨ isReady s = true) → ∀ u st body, act (takeRequest m s) = .now u st body →
      milRequest m op who early id act s = .next (milAnswered m op st body u)
      ∧ (m.signer.getLsbD 0 = true → (takeRequest m s).mil.lastOwner = m.reqSeq)
      ∧ (m.signer.getLsbD 1 = true → (takeRequest m s).mil.lastOperator = m.reqSeq)))

/-- HELLO, COLOPHON, REGREAD, EVREAD, DEFREAD, SUBSCRIBE, the pushes, assemblies, the management link and PTP (R371, R454, R470, R485, R486, R490 to
R493, R498, R500). Reads answer what the package holds; REGREAD clears the RC fields of what it read, a telemetry push none;
EVREAD gives at most 28 records from the first it names; a PTP message acts in the configured domain only. -/
def Obligations.MillerReads : Prop :=
  ∀ (s : State) (m : MilHdr),
    (millerHears s 0x0001 = true → millerPacket s m.net = true → m.formOk = true → exec (.millerHello m) s = .next (bucketReply s m.src (.mreply m.src 0x0001 m.reqSeq 0
        [s.mil.bootId.toNat, s.part.serial.toNat, s.boot.stage, b2n (enrolled s), s.mil.lastOwner.toNat, s.mil.lastOperator.toNat,
         b2n s.mil.keyOwner, b2n s.mil.keyOperator])))
    ∧ (∀ (nonce : W128), millerHears s 0x0002 = true → millerPacket s m.net = true → m.formOk = true → m.signer = 0 → s.board.haltedByClock = false →
      ∃ t c, exec (.colophon m nonce) s = .next (bucketReply t m.src (.mcolophon m.src m.reqSeq c)) ∧ c.nonce = nonce
        ∧ c.serial = s.part.serial ∧ c.jobId = (if s.sec.phase = .admitted then s.sec.jobId else 0) ∧ t.sec.colophon = s.sec.colophon ∧ t.mem = s.mem)
    ∧ (∀ (off : W48) (count : Nat), MilTurn s m 0x0010 .either → 0 < count → count ≤ 64 → (readReg (takeRequest m s) off.toNat).isSome = true →
      ∃ l t, exec (.regread m off count) s = .next (milAnswered m 0x0010 0 l t) ∧ l.length = count
        ∧ some (l.getD 0 0) = readReg (takeRequest m s) off.toNat ∧ (count = 1 → t = clearRc (takeRequest m s) off.toNat))
    ∧ (∀ (flash : Bool) (first : W32), MilTurn s m 0x0020 .either →
      ∃ l t, exec (.evread m flash first) s = .next (signedReply m (.mevents m.src m.reqSeq l) t) ∧ l.length ≤ 28
        ∧ (∀ e ∈ l, first.toNat ≤ e.seq ∧ e ∈ (if flash then s.mil.flashRing else s.mil.ring)) ∧ t.mil.ring = s.mil.ring ∧ t.mem = s.mem)
    ∧ (∀ (first : W32), MilTurn s m 0x0022 .either → exec (.defread m first) s = .next (milAnswered m 0x0022 0
        (((s.boot.defects.drop first.toNat).take 28).flatMap Defect.words) (takeRequest m s)))
    ∧ (∀ (sev : W8) (period : W32) (offs : List W48) (k : Nat), MilTurn s m 0x0021 .either → offs.length ≤ 32 →
      (period.toNat = 0 ∨ (10 ≤ period.toNat ∧ period.toNat ≤ 60000)) → (∀ o ∈ offs, (readReg (takeRequest m s) o.toNat).isSome = true) →
      subPlace s m.src = some k →
      ∃ t x, exec (.subscribe m sev period offs) s = .next (milAnswered m 0x0021 0 [] t) ∧ Tbl.find? t.mil.subs k = some x ∧ x.dst = m.src
        ∧ x.periodMs = period.toNat ∧ x.offsets = offs ∧ x.minSeverity = (if sev = 255 then 256 else sev.toNat))
    ∧ (∀ (k : Fin 4),
      (∀ x, Tbl.find? s.mil.subs k = some x → x.periodMs ≠ 0 → s.mil.link = true → exec (.telemetryPush k) s = .next (sendIp s 2 x.dst.addr
        (.telem x.dst (eventTime s) (x.offsets.map (fun o => BitVec.ofNat 64 ((readReg s o.toNat).getD 0))))))
      ∧ (∃ t, exec (.subscriptionLapse k) s = .next t ∧ Tbl.find? t.mil.subs k = none ∧ t.mem = s.mem)
      ∧ (∃ t, exec (.assemblyTimeout k) s = .next t ∧ Tbl.find? t.mil.assemblies k = none ∧ t.mem = s.mem))
    ∧ (∀ (d : Datagram) (op : W16) (n : W64) (total off len : Nat) (ok : Bool) (k : Nat) (a : Assembly), millerHears s op.toNat = true →
      millerPacket s d = true → 0 < len → len ≤ 1016 → off + len ≤ total → joinAssembly s op.toNat n true total = some (k, a) → a.parts = [] →
      len < total →
      ∃ t b, exec (.continuationPart d op n true total off len ok) s = .next t ∧ Tbl.find? t.mil.assemblies k = some b ∧ b.parts = [(off, len)]
        ∧ t.mem = s.mem)
    ∧ (∀ up, ∃ t, exec (.managementLinkLoss up) s = .next t ∧ t.mil.link = up ∧ t.ctxs = s.ctxs ∧ t.querns = s.querns ∧ t.mem = s.mem)
    ∧ (∀ (dom : W8) (time : W64) (lock : Bool), s.mil.link = true → s.mil.netCfg.getLsbD 1 = true → s.mil.mstate = 1 →
      (s.mil.netCfg.extractLsb' 2 8 = dom →
        ∃ t, exec (.ptpMessage dom time lock) s = .next t ∧ t.mil.ptpNs = time.toNat ∧ t.mil.ptpLocked = lock ∧ t.mem = s.mem)
      ∧ (s.mil.netCfg.extractLsb' 2 8 ≠ dom → exec (.ptpMessage dom time lock) s = .next s))
    ∧ (s.sec.phase = .admitted → s.sec.frisket.jobView.getLsbD 0 = true → exec .energyEvent s = .next (pumpSessions (toSubscribers s
        (.energy (s.pwr.energyUj / 1000 / 1000 - s.pwr.energyAtAdmit / 1000 / 1000)))))

/-- REGWRITE, CAP_W_WRITE, PACE_EN_WRITE, EST_CLEAR, RETRAIN, TAKEOVER, LEAVE, REGISTER_WRITE, RC_REGISTER_READ and ED_LSCALE_WRITE (R27 to R30, R144,
R353, R356, R411, R416, R423, R427, R493, R504). A write to a register of no block changes nothing but the log; a write outside CAP_W's
range is refused with STATUS 3 and leaves CAP_W; the named registers act as they say. A read clears the RC fields of its register and
nothing else. The loss scale of a context is replaced, but for GOOD_RUN, unless a step of it is between its first dispatch and its end. -/
def Obligations.RegistersAreWrittenAndRead : Prop :=
  (∀ (s : State) (m : MilHdr), MilTurn s m 0x0011 .operator → isReady s = true →
      let u := takeRequest m s
      (∀ (off : W48) (v mask : W64),
        (∀ t, writeReg off.toNat v mask true u = .done t → exec (.regwrite m off v mask) s = .next (milAnswered m 0x0011 0 [] t))
        ∧ (readReg u off.toNat = none → exec (.regwrite m off v mask) s = .next (milAnswered m 0x0011 9 [] (logEvent u evWriteIgnored scPackage 0 [off.toNat]))))
      ∧ (∀ (v : W64), 700 ≤ (v.extractLsb' 0 12).toNat → (v.extractLsb' 0 12).toNat ≤ variantCap s.part.variant →
        ∃ t, exec (.capWWrite m v (maskAt 0 12)) s = .next (milAnswered m 0x0011 0 [] t) ∧ t.pwr = { s.pwr with capW := (v.extractLsb' 0 12).toNat } ∧ t.mem = s.mem)
      ∧ (∀ (v : W64), ((v.extractLsb' 0 12).toNat < 700 ∨ variantCap s.part.variant < (v.extractLsb' 0 12).toNat) →
        ∃ t, exec (.capWWrite m v (maskAt 0 12)) s = .next (milAnswered m 0x0011 3 [] t) ∧ t.pwr = s.pwr ∧ t.mem = s.mem)
      ∧ (∀ on, exec (.paceEnWrite m on) s = .next (milAnswered m 0x0011 0 [] (setPace on u)) ∧ (setPace on u).pwr.paceEn = on)
      ∧ (∃ t, exec (.estClear m) s = .next (milAnswered m 0x0011 0 [] t) ∧ t.pwr = { s.pwr with ceilCode := variantCeil s.part.variant, estFault := false }
          ∧ t.mem = s.mem)
      ∧ (∀ (p : Fin 16), raceEnabled s (2 * p.val) = true → (s.race (2 * p.val)).state = .attested → (s.race (2 * p.val + 1)).state = .off →
        ∃ t, exec (.retrain m p) s = .next (milAnswered m 0x0011 0 [] t) ∧ (t.race (2 * p.val)).state = .retraining
          ∧ (t.race (2 * p.val)).wide = true ∧ (t.racePort p).retrains = satAdd (s.racePort p).retrains 1 65535 ∧ t.mem = s.mem)
      ∧ (s.pair.pairEn = true → exec (.takeover m) s = .next (milAnswered m 0x0011 0 [] (takeOver u)))
      ∧ (s.pair.pairEn = true → s.pair.phase ≠ .off → s.pair.phase ≠ .left →
        exec (.leave m) s = .next (milAnswered m 0x0011 0 [] (leavePair 2 u))))
  ∧ (∀ (s : State),
      (∀ (off : W48), exec (.rcRegisterRead off) s = .next (clearRc s off.toNat) ∧ (rcMask off.toNat = 0 → clearRc s off.toNat = s))
      ∧ (exec (.rcRegisterRead 0xA00050) s = .next { s with mm := { s.mm with ce := 0, ue := 0, keepOvf := 0 } })
      ∧ (∀ (c : Fin 32) (v : W64),
        (stepOpen s c = false → ∃ t, exec (.edLscaleWrite c v (maskAt 0 64)) s = .next t ∧ t.mem = s.mem ∧ t.ctx c = { s.ctx c with
            lscale := { lscaleOf v with goodRun := (s.ctx c).lscale.goodRun } })
        ∧ (stepOpen s c = true → exec (.edLscaleWrite c v (maskAt 0 64)) s
            = .next (logEvent s evWriteIgnored scPackage 0 [0x300800 + 8 * c.val])))
      ∧ (∀ (v : W64) (miller : Bool),
        ((v.extractLsb' 0 16).toNat ≠ 0 → exec (.registerWrite 0x400008 v (maskAt 0 64) miller) s
          = .next { s with galley := { s.galley with periodMs := (v.extractLsb' 0 16).toNat } })
        ∧ exec (.registerWrite 0xA00048 v (maskAt 0 64) miller) s
          = .next { s with mm := { s.mm with reserveNext := (v.extractLsb' 0 8).toNat } })
      ∧ (∀ (off : W48) (v mask : W64) (miller : Bool),
        (∀ t : State, (readReg s off.toNat).isSome = true → writeBlock off.toNat v mask miller s = some t → exec (.registerWrite off v mask miller) s = .next t)
        ∧ ((readReg s off.toNat).isSome = true → writeBlock off.toNat v mask miller s = none →
          exec (.registerWrite off v mask miller) s = .next (logEvent s evWriteIgnored scPackage 0 [off.toNat]))
        ∧ (readReg s off.toNat = none → exec (.registerWrite off v mask miller) s = .next (logEvent s evWriteIgnored scPackage 0 [off.toNat]))
        ∧ (off.toNat / 2 ^ 20 = 0 → miller = false → (readReg s off.toNat).isSome = true →
          exec (.registerWrite off v mask false) s = .next (logEvent s evWriteIgnored scPackage 0 [off.toNat]))))

/-- ADMIT, END, QUIESCE, RESUME, FRISKET, SCRUB, GUEST_SCRUB_CONFIRM and GUEST_ACCESS (R42 to R47, R441 to R446, R450, R455 to R457). An admission
that passes every check starts the job with fresh counters and a pending scrub. END unloads every context, erases the key slot and starts
the scrub; the scrub leaves no byte, no table and no job behind and writes its record. -/
def Obligations.JobsStartAndEnd : Prop :=
  ∀ (s : State) (m : MilHdr), isReady s = true → s.board.haltedByClock = false →
    (∀ (b : Bundle), MilTurn s m 0x0030 (if s.sec.frisket.keypol.getLsbD 0 then .both else .operator) → s.sec.phase = .noJob → s.boot.listFull = false →
      (bundleOk s b = true → b.kcvOk = true →
        ∃ t, exec (.admission m b) s = .next (milAnswered m 0x0030 0 [] t) ∧ t.sec.phase = .admitted ∧ t.sec.jobId = b.jobId ∧ t.sec.seed = b.seed
          ∧ t.sec.members = b.members ∧ t.sec.keySlot = true ∧ t.sec.scrubPending = true ∧ t.mem = s.mem)
      ∧ (bundleOk s b = false → ∃ t, exec (.admission m b) s = .next (milAnswered m 0x0030 6 [3] t) ∧ t.sec.phase = .noJob
          ∧ t.sec.admitRefused = satAdd s.sec.admitRefused 1 65535 ∧ t.mem = s.mem)
      ∧ (bundleOk s b = true → b.kcvOk = false → ∃ t, exec (.admission m b) s = .next (milAnswered m 0x0030 5 [4] t) ∧ t.sec.phase = .noJob
          ∧ t.sec.keySlot = false ∧ t.mem = s.mem))
    ∧ (MilTurn s m 0x0031 .either →
      (s.sec.phase = .admitted → ∃ t, exec (.endJob m) s = .next (milAnswered m 0x0031 1 [] t) ∧ t.sec.phase = .scrubbing ∧ t.sec.keySlot = false
        ∧ t.sec.jobId = 0 ∧ t.pair.phase = .off ∧ t.mil.holds = [])
      ∧ (s.sec.phase ≠ .admitted → exec (.endJob m) s = .next (milAnswered m 0x0031 3 [] (takeRequest m s))))
    ∧ (∀ (mask : W32), MilTurn s m 0x0032 .operator → exec (.quiesce m mask) s = .next (milAnswered m 0x0032 0 []
        (((maskCtxs mask).filter (fun c => (s.ctx c).state == .running)).foldl (holdCtx 16) (takeRequest m s))))
    ∧ (∀ (mask : W32), MilTurn s m 0x0033 .operator → ∃ t, exec (.resume m mask) s = .next (milAnswered m 0x0033 0 [] (settle (wakeAllRounds t)))
        ∧ t.mil.holds = ((maskCtxs mask).foldl resumeHeld (takeRequest m s)).mil.holds)
    ∧ (∀ (f : FrisketRec), MilTurn s m 0x0040 .both → frisketCheck s m f true = 0 →
      (s.sec.phase = .noJob → s.sec.scrubPending = false → ∃ t, exec (.frisket m f true) s = .next (milAnswered m 0x0040 0 [] t)
        ∧ t.sec.frisket = f ∧ t.sec.pendingFrisket = none ∧ t.mem = s.mem)
      ∧ (s.sec.phase = .admitted → ∃ t, exec (.frisket m f true) s = .next (milAnswered m 0x0040 0 [] t)
        ∧ t.sec.frisket = s.sec.frisket ∧ t.sec.pendingFrisket = some f ∧ t.mem = s.mem))
    ∧ (∀ (us : W32), s.sec.phase = .scrubbing → s.sec.guestWait = false → s.sec.heldAdmit = none → s.mm.retiring = [] →
      ∃ t, exec (.scrub [] [] [] [] us) s = .next t ∧ t.mem = [] ∧ t.mm.imp = [] ∧ t.pool = [] ∧ t.flumes = [] ∧ t.shards = [] ∧ t.sec.phase = .noJob
        ∧ t.sec.scrubPending = false ∧ t.sec.scrub.result = (if s.boot.stage = 5 then 2 else 0) ∧ t.sec.scrub.jobId = s.sec.endedJob
        ∧ t.sec.scrub.verifyFail = 0 ∧ t.sec.scrub.framesRetired = 0 ∧ ∀ q, (t.quern q).lanes = [])
    ∧ (s.sec.guestWait = true → ∀ ok, ∃ t, exec (.guestScrubConfirm ok) s = .next t ∧ t.sec.guestWait = false
        ∧ t.sec.guestResult = (if ok then 1 else 2) ∧ t.mem = s.mem)
    ∧ (∀ (a : W48) (bytes : List W8), s.part.guestBuild = true → a.toNat + bytes.length ≤ 2 ^ 39 →
      (guestWindow s false a.toNat bytes.length = true → rangeErr (readErr s) a.toNat bytes.length = none →
        exec (.guestAccess false a bytes) s = .next (s.emit (.guestData (readBytes s a.toNat bytes.length))))
      ∧ (guestWindow s true a.toNat bytes.length = true → ∀ t : State, writeMem s (cellsAt a.toNat bytes) = (t, none) →
        exec (.guestAccess true a bytes) s = .next (t.emit (.guestData [])))
      ∧ (guestWindow s false a.toNat bytes.length = false → ∃ t : State, exec (.guestAccess false a bytes) s = .next (t.emit .guestError)
          ∧ t.mem = s.mem ∧ t.ctxs = s.ctxs ∧ t.sec.guestDenied = satAdd s.sec.guestDenied 1 65535))

/-! ### Firmware and calibration -/

/-- FWDATA, FWSTATUS, FWREPAIR, FWSTAGE, FWACTIVATE, RESTART, RECAL, its end and its abort (R372, R373, R452, R480, R481, R501). A first block starts a
staging; the last one has the image verified. A verified staged image goes into the inactive slot of its kind. A re-calibration stages its
set only when it passes and every Stone paces; otherwise the old values stay; the end of the copy puts the staged set in force. -/
def Obligations.FirmwareAndCalibration : Prop :=
  ∀ (s : State),
    (∀ (p : Fin 2) (d : Datagram) (id blk blks : W32) (bytes : List W8) (img : FwImage), portHears s p = true → packetOk s p true d = true →
      d.crcOk = true → isReady s = true → s.sec.frisket.keypol.getLsbD 1 = true →
      blk.toNat < blks.toNat → blks.toNat ≤ 65536 → recalRuns s = false → s.boot.staging = none →
      (1 < blks.toNat → ∃ t, exec (.fwdata p d id blk blks true false bytes img) s = .next t ∧ t.mem = s.mem
        ∧ t.boot.staging = some { fromPort := true, imageId := id, blocks := blks.toNat, have_ := [blk.toNat], data := [(blk.toNat, bytes)], img := img,
                                  verified := none, idle := false })
      ∧ (blks.toNat = 1 → ∃ t x, exec (.fwdata p d id blk blks true false bytes img) s = .next t ∧ t.mem = s.mem ∧ t.boot.staging = some x
        ∧ x.verified = some (if img.sigOk = false then 2 else if img.secver < s.sec.frisket.fwFloor then 3 else 1))
      ∧ exec (.fwdata p d id blk blks true true bytes img) s = .next s)
    ∧ (∀ x, s.boot.staging = some x →
      (∃ t, exec .firmwareStagingIdle s = .next t ∧ t.boot.staging = some { x with idle := true } ∧ t.mem = s.mem)
      ∧ (∀ (p : Fin 2) (d : Datagram), portHears s p = true → packetOk s p true d = true → d.crcOk = true → isReady s = true → 1104 ≤ d.udpLen →
        x.fromPort = true →
        (∀ k, x.verified = some k → exec (.fwstatus p d x.imageId) s = .next (rateReply s p d.src (.fwstatus p d.src k)))
        ∧ (x.verified = none → ∃ t, exec (.fwstatus p d x.imageId) s = .next t ∧ (t.host p).fwQueries = (s.host p).fwQueries ++ [d.src]
            ∧ t.mem = s.mem))
      ∧ (∀ (p : Fin 2) dst rest b bs, s.board.haltedByClock = false → (s.host p).fwQueries = dst :: rest → x.verified = none → x.missing = b :: bs →
        ∃ t, exec (.fwrepair p) s = .next (rateReply t p dst (.fwrepair p dst x.imageId.toNat (b / 8192 * 8192) (bs.length + 1)
            ((b :: bs).filter (fun k => decide (k < b / 8192 * 8192 + 8192))))) ∧ (t.host p).fwQueries = rest ∧ t.mem = s.mem))
    ∧ (∀ (m : MilHdr) (img : FwImage), MilTurn s m 0x0050 .operator → recalRuns s = false → s.boot.staging = none →
      (img.sigOk = true → ¬ img.secver < s.sec.frisket.fwFloor → ∃ t x, exec (.fwstage m img) s = .next (milAnswered m 0x0050 0 [] t)
        ∧ t.boot.staging = some x ∧ x.img = img ∧ x.verified = some 1 ∧ t.mem = s.mem)
      ∧ (img.sigOk = false → ∃ t, exec (.fwstage m img) s = .next (milAnswered m 0x0050 5 [2] t) ∧ t.boot.staging = none ∧ t.mem = s.mem))
    ∧ (∀ (m : MilHdr) (kind : FwKind) (x : Staging), MilTurn s m 0x0051 .operator → isReady s = true → s.sec.phase = .noJob → s.sec.scrubPending = false →
      s.boot.staging = some x → x.verified = some 1 → x.img.kind = kind →
      ∃ t, exec (.fwactivate m kind) s = .next (milAnswered m 0x0051 1 [] t) ∧ t.boot.staging = none
        ∧ t.boot.fw = s.boot.fw.set (fwIndex kind) ((s.boot.fw.getD (fwIndex kind) {}).install x.img) ∧ t.mem = s.mem)
    ∧ (∀ (m : MilHdr), MilTurn s m 0x0052 .operator →
      (s.sec.phase = .noJob → s.sec.scrubPending = false → ∃ t, exec (.restart m) s = .next (milAnswered m 0x0052 1 [] t) ∧ t.boot.stage = 0
        ∧ t.boot.bootNo = s.boot.bootNo + 1 ∧ t.mem = [])
      ∧ (s.sec.phase = .admitted → exec (.restart m) s = .next (milAnswered m 0x0052 3 [] (takeRequest m s))))
    ∧ (∀ (m : MilHdr), MilTurn s m 0x0041 .both → s.sec.phase = .noJob → s.sec.scrubPending = false → recalRuns s = false → isReady s = true →
      s.boot.staging = none →
      ∃ t, exec (.recal m s.part.serial) s = .next (milAnswered m 0x0041 1 [] t) ∧ t.boot.calPhase = 1 ∧ isReady t = false ∧ t.mem = s.mem)
    ∧ (∀ (m : MilHdr), MilTurn s m 0x0042 .either → 1 ≤ s.boot.calPhase → s.boot.calPhase ≤ 3 →
      ∃ t, exec (.recalabort m) s = .next (milAnswered m 0x0042 0 [] t) ∧ t.boot.calPhase = 0 ∧ t.boot.calResult = 3 ∧ t.pwr = s.pwr ∧ t.mem = s.mem)
    ∧ (∀ (pass : Bool) (x : CalSet), recalRuns s = true →
      (∀ ph : Fin 6, ph.val < 4 → s.boot.calPhase < ph.val →
        exec (.recalDone ph pass x) s = .next { s with boot := { s.boot with calPhase := ph.val } })
      ∧ (s.boot.calStaged = none →
        (exec (.recalDone 4 false x) s = .next { s with boot := { s.boot with calPhase := 5, calResult := 2, calDelta := x.deltaPermil } })
        ∧ ((∀ n < 4, recalPaces s n (x.ts.getD n []) (x.k.getD n []) = true) → ∃ t, exec (.recalDone 4 true x) s = .next t ∧ t.boot.calPhase = 4
          ∧ t.boot.calStaged = some x ∧ t.pwr = s.pwr ∧ t.mem = s.mem))
      ∧ (∀ y, s.boot.calStaged = some y → ∃ t, exec (.recalDone 5 pass x) s = .next t ∧ t.boot.calResult = 1 ∧ t.boot.calPhase = 5
        ∧ t.boot.calStaged = none ∧ t.boot.stage = 3 ∧ t.mem = s.mem
        ∧ ∀ n < 4, (t.stone n).ts = y.ts.getD n [] ∧ (t.stone n).k = y.k.getD n [] ∧ (t.stone n).trims = 0
            ∧ (t.stone n).agePermil = (s.stone n).agePermil))

/-! ### Power and heat -/

/-- The controller, the throttle, the estimator, ageing and delay settings (R414, R416 to R424, R429). A period sets the target that the ladder gives
for the learned coefficients; an average above 1.1 × CAP_W raises the target by 5 % at once; an estimate above 1.2 × CAP_W throttles
every Stone by 1 to 15 steps of 16, one below 1.1 × CAP_W ends that; the 51st window of disagreement lowers the ceiling by a row. -/
def Obligations.PowerIsControlled : Prop :=
  ∀ (s : State),
    (∀ (fixedW : Nat) (w : List Nat), liveStones s ≠ [] → (∀ n ∈ liveStones s, (s.stone n).temp ≤ 100) →
      ∃ u, exec (.controllerPeriod fixedW w) s = .next (applyTarget (ladder u fixedW 400 (tMin u)) u) ∧ u.pwr.hotSteps = 0 ∧ u.pwr.basis = none
        ∧ u.pwr.fixedW = fixedW ∧ u.pwr.energyUj = s.pwr.energyUj + (fixedW + w.sum) * 100 ∧ u.mem = s.mem
        ∧ ∀ n ∈ liveStones s, (u.stone n).powerW = w.getD n 0)
    ∧ (∀ (avg : Nat), (avg * 10 ≤ s.pwr.capW * 11 → exec (.regulatorReading avg) s = .next s)
      ∧ (s.pwr.capW * 11 < avg * 10 → liveStones s ≠ [] → exec (.regulatorReading avg) s = .next (applyTarget ((s.pwr.tsTarget : Rat) * 21 / 20)
          { s with pwr := { s.pwr with basis := some avg, capLimited := true } })))
    ∧ (∀ (w : List Nat), s.pwr.basis = none → s.pwr.railLost = [] → s.pwr.estFault = false →
      ((w.sum + s.pwr.fixedW) * 10 < s.pwr.capW * 11 → ∃ t, exec (.throttleEstimate w) s = .next t ∧ t.mem = s.mem
        ∧ ∀ n ∈ liveStones s, (t.stone n).throttle = (if (s.stone n).hot then 15 else 0))
      ∧ (s.pwr.capW * 12 < (w.sum + s.pwr.fixedW) * 10 → ∃ t, exec (.throttleEstimate w) s = .next t ∧ t.mem = s.mem
        ∧ ∀ n ∈ liveStones s, 1 ≤ (t.stone n).throttle ∧ (t.stone n).throttle ≤ 15))
    ∧ (∀ (est meas : Nat), est ≤ meas →
      ((meas - est) * 100 ≤ meas * 15 → ∃ t, exec (.estimatorFault est meas) s = .next t ∧ t.pwr.disagreeRun = 0 ∧ t.pwr.estFault = s.pwr.estFault
        ∧ t.pwr.ceilCode = s.pwr.ceilCode ∧ t.mem = s.mem)
      ∧ (meas * 15 < (meas - est) * 100 → s.pwr.disagreeRun = 50 → ∃ t, exec (.estimatorFault est meas) s = .next t ∧ t.pwr.disagreeRun = 0
        ∧ t.pwr.estFault = true ∧ t.pwr.estFaults = satAdd s.pwr.estFaults 1 255 ∧ t.pwr.ceilCode = max 20 (s.pwr.ceilCode - 10) ∧ t.mem = s.mem))
    ∧ (∀ (st : List Int) (spur : Int) (bins : List Int), ∃ u, exec (.temperatureSample st spur bins) s = .next (pacedNow (settle u)) ∧ u.mem = s.mem
        ∧ ∀ n < 4, (u.stone n).temp = st.getD n 0 ∧ (105 ≤ st.getD n 0 → (u.stone n).throttle = 15))
    ∧ (∀ (n : Fin 4) (row : Fin 15), s.boot.stonesEn.getLsbD n = true →
      ((s.stone n).row ≠ row → exec (.delaySettingChange n row) s = .next (s.setStone n { s.stone n with row := row, hold := (s.stone n).hold + 64 }))
      ∧ (∀ (ts : W16), ∃ t, exec (.ageingSample n row true ts) s = .next t ∧ (t.stone n).tsRef = ts ∧ (t.stone n).hold = (s.stone n).hold + 64
          ∧ (t.stone n).taps = (s.stone n).taps.set row ((s.stone n).taps.getD row 0 + 1) ∧ (t.stone n).trims = satAdd (s.stone n).trims 1 255
          ∧ (t.stone n).ts = (s.stone n).ts ∧ t.mem = s.mem))

/-! ### Faults -/

/-- Stones and Querns fail and return (R36, R387, R388, R391, R392, R469, R494, R502, R520). The eighth unanswered probe, a brown-out and a request fence
a Stone; its recovery with at least 32 good Querns loads them afresh and answers 0; one whose rail stays down degrades the package and
answers 3. A spare takes the number of a faulty Quern. A Miller watchdog reset keeps the job key and forgets what only its firmware held. -/
def Obligations.StonesAndQuernsFail : Prop :=
  ∀ (s : State) (n : Fin 4),
    (s.board.haltedByClock = false → s.boot.stonesEn.getLsbD n = true → (s.stone n).fenced = false →
      exec (.stoneProbe n true) s = .next (s.setStone n { s.stone n with probesMissed := 0 })
      ∧ ((s.stone n).probesMissed + 1 < 8 → exec (.stoneProbe n false) s = .next (s.setStone n { s.stone n with probesMissed := (s.stone n).probesMissed + 1 }))
      ∧ (8 ≤ (s.stone n).probesMissed + 1 → exec (.stoneProbe n false) s = .next (stopStone n [] s))
      ∧ (∀ q, q / 32 = n.val → q < 128 → ((stopStone n [] s).quern q).fenced = true))
    ∧ ((s.stone n).vcode ≠ 0 → exec (.brownOut n) s = .next (stopStone n [1] s))
    ∧ (∀ (m : MilHdr), MilTurn s m 0x0034 .operator → isReady s = true → s.boot.stonesEn.getLsbD n = true → Tbl.find? s.mil.awaitStone n = none →
      ∃ t, exec (.stonereset m n) s = .next t ∧ Tbl.find? t.mil.awaitStone n = some m)
    ∧ (s.board.haltedByClock = false → (s.stone n).fenced = true →
      (∀ (o : RestartOutcome), o.railUp = true → o.loadOk = true → (∀ i ∈ okQuerns s n, o.pass.getD i false = true) → 32 ≤ (okQuerns s n).length →
        ∃ u, exec (.stoneRecovery n o) s = .next (answerStone n 0 (settle (wakeAllReds ((stoneQuerns n).foldl
            (fun s q => recoverCause false (quernCause q) s) (recoverCause false (stoneCause n) u)))))
          ∧ (u.stone n).fenced = false ∧ u.pool = s.pool ∧ u.ctxs = s.ctxs ∧ ∀ q ∈ stoneQuerns n, u.quern q = { loaded := true })
      ∧ (∀ (o : RestartOutcome), o.railUp = false → exec (.stoneRecovery n o) s = .next (answerStone n 3 (degradeStone n 3 s))))
    ∧ (∀ (q : Fin 128) (old : Nat), s.board.haltedByClock = false → q.val / 32 = n.val → Tbl.find? s.boot.quernMap q = some old →
      (s.stone n).fenced = false →
      exec (.quernFault q .corrected) s = .next { s with mm := { s.mm with ce := satAdd s.mm.ce 1 0xFFFFFFFF } }
      ∧ ((s.quern q).fenced = false →
        (∀ i, spareOf (fenceQuern q old s) n = some i → exec (.quernFault q .spareOk) s = .next (substitute q old i (fenceQuern q old s)))
        ∧ (spareOf (fenceQuern q old s) n = none → ∀ o ≠ QuernOutcome.corrected,
            exec (.quernFault q o) s = .next (degradeStone n 3 (fenceStone n (fenceQuern q old s))))))
    ∧ (s.mil.mstate = 1 → ∃ t, t.sec.keySlot = s.sec.keySlot ∧ t.mil.wdogResets = satAdd s.mil.wdogResets 1 255 ∧ t.mil.subs = [] ∧ t.mil.keyOwner = false
      ∧ t.mil.keyOperator = false ∧ t.mil.lastOwner = 0 ∧ t.pwr = s.pwr ∧ t.mem = s.mem
      ∧ exec (.millerWatchdogReset true) s = .next ((allCtxs t).foldl (haltFor 17) t)
      ∧ exec (.millerWatchdogReset false) s = .next (settle ((runningCtxs s).foldl (fun s c => resumeCtx (drainCtx s c) c) t)))

/-- Lost and failing memory (R33, R225, R238 to R245). An uncorrectable granule marks the page that its frame backs, counts it, and puts the frame
on the list of those to be retired; an entry of one copy of the Imposition table that fails is repaired from the other; migration moves
every readable byte to a reserve frame, chunk by chunk, and retires the old one; a failed row takes one of the eight spares of its bank; a
clean Store line that fails is dropped and its way remembered; a failed bond takes one of 32 spares. -/
def Obligations.MemoryFailsAndMoves : Prop :=
  ∀ (s : State), s.board.haltedByClock = false →
    (∀ (page : BitVec 19) (r : Reader), let p := page.toNat
      (∀ (g : BitVec 14), (s.page p).state = .mapped → pagesOf s (s.page p).frame = [p] → s.mm.unreadable.length < 256 →
        (s.page p).frame ∉ s.mm.retiring → (s.page p).frame ∉ s.mm.retired →
        ∃ t, exec (.uncorrectableError page (.granule g) r) s = .next (overlapping true s (haltReader t p r)) ∧ (t.page p).state = .damaged
          ∧ g.toNat ∈ t.badGranules p ∧ t.mm.ue = satAdd s.mm.ue 1 65535 ∧ (s.page p).frame ∈ t.mm.retiring ∧ t.mem = s.mem)
      ∧ (∀ (g : BitVec 14), backed s p = true → ∃ t, exec (.uncorrectableError page (.corrected g) r) s = .next t
        ∧ t.mm.ce = satAdd s.mm.ce 1 0xFFFFFFFF ∧ t.mem = s.mem)
      ∧ (∃ t, exec (.uncorrectableError page (.entry false) r) s = .next t ∧ t.page p = s.mm.impB.getD p {} ∧ t.mm.impB = s.mm.impB ∧ t.mem = s.mem)
      ∧ (∃ t, exec (.uncorrectableError page (.entry true) r) s = .next t ∧ t.mm.impB.getD p {} = s.page p ∧ t.mm.imp = s.mm.imp ∧ t.mem = s.mem)
      ∧ (pairMode s = false → exec (.uncorrectableError page .entryBoth r) s = .next ((allCtxs s).foldl haltCtx s)))
    ∧ (∀ (page : BitVec 19) (f g : Nat), let p := page.toNat
      Memory.wf s.mem = true → (s.page p).state = .damaged → (s.page p).frame = f → pagesOf s f = [p] → f ∈ s.mm.retiring →
      f ∉ s.mm.retired → s.mm.migr.find? f = none → reserveFrame s (f / 131072) = some g → g ≠ f →
      (∃ t, exec (.pageMigration page 256 []) s = .next (recoverPages [p] t) ∧ (t.page p).frame = g ∧ f ∈ t.mm.retired ∧ f ∉ t.mm.retiring
        ∧ g ∉ t.mm.reserve ∧ (t.page p).state = (if s.badGranules p = [] then .mapped else .damaged)
        ∧ ∀ o < 2 ^ 20, Memory.get t.mem (g * 2 ^ 20 + o) = (if o / 64 ∈ s.badGranules p then 0 else Memory.get s.mem (f * 2 ^ 20 + o)))
      ∧ (∀ n : BitVec 9, n.toNat < 256 → ∃ t, exec (.pageMigration page n []) s = .next t ∧ (t.page p).state = .migrating ∧ (t.page p).frame = f
        ∧ ∀ o < 2 ^ 20, readByte t (p * 2 ^ 20 + o) =
            (if o / 4096 < n.toNat ∧ o / 64 ∈ s.badGranules p then 0 else readByte s (p * 2 ^ 20 + o))))
    ∧ (∀ (row : RowLoc), rowFrame row ∉ s.mm.retiring → rowFrame row ∉ s.mm.retired →
      (s.mm.sparesUsed.getD (bankKey row) 0 < 8 → ∃ t, exec (.rowRemap row none) s = .next (overlapping false s t) ∧ t.mem = s.mem ∧ t.mm.imp = s.mm.imp
        ∧ t.mm.sparesUsed.getD (bankKey row) 0 = s.mm.sparesUsed.getD (bankKey row) 0 + 1 ∧ t.mm.retiring = s.mm.retiring)
      ∧ (8 ≤ s.mm.sparesUsed.getD (bankKey row) 0 → pagesOf s (rowFrame row) ≠ [] →
        ∃ t, exec (.rowRemap row none) s = .next (overlapping false s t) ∧ t.mem = s.mem ∧ t.mm.retiring = s.mm.retiring ++ [rowFrame row]))
    ∧ (∀ (page : BitVec 19) (g : BitVec 14) (way : Fin 16) (r : Reader), backed s page.toNat = true →
      let l := frameAt s (s.page page.toNat) (g.toNat * 64) * 2048 + g.toNat / 8
      let key := storeSet l * 16 + way.val
      (∃ t, exec (.storeUncorrectable page g way .corrected r) s = .next t ∧ t.mm.ce = satAdd s.mm.ce 1 0xFFFFFFFF ∧ t.mm.lines = s.mm.lines
        ∧ t.mem = s.mem)
      ∧ (key ∉ s.mm.waysHit → ∃ t, exec (.storeUncorrectable page g way .clean r) s = .next t ∧ Tbl.find? t.mm.lines l = none
        ∧ t.mm.waysHit = s.mm.waysHit ++ [key] ∧ t.mm.ue = satAdd s.mm.ue 1 65535 ∧ t.mm.waysOff = s.mm.waysOff ∧ t.mem = s.mem)
      ∧ (key ∈ s.mm.waysHit → ∃ t, exec (.storeUncorrectable page g way .clean r) s = .next (overlapping false s t)
        ∧ (storeSet l, way.val) ∈ t.mm.waysOff ∧ t.mem = s.mem)
      ∧ (∃ t, exec (.storeUncorrectable page g way .dirty r) s = .next (overlapping false s t) ∧ (storeSet l, way.val) ∈ t.mm.waysOff))
    ∧ (∀ (frame : BitVec 19), exec (.patrolRead frame [] none) s = .next s
      ∧ (pagesOf s frame.toNat ≠ [] → ∀ g : BitVec 14, (∃ t, exec (.patrolRead frame [g] none) s = .next t ∧ t.mm.ce = satAdd s.mm.ce 1 0xFFFFFFFF ∧ t.mem = s.mem)
        ∧ exec (.patrolRead frame [] (some g)) s = .next (overlapping true s (damageFrame frame.toNat (framePage s frame.toNat) g.toNat s))))
    ∧ (∀ (l : BondLoc), l.group < siteGroups l.site → groupKey l.site l.group ∉ s.boot.groupsOff →
      let k := groupKey l.site l.group
      (s.boot.sparesUsed.getD k 0 < 32 → ∃ t, exec (.bondFailure l) s = .next (bondConsequence l.site t)
        ∧ t.boot.sparesUsed.getD k 0 = s.boot.sparesUsed.getD k 0 + 1 ∧ t.boot.groupsOff = s.boot.groupsOff ∧ t.mem = s.mem)
      ∧ (32 ≤ s.boot.sparesUsed.getD k 0 → ∃ t, exec (.bondFailure l) s = .next (bondConsequence l.site t)
        ∧ t.boot.groupsOff = s.boot.groupsOff ++ [k] ∧ t.mem = s.mem))

/-! ### Board -/

/-- Power-good, standby power, thermal trip, rail monitors, boundary scan (R459, R513 to R516, R526, R529). The loss of PWRGOOD, a rail monitor's
trip and a boundary scan reset every die and empty memory, and CONTROL goes low; PWRGOOD starts bring-up at its first stage with the next
boot number. A thermal trip switches every Stone rail off. -/
def Obligations.PowerComesAndGoes : Prop :=
  ∀ (s : State),
    (s.board.pwrgood = false → s.board.thermtrip = false → s.board.scan = false → ∃ t, exec .pwrgoodAssert s = .next t ∧ t.board.pwrgood = true
      ∧ t.boot.stage = 0 ∧ t.boot.bootNo = s.boot.bootNo + 1 ∧ t.timeNs = 0 ∧ t.mil.mstate = 0 ∧ t.mem = s.mem)
    ∧ (s.board.pwrgood = true →
      (∃ t, exec .pwrgoodDeassert s = .next t ∧ t.board.pwrgood = false ∧ t.board.control = false ∧ t.mem = [] ∧ t.ctxs = [] ∧ t.querns = []
        ∧ t.sec.phase = .noJob ∧ t.sec.keySlot = false ∧ t.sec.scrubPending = s.sec.scrubPending ∧ t.sec.frisket = s.sec.frisket
        ∧ t.boot.bootNo = s.boot.bootNo ∧ t.boot.defects = s.boot.defects)
      ∧ (∀ rail, ∃ t, exec (.railMonitorTrip rail) s = .next t ∧ t.board.pwrgood = false ∧ t.board.control = false ∧ t.mem = [] ∧ t.ctxs = []
        ∧ t.sec.scrubPending = s.sec.scrubPending))
    ∧ (s.board.scan = false → s.board.vstby = true → ∀ clamp, ∃ t, exec (.boundaryScan clamp) s = .next t ∧ t.board.scan = true ∧ t.board.control = false
        ∧ t.mem = [] ∧ t.ctxs = [])
    ∧ (s.board.scan = true → ∃ t, exec .testLogicReset s = .next t ∧ t.board.scan = false
        ∧ (s.board.pwrgood = true → t.boot.stage = 0 ∧ t.boot.bootNo = s.boot.bootNo + 1))
    ∧ (s.board.thermtrip = false → s.board.vstby = true → ∃ t, exec .thermtrip s = .next t ∧ t.board.thermtrip = true ∧ t.board.control = false
        ∧ (∀ n, (t.stone n).vcode = 0) ∧ t.mem = s.mem)
    ∧ (s.board.thermtrip = true → exec .thermtripRelease s
        = .next ({ s with board := { s.board with thermtrip := false } }.emit (.thermtrip false)))
    ∧ (∃ t, exec .vstbyLoss s = .next t ∧ t.board.vstby = false ∧ t.board.pwrgood = false ∧ t.mem = [] ∧ t.timeNs = 0 ∧ t.sec.frisket = s.sec.frisket
        ∧ t.boot.defects = s.boot.defects ∧ t.mil.flashRing = s.mil.flashRing ∧ t.mil.ring = [] ∧ t.board.freset = true ∧ t.board.fwp = true)

/-- The reference clocks, the power buses, the Miller's crystal and the debug port (R37, R396, R451, R516, R519, R522). A lost reference halts every
loaded context; a resume that the Bins outlived recovers them, another leaves every page behind a frame LOST. ALERT reads every
controller. A debug instruction acts only where DEBUG permits it. -/
def Obligations.ClocksAndBuses : Prop :=
  ∀ (s : State),
    (∀ (k : Fin 4), s.board.haltedByClock = false → s.board.pwrgood = true →
      ∃ t : State, exec (.referenceClockLoss k) s = .next ((t.querns.map (·.1)).foldl cancelMoves ((allCtxs t).foldl (haltFor clockCause) t))
        ∧ t.board.haltedByClock = true ∧ t.board.refclk.getLsbD k = false ∧ t.ctxs = s.ctxs ∧ t.mem = s.mem)
    ∧ (s.board.haltedByClock = true → (∀ q, exec (.programComplete q) s = .next s) ∧ (∀ q st i, exec (.cwait (.quern q st) i) s = .next s)
      ∧ (∀ n b, exec (.stoneProbe n b) s = .next s) ∧ (∀ p d, exec (.discover p d) s = .next s))
    ∧ (s.board.haltedByClock = true →
      (∃ t, exec (.referenceClockResume true false) s = .next (settle (wakeAllReds (logEvent (recoverCause true clockCause t) evClockResume scPackage 0 [1])))
        ∧ t.board.intact = true ∧ t.mm.imp = s.mm.imp ∧ t.mem = s.mem)
      ∧ (s.pair.phase = .off → ∀ within lapse, (within && !lapse) = false → ∃ t, exec (.referenceClockResume within lapse) s = .next t
        ∧ t.board.intact = false ∧ ∀ p, (s.page p).state = .mapped ∨ (s.page p).state = .damaged ∨ (s.page p).state = .migrating →
            (t.page p).state = .lost))
    ∧ (∀ rail, exec (.pmbusFailure (.telemetry rail)) s = .next (loseRail s rail) ∧ rail ∈ (loseRail s rail).pwr.railLost
      ∧ exec (.pmbusFailure (.restored rail)) s = .next { s with pwr := { s.pwr with railLost := s.pwr.railLost.filter (· != rail) } })
    ∧ (∀ (n : Fin 4), exec (.pmbusFailure (.setpoint n true)) s = .next (stopStone n [] (logEvent s evEstimatorFault scPackage 0 [n.val])))
    ∧ (∀ (st : List (Nat × W16)), ∃ t, exec (.alert st) s = .next t ∧ t.out = s.out ++ (controllers s).map (fun a => .pmbusRead a) ∧ t.mem = s.mem)
    ∧ (s.board.xin = true → ∃ t, exec .xinLoss s = .next t ∧ t.board.xin = false ∧ t.mil.link = false ∧ t.mil.ptpLocked = false
        ∧ (∀ r ∈ rails s, r ∈ t.pwr.railLost) ∧ t.mem = s.mem)
    ∧ (s.board.xin = false → ∃ t, exec .xinResume s = .next t ∧ t.board.xin = true ∧ t.pwr.railLost = [] ∧ t.mem = s.mem)
    ∧ (∀ (ir : W16), (debugPermitted s = true → exec (.debugInstruction ir) s = .next { s with sec := { s.sec with debugOpen := true } })
      ∧ (debugPermitted s = false → exec (.debugInstruction ir) s = .next (frisketViolation s [ir.toNat])))

/-! ### Bring-up -/

/-- The phases of bring-up in their order (R460, R461, R464 to R469, R473 to R477, R479). Each phase that passes moves STAGE on; the Spur's self-test
waits without a reference and fails on a fatal result; the fourth Bin ends the Bin test, with zero in the Bin's bytes; a Stone whose 34
Querns pass maps its 32 numbers onto the first 32; a package later than 3 s has failed. -/
def Obligations.BringUpRuns : Prop :=
  ∀ (s : State),
    (∀ (valid : List (FwKind × Bool × Bool)) (crc serial : Bool) (modes : List FlashMode) (recs : List Nat), s.board.pwrgood = true →
      s.boot.stage = 0 → s.mil.mstate = 0 → s.board.scan = false → s.boot.fw.length = 4 →
      (slotsPass s valid .miller ≠ (false, false) → ∃ t, exec (.millerBoot valid crc serial modes recs) s = .next t ∧ t.boot.stage = 1 ∧ t.mil.mstate = 1
        ∧ t.mil.lastOwner = 0 ∧ t.mil.lastOperator = 0 ∧ (s.boot.calStaged = none → t.boot.calInvalid = (!crc || !serial))
        ∧ t.boot.calStaged = none ∧ (recs = [] → t.boot.defects = s.boot.defects) ∧ t.board.freset = false
        ∧ (FlashMode.octalDtr ∈ modes → t.board.flashMode = .octalDtr) ∧ t.mem = s.mem)
      ∧ (slotsPass s valid .miller = (false, false) → ∃ t, exec (.millerBoot valid crc serial modes recs) s = .next t ∧ t.boot.stage = 0 ∧ t.mil.mstate = 2
        ∧ t.board.freset = false ∧ t.mem = s.mem))
    ∧ (s.boot.stage = 1 →
      (∀ fatal ways formes races hosts, ∃ t, exec (.spurSelfTest false fatal ways formes races hosts) s = .next t ∧ t.boot.stage = 1
        ∧ t.boot.clockWait = true ∧ t.mem = s.mem)
      ∧ (imageRuns s .spur = true → imageRuns s .serdes = true →
        ((s.host 0).disabled = false ∧ 16 ∉ markedUnits s 0x0C ∨ (s.host 1).disabled = false ∧ 17 ∉ markedUnits s 0x0C) →
        ∃ t, exec (.spurSelfTest true false [] [] [] []) s = .next t ∧ t.boot.stage = 2 ∧ t.boot.clockWait = false ∧ t.mem = s.mem)
      ∧ (∃ t, exec (.spurSelfTest true true [] [] [] []) s = .next t ∧ t.boot.stage = 15 ∧ t.boot.failStage = 1 ∧ t.mem = s.mem))
    ∧ (∀ (b : Fin 4), s.boot.stage = 2 → b.val ∉ s.boot.binsTested → groupsOffIn s (4 + b.val) < 8 →
      ∃ t, exec (.binTest b [] []) s = .next t ∧ t.boot.binsTested = s.boot.binsTested ++ [b.val] ∧ t.boot.binsEn.getLsbD b = true
        ∧ (Memory.wf s.mem = true → ∀ a, b.val * 2 ^ 37 ≤ a → a < (b.val + 1) * 2 ^ 37 → Memory.get t.mem a = 0)
        ∧ (s.boot.binsTested.length < 3 → t.boot.stage = 2)
        ∧ (3 ≤ s.boot.binsTested.length → t.boot.stage = if s.boot.calInvalid then 15 else 3))
    ∧ (∀ (n : Fin 4) (x : StoneTest), s.boot.stage = 3 → n.val ∉ s.boot.stonesTested → s.boot.physOk.length = 4 → groupsOffIn s n < 32 →
      n.val ∉ markedUnits s 2 → x.railUp = true → x.badGroups = [] →
      (∀ i < 34, x.pass.getD i false = true ∧ markedQuern s (physNo n i) = false) →
      ∃ t, exec (.stoneStartTest n x) s = .next t ∧ t.boot.stonesEn.getLsbD n = true ∧ t.boot.stonesTested = s.boot.stonesTested ++ [n.val] ∧ t.mem = s.mem
        ∧ (∀ i < 32, Tbl.find? t.boot.quernMap (n.val * 32 + i) = some (physNo n i))
        ∧ t.boot.stage = (if s.boot.stonesTested.length < 3 then 3 else 4))
    ∧ (s.boot.stage = 4 →
      (s.boot.broadcast = false → imageRuns s .quern = true →
        exec .firmwareBroadcast s = .next { s with boot := { s.boot with broadcast := true } })
      ∧ (s.boot.broadcast = true → ∃ t, exec (.broadcastRepair []) s = .next t ∧ t.boot.stage = (if s.sec.scrubPending then 5 else 6)
        ∧ ∀ m ∈ s.boot.quernMap, t.quern m.1 = { loaded := true }))
    ∧ (s.boot.stage = 6 → s.boot.linkDone = false →
      exec (.linkQualification []) s = .next { s with boot := { s.boot with linkDone := true } })
    ∧ (∀ (ms : BitVec 12), s.boot.stage = 6 → s.boot.linkDone = true →
      (ms.toNat ≤ 3000 → ∃ t, exec (.ready ms) s = .next t ∧ t.boot.readyMs = ms ∧ t.mem = s.mem
        ∧ t.boot.stage = (if s.boot.degraded = true ∨ s.boot.listFull = true then 8 else 7))
      ∧ (3000 < ms.toNat → s.boot.waited = false → exec (.ready ms) s = .next (failBringUp 6 s)))

/-! ### Pair mode -/

/-- The journal at the twin (R401 to R403). The record that is due is applied once and counted; one that meets an unmapped mirror page waits, with
event 0x0900; a malformed one ends the application. JWRITE stores its bytes in the mirror of its page. JACK releases what waited for the
records it names; the timer sends one. -/
def Obligations.JournalApplies : Prop :=
  (∀ (t : TwinHdr) (i : Instr),
    ((∃ v u b, i = .jwrite t v u b) ∨ (∃ r, i = .jimp t r) ∨ (∃ c b e g, i = .jentry t c b e g) ∨ (∃ f q o oq, i = .jpush t f q o oq)
      ∨ (∃ f q a b st, i = .jflume t f q a b st) ∨ (∃ a b c d e f g, i = .jed t a b c d e f g)
      ∨ (∃ a b c d e f g h, i = .jstep t a b c d e f g h) ∨ (∃ c p a b, i = .jpeer t c p a b)) →
    JournalRuns t i)
  ∧ (∀ (s : State) (t : TwinHdr) (v : BitVec 19) (k : BitVec 9) (bytes : List W8),
    (mirrorMapped s v.toNat = true → applyRecord s (.jwrite t v k bytes)
      = .done (storeBytes s (cellsAt ((262144 + v.toNat) * 2 ^ 20 + k.toNat * 2048) bytes)))
    ∧ (mirrorMapped s v.toNat = false → applyRecord s (.jwrite t v k bytes) = .unmapped v.toNat))
  ∧ (∀ (s : State) (t : TwinHdr) (s1 : State) (r : Fin 32) (n : W48), t.hdr.via = .race r → receive t.hdr (.jack t n) s = (s1, true) →
    isPairRace s1 r = true → pairActive s1 = true → s1.pair.ackJsn < n.toNat → n.toNat < s1.pair.nextJsn →
    exec (.jack t n) s = .next (released t.hdr s1 (runSessions (release n.toNat { s1 with pair := { s1.pair with
      ackJsn := n.toNat, sentJ := s1.pair.sentJ.filter (fun x => decide (n.toNat < x.1)) } }))))
  ∧ (∀ (s : State), s.board.haltedByClock = false → pairActive s = true → 0 < s.pair.sinceAck →
    exec .journalAckTimer s = .next (sendTwin { s with pair := { s.pair with sinceAck := 0 } } 8 [s.pair.applied] []))

/-- TWIN_LEAVE, ASSUME, RFETCH, RDATA and PAIR_HOLD_TIMEOUT (R402, R403, R406, R407, R409). A LEAVE takes over; an ASSUME from the attested twin of the
named member, above its recorded incarnation, is recorded, or fences the package that it names; RFETCH sends a readable unit; RDATA stores
it in a damaged page; when both pair Races stay down the package is isolated. -/
def Obligations.TwinsFail : Prop :=
  ∀ (s : State),
    (∀ (t : TwinHdr) (s1 : State) (r : Fin 32), t.hdr.via = .race r →
      (∀ why, receive t.hdr (.twinLeave t why) s = (s1, true) → isPairRace s1 r = true →
        exec (.twinLeave t why) s = .next (released t.hdr s1 (runSessions (takeOver s1))))
      ∧ (∀ (b : BitVec 12) (inc : W8), receive t.hdr (.assume t b inc) s = (s1, true) → (s1.race r).peer.map (·.1) = some t.hdr.member.toNat →
        paired s1 t.hdr.member.toNat b.toNat = true → recordedInc s1 b.toNat < inc.toNat →
        (b.toNat ≠ s1.sec.self → ∃ u, exec (.assume t b inc) s = .next (released t.hdr s1 (afterFlume (movePaths u b.toNat r)))
          ∧ recordedInc u b.toNat = inc.toNat ∧ (b.toNat, inc.toNat) ∈ (u.race r).assumed ∧ u.mem = s1.mem)
        ∧ (b.toNat = s1.sec.self → ∃ u, exec (.assume t b inc) s = .next (released t.hdr s1 u) ∧ u.pair.phase = .left))
      ∧ (∀ (v : BitVec 19) (k : BitVec 9) (mirror : Bool), receive t.hdr (.rfetch t v k mirror) s = (s1, true) → isPairRace s1 r = true →
        unitReadable s1 (fetchPage v.toNat mirror) k.toNat = true →
        exec (.rfetch t v k mirror) s
          = .next (released t.hdr s1 (sendTwin s1 0xC [v.toNat, k.toNat, mirror.toNat, 0] (unitBytes s1 (fetchPage v.toNat mirror) k.toNat))))
      ∧ (∀ (v : BitVec 19) (k : BitVec 9) (mirror bad : Bool) (bytes : List W8), receive t.hdr (.rdata t v k mirror bad bytes) s = (s1, true) →
        isPairRace s1 r = true →
        let p := if mirror then v.toNat else 262144 + v.toNat
        let u := storeBytes s1 (cellsAt (p * 2 ^ 20 + k.toNat * 2048) bytes)
        (bad = false → (s1.page p).state = .damaged → bytes.length = 2048 → (u.page p).state ≠ .mapped →
          exec (.rdata t v k mirror bad bytes) s = .next (released t.hdr s1 u))
        ∧ (bad = false → (s1.page p).state = .damaged → bytes.length = 2048 → (u.page p).state = .mapped →
          exec (.rdata t v k mirror bad bytes) s = .next (released t.hdr s1 (settle (wakeAllReds
            ((pagesOf s1 (s1.page p).frame).foldl (fun s p => releaseCause (pageCause p) s) u)))))
        ∧ (bad = true → exec (.rdata t v k mirror bad bytes) s = .next (released t.hdr s1 s1))))
    ∧ (s.board.haltedByClock = false → s.pair.phase = .paired →
      (∀ r ∈ pairRaces s, (s.race r).state ≠ .attested ∧ (s.race r).state ≠ .retraining) →
      ∃ u, u.pair.phase = .isolated ∧ u.mem = s.mem ∧ u.ctxs = s.ctxs
        ∧ exec .pairHoldTimeout s = .next (if s.pair.autoTko = true ∧ s.sec.self < s.pair.twinMember then takeOver u else u))

/-! ### The machine as a whole -/

/-- A step runs the command at the front of the queue on the state with the rest of the queue; with no command waiting, one tick of the
Miller's clock passes (assumption 2, the model's choice). -/
def Obligations.StepRunsFront : Prop :=
  ∀ (c : Instr) (s : State), step (queued c s) = exec c s ∧ (s.pending = [] → step s = .next (idleTick s))

/-- Every command completes and acts on everything but the queue: from every state a step answers a next state, whose queue is the queue
without its front, and the part's identity stays. -/
def Obligations.EveryStepGoesOn : Prop :=
  ∀ s : State, ∃ t, step s = .next t ∧ t.pending = s.pending.tail ∧ t.part = s.part

/-- The components of the state that no command of a kind changes: `touched` names for every command the components that it may change, and
every other component is the same after it. So no instruction of a Quern reaches a Race, a Flume or a configuration, no timer of the
power controller changes memory, and no command changes the part's identity or the queue. -/
def Obligations.ComponentsKept : Prop :=
  ∀ (c : Instr) (s t : State) (k : Component), exec c s = .next t → k ∉ touched c → Same s t k

/-- An instruction of a Quern's stream, CBAR apart, changes no other Quern unless its program stops with an error (R163, R180); one of the V
stream changes no byte but those of its destination (R117, R126, R133, R147, R151), whether it completes, stops, waits or may not start. -/
def Obligations.StreamsStayLocal : Prop :=
  (∀ (c : Instr) (s t : State) (q p : Nat), issuer c = some q → exec c s = .next t → (t.quern q).err = none → p ≠ q →
      t.quern p = s.quern p)
  ∧ (∀ (s t : State) (q : Fin 128) (i : Issue), Memory.wf s.mem = true → ∀ c ∈ vStream q i, exec c s = .next t →
      ∀ a, a ∉ vStored s q c → Memory.get t.mem a = Memory.get s.mem a)

/-- Every step keeps the canonical form of the package's bytes (R219; assumption 10 names the form). -/
def Obligations.MemoryFormKept : Prop :=
  ∀ s t : State, s.Inv → step s = .next t → t.Inv

/-- The state at power-good, before bring-up (R246, R356, R459, R482, R506): the queue and the memory's list are empty, no job is admitted, STAGE is 0,
MSTATE is 0, and registers read the reset values that their tables give. The values of registers whose table says 'from flash', 'variant
cap' or 'from the calibration store' are the model's choice (assumptions 1, 11, 14) and are not stated here. -/
def Obligations.ResetState : Prop :=
  State.reset.Inv ∧ State.reset.pending = [] ∧ State.reset.mem = [] ∧ isReady State.reset = false ∧ State.reset.sec.phase = .noJob
    ∧ (∀ c : Fin 32, (State.reset.ctx c).state = .unloaded) ∧ (∀ f : Fin 1024, (State.reset.flume f).state = .closed)
    ∧ (∀ r : Fin 32, (State.reset.race r).state = .off)
    ∧ (readReg State.reset 0x100700 = some 32768 ∧ readReg State.reset 0x300000 = some 8192)
    ∧ (∀ off ∈ [0x500000, 0x500100, 0x500200, 0x500300, 0x600200, 0x900000, 0xA00050, 0xB00000, 0xC00010, 0xC00040, 0xC00050],
        readReg State.reset off = some 0)
    ∧ readReg State.reset 0xA00040 = some (1 * 2 ^ 13 + 3 * 2 ^ 9 + 4 * 2 ^ 5 + 12) ∧ readReg State.reset 0xA00048 = some 64
    ∧ readReg State.reset 0x400008 = some 1000 ∧ readReg State.reset 0x600000 = some (47210 * 2 ^ 23)
    ∧ readReg State.reset 0x600100 = some (512 * 2 ^ 10) ∧ readReg State.reset 0x900100 = some (2 ^ 19)
    ∧ readReg State.reset 0xC00800 = some (200 * 2 ^ 14 + 2)

/-- Words of Quern programs and stage programs round trip (R187 to R191): decoding the words of an instruction gives it back with the words
behind it, for every operation and every value of every field; and words that decode are the words of what they decode to. -/
def Obligations.EncodingsRoundTrip : Prop :=
  (∀ (x : SeqInstr) (rest : List W64), decodeWords (encodeWords x ++ rest) = some (x, rest))
  ∧ (∀ (x : SeqInstr) (l rest : List W64), decodeWords l = some (x, rest) → l = encodeWords x ++ rest)

/-- Loss of the management link (R486): it changes the link's state and nothing else, so nothing in a running job. Subscriptions are kept;
while the link is down every push of an event and every telemetry push that falls due is dropped and counted in TELEM_SKIPPED. -/
def Obligations.ManagementLinkIsLost : Prop :=
  ∀ s : State,
    exec (.managementLinkLoss false) s = .next { s with mil := { s.mil with link := false } }
    ∧ (s.mil.link = false →
      (∀ (code scope id : Nat) (detail : List Nat),
        (logEvent s code scope id detail).mil.subs = s.mil.subs
        ∧ (∀ d e, Out.push d e ∈ (logEvent s code scope id detail).out → Out.push d e ∈ s.out)
        ∧ (logEvent s code scope id detail).mil.telemSkipped =
            satAdd s.mil.telemSkipped (s.mil.subs.filter (fun x => decide (x.2.minSeverity ≤ Config.severity code))).length 65535)
      ∧ (∀ (k : Fin 4) (x : Subscription), Tbl.find? s.mil.subs k = some x → x.periodMs ≠ 0 →
        exec (.telemetryPush k) s = .next { s with mil := { s.mil with telemSkipped := satAdd s.mil.telemSkipped 1 65535 } }))

/-- The two-party protocol is the only way to change the Frisket (R29, R450, R505): no command but FRISKET changes the record in force, except
that a pending record, which a FRISKET put there, takes effect at an admission. No command but FRISKET makes a record pending. -/
def Obligations.FrisketIsGuarded : Prop :=
  ∀ (c : Instr) (s t : State), exec c s = .next t → (∀ m rec z, c ≠ .frisket m rec z) →
    (t.sec.frisket = s.sec.frisket ∧ t.sec.pendingFrisket = s.sec.pendingFrisket)
    ∨ (some t.sec.frisket = s.sec.pendingFrisket ∧ t.sec.pendingFrisket = none)
end

