-- ==== Sys2Proof/Laws/Tbl.lean ====
section
/-! SUPPORT. The sparse table: reading what was set, erased or mapped. -/

namespace Sys2Proof.Tbl

variable {α β : Type}

theorem find?_set (t : Tbl α) (i j : Nat) (v : α) : find? (set t i v) j = if j = i then some v else find? t j := by
  induction t with
  | nil => simp [set, find?, eq_comm]
  | cons p t ih =>
    obtain ⟨k, w⟩ := p
    simp only [set]
    split
    · simp [find?, eq_comm]
    · split
      · subst_vars
        simp only [find?]
        by_cases h : j = k <;> simp [h, eq_comm]
      · simp only [find?, ih]
        by_cases h : k = j
        · subst h
          rename_i hk
          simp [Ne.symm hk]
        · simp [h]

@[simp] theorem find?_set_same (t : Tbl α) (i : Nat) (v : α) : find? (set t i v) i = some v := by simp [find?_set]

theorem find?_set_ne (t : Tbl α) (i j : Nat) (v : α) (h : j ≠ i) : find? (set t i v) j = find? t j := by simp [find?_set, h]

@[simp] theorem getD_set_same (t : Tbl α) (i : Nat) (v d : α) : getD (set t i v) i d = v := by simp [getD]

theorem getD_set_ne (t : Tbl α) (i j : Nat) (v d : α) (h : j ≠ i) : getD (set t i v) j d = getD t j d := by
  simp [getD, find?_set, h]

@[simp] theorem getD_nil (i : Nat) (d : α) : getD ([] : Tbl α) i d = d := rfl

theorem find?_mapV (t : Tbl α) (f : Nat → α → β) (i : Nat) : find? (mapV t f) i = (find? t i).map (f i) := by
  induction t with
  | nil => rfl
  | cons p t ih =>
    obtain ⟨k, w⟩ := p
    have e : mapV ((k, w) :: t) f = (k, f k w) :: mapV t f := rfl
    rw [e]
    simp only [find?]
    by_cases h : k = i
    · subst h; simp
    · simpa [h] using ih

theorem find?_erase_same (t : Tbl α) (i : Nat) : find? (erase t i) i = none := by
  induction t with
  | nil => rfl
  | cons p t ih =>
    obtain ⟨k, w⟩ := p
    by_cases h : k = i
    · subst h; simpa [erase] using ih
    · have : erase ((k, w) :: t) i = (k, w) :: erase t i := by simp [erase, h]
      rw [this]
      simpa [find?, h] using ih

theorem find?_erase_ne (t : Tbl α) (i j : Nat) (h : j ≠ i) : find? (erase t i) j = find? t j := by
  induction t with
  | nil => rfl
  | cons p t ih =>
    obtain ⟨k, w⟩ := p
    by_cases hk : k = i
    · subst hk
      have : erase ((k, w) :: t) k = erase t k := by simp [erase]
      rw [this, ih]
      simp [find?, Ne.symm h]
    · have : erase ((k, w) :: t) i = (k, w) :: erase t i := by simp [erase, hk]
      rw [this]
      by_cases hj : k = j <;> simp [find?, hj, ih]

end Sys2Proof.Tbl
end

