-- ==== Sys2Proof/Laws/State.lean ====
section
/-!
SUPPORT. What each update of the state leaves as it was and what it sets: one lemma for each field and update, and one for each
unit and update, so that no proof unfolds a record.
-/

namespace Sys2Proof.Machine.State

open Sys2Proof

variable (s : State)

/-! `setQuern` writes `querns` only. -/
@[simp] theorem part_setQuern (q : Nat) (v : Quern) : (s.setQuern q v).part = s.part := rfl
@[simp] theorem freeCtr_setQuern (q : Nat) (v : Quern) : (s.setQuern q v).freeCtr = s.freeCtr := rfl
@[simp] theorem timeNs_setQuern (q : Nat) (v : Quern) : (s.setQuern q v).timeNs = s.timeNs := rfl
@[simp] theorem mem_setQuern (q : Nat) (v : Quern) : (s.setQuern q v).mem = s.mem := rfl
@[simp] theorem mm_setQuern (q : Nat) (v : Quern) : (s.setQuern q v).mm = s.mm := rfl
@[simp] theorem ctxs_setQuern (q : Nat) (v : Quern) : (s.setQuern q v).ctxs = s.ctxs := rfl
@[simp] theorem hoppers_setQuern (q : Nat) (v : Quern) : (s.setQuern q v).hoppers = s.hoppers := rfl
@[simp] theorem pool_setQuern (q : Nat) (v : Quern) : (s.setQuern q v).pool = s.pool := rfl
@[simp] theorem nextEntry_setQuern (q : Nat) (v : Quern) : (s.setQuern q v).nextEntry = s.nextEntry := rfl
@[simp] theorem flumes_setQuern (q : Nat) (v : Quern) : (s.setQuern q v).flumes = s.flumes := rfl
@[simp] theorem eds_setQuern (q : Nat) (v : Quern) : (s.setQuern q v).eds = s.eds := rfl
@[simp] theorem shards_setQuern (q : Nat) (v : Quern) : (s.setQuern q v).shards = s.shards := rfl
@[simp] theorem galley_setQuern (q : Nat) (v : Quern) : (s.setQuern q v).galley = s.galley := rfl
@[simp] theorem races_setQuern (q : Nat) (v : Quern) : (s.setQuern q v).races = s.races := rfl
@[simp] theorem racePorts_setQuern (q : Nat) (v : Quern) : (s.setQuern q v).racePorts = s.racePorts := rfl
@[simp] theorem hosts_setQuern (q : Nat) (v : Quern) : (s.setQuern q v).hosts = s.hosts := rfl
@[simp] theorem sec_setQuern (q : Nat) (v : Quern) : (s.setQuern q v).sec = s.sec := rfl
@[simp] theorem mil_setQuern (q : Nat) (v : Quern) : (s.setQuern q v).mil = s.mil := rfl
@[simp] theorem boot_setQuern (q : Nat) (v : Quern) : (s.setQuern q v).boot = s.boot := rfl
@[simp] theorem pwr_setQuern (q : Nat) (v : Quern) : (s.setQuern q v).pwr = s.pwr := rfl
@[simp] theorem pair_setQuern (q : Nat) (v : Quern) : (s.setQuern q v).pair = s.pair := rfl
@[simp] theorem board_setQuern (q : Nat) (v : Quern) : (s.setQuern q v).board = s.board := rfl
@[simp] theorem grantStalls_setQuern (q : Nat) (v : Quern) : (s.setQuern q v).grantStalls = s.grantStalls := rfl
@[simp] theorem ipWait_setQuern (q : Nat) (v : Quern) : (s.setQuern q v).ipWait = s.ipWait := rfl
@[simp] theorem cookieSecret_setQuern (q : Nat) (v : Quern) : (s.setQuern q v).cookieSecret = s.cookieSecret := rfl
@[simp] theorem cookiePrev_setQuern (q : Nat) (v : Quern) : (s.setQuern q v).cookiePrev = s.cookiePrev := rfl
@[simp] theorem cookieEpoch_setQuern (q : Nat) (v : Quern) : (s.setQuern q v).cookieEpoch = s.cookieEpoch := rfl
@[simp] theorem stepEventBase_setQuern (q : Nat) (v : Quern) : (s.setQuern q v).stepEventBase = s.stepEventBase := rfl
@[simp] theorem stepEventLow_setQuern (q : Nat) (v : Quern) : (s.setQuern q v).stepEventLow = s.stepEventLow := rfl
@[simp] theorem out_setQuern (q : Nat) (v : Quern) : (s.setQuern q v).out = s.out := rfl
@[simp] theorem pending_setQuern (q : Nat) (v : Quern) : (s.setQuern q v).pending = s.pending := rfl
@[simp] theorem ctx_at_setQuern (q : Nat) (v : Quern) (i : Nat) : (s.setQuern q v).ctx i = s.ctx i := rfl
@[simp] theorem hopper_at_setQuern (q : Nat) (v : Quern) (i : Nat) : (s.setQuern q v).hopper i = s.hopper i := rfl
@[simp] theorem entry_at_setQuern (q : Nat) (v : Quern) (i : Nat) : (s.setQuern q v).entry? i = s.entry? i := rfl
@[simp] theorem flume_at_setQuern (q : Nat) (v : Quern) (i : Nat) : (s.setQuern q v).flume i = s.flume i := rfl
@[simp] theorem ed_at_setQuern (q : Nat) (v : Quern) (i : Nat) : (s.setQuern q v).ed i = s.ed i := rfl
@[simp] theorem shard_at_setQuern (q : Nat) (v : Quern) (i : Nat) : (s.setQuern q v).shard i = s.shard i := rfl
@[simp] theorem race_at_setQuern (q : Nat) (v : Quern) (i : Nat) : (s.setQuern q v).race i = s.race i := rfl
@[simp] theorem racePort_at_setQuern (q : Nat) (v : Quern) (i : Nat) : (s.setQuern q v).racePort i = s.racePort i := rfl
@[simp] theorem host_at_setQuern (q : Nat) (v : Quern) (i : Nat) : (s.setQuern q v).host i = s.host i := rfl
@[simp] theorem stone_at_setQuern (q : Nat) (v : Quern) (i : Nat) : (s.setQuern q v).stone i = s.stone i := rfl
@[simp] theorem page_at_setQuern (q : Nat) (v : Quern) (i : Nat) : (s.setQuern q v).page i = s.page i := rfl
@[simp] theorem session_at_setQuern (q : Nat) (v : Quern) (i j : Nat) : (s.setQuern q v).session i j = s.session i j := rfl

/-! `setCtx` writes `ctxs` only. -/
@[simp] theorem part_setCtx (c : Nat) (v : Ctx) : (s.setCtx c v).part = s.part := rfl
@[simp] theorem freeCtr_setCtx (c : Nat) (v : Ctx) : (s.setCtx c v).freeCtr = s.freeCtr := rfl
@[simp] theorem timeNs_setCtx (c : Nat) (v : Ctx) : (s.setCtx c v).timeNs = s.timeNs := rfl
@[simp] theorem mem_setCtx (c : Nat) (v : Ctx) : (s.setCtx c v).mem = s.mem := rfl
@[simp] theorem mm_setCtx (c : Nat) (v : Ctx) : (s.setCtx c v).mm = s.mm := rfl
@[simp] theorem querns_setCtx (c : Nat) (v : Ctx) : (s.setCtx c v).querns = s.querns := rfl
@[simp] theorem hoppers_setCtx (c : Nat) (v : Ctx) : (s.setCtx c v).hoppers = s.hoppers := rfl
@[simp] theorem pool_setCtx (c : Nat) (v : Ctx) : (s.setCtx c v).pool = s.pool := rfl
@[simp] theorem nextEntry_setCtx (c : Nat) (v : Ctx) : (s.setCtx c v).nextEntry = s.nextEntry := rfl
@[simp] theorem flumes_setCtx (c : Nat) (v : Ctx) : (s.setCtx c v).flumes = s.flumes := rfl
@[simp] theorem eds_setCtx (c : Nat) (v : Ctx) : (s.setCtx c v).eds = s.eds := rfl
@[simp] theorem shards_setCtx (c : Nat) (v : Ctx) : (s.setCtx c v).shards = s.shards := rfl
@[simp] theorem galley_setCtx (c : Nat) (v : Ctx) : (s.setCtx c v).galley = s.galley := rfl
@[simp] theorem races_setCtx (c : Nat) (v : Ctx) : (s.setCtx c v).races = s.races := rfl
@[simp] theorem racePorts_setCtx (c : Nat) (v : Ctx) : (s.setCtx c v).racePorts = s.racePorts := rfl
@[simp] theorem hosts_setCtx (c : Nat) (v : Ctx) : (s.setCtx c v).hosts = s.hosts := rfl
@[simp] theorem sec_setCtx (c : Nat) (v : Ctx) : (s.setCtx c v).sec = s.sec := rfl
@[simp] theorem mil_setCtx (c : Nat) (v : Ctx) : (s.setCtx c v).mil = s.mil := rfl
@[simp] theorem boot_setCtx (c : Nat) (v : Ctx) : (s.setCtx c v).boot = s.boot := rfl
@[simp] theorem pwr_setCtx (c : Nat) (v : Ctx) : (s.setCtx c v).pwr = s.pwr := rfl
@[simp] theorem pair_setCtx (c : Nat) (v : Ctx) : (s.setCtx c v).pair = s.pair := rfl
@[simp] theorem board_setCtx (c : Nat) (v : Ctx) : (s.setCtx c v).board = s.board := rfl
@[simp] theorem grantStalls_setCtx (c : Nat) (v : Ctx) : (s.setCtx c v).grantStalls = s.grantStalls := rfl
@[simp] theorem ipWait_setCtx (c : Nat) (v : Ctx) : (s.setCtx c v).ipWait = s.ipWait := rfl
@[simp] theorem cookieSecret_setCtx (c : Nat) (v : Ctx) : (s.setCtx c v).cookieSecret = s.cookieSecret := rfl
@[simp] theorem cookiePrev_setCtx (c : Nat) (v : Ctx) : (s.setCtx c v).cookiePrev = s.cookiePrev := rfl
@[simp] theorem cookieEpoch_setCtx (c : Nat) (v : Ctx) : (s.setCtx c v).cookieEpoch = s.cookieEpoch := rfl
@[simp] theorem stepEventBase_setCtx (c : Nat) (v : Ctx) : (s.setCtx c v).stepEventBase = s.stepEventBase := rfl
@[simp] theorem stepEventLow_setCtx (c : Nat) (v : Ctx) : (s.setCtx c v).stepEventLow = s.stepEventLow := rfl
@[simp] theorem out_setCtx (c : Nat) (v : Ctx) : (s.setCtx c v).out = s.out := rfl
@[simp] theorem pending_setCtx (c : Nat) (v : Ctx) : (s.setCtx c v).pending = s.pending := rfl
@[simp] theorem quern_at_setCtx (c : Nat) (v : Ctx) (i : Nat) : (s.setCtx c v).quern i = s.quern i := rfl
@[simp] theorem hopper_at_setCtx (c : Nat) (v : Ctx) (i : Nat) : (s.setCtx c v).hopper i = s.hopper i := rfl
@[simp] theorem entry_at_setCtx (c : Nat) (v : Ctx) (i : Nat) : (s.setCtx c v).entry? i = s.entry? i := rfl
@[simp] theorem flume_at_setCtx (c : Nat) (v : Ctx) (i : Nat) : (s.setCtx c v).flume i = s.flume i := rfl
@[simp] theorem ed_at_setCtx (c : Nat) (v : Ctx) (i : Nat) : (s.setCtx c v).ed i = s.ed i := rfl
@[simp] theorem shard_at_setCtx (c : Nat) (v : Ctx) (i : Nat) : (s.setCtx c v).shard i = s.shard i := rfl
@[simp] theorem race_at_setCtx (c : Nat) (v : Ctx) (i : Nat) : (s.setCtx c v).race i = s.race i := rfl
@[simp] theorem racePort_at_setCtx (c : Nat) (v : Ctx) (i : Nat) : (s.setCtx c v).racePort i = s.racePort i := rfl
@[simp] theorem host_at_setCtx (c : Nat) (v : Ctx) (i : Nat) : (s.setCtx c v).host i = s.host i := rfl
@[simp] theorem stone_at_setCtx (c : Nat) (v : Ctx) (i : Nat) : (s.setCtx c v).stone i = s.stone i := rfl
@[simp] theorem page_at_setCtx (c : Nat) (v : Ctx) (i : Nat) : (s.setCtx c v).page i = s.page i := rfl
@[simp] theorem session_at_setCtx (c : Nat) (v : Ctx) (i j : Nat) : (s.setCtx c v).session i j = s.session i j := rfl

/-! `setHopper` writes `hoppers` only. -/
@[simp] theorem part_setHopper (h : Nat) (v : Hopper) : (s.setHopper h v).part = s.part := rfl
@[simp] theorem freeCtr_setHopper (h : Nat) (v : Hopper) : (s.setHopper h v).freeCtr = s.freeCtr := rfl
@[simp] theorem timeNs_setHopper (h : Nat) (v : Hopper) : (s.setHopper h v).timeNs = s.timeNs := rfl
@[simp] theorem mem_setHopper (h : Nat) (v : Hopper) : (s.setHopper h v).mem = s.mem := rfl
@[simp] theorem mm_setHopper (h : Nat) (v : Hopper) : (s.setHopper h v).mm = s.mm := rfl
@[simp] theorem querns_setHopper (h : Nat) (v : Hopper) : (s.setHopper h v).querns = s.querns := rfl
@[simp] theorem ctxs_setHopper (h : Nat) (v : Hopper) : (s.setHopper h v).ctxs = s.ctxs := rfl
@[simp] theorem pool_setHopper (h : Nat) (v : Hopper) : (s.setHopper h v).pool = s.pool := rfl
@[simp] theorem nextEntry_setHopper (h : Nat) (v : Hopper) : (s.setHopper h v).nextEntry = s.nextEntry := rfl
@[simp] theorem flumes_setHopper (h : Nat) (v : Hopper) : (s.setHopper h v).flumes = s.flumes := rfl
@[simp] theorem eds_setHopper (h : Nat) (v : Hopper) : (s.setHopper h v).eds = s.eds := rfl
@[simp] theorem shards_setHopper (h : Nat) (v : Hopper) : (s.setHopper h v).shards = s.shards := rfl
@[simp] theorem galley_setHopper (h : Nat) (v : Hopper) : (s.setHopper h v).galley = s.galley := rfl
@[simp] theorem races_setHopper (h : Nat) (v : Hopper) : (s.setHopper h v).races = s.races := rfl
@[simp] theorem racePorts_setHopper (h : Nat) (v : Hopper) : (s.setHopper h v).racePorts = s.racePorts := rfl
@[simp] theorem hosts_setHopper (h : Nat) (v : Hopper) : (s.setHopper h v).hosts = s.hosts := rfl
@[simp] theorem sec_setHopper (h : Nat) (v : Hopper) : (s.setHopper h v).sec = s.sec := rfl
@[simp] theorem mil_setHopper (h : Nat) (v : Hopper) : (s.setHopper h v).mil = s.mil := rfl
@[simp] theorem boot_setHopper (h : Nat) (v : Hopper) : (s.setHopper h v).boot = s.boot := rfl
@[simp] theorem pwr_setHopper (h : Nat) (v : Hopper) : (s.setHopper h v).pwr = s.pwr := rfl
@[simp] theorem pair_setHopper (h : Nat) (v : Hopper) : (s.setHopper h v).pair = s.pair := rfl
@[simp] theorem board_setHopper (h : Nat) (v : Hopper) : (s.setHopper h v).board = s.board := rfl
@[simp] theorem grantStalls_setHopper (h : Nat) (v : Hopper) : (s.setHopper h v).grantStalls = s.grantStalls := rfl
@[simp] theorem ipWait_setHopper (h : Nat) (v : Hopper) : (s.setHopper h v).ipWait = s.ipWait := rfl
@[simp] theorem cookieSecret_setHopper (h : Nat) (v : Hopper) : (s.setHopper h v).cookieSecret = s.cookieSecret := rfl
@[simp] theorem cookiePrev_setHopper (h : Nat) (v : Hopper) : (s.setHopper h v).cookiePrev = s.cookiePrev := rfl
@[simp] theorem cookieEpoch_setHopper (h : Nat) (v : Hopper) : (s.setHopper h v).cookieEpoch = s.cookieEpoch := rfl
@[simp] theorem stepEventBase_setHopper (h : Nat) (v : Hopper) : (s.setHopper h v).stepEventBase = s.stepEventBase := rfl
@[simp] theorem stepEventLow_setHopper (h : Nat) (v : Hopper) : (s.setHopper h v).stepEventLow = s.stepEventLow := rfl
@[simp] theorem out_setHopper (h : Nat) (v : Hopper) : (s.setHopper h v).out = s.out := rfl
@[simp] theorem pending_setHopper (h : Nat) (v : Hopper) : (s.setHopper h v).pending = s.pending := rfl
@[simp] theorem quern_at_setHopper (h : Nat) (v : Hopper) (i : Nat) : (s.setHopper h v).quern i = s.quern i := rfl
@[simp] theorem ctx_at_setHopper (h : Nat) (v : Hopper) (i : Nat) : (s.setHopper h v).ctx i = s.ctx i := rfl
@[simp] theorem entry_at_setHopper (h : Nat) (v : Hopper) (i : Nat) : (s.setHopper h v).entry? i = s.entry? i := rfl
@[simp] theorem flume_at_setHopper (h : Nat) (v : Hopper) (i : Nat) : (s.setHopper h v).flume i = s.flume i := rfl
@[simp] theorem ed_at_setHopper (h : Nat) (v : Hopper) (i : Nat) : (s.setHopper h v).ed i = s.ed i := rfl
@[simp] theorem shard_at_setHopper (h : Nat) (v : Hopper) (i : Nat) : (s.setHopper h v).shard i = s.shard i := rfl
@[simp] theorem race_at_setHopper (h : Nat) (v : Hopper) (i : Nat) : (s.setHopper h v).race i = s.race i := rfl
@[simp] theorem racePort_at_setHopper (h : Nat) (v : Hopper) (i : Nat) : (s.setHopper h v).racePort i = s.racePort i := rfl
@[simp] theorem host_at_setHopper (h : Nat) (v : Hopper) (i : Nat) : (s.setHopper h v).host i = s.host i := rfl
@[simp] theorem stone_at_setHopper (h : Nat) (v : Hopper) (i : Nat) : (s.setHopper h v).stone i = s.stone i := rfl
@[simp] theorem page_at_setHopper (h : Nat) (v : Hopper) (i : Nat) : (s.setHopper h v).page i = s.page i := rfl
@[simp] theorem session_at_setHopper (h : Nat) (v : Hopper) (i j : Nat) : (s.setHopper h v).session i j = s.session i j := rfl

/-! `setEntry` writes `pool` only. -/
@[simp] theorem part_setEntry (e : Nat) (v : Entry) : (s.setEntry e v).part = s.part := rfl
@[simp] theorem freeCtr_setEntry (e : Nat) (v : Entry) : (s.setEntry e v).freeCtr = s.freeCtr := rfl
@[simp] theorem timeNs_setEntry (e : Nat) (v : Entry) : (s.setEntry e v).timeNs = s.timeNs := rfl
@[simp] theorem mem_setEntry (e : Nat) (v : Entry) : (s.setEntry e v).mem = s.mem := rfl
@[simp] theorem mm_setEntry (e : Nat) (v : Entry) : (s.setEntry e v).mm = s.mm := rfl
@[simp] theorem querns_setEntry (e : Nat) (v : Entry) : (s.setEntry e v).querns = s.querns := rfl
@[simp] theorem ctxs_setEntry (e : Nat) (v : Entry) : (s.setEntry e v).ctxs = s.ctxs := rfl
@[simp] theorem hoppers_setEntry (e : Nat) (v : Entry) : (s.setEntry e v).hoppers = s.hoppers := rfl
@[simp] theorem nextEntry_setEntry (e : Nat) (v : Entry) : (s.setEntry e v).nextEntry = s.nextEntry := rfl
@[simp] theorem flumes_setEntry (e : Nat) (v : Entry) : (s.setEntry e v).flumes = s.flumes := rfl
@[simp] theorem eds_setEntry (e : Nat) (v : Entry) : (s.setEntry e v).eds = s.eds := rfl
@[simp] theorem shards_setEntry (e : Nat) (v : Entry) : (s.setEntry e v).shards = s.shards := rfl
@[simp] theorem galley_setEntry (e : Nat) (v : Entry) : (s.setEntry e v).galley = s.galley := rfl
@[simp] theorem races_setEntry (e : Nat) (v : Entry) : (s.setEntry e v).races = s.races := rfl
@[simp] theorem racePorts_setEntry (e : Nat) (v : Entry) : (s.setEntry e v).racePorts = s.racePorts := rfl
@[simp] theorem hosts_setEntry (e : Nat) (v : Entry) : (s.setEntry e v).hosts = s.hosts := rfl
@[simp] theorem sec_setEntry (e : Nat) (v : Entry) : (s.setEntry e v).sec = s.sec := rfl
@[simp] theorem mil_setEntry (e : Nat) (v : Entry) : (s.setEntry e v).mil = s.mil := rfl
@[simp] theorem boot_setEntry (e : Nat) (v : Entry) : (s.setEntry e v).boot = s.boot := rfl
@[simp] theorem pwr_setEntry (e : Nat) (v : Entry) : (s.setEntry e v).pwr = s.pwr := rfl
@[simp] theorem pair_setEntry (e : Nat) (v : Entry) : (s.setEntry e v).pair = s.pair := rfl
@[simp] theorem board_setEntry (e : Nat) (v : Entry) : (s.setEntry e v).board = s.board := rfl
@[simp] theorem grantStalls_setEntry (e : Nat) (v : Entry) : (s.setEntry e v).grantStalls = s.grantStalls := rfl
@[simp] theorem ipWait_setEntry (e : Nat) (v : Entry) : (s.setEntry e v).ipWait = s.ipWait := rfl
@[simp] theorem cookieSecret_setEntry (e : Nat) (v : Entry) : (s.setEntry e v).cookieSecret = s.cookieSecret := rfl
@[simp] theorem cookiePrev_setEntry (e : Nat) (v : Entry) : (s.setEntry e v).cookiePrev = s.cookiePrev := rfl
@[simp] theorem cookieEpoch_setEntry (e : Nat) (v : Entry) : (s.setEntry e v).cookieEpoch = s.cookieEpoch := rfl
@[simp] theorem stepEventBase_setEntry (e : Nat) (v : Entry) : (s.setEntry e v).stepEventBase = s.stepEventBase := rfl
@[simp] theorem stepEventLow_setEntry (e : Nat) (v : Entry) : (s.setEntry e v).stepEventLow = s.stepEventLow := rfl
@[simp] theorem out_setEntry (e : Nat) (v : Entry) : (s.setEntry e v).out = s.out := rfl
@[simp] theorem pending_setEntry (e : Nat) (v : Entry) : (s.setEntry e v).pending = s.pending := rfl
@[simp] theorem quern_at_setEntry (e : Nat) (v : Entry) (i : Nat) : (s.setEntry e v).quern i = s.quern i := rfl
@[simp] theorem ctx_at_setEntry (e : Nat) (v : Entry) (i : Nat) : (s.setEntry e v).ctx i = s.ctx i := rfl
@[simp] theorem hopper_at_setEntry (e : Nat) (v : Entry) (i : Nat) : (s.setEntry e v).hopper i = s.hopper i := rfl
@[simp] theorem flume_at_setEntry (e : Nat) (v : Entry) (i : Nat) : (s.setEntry e v).flume i = s.flume i := rfl
@[simp] theorem ed_at_setEntry (e : Nat) (v : Entry) (i : Nat) : (s.setEntry e v).ed i = s.ed i := rfl
@[simp] theorem shard_at_setEntry (e : Nat) (v : Entry) (i : Nat) : (s.setEntry e v).shard i = s.shard i := rfl
@[simp] theorem race_at_setEntry (e : Nat) (v : Entry) (i : Nat) : (s.setEntry e v).race i = s.race i := rfl
@[simp] theorem racePort_at_setEntry (e : Nat) (v : Entry) (i : Nat) : (s.setEntry e v).racePort i = s.racePort i := rfl
@[simp] theorem host_at_setEntry (e : Nat) (v : Entry) (i : Nat) : (s.setEntry e v).host i = s.host i := rfl
@[simp] theorem stone_at_setEntry (e : Nat) (v : Entry) (i : Nat) : (s.setEntry e v).stone i = s.stone i := rfl
@[simp] theorem page_at_setEntry (e : Nat) (v : Entry) (i : Nat) : (s.setEntry e v).page i = s.page i := rfl
@[simp] theorem session_at_setEntry (e : Nat) (v : Entry) (i j : Nat) : (s.setEntry e v).session i j = s.session i j := rfl

/-! `setFlume` writes `flumes` only. -/
@[simp] theorem part_setFlume (f : Nat) (v : Flume) : (s.setFlume f v).part = s.part := rfl
@[simp] theorem freeCtr_setFlume (f : Nat) (v : Flume) : (s.setFlume f v).freeCtr = s.freeCtr := rfl
@[simp] theorem timeNs_setFlume (f : Nat) (v : Flume) : (s.setFlume f v).timeNs = s.timeNs := rfl
@[simp] theorem mem_setFlume (f : Nat) (v : Flume) : (s.setFlume f v).mem = s.mem := rfl
@[simp] theorem mm_setFlume (f : Nat) (v : Flume) : (s.setFlume f v).mm = s.mm := rfl
@[simp] theorem querns_setFlume (f : Nat) (v : Flume) : (s.setFlume f v).querns = s.querns := rfl
@[simp] theorem ctxs_setFlume (f : Nat) (v : Flume) : (s.setFlume f v).ctxs = s.ctxs := rfl
@[simp] theorem hoppers_setFlume (f : Nat) (v : Flume) : (s.setFlume f v).hoppers = s.hoppers := rfl
@[simp] theorem pool_setFlume (f : Nat) (v : Flume) : (s.setFlume f v).pool = s.pool := rfl
@[simp] theorem nextEntry_setFlume (f : Nat) (v : Flume) : (s.setFlume f v).nextEntry = s.nextEntry := rfl
@[simp] theorem eds_setFlume (f : Nat) (v : Flume) : (s.setFlume f v).eds = s.eds := rfl
@[simp] theorem shards_setFlume (f : Nat) (v : Flume) : (s.setFlume f v).shards = s.shards := rfl
@[simp] theorem galley_setFlume (f : Nat) (v : Flume) : (s.setFlume f v).galley = s.galley := rfl
@[simp] theorem races_setFlume (f : Nat) (v : Flume) : (s.setFlume f v).races = s.races := rfl
@[simp] theorem racePorts_setFlume (f : Nat) (v : Flume) : (s.setFlume f v).racePorts = s.racePorts := rfl
@[simp] theorem hosts_setFlume (f : Nat) (v : Flume) : (s.setFlume f v).hosts = s.hosts := rfl
@[simp] theorem sec_setFlume (f : Nat) (v : Flume) : (s.setFlume f v).sec = s.sec := rfl
@[simp] theorem mil_setFlume (f : Nat) (v : Flume) : (s.setFlume f v).mil = s.mil := rfl
@[simp] theorem boot_setFlume (f : Nat) (v : Flume) : (s.setFlume f v).boot = s.boot := rfl
@[simp] theorem pwr_setFlume (f : Nat) (v : Flume) : (s.setFlume f v).pwr = s.pwr := rfl
@[simp] theorem pair_setFlume (f : Nat) (v : Flume) : (s.setFlume f v).pair = s.pair := rfl
@[simp] theorem board_setFlume (f : Nat) (v : Flume) : (s.setFlume f v).board = s.board := rfl
@[simp] theorem grantStalls_setFlume (f : Nat) (v : Flume) : (s.setFlume f v).grantStalls = s.grantStalls := rfl
@[simp] theorem ipWait_setFlume (f : Nat) (v : Flume) : (s.setFlume f v).ipWait = s.ipWait := rfl
@[simp] theorem cookieSecret_setFlume (f : Nat) (v : Flume) : (s.setFlume f v).cookieSecret = s.cookieSecret := rfl
@[simp] theorem cookiePrev_setFlume (f : Nat) (v : Flume) : (s.setFlume f v).cookiePrev = s.cookiePrev := rfl
@[simp] theorem cookieEpoch_setFlume (f : Nat) (v : Flume) : (s.setFlume f v).cookieEpoch = s.cookieEpoch := rfl
@[simp] theorem stepEventBase_setFlume (f : Nat) (v : Flume) : (s.setFlume f v).stepEventBase = s.stepEventBase := rfl
@[simp] theorem stepEventLow_setFlume (f : Nat) (v : Flume) : (s.setFlume f v).stepEventLow = s.stepEventLow := rfl
@[simp] theorem out_setFlume (f : Nat) (v : Flume) : (s.setFlume f v).out = s.out := rfl
@[simp] theorem pending_setFlume (f : Nat) (v : Flume) : (s.setFlume f v).pending = s.pending := rfl
@[simp] theorem quern_at_setFlume (f : Nat) (v : Flume) (i : Nat) : (s.setFlume f v).quern i = s.quern i := rfl
@[simp] theorem ctx_at_setFlume (f : Nat) (v : Flume) (i : Nat) : (s.setFlume f v).ctx i = s.ctx i := rfl
@[simp] theorem hopper_at_setFlume (f : Nat) (v : Flume) (i : Nat) : (s.setFlume f v).hopper i = s.hopper i := rfl
@[simp] theorem entry_at_setFlume (f : Nat) (v : Flume) (i : Nat) : (s.setFlume f v).entry? i = s.entry? i := rfl
@[simp] theorem ed_at_setFlume (f : Nat) (v : Flume) (i : Nat) : (s.setFlume f v).ed i = s.ed i := rfl
@[simp] theorem shard_at_setFlume (f : Nat) (v : Flume) (i : Nat) : (s.setFlume f v).shard i = s.shard i := rfl
@[simp] theorem race_at_setFlume (f : Nat) (v : Flume) (i : Nat) : (s.setFlume f v).race i = s.race i := rfl
@[simp] theorem racePort_at_setFlume (f : Nat) (v : Flume) (i : Nat) : (s.setFlume f v).racePort i = s.racePort i := rfl
@[simp] theorem host_at_setFlume (f : Nat) (v : Flume) (i : Nat) : (s.setFlume f v).host i = s.host i := rfl
@[simp] theorem stone_at_setFlume (f : Nat) (v : Flume) (i : Nat) : (s.setFlume f v).stone i = s.stone i := rfl
@[simp] theorem page_at_setFlume (f : Nat) (v : Flume) (i : Nat) : (s.setFlume f v).page i = s.page i := rfl
@[simp] theorem session_at_setFlume (f : Nat) (v : Flume) (i j : Nat) : (s.setFlume f v).session i j = s.session i j := rfl

/-! `setEd` writes `eds` only. -/
@[simp] theorem part_setEd (e : Nat) (v : EdEnt) : (s.setEd e v).part = s.part := rfl
@[simp] theorem freeCtr_setEd (e : Nat) (v : EdEnt) : (s.setEd e v).freeCtr = s.freeCtr := rfl
@[simp] theorem timeNs_setEd (e : Nat) (v : EdEnt) : (s.setEd e v).timeNs = s.timeNs := rfl
@[simp] theorem mem_setEd (e : Nat) (v : EdEnt) : (s.setEd e v).mem = s.mem := rfl
@[simp] theorem mm_setEd (e : Nat) (v : EdEnt) : (s.setEd e v).mm = s.mm := rfl
@[simp] theorem querns_setEd (e : Nat) (v : EdEnt) : (s.setEd e v).querns = s.querns := rfl
@[simp] theorem ctxs_setEd (e : Nat) (v : EdEnt) : (s.setEd e v).ctxs = s.ctxs := rfl
@[simp] theorem hoppers_setEd (e : Nat) (v : EdEnt) : (s.setEd e v).hoppers = s.hoppers := rfl
@[simp] theorem pool_setEd (e : Nat) (v : EdEnt) : (s.setEd e v).pool = s.pool := rfl
@[simp] theorem nextEntry_setEd (e : Nat) (v : EdEnt) : (s.setEd e v).nextEntry = s.nextEntry := rfl
@[simp] theorem flumes_setEd (e : Nat) (v : EdEnt) : (s.setEd e v).flumes = s.flumes := rfl
@[simp] theorem shards_setEd (e : Nat) (v : EdEnt) : (s.setEd e v).shards = s.shards := rfl
@[simp] theorem galley_setEd (e : Nat) (v : EdEnt) : (s.setEd e v).galley = s.galley := rfl
@[simp] theorem races_setEd (e : Nat) (v : EdEnt) : (s.setEd e v).races = s.races := rfl
@[simp] theorem racePorts_setEd (e : Nat) (v : EdEnt) : (s.setEd e v).racePorts = s.racePorts := rfl
@[simp] theorem hosts_setEd (e : Nat) (v : EdEnt) : (s.setEd e v).hosts = s.hosts := rfl
@[simp] theorem sec_setEd (e : Nat) (v : EdEnt) : (s.setEd e v).sec = s.sec := rfl
@[simp] theorem mil_setEd (e : Nat) (v : EdEnt) : (s.setEd e v).mil = s.mil := rfl
@[simp] theorem boot_setEd (e : Nat) (v : EdEnt) : (s.setEd e v).boot = s.boot := rfl
@[simp] theorem pwr_setEd (e : Nat) (v : EdEnt) : (s.setEd e v).pwr = s.pwr := rfl
@[simp] theorem pair_setEd (e : Nat) (v : EdEnt) : (s.setEd e v).pair = s.pair := rfl
@[simp] theorem board_setEd (e : Nat) (v : EdEnt) : (s.setEd e v).board = s.board := rfl
@[simp] theorem grantStalls_setEd (e : Nat) (v : EdEnt) : (s.setEd e v).grantStalls = s.grantStalls := rfl
@[simp] theorem ipWait_setEd (e : Nat) (v : EdEnt) : (s.setEd e v).ipWait = s.ipWait := rfl
@[simp] theorem cookieSecret_setEd (e : Nat) (v : EdEnt) : (s.setEd e v).cookieSecret = s.cookieSecret := rfl
@[simp] theorem cookiePrev_setEd (e : Nat) (v : EdEnt) : (s.setEd e v).cookiePrev = s.cookiePrev := rfl
@[simp] theorem cookieEpoch_setEd (e : Nat) (v : EdEnt) : (s.setEd e v).cookieEpoch = s.cookieEpoch := rfl
@[simp] theorem stepEventBase_setEd (e : Nat) (v : EdEnt) : (s.setEd e v).stepEventBase = s.stepEventBase := rfl
@[simp] theorem stepEventLow_setEd (e : Nat) (v : EdEnt) : (s.setEd e v).stepEventLow = s.stepEventLow := rfl
@[simp] theorem out_setEd (e : Nat) (v : EdEnt) : (s.setEd e v).out = s.out := rfl
@[simp] theorem pending_setEd (e : Nat) (v : EdEnt) : (s.setEd e v).pending = s.pending := rfl
@[simp] theorem quern_at_setEd (e : Nat) (v : EdEnt) (i : Nat) : (s.setEd e v).quern i = s.quern i := rfl
@[simp] theorem ctx_at_setEd (e : Nat) (v : EdEnt) (i : Nat) : (s.setEd e v).ctx i = s.ctx i := rfl
@[simp] theorem hopper_at_setEd (e : Nat) (v : EdEnt) (i : Nat) : (s.setEd e v).hopper i = s.hopper i := rfl
@[simp] theorem entry_at_setEd (e : Nat) (v : EdEnt) (i : Nat) : (s.setEd e v).entry? i = s.entry? i := rfl
@[simp] theorem flume_at_setEd (e : Nat) (v : EdEnt) (i : Nat) : (s.setEd e v).flume i = s.flume i := rfl
@[simp] theorem shard_at_setEd (e : Nat) (v : EdEnt) (i : Nat) : (s.setEd e v).shard i = s.shard i := rfl
@[simp] theorem race_at_setEd (e : Nat) (v : EdEnt) (i : Nat) : (s.setEd e v).race i = s.race i := rfl
@[simp] theorem racePort_at_setEd (e : Nat) (v : EdEnt) (i : Nat) : (s.setEd e v).racePort i = s.racePort i := rfl
@[simp] theorem host_at_setEd (e : Nat) (v : EdEnt) (i : Nat) : (s.setEd e v).host i = s.host i := rfl
@[simp] theorem stone_at_setEd (e : Nat) (v : EdEnt) (i : Nat) : (s.setEd e v).stone i = s.stone i := rfl
@[simp] theorem page_at_setEd (e : Nat) (v : EdEnt) (i : Nat) : (s.setEd e v).page i = s.page i := rfl
@[simp] theorem session_at_setEd (e : Nat) (v : EdEnt) (i j : Nat) : (s.setEd e v).session i j = s.session i j := rfl

/-! `setShard` writes `shards` only. -/
@[simp] theorem part_setShard (i : Nat) (v : Shard) : (s.setShard i v).part = s.part := rfl
@[simp] theorem freeCtr_setShard (i : Nat) (v : Shard) : (s.setShard i v).freeCtr = s.freeCtr := rfl
@[simp] theorem timeNs_setShard (i : Nat) (v : Shard) : (s.setShard i v).timeNs = s.timeNs := rfl
@[simp] theorem mem_setShard (i : Nat) (v : Shard) : (s.setShard i v).mem = s.mem := rfl
@[simp] theorem mm_setShard (i : Nat) (v : Shard) : (s.setShard i v).mm = s.mm := rfl
@[simp] theorem querns_setShard (i : Nat) (v : Shard) : (s.setShard i v).querns = s.querns := rfl
@[simp] theorem ctxs_setShard (i : Nat) (v : Shard) : (s.setShard i v).ctxs = s.ctxs := rfl
@[simp] theorem hoppers_setShard (i : Nat) (v : Shard) : (s.setShard i v).hoppers = s.hoppers := rfl
@[simp] theorem pool_setShard (i : Nat) (v : Shard) : (s.setShard i v).pool = s.pool := rfl
@[simp] theorem nextEntry_setShard (i : Nat) (v : Shard) : (s.setShard i v).nextEntry = s.nextEntry := rfl
@[simp] theorem flumes_setShard (i : Nat) (v : Shard) : (s.setShard i v).flumes = s.flumes := rfl
@[simp] theorem eds_setShard (i : Nat) (v : Shard) : (s.setShard i v).eds = s.eds := rfl
@[simp] theorem galley_setShard (i : Nat) (v : Shard) : (s.setShard i v).galley = s.galley := rfl
@[simp] theorem races_setShard (i : Nat) (v : Shard) : (s.setShard i v).races = s.races := rfl
@[simp] theorem racePorts_setShard (i : Nat) (v : Shard) : (s.setShard i v).racePorts = s.racePorts := rfl
@[simp] theorem hosts_setShard (i : Nat) (v : Shard) : (s.setShard i v).hosts = s.hosts := rfl
@[simp] theorem sec_setShard (i : Nat) (v : Shard) : (s.setShard i v).sec = s.sec := rfl
@[simp] theorem mil_setShard (i : Nat) (v : Shard) : (s.setShard i v).mil = s.mil := rfl
@[simp] theorem boot_setShard (i : Nat) (v : Shard) : (s.setShard i v).boot = s.boot := rfl
@[simp] theorem pwr_setShard (i : Nat) (v : Shard) : (s.setShard i v).pwr = s.pwr := rfl
@[simp] theorem pair_setShard (i : Nat) (v : Shard) : (s.setShard i v).pair = s.pair := rfl
@[simp] theorem board_setShard (i : Nat) (v : Shard) : (s.setShard i v).board = s.board := rfl
@[simp] theorem grantStalls_setShard (i : Nat) (v : Shard) : (s.setShard i v).grantStalls = s.grantStalls := rfl
@[simp] theorem ipWait_setShard (i : Nat) (v : Shard) : (s.setShard i v).ipWait = s.ipWait := rfl
@[simp] theorem cookieSecret_setShard (i : Nat) (v : Shard) : (s.setShard i v).cookieSecret = s.cookieSecret := rfl
@[simp] theorem cookiePrev_setShard (i : Nat) (v : Shard) : (s.setShard i v).cookiePrev = s.cookiePrev := rfl
@[simp] theorem cookieEpoch_setShard (i : Nat) (v : Shard) : (s.setShard i v).cookieEpoch = s.cookieEpoch := rfl
@[simp] theorem stepEventBase_setShard (i : Nat) (v : Shard) : (s.setShard i v).stepEventBase = s.stepEventBase := rfl
@[simp] theorem stepEventLow_setShard (i : Nat) (v : Shard) : (s.setShard i v).stepEventLow = s.stepEventLow := rfl
@[simp] theorem out_setShard (i : Nat) (v : Shard) : (s.setShard i v).out = s.out := rfl
@[simp] theorem pending_setShard (i : Nat) (v : Shard) : (s.setShard i v).pending = s.pending := rfl
@[simp] theorem quern_at_setShard (i : Nat) (v : Shard) (i : Nat) : (s.setShard i v).quern i = s.quern i := rfl
@[simp] theorem ctx_at_setShard (i : Nat) (v : Shard) (i : Nat) : (s.setShard i v).ctx i = s.ctx i := rfl
@[simp] theorem hopper_at_setShard (i : Nat) (v : Shard) (i : Nat) : (s.setShard i v).hopper i = s.hopper i := rfl
@[simp] theorem entry_at_setShard (i : Nat) (v : Shard) (i : Nat) : (s.setShard i v).entry? i = s.entry? i := rfl
@[simp] theorem flume_at_setShard (i : Nat) (v : Shard) (i : Nat) : (s.setShard i v).flume i = s.flume i := rfl
@[simp] theorem ed_at_setShard (i : Nat) (v : Shard) (i : Nat) : (s.setShard i v).ed i = s.ed i := rfl
@[simp] theorem race_at_setShard (i : Nat) (v : Shard) (i : Nat) : (s.setShard i v).race i = s.race i := rfl
@[simp] theorem racePort_at_setShard (i : Nat) (v : Shard) (i : Nat) : (s.setShard i v).racePort i = s.racePort i := rfl
@[simp] theorem host_at_setShard (i : Nat) (v : Shard) (i : Nat) : (s.setShard i v).host i = s.host i := rfl
@[simp] theorem stone_at_setShard (i : Nat) (v : Shard) (i : Nat) : (s.setShard i v).stone i = s.stone i := rfl
@[simp] theorem page_at_setShard (i : Nat) (v : Shard) (i : Nat) : (s.setShard i v).page i = s.page i := rfl
@[simp] theorem session_at_setShard (i : Nat) (v : Shard) (i j : Nat) : (s.setShard i v).session i j = s.session i j := rfl

/-! `setRace` writes `races` only. -/
@[simp] theorem part_setRace (r : Nat) (v : Race) : (s.setRace r v).part = s.part := rfl
@[simp] theorem freeCtr_setRace (r : Nat) (v : Race) : (s.setRace r v).freeCtr = s.freeCtr := rfl
@[simp] theorem timeNs_setRace (r : Nat) (v : Race) : (s.setRace r v).timeNs = s.timeNs := rfl
@[simp] theorem mem_setRace (r : Nat) (v : Race) : (s.setRace r v).mem = s.mem := rfl
@[simp] theorem mm_setRace (r : Nat) (v : Race) : (s.setRace r v).mm = s.mm := rfl
@[simp] theorem querns_setRace (r : Nat) (v : Race) : (s.setRace r v).querns = s.querns := rfl
@[simp] theorem ctxs_setRace (r : Nat) (v : Race) : (s.setRace r v).ctxs = s.ctxs := rfl
@[simp] theorem hoppers_setRace (r : Nat) (v : Race) : (s.setRace r v).hoppers = s.hoppers := rfl
@[simp] theorem pool_setRace (r : Nat) (v : Race) : (s.setRace r v).pool = s.pool := rfl
@[simp] theorem nextEntry_setRace (r : Nat) (v : Race) : (s.setRace r v).nextEntry = s.nextEntry := rfl
@[simp] theorem flumes_setRace (r : Nat) (v : Race) : (s.setRace r v).flumes = s.flumes := rfl
@[simp] theorem eds_setRace (r : Nat) (v : Race) : (s.setRace r v).eds = s.eds := rfl
@[simp] theorem shards_setRace (r : Nat) (v : Race) : (s.setRace r v).shards = s.shards := rfl
@[simp] theorem galley_setRace (r : Nat) (v : Race) : (s.setRace r v).galley = s.galley := rfl
@[simp] theorem racePorts_setRace (r : Nat) (v : Race) : (s.setRace r v).racePorts = s.racePorts := rfl
@[simp] theorem hosts_setRace (r : Nat) (v : Race) : (s.setRace r v).hosts = s.hosts := rfl
@[simp] theorem sec_setRace (r : Nat) (v : Race) : (s.setRace r v).sec = s.sec := rfl
@[simp] theorem mil_setRace (r : Nat) (v : Race) : (s.setRace r v).mil = s.mil := rfl
@[simp] theorem boot_setRace (r : Nat) (v : Race) : (s.setRace r v).boot = s.boot := rfl
@[simp] theorem pwr_setRace (r : Nat) (v : Race) : (s.setRace r v).pwr = s.pwr := rfl
@[simp] theorem pair_setRace (r : Nat) (v : Race) : (s.setRace r v).pair = s.pair := rfl
@[simp] theorem board_setRace (r : Nat) (v : Race) : (s.setRace r v).board = s.board := rfl
@[simp] theorem grantStalls_setRace (r : Nat) (v : Race) : (s.setRace r v).grantStalls = s.grantStalls := rfl
@[simp] theorem ipWait_setRace (r : Nat) (v : Race) : (s.setRace r v).ipWait = s.ipWait := rfl
@[simp] theorem cookieSecret_setRace (r : Nat) (v : Race) : (s.setRace r v).cookieSecret = s.cookieSecret := rfl
@[simp] theorem cookiePrev_setRace (r : Nat) (v : Race) : (s.setRace r v).cookiePrev = s.cookiePrev := rfl
@[simp] theorem cookieEpoch_setRace (r : Nat) (v : Race) : (s.setRace r v).cookieEpoch = s.cookieEpoch := rfl
@[simp] theorem stepEventBase_setRace (r : Nat) (v : Race) : (s.setRace r v).stepEventBase = s.stepEventBase := rfl
@[simp] theorem stepEventLow_setRace (r : Nat) (v : Race) : (s.setRace r v).stepEventLow = s.stepEventLow := rfl
@[simp] theorem out_setRace (r : Nat) (v : Race) : (s.setRace r v).out = s.out := rfl
@[simp] theorem pending_setRace (r : Nat) (v : Race) : (s.setRace r v).pending = s.pending := rfl
@[simp] theorem quern_at_setRace (r : Nat) (v : Race) (i : Nat) : (s.setRace r v).quern i = s.quern i := rfl
@[simp] theorem ctx_at_setRace (r : Nat) (v : Race) (i : Nat) : (s.setRace r v).ctx i = s.ctx i := rfl
@[simp] theorem hopper_at_setRace (r : Nat) (v : Race) (i : Nat) : (s.setRace r v).hopper i = s.hopper i := rfl
@[simp] theorem entry_at_setRace (r : Nat) (v : Race) (i : Nat) : (s.setRace r v).entry? i = s.entry? i := rfl
@[simp] theorem flume_at_setRace (r : Nat) (v : Race) (i : Nat) : (s.setRace r v).flume i = s.flume i := rfl
@[simp] theorem ed_at_setRace (r : Nat) (v : Race) (i : Nat) : (s.setRace r v).ed i = s.ed i := rfl
@[simp] theorem shard_at_setRace (r : Nat) (v : Race) (i : Nat) : (s.setRace r v).shard i = s.shard i := rfl
@[simp] theorem racePort_at_setRace (r : Nat) (v : Race) (i : Nat) : (s.setRace r v).racePort i = s.racePort i := rfl
@[simp] theorem host_at_setRace (r : Nat) (v : Race) (i : Nat) : (s.setRace r v).host i = s.host i := rfl
@[simp] theorem stone_at_setRace (r : Nat) (v : Race) (i : Nat) : (s.setRace r v).stone i = s.stone i := rfl
@[simp] theorem page_at_setRace (r : Nat) (v : Race) (i : Nat) : (s.setRace r v).page i = s.page i := rfl
@[simp] theorem session_at_setRace (r : Nat) (v : Race) (i j : Nat) : (s.setRace r v).session i j = s.session i j := rfl

/-! `setRacePort` writes `racePorts` only. -/
@[simp] theorem part_setRacePort (p : Nat) (v : RacePort) : (s.setRacePort p v).part = s.part := rfl
@[simp] theorem freeCtr_setRacePort (p : Nat) (v : RacePort) : (s.setRacePort p v).freeCtr = s.freeCtr := rfl
@[simp] theorem timeNs_setRacePort (p : Nat) (v : RacePort) : (s.setRacePort p v).timeNs = s.timeNs := rfl
@[simp] theorem mem_setRacePort (p : Nat) (v : RacePort) : (s.setRacePort p v).mem = s.mem := rfl
@[simp] theorem mm_setRacePort (p : Nat) (v : RacePort) : (s.setRacePort p v).mm = s.mm := rfl
@[simp] theorem querns_setRacePort (p : Nat) (v : RacePort) : (s.setRacePort p v).querns = s.querns := rfl
@[simp] theorem ctxs_setRacePort (p : Nat) (v : RacePort) : (s.setRacePort p v).ctxs = s.ctxs := rfl
@[simp] theorem hoppers_setRacePort (p : Nat) (v : RacePort) : (s.setRacePort p v).hoppers = s.hoppers := rfl
@[simp] theorem pool_setRacePort (p : Nat) (v : RacePort) : (s.setRacePort p v).pool = s.pool := rfl
@[simp] theorem nextEntry_setRacePort (p : Nat) (v : RacePort) : (s.setRacePort p v).nextEntry = s.nextEntry := rfl
@[simp] theorem flumes_setRacePort (p : Nat) (v : RacePort) : (s.setRacePort p v).flumes = s.flumes := rfl
@[simp] theorem eds_setRacePort (p : Nat) (v : RacePort) : (s.setRacePort p v).eds = s.eds := rfl
@[simp] theorem shards_setRacePort (p : Nat) (v : RacePort) : (s.setRacePort p v).shards = s.shards := rfl
@[simp] theorem galley_setRacePort (p : Nat) (v : RacePort) : (s.setRacePort p v).galley = s.galley := rfl
@[simp] theorem races_setRacePort (p : Nat) (v : RacePort) : (s.setRacePort p v).races = s.races := rfl
@[simp] theorem hosts_setRacePort (p : Nat) (v : RacePort) : (s.setRacePort p v).hosts = s.hosts := rfl
@[simp] theorem sec_setRacePort (p : Nat) (v : RacePort) : (s.setRacePort p v).sec = s.sec := rfl
@[simp] theorem mil_setRacePort (p : Nat) (v : RacePort) : (s.setRacePort p v).mil = s.mil := rfl
@[simp] theorem boot_setRacePort (p : Nat) (v : RacePort) : (s.setRacePort p v).boot = s.boot := rfl
@[simp] theorem pwr_setRacePort (p : Nat) (v : RacePort) : (s.setRacePort p v).pwr = s.pwr := rfl
@[simp] theorem pair_setRacePort (p : Nat) (v : RacePort) : (s.setRacePort p v).pair = s.pair := rfl
@[simp] theorem board_setRacePort (p : Nat) (v : RacePort) : (s.setRacePort p v).board = s.board := rfl
@[simp] theorem grantStalls_setRacePort (p : Nat) (v : RacePort) : (s.setRacePort p v).grantStalls = s.grantStalls := rfl
@[simp] theorem ipWait_setRacePort (p : Nat) (v : RacePort) : (s.setRacePort p v).ipWait = s.ipWait := rfl
@[simp] theorem cookieSecret_setRacePort (p : Nat) (v : RacePort) : (s.setRacePort p v).cookieSecret = s.cookieSecret := rfl
@[simp] theorem cookiePrev_setRacePort (p : Nat) (v : RacePort) : (s.setRacePort p v).cookiePrev = s.cookiePrev := rfl
@[simp] theorem cookieEpoch_setRacePort (p : Nat) (v : RacePort) : (s.setRacePort p v).cookieEpoch = s.cookieEpoch := rfl
@[simp] theorem stepEventBase_setRacePort (p : Nat) (v : RacePort) : (s.setRacePort p v).stepEventBase = s.stepEventBase := rfl
@[simp] theorem stepEventLow_setRacePort (p : Nat) (v : RacePort) : (s.setRacePort p v).stepEventLow = s.stepEventLow := rfl
@[simp] theorem out_setRacePort (p : Nat) (v : RacePort) : (s.setRacePort p v).out = s.out := rfl
@[simp] theorem pending_setRacePort (p : Nat) (v : RacePort) : (s.setRacePort p v).pending = s.pending := rfl
@[simp] theorem quern_at_setRacePort (p : Nat) (v : RacePort) (i : Nat) : (s.setRacePort p v).quern i = s.quern i := rfl
@[simp] theorem ctx_at_setRacePort (p : Nat) (v : RacePort) (i : Nat) : (s.setRacePort p v).ctx i = s.ctx i := rfl
@[simp] theorem hopper_at_setRacePort (p : Nat) (v : RacePort) (i : Nat) : (s.setRacePort p v).hopper i = s.hopper i := rfl
@[simp] theorem entry_at_setRacePort (p : Nat) (v : RacePort) (i : Nat) : (s.setRacePort p v).entry? i = s.entry? i := rfl
@[simp] theorem flume_at_setRacePort (p : Nat) (v : RacePort) (i : Nat) : (s.setRacePort p v).flume i = s.flume i := rfl
@[simp] theorem ed_at_setRacePort (p : Nat) (v : RacePort) (i : Nat) : (s.setRacePort p v).ed i = s.ed i := rfl
@[simp] theorem shard_at_setRacePort (p : Nat) (v : RacePort) (i : Nat) : (s.setRacePort p v).shard i = s.shard i := rfl
@[simp] theorem race_at_setRacePort (p : Nat) (v : RacePort) (i : Nat) : (s.setRacePort p v).race i = s.race i := rfl
@[simp] theorem host_at_setRacePort (p : Nat) (v : RacePort) (i : Nat) : (s.setRacePort p v).host i = s.host i := rfl
@[simp] theorem stone_at_setRacePort (p : Nat) (v : RacePort) (i : Nat) : (s.setRacePort p v).stone i = s.stone i := rfl
@[simp] theorem page_at_setRacePort (p : Nat) (v : RacePort) (i : Nat) : (s.setRacePort p v).page i = s.page i := rfl
@[simp] theorem session_at_setRacePort (p : Nat) (v : RacePort) (i j : Nat) : (s.setRacePort p v).session i j = s.session i j := rfl

/-! `setHost` writes `hosts` only. -/
@[simp] theorem part_setHost (p : Nat) (v : HostPort) : (s.setHost p v).part = s.part := rfl
@[simp] theorem freeCtr_setHost (p : Nat) (v : HostPort) : (s.setHost p v).freeCtr = s.freeCtr := rfl
@[simp] theorem timeNs_setHost (p : Nat) (v : HostPort) : (s.setHost p v).timeNs = s.timeNs := rfl
@[simp] theorem mem_setHost (p : Nat) (v : HostPort) : (s.setHost p v).mem = s.mem := rfl
@[simp] theorem mm_setHost (p : Nat) (v : HostPort) : (s.setHost p v).mm = s.mm := rfl
@[simp] theorem querns_setHost (p : Nat) (v : HostPort) : (s.setHost p v).querns = s.querns := rfl
@[simp] theorem ctxs_setHost (p : Nat) (v : HostPort) : (s.setHost p v).ctxs = s.ctxs := rfl
@[simp] theorem hoppers_setHost (p : Nat) (v : HostPort) : (s.setHost p v).hoppers = s.hoppers := rfl
@[simp] theorem pool_setHost (p : Nat) (v : HostPort) : (s.setHost p v).pool = s.pool := rfl
@[simp] theorem nextEntry_setHost (p : Nat) (v : HostPort) : (s.setHost p v).nextEntry = s.nextEntry := rfl
@[simp] theorem flumes_setHost (p : Nat) (v : HostPort) : (s.setHost p v).flumes = s.flumes := rfl
@[simp] theorem eds_setHost (p : Nat) (v : HostPort) : (s.setHost p v).eds = s.eds := rfl
@[simp] theorem shards_setHost (p : Nat) (v : HostPort) : (s.setHost p v).shards = s.shards := rfl
@[simp] theorem galley_setHost (p : Nat) (v : HostPort) : (s.setHost p v).galley = s.galley := rfl
@[simp] theorem races_setHost (p : Nat) (v : HostPort) : (s.setHost p v).races = s.races := rfl
@[simp] theorem racePorts_setHost (p : Nat) (v : HostPort) : (s.setHost p v).racePorts = s.racePorts := rfl
@[simp] theorem sec_setHost (p : Nat) (v : HostPort) : (s.setHost p v).sec = s.sec := rfl
@[simp] theorem mil_setHost (p : Nat) (v : HostPort) : (s.setHost p v).mil = s.mil := rfl
@[simp] theorem boot_setHost (p : Nat) (v : HostPort) : (s.setHost p v).boot = s.boot := rfl
@[simp] theorem pwr_setHost (p : Nat) (v : HostPort) : (s.setHost p v).pwr = s.pwr := rfl
@[simp] theorem pair_setHost (p : Nat) (v : HostPort) : (s.setHost p v).pair = s.pair := rfl
@[simp] theorem board_setHost (p : Nat) (v : HostPort) : (s.setHost p v).board = s.board := rfl
@[simp] theorem grantStalls_setHost (p : Nat) (v : HostPort) : (s.setHost p v).grantStalls = s.grantStalls := rfl
@[simp] theorem ipWait_setHost (p : Nat) (v : HostPort) : (s.setHost p v).ipWait = s.ipWait := rfl
@[simp] theorem cookieSecret_setHost (p : Nat) (v : HostPort) : (s.setHost p v).cookieSecret = s.cookieSecret := rfl
@[simp] theorem cookiePrev_setHost (p : Nat) (v : HostPort) : (s.setHost p v).cookiePrev = s.cookiePrev := rfl
@[simp] theorem cookieEpoch_setHost (p : Nat) (v : HostPort) : (s.setHost p v).cookieEpoch = s.cookieEpoch := rfl
@[simp] theorem stepEventBase_setHost (p : Nat) (v : HostPort) : (s.setHost p v).stepEventBase = s.stepEventBase := rfl
@[simp] theorem stepEventLow_setHost (p : Nat) (v : HostPort) : (s.setHost p v).stepEventLow = s.stepEventLow := rfl
@[simp] theorem out_setHost (p : Nat) (v : HostPort) : (s.setHost p v).out = s.out := rfl
@[simp] theorem pending_setHost (p : Nat) (v : HostPort) : (s.setHost p v).pending = s.pending := rfl
@[simp] theorem quern_at_setHost (p : Nat) (v : HostPort) (i : Nat) : (s.setHost p v).quern i = s.quern i := rfl
@[simp] theorem ctx_at_setHost (p : Nat) (v : HostPort) (i : Nat) : (s.setHost p v).ctx i = s.ctx i := rfl
@[simp] theorem hopper_at_setHost (p : Nat) (v : HostPort) (i : Nat) : (s.setHost p v).hopper i = s.hopper i := rfl
@[simp] theorem entry_at_setHost (p : Nat) (v : HostPort) (i : Nat) : (s.setHost p v).entry? i = s.entry? i := rfl
@[simp] theorem flume_at_setHost (p : Nat) (v : HostPort) (i : Nat) : (s.setHost p v).flume i = s.flume i := rfl
@[simp] theorem ed_at_setHost (p : Nat) (v : HostPort) (i : Nat) : (s.setHost p v).ed i = s.ed i := rfl
@[simp] theorem shard_at_setHost (p : Nat) (v : HostPort) (i : Nat) : (s.setHost p v).shard i = s.shard i := rfl
@[simp] theorem race_at_setHost (p : Nat) (v : HostPort) (i : Nat) : (s.setHost p v).race i = s.race i := rfl
@[simp] theorem racePort_at_setHost (p : Nat) (v : HostPort) (i : Nat) : (s.setHost p v).racePort i = s.racePort i := rfl
@[simp] theorem stone_at_setHost (p : Nat) (v : HostPort) (i : Nat) : (s.setHost p v).stone i = s.stone i := rfl
@[simp] theorem page_at_setHost (p : Nat) (v : HostPort) (i : Nat) : (s.setHost p v).page i = s.page i := rfl

/-! `setStone` writes `pwr` only. -/
@[simp] theorem part_setStone (n : Nat) (v : StonePwr) : (s.setStone n v).part = s.part := rfl
@[simp] theorem freeCtr_setStone (n : Nat) (v : StonePwr) : (s.setStone n v).freeCtr = s.freeCtr := rfl
@[simp] theorem timeNs_setStone (n : Nat) (v : StonePwr) : (s.setStone n v).timeNs = s.timeNs := rfl
@[simp] theorem mem_setStone (n : Nat) (v : StonePwr) : (s.setStone n v).mem = s.mem := rfl
@[simp] theorem mm_setStone (n : Nat) (v : StonePwr) : (s.setStone n v).mm = s.mm := rfl
@[simp] theorem querns_setStone (n : Nat) (v : StonePwr) : (s.setStone n v).querns = s.querns := rfl
@[simp] theorem ctxs_setStone (n : Nat) (v : StonePwr) : (s.setStone n v).ctxs = s.ctxs := rfl
@[simp] theorem hoppers_setStone (n : Nat) (v : StonePwr) : (s.setStone n v).hoppers = s.hoppers := rfl
@[simp] theorem pool_setStone (n : Nat) (v : StonePwr) : (s.setStone n v).pool = s.pool := rfl
@[simp] theorem nextEntry_setStone (n : Nat) (v : StonePwr) : (s.setStone n v).nextEntry = s.nextEntry := rfl
@[simp] theorem flumes_setStone (n : Nat) (v : StonePwr) : (s.setStone n v).flumes = s.flumes := rfl
@[simp] theorem eds_setStone (n : Nat) (v : StonePwr) : (s.setStone n v).eds = s.eds := rfl
@[simp] theorem shards_setStone (n : Nat) (v : StonePwr) : (s.setStone n v).shards = s.shards := rfl
@[simp] theorem galley_setStone (n : Nat) (v : StonePwr) : (s.setStone n v).galley = s.galley := rfl
@[simp] theorem races_setStone (n : Nat) (v : StonePwr) : (s.setStone n v).races = s.races := rfl
@[simp] theorem racePorts_setStone (n : Nat) (v : StonePwr) : (s.setStone n v).racePorts = s.racePorts := rfl
@[simp] theorem hosts_setStone (n : Nat) (v : StonePwr) : (s.setStone n v).hosts = s.hosts := rfl
@[simp] theorem sec_setStone (n : Nat) (v : StonePwr) : (s.setStone n v).sec = s.sec := rfl
@[simp] theorem mil_setStone (n : Nat) (v : StonePwr) : (s.setStone n v).mil = s.mil := rfl
@[simp] theorem boot_setStone (n : Nat) (v : StonePwr) : (s.setStone n v).boot = s.boot := rfl
@[simp] theorem pair_setStone (n : Nat) (v : StonePwr) : (s.setStone n v).pair = s.pair := rfl
@[simp] theorem board_setStone (n : Nat) (v : StonePwr) : (s.setStone n v).board = s.board := rfl
@[simp] theorem grantStalls_setStone (n : Nat) (v : StonePwr) : (s.setStone n v).grantStalls = s.grantStalls := rfl
@[simp] theorem ipWait_setStone (n : Nat) (v : StonePwr) : (s.setStone n v).ipWait = s.ipWait := rfl
@[simp] theorem cookieSecret_setStone (n : Nat) (v : StonePwr) : (s.setStone n v).cookieSecret = s.cookieSecret := rfl
@[simp] theorem cookiePrev_setStone (n : Nat) (v : StonePwr) : (s.setStone n v).cookiePrev = s.cookiePrev := rfl
@[simp] theorem cookieEpoch_setStone (n : Nat) (v : StonePwr) : (s.setStone n v).cookieEpoch = s.cookieEpoch := rfl
@[simp] theorem stepEventBase_setStone (n : Nat) (v : StonePwr) : (s.setStone n v).stepEventBase = s.stepEventBase := rfl
@[simp] theorem stepEventLow_setStone (n : Nat) (v : StonePwr) : (s.setStone n v).stepEventLow = s.stepEventLow := rfl
@[simp] theorem out_setStone (n : Nat) (v : StonePwr) : (s.setStone n v).out = s.out := rfl
@[simp] theorem pending_setStone (n : Nat) (v : StonePwr) : (s.setStone n v).pending = s.pending := rfl
@[simp] theorem quern_at_setStone (n : Nat) (v : StonePwr) (i : Nat) : (s.setStone n v).quern i = s.quern i := rfl
@[simp] theorem ctx_at_setStone (n : Nat) (v : StonePwr) (i : Nat) : (s.setStone n v).ctx i = s.ctx i := rfl
@[simp] theorem hopper_at_setStone (n : Nat) (v : StonePwr) (i : Nat) : (s.setStone n v).hopper i = s.hopper i := rfl
@[simp] theorem entry_at_setStone (n : Nat) (v : StonePwr) (i : Nat) : (s.setStone n v).entry? i = s.entry? i := rfl
@[simp] theorem flume_at_setStone (n : Nat) (v : StonePwr) (i : Nat) : (s.setStone n v).flume i = s.flume i := rfl
@[simp] theorem ed_at_setStone (n : Nat) (v : StonePwr) (i : Nat) : (s.setStone n v).ed i = s.ed i := rfl
@[simp] theorem shard_at_setStone (n : Nat) (v : StonePwr) (i : Nat) : (s.setStone n v).shard i = s.shard i := rfl
@[simp] theorem race_at_setStone (n : Nat) (v : StonePwr) (i : Nat) : (s.setStone n v).race i = s.race i := rfl
@[simp] theorem racePort_at_setStone (n : Nat) (v : StonePwr) (i : Nat) : (s.setStone n v).racePort i = s.racePort i := rfl
@[simp] theorem host_at_setStone (n : Nat) (v : StonePwr) (i : Nat) : (s.setStone n v).host i = s.host i := rfl
@[simp] theorem page_at_setStone (n : Nat) (v : StonePwr) (i : Nat) : (s.setStone n v).page i = s.page i := rfl
@[simp] theorem session_at_setStone (n : Nat) (v : StonePwr) (i j : Nat) : (s.setStone n v).session i j = s.session i j := rfl

/-! `setPage` writes `mm` only. -/
@[simp] theorem part_setPage (p : Nat) (e : ImpEnt) : (s.setPage p e).part = s.part := rfl
@[simp] theorem freeCtr_setPage (p : Nat) (e : ImpEnt) : (s.setPage p e).freeCtr = s.freeCtr := rfl
@[simp] theorem timeNs_setPage (p : Nat) (e : ImpEnt) : (s.setPage p e).timeNs = s.timeNs := rfl
@[simp] theorem mem_setPage (p : Nat) (e : ImpEnt) : (s.setPage p e).mem = s.mem := rfl
@[simp] theorem querns_setPage (p : Nat) (e : ImpEnt) : (s.setPage p e).querns = s.querns := rfl
@[simp] theorem ctxs_setPage (p : Nat) (e : ImpEnt) : (s.setPage p e).ctxs = s.ctxs := rfl
@[simp] theorem hoppers_setPage (p : Nat) (e : ImpEnt) : (s.setPage p e).hoppers = s.hoppers := rfl
@[simp] theorem pool_setPage (p : Nat) (e : ImpEnt) : (s.setPage p e).pool = s.pool := rfl
@[simp] theorem nextEntry_setPage (p : Nat) (e : ImpEnt) : (s.setPage p e).nextEntry = s.nextEntry := rfl
@[simp] theorem flumes_setPage (p : Nat) (e : ImpEnt) : (s.setPage p e).flumes = s.flumes := rfl
@[simp] theorem eds_setPage (p : Nat) (e : ImpEnt) : (s.setPage p e).eds = s.eds := rfl
@[simp] theorem shards_setPage (p : Nat) (e : ImpEnt) : (s.setPage p e).shards = s.shards := rfl
@[simp] theorem galley_setPage (p : Nat) (e : ImpEnt) : (s.setPage p e).galley = s.galley := rfl
@[simp] theorem races_setPage (p : Nat) (e : ImpEnt) : (s.setPage p e).races = s.races := rfl
@[simp] theorem racePorts_setPage (p : Nat) (e : ImpEnt) : (s.setPage p e).racePorts = s.racePorts := rfl
@[simp] theorem hosts_setPage (p : Nat) (e : ImpEnt) : (s.setPage p e).hosts = s.hosts := rfl
@[simp] theorem sec_setPage (p : Nat) (e : ImpEnt) : (s.setPage p e).sec = s.sec := rfl
@[simp] theorem mil_setPage (p : Nat) (e : ImpEnt) : (s.setPage p e).mil = s.mil := rfl
@[simp] theorem boot_setPage (p : Nat) (e : ImpEnt) : (s.setPage p e).boot = s.boot := rfl
@[simp] theorem pwr_setPage (p : Nat) (e : ImpEnt) : (s.setPage p e).pwr = s.pwr := rfl
@[simp] theorem pair_setPage (p : Nat) (e : ImpEnt) : (s.setPage p e).pair = s.pair := rfl
@[simp] theorem board_setPage (p : Nat) (e : ImpEnt) : (s.setPage p e).board = s.board := rfl
@[simp] theorem grantStalls_setPage (p : Nat) (e : ImpEnt) : (s.setPage p e).grantStalls = s.grantStalls := rfl
@[simp] theorem ipWait_setPage (p : Nat) (e : ImpEnt) : (s.setPage p e).ipWait = s.ipWait := rfl
@[simp] theorem cookieSecret_setPage (p : Nat) (e : ImpEnt) : (s.setPage p e).cookieSecret = s.cookieSecret := rfl
@[simp] theorem cookiePrev_setPage (p : Nat) (e : ImpEnt) : (s.setPage p e).cookiePrev = s.cookiePrev := rfl
@[simp] theorem cookieEpoch_setPage (p : Nat) (e : ImpEnt) : (s.setPage p e).cookieEpoch = s.cookieEpoch := rfl
@[simp] theorem stepEventBase_setPage (p : Nat) (e : ImpEnt) : (s.setPage p e).stepEventBase = s.stepEventBase := rfl
@[simp] theorem stepEventLow_setPage (p : Nat) (e : ImpEnt) : (s.setPage p e).stepEventLow = s.stepEventLow := rfl
@[simp] theorem out_setPage (p : Nat) (e : ImpEnt) : (s.setPage p e).out = s.out := rfl
@[simp] theorem pending_setPage (p : Nat) (e : ImpEnt) : (s.setPage p e).pending = s.pending := rfl
@[simp] theorem quern_at_setPage (p : Nat) (e : ImpEnt) (i : Nat) : (s.setPage p e).quern i = s.quern i := rfl
@[simp] theorem ctx_at_setPage (p : Nat) (e : ImpEnt) (i : Nat) : (s.setPage p e).ctx i = s.ctx i := rfl
@[simp] theorem hopper_at_setPage (p : Nat) (e : ImpEnt) (i : Nat) : (s.setPage p e).hopper i = s.hopper i := rfl
@[simp] theorem entry_at_setPage (p : Nat) (e : ImpEnt) (i : Nat) : (s.setPage p e).entry? i = s.entry? i := rfl
@[simp] theorem flume_at_setPage (p : Nat) (e : ImpEnt) (i : Nat) : (s.setPage p e).flume i = s.flume i := rfl
@[simp] theorem ed_at_setPage (p : Nat) (e : ImpEnt) (i : Nat) : (s.setPage p e).ed i = s.ed i := rfl
@[simp] theorem shard_at_setPage (p : Nat) (e : ImpEnt) (i : Nat) : (s.setPage p e).shard i = s.shard i := rfl
@[simp] theorem race_at_setPage (p : Nat) (e : ImpEnt) (i : Nat) : (s.setPage p e).race i = s.race i := rfl
@[simp] theorem racePort_at_setPage (p : Nat) (e : ImpEnt) (i : Nat) : (s.setPage p e).racePort i = s.racePort i := rfl
@[simp] theorem host_at_setPage (p : Nat) (e : ImpEnt) (i : Nat) : (s.setPage p e).host i = s.host i := rfl
@[simp] theorem stone_at_setPage (p : Nat) (e : ImpEnt) (i : Nat) : (s.setPage p e).stone i = s.stone i := rfl
@[simp] theorem session_at_setPage (p : Nat) (e : ImpEnt) (i j : Nat) : (s.setPage p e).session i j = s.session i j := rfl

/-! `setSession` writes `hosts` only. -/
@[simp] theorem part_setSession (p n : Nat) (v : Session) : (s.setSession p n v).part = s.part := rfl
@[simp] theorem freeCtr_setSession (p n : Nat) (v : Session) : (s.setSession p n v).freeCtr = s.freeCtr := rfl
@[simp] theorem timeNs_setSession (p n : Nat) (v : Session) : (s.setSession p n v).timeNs = s.timeNs := rfl
@[simp] theorem mem_setSession (p n : Nat) (v : Session) : (s.setSession p n v).mem = s.mem := rfl
@[simp] theorem mm_setSession (p n : Nat) (v : Session) : (s.setSession p n v).mm = s.mm := rfl
@[simp] theorem querns_setSession (p n : Nat) (v : Session) : (s.setSession p n v).querns = s.querns := rfl
@[simp] theorem ctxs_setSession (p n : Nat) (v : Session) : (s.setSession p n v).ctxs = s.ctxs := rfl
@[simp] theorem hoppers_setSession (p n : Nat) (v : Session) : (s.setSession p n v).hoppers = s.hoppers := rfl
@[simp] theorem pool_setSession (p n : Nat) (v : Session) : (s.setSession p n v).pool = s.pool := rfl
@[simp] theorem nextEntry_setSession (p n : Nat) (v : Session) : (s.setSession p n v).nextEntry = s.nextEntry := rfl
@[simp] theorem flumes_setSession (p n : Nat) (v : Session) : (s.setSession p n v).flumes = s.flumes := rfl
@[simp] theorem eds_setSession (p n : Nat) (v : Session) : (s.setSession p n v).eds = s.eds := rfl
@[simp] theorem shards_setSession (p n : Nat) (v : Session) : (s.setSession p n v).shards = s.shards := rfl
@[simp] theorem galley_setSession (p n : Nat) (v : Session) : (s.setSession p n v).galley = s.galley := rfl
@[simp] theorem races_setSession (p n : Nat) (v : Session) : (s.setSession p n v).races = s.races := rfl
@[simp] theorem racePorts_setSession (p n : Nat) (v : Session) : (s.setSession p n v).racePorts = s.racePorts := rfl
@[simp] theorem sec_setSession (p n : Nat) (v : Session) : (s.setSession p n v).sec = s.sec := rfl
@[simp] theorem mil_setSession (p n : Nat) (v : Session) : (s.setSession p n v).mil = s.mil := rfl
@[simp] theorem boot_setSession (p n : Nat) (v : Session) : (s.setSession p n v).boot = s.boot := rfl
@[simp] theorem pwr_setSession (p n : Nat) (v : Session) : (s.setSession p n v).pwr = s.pwr := rfl
@[simp] theorem pair_setSession (p n : Nat) (v : Session) : (s.setSession p n v).pair = s.pair := rfl
@[simp] theorem board_setSession (p n : Nat) (v : Session) : (s.setSession p n v).board = s.board := rfl
@[simp] theorem grantStalls_setSession (p n : Nat) (v : Session) : (s.setSession p n v).grantStalls = s.grantStalls := rfl
@[simp] theorem ipWait_setSession (p n : Nat) (v : Session) : (s.setSession p n v).ipWait = s.ipWait := rfl
@[simp] theorem cookieSecret_setSession (p n : Nat) (v : Session) : (s.setSession p n v).cookieSecret = s.cookieSecret := rfl
@[simp] theorem cookiePrev_setSession (p n : Nat) (v : Session) : (s.setSession p n v).cookiePrev = s.cookiePrev := rfl
@[simp] theorem cookieEpoch_setSession (p n : Nat) (v : Session) : (s.setSession p n v).cookieEpoch = s.cookieEpoch := rfl
@[simp] theorem stepEventBase_setSession (p n : Nat) (v : Session) : (s.setSession p n v).stepEventBase = s.stepEventBase := rfl
@[simp] theorem stepEventLow_setSession (p n : Nat) (v : Session) : (s.setSession p n v).stepEventLow = s.stepEventLow := rfl
@[simp] theorem out_setSession (p n : Nat) (v : Session) : (s.setSession p n v).out = s.out := rfl
@[simp] theorem pending_setSession (p n : Nat) (v : Session) : (s.setSession p n v).pending = s.pending := rfl
@[simp] theorem quern_at_setSession (p n : Nat) (v : Session) (i : Nat) : (s.setSession p n v).quern i = s.quern i := rfl
@[simp] theorem ctx_at_setSession (p n : Nat) (v : Session) (i : Nat) : (s.setSession p n v).ctx i = s.ctx i := rfl
@[simp] theorem hopper_at_setSession (p n : Nat) (v : Session) (i : Nat) : (s.setSession p n v).hopper i = s.hopper i := rfl
@[simp] theorem entry_at_setSession (p n : Nat) (v : Session) (i : Nat) : (s.setSession p n v).entry? i = s.entry? i := rfl
@[simp] theorem flume_at_setSession (p n : Nat) (v : Session) (i : Nat) : (s.setSession p n v).flume i = s.flume i := rfl
@[simp] theorem ed_at_setSession (p n : Nat) (v : Session) (i : Nat) : (s.setSession p n v).ed i = s.ed i := rfl
@[simp] theorem shard_at_setSession (p n : Nat) (v : Session) (i : Nat) : (s.setSession p n v).shard i = s.shard i := rfl
@[simp] theorem race_at_setSession (p n : Nat) (v : Session) (i : Nat) : (s.setSession p n v).race i = s.race i := rfl
@[simp] theorem racePort_at_setSession (p n : Nat) (v : Session) (i : Nat) : (s.setSession p n v).racePort i = s.racePort i := rfl
@[simp] theorem stone_at_setSession (p n : Nat) (v : Session) (i : Nat) : (s.setSession p n v).stone i = s.stone i := rfl
@[simp] theorem page_at_setSession (p n : Nat) (v : Session) (i : Nat) : (s.setSession p n v).page i = s.page i := rfl

/-! `emit` writes `out` only. -/
@[simp] theorem part_emit (o : Out) : (s.emit o).part = s.part := rfl
@[simp] theorem freeCtr_emit (o : Out) : (s.emit o).freeCtr = s.freeCtr := rfl
@[simp] theorem timeNs_emit (o : Out) : (s.emit o).timeNs = s.timeNs := rfl
@[simp] theorem mem_emit (o : Out) : (s.emit o).mem = s.mem := rfl
@[simp] theorem mm_emit (o : Out) : (s.emit o).mm = s.mm := rfl
@[simp] theorem querns_emit (o : Out) : (s.emit o).querns = s.querns := rfl
@[simp] theorem ctxs_emit (o : Out) : (s.emit o).ctxs = s.ctxs := rfl
@[simp] theorem hoppers_emit (o : Out) : (s.emit o).hoppers = s.hoppers := rfl
@[simp] theorem pool_emit (o : Out) : (s.emit o).pool = s.pool := rfl
@[simp] theorem nextEntry_emit (o : Out) : (s.emit o).nextEntry = s.nextEntry := rfl
@[simp] theorem flumes_emit (o : Out) : (s.emit o).flumes = s.flumes := rfl
@[simp] theorem eds_emit (o : Out) : (s.emit o).eds = s.eds := rfl
@[simp] theorem shards_emit (o : Out) : (s.emit o).shards = s.shards := rfl
@[simp] theorem galley_emit (o : Out) : (s.emit o).galley = s.galley := rfl
@[simp] theorem races_emit (o : Out) : (s.emit o).races = s.races := rfl
@[simp] theorem racePorts_emit (o : Out) : (s.emit o).racePorts = s.racePorts := rfl
@[simp] theorem hosts_emit (o : Out) : (s.emit o).hosts = s.hosts := rfl
@[simp] theorem sec_emit (o : Out) : (s.emit o).sec = s.sec := rfl
@[simp] theorem mil_emit (o : Out) : (s.emit o).mil = s.mil := rfl
@[simp] theorem boot_emit (o : Out) : (s.emit o).boot = s.boot := rfl
@[simp] theorem pwr_emit (o : Out) : (s.emit o).pwr = s.pwr := rfl
@[simp] theorem pair_emit (o : Out) : (s.emit o).pair = s.pair := rfl
@[simp] theorem board_emit (o : Out) : (s.emit o).board = s.board := rfl
@[simp] theorem grantStalls_emit (o : Out) : (s.emit o).grantStalls = s.grantStalls := rfl
@[simp] theorem ipWait_emit (o : Out) : (s.emit o).ipWait = s.ipWait := rfl
@[simp] theorem cookieSecret_emit (o : Out) : (s.emit o).cookieSecret = s.cookieSecret := rfl
@[simp] theorem cookiePrev_emit (o : Out) : (s.emit o).cookiePrev = s.cookiePrev := rfl
@[simp] theorem cookieEpoch_emit (o : Out) : (s.emit o).cookieEpoch = s.cookieEpoch := rfl
@[simp] theorem stepEventBase_emit (o : Out) : (s.emit o).stepEventBase = s.stepEventBase := rfl
@[simp] theorem stepEventLow_emit (o : Out) : (s.emit o).stepEventLow = s.stepEventLow := rfl
@[simp] theorem pending_emit (o : Out) : (s.emit o).pending = s.pending := rfl
@[simp] theorem quern_at_emit (o : Out) (i : Nat) : (s.emit o).quern i = s.quern i := rfl
@[simp] theorem ctx_at_emit (o : Out) (i : Nat) : (s.emit o).ctx i = s.ctx i := rfl
@[simp] theorem hopper_at_emit (o : Out) (i : Nat) : (s.emit o).hopper i = s.hopper i := rfl
@[simp] theorem entry_at_emit (o : Out) (i : Nat) : (s.emit o).entry? i = s.entry? i := rfl
@[simp] theorem flume_at_emit (o : Out) (i : Nat) : (s.emit o).flume i = s.flume i := rfl
@[simp] theorem ed_at_emit (o : Out) (i : Nat) : (s.emit o).ed i = s.ed i := rfl
@[simp] theorem shard_at_emit (o : Out) (i : Nat) : (s.emit o).shard i = s.shard i := rfl
@[simp] theorem race_at_emit (o : Out) (i : Nat) : (s.emit o).race i = s.race i := rfl
@[simp] theorem racePort_at_emit (o : Out) (i : Nat) : (s.emit o).racePort i = s.racePort i := rfl
@[simp] theorem host_at_emit (o : Out) (i : Nat) : (s.emit o).host i = s.host i := rfl
@[simp] theorem stone_at_emit (o : Out) (i : Nat) : (s.emit o).stone i = s.stone i := rfl
@[simp] theorem page_at_emit (o : Out) (i : Nat) : (s.emit o).page i = s.page i := rfl
@[simp] theorem session_at_emit (o : Out) (i j : Nat) : (s.emit o).session i j = s.session i j := rfl

/-! `nextFree` writes `freeCtr` only. -/
@[simp] theorem part_nextFree : (s.nextFree).part = s.part := rfl
@[simp] theorem timeNs_nextFree : (s.nextFree).timeNs = s.timeNs := rfl
@[simp] theorem mem_nextFree : (s.nextFree).mem = s.mem := rfl
@[simp] theorem mm_nextFree : (s.nextFree).mm = s.mm := rfl
@[simp] theorem querns_nextFree : (s.nextFree).querns = s.querns := rfl
@[simp] theorem ctxs_nextFree : (s.nextFree).ctxs = s.ctxs := rfl
@[simp] theorem hoppers_nextFree : (s.nextFree).hoppers = s.hoppers := rfl
@[simp] theorem pool_nextFree : (s.nextFree).pool = s.pool := rfl
@[simp] theorem nextEntry_nextFree : (s.nextFree).nextEntry = s.nextEntry := rfl
@[simp] theorem flumes_nextFree : (s.nextFree).flumes = s.flumes := rfl
@[simp] theorem eds_nextFree : (s.nextFree).eds = s.eds := rfl
@[simp] theorem shards_nextFree : (s.nextFree).shards = s.shards := rfl
@[simp] theorem galley_nextFree : (s.nextFree).galley = s.galley := rfl
@[simp] theorem races_nextFree : (s.nextFree).races = s.races := rfl
@[simp] theorem racePorts_nextFree : (s.nextFree).racePorts = s.racePorts := rfl
@[simp] theorem hosts_nextFree : (s.nextFree).hosts = s.hosts := rfl
@[simp] theorem sec_nextFree : (s.nextFree).sec = s.sec := rfl
@[simp] theorem mil_nextFree : (s.nextFree).mil = s.mil := rfl
@[simp] theorem boot_nextFree : (s.nextFree).boot = s.boot := rfl
@[simp] theorem pwr_nextFree : (s.nextFree).pwr = s.pwr := rfl
@[simp] theorem pair_nextFree : (s.nextFree).pair = s.pair := rfl
@[simp] theorem board_nextFree : (s.nextFree).board = s.board := rfl
@[simp] theorem grantStalls_nextFree : (s.nextFree).grantStalls = s.grantStalls := rfl
@[simp] theorem ipWait_nextFree : (s.nextFree).ipWait = s.ipWait := rfl
@[simp] theorem cookieSecret_nextFree : (s.nextFree).cookieSecret = s.cookieSecret := rfl
@[simp] theorem cookiePrev_nextFree : (s.nextFree).cookiePrev = s.cookiePrev := rfl
@[simp] theorem cookieEpoch_nextFree : (s.nextFree).cookieEpoch = s.cookieEpoch := rfl
@[simp] theorem stepEventBase_nextFree : (s.nextFree).stepEventBase = s.stepEventBase := rfl
@[simp] theorem stepEventLow_nextFree : (s.nextFree).stepEventLow = s.stepEventLow := rfl
@[simp] theorem out_nextFree : (s.nextFree).out = s.out := rfl
@[simp] theorem pending_nextFree : (s.nextFree).pending = s.pending := rfl
@[simp] theorem quern_at_nextFree  (i : Nat) : (s.nextFree).quern i = s.quern i := rfl
@[simp] theorem ctx_at_nextFree  (i : Nat) : (s.nextFree).ctx i = s.ctx i := rfl
@[simp] theorem hopper_at_nextFree  (i : Nat) : (s.nextFree).hopper i = s.hopper i := rfl
@[simp] theorem entry_at_nextFree  (i : Nat) : (s.nextFree).entry? i = s.entry? i := rfl
@[simp] theorem flume_at_nextFree  (i : Nat) : (s.nextFree).flume i = s.flume i := rfl
@[simp] theorem ed_at_nextFree  (i : Nat) : (s.nextFree).ed i = s.ed i := rfl
@[simp] theorem shard_at_nextFree  (i : Nat) : (s.nextFree).shard i = s.shard i := rfl
@[simp] theorem race_at_nextFree  (i : Nat) : (s.nextFree).race i = s.race i := rfl
@[simp] theorem racePort_at_nextFree  (i : Nat) : (s.nextFree).racePort i = s.racePort i := rfl
@[simp] theorem host_at_nextFree  (i : Nat) : (s.nextFree).host i = s.host i := rfl
@[simp] theorem stone_at_nextFree  (i : Nat) : (s.nextFree).stone i = s.stone i := rfl
@[simp] theorem page_at_nextFree  (i : Nat) : (s.nextFree).page i = s.page i := rfl
@[simp] theorem session_at_nextFree  (i j : Nat) : (s.nextFree).session i j = s.session i j := rfl

/-! A unit that was set reads as it was set, and every other unit as before. -/
@[simp] theorem quern_setQuern_same (i : Nat) (v : Quern) : (s.setQuern i v).quern i = v := by simp [quern, setQuern]
theorem quern_setQuern_ne (i j : Nat) (v : Quern) (h : j ≠ i) : (s.setQuern i v).quern j = s.quern j := by simp [quern, setQuern, Tbl.getD_set_ne _ _ _ _ _ h]
@[simp] theorem ctx_setCtx_same (i : Nat) (v : Ctx) : (s.setCtx i v).ctx i = v := by simp [ctx, setCtx]
theorem ctx_setCtx_ne (i j : Nat) (v : Ctx) (h : j ≠ i) : (s.setCtx i v).ctx j = s.ctx j := by simp [ctx, setCtx, Tbl.getD_set_ne _ _ _ _ _ h]
@[simp] theorem hopper_setHopper_same (i : Nat) (v : Hopper) : (s.setHopper i v).hopper i = v := by simp [hopper, setHopper]
theorem hopper_setHopper_ne (i j : Nat) (v : Hopper) (h : j ≠ i) : (s.setHopper i v).hopper j = s.hopper j := by simp [hopper, setHopper, Tbl.getD_set_ne _ _ _ _ _ h]
@[simp] theorem flume_setFlume_same (i : Nat) (v : Flume) : (s.setFlume i v).flume i = v := by simp [flume, setFlume]
theorem flume_setFlume_ne (i j : Nat) (v : Flume) (h : j ≠ i) : (s.setFlume i v).flume j = s.flume j := by simp [flume, setFlume, Tbl.getD_set_ne _ _ _ _ _ h]
@[simp] theorem ed_setEd_same (i : Nat) (v : EdEnt) : (s.setEd i v).ed i = v := by simp [ed, setEd]
theorem ed_setEd_ne (i j : Nat) (v : EdEnt) (h : j ≠ i) : (s.setEd i v).ed j = s.ed j := by simp [ed, setEd, Tbl.getD_set_ne _ _ _ _ _ h]
@[simp] theorem shard_setShard_same (i : Nat) (v : Shard) : (s.setShard i v).shard i = v := by simp [shard, setShard]
theorem shard_setShard_ne (i j : Nat) (v : Shard) (h : j ≠ i) : (s.setShard i v).shard j = s.shard j := by simp [shard, setShard, Tbl.getD_set_ne _ _ _ _ _ h]
@[simp] theorem race_setRace_same (i : Nat) (v : Race) : (s.setRace i v).race i = v := by simp [race, setRace]
theorem race_setRace_ne (i j : Nat) (v : Race) (h : j ≠ i) : (s.setRace i v).race j = s.race j := by simp [race, setRace, Tbl.getD_set_ne _ _ _ _ _ h]
@[simp] theorem racePort_setRacePort_same (i : Nat) (v : RacePort) : (s.setRacePort i v).racePort i = v := by simp [racePort, setRacePort]
theorem racePort_setRacePort_ne (i j : Nat) (v : RacePort) (h : j ≠ i) : (s.setRacePort i v).racePort j = s.racePort j := by simp [racePort, setRacePort, Tbl.getD_set_ne _ _ _ _ _ h]
@[simp] theorem host_setHost_same (i : Nat) (v : HostPort) : (s.setHost i v).host i = v := by simp [host, setHost]
theorem host_setHost_ne (i j : Nat) (v : HostPort) (h : j ≠ i) : (s.setHost i v).host j = s.host j := by simp [host, setHost, Tbl.getD_set_ne _ _ _ _ _ h]
@[simp] theorem stone_setStone_same (i : Nat) (v : StonePwr) : (s.setStone i v).stone i = v := by simp [stone, setStone]
theorem stone_setStone_ne (i j : Nat) (v : StonePwr) (h : j ≠ i) : (s.setStone i v).stone j = s.stone j := by simp [stone, setStone, Tbl.getD_set_ne _ _ _ _ _ h]
@[simp] theorem page_setPage_same (i : Nat) (v : ImpEnt) : (s.setPage i v).page i = v := by simp [page, setPage]
theorem page_setPage_ne (i j : Nat) (v : ImpEnt) (h : j ≠ i) : (s.setPage i v).page j = s.page j := by simp [page, setPage, Tbl.getD_set_ne _ _ _ _ _ h]
@[simp] theorem entry_setEntry_same (i : Nat) (v : Entry) : (s.setEntry i v).entry? i = some v := by simp [entry?, setEntry]
theorem entry_setEntry_ne (i j : Nat) (v : Entry) (h : j ≠ i) : (s.setEntry i v).entry? j = s.entry? j := by simp [entry?, setEntry, Tbl.find?_set_ne _ _ _ _ h]
@[simp] theorem session_setSession_same (p n : Nat) (v : Session) : (s.setSession p n v).session p n = v := by simp [session, setSession, updHost]
@[simp] theorem out_emit (o : Out) : (s.emit o).out = s.out ++ [o] := rfl
@[simp] theorem freeCtr_nextFree : s.nextFree.freeCtr = s.freeCtr + 1 := rfl

end Sys2Proof.Machine.State
end

