-- ==== Sys2Proof/Laws/Deliver.lean ====
section
/-!
SUPPORT. Sealed frames as they come, once for all of them: every outcome that `arrive`, `onRace` and `onHost` can have, when nothing stands
behind a frame, what the numbering makes of a frame, and the clock of a clocked domain.
-/

namespace Sys2Proof.Machine

open Sys2Proof

/-! ### Clocked domains (R37) -/

theorem whileClocked_runs {s : State} (h : s.board.haltedByClock = false) (k : Res) : whileClocked s k = k := by simp [whileClocked, h]
theorem whileClocked_stopped {s : State} (h : s.board.haltedByClock = true) (k : Res) : whileClocked s k = .next s := by simp [whileClocked, h]

/-! ### The flash -/

/-- A write of the flash shows its pulse and nothing else. -/
theorem flashWrite_eq (s : State) : flashWrite s = { s with out := s.out ++ [.fwp false] ++ [.fwp true] } := rfl

/-! ### Arrival (R340, R342, R345, R366) -/

/-- A frame that its carrier delivers has its effect, and what stood behind it follows. -/
theorem arrive_delivered {h : FrameHdr} {c : Instr} {s s1 : State} (hr : receive h c s = (s1, true)) :
    arrive h c s = .next (released h s1 (deliverFrame c s1)) := by simp [arrive, hr, released]

/-- A frame that is dropped, kept or discarded has no other effect. -/
theorem arrive_undelivered {h : FrameHdr} {c : Instr} {s s1 : State} (hr : receive h c s = (s1, false)) : arrive h c s = .next s1 := by
  simp [arrive, hr]

/-- A frame always goes on. -/
theorem arrive_next (h : FrameHdr) (c : Instr) (s : State) : ∃ t, arrive h c s = .next t := by
  unfold arrive; split <;> exact ⟨_, rfl⟩

theorem onRace_via {r : Fin 32} {h : FrameHdr} (hv : h.via = .race r) (c : Instr) (s : State) : onRace r h c s = arrive h c s := by
  simp [onRace, hv]

theorem onHost_via {h : FrameHdr} {p : Fin 2} {n : Fin 64} (hv : h.via = .host p n) (c : Instr) (s : State) : onHost h c s = arrive h c s := by
  simp [onHost, hv]

/-- With an empty receive buffer nothing follows. -/
theorem released_empty {h : FrameHdr} {s1 : State} (hk : keptCount h.via s1 = 0) (t : State) : released h s1 t = t := by
  simp [released, hk, deliverKept]

/-- When the frame that the numbering expects is not in the buffer, nothing follows. -/
theorem deliverKept_none {via : Carrier} {t : State} (h : takeKept via t = none) (n : Nat) : deliverKept via n t = t := by
  cases n <;> simp [deliverKept, h]

theorem takeKept_fabric (s : State) : takeKept .fabric s = none := rfl

/-! ### Numbering (R342, R343, R345) -/

/-- The next number in order is delivered, and the highest number in order becomes that number. -/
theorem RxLink.take_next (x : RxLink) (no : W48) (c : Instr) (now rtt : Nat) (h : above48 no x.ack = 1)
    (hk : ∀ f ∈ x.above, f.1 ≠ x.ack + 1) :
    x.take no c now rtt = .deliver { x with
      sinceAck := x.sinceAck + 1, count := x.count + 1, ack := x.ack + 1, nacked := x.nacked.filter (fun n => decide (x.ack + 1 < n.1)) } := by
  have : x.above.any (fun f => f.1 == x.ack + 1) = false := by
    rw [List.any_eq_false]; intro f hf; simpa using hk f hf
  simp [RxLink.take, h, this]

/-- A number at or below the highest one in order is discarded. -/
theorem RxLink.take_old (x : RxLink) (no : W48) (c : Instr) (now rtt : Nat) (h : above48 no x.ack = 0 ∨ 2 ^ 47 ≤ above48 no x.ack) :
    x.take no c now rtt = .old { x with sinceAck := x.sinceAck + 1, count := x.count + 1 } := by
  simp only [RxLink.take]
  rw [if_pos]
  rcases h with h | h
  · exact .inl h
  · exact .inr (.inl h)

/-- A number above a gap that the buffer does not hold yet is kept. -/
theorem RxLink.take_above (x : RxLink) (no : W48) (c : Instr) (now rtt d : Nat) (h : above48 no x.ack = d) (h2 : 2 ≤ d) (h47 : d < 2 ^ 47)
    (hk : ∀ f ∈ x.above, f.1 ≠ x.ack + d) :
    ∃ y k, x.take no c now rtt = .early y k ∧ y.above = x.above ++ [(x.ack + d, c)] ∧ y.ack = x.ack := by
  have : x.above.any (fun f => f.1 == x.ack + d) = false := by
    rw [List.any_eq_false]; intro f hf; simpa using hk f hf
  simp only [RxLink.take, h, this]
  rw [if_neg (by simp; omega), if_neg (by omega)]
  split <;> exact ⟨_, _, rfl, rfl, rfl⟩

/-! ### Job requests (R369) -/

/-- A session that is not OPEN, or whose request has acted and waits for its response, goes no further. -/
theorem runFirst_idle {p n : Nat} {s : State} (h : (s.session p n).state ≠ .openS ∨ (s.session p n).acted = true) : runFirst p n s = none := by
  unfold runFirst; rw [if_pos h]

theorem runRequests_none {p n : Nat} {s : State} (h : runFirst p n s = none) (k : Nat) : runRequests p n k s = s := by
  cases k <;> simp [runRequests, h]

end Sys2Proof.Machine
end

