-- ==== Sys2Proof/Laws/Events.lean ====
section
/-!
SUPPORT. What logging an event, a defect record and sending write, and what they leave as it was.
-/

namespace Sys2Proof.Machine

open Sys2Proof

variable (s : State)

/-! `toSubscribers` writes `hosts` only. -/
theorem toSubscribers_eq (f : Frame) : ∃ a, toSubscribers s f = { s with hosts := a } := by
  suffices h : ∀ (l : List (Nat × Nat)) (s : State), ∃ a, l.foldl (fun s x => enqueueSession s x.1 x.2 3 f) s = { s with hosts := a } from
    h (subscribers s) s
  intro l
  induction l with
  | nil => exact fun s => ⟨s.hosts, rfl⟩
  | cons x l ih =>
    intro s
    obtain ⟨a, h⟩ := ih (enqueueSession s x.1 x.2 3 f)
    exact ⟨a, by rw [List.foldl_cons, h]; rfl⟩
@[simp] theorem part_toSubscribers (f : Frame) : (toSubscribers s f).part = s.part := by obtain ⟨_, h⟩ := toSubscribers_eq s f; rw [h]
@[simp] theorem freeCtr_toSubscribers (f : Frame) : (toSubscribers s f).freeCtr = s.freeCtr := by obtain ⟨_, h⟩ := toSubscribers_eq s f; rw [h]
@[simp] theorem timeNs_toSubscribers (f : Frame) : (toSubscribers s f).timeNs = s.timeNs := by obtain ⟨_, h⟩ := toSubscribers_eq s f; rw [h]
@[simp] theorem mem_toSubscribers (f : Frame) : (toSubscribers s f).mem = s.mem := by obtain ⟨_, h⟩ := toSubscribers_eq s f; rw [h]
@[simp] theorem mm_toSubscribers (f : Frame) : (toSubscribers s f).mm = s.mm := by obtain ⟨_, h⟩ := toSubscribers_eq s f; rw [h]
@[simp] theorem querns_toSubscribers (f : Frame) : (toSubscribers s f).querns = s.querns := by obtain ⟨_, h⟩ := toSubscribers_eq s f; rw [h]
@[simp] theorem ctxs_toSubscribers (f : Frame) : (toSubscribers s f).ctxs = s.ctxs := by obtain ⟨_, h⟩ := toSubscribers_eq s f; rw [h]
@[simp] theorem hoppers_toSubscribers (f : Frame) : (toSubscribers s f).hoppers = s.hoppers := by obtain ⟨_, h⟩ := toSubscribers_eq s f; rw [h]
@[simp] theorem pool_toSubscribers (f : Frame) : (toSubscribers s f).pool = s.pool := by obtain ⟨_, h⟩ := toSubscribers_eq s f; rw [h]
@[simp] theorem nextEntry_toSubscribers (f : Frame) : (toSubscribers s f).nextEntry = s.nextEntry := by obtain ⟨_, h⟩ := toSubscribers_eq s f; rw [h]
@[simp] theorem flumes_toSubscribers (f : Frame) : (toSubscribers s f).flumes = s.flumes := by obtain ⟨_, h⟩ := toSubscribers_eq s f; rw [h]
@[simp] theorem eds_toSubscribers (f : Frame) : (toSubscribers s f).eds = s.eds := by obtain ⟨_, h⟩ := toSubscribers_eq s f; rw [h]
@[simp] theorem shards_toSubscribers (f : Frame) : (toSubscribers s f).shards = s.shards := by obtain ⟨_, h⟩ := toSubscribers_eq s f; rw [h]
@[simp] theorem galley_toSubscribers (f : Frame) : (toSubscribers s f).galley = s.galley := by obtain ⟨_, h⟩ := toSubscribers_eq s f; rw [h]
@[simp] theorem races_toSubscribers (f : Frame) : (toSubscribers s f).races = s.races := by obtain ⟨_, h⟩ := toSubscribers_eq s f; rw [h]
@[simp] theorem racePorts_toSubscribers (f : Frame) : (toSubscribers s f).racePorts = s.racePorts := by obtain ⟨_, h⟩ := toSubscribers_eq s f; rw [h]
@[simp] theorem sec_toSubscribers (f : Frame) : (toSubscribers s f).sec = s.sec := by obtain ⟨_, h⟩ := toSubscribers_eq s f; rw [h]
@[simp] theorem mil_toSubscribers (f : Frame) : (toSubscribers s f).mil = s.mil := by obtain ⟨_, h⟩ := toSubscribers_eq s f; rw [h]
@[simp] theorem boot_toSubscribers (f : Frame) : (toSubscribers s f).boot = s.boot := by obtain ⟨_, h⟩ := toSubscribers_eq s f; rw [h]
@[simp] theorem pwr_toSubscribers (f : Frame) : (toSubscribers s f).pwr = s.pwr := by obtain ⟨_, h⟩ := toSubscribers_eq s f; rw [h]
@[simp] theorem pair_toSubscribers (f : Frame) : (toSubscribers s f).pair = s.pair := by obtain ⟨_, h⟩ := toSubscribers_eq s f; rw [h]
@[simp] theorem board_toSubscribers (f : Frame) : (toSubscribers s f).board = s.board := by obtain ⟨_, h⟩ := toSubscribers_eq s f; rw [h]
@[simp] theorem grantStalls_toSubscribers (f : Frame) : (toSubscribers s f).grantStalls = s.grantStalls := by obtain ⟨_, h⟩ := toSubscribers_eq s f; rw [h]
@[simp] theorem ipWait_toSubscribers (f : Frame) : (toSubscribers s f).ipWait = s.ipWait := by obtain ⟨_, h⟩ := toSubscribers_eq s f; rw [h]
@[simp] theorem cookieSecret_toSubscribers (f : Frame) : (toSubscribers s f).cookieSecret = s.cookieSecret := by obtain ⟨_, h⟩ := toSubscribers_eq s f; rw [h]
@[simp] theorem cookiePrev_toSubscribers (f : Frame) : (toSubscribers s f).cookiePrev = s.cookiePrev := by obtain ⟨_, h⟩ := toSubscribers_eq s f; rw [h]
@[simp] theorem cookieEpoch_toSubscribers (f : Frame) : (toSubscribers s f).cookieEpoch = s.cookieEpoch := by obtain ⟨_, h⟩ := toSubscribers_eq s f; rw [h]
@[simp] theorem stepEventBase_toSubscribers (f : Frame) : (toSubscribers s f).stepEventBase = s.stepEventBase := by obtain ⟨_, h⟩ := toSubscribers_eq s f; rw [h]
@[simp] theorem stepEventLow_toSubscribers (f : Frame) : (toSubscribers s f).stepEventLow = s.stepEventLow := by obtain ⟨_, h⟩ := toSubscribers_eq s f; rw [h]
@[simp] theorem out_toSubscribers (f : Frame) : (toSubscribers s f).out = s.out := by obtain ⟨_, h⟩ := toSubscribers_eq s f; rw [h]
@[simp] theorem pending_toSubscribers (f : Frame) : (toSubscribers s f).pending = s.pending := by obtain ⟨_, h⟩ := toSubscribers_eq s f; rw [h]
@[simp] theorem quern_at_toSubscribers (f : Frame) (i : Nat) : (toSubscribers s f).quern i = s.quern i := by simp only [State.quern, querns_toSubscribers]
@[simp] theorem ctx_at_toSubscribers (f : Frame) (i : Nat) : (toSubscribers s f).ctx i = s.ctx i := by simp only [State.ctx, ctxs_toSubscribers]
@[simp] theorem hopper_at_toSubscribers (f : Frame) (i : Nat) : (toSubscribers s f).hopper i = s.hopper i := by simp only [State.hopper, hoppers_toSubscribers]
@[simp] theorem entry_at_toSubscribers (f : Frame) (i : Nat) : (toSubscribers s f).entry? i = s.entry? i := by simp only [State.entry?, pool_toSubscribers]
@[simp] theorem flume_at_toSubscribers (f : Frame) (i : Nat) : (toSubscribers s f).flume i = s.flume i := by simp only [State.flume, flumes_toSubscribers]
@[simp] theorem ed_at_toSubscribers (f : Frame) (i : Nat) : (toSubscribers s f).ed i = s.ed i := by simp only [State.ed, eds_toSubscribers]
@[simp] theorem shard_at_toSubscribers (f : Frame) (i : Nat) : (toSubscribers s f).shard i = s.shard i := by simp only [State.shard, shards_toSubscribers]
@[simp] theorem race_at_toSubscribers (f : Frame) (i : Nat) : (toSubscribers s f).race i = s.race i := by simp only [State.race, races_toSubscribers]
@[simp] theorem racePort_at_toSubscribers (f : Frame) (i : Nat) : (toSubscribers s f).racePort i = s.racePort i := by simp only [State.racePort, racePorts_toSubscribers]
@[simp] theorem stone_at_toSubscribers (f : Frame) (i : Nat) : (toSubscribers s f).stone i = s.stone i := by simp only [State.stone, pwr_toSubscribers]
@[simp] theorem page_at_toSubscribers (f : Frame) (i : Nat) : (toSubscribers s f).page i = s.page i := by simp only [State.page, mm_toSubscribers]

/-! `recordEvent` and `logEvent` write `hosts`, `mil`, `out` only. -/
theorem recordEvent_eq (code scope id : Nat) (detail : List Nat) :
    ∃ a b c, recordEvent s code scope id detail = { s with hosts := a, mil := b, out := c } := by
  unfold recordEvent
  dsimp only
  split
  · obtain ⟨a, h⟩ := toSubscribers_eq _ _
    exact ⟨a, _, _, h⟩
  · exact ⟨s.hosts, _, _, rfl⟩

theorem logEvent_eq (code scope id : Nat) (detail : List Nat) : ∃ a b c, logEvent s code scope id detail = { s with hosts := a, mil := b, out := c } := by
  obtain ⟨a, b, c, h⟩ := recordEvent_eq s code scope id detail
  unfold logEvent
  dsimp only
  split
  · obtain ⟨a', b', c', h'⟩ := recordEvent_eq (recordEvent s code scope id detail) evLogOverflow scPackage 0 []
    exact ⟨a', b', c', by rw [h', h]⟩
  · exact ⟨a, b, c, h⟩
@[simp] theorem part_logEvent (code scope id : Nat) (detail : List Nat) : (logEvent s code scope id detail).part = s.part := by obtain ⟨_, _, _, h⟩ := logEvent_eq s code scope id detail; rw [h]
@[simp] theorem freeCtr_logEvent (code scope id : Nat) (detail : List Nat) : (logEvent s code scope id detail).freeCtr = s.freeCtr := by obtain ⟨_, _, _, h⟩ := logEvent_eq s code scope id detail; rw [h]
@[simp] theorem timeNs_logEvent (code scope id : Nat) (detail : List Nat) : (logEvent s code scope id detail).timeNs = s.timeNs := by obtain ⟨_, _, _, h⟩ := logEvent_eq s code scope id detail; rw [h]
@[simp] theorem mem_logEvent (code scope id : Nat) (detail : List Nat) : (logEvent s code scope id detail).mem = s.mem := by obtain ⟨_, _, _, h⟩ := logEvent_eq s code scope id detail; rw [h]
@[simp] theorem mm_logEvent (code scope id : Nat) (detail : List Nat) : (logEvent s code scope id detail).mm = s.mm := by obtain ⟨_, _, _, h⟩ := logEvent_eq s code scope id detail; rw [h]
@[simp] theorem querns_logEvent (code scope id : Nat) (detail : List Nat) : (logEvent s code scope id detail).querns = s.querns := by obtain ⟨_, _, _, h⟩ := logEvent_eq s code scope id detail; rw [h]
@[simp] theorem ctxs_logEvent (code scope id : Nat) (detail : List Nat) : (logEvent s code scope id detail).ctxs = s.ctxs := by obtain ⟨_, _, _, h⟩ := logEvent_eq s code scope id detail; rw [h]
@[simp] theorem hoppers_logEvent (code scope id : Nat) (detail : List Nat) : (logEvent s code scope id detail).hoppers = s.hoppers := by obtain ⟨_, _, _, h⟩ := logEvent_eq s code scope id detail; rw [h]
@[simp] theorem pool_logEvent (code scope id : Nat) (detail : List Nat) : (logEvent s code scope id detail).pool = s.pool := by obtain ⟨_, _, _, h⟩ := logEvent_eq s code scope id detail; rw [h]
@[simp] theorem nextEntry_logEvent (code scope id : Nat) (detail : List Nat) : (logEvent s code scope id detail).nextEntry = s.nextEntry := by obtain ⟨_, _, _, h⟩ := logEvent_eq s code scope id detail; rw [h]
@[simp] theorem flumes_logEvent (code scope id : Nat) (detail : List Nat) : (logEvent s code scope id detail).flumes = s.flumes := by obtain ⟨_, _, _, h⟩ := logEvent_eq s code scope id detail; rw [h]
@[simp] theorem eds_logEvent (code scope id : Nat) (detail : List Nat) : (logEvent s code scope id detail).eds = s.eds := by obtain ⟨_, _, _, h⟩ := logEvent_eq s code scope id detail; rw [h]
@[simp] theorem shards_logEvent (code scope id : Nat) (detail : List Nat) : (logEvent s code scope id detail).shards = s.shards := by obtain ⟨_, _, _, h⟩ := logEvent_eq s code scope id detail; rw [h]
@[simp] theorem galley_logEvent (code scope id : Nat) (detail : List Nat) : (logEvent s code scope id detail).galley = s.galley := by obtain ⟨_, _, _, h⟩ := logEvent_eq s code scope id detail; rw [h]
@[simp] theorem races_logEvent (code scope id : Nat) (detail : List Nat) : (logEvent s code scope id detail).races = s.races := by obtain ⟨_, _, _, h⟩ := logEvent_eq s code scope id detail; rw [h]
@[simp] theorem racePorts_logEvent (code scope id : Nat) (detail : List Nat) : (logEvent s code scope id detail).racePorts = s.racePorts := by obtain ⟨_, _, _, h⟩ := logEvent_eq s code scope id detail; rw [h]
@[simp] theorem sec_logEvent (code scope id : Nat) (detail : List Nat) : (logEvent s code scope id detail).sec = s.sec := by obtain ⟨_, _, _, h⟩ := logEvent_eq s code scope id detail; rw [h]
@[simp] theorem boot_logEvent (code scope id : Nat) (detail : List Nat) : (logEvent s code scope id detail).boot = s.boot := by obtain ⟨_, _, _, h⟩ := logEvent_eq s code scope id detail; rw [h]
@[simp] theorem pwr_logEvent (code scope id : Nat) (detail : List Nat) : (logEvent s code scope id detail).pwr = s.pwr := by obtain ⟨_, _, _, h⟩ := logEvent_eq s code scope id detail; rw [h]
@[simp] theorem pair_logEvent (code scope id : Nat) (detail : List Nat) : (logEvent s code scope id detail).pair = s.pair := by obtain ⟨_, _, _, h⟩ := logEvent_eq s code scope id detail; rw [h]
@[simp] theorem board_logEvent (code scope id : Nat) (detail : List Nat) : (logEvent s code scope id detail).board = s.board := by obtain ⟨_, _, _, h⟩ := logEvent_eq s code scope id detail; rw [h]
@[simp] theorem grantStalls_logEvent (code scope id : Nat) (detail : List Nat) : (logEvent s code scope id detail).grantStalls = s.grantStalls := by obtain ⟨_, _, _, h⟩ := logEvent_eq s code scope id detail; rw [h]
@[simp] theorem ipWait_logEvent (code scope id : Nat) (detail : List Nat) : (logEvent s code scope id detail).ipWait = s.ipWait := by obtain ⟨_, _, _, h⟩ := logEvent_eq s code scope id detail; rw [h]
@[simp] theorem cookieSecret_logEvent (code scope id : Nat) (detail : List Nat) : (logEvent s code scope id detail).cookieSecret = s.cookieSecret := by obtain ⟨_, _, _, h⟩ := logEvent_eq s code scope id detail; rw [h]
@[simp] theorem cookiePrev_logEvent (code scope id : Nat) (detail : List Nat) : (logEvent s code scope id detail).cookiePrev = s.cookiePrev := by obtain ⟨_, _, _, h⟩ := logEvent_eq s code scope id detail; rw [h]
@[simp] theorem cookieEpoch_logEvent (code scope id : Nat) (detail : List Nat) : (logEvent s code scope id detail).cookieEpoch = s.cookieEpoch := by obtain ⟨_, _, _, h⟩ := logEvent_eq s code scope id detail; rw [h]
@[simp] theorem stepEventBase_logEvent (code scope id : Nat) (detail : List Nat) : (logEvent s code scope id detail).stepEventBase = s.stepEventBase := by obtain ⟨_, _, _, h⟩ := logEvent_eq s code scope id detail; rw [h]
@[simp] theorem stepEventLow_logEvent (code scope id : Nat) (detail : List Nat) : (logEvent s code scope id detail).stepEventLow = s.stepEventLow := by obtain ⟨_, _, _, h⟩ := logEvent_eq s code scope id detail; rw [h]
@[simp] theorem pending_logEvent (code scope id : Nat) (detail : List Nat) : (logEvent s code scope id detail).pending = s.pending := by obtain ⟨_, _, _, h⟩ := logEvent_eq s code scope id detail; rw [h]
@[simp] theorem quern_at_logEvent (code scope id : Nat) (detail : List Nat) (i : Nat) : (logEvent s code scope id detail).quern i = s.quern i := by simp only [State.quern, querns_logEvent]
@[simp] theorem ctx_at_logEvent (code scope id : Nat) (detail : List Nat) (i : Nat) : (logEvent s code scope id detail).ctx i = s.ctx i := by simp only [State.ctx, ctxs_logEvent]
@[simp] theorem hopper_at_logEvent (code scope id : Nat) (detail : List Nat) (i : Nat) : (logEvent s code scope id detail).hopper i = s.hopper i := by simp only [State.hopper, hoppers_logEvent]
@[simp] theorem entry_at_logEvent (code scope id : Nat) (detail : List Nat) (i : Nat) : (logEvent s code scope id detail).entry? i = s.entry? i := by simp only [State.entry?, pool_logEvent]
@[simp] theorem flume_at_logEvent (code scope id : Nat) (detail : List Nat) (i : Nat) : (logEvent s code scope id detail).flume i = s.flume i := by simp only [State.flume, flumes_logEvent]
@[simp] theorem ed_at_logEvent (code scope id : Nat) (detail : List Nat) (i : Nat) : (logEvent s code scope id detail).ed i = s.ed i := by simp only [State.ed, eds_logEvent]
@[simp] theorem shard_at_logEvent (code scope id : Nat) (detail : List Nat) (i : Nat) : (logEvent s code scope id detail).shard i = s.shard i := by simp only [State.shard, shards_logEvent]
@[simp] theorem race_at_logEvent (code scope id : Nat) (detail : List Nat) (i : Nat) : (logEvent s code scope id detail).race i = s.race i := by simp only [State.race, races_logEvent]
@[simp] theorem racePort_at_logEvent (code scope id : Nat) (detail : List Nat) (i : Nat) : (logEvent s code scope id detail).racePort i = s.racePort i := by simp only [State.racePort, racePorts_logEvent]
@[simp] theorem stone_at_logEvent (code scope id : Nat) (detail : List Nat) (i : Nat) : (logEvent s code scope id detail).stone i = s.stone i := by simp only [State.stone, pwr_logEvent]
@[simp] theorem page_at_logEvent (code scope id : Nat) (detail : List Nat) (i : Nat) : (logEvent s code scope id detail).page i = s.page i := by simp only [State.page, mm_logEvent]

/-! `addDefect` writes `hosts`, `mil`, `boot`, `out` only. -/
theorem addDefect_eq (kind source action location : Nat) (detail : W128) : ∃ a b c d, addDefect s kind source action location detail = { s with hosts := a, mil := b, boot := c, out := d } := by
  unfold addDefect
  dsimp only
  split
  · exact ⟨s.hosts, s.mil, _, s.out, rfl⟩
  · split
    · obtain ⟨a, b, c, h⟩ := logEvent_eq _ _ _ _ _
      exact ⟨a, b, _, c, h⟩
    · exact ⟨s.hosts, s.mil, _, _, rfl⟩
@[simp] theorem part_addDefect (kind source action location : Nat) (detail : W128) : (addDefect s kind source action location detail).part = s.part := by obtain ⟨_, _, _, _, h⟩ := addDefect_eq s kind source action location detail; rw [h]
@[simp] theorem freeCtr_addDefect (kind source action location : Nat) (detail : W128) : (addDefect s kind source action location detail).freeCtr = s.freeCtr := by obtain ⟨_, _, _, _, h⟩ := addDefect_eq s kind source action location detail; rw [h]
@[simp] theorem timeNs_addDefect (kind source action location : Nat) (detail : W128) : (addDefect s kind source action location detail).timeNs = s.timeNs := by obtain ⟨_, _, _, _, h⟩ := addDefect_eq s kind source action location detail; rw [h]
@[simp] theorem mem_addDefect (kind source action location : Nat) (detail : W128) : (addDefect s kind source action location detail).mem = s.mem := by obtain ⟨_, _, _, _, h⟩ := addDefect_eq s kind source action location detail; rw [h]
@[simp] theorem mm_addDefect (kind source action location : Nat) (detail : W128) : (addDefect s kind source action location detail).mm = s.mm := by obtain ⟨_, _, _, _, h⟩ := addDefect_eq s kind source action location detail; rw [h]
@[simp] theorem querns_addDefect (kind source action location : Nat) (detail : W128) : (addDefect s kind source action location detail).querns = s.querns := by obtain ⟨_, _, _, _, h⟩ := addDefect_eq s kind source action location detail; rw [h]
@[simp] theorem ctxs_addDefect (kind source action location : Nat) (detail : W128) : (addDefect s kind source action location detail).ctxs = s.ctxs := by obtain ⟨_, _, _, _, h⟩ := addDefect_eq s kind source action location detail; rw [h]
@[simp] theorem hoppers_addDefect (kind source action location : Nat) (detail : W128) : (addDefect s kind source action location detail).hoppers = s.hoppers := by obtain ⟨_, _, _, _, h⟩ := addDefect_eq s kind source action location detail; rw [h]
@[simp] theorem pool_addDefect (kind source action location : Nat) (detail : W128) : (addDefect s kind source action location detail).pool = s.pool := by obtain ⟨_, _, _, _, h⟩ := addDefect_eq s kind source action location detail; rw [h]
@[simp] theorem nextEntry_addDefect (kind source action location : Nat) (detail : W128) : (addDefect s kind source action location detail).nextEntry = s.nextEntry := by obtain ⟨_, _, _, _, h⟩ := addDefect_eq s kind source action location detail; rw [h]
@[simp] theorem flumes_addDefect (kind source action location : Nat) (detail : W128) : (addDefect s kind source action location detail).flumes = s.flumes := by obtain ⟨_, _, _, _, h⟩ := addDefect_eq s kind source action location detail; rw [h]
@[simp] theorem eds_addDefect (kind source action location : Nat) (detail : W128) : (addDefect s kind source action location detail).eds = s.eds := by obtain ⟨_, _, _, _, h⟩ := addDefect_eq s kind source action location detail; rw [h]
@[simp] theorem shards_addDefect (kind source action location : Nat) (detail : W128) : (addDefect s kind source action location detail).shards = s.shards := by obtain ⟨_, _, _, _, h⟩ := addDefect_eq s kind source action location detail; rw [h]
@[simp] theorem galley_addDefect (kind source action location : Nat) (detail : W128) : (addDefect s kind source action location detail).galley = s.galley := by obtain ⟨_, _, _, _, h⟩ := addDefect_eq s kind source action location detail; rw [h]
@[simp] theorem races_addDefect (kind source action location : Nat) (detail : W128) : (addDefect s kind source action location detail).races = s.races := by obtain ⟨_, _, _, _, h⟩ := addDefect_eq s kind source action location detail; rw [h]
@[simp] theorem racePorts_addDefect (kind source action location : Nat) (detail : W128) : (addDefect s kind source action location detail).racePorts = s.racePorts := by obtain ⟨_, _, _, _, h⟩ := addDefect_eq s kind source action location detail; rw [h]
@[simp] theorem sec_addDefect (kind source action location : Nat) (detail : W128) : (addDefect s kind source action location detail).sec = s.sec := by obtain ⟨_, _, _, _, h⟩ := addDefect_eq s kind source action location detail; rw [h]
@[simp] theorem pwr_addDefect (kind source action location : Nat) (detail : W128) : (addDefect s kind source action location detail).pwr = s.pwr := by obtain ⟨_, _, _, _, h⟩ := addDefect_eq s kind source action location detail; rw [h]
@[simp] theorem pair_addDefect (kind source action location : Nat) (detail : W128) : (addDefect s kind source action location detail).pair = s.pair := by obtain ⟨_, _, _, _, h⟩ := addDefect_eq s kind source action location detail; rw [h]
@[simp] theorem board_addDefect (kind source action location : Nat) (detail : W128) : (addDefect s kind source action location detail).board = s.board := by obtain ⟨_, _, _, _, h⟩ := addDefect_eq s kind source action location detail; rw [h]
@[simp] theorem grantStalls_addDefect (kind source action location : Nat) (detail : W128) : (addDefect s kind source action location detail).grantStalls = s.grantStalls := by obtain ⟨_, _, _, _, h⟩ := addDefect_eq s kind source action location detail; rw [h]
@[simp] theorem ipWait_addDefect (kind source action location : Nat) (detail : W128) : (addDefect s kind source action location detail).ipWait = s.ipWait := by obtain ⟨_, _, _, _, h⟩ := addDefect_eq s kind source action location detail; rw [h]
@[simp] theorem cookieSecret_addDefect (kind source action location : Nat) (detail : W128) : (addDefect s kind source action location detail).cookieSecret = s.cookieSecret := by obtain ⟨_, _, _, _, h⟩ := addDefect_eq s kind source action location detail; rw [h]
@[simp] theorem cookiePrev_addDefect (kind source action location : Nat) (detail : W128) : (addDefect s kind source action location detail).cookiePrev = s.cookiePrev := by obtain ⟨_, _, _, _, h⟩ := addDefect_eq s kind source action location detail; rw [h]
@[simp] theorem cookieEpoch_addDefect (kind source action location : Nat) (detail : W128) : (addDefect s kind source action location detail).cookieEpoch = s.cookieEpoch := by obtain ⟨_, _, _, _, h⟩ := addDefect_eq s kind source action location detail; rw [h]
@[simp] theorem stepEventBase_addDefect (kind source action location : Nat) (detail : W128) : (addDefect s kind source action location detail).stepEventBase = s.stepEventBase := by obtain ⟨_, _, _, _, h⟩ := addDefect_eq s kind source action location detail; rw [h]
@[simp] theorem stepEventLow_addDefect (kind source action location : Nat) (detail : W128) : (addDefect s kind source action location detail).stepEventLow = s.stepEventLow := by obtain ⟨_, _, _, _, h⟩ := addDefect_eq s kind source action location detail; rw [h]
@[simp] theorem pending_addDefect (kind source action location : Nat) (detail : W128) : (addDefect s kind source action location detail).pending = s.pending := by obtain ⟨_, _, _, _, h⟩ := addDefect_eq s kind source action location detail; rw [h]
@[simp] theorem quern_at_addDefect (kind source action location : Nat) (detail : W128) (i : Nat) : (addDefect s kind source action location detail).quern i = s.quern i := by simp only [State.quern, querns_addDefect]
@[simp] theorem ctx_at_addDefect (kind source action location : Nat) (detail : W128) (i : Nat) : (addDefect s kind source action location detail).ctx i = s.ctx i := by simp only [State.ctx, ctxs_addDefect]
@[simp] theorem hopper_at_addDefect (kind source action location : Nat) (detail : W128) (i : Nat) : (addDefect s kind source action location detail).hopper i = s.hopper i := by simp only [State.hopper, hoppers_addDefect]
@[simp] theorem entry_at_addDefect (kind source action location : Nat) (detail : W128) (i : Nat) : (addDefect s kind source action location detail).entry? i = s.entry? i := by simp only [State.entry?, pool_addDefect]
@[simp] theorem flume_at_addDefect (kind source action location : Nat) (detail : W128) (i : Nat) : (addDefect s kind source action location detail).flume i = s.flume i := by simp only [State.flume, flumes_addDefect]
@[simp] theorem ed_at_addDefect (kind source action location : Nat) (detail : W128) (i : Nat) : (addDefect s kind source action location detail).ed i = s.ed i := by simp only [State.ed, eds_addDefect]
@[simp] theorem shard_at_addDefect (kind source action location : Nat) (detail : W128) (i : Nat) : (addDefect s kind source action location detail).shard i = s.shard i := by simp only [State.shard, shards_addDefect]
@[simp] theorem race_at_addDefect (kind source action location : Nat) (detail : W128) (i : Nat) : (addDefect s kind source action location detail).race i = s.race i := by simp only [State.race, races_addDefect]
@[simp] theorem racePort_at_addDefect (kind source action location : Nat) (detail : W128) (i : Nat) : (addDefect s kind source action location detail).racePort i = s.racePort i := by simp only [State.racePort, racePorts_addDefect]
@[simp] theorem stone_at_addDefect (kind source action location : Nat) (detail : W128) (i : Nat) : (addDefect s kind source action location detail).stone i = s.stone i := by simp only [State.stone, pwr_addDefect]
@[simp] theorem page_at_addDefect (kind source action location : Nat) (detail : W128) (i : Nat) : (addDefect s kind source action location detail).page i = s.page i := by simp only [State.page, mm_addDefect]

/-! `sendIp` writes `hosts`, `ipWait`, `out` only. -/
theorem sendIp_eq (p : Nat) (dst : W128) (o : Out) : ∃ a b c, sendIp s p dst o = { s with hosts := a, ipWait := b, out := c } := by
  unfold sendIp
  split
  · split
    · exact ⟨s.hosts, s.ipWait, s.out, rfl⟩
    · exact ⟨_, s.ipWait, s.out, rfl⟩
  · split
    · exact ⟨s.hosts, s.ipWait, _, rfl⟩
    · dsimp only
      split
      · exact ⟨s.hosts, _, s.out, rfl⟩
      · exact ⟨s.hosts, _, _, rfl⟩
@[simp] theorem part_sendIp (p : Nat) (dst : W128) (o : Out) : (sendIp s p dst o).part = s.part := by obtain ⟨_, _, _, h⟩ := sendIp_eq s p dst o; rw [h]
@[simp] theorem freeCtr_sendIp (p : Nat) (dst : W128) (o : Out) : (sendIp s p dst o).freeCtr = s.freeCtr := by obtain ⟨_, _, _, h⟩ := sendIp_eq s p dst o; rw [h]
@[simp] theorem timeNs_sendIp (p : Nat) (dst : W128) (o : Out) : (sendIp s p dst o).timeNs = s.timeNs := by obtain ⟨_, _, _, h⟩ := sendIp_eq s p dst o; rw [h]
@[simp] theorem mem_sendIp (p : Nat) (dst : W128) (o : Out) : (sendIp s p dst o).mem = s.mem := by obtain ⟨_, _, _, h⟩ := sendIp_eq s p dst o; rw [h]
@[simp] theorem mm_sendIp (p : Nat) (dst : W128) (o : Out) : (sendIp s p dst o).mm = s.mm := by obtain ⟨_, _, _, h⟩ := sendIp_eq s p dst o; rw [h]
@[simp] theorem querns_sendIp (p : Nat) (dst : W128) (o : Out) : (sendIp s p dst o).querns = s.querns := by obtain ⟨_, _, _, h⟩ := sendIp_eq s p dst o; rw [h]
@[simp] theorem ctxs_sendIp (p : Nat) (dst : W128) (o : Out) : (sendIp s p dst o).ctxs = s.ctxs := by obtain ⟨_, _, _, h⟩ := sendIp_eq s p dst o; rw [h]
@[simp] theorem hoppers_sendIp (p : Nat) (dst : W128) (o : Out) : (sendIp s p dst o).hoppers = s.hoppers := by obtain ⟨_, _, _, h⟩ := sendIp_eq s p dst o; rw [h]
@[simp] theorem pool_sendIp (p : Nat) (dst : W128) (o : Out) : (sendIp s p dst o).pool = s.pool := by obtain ⟨_, _, _, h⟩ := sendIp_eq s p dst o; rw [h]
@[simp] theorem nextEntry_sendIp (p : Nat) (dst : W128) (o : Out) : (sendIp s p dst o).nextEntry = s.nextEntry := by obtain ⟨_, _, _, h⟩ := sendIp_eq s p dst o; rw [h]
@[simp] theorem flumes_sendIp (p : Nat) (dst : W128) (o : Out) : (sendIp s p dst o).flumes = s.flumes := by obtain ⟨_, _, _, h⟩ := sendIp_eq s p dst o; rw [h]
@[simp] theorem eds_sendIp (p : Nat) (dst : W128) (o : Out) : (sendIp s p dst o).eds = s.eds := by obtain ⟨_, _, _, h⟩ := sendIp_eq s p dst o; rw [h]
@[simp] theorem shards_sendIp (p : Nat) (dst : W128) (o : Out) : (sendIp s p dst o).shards = s.shards := by obtain ⟨_, _, _, h⟩ := sendIp_eq s p dst o; rw [h]
@[simp] theorem galley_sendIp (p : Nat) (dst : W128) (o : Out) : (sendIp s p dst o).galley = s.galley := by obtain ⟨_, _, _, h⟩ := sendIp_eq s p dst o; rw [h]
@[simp] theorem races_sendIp (p : Nat) (dst : W128) (o : Out) : (sendIp s p dst o).races = s.races := by obtain ⟨_, _, _, h⟩ := sendIp_eq s p dst o; rw [h]
@[simp] theorem racePorts_sendIp (p : Nat) (dst : W128) (o : Out) : (sendIp s p dst o).racePorts = s.racePorts := by obtain ⟨_, _, _, h⟩ := sendIp_eq s p dst o; rw [h]
@[simp] theorem sec_sendIp (p : Nat) (dst : W128) (o : Out) : (sendIp s p dst o).sec = s.sec := by obtain ⟨_, _, _, h⟩ := sendIp_eq s p dst o; rw [h]
@[simp] theorem mil_sendIp (p : Nat) (dst : W128) (o : Out) : (sendIp s p dst o).mil = s.mil := by obtain ⟨_, _, _, h⟩ := sendIp_eq s p dst o; rw [h]
@[simp] theorem boot_sendIp (p : Nat) (dst : W128) (o : Out) : (sendIp s p dst o).boot = s.boot := by obtain ⟨_, _, _, h⟩ := sendIp_eq s p dst o; rw [h]
@[simp] theorem pwr_sendIp (p : Nat) (dst : W128) (o : Out) : (sendIp s p dst o).pwr = s.pwr := by obtain ⟨_, _, _, h⟩ := sendIp_eq s p dst o; rw [h]
@[simp] theorem pair_sendIp (p : Nat) (dst : W128) (o : Out) : (sendIp s p dst o).pair = s.pair := by obtain ⟨_, _, _, h⟩ := sendIp_eq s p dst o; rw [h]
@[simp] theorem board_sendIp (p : Nat) (dst : W128) (o : Out) : (sendIp s p dst o).board = s.board := by obtain ⟨_, _, _, h⟩ := sendIp_eq s p dst o; rw [h]
@[simp] theorem grantStalls_sendIp (p : Nat) (dst : W128) (o : Out) : (sendIp s p dst o).grantStalls = s.grantStalls := by obtain ⟨_, _, _, h⟩ := sendIp_eq s p dst o; rw [h]
@[simp] theorem cookieSecret_sendIp (p : Nat) (dst : W128) (o : Out) : (sendIp s p dst o).cookieSecret = s.cookieSecret := by obtain ⟨_, _, _, h⟩ := sendIp_eq s p dst o; rw [h]
@[simp] theorem cookiePrev_sendIp (p : Nat) (dst : W128) (o : Out) : (sendIp s p dst o).cookiePrev = s.cookiePrev := by obtain ⟨_, _, _, h⟩ := sendIp_eq s p dst o; rw [h]
@[simp] theorem cookieEpoch_sendIp (p : Nat) (dst : W128) (o : Out) : (sendIp s p dst o).cookieEpoch = s.cookieEpoch := by obtain ⟨_, _, _, h⟩ := sendIp_eq s p dst o; rw [h]
@[simp] theorem stepEventBase_sendIp (p : Nat) (dst : W128) (o : Out) : (sendIp s p dst o).stepEventBase = s.stepEventBase := by obtain ⟨_, _, _, h⟩ := sendIp_eq s p dst o; rw [h]
@[simp] theorem stepEventLow_sendIp (p : Nat) (dst : W128) (o : Out) : (sendIp s p dst o).stepEventLow = s.stepEventLow := by obtain ⟨_, _, _, h⟩ := sendIp_eq s p dst o; rw [h]
@[simp] theorem pending_sendIp (p : Nat) (dst : W128) (o : Out) : (sendIp s p dst o).pending = s.pending := by obtain ⟨_, _, _, h⟩ := sendIp_eq s p dst o; rw [h]
@[simp] theorem quern_at_sendIp (p : Nat) (dst : W128) (o : Out) (i : Nat) : (sendIp s p dst o).quern i = s.quern i := by simp only [State.quern, querns_sendIp]
@[simp] theorem ctx_at_sendIp (p : Nat) (dst : W128) (o : Out) (i : Nat) : (sendIp s p dst o).ctx i = s.ctx i := by simp only [State.ctx, ctxs_sendIp]
@[simp] theorem hopper_at_sendIp (p : Nat) (dst : W128) (o : Out) (i : Nat) : (sendIp s p dst o).hopper i = s.hopper i := by simp only [State.hopper, hoppers_sendIp]
@[simp] theorem entry_at_sendIp (p : Nat) (dst : W128) (o : Out) (i : Nat) : (sendIp s p dst o).entry? i = s.entry? i := by simp only [State.entry?, pool_sendIp]
@[simp] theorem flume_at_sendIp (p : Nat) (dst : W128) (o : Out) (i : Nat) : (sendIp s p dst o).flume i = s.flume i := by simp only [State.flume, flumes_sendIp]
@[simp] theorem ed_at_sendIp (p : Nat) (dst : W128) (o : Out) (i : Nat) : (sendIp s p dst o).ed i = s.ed i := by simp only [State.ed, eds_sendIp]
@[simp] theorem shard_at_sendIp (p : Nat) (dst : W128) (o : Out) (i : Nat) : (sendIp s p dst o).shard i = s.shard i := by simp only [State.shard, shards_sendIp]
@[simp] theorem race_at_sendIp (p : Nat) (dst : W128) (o : Out) (i : Nat) : (sendIp s p dst o).race i = s.race i := by simp only [State.race, races_sendIp]
@[simp] theorem racePort_at_sendIp (p : Nat) (dst : W128) (o : Out) (i : Nat) : (sendIp s p dst o).racePort i = s.racePort i := by simp only [State.racePort, racePorts_sendIp]
@[simp] theorem stone_at_sendIp (p : Nat) (dst : W128) (o : Out) (i : Nat) : (sendIp s p dst o).stone i = s.stone i := by simp only [State.stone, pwr_sendIp]
@[simp] theorem page_at_sendIp (p : Nat) (dst : W128) (o : Out) (i : Nat) : (sendIp s p dst o).page i = s.page i := by simp only [State.page, mm_sendIp]

/-! `rateReply` writes `hosts`, `ipWait`, `out` only. -/
theorem rateReply_eq (p : Nat) (dst : NetAddr) (o : Out) : ∃ a b c, rateReply s p dst o = { s with hosts := a, ipWait := b, out := c } := by
  unfold rateReply
  dsimp only
  split
  · exact ⟨_, s.ipWait, s.out, rfl⟩
  · obtain ⟨a, b, c, h⟩ := sendIp_eq _ _ _ _
    exact ⟨a, b, c, h⟩
@[simp] theorem part_rateReply (p : Nat) (dst : NetAddr) (o : Out) : (rateReply s p dst o).part = s.part := by obtain ⟨_, _, _, h⟩ := rateReply_eq s p dst o; rw [h]
@[simp] theorem freeCtr_rateReply (p : Nat) (dst : NetAddr) (o : Out) : (rateReply s p dst o).freeCtr = s.freeCtr := by obtain ⟨_, _, _, h⟩ := rateReply_eq s p dst o; rw [h]
@[simp] theorem timeNs_rateReply (p : Nat) (dst : NetAddr) (o : Out) : (rateReply s p dst o).timeNs = s.timeNs := by obtain ⟨_, _, _, h⟩ := rateReply_eq s p dst o; rw [h]
@[simp] theorem mem_rateReply (p : Nat) (dst : NetAddr) (o : Out) : (rateReply s p dst o).mem = s.mem := by obtain ⟨_, _, _, h⟩ := rateReply_eq s p dst o; rw [h]
@[simp] theorem mm_rateReply (p : Nat) (dst : NetAddr) (o : Out) : (rateReply s p dst o).mm = s.mm := by obtain ⟨_, _, _, h⟩ := rateReply_eq s p dst o; rw [h]
@[simp] theorem querns_rateReply (p : Nat) (dst : NetAddr) (o : Out) : (rateReply s p dst o).querns = s.querns := by obtain ⟨_, _, _, h⟩ := rateReply_eq s p dst o; rw [h]
@[simp] theorem ctxs_rateReply (p : Nat) (dst : NetAddr) (o : Out) : (rateReply s p dst o).ctxs = s.ctxs := by obtain ⟨_, _, _, h⟩ := rateReply_eq s p dst o; rw [h]
@[simp] theorem hoppers_rateReply (p : Nat) (dst : NetAddr) (o : Out) : (rateReply s p dst o).hoppers = s.hoppers := by obtain ⟨_, _, _, h⟩ := rateReply_eq s p dst o; rw [h]
@[simp] theorem pool_rateReply (p : Nat) (dst : NetAddr) (o : Out) : (rateReply s p dst o).pool = s.pool := by obtain ⟨_, _, _, h⟩ := rateReply_eq s p dst o; rw [h]
@[simp] theorem nextEntry_rateReply (p : Nat) (dst : NetAddr) (o : Out) : (rateReply s p dst o).nextEntry = s.nextEntry := by obtain ⟨_, _, _, h⟩ := rateReply_eq s p dst o; rw [h]
@[simp] theorem flumes_rateReply (p : Nat) (dst : NetAddr) (o : Out) : (rateReply s p dst o).flumes = s.flumes := by obtain ⟨_, _, _, h⟩ := rateReply_eq s p dst o; rw [h]
@[simp] theorem eds_rateReply (p : Nat) (dst : NetAddr) (o : Out) : (rateReply s p dst o).eds = s.eds := by obtain ⟨_, _, _, h⟩ := rateReply_eq s p dst o; rw [h]
@[simp] theorem shards_rateReply (p : Nat) (dst : NetAddr) (o : Out) : (rateReply s p dst o).shards = s.shards := by obtain ⟨_, _, _, h⟩ := rateReply_eq s p dst o; rw [h]
@[simp] theorem galley_rateReply (p : Nat) (dst : NetAddr) (o : Out) : (rateReply s p dst o).galley = s.galley := by obtain ⟨_, _, _, h⟩ := rateReply_eq s p dst o; rw [h]
@[simp] theorem races_rateReply (p : Nat) (dst : NetAddr) (o : Out) : (rateReply s p dst o).races = s.races := by obtain ⟨_, _, _, h⟩ := rateReply_eq s p dst o; rw [h]
@[simp] theorem racePorts_rateReply (p : Nat) (dst : NetAddr) (o : Out) : (rateReply s p dst o).racePorts = s.racePorts := by obtain ⟨_, _, _, h⟩ := rateReply_eq s p dst o; rw [h]
@[simp] theorem sec_rateReply (p : Nat) (dst : NetAddr) (o : Out) : (rateReply s p dst o).sec = s.sec := by obtain ⟨_, _, _, h⟩ := rateReply_eq s p dst o; rw [h]
@[simp] theorem mil_rateReply (p : Nat) (dst : NetAddr) (o : Out) : (rateReply s p dst o).mil = s.mil := by obtain ⟨_, _, _, h⟩ := rateReply_eq s p dst o; rw [h]
@[simp] theorem boot_rateReply (p : Nat) (dst : NetAddr) (o : Out) : (rateReply s p dst o).boot = s.boot := by obtain ⟨_, _, _, h⟩ := rateReply_eq s p dst o; rw [h]
@[simp] theorem pwr_rateReply (p : Nat) (dst : NetAddr) (o : Out) : (rateReply s p dst o).pwr = s.pwr := by obtain ⟨_, _, _, h⟩ := rateReply_eq s p dst o; rw [h]
@[simp] theorem pair_rateReply (p : Nat) (dst : NetAddr) (o : Out) : (rateReply s p dst o).pair = s.pair := by obtain ⟨_, _, _, h⟩ := rateReply_eq s p dst o; rw [h]
@[simp] theorem board_rateReply (p : Nat) (dst : NetAddr) (o : Out) : (rateReply s p dst o).board = s.board := by obtain ⟨_, _, _, h⟩ := rateReply_eq s p dst o; rw [h]
@[simp] theorem grantStalls_rateReply (p : Nat) (dst : NetAddr) (o : Out) : (rateReply s p dst o).grantStalls = s.grantStalls := by obtain ⟨_, _, _, h⟩ := rateReply_eq s p dst o; rw [h]
@[simp] theorem cookieSecret_rateReply (p : Nat) (dst : NetAddr) (o : Out) : (rateReply s p dst o).cookieSecret = s.cookieSecret := by obtain ⟨_, _, _, h⟩ := rateReply_eq s p dst o; rw [h]
@[simp] theorem cookiePrev_rateReply (p : Nat) (dst : NetAddr) (o : Out) : (rateReply s p dst o).cookiePrev = s.cookiePrev := by obtain ⟨_, _, _, h⟩ := rateReply_eq s p dst o; rw [h]
@[simp] theorem cookieEpoch_rateReply (p : Nat) (dst : NetAddr) (o : Out) : (rateReply s p dst o).cookieEpoch = s.cookieEpoch := by obtain ⟨_, _, _, h⟩ := rateReply_eq s p dst o; rw [h]
@[simp] theorem stepEventBase_rateReply (p : Nat) (dst : NetAddr) (o : Out) : (rateReply s p dst o).stepEventBase = s.stepEventBase := by obtain ⟨_, _, _, h⟩ := rateReply_eq s p dst o; rw [h]
@[simp] theorem stepEventLow_rateReply (p : Nat) (dst : NetAddr) (o : Out) : (rateReply s p dst o).stepEventLow = s.stepEventLow := by obtain ⟨_, _, _, h⟩ := rateReply_eq s p dst o; rw [h]
@[simp] theorem pending_rateReply (p : Nat) (dst : NetAddr) (o : Out) : (rateReply s p dst o).pending = s.pending := by obtain ⟨_, _, _, h⟩ := rateReply_eq s p dst o; rw [h]
@[simp] theorem quern_at_rateReply (p : Nat) (dst : NetAddr) (o : Out) (i : Nat) : (rateReply s p dst o).quern i = s.quern i := by simp only [State.quern, querns_rateReply]
@[simp] theorem ctx_at_rateReply (p : Nat) (dst : NetAddr) (o : Out) (i : Nat) : (rateReply s p dst o).ctx i = s.ctx i := by simp only [State.ctx, ctxs_rateReply]
@[simp] theorem hopper_at_rateReply (p : Nat) (dst : NetAddr) (o : Out) (i : Nat) : (rateReply s p dst o).hopper i = s.hopper i := by simp only [State.hopper, hoppers_rateReply]
@[simp] theorem entry_at_rateReply (p : Nat) (dst : NetAddr) (o : Out) (i : Nat) : (rateReply s p dst o).entry? i = s.entry? i := by simp only [State.entry?, pool_rateReply]
@[simp] theorem flume_at_rateReply (p : Nat) (dst : NetAddr) (o : Out) (i : Nat) : (rateReply s p dst o).flume i = s.flume i := by simp only [State.flume, flumes_rateReply]
@[simp] theorem ed_at_rateReply (p : Nat) (dst : NetAddr) (o : Out) (i : Nat) : (rateReply s p dst o).ed i = s.ed i := by simp only [State.ed, eds_rateReply]
@[simp] theorem shard_at_rateReply (p : Nat) (dst : NetAddr) (o : Out) (i : Nat) : (rateReply s p dst o).shard i = s.shard i := by simp only [State.shard, shards_rateReply]
@[simp] theorem race_at_rateReply (p : Nat) (dst : NetAddr) (o : Out) (i : Nat) : (rateReply s p dst o).race i = s.race i := by simp only [State.race, races_rateReply]
@[simp] theorem racePort_at_rateReply (p : Nat) (dst : NetAddr) (o : Out) (i : Nat) : (rateReply s p dst o).racePort i = s.racePort i := by simp only [State.racePort, racePorts_rateReply]
@[simp] theorem stone_at_rateReply (p : Nat) (dst : NetAddr) (o : Out) (i : Nat) : (rateReply s p dst o).stone i = s.stone i := by simp only [State.stone, pwr_rateReply]
@[simp] theorem page_at_rateReply (p : Nat) (dst : NetAddr) (o : Out) (i : Nat) : (rateReply s p dst o).page i = s.page i := by simp only [State.page, mm_rateReply]

/-! `emitPlain` writes `sec`, `out` only. -/
theorem emitPlain_eq (r : Nat) (fr : Frame) : ∃ a b, emitPlain s r fr = { s with sec := a, out := b } := by
  exact ⟨_, _, rfl⟩
@[simp] theorem part_emitPlain (r : Nat) (fr : Frame) : (emitPlain s r fr).part = s.part := by obtain ⟨_, _, h⟩ := emitPlain_eq s r fr; rw [h]
@[simp] theorem freeCtr_emitPlain (r : Nat) (fr : Frame) : (emitPlain s r fr).freeCtr = s.freeCtr := by obtain ⟨_, _, h⟩ := emitPlain_eq s r fr; rw [h]
@[simp] theorem timeNs_emitPlain (r : Nat) (fr : Frame) : (emitPlain s r fr).timeNs = s.timeNs := by obtain ⟨_, _, h⟩ := emitPlain_eq s r fr; rw [h]
@[simp] theorem mem_emitPlain (r : Nat) (fr : Frame) : (emitPlain s r fr).mem = s.mem := by obtain ⟨_, _, h⟩ := emitPlain_eq s r fr; rw [h]
@[simp] theorem mm_emitPlain (r : Nat) (fr : Frame) : (emitPlain s r fr).mm = s.mm := by obtain ⟨_, _, h⟩ := emitPlain_eq s r fr; rw [h]
@[simp] theorem querns_emitPlain (r : Nat) (fr : Frame) : (emitPlain s r fr).querns = s.querns := by obtain ⟨_, _, h⟩ := emitPlain_eq s r fr; rw [h]
@[simp] theorem ctxs_emitPlain (r : Nat) (fr : Frame) : (emitPlain s r fr).ctxs = s.ctxs := by obtain ⟨_, _, h⟩ := emitPlain_eq s r fr; rw [h]
@[simp] theorem hoppers_emitPlain (r : Nat) (fr : Frame) : (emitPlain s r fr).hoppers = s.hoppers := by obtain ⟨_, _, h⟩ := emitPlain_eq s r fr; rw [h]
@[simp] theorem pool_emitPlain (r : Nat) (fr : Frame) : (emitPlain s r fr).pool = s.pool := by obtain ⟨_, _, h⟩ := emitPlain_eq s r fr; rw [h]
@[simp] theorem nextEntry_emitPlain (r : Nat) (fr : Frame) : (emitPlain s r fr).nextEntry = s.nextEntry := by obtain ⟨_, _, h⟩ := emitPlain_eq s r fr; rw [h]
@[simp] theorem flumes_emitPlain (r : Nat) (fr : Frame) : (emitPlain s r fr).flumes = s.flumes := by obtain ⟨_, _, h⟩ := emitPlain_eq s r fr; rw [h]
@[simp] theorem eds_emitPlain (r : Nat) (fr : Frame) : (emitPlain s r fr).eds = s.eds := by obtain ⟨_, _, h⟩ := emitPlain_eq s r fr; rw [h]
@[simp] theorem shards_emitPlain (r : Nat) (fr : Frame) : (emitPlain s r fr).shards = s.shards := by obtain ⟨_, _, h⟩ := emitPlain_eq s r fr; rw [h]
@[simp] theorem galley_emitPlain (r : Nat) (fr : Frame) : (emitPlain s r fr).galley = s.galley := by obtain ⟨_, _, h⟩ := emitPlain_eq s r fr; rw [h]
@[simp] theorem races_emitPlain (r : Nat) (fr : Frame) : (emitPlain s r fr).races = s.races := by obtain ⟨_, _, h⟩ := emitPlain_eq s r fr; rw [h]
@[simp] theorem racePorts_emitPlain (r : Nat) (fr : Frame) : (emitPlain s r fr).racePorts = s.racePorts := by obtain ⟨_, _, h⟩ := emitPlain_eq s r fr; rw [h]
@[simp] theorem hosts_emitPlain (r : Nat) (fr : Frame) : (emitPlain s r fr).hosts = s.hosts := by obtain ⟨_, _, h⟩ := emitPlain_eq s r fr; rw [h]
@[simp] theorem mil_emitPlain (r : Nat) (fr : Frame) : (emitPlain s r fr).mil = s.mil := by obtain ⟨_, _, h⟩ := emitPlain_eq s r fr; rw [h]
@[simp] theorem boot_emitPlain (r : Nat) (fr : Frame) : (emitPlain s r fr).boot = s.boot := by obtain ⟨_, _, h⟩ := emitPlain_eq s r fr; rw [h]
@[simp] theorem pwr_emitPlain (r : Nat) (fr : Frame) : (emitPlain s r fr).pwr = s.pwr := by obtain ⟨_, _, h⟩ := emitPlain_eq s r fr; rw [h]
@[simp] theorem pair_emitPlain (r : Nat) (fr : Frame) : (emitPlain s r fr).pair = s.pair := by obtain ⟨_, _, h⟩ := emitPlain_eq s r fr; rw [h]
@[simp] theorem board_emitPlain (r : Nat) (fr : Frame) : (emitPlain s r fr).board = s.board := by obtain ⟨_, _, h⟩ := emitPlain_eq s r fr; rw [h]
@[simp] theorem grantStalls_emitPlain (r : Nat) (fr : Frame) : (emitPlain s r fr).grantStalls = s.grantStalls := by obtain ⟨_, _, h⟩ := emitPlain_eq s r fr; rw [h]
@[simp] theorem ipWait_emitPlain (r : Nat) (fr : Frame) : (emitPlain s r fr).ipWait = s.ipWait := by obtain ⟨_, _, h⟩ := emitPlain_eq s r fr; rw [h]
@[simp] theorem cookieSecret_emitPlain (r : Nat) (fr : Frame) : (emitPlain s r fr).cookieSecret = s.cookieSecret := by obtain ⟨_, _, h⟩ := emitPlain_eq s r fr; rw [h]
@[simp] theorem cookiePrev_emitPlain (r : Nat) (fr : Frame) : (emitPlain s r fr).cookiePrev = s.cookiePrev := by obtain ⟨_, _, h⟩ := emitPlain_eq s r fr; rw [h]
@[simp] theorem cookieEpoch_emitPlain (r : Nat) (fr : Frame) : (emitPlain s r fr).cookieEpoch = s.cookieEpoch := by obtain ⟨_, _, h⟩ := emitPlain_eq s r fr; rw [h]
@[simp] theorem stepEventBase_emitPlain (r : Nat) (fr : Frame) : (emitPlain s r fr).stepEventBase = s.stepEventBase := by obtain ⟨_, _, h⟩ := emitPlain_eq s r fr; rw [h]
@[simp] theorem stepEventLow_emitPlain (r : Nat) (fr : Frame) : (emitPlain s r fr).stepEventLow = s.stepEventLow := by obtain ⟨_, _, h⟩ := emitPlain_eq s r fr; rw [h]
@[simp] theorem pending_emitPlain (r : Nat) (fr : Frame) : (emitPlain s r fr).pending = s.pending := by obtain ⟨_, _, h⟩ := emitPlain_eq s r fr; rw [h]
@[simp] theorem quern_at_emitPlain (r : Nat) (fr : Frame) (i : Nat) : (emitPlain s r fr).quern i = s.quern i := by simp only [State.quern, querns_emitPlain]
@[simp] theorem ctx_at_emitPlain (r : Nat) (fr : Frame) (i : Nat) : (emitPlain s r fr).ctx i = s.ctx i := by simp only [State.ctx, ctxs_emitPlain]
@[simp] theorem hopper_at_emitPlain (r : Nat) (fr : Frame) (i : Nat) : (emitPlain s r fr).hopper i = s.hopper i := by simp only [State.hopper, hoppers_emitPlain]
@[simp] theorem entry_at_emitPlain (r : Nat) (fr : Frame) (i : Nat) : (emitPlain s r fr).entry? i = s.entry? i := by simp only [State.entry?, pool_emitPlain]
@[simp] theorem flume_at_emitPlain (r : Nat) (fr : Frame) (i : Nat) : (emitPlain s r fr).flume i = s.flume i := by simp only [State.flume, flumes_emitPlain]
@[simp] theorem ed_at_emitPlain (r : Nat) (fr : Frame) (i : Nat) : (emitPlain s r fr).ed i = s.ed i := by simp only [State.ed, eds_emitPlain]
@[simp] theorem shard_at_emitPlain (r : Nat) (fr : Frame) (i : Nat) : (emitPlain s r fr).shard i = s.shard i := by simp only [State.shard, shards_emitPlain]
@[simp] theorem race_at_emitPlain (r : Nat) (fr : Frame) (i : Nat) : (emitPlain s r fr).race i = s.race i := by simp only [State.race, races_emitPlain]
@[simp] theorem racePort_at_emitPlain (r : Nat) (fr : Frame) (i : Nat) : (emitPlain s r fr).racePort i = s.racePort i := by simp only [State.racePort, racePorts_emitPlain]
@[simp] theorem host_at_emitPlain (r : Nat) (fr : Frame) (i : Nat) : (emitPlain s r fr).host i = s.host i := by simp only [State.host, hosts_emitPlain]
@[simp] theorem stone_at_emitPlain (r : Nat) (fr : Frame) (i : Nat) : (emitPlain s r fr).stone i = s.stone i := by simp only [State.stone, pwr_emitPlain]
@[simp] theorem page_at_emitPlain (r : Nat) (fr : Frame) (i : Nat) : (emitPlain s r fr).page i = s.page i := by simp only [State.page, mm_emitPlain]
@[simp] theorem session_at_emitPlain (r : Nat) (fr : Frame) (i j : Nat) : (emitPlain s r fr).session i j = s.session i j := by simp only [State.session, State.host, hosts_emitPlain]

/-! `emitNumbered` writes `races`, `sec`, `out` only. -/
theorem emitNumbered_eq (r lsn : Nat) (fr : Frame) : ∃ a b c, emitNumbered s r lsn fr = { s with races := a, sec := b, out := c } := by
  exact ⟨_, _, _, rfl⟩
@[simp] theorem part_emitNumbered (r lsn : Nat) (fr : Frame) : (emitNumbered s r lsn fr).part = s.part := by obtain ⟨_, _, _, h⟩ := emitNumbered_eq s r lsn fr; rw [h]
@[simp] theorem freeCtr_emitNumbered (r lsn : Nat) (fr : Frame) : (emitNumbered s r lsn fr).freeCtr = s.freeCtr := by obtain ⟨_, _, _, h⟩ := emitNumbered_eq s r lsn fr; rw [h]
@[simp] theorem timeNs_emitNumbered (r lsn : Nat) (fr : Frame) : (emitNumbered s r lsn fr).timeNs = s.timeNs := by obtain ⟨_, _, _, h⟩ := emitNumbered_eq s r lsn fr; rw [h]
@[simp] theorem mem_emitNumbered (r lsn : Nat) (fr : Frame) : (emitNumbered s r lsn fr).mem = s.mem := by obtain ⟨_, _, _, h⟩ := emitNumbered_eq s r lsn fr; rw [h]
@[simp] theorem mm_emitNumbered (r lsn : Nat) (fr : Frame) : (emitNumbered s r lsn fr).mm = s.mm := by obtain ⟨_, _, _, h⟩ := emitNumbered_eq s r lsn fr; rw [h]
@[simp] theorem querns_emitNumbered (r lsn : Nat) (fr : Frame) : (emitNumbered s r lsn fr).querns = s.querns := by obtain ⟨_, _, _, h⟩ := emitNumbered_eq s r lsn fr; rw [h]
@[simp] theorem ctxs_emitNumbered (r lsn : Nat) (fr : Frame) : (emitNumbered s r lsn fr).ctxs = s.ctxs := by obtain ⟨_, _, _, h⟩ := emitNumbered_eq s r lsn fr; rw [h]
@[simp] theorem hoppers_emitNumbered (r lsn : Nat) (fr : Frame) : (emitNumbered s r lsn fr).hoppers = s.hoppers := by obtain ⟨_, _, _, h⟩ := emitNumbered_eq s r lsn fr; rw [h]
@[simp] theorem pool_emitNumbered (r lsn : Nat) (fr : Frame) : (emitNumbered s r lsn fr).pool = s.pool := by obtain ⟨_, _, _, h⟩ := emitNumbered_eq s r lsn fr; rw [h]
@[simp] theorem nextEntry_emitNumbered (r lsn : Nat) (fr : Frame) : (emitNumbered s r lsn fr).nextEntry = s.nextEntry := by obtain ⟨_, _, _, h⟩ := emitNumbered_eq s r lsn fr; rw [h]
@[simp] theorem flumes_emitNumbered (r lsn : Nat) (fr : Frame) : (emitNumbered s r lsn fr).flumes = s.flumes := by obtain ⟨_, _, _, h⟩ := emitNumbered_eq s r lsn fr; rw [h]
@[simp] theorem eds_emitNumbered (r lsn : Nat) (fr : Frame) : (emitNumbered s r lsn fr).eds = s.eds := by obtain ⟨_, _, _, h⟩ := emitNumbered_eq s r lsn fr; rw [h]
@[simp] theorem shards_emitNumbered (r lsn : Nat) (fr : Frame) : (emitNumbered s r lsn fr).shards = s.shards := by obtain ⟨_, _, _, h⟩ := emitNumbered_eq s r lsn fr; rw [h]
@[simp] theorem galley_emitNumbered (r lsn : Nat) (fr : Frame) : (emitNumbered s r lsn fr).galley = s.galley := by obtain ⟨_, _, _, h⟩ := emitNumbered_eq s r lsn fr; rw [h]
@[simp] theorem racePorts_emitNumbered (r lsn : Nat) (fr : Frame) : (emitNumbered s r lsn fr).racePorts = s.racePorts := by obtain ⟨_, _, _, h⟩ := emitNumbered_eq s r lsn fr; rw [h]
@[simp] theorem hosts_emitNumbered (r lsn : Nat) (fr : Frame) : (emitNumbered s r lsn fr).hosts = s.hosts := by obtain ⟨_, _, _, h⟩ := emitNumbered_eq s r lsn fr; rw [h]
@[simp] theorem mil_emitNumbered (r lsn : Nat) (fr : Frame) : (emitNumbered s r lsn fr).mil = s.mil := by obtain ⟨_, _, _, h⟩ := emitNumbered_eq s r lsn fr; rw [h]
@[simp] theorem boot_emitNumbered (r lsn : Nat) (fr : Frame) : (emitNumbered s r lsn fr).boot = s.boot := by obtain ⟨_, _, _, h⟩ := emitNumbered_eq s r lsn fr; rw [h]
@[simp] theorem pwr_emitNumbered (r lsn : Nat) (fr : Frame) : (emitNumbered s r lsn fr).pwr = s.pwr := by obtain ⟨_, _, _, h⟩ := emitNumbered_eq s r lsn fr; rw [h]
@[simp] theorem pair_emitNumbered (r lsn : Nat) (fr : Frame) : (emitNumbered s r lsn fr).pair = s.pair := by obtain ⟨_, _, _, h⟩ := emitNumbered_eq s r lsn fr; rw [h]
@[simp] theorem board_emitNumbered (r lsn : Nat) (fr : Frame) : (emitNumbered s r lsn fr).board = s.board := by obtain ⟨_, _, _, h⟩ := emitNumbered_eq s r lsn fr; rw [h]
@[simp] theorem grantStalls_emitNumbered (r lsn : Nat) (fr : Frame) : (emitNumbered s r lsn fr).grantStalls = s.grantStalls := by obtain ⟨_, _, _, h⟩ := emitNumbered_eq s r lsn fr; rw [h]
@[simp] theorem ipWait_emitNumbered (r lsn : Nat) (fr : Frame) : (emitNumbered s r lsn fr).ipWait = s.ipWait := by obtain ⟨_, _, _, h⟩ := emitNumbered_eq s r lsn fr; rw [h]
@[simp] theorem cookieSecret_emitNumbered (r lsn : Nat) (fr : Frame) : (emitNumbered s r lsn fr).cookieSecret = s.cookieSecret := by obtain ⟨_, _, _, h⟩ := emitNumbered_eq s r lsn fr; rw [h]
@[simp] theorem cookiePrev_emitNumbered (r lsn : Nat) (fr : Frame) : (emitNumbered s r lsn fr).cookiePrev = s.cookiePrev := by obtain ⟨_, _, _, h⟩ := emitNumbered_eq s r lsn fr; rw [h]
@[simp] theorem cookieEpoch_emitNumbered (r lsn : Nat) (fr : Frame) : (emitNumbered s r lsn fr).cookieEpoch = s.cookieEpoch := by obtain ⟨_, _, _, h⟩ := emitNumbered_eq s r lsn fr; rw [h]
@[simp] theorem stepEventBase_emitNumbered (r lsn : Nat) (fr : Frame) : (emitNumbered s r lsn fr).stepEventBase = s.stepEventBase := by obtain ⟨_, _, _, h⟩ := emitNumbered_eq s r lsn fr; rw [h]
@[simp] theorem stepEventLow_emitNumbered (r lsn : Nat) (fr : Frame) : (emitNumbered s r lsn fr).stepEventLow = s.stepEventLow := by obtain ⟨_, _, _, h⟩ := emitNumbered_eq s r lsn fr; rw [h]
@[simp] theorem pending_emitNumbered (r lsn : Nat) (fr : Frame) : (emitNumbered s r lsn fr).pending = s.pending := by obtain ⟨_, _, _, h⟩ := emitNumbered_eq s r lsn fr; rw [h]
@[simp] theorem quern_at_emitNumbered (r lsn : Nat) (fr : Frame) (i : Nat) : (emitNumbered s r lsn fr).quern i = s.quern i := by simp only [State.quern, querns_emitNumbered]
@[simp] theorem ctx_at_emitNumbered (r lsn : Nat) (fr : Frame) (i : Nat) : (emitNumbered s r lsn fr).ctx i = s.ctx i := by simp only [State.ctx, ctxs_emitNumbered]
@[simp] theorem hopper_at_emitNumbered (r lsn : Nat) (fr : Frame) (i : Nat) : (emitNumbered s r lsn fr).hopper i = s.hopper i := by simp only [State.hopper, hoppers_emitNumbered]
@[simp] theorem entry_at_emitNumbered (r lsn : Nat) (fr : Frame) (i : Nat) : (emitNumbered s r lsn fr).entry? i = s.entry? i := by simp only [State.entry?, pool_emitNumbered]
@[simp] theorem flume_at_emitNumbered (r lsn : Nat) (fr : Frame) (i : Nat) : (emitNumbered s r lsn fr).flume i = s.flume i := by simp only [State.flume, flumes_emitNumbered]
@[simp] theorem ed_at_emitNumbered (r lsn : Nat) (fr : Frame) (i : Nat) : (emitNumbered s r lsn fr).ed i = s.ed i := by simp only [State.ed, eds_emitNumbered]
@[simp] theorem shard_at_emitNumbered (r lsn : Nat) (fr : Frame) (i : Nat) : (emitNumbered s r lsn fr).shard i = s.shard i := by simp only [State.shard, shards_emitNumbered]
@[simp] theorem racePort_at_emitNumbered (r lsn : Nat) (fr : Frame) (i : Nat) : (emitNumbered s r lsn fr).racePort i = s.racePort i := by simp only [State.racePort, racePorts_emitNumbered]
@[simp] theorem host_at_emitNumbered (r lsn : Nat) (fr : Frame) (i : Nat) : (emitNumbered s r lsn fr).host i = s.host i := by simp only [State.host, hosts_emitNumbered]
@[simp] theorem stone_at_emitNumbered (r lsn : Nat) (fr : Frame) (i : Nat) : (emitNumbered s r lsn fr).stone i = s.stone i := by simp only [State.stone, pwr_emitNumbered]
@[simp] theorem page_at_emitNumbered (r lsn : Nat) (fr : Frame) (i : Nat) : (emitNumbered s r lsn fr).page i = s.page i := by simp only [State.page, mm_emitNumbered]
@[simp] theorem session_at_emitNumbered (r lsn : Nat) (fr : Frame) (i j : Nat) : (emitNumbered s r lsn fr).session i j = s.session i j := by simp only [State.session, State.host, hosts_emitNumbered]

/-! `emitRace` writes `races`, `sec`, `out` only. -/
theorem emitRace_eq (r : Nat) (fr : Frame) : ∃ a b c, emitRace s r fr = { s with races := a, sec := b, out := c } := by
  exact ⟨_, _, _, rfl⟩
@[simp] theorem part_emitRace (r : Nat) (fr : Frame) : (emitRace s r fr).part = s.part := by obtain ⟨_, _, _, h⟩ := emitRace_eq s r fr; rw [h]
@[simp] theorem freeCtr_emitRace (r : Nat) (fr : Frame) : (emitRace s r fr).freeCtr = s.freeCtr := by obtain ⟨_, _, _, h⟩ := emitRace_eq s r fr; rw [h]
@[simp] theorem timeNs_emitRace (r : Nat) (fr : Frame) : (emitRace s r fr).timeNs = s.timeNs := by obtain ⟨_, _, _, h⟩ := emitRace_eq s r fr; rw [h]
@[simp] theorem mem_emitRace (r : Nat) (fr : Frame) : (emitRace s r fr).mem = s.mem := by obtain ⟨_, _, _, h⟩ := emitRace_eq s r fr; rw [h]
@[simp] theorem mm_emitRace (r : Nat) (fr : Frame) : (emitRace s r fr).mm = s.mm := by obtain ⟨_, _, _, h⟩ := emitRace_eq s r fr; rw [h]
@[simp] theorem querns_emitRace (r : Nat) (fr : Frame) : (emitRace s r fr).querns = s.querns := by obtain ⟨_, _, _, h⟩ := emitRace_eq s r fr; rw [h]
@[simp] theorem ctxs_emitRace (r : Nat) (fr : Frame) : (emitRace s r fr).ctxs = s.ctxs := by obtain ⟨_, _, _, h⟩ := emitRace_eq s r fr; rw [h]
@[simp] theorem hoppers_emitRace (r : Nat) (fr : Frame) : (emitRace s r fr).hoppers = s.hoppers := by obtain ⟨_, _, _, h⟩ := emitRace_eq s r fr; rw [h]
@[simp] theorem pool_emitRace (r : Nat) (fr : Frame) : (emitRace s r fr).pool = s.pool := by obtain ⟨_, _, _, h⟩ := emitRace_eq s r fr; rw [h]
@[simp] theorem nextEntry_emitRace (r : Nat) (fr : Frame) : (emitRace s r fr).nextEntry = s.nextEntry := by obtain ⟨_, _, _, h⟩ := emitRace_eq s r fr; rw [h]
@[simp] theorem flumes_emitRace (r : Nat) (fr : Frame) : (emitRace s r fr).flumes = s.flumes := by obtain ⟨_, _, _, h⟩ := emitRace_eq s r fr; rw [h]
@[simp] theorem eds_emitRace (r : Nat) (fr : Frame) : (emitRace s r fr).eds = s.eds := by obtain ⟨_, _, _, h⟩ := emitRace_eq s r fr; rw [h]
@[simp] theorem shards_emitRace (r : Nat) (fr : Frame) : (emitRace s r fr).shards = s.shards := by obtain ⟨_, _, _, h⟩ := emitRace_eq s r fr; rw [h]
@[simp] theorem galley_emitRace (r : Nat) (fr : Frame) : (emitRace s r fr).galley = s.galley := by obtain ⟨_, _, _, h⟩ := emitRace_eq s r fr; rw [h]
@[simp] theorem racePorts_emitRace (r : Nat) (fr : Frame) : (emitRace s r fr).racePorts = s.racePorts := by obtain ⟨_, _, _, h⟩ := emitRace_eq s r fr; rw [h]
@[simp] theorem hosts_emitRace (r : Nat) (fr : Frame) : (emitRace s r fr).hosts = s.hosts := by obtain ⟨_, _, _, h⟩ := emitRace_eq s r fr; rw [h]
@[simp] theorem mil_emitRace (r : Nat) (fr : Frame) : (emitRace s r fr).mil = s.mil := by obtain ⟨_, _, _, h⟩ := emitRace_eq s r fr; rw [h]
@[simp] theorem boot_emitRace (r : Nat) (fr : Frame) : (emitRace s r fr).boot = s.boot := by obtain ⟨_, _, _, h⟩ := emitRace_eq s r fr; rw [h]
@[simp] theorem pwr_emitRace (r : Nat) (fr : Frame) : (emitRace s r fr).pwr = s.pwr := by obtain ⟨_, _, _, h⟩ := emitRace_eq s r fr; rw [h]
@[simp] theorem pair_emitRace (r : Nat) (fr : Frame) : (emitRace s r fr).pair = s.pair := by obtain ⟨_, _, _, h⟩ := emitRace_eq s r fr; rw [h]
@[simp] theorem board_emitRace (r : Nat) (fr : Frame) : (emitRace s r fr).board = s.board := by obtain ⟨_, _, _, h⟩ := emitRace_eq s r fr; rw [h]
@[simp] theorem grantStalls_emitRace (r : Nat) (fr : Frame) : (emitRace s r fr).grantStalls = s.grantStalls := by obtain ⟨_, _, _, h⟩ := emitRace_eq s r fr; rw [h]
@[simp] theorem ipWait_emitRace (r : Nat) (fr : Frame) : (emitRace s r fr).ipWait = s.ipWait := by obtain ⟨_, _, _, h⟩ := emitRace_eq s r fr; rw [h]
@[simp] theorem cookieSecret_emitRace (r : Nat) (fr : Frame) : (emitRace s r fr).cookieSecret = s.cookieSecret := by obtain ⟨_, _, _, h⟩ := emitRace_eq s r fr; rw [h]
@[simp] theorem cookiePrev_emitRace (r : Nat) (fr : Frame) : (emitRace s r fr).cookiePrev = s.cookiePrev := by obtain ⟨_, _, _, h⟩ := emitRace_eq s r fr; rw [h]
@[simp] theorem cookieEpoch_emitRace (r : Nat) (fr : Frame) : (emitRace s r fr).cookieEpoch = s.cookieEpoch := by obtain ⟨_, _, _, h⟩ := emitRace_eq s r fr; rw [h]
@[simp] theorem stepEventBase_emitRace (r : Nat) (fr : Frame) : (emitRace s r fr).stepEventBase = s.stepEventBase := by obtain ⟨_, _, _, h⟩ := emitRace_eq s r fr; rw [h]
@[simp] theorem stepEventLow_emitRace (r : Nat) (fr : Frame) : (emitRace s r fr).stepEventLow = s.stepEventLow := by obtain ⟨_, _, _, h⟩ := emitRace_eq s r fr; rw [h]
@[simp] theorem pending_emitRace (r : Nat) (fr : Frame) : (emitRace s r fr).pending = s.pending := by obtain ⟨_, _, _, h⟩ := emitRace_eq s r fr; rw [h]
@[simp] theorem quern_at_emitRace (r : Nat) (fr : Frame) (i : Nat) : (emitRace s r fr).quern i = s.quern i := by simp only [State.quern, querns_emitRace]
@[simp] theorem ctx_at_emitRace (r : Nat) (fr : Frame) (i : Nat) : (emitRace s r fr).ctx i = s.ctx i := by simp only [State.ctx, ctxs_emitRace]
@[simp] theorem hopper_at_emitRace (r : Nat) (fr : Frame) (i : Nat) : (emitRace s r fr).hopper i = s.hopper i := by simp only [State.hopper, hoppers_emitRace]
@[simp] theorem entry_at_emitRace (r : Nat) (fr : Frame) (i : Nat) : (emitRace s r fr).entry? i = s.entry? i := by simp only [State.entry?, pool_emitRace]
@[simp] theorem flume_at_emitRace (r : Nat) (fr : Frame) (i : Nat) : (emitRace s r fr).flume i = s.flume i := by simp only [State.flume, flumes_emitRace]
@[simp] theorem ed_at_emitRace (r : Nat) (fr : Frame) (i : Nat) : (emitRace s r fr).ed i = s.ed i := by simp only [State.ed, eds_emitRace]
@[simp] theorem shard_at_emitRace (r : Nat) (fr : Frame) (i : Nat) : (emitRace s r fr).shard i = s.shard i := by simp only [State.shard, shards_emitRace]
@[simp] theorem racePort_at_emitRace (r : Nat) (fr : Frame) (i : Nat) : (emitRace s r fr).racePort i = s.racePort i := by simp only [State.racePort, racePorts_emitRace]
@[simp] theorem host_at_emitRace (r : Nat) (fr : Frame) (i : Nat) : (emitRace s r fr).host i = s.host i := by simp only [State.host, hosts_emitRace]
@[simp] theorem stone_at_emitRace (r : Nat) (fr : Frame) (i : Nat) : (emitRace s r fr).stone i = s.stone i := by simp only [State.stone, pwr_emitRace]
@[simp] theorem page_at_emitRace (r : Nat) (fr : Frame) (i : Nat) : (emitRace s r fr).page i = s.page i := by simp only [State.page, mm_emitRace]
@[simp] theorem session_at_emitRace (r : Nat) (fr : Frame) (i j : Nat) : (emitRace s r fr).session i j = s.session i j := by simp only [State.session, State.host, hosts_emitRace]

/-! `queueRace` writes `races` only. -/
theorem queueRace_eq (r : Nat) (fr : Frame) : ∃ a, queueRace s r fr = { s with races := a } := by
  exact ⟨_, rfl⟩
@[simp] theorem part_queueRace (r : Nat) (fr : Frame) : (queueRace s r fr).part = s.part := by obtain ⟨_, h⟩ := queueRace_eq s r fr; rw [h]
@[simp] theorem freeCtr_queueRace (r : Nat) (fr : Frame) : (queueRace s r fr).freeCtr = s.freeCtr := by obtain ⟨_, h⟩ := queueRace_eq s r fr; rw [h]
@[simp] theorem timeNs_queueRace (r : Nat) (fr : Frame) : (queueRace s r fr).timeNs = s.timeNs := by obtain ⟨_, h⟩ := queueRace_eq s r fr; rw [h]
@[simp] theorem mem_queueRace (r : Nat) (fr : Frame) : (queueRace s r fr).mem = s.mem := by obtain ⟨_, h⟩ := queueRace_eq s r fr; rw [h]
@[simp] theorem mm_queueRace (r : Nat) (fr : Frame) : (queueRace s r fr).mm = s.mm := by obtain ⟨_, h⟩ := queueRace_eq s r fr; rw [h]
@[simp] theorem querns_queueRace (r : Nat) (fr : Frame) : (queueRace s r fr).querns = s.querns := by obtain ⟨_, h⟩ := queueRace_eq s r fr; rw [h]
@[simp] theorem ctxs_queueRace (r : Nat) (fr : Frame) : (queueRace s r fr).ctxs = s.ctxs := by obtain ⟨_, h⟩ := queueRace_eq s r fr; rw [h]
@[simp] theorem hoppers_queueRace (r : Nat) (fr : Frame) : (queueRace s r fr).hoppers = s.hoppers := by obtain ⟨_, h⟩ := queueRace_eq s r fr; rw [h]
@[simp] theorem pool_queueRace (r : Nat) (fr : Frame) : (queueRace s r fr).pool = s.pool := by obtain ⟨_, h⟩ := queueRace_eq s r fr; rw [h]
@[simp] theorem nextEntry_queueRace (r : Nat) (fr : Frame) : (queueRace s r fr).nextEntry = s.nextEntry := by obtain ⟨_, h⟩ := queueRace_eq s r fr; rw [h]
@[simp] theorem flumes_queueRace (r : Nat) (fr : Frame) : (queueRace s r fr).flumes = s.flumes := by obtain ⟨_, h⟩ := queueRace_eq s r fr; rw [h]
@[simp] theorem eds_queueRace (r : Nat) (fr : Frame) : (queueRace s r fr).eds = s.eds := by obtain ⟨_, h⟩ := queueRace_eq s r fr; rw [h]
@[simp] theorem shards_queueRace (r : Nat) (fr : Frame) : (queueRace s r fr).shards = s.shards := by obtain ⟨_, h⟩ := queueRace_eq s r fr; rw [h]
@[simp] theorem galley_queueRace (r : Nat) (fr : Frame) : (queueRace s r fr).galley = s.galley := by obtain ⟨_, h⟩ := queueRace_eq s r fr; rw [h]
@[simp] theorem racePorts_queueRace (r : Nat) (fr : Frame) : (queueRace s r fr).racePorts = s.racePorts := by obtain ⟨_, h⟩ := queueRace_eq s r fr; rw [h]
@[simp] theorem hosts_queueRace (r : Nat) (fr : Frame) : (queueRace s r fr).hosts = s.hosts := by obtain ⟨_, h⟩ := queueRace_eq s r fr; rw [h]
@[simp] theorem sec_queueRace (r : Nat) (fr : Frame) : (queueRace s r fr).sec = s.sec := by obtain ⟨_, h⟩ := queueRace_eq s r fr; rw [h]
@[simp] theorem mil_queueRace (r : Nat) (fr : Frame) : (queueRace s r fr).mil = s.mil := by obtain ⟨_, h⟩ := queueRace_eq s r fr; rw [h]
@[simp] theorem boot_queueRace (r : Nat) (fr : Frame) : (queueRace s r fr).boot = s.boot := by obtain ⟨_, h⟩ := queueRace_eq s r fr; rw [h]
@[simp] theorem pwr_queueRace (r : Nat) (fr : Frame) : (queueRace s r fr).pwr = s.pwr := by obtain ⟨_, h⟩ := queueRace_eq s r fr; rw [h]
@[simp] theorem pair_queueRace (r : Nat) (fr : Frame) : (queueRace s r fr).pair = s.pair := by obtain ⟨_, h⟩ := queueRace_eq s r fr; rw [h]
@[simp] theorem board_queueRace (r : Nat) (fr : Frame) : (queueRace s r fr).board = s.board := by obtain ⟨_, h⟩ := queueRace_eq s r fr; rw [h]
@[simp] theorem grantStalls_queueRace (r : Nat) (fr : Frame) : (queueRace s r fr).grantStalls = s.grantStalls := by obtain ⟨_, h⟩ := queueRace_eq s r fr; rw [h]
@[simp] theorem ipWait_queueRace (r : Nat) (fr : Frame) : (queueRace s r fr).ipWait = s.ipWait := by obtain ⟨_, h⟩ := queueRace_eq s r fr; rw [h]
@[simp] theorem cookieSecret_queueRace (r : Nat) (fr : Frame) : (queueRace s r fr).cookieSecret = s.cookieSecret := by obtain ⟨_, h⟩ := queueRace_eq s r fr; rw [h]
@[simp] theorem cookiePrev_queueRace (r : Nat) (fr : Frame) : (queueRace s r fr).cookiePrev = s.cookiePrev := by obtain ⟨_, h⟩ := queueRace_eq s r fr; rw [h]
@[simp] theorem cookieEpoch_queueRace (r : Nat) (fr : Frame) : (queueRace s r fr).cookieEpoch = s.cookieEpoch := by obtain ⟨_, h⟩ := queueRace_eq s r fr; rw [h]
@[simp] theorem stepEventBase_queueRace (r : Nat) (fr : Frame) : (queueRace s r fr).stepEventBase = s.stepEventBase := by obtain ⟨_, h⟩ := queueRace_eq s r fr; rw [h]
@[simp] theorem stepEventLow_queueRace (r : Nat) (fr : Frame) : (queueRace s r fr).stepEventLow = s.stepEventLow := by obtain ⟨_, h⟩ := queueRace_eq s r fr; rw [h]
@[simp] theorem out_queueRace (r : Nat) (fr : Frame) : (queueRace s r fr).out = s.out := by obtain ⟨_, h⟩ := queueRace_eq s r fr; rw [h]
@[simp] theorem pending_queueRace (r : Nat) (fr : Frame) : (queueRace s r fr).pending = s.pending := by obtain ⟨_, h⟩ := queueRace_eq s r fr; rw [h]
@[simp] theorem quern_at_queueRace (r : Nat) (fr : Frame) (i : Nat) : (queueRace s r fr).quern i = s.quern i := by simp only [State.quern, querns_queueRace]
@[simp] theorem ctx_at_queueRace (r : Nat) (fr : Frame) (i : Nat) : (queueRace s r fr).ctx i = s.ctx i := by simp only [State.ctx, ctxs_queueRace]
@[simp] theorem hopper_at_queueRace (r : Nat) (fr : Frame) (i : Nat) : (queueRace s r fr).hopper i = s.hopper i := by simp only [State.hopper, hoppers_queueRace]
@[simp] theorem entry_at_queueRace (r : Nat) (fr : Frame) (i : Nat) : (queueRace s r fr).entry? i = s.entry? i := by simp only [State.entry?, pool_queueRace]
@[simp] theorem flume_at_queueRace (r : Nat) (fr : Frame) (i : Nat) : (queueRace s r fr).flume i = s.flume i := by simp only [State.flume, flumes_queueRace]
@[simp] theorem ed_at_queueRace (r : Nat) (fr : Frame) (i : Nat) : (queueRace s r fr).ed i = s.ed i := by simp only [State.ed, eds_queueRace]
@[simp] theorem shard_at_queueRace (r : Nat) (fr : Frame) (i : Nat) : (queueRace s r fr).shard i = s.shard i := by simp only [State.shard, shards_queueRace]
@[simp] theorem racePort_at_queueRace (r : Nat) (fr : Frame) (i : Nat) : (queueRace s r fr).racePort i = s.racePort i := by simp only [State.racePort, racePorts_queueRace]
@[simp] theorem host_at_queueRace (r : Nat) (fr : Frame) (i : Nat) : (queueRace s r fr).host i = s.host i := by simp only [State.host, hosts_queueRace]
@[simp] theorem stone_at_queueRace (r : Nat) (fr : Frame) (i : Nat) : (queueRace s r fr).stone i = s.stone i := by simp only [State.stone, pwr_queueRace]
@[simp] theorem page_at_queueRace (r : Nat) (fr : Frame) (i : Nat) : (queueRace s r fr).page i = s.page i := by simp only [State.page, mm_queueRace]
@[simp] theorem session_at_queueRace (r : Nat) (fr : Frame) (i j : Nat) : (queueRace s r fr).session i j = s.session i j := by simp only [State.session, State.host, hosts_queueRace]

/-! `noteLane` writes `hosts`, `mil`, `boot`, `out` only. -/
theorem noteLane_eq (r action : Nat) : ∃ a b c d, noteLane s r action = { s with hosts := a, mil := b, boot := c, out := d } := by
  obtain ⟨a, b, c, h⟩ := logEvent_eq s evLane scRace r [(s.race r).failLane, action]
  obtain ⟨a', b', c', d', h'⟩ := addDefect_eq (logEvent s evLane scRace r [(s.race r).failLane, action]) 0x0B 3 action (r / 2 * 16 + (s.race r).failLane)
    (s.race r).peerSerial
  exact ⟨a', b', c', d', by unfold noteLane; dsimp only; rw [h', h]⟩
@[simp] theorem part_noteLane (r action : Nat) : (noteLane s r action).part = s.part := by obtain ⟨_, _, _, _, h⟩ := noteLane_eq s r action; rw [h]
@[simp] theorem freeCtr_noteLane (r action : Nat) : (noteLane s r action).freeCtr = s.freeCtr := by obtain ⟨_, _, _, _, h⟩ := noteLane_eq s r action; rw [h]
@[simp] theorem timeNs_noteLane (r action : Nat) : (noteLane s r action).timeNs = s.timeNs := by obtain ⟨_, _, _, _, h⟩ := noteLane_eq s r action; rw [h]
@[simp] theorem mem_noteLane (r action : Nat) : (noteLane s r action).mem = s.mem := by obtain ⟨_, _, _, _, h⟩ := noteLane_eq s r action; rw [h]
@[simp] theorem mm_noteLane (r action : Nat) : (noteLane s r action).mm = s.mm := by obtain ⟨_, _, _, _, h⟩ := noteLane_eq s r action; rw [h]
@[simp] theorem querns_noteLane (r action : Nat) : (noteLane s r action).querns = s.querns := by obtain ⟨_, _, _, _, h⟩ := noteLane_eq s r action; rw [h]
@[simp] theorem ctxs_noteLane (r action : Nat) : (noteLane s r action).ctxs = s.ctxs := by obtain ⟨_, _, _, _, h⟩ := noteLane_eq s r action; rw [h]
@[simp] theorem hoppers_noteLane (r action : Nat) : (noteLane s r action).hoppers = s.hoppers := by obtain ⟨_, _, _, _, h⟩ := noteLane_eq s r action; rw [h]
@[simp] theorem pool_noteLane (r action : Nat) : (noteLane s r action).pool = s.pool := by obtain ⟨_, _, _, _, h⟩ := noteLane_eq s r action; rw [h]
@[simp] theorem nextEntry_noteLane (r action : Nat) : (noteLane s r action).nextEntry = s.nextEntry := by obtain ⟨_, _, _, _, h⟩ := noteLane_eq s r action; rw [h]
@[simp] theorem flumes_noteLane (r action : Nat) : (noteLane s r action).flumes = s.flumes := by obtain ⟨_, _, _, _, h⟩ := noteLane_eq s r action; rw [h]
@[simp] theorem eds_noteLane (r action : Nat) : (noteLane s r action).eds = s.eds := by obtain ⟨_, _, _, _, h⟩ := noteLane_eq s r action; rw [h]
@[simp] theorem shards_noteLane (r action : Nat) : (noteLane s r action).shards = s.shards := by obtain ⟨_, _, _, _, h⟩ := noteLane_eq s r action; rw [h]
@[simp] theorem galley_noteLane (r action : Nat) : (noteLane s r action).galley = s.galley := by obtain ⟨_, _, _, _, h⟩ := noteLane_eq s r action; rw [h]
@[simp] theorem races_noteLane (r action : Nat) : (noteLane s r action).races = s.races := by obtain ⟨_, _, _, _, h⟩ := noteLane_eq s r action; rw [h]
@[simp] theorem racePorts_noteLane (r action : Nat) : (noteLane s r action).racePorts = s.racePorts := by obtain ⟨_, _, _, _, h⟩ := noteLane_eq s r action; rw [h]
@[simp] theorem sec_noteLane (r action : Nat) : (noteLane s r action).sec = s.sec := by obtain ⟨_, _, _, _, h⟩ := noteLane_eq s r action; rw [h]
@[simp] theorem pwr_noteLane (r action : Nat) : (noteLane s r action).pwr = s.pwr := by obtain ⟨_, _, _, _, h⟩ := noteLane_eq s r action; rw [h]
@[simp] theorem pair_noteLane (r action : Nat) : (noteLane s r action).pair = s.pair := by obtain ⟨_, _, _, _, h⟩ := noteLane_eq s r action; rw [h]
@[simp] theorem board_noteLane (r action : Nat) : (noteLane s r action).board = s.board := by obtain ⟨_, _, _, _, h⟩ := noteLane_eq s r action; rw [h]
@[simp] theorem grantStalls_noteLane (r action : Nat) : (noteLane s r action).grantStalls = s.grantStalls := by obtain ⟨_, _, _, _, h⟩ := noteLane_eq s r action; rw [h]
@[simp] theorem ipWait_noteLane (r action : Nat) : (noteLane s r action).ipWait = s.ipWait := by obtain ⟨_, _, _, _, h⟩ := noteLane_eq s r action; rw [h]
@[simp] theorem cookieSecret_noteLane (r action : Nat) : (noteLane s r action).cookieSecret = s.cookieSecret := by obtain ⟨_, _, _, _, h⟩ := noteLane_eq s r action; rw [h]
@[simp] theorem cookiePrev_noteLane (r action : Nat) : (noteLane s r action).cookiePrev = s.cookiePrev := by obtain ⟨_, _, _, _, h⟩ := noteLane_eq s r action; rw [h]
@[simp] theorem cookieEpoch_noteLane (r action : Nat) : (noteLane s r action).cookieEpoch = s.cookieEpoch := by obtain ⟨_, _, _, _, h⟩ := noteLane_eq s r action; rw [h]
@[simp] theorem stepEventBase_noteLane (r action : Nat) : (noteLane s r action).stepEventBase = s.stepEventBase := by obtain ⟨_, _, _, _, h⟩ := noteLane_eq s r action; rw [h]
@[simp] theorem stepEventLow_noteLane (r action : Nat) : (noteLane s r action).stepEventLow = s.stepEventLow := by obtain ⟨_, _, _, _, h⟩ := noteLane_eq s r action; rw [h]
@[simp] theorem pending_noteLane (r action : Nat) : (noteLane s r action).pending = s.pending := by obtain ⟨_, _, _, _, h⟩ := noteLane_eq s r action; rw [h]
@[simp] theorem quern_at_noteLane (r action : Nat) (i : Nat) : (noteLane s r action).quern i = s.quern i := by simp only [State.quern, querns_noteLane]
@[simp] theorem ctx_at_noteLane (r action : Nat) (i : Nat) : (noteLane s r action).ctx i = s.ctx i := by simp only [State.ctx, ctxs_noteLane]
@[simp] theorem hopper_at_noteLane (r action : Nat) (i : Nat) : (noteLane s r action).hopper i = s.hopper i := by simp only [State.hopper, hoppers_noteLane]
@[simp] theorem entry_at_noteLane (r action : Nat) (i : Nat) : (noteLane s r action).entry? i = s.entry? i := by simp only [State.entry?, pool_noteLane]
@[simp] theorem flume_at_noteLane (r action : Nat) (i : Nat) : (noteLane s r action).flume i = s.flume i := by simp only [State.flume, flumes_noteLane]
@[simp] theorem ed_at_noteLane (r action : Nat) (i : Nat) : (noteLane s r action).ed i = s.ed i := by simp only [State.ed, eds_noteLane]
@[simp] theorem shard_at_noteLane (r action : Nat) (i : Nat) : (noteLane s r action).shard i = s.shard i := by simp only [State.shard, shards_noteLane]
@[simp] theorem race_at_noteLane (r action : Nat) (i : Nat) : (noteLane s r action).race i = s.race i := by simp only [State.race, races_noteLane]
@[simp] theorem racePort_at_noteLane (r action : Nat) (i : Nat) : (noteLane s r action).racePort i = s.racePort i := by simp only [State.racePort, racePorts_noteLane]
@[simp] theorem stone_at_noteLane (r action : Nat) (i : Nat) : (noteLane s r action).stone i = s.stone i := by simp only [State.stone, pwr_noteLane]
@[simp] theorem page_at_noteLane (r action : Nat) (i : Nat) : (noteLane s r action).page i = s.page i := by simp only [State.page, mm_noteLane]

end Sys2Proof.Machine
end

