-- ==== Sys2Proof/Laws/Memory.lean ====
section
/-! SUPPORT. The bytes of the package: what a write reads back as, and that every operation keeps the canonical form of `Memory.wf`. -/

namespace Sys2Proof.Machine

open Sys2Proof

theorem Memory.wfFrom_mono {m : List Host.Cell} {a b : Nat} (h : a ≤ b) (w : Memory.wfFrom b m = true) : Memory.wfFrom a m = true := by
  cases m with
  | nil => rfl
  | cons c t =>
    obtain ⟨k, v⟩ := c
    simp only [Memory.wfFrom, Bool.and_eq_true, decide_eq_true_eq] at w ⊢
    exact ⟨⟨by omega, w.1.2⟩, w.2⟩

/-- Below the first possible key every byte reads as zero. -/
theorem Memory.get_below {m : List Host.Cell} {lo a : Nat} (w : Memory.wfFrom lo m = true) (h : a < lo) : Memory.get m a = 0 := by
  cases m with
  | nil => rfl
  | cons c t =>
    obtain ⟨k, v⟩ := c
    simp only [Memory.wfFrom, Bool.and_eq_true, decide_eq_true_eq] at w
    have h1 : k ≠ a := by omega
    have h2 : a < k := by omega
    simp [Memory.get, h1, h2]

theorem Memory.wfFrom_set {m : List Host.Cell} {lo a : Nat} (v : W8) (w : Memory.wfFrom lo m = true) (h : lo ≤ a) :
    Memory.wfFrom lo (Memory.set m a v) = true := by
  induction m generalizing lo with
  | nil =>
    by_cases hv : v = 0#8 <;> simp [Memory.set, Memory.wfFrom, hv, h]
  | cons c t ih =>
    obtain ⟨k, x⟩ := c
    simp only [Memory.wfFrom, Bool.and_eq_true, decide_eq_true_eq] at w
    obtain ⟨⟨hk, hx'⟩, ht⟩ := w
    have hx : ¬ x = 0#8 := by simpa using hx'
    simp only [Memory.set]
    split
    · rename_i hak
      by_cases hv : v = 0#8
      · simp [hv, Memory.wfFrom, hk, hx, ht]
      · have : a + 1 ≤ k := hak
        simp [hv, Memory.wfFrom, h, this, hx, ht]
    · split
      · rename_i e
        subst e
        by_cases hv : v = 0#8
        · simpa [hv] using Memory.wfFrom_mono (by omega) ht
        · simp [hv, Memory.wfFrom, h, ht]
      · have := ih ht (by omega)
        simp [Memory.wfFrom, hk, hx, this]

theorem Memory.wf_set {m : List Host.Cell} (a : Nat) (v : W8) (w : Memory.wf m = true) : Memory.wf (Memory.set m a v) = true :=
  Memory.wfFrom_set v w (Nat.zero_le a)

theorem Memory.getFrom_set {m : List Host.Cell} {lo : Nat} (a b : Nat) (v : W8) (w : Memory.wfFrom lo m = true) :
    Memory.get (Memory.set m a v) b = if b = a then v else Memory.get m b := by
  induction m generalizing lo with
  | nil =>
    by_cases hv : v = 0#8 <;> by_cases hb : b = a <;> simp [Memory.set, Memory.get, hv, hb, eq_comm]
    intro h; exact absurd h.symm hb
  | cons c t ih =>
    obtain ⟨k, x⟩ := c
    simp only [Memory.wfFrom, Bool.and_eq_true, decide_eq_true_eq] at w
    obtain ⟨⟨hk, hx⟩, ht⟩ := w
    simp only [Memory.set]
    split
    · rename_i hak
      by_cases hv : v = 0#8
      · by_cases hb : b = a
        · subst hb
          have : k ≠ b := by omega
          simp [hv, Memory.get, this, hak]
        · simp [hv, hb]
      · by_cases hb : b = a
        · subst hb; simp [hv, Memory.get]
        · have hab : a ≠ b := fun e => hb e.symm
          by_cases hlt : b < a
          · have h1 : k ≠ b := by omega
            have h2 : b < k := by omega
            simp [hv, hb, Memory.get, hab, hlt, h1, h2]
          · simp [hv, hb, Memory.get, hab, hlt]
    · split
      · rename_i e
        subst e
        by_cases hb : b = a
        · subst hb
          by_cases hv : v = 0#8
          · simp [hv, Memory.get_below ht (Nat.lt_succ_self b)]
          · simp [hv, Memory.get]
        · have hab : a ≠ b := fun e => hb e.symm
          by_cases hv : v = 0#8
          · by_cases hlt : b < a
            · simp [hv, hb, Memory.get, hab, hlt, Memory.get_below ht (by omega : b < a + 1)]
            · simp [hv, hb, Memory.get, hab, hlt]
          · simp [hv, hb, Memory.get, hab]
      · simp only [Memory.get, ih ht]
        by_cases hb : b = a
        · subst hb
          have h1 : k ≠ b := by omega
          have h2 : ¬ b < k := by omega
          simp [h1, h2]
        · simp [hb]

/-- A byte written reads back, and every other byte as before. -/
theorem Memory.get_set {m : List Host.Cell} (a b : Nat) (v : W8) (w : Memory.wf m = true) :
    Memory.get (Memory.set m a v) b = if b = a then v else Memory.get m b := Memory.getFrom_set a b v w

theorem Memory.wf_setAll {m : List Host.Cell} (ws : List (Nat × W8)) (w : Memory.wf m = true) : Memory.wf (Memory.setAll m ws) = true := by
  induction ws generalizing m with
  | nil => exact w
  | cons x t ih => exact ih (Memory.wf_set x.1 x.2 w)

/-- A byte outside the addresses written reads as before. -/
theorem Memory.get_setAll_of_notMem {m : List Host.Cell} (ws : List (Nat × W8)) (b : Nat) (w : Memory.wf m = true) (h : b ∉ ws.map (·.1)) :
    Memory.get (Memory.setAll m ws) b = Memory.get m b := by
  induction ws generalizing m with
  | nil => rfl
  | cons x t ih =>
    simp only [List.map_cons, List.mem_cons, not_or] at h
    have := ih (m := Memory.set m x.1 x.2) (Memory.wf_set _ _ w) h.2
    rw [Memory.get_set _ _ _ w] at this
    simpa [Memory.setAll, h.1] using this

theorem Memory.wfFrom_filter {m : List Host.Cell} {lo : Nat} (p : Host.Cell → Bool) (w : Memory.wfFrom lo m = true) :
    Memory.wfFrom lo (m.filter p) = true := by
  induction m generalizing lo with
  | nil => rfl
  | cons c t ih =>
    obtain ⟨k, x⟩ := c
    simp only [Memory.wfFrom, Bool.and_eq_true, decide_eq_true_eq] at w
    have hx : ¬ x = 0#8 := by simpa using w.1.2
    by_cases hp : p (k, x) = true
    · simp [hp, Memory.wfFrom, w.1.1, hx, ih w.2]
    · simp only [List.filter_cons, hp]
      exact Memory.wfFrom_mono (by omega) (ih w.2)

theorem Memory.wf_clear {m : List Host.Cell} (k n : Nat) (w : Memory.wf m = true) : Memory.wf (Memory.clear m k n) = true :=
  Memory.wfFrom_filter _ w

theorem Memory.getFrom_clear {m : List Host.Cell} {lo : Nat} (k n b : Nat) (w : Memory.wfFrom lo m = true) :
    Memory.get (Memory.clear m k n) b = if k ≤ b ∧ b < k + n then 0 else Memory.get m b := by
  induction m generalizing lo with
  | nil => simp [Memory.clear, Memory.get]
  | cons c t ih =>
    obtain ⟨i, x⟩ := c
    simp only [Memory.wfFrom, Bool.and_eq_true, decide_eq_true_eq] at w
    have ih' := ih w.2
    have hwf : Memory.wfFrom (i + 1) (Memory.clear t k n) = true := Memory.wfFrom_filter _ w.2
    by_cases hi : k ≤ i ∧ i < k + n
    · have e : Memory.clear ((i, x) :: t) k n = Memory.clear t k n := by simp [Memory.clear, hi]
      rw [e, ih']
      by_cases hb : k ≤ b ∧ b < k + n
      · simp [hb]
      · have h1 : i ≠ b := by rintro rfl; exact hb hi
        by_cases hlt : b < i
        · simp [hb, Memory.get, h1, hlt, Memory.get_below w.2 (by omega : b < i + 1)]
        · simp [hb, Memory.get, h1, hlt]
    · have e : Memory.clear ((i, x) :: t) k n = (i, x) :: Memory.clear t k n := by
        simp only [Memory.clear, List.filter_cons]
        simp [hi]
      rw [e]
      simp only [Memory.get, ih']
      by_cases h1 : i = b
      · subst h1; simp [hi]
      · by_cases hlt : b < i
        · simp [h1, hlt]
        · simp [h1, hlt]

/-- A cleared range reads as zero, and every other byte as before. -/
theorem Memory.get_clear {m : List Host.Cell} (k n b : Nat) (w : Memory.wf m = true) :
    Memory.get (Memory.clear m k n) b = if k ≤ b ∧ b < k + n then 0 else Memory.get m b := Memory.getFrom_clear k n b w

/-- The addresses that a list of bytes takes. -/
theorem mem_cellsAt {a b : Nat} {bs : List W8} (h : b ∈ (cellsAt a bs).map (·.1)) : a ≤ b ∧ b < a + bs.length := by
  simp only [cellsAt, List.map_map, List.mem_map] at h
  obtain ⟨⟨c, d⟩, hc, rfl⟩ := h
  have := (List.of_mem_zip hc).1
  simp at this ⊢
  omega

@[simp] theorem length_leBytes (n v : Nat) : (leBytes n v).length = n := by
  induction n generalizing v with
  | zero => rfl
  | succ n ih => simp [leBytes, ih]

/-- A byte outside a run of bytes written reads as before. -/
theorem Memory.get_cellsAt {m : List Host.Cell} {a b : Nat} {bs : List W8} (w : Memory.wf m = true) (h : b < a ∨ a + bs.length ≤ b) :
    Memory.get (Memory.setAll m (cellsAt a bs)) b = Memory.get m b := by
  refine Memory.get_setAll_of_notMem _ _ w (fun hb => ?_)
  have := mem_cellsAt hb
  omega

end Sys2Proof.Machine
end

