-- ==== Sys2Proof/Laws/Matrix.lean ====
section
/-! SUPPORT. The accumulator sets: what clearing one and adding to one leave as they were. -/

namespace Sys2Proof.Machine

open Sys2Proof

@[simp] theorem mem_clearSet (s : State) (q k : Nat) : (clearSet s q k).mem = Memory.clear s.mem (setBase q k) 0x40000 := rfl

theorem quern_clearSet (s : State) (q k : Nat) : (clearSet s q k).quern q
    = { s.quern q with special := (s.quern q).special.filter (fun a => !(decide (setBase q k ≤ a) && decide (a < setBase q k + 0x40000))) } := by
  simp only [clearSet, State.updQuern, State.quern_setQuern_same]
  rfl

/-- Additions to accumulator elements keep the canonical form of memory. -/
theorem wf_addSums (q : Nat) (adds : List AccAdd) :
    ∀ s : State, Memory.wf s.mem = true → Memory.wf (addSums s q adds).mem = true := by
  induction adds with
  | nil => intro s h; exact h
  | cons x t ih =>
    intro s h
    simp only [addSums, List.foldl_cons] at ih ⊢
    apply ih
    split
    · exact h
    · split <;> exact Memory.wf_setAll _ h

/-- Additions change only the elements that they name. -/
theorem get_addSums (q : Nat) (adds : List AccAdd) (a : Nat) :
    ∀ s : State, Memory.wf s.mem = true → (∀ x ∈ adds, a < x.key ∨ x.key + 4 ≤ a) →
      Memory.get (addSums s q adds).mem a = Memory.get s.mem a := by
  induction adds with
  | nil => intro s h _; rfl
  | cons x t ih =>
    intro s h hx
    simp only [addSums, List.foldl_cons] at ih ⊢
    have hx1 := hx x (by simp)
    have hx2 : ∀ y ∈ t, a < y.key ∨ y.key + 4 ≤ a := fun y hy => hx y (by simp [hy])
    rw [ih _ _ hx2]
    · split
      · rfl
      · split <;> exact Memory.get_cellsAt h (by simpa using hx1)
    · split
      · exact h
      · split <;> exact Memory.wf_setAll _ h

/-- Additions leave the epoch's tensor scales. -/
theorem scales_addSums (q : Nat) (adds : List AccAdd) :
    ∀ s : State, ((addSums s q adds).quern q).scales = (s.quern q).scales := by
  induction adds with
  | nil => intro s; rfl
  | cons x t ih =>
    intro s
    simp only [addSums, List.foldl_cons] at ih ⊢
    rw [ih]
    split
    · rfl
    · split
      · show ((s.setQuern q _).quern q).scales = _; simp [Quern.raiseFl]
      · show ((s.setQuern q _).quern q).scales = _; simp
      · show ((s.setQuern q _).quern q).scales = _; simp [Quern.raiseFl]

end Sys2Proof.Machine
end

