-- ==== Sys2Proof/Laws/Start.lean ====
section
/-!
SUPPORT. The start of an instruction, once for a Quern's streams and once for stage programs: every outcome that `startInstr`, `startV` and
`startStage` can have, so that no proof about one instruction unfolds them.
-/

namespace Sys2Proof.Machine

open Sys2Proof

@[simp] theorem need_true (code : Nat) : need true code = .ok () := rfl
@[simp] theorem need_false (code : Nat) : need false code = .error code := rfl
theorem need_of {b : Bool} (h : b = true) (code : Nat) : need b code = .ok () := by simp [h]
theorem needTop_of {i : Issue} {lo : Nat} (h : i.ops >>> lo = 0) : needTop i lo = .ok () := by simp [needTop, h]

@[simp] theorem andThen_next (s : State) (f : State → State) : andThen (.next s) f = .next (f s) := rfl

/-- An instruction that starts and whose result is `t`. -/
theorem startInstr_ok {q st op i now ready body s t} (h : Starts s q st op i) (hr : ready (s.quern q) = true)
    (hb : body (begun s q i) = .ok t) :
    startInstr q st op i now ready body s
      = .next (signalIf (advance t q st) q st ((s.quern q).stream st).pos (now && i.sen) i.stok.toNat) := by
  obtain ⟨h1, h2⟩ := h
  simp only [begun] at hb
  simp [startInstr, h1, h2, hr, hb]

/-- The same for an instruction that signals at once. -/
theorem startInstr_now {q st op i ready body s t} (h : Starts s q st op i) (hr : ready (s.quern q) = true)
    (hb : body (begun s q i) = .ok t) : startInstr q st op i true ready body s = .next (ended s t q st i) := by
  rw [startInstr_ok h hr hb]; simp [ended]

/-- The same for one whose signal comes later. -/
theorem startInstr_later {q st op i ready body s t} (h : Starts s q st op i) (hr : ready (s.quern q) = true)
    (hb : body (begun s q i) = .ok t) : startInstr q st op i false ready body s = .next (advance t q st) := by
  rw [startInstr_ok h hr hb]; simp [signalIf]

/-- An instruction that starts and fails stops its program. -/
theorem startInstr_fail {q st op i now ready body s code} (h : Starts s q st op i) (hr : ready (s.quern q) = true)
    (hb : body (begun s q i) = .error code) :
    startInstr q st op i now ready body s = .next (failInstr (begun s q i) q st ((s.quern q).stream st).pos code) := by
  obtain ⟨h1, h2⟩ := h
  simp only [begun] at hb
  simp [startInstr, h1, h2, hr, hb, begun]

/-- An instruction that is not the next one, or may not start, has no effect. -/
theorem startInstr_idle {q st op i now ready body s} (h : (s.quern q).ready st op i = false) :
    startInstr q st op i now ready body s = .next s := by simp [startInstr, h]

/-- While its clock is stopped a Quern starts no instruction (R37). -/
theorem startInstr_stopped {q st op i now ready body s} (h : s.board.haltedByClock = true) :
    startInstr q st op i now ready body s = .next s := by simp [startInstr, h]

/-- An instruction whose header wait is not satisfied only marks its stream. -/
theorem startInstr_wait {q st op i now ready body s} (hc : s.board.haltedByClock = false) (h : (s.quern q).ready st op i = true)
    (hw : (s.quern q).waitOk i = false) : startInstr q st op i now ready body s = .next (markWaiting s q st i.wtok.toNat 1) := by
  simp [startInstr, hc, h, hw]

/-- Taking the header wait changes the counters alone. -/
theorem takeWait_eq (v : Quern) (i : Issue) :
    v.takeWait i = { v with tokens := if i.wen then v.tokens.set i.wtok.toNat (v.token i.wtok.toNat - 1) else v.tokens } := by
  unfold Quern.takeWait Quern.setToken
  cases i.wen <;> rfl

theorem quern_begun (s : State) (q : Nat) (i : Issue) : (begun s q i).quern q
    = { s.quern q with tokens := if i.wen then (s.quern q).tokens.set i.wtok.toNat ((s.quern q).token i.wtok.toNat - 1) else (s.quern q).tokens } := by
  simp [begun, takeWait_eq]

/-- A V-stream instruction acts on its Quern with other counters and fewer hidden results. -/
theorem quern_vBegun (s : State) (q : Nat) (i : Issue) : (vBegun s q i).quern q
    = { s.quern q with
        tokens := if i.wen then (s.quern q).tokens.set i.wtok.toNat ((s.quern q).token i.wtok.toNat - 1) else (s.quern q).tokens
        vpend := expire (s.quern q).vcount (s.quern q).vpend } := by
  simp [vBegun, State.updQuern, quern_begun]

@[simp] theorem mem_begun (s : State) (q : Nat) (i : Issue) : (begun s q i).mem = s.mem := rfl
@[simp] theorem mem_vBegun (s : State) (q : Nat) (i : Issue) : (vBegun s q i).mem = s.mem := rfl
@[simp] theorem sec_vBegun (s : State) (q : Nat) (i : Issue) : (vBegun s q i).sec = s.sec := rfl
@[simp] theorem mm_begun (s : State) (q : Nat) (i : Issue) : (begun s q i).mm = s.mm := rfl

/-- A V-stream instruction that starts and whose result is `t`: pending results have come in before it, and it is counted behind it. -/
theorem startV_ok {q op i body s t} (h : Starts s q .v op i)
    (hb : body (vBegun s q i) = .ok t) : startV q op i body s = .next (vEnded s t q i) := by
  refine startInstr_now h rfl ?_
  simp only [vBegun] at hb
  simp [hb, Bind.bind, Except.bind]

/-- A stage-program instruction that starts, is enabled, and whose result is `t` with signal point `w`. -/
theorem startStage_ok {c op i held enabled body s t w} (h : StageStarts s c op i held) (he : enabled s = true)
    (hb : body (stageBegun s c i) = .ok (t, w)) : startStage c op i held enabled body s = .next (stageEnded s t c i w) := by
  obtain ⟨h1, h2, h3, h4⟩ := h
  have h3' : (i.wen && decide (i.wtok.toNat > 15)) = false := by
    cases hw : i.wen <;> simp_all
  have h4' : (i.sen && decide (i.stok.toNat > 15)) = false := by
    cases hw : i.sen <;> simp_all
  simp only [stageBegun] at hb
  simp [startStage, h1, h2, h3', h4', he, hb, stageEnded]

/-- A stage-program instruction that starts and fails stops its context. -/
theorem startStage_fail {c op i held enabled body s code} (h : StageStarts s c op i held) (he : enabled s = true)
    (hb : body (stageBegun s c i) = .error code) :
    startStage c op i held enabled body s = .next (stopCtx (stageBegun s c i) c code (s.ctx c).seqr.pos []) := by
  obtain ⟨h1, h2, h3, h4⟩ := h
  have h3' : (i.wen && decide (i.wtok.toNat > 15)) = false := by
    cases hw : i.wen <;> simp_all
  have h4' : (i.sen && decide (i.stok.toNat > 15)) = false := by
    cases hw : i.sen <;> simp_all
  simp only [stageBegun] at hb
  simp [startStage, h1, h2, h3', h4', he, hb, stageBegun]

/-- The same with what follows by itself. -/
theorem stageInstr_ok {c op i held enabled body s t w} (h : StageStarts s c op i held) (he : enabled s = true)
    (hb : body (stageBegun s c i) = .ok (t, w)) :
    stageInstr c op i held enabled body s = .next (settle (stageEnded s t c i w)) := by
  simp [stageInstr, startStage_ok h he hb]

end Sys2Proof.Machine
end

