-- ==== Sys2Proof/Laws/Stores.lean ====
section
/-!
SUPPORT. Where the V stream stores: the bytes that a write through a descriptor takes lie in the ranges of the elements that it writes, and
every other byte stays.
-/

namespace Sys2Proof.Machine

open Sys2Proof

/-! ### Addresses of packed elements and of byte ranges -/

theorem keys_set {α : Type} (t : Tbl α) (k : Nat) (v : α) {b : Nat} (h : b ∈ (Tbl.set t k v).map (·.1)) : b = k ∨ b ∈ t.map (·.1) := by
  induction t with
  | nil => simpa [Tbl.set] using h
  | cons p t ih =>
    obtain ⟨j, w⟩ := p
    simp only [Tbl.set] at h
    split at h
    · simp only [List.map_cons, List.mem_cons] at h ⊢; exact h
    · split at h
      · simp only [List.map_cons, List.mem_cons] at h ⊢; tauto
      · simp only [List.map_cons, List.mem_cons] at h ⊢
        rcases h with h | h
        · exact .inr (.inl h)
        · rcases ih h with h | h
          · exact .inl h
          · exact .inr (.inr h)

theorem keys_setCells {α : Type} (l : List (Nat × α)) (t : Tbl α) {b : Nat}
    (h : b ∈ (l.foldl (fun (t : Tbl α) p => Tbl.set t p.1 p.2) t).map (·.1)) : b ∈ l.map (·.1) ∨ b ∈ t.map (·.1) := by
  induction l generalizing t with
  | nil => exact .inr h
  | cons p l ih =>
    rcases ih _ h with h | h
    · exact .inl (by simp only [List.map_cons, List.mem_cons]; exact .inr h)
    · rcases keys_set _ _ _ h with h | h
      · exact .inl (by simp [h])
      · exact .inr h

/-- The bytes of packed elements are those that hold one of the elements. -/
theorem packBits_addr {rd : Nat → W8} {w : Nat} {els : List (Int × Nat)} {b : Nat} (h : b ∈ (packBits rd w els).map (·.1)) :
    ∃ x ∈ els, (x.1 / 8).toNat ≤ b ∧ b < (x.1 / 8).toNat + ((x.1 % 8).toNat + w + 7) / 8 := by
  unfold packBits at h
  split at h
  · simp only [List.map_flatMap, List.mem_flatMap] at h
    obtain ⟨x, hx, h⟩ := h
    have := mem_cellsAt h
    rw [length_leBytes] at this
    exact ⟨x, hx, this.1, by omega⟩
  · suffices g : ∀ (l : List (Int × Nat)) (acc : Tbl W8),
        b ∈ (l.foldl (fun (acc : Tbl W8) x =>
          let o := (x.1 % 8).toNat
          let a := (x.1 / 8).toNat
          let n := (o + w + 7) / 8
          let old := rdNat (fun b => Tbl.getD acc b (rd b)) a n
          let new := old - old / 2 ^ o % 2 ^ w * 2 ^ o + x.2 % 2 ^ w * 2 ^ o
          (cellsAt a (leBytes n new)).foldl (fun (t : Tbl W8) p => Tbl.set t p.1 p.2) acc) acc).map (·.1) →
        (∃ x ∈ l, (x.1 / 8).toNat ≤ b ∧ b < (x.1 / 8).toNat + ((x.1 % 8).toNat + w + 7) / 8) ∨ b ∈ acc.map (·.1) by
      rcases g els [] h with g | g
      · exact g
      · cases g
    intro l
    induction l with
    | nil => exact fun acc h => .inr h
    | cons x l ih =>
      intro acc h
      rcases ih _ h with ⟨y, hy, g⟩ | g
      · exact .inl ⟨y, List.mem_cons_of_mem _ hy, g⟩
      · rcases keys_setCells _ _ g with g | g
        · have := mem_cellsAt g
          rw [length_leBytes] at this
          exact .inl ⟨x, List.mem_cons_self, this⟩
        · exact .inr g

/-- An address of byte ranges that lie above zero. -/
theorem mem_rangeAddrs {rs : List (Int × Nat)} {r : Int × Nat} {b : Nat} (hr : r ∈ rs) (h0 : 0 ≤ r.1) (h1 : r.1.toNat ≤ b) (h2 : b < r.1.toNat + r.2) :
    b ∈ rangeAddrs rs := by
  simp only [rangeAddrs, List.mem_flatMap, List.mem_map, List.mem_range]
  exact ⟨r, hr, b - r.1.toNat, by omega, by omega⟩

theorem rangesIn_nonneg {rs : List (Int × Nat)} {lo hi : Nat} (h : rangesIn rs lo hi = true) {r : Int × Nat} (hr : r ∈ rs) : 0 ≤ r.1 := by
  simp only [rangesIn, List.all_eq_true, Bool.and_eq_true, decide_eq_true_eq] at h
  have := (h r hr).1
  omega

/-! ### Addresses of a write through a descriptor -/

theorem putRaw_addr {d : Desc} {rd : Nat → W8} {t : StatusSlot} {els : List (Nat × Nat)} {b : Nat} (h : b ∈ (d.putRaw rd t els).bytes.map (·.1)) :
    ∃ x ∈ els, (d.bytesOf x.1).1.toNat ≤ b ∧ b < (d.bytesOf x.1).1.toNat + (d.bytesOf x.1).2 := by
  obtain ⟨x, hx, h⟩ := packBits_addr h
  simp only [List.mem_map] at hx
  obtain ⟨y, hy, rfl⟩ := hx
  exact ⟨y, hy, h⟩

/-- What a conversion writes: its elements, the scale bytes of their blocks, and a VQ4 tensor scale. -/
theorem putConv_addr {d : Desc} {rd : Nat → W8} {rm : RMode} {sat : Bool} {t : StatusSlot} {els : List (Nat × Val × Nat)} {b : Nat}
    (h : b ∈ (d.putConv rd rm sat t els).bytes.map (·.1)) :
    (∃ x ∈ els, (d.bytesOf x.1).1.toNat ≤ b ∧ b < (d.bytesOf x.1).1.toNat + (d.bytesOf x.1).2)
    ∨ (d.fmt.isBlock = true ∧ ∃ x ∈ els, b = (d.scaleAddr x.1).toNat)
    ∨ ((d.fmt == .vq4) = true ∧ els ≠ [] ∧ d.tscaleAt ≤ b ∧ b < d.tscaleAt + 8) := by
  have key : ∀ (f : Nat × Val × Nat → Val × Bool) (l : List (Nat × Val × Nat)) (acc : List (Int × Nat) × StatusSlot × Fl) (y : Int × Nat),
      y ∈ (l.foldl (fun acc x =>
        let c := convEl d.fmt d.isSigned rm sat x.2.2 (f x).1 (f x).2
        (acc.1 ++ [(d.bitOf x.1, c.bits)], acc.2.1.note x.2.1 c, acc.2.2 ||| c.fl)) acc).1 → (∃ x ∈ l, y.1 = d.bitOf x.1) ∨ y ∈ acc.1 := by
    intro f l
    induction l with
    | nil => exact fun acc y h => .inr h
    | cons x l ih =>
      intro acc y h
      rcases ih _ _ h with ⟨z, hz, e⟩ | g
      · exact .inl ⟨z, List.mem_cons_of_mem _ hz, e⟩
      · simp only [List.mem_append, List.mem_singleton] at g
        rcases g with g | g
        · exact .inr g
        · exact .inl ⟨x, List.mem_cons_self, by rw [g]⟩
  unfold Desc.putConv at h
  split at h
  · rename_i hb
    simp only [List.map_append, List.mem_append] at h
    rcases h with (h | h) | h
    · split at h
      · rename_i hv
        have := mem_cellsAt h
        rw [length_leBytes] at this
        exact .inr (.inr ⟨hv.1, hv.2, this⟩)
      · cases h
    · simp only [List.map_map, List.mem_map] at h
      obtain ⟨k, hk, e⟩ := h
      rw [List.mem_eraseDups, List.mem_map] at hk
      obtain ⟨x, hx, rfl⟩ := hk
      exact .inr (.inl ⟨hb, x, hx, e.symm⟩)
    · obtain ⟨y, hy, h⟩ := packBits_addr h
      rcases key _ _ _ _ hy with ⟨x, hx, e⟩ | g
      · refine .inl ⟨x, hx, ?_⟩
        simp only [e] at h
        exact h
      · cases g
  · obtain ⟨y, hy, h⟩ := packBits_addr h
    rcases key (fun x => (x.2.1, false)) _ _ _ hy with ⟨x, hx, e⟩ | g
    · refine .inl ⟨x, hx, ?_⟩
      simp only [e] at h
      exact h
    · cases g

theorem vMem_ranges {v : Quern} {q slot n k : Nat} {d : Desc} (h : vMem v q slot n = .ok (d, k)) :
    rangesIn (d.ranges k n) (winBase q) (winBase q + winEnd) = true := by
  unfold vMem at h
  simp only [Bind.bind, Except.bind] at h
  split at h
  · cases h
  · unfold need at h
    split at h
    · cases h
    · split at h
      · cases h
      · rename_i h5
        cases h
        by_contra hc
        simp [hc] at h5

/-- The bytes of n elements from k on, their scales and their tensor scale lie in the ranges that `vMem` has checked. -/
theorem elem_mem_slotBytes {s : State} {q slot n k j b : Nat} {d : Desc} (h : vMem (s.quern q) q slot n = .ok (d, k)) (hj : j < n)
    (h1 : (d.bytesOf (k + j)).1.toNat ≤ b) (h2 : b < (d.bytesOf (k + j)).1.toNat + (d.bytesOf (k + j)).2) : b ∈ slotBytesOf s q slot n := by
  simp only [slotBytesOf, h]
  have hm : d.bytesOf (k + j) ∈ d.ranges k n := by
    simp only [Desc.ranges, List.mem_append, List.mem_map, List.mem_range]
    exact .inl (.inl ⟨j, hj, rfl⟩)
  exact mem_rangeAddrs hm (rangesIn_nonneg (vMem_ranges h) hm) h1 h2

theorem scale_mem_slotBytes {s : State} {q slot n k j : Nat} {d : Desc} (h : vMem (s.quern q) q slot n = .ok (d, k)) (hj : j < n)
    (hb : d.fmt.isBlock = true) : (d.scaleAddr (k + j)).toNat ∈ slotBytesOf s q slot n := by
  simp only [slotBytesOf, h]
  have hm : (d.scaleAddr (k + j), 1) ∈ d.ranges k n := by
    simp only [Desc.ranges, List.mem_append, hb, if_true, List.mem_map, List.mem_range]
    exact .inl (.inr ⟨j, hj, rfl⟩)
  exact mem_rangeAddrs hm (rangesIn_nonneg (vMem_ranges h) hm) (Nat.le_refl _) (Nat.lt_succ_self _)

theorem tscale_mem_slotBytes {s : State} {q slot n k b : Nat} {d : Desc} (h : vMem (s.quern q) q slot n = .ok (d, k)) (hn : 0 < n)
    (hv : (d.fmt == .vq4) = true) (h1 : d.tscaleAt ≤ b) (h2 : b < d.tscaleAt + 8) : b ∈ slotBytesOf s q slot n := by
  simp only [slotBytesOf, h]
  have hm : ((d.tscaleAt : Int), 8) ∈ d.ranges k n := by
    simp only [Desc.ranges, List.mem_append, hv, hn, and_self, if_true, List.mem_singleton]
    exact .inr trivial
  exact mem_rangeAddrs hm (rangesIn_nonneg (vMem_ranges h) hm) (by simpa using h1) (by simpa using h2)

/-- A conversion into elements k to k + n − 1 of a slot's tensor stays in the bytes of those elements. -/
theorem putConv_mem_slotBytes {s : State} {q slot n k b : Nat} {d : Desc} {rd : Nat → W8} {rm : RMode} {sat : Bool} {t : StatusSlot}
    {els : List (Nat × Val × Nat)} (h : vMem (s.quern q) q slot n = .ok (d, k)) (he : ∀ x ∈ els, ∃ j < n, x.1 = k + j)
    (hb : b ∈ (d.putConv rd rm sat t els).bytes.map (·.1)) : b ∈ slotBytesOf s q slot n := by
  rcases putConv_addr hb with ⟨x, hx, h1, h2⟩ | ⟨hf, x, hx, e⟩ | ⟨hv, hne, h1, h2⟩
  · obtain ⟨j, hj, e⟩ := he x hx
    rw [e] at h1 h2
    exact elem_mem_slotBytes h hj h1 h2
  · obtain ⟨j, hj, e'⟩ := he x hx
    rw [e, e']
    exact scale_mem_slotBytes h hj hf
  · obtain ⟨x, l, rfl⟩ := List.exists_cons_of_ne_nil hne
    obtain ⟨j, hj, _⟩ := he x List.mem_cons_self
    exact tscale_mem_slotBytes h (by omega) hv h1 h2

theorem putRaw_mem_slotBytes {s : State} {q slot n k b : Nat} {d : Desc} {rd : Nat → W8} {t : StatusSlot}
    {els : List (Nat × Nat)} (h : vMem (s.quern q) q slot n = .ok (d, k)) (he : ∀ x ∈ els, ∃ j < n, x.1 = k + j)
    (hb : b ∈ (d.putRaw rd t els).bytes.map (·.1)) : b ∈ slotBytesOf s q slot n := by
  obtain ⟨x, hx, h1, h2⟩ := putRaw_addr hb
  obtain ⟨j, hj, e⟩ := he x hx
  rw [e] at h1 h2
  exact elem_mem_slotBytes h hj h1 h2

/-- What a sequence of checks has passed: its first part answered, and the rest too. -/
theorem bind_ok {α β : Type} {x : Except Nat β} {f : β → Except Nat α} {r : α} (h : (x >>= f) = .ok r) : ∃ y, x = .ok y ∧ f y = .ok r := by
  cases x with
  | error e => cases h
  | ok y => exact ⟨y, rfl, h⟩

/-- The elements that a slot names depend on the descriptor slots alone. -/
theorem vMem_congr {v u : Quern} (h : u.dslots = v.dslots) (q slot n : Nat) : vMem u q slot n = vMem v q slot n := by
  unfold vMem needDesc Quern.dslot
  rw [h]

theorem slotBytesOf_congr {s u : State} {q : Nat} (h : (u.quern q).dslots = (s.quern q).dslots) (slot n : Nat) :
    slotBytesOf u q slot n = slotBytesOf s q slot n := by
  unfold slotBytesOf
  rw [vMem_congr h]

/-! ### The stores of the V stream -/

@[simp] theorem mem_vStore (s : State) (q dist : Nat) (lanes : List (Nat × W32)) (bytes : List (Nat × W8)) (mask : Nat → W8) :
    (vStore s q dist lanes bytes mask).mem = Memory.setAll s.mem bytes := rfl

/-- A store leaves the descriptor slots. -/
@[simp] theorem dslots_vStore (s : State) (q dist : Nat) (lanes : List (Nat × W32)) (bytes : List (Nat × W8)) (mask : Nat → W8) :
    ((vStore s q dist lanes bytes mask).quern q).dslots = (s.quern q).dslots := by
  have e : ∀ v : Quern, ({ (s.setQuern q v) with mem := Memory.setAll s.mem bytes } : State).quern q = v := fun v => by
    show (s.setQuern q v).quern q = v
    simp
  unfold vStore
  simp only [e]
  split <;> rfl

/-- Only the bytes of the destination change (R117). -/
theorem vDestConv_frame {s t : State} {q dist n : Nat} {o : VOp} {comp : Fmt} {conv : Bool} {rm : RMode} {sat : Bool} {vals : List Val}
    {draw : Nat → Nat} (w : Memory.wf s.mem = true) (h : vDestConv s q o dist comp conv rm sat vals draw n = .ok t) {a : Nat}
    (ha : a ∉ if isReg o.d then [] else slotBytesOf s q o.d n) : Memory.get t.mem a = Memory.get s.mem a := by
  unfold vDestConv at h
  simp only at h
  split at h
  · cases h; rfl
  · rename_i hr
    simp only [hr, Bool.false_eq_true, if_false] at ha
    simp only [Bind.bind, Except.bind] at h
    split at h
    · cases h
    · rename_i p hm
      obtain ⟨d, k⟩ := p
      split at h
      · cases h
      · cases h
        rw [mem_vStore]
        refine Memory.get_setAll_of_notMem _ _ w (fun hb => ha ?_)
        simp only at hb
        split at hb
        · refine putConv_mem_slotBytes hm ?_ hb
          simp only [List.mem_map]
          rintro x ⟨y, hy, rfl⟩
          exact ⟨y.1, by simpa using (List.of_mem_zip hy).1, rfl⟩
        · refine putRaw_mem_slotBytes hm ?_ hb
          simp only [List.map_map, List.mem_map]
          rintro x ⟨y, hy, rfl⟩
          exact ⟨y.1, by simpa using (List.of_mem_zip hy).1, rfl⟩

/-! ### What stands around an instruction's own effect changes no byte -/

@[simp] theorem mem_groupStop (s : State) (c d q : Nat) : (groupStop s c d q).mem = s.mem := by
  unfold groupStop
  simp only
  repeat' first | rfl | split

theorem mem_foldl {α : Type} {f : State → α → State} (h : ∀ s a, (f s a).mem = s.mem) (l : List α) (s : State) : (l.foldl f s).mem = s.mem := by
  induction l generalizing s with
  | nil => rfl
  | cons a l ih => rw [List.foldl_cons, ih, h]

@[simp] theorem mem_stopOthers (s : State) (c d q : Nat) : (stopOthers s c d q).mem = s.mem := mem_foldl (fun s m => mem_groupStop s c d m) _ s

@[simp] theorem mem_failAt (s : State) (q : Nat) (st : StreamId) (idx code : Nat) : (failAt s q st idx code).mem = s.mem := by
  unfold failAt
  simp only
  split
  · rw [mem_stopOthers]; rfl
  · rfl

@[simp] theorem mem_signalIf (s : State) (q : Nat) (st : StreamId) (idx : Nat) (sen : Bool) (tok : Nat) :
    (signalIf s q st idx sen tok).mem = s.mem := by
  unfold signalIf signalBy
  simp only
  repeat' first | rfl | exact mem_failAt .. | split

@[simp] theorem mem_advance (s : State) (q : Nat) (st : StreamId) : (advance s q st).mem = s.mem := rfl

@[simp] theorem mem_failInstr (s : State) (q : Nat) (st : StreamId) (idx code : Nat) : (failInstr s q st idx code).mem = s.mem := by
  unfold failInstr addressError
  simp only
  repeat' first | rfl | exact mem_failAt .. | rw [mem_logEvent] | split

/-- Whatever becomes of a V-stream instruction, the bytes that its effect leaves stay. -/
theorem startV_frame {q : Nat} {op : Opcode} {i : Issue} {body : State → Except Nat State} {s t : State} {a : Nat}
    (h : startV q op i body s = .next t) (hb : ∀ u, body (vBegun s q i) = .ok u → Memory.get u.mem a = Memory.get s.mem a) :
    Memory.get t.mem a = Memory.get s.mem a := by
  unfold startV startInstr at h
  simp only [Bind.bind, Except.bind] at h
  split at h
  · cases h; rfl
  · split at h
    · cases h; rfl
    · split at h
      · cases h; rfl
      · split at h
        · cases h; rw [mem_failInstr]; rfl
        · rename_i u hu
          cases h
          rw [mem_signalIf, mem_advance]
          split at hu
          · cases hu
          · rename_i w hw
            cases hu
            exact (hb w hw :)

end Sys2Proof.Machine
end

