-- ==== Sys2Proof/Tests/Slice0.lean ====
section
/-!
SUPPORT. Tests of one command each on small states. Every expected result is read or calculated from the spec. The theorems also show, for
the statements in Certificates/Slice0/Obligations.lean, states and operands that meet their hypotheses.
-/

namespace Sys2Proof.Tests

set_option Elab.async false

open Sys2Proof Sys2Proof.Machine

/-! ### Helpers -/

/-- Whether a command answers a next state with a property. -/
def nx (r : Res) (p : State → Bool) : Bool :=
  match r with
  | .next t => p t
  | _ => false

/-- Whether checks pass. -/
def okB {α : Type} (e : Except Nat α) : Bool :=
  match e with
  | .ok _ => true
  | .error _ => false

/-- An instruction without a wait or a signal. -/
def issue (ops : BitVec 43) (ext : Option W64) : Issue := { wtok := 0, wen := false, stok := 0, sen := false, ops := ops, ext := ext }

/-- An image with one sequence. -/
def image (st : StreamId) (l : List SeqInstr) : ImageInfo :=
  { mSeq := if st = .m then l else [], vSeq := if st = .v then l else [], xSeq := if st = .x then l else [], cSeq := if st = .c then l else [],
    descs := [], dblkOff := 0, stsOff := 0 }

/-- A load of context 0, DISPATCH 0. -/
def load0 : Load := ⟨0, 0, 0, none, [0, 0, 0, 0, 0, 0, 0, 0], none, 0, false⟩

/-- A 48-byte descriptor of a linear tensor of one plane: FORMAT code, rows, columns, ROWSTRIDE, BASE (R212). -/
def desc (fmt rows cols rstride base : Nat) : BitVec 384 :=
  let w0 : W64 := BitVec.ofNat 64 (base + 5 * 2 ^ 48 + 2 ^ 61)
  let w1 : W64 := BitVec.ofNat 64 (2 ^ 48 + rows * 2 ^ 24 + cols)
  let w3 : W64 := BitVec.ofNat 64 (2 ^ 8 + fmt)
  (0 : W64) ++ (0 : W64) ++ w3 ++ BitVec.ofNat 64 rstride ++ w1 ++ w0

/-- A Quern that runs one instruction of a stream, with descriptors in its slots. -/
def quernFor (st : StreamId) (op : Opcode) (i : Issue) (ds : List (BitVec 384)) : Quern :=
  { loaded := true, run := some { load := load0, info := image st [⟨op, i⟩] }, streams := freshStreams (image st [⟨op, i⟩]),
    dslots := (List.range ds.length).zip (ds.map loadDslot) }

/-- The state right after reset with Quern 0 as given. -/
def withQ (v : Quern) : State := State.reset.setQuern 0 v

/-- The same with bytes in memory. -/
def withMem (s : State) (l : List (Nat × W8)) : State := { s with mem := Memory.setAll s.mem l }

/-- A context that runs one instruction. -/
def ctxFor (op : Opcode) (i : Issue) : Ctx := { state := .running, program := [⟨op, i⟩] }

/-- The state right after reset with context 0 as given. -/
def withC (x : Ctx) : State := State.reset.setCtx 0 x

/-- The part after bring-up with a job admitted. -/
def jobState : State :=
  { State.reset with
    boot := { State.reset.boot with stage := 7 }
    board := { State.reset.board with pwrgood := true }
    mil := { State.reset.mil with mstate := 1, bootId := 5 }
    sec := { State.reset.sec with phase := .admitted, jobId := 9, self := 1, keySlot := true } }

/-- Whether a command answers exactly the given state. -/
def runs (c : Instr) (s t : State) : Bool := nx (exec c s) (fun u => u = t)

/-- The state that a command answers. -/
def after (c : Instr) (s : State) : State :=
  match exec c s with
  | .next t => t
  | _ => s
/-- What a state has given to the outside, the pulses of the flash's write protection left out. -/
def said (t : State) : List Out := t.out.filter (fun o => !(o matches .fwp _))

/-! ### Well-formedness: a term that each check refuses -/

theorem test_wf_missing_extension : Instr.wf (.vfma 0 (issue 0 none)) = false := by decide
theorem test_wf_forbidden_extension : Instr.wf (.mclr 0 (issue 0 (some 0))) = false := by decide
theorem test_wf_sr_needs_extension : Instr.wf (.vcvt 0 (issue (5 <<< 19) none)) = false ∧ Instr.wf (.vcvt 0 (issue (5 <<< 19) (some 0))) = true := by decide
theorem test_wf_loop_of_a_stage : Instr.wf (.cloop (.stage 0) (issue 1 (some 0))) = false ∧ Instr.wf (.cloop (.quern 0 .m) (issue 1 (some 0))) = true := by decide
theorem test_wf_stream : wfQuern .mclr .v (issue 0 none) = false ∧ wfStage .mclr (issue 0 none) = false ∧ wfStage .hpop (issue 0 none) = true := by decide

/-! ### Encodings, bit by bit from R187 to R191 and the worked words of spec/07_instruction_encodings.md -/

/-- The bits of R188 in their order: opcode, stream, WTOK, WEN, STOK, SEN, XW, operands. -/
def word (opc stream wtok wen stok sen xw ops : Nat) : W64 :=
  BitVec.ofNat 64 (opc * 2 ^ 58 + stream * 2 ^ 56 + wtok * 2 ^ 51 + wen * 2 ^ 50 + stok * 2 ^ 45 + sen * 2 ^ 44 + xw * 2 ^ 43 + ops)

/-- CLOOP with TRIP 4 and the ADVANCE mask 0xE1. -/
theorem test_decode_cloop : decodeWords [0x0F00080000000004, 0xE1] = some (⟨.cloop, issue 4 (some 0xE1)⟩, []) := by decide +kernel
theorem test_decode_xfetch : decodeWords [0x0A00100000000140] = some (⟨.xfetch, { issue 0x140 none with sen := true }⟩, []) := by decide +kernel
theorem test_decode_mpass : decodeWords [0x0C0C000000400003]
    = some (⟨.mpass, { issue 0x400003 none with wtok := 1, wen := true }⟩, []) := by decide +kernel
theorem test_decode_vmax : decodeWords [0x1100009118BC0000] = some (⟨.vmax, issue 0x9118BC0000 none⟩, []) := by decide +kernel
/-- DISPATCH with its extension word: group 2 of the entry in H1, image 0x1000. -/
theorem test_decode_dispatch : decodeWords [word 0x21 3 0 0 7 1 1 0x21, 0x1000, 5]
    = some (⟨.dispatch, { issue 0x21 (some 0x1000) with sen := true, stok := 7 }⟩, [5]) := by decide +kernel
/-- An undefined opcode, and an extension word beyond the sequence, do not decode. -/
theorem test_decode_refuses : decodeWords [word 0x3F 0 0 0 0 0 0 0] = none ∧ decodeWords [word 0x03 3 0 0 0 0 1 4] = none := by decide +kernel
theorem test_table_words_spell_nothing : decodeTableWord 64 0x0C0C000000400003 = none := rfl

/-! ### Worked examples and tables of the spec -/

/-- The worked value of the counter generator (R138). -/
theorem test_counter_generator : counterGenerator 0 1 = 0x68BF9D87F9D710C2 := by decide +kernel
/-- Every value of INT4 and FP4 as R52 lists them. -/
theorem test_fp4_values : (List.range 8).map (fun b => enc32 (decEl .e2m1 true b))
    = [0, 0x3F000000, 0x3F800000, 0x3FC00000, 0x40000000, 0x40400000, 0x40800000, 0x40C00000] := by decide +kernel
/-- Rounding to the nearest even and away, at a tie (R63). -/
theorem test_round_ties : (convEl .int8 true .rne false 0 (.fin false 5 (-1)) false).bits = 2
    ∧ (convEl .int8 true .rna false 0 (.fin false 5 (-1)) false).bits = 3
    ∧ (convEl .int8 true .rne false 0 (.fin true 7 (-1)) false).bits = 0xFC := by decide +kernel
/-- The S2 pieces of −3.296875 in a block whose largest element is 12.5: −27 and 160 (R98). -/
theorem test_split_pieces : splitEl 1 0 3 (.fin true 211 (-6)) = .piece (-27) (-3) (-1) ∧ splitEl 1 2 3 (.fin true 211 (-6)) = .piece 160 (-11) (-1) := by
  decide +kernel
/-! ### Witnesses of the statements: the matrix array -/

def iQuad : Issue := issue 1 none
def sQuad : State := withQ (quernFor .m .mcfg iQuad [])
def iFull : Issue := issue 0 none
def sFull : State := withQ (quernFor .m .mcfg iFull [])
def sClr : State := withQ (quernFor .m .mclr iFull [])

theorem test_matrixModesAndClears : Starts sQuad 0 .m .mcfg iQuad ∧ (sQuad.quern 0).drains = [] ∧ iQuad.ops >>> 2 = 0 ∧ fld iQuad 0 2 ≠ 3
    ∧ (sQuad.quern 0).pmode ≠ BitVec.ofNat 2 (fld iQuad 0 2) ∧ Starts sFull 0 .m .mcfg iFull ∧ (sFull.quern 0).pmode = BitVec.ofNat 2 (fld iFull 0 2)
    ∧ Starts sClr 0 .m .mclr iFull ∧ iFull.ops = 0 ∧ Memory.wf sQuad.mem = true
    ∧ nx (exec (.mcfg 0 iQuad) sQuad) (fun t => (t.quern 0).pmode = 1) = true ∧ nx (exec (.mclr 0 iFull) sClr) (fun t => t.mem = []) = true := by
  unfold Starts; decide +kernel

/-- A 64 × 64 tile of FP8 E4M3 in sixteen mode: the stationary operand holds 1.0 in its first element. -/
def iLoad : Issue := issue 0x80 none
def iPass : Issue := issue (1 <<< 14) none
def dTile : BitVec 384 := desc 4 1 1 0 (winBase 0)
def sLoad : State := withMem (withQ { quernFor .m .mload iLoad [dTile ||| (1 <<< 60)] with pmode := 2 }) [(winBase 0, 0x38)]
def pLoad : Plane := { perCell := 1, cols := List.replicate 16 [[.fin 1 0]] }
def sPass : State := withMem (withQ { quernFor .m .mpass iPass [dTile] with pmode := 2, plane0 := pLoad }) [(winBase 0, 0x38)]
def oPass : PassOut := match passOf 0 iPass sPass with | .ok o => o | .error _ => ⟨[], (0, 0)⟩

theorem test_matrixLoads : Starts sLoad 0 .m .mload iLoad ∧ okB (loadPlane 0 iLoad (begun sLoad 0 iLoad)) = true
    ∧ nx (exec (.mload 0 iLoad) sLoad) (fun t => (t.quern 0).plane0.perCell = 1) = true := by
  unfold Starts; decide +kernel

theorem test_matrixPasses : Starts sPass 0 .m .mpass iPass ∧ passOf 0 iPass (begun sPass 0 iPass) = .ok oPass ∧ (sPass.quern 0).setBusy = false
    ∧ nx (exec (.mpass 0 iPass) sPass) (fun t => rdNat (readByte t) (setBase 0 0) 4 = 0x3F800000) = true := by
  unfold Starts; decide +kernel

def iDrain : Issue := issue 0 none
def sDrain : State := withQ (quernFor .m .mdrain iDrain [desc 1 1 2 8 (winBase 0)])
def sWgb : State := withQ (quernFor .m .mdrain (issue 0x40 none) [desc 1 1 2 8 (winBase 0 + wgbOff)])
def afterDrain (s : State) (i : Issue) : State := match exec (.mdrain 0 i) s with | .next t => t | _ => s
def sOut : State := withMem (afterDrain sDrain iDrain) [(setBase 0 0 + 3, 0x40)]
def sLow : State := (afterDrain sWgb (issue 0x40 none)).updQuern 0 (fun v => { v with wgo := [(0, 3)] })

theorem test_matrixDrains : Starts sDrain 0 .m .mdrain iDrain ∧ okB (drainOf 0 iDrain (begun sDrain 0 iDrain)) = true
    ∧ (sOut.quern 0).drains ≠ [] ∧ (sOut.quern 0).fenced = false ∧ (∀ dr ∈ (sOut.quern 0).drains, (descOf dr.desc).isSome = true ∧ fld dr.issue 6 1 = 0)
    ∧ nx (exec (.mdrainWriteOut 0) sOut) (fun t => readByte t (winBase 0 + 3) = 0x40 && readByte t (setBase 0 0 + 3) = 0) = true
    ∧ (∀ dr ∈ (sLow.quern 0).drains, fld dr.issue 6 1 = 1 ∧ dr.ordinal < (sLow.quern 0).wgo.getD (fld dr.issue 12 2) 0) := by
  unfold Starts; decide +kernel

/-- 2^46 and one part below the window of its group: the small term is floored away (R91, R92). -/
theorem test_groupTruncation : groupSum [(1, 46), (-1, -2)] = .fin (2 ^ 46 - 1) 0 ∧ groupSum [(0, 3)] = .fin 0 0
    ∧ log2Scaled (1 : Int).natAbs 46 = 46 := by decide +kernel
/-! ### The vector unit -/

def f32 (l : List Nat) (a : Nat) : List (Nat × W8) := cellsAt a (l.flatMap (leBytes 4))
def dIn : BitVec 384 := desc 1 1 2 8 (winBase 0 + 64)
def dOut : BitVec 384 := desc 1 1 2 8 (winBase 0)
/-- 1.0 and 2.0 in slot 1; slot 0 is the destination. -/
def vState (op : Opcode) (i : Issue) : State := withMem (withQ (quernFor .v op i [dOut, dIn])) (f32 [0x3F800000, 0x40000000] (winBase 0 + 64))
/-- Format VA: D 0, A 1, a B, N 2. -/
def va (b : Nat) (ext : Option W64) : Issue := issue (BitVec.ofNat 43 (1 * 2 ^ 29 + b * 2 ^ 22 + 2 * 2 ^ 4)) ext
def outWords (t : State) : List Nat := [rdNat (readByte t) (winBase 0) 4, rdNat (readByte t) (winBase 0 + 4) 4]
def ranV (op : Opcode) (i : Issue) (mk : Fin 128 → Issue → Instr) (out : List Nat) : Bool := nx (exec (mk 0 i) (vState op i)) (fun t => outWords t == out)

theorem test_vectorReads (op : Opcode) : VReads (vBegun (vState op (va 0x61 none)) 0 (va 0x61 none)) 0 (vaOp (va 0x61 none)) [1, 0x61] [] false false 2 :=
  ⟨by cases op <;> decide +kernel, by cases op <;> decide +kernel,
    .inr ⟨(descOf (loadDslot dOut)).get (by decide +kernel), 0, by cases op <;> decide +kernel, by decide +kernel, by decide +kernel⟩⟩

theorem test_vectorArithmetic : Starts (vState .vadd (va 0x61 none)) 0 .v .vadd (va 0x61 none) ∧ Starts (vState .vmul (va 0x61 none)) 0 .v .vmul (va 0x61 none)
    ∧ Starts (vState .vmax (va 0x61 none)) 0 .v .vmax (va 0x61 none) ∧ Starts (vState .vmin (va 0x61 none)) 0 .v .vmin (va 0x61 none)
    ∧ compFmt ((vBegun (vState .vadd (va 0x61 none)) 0 (va 0x61 none)).quern 0) (vaOp (va 0x61 none)) [1, 0x61] = .ok .fp32
    ∧ okB (([1, 0x61] : List Nat).mapM (fun x => vSource (vBegun (vState .vadd (va 0x61 none)) 0 (va 0x61 none)) 0 (vaOp (va 0x61 none)) .fp32 x 2)) = true
    ∧ (vaOp (va 0x61 none)).opbit = false ∧ (vaOp (va 0x61 none)).subop = 0
    ∧ ranV .vadd (va 0x61 none) .vadd [0x40000000, 0x40400000] = true ∧ ranV .vmul (va 0x63 none) .vmul [0xBF800000, 0xC0000000] = true
    ∧ ranV .vmax (va 0x61 none) .vmax [0x3F800000, 0x40000000] = true ∧ ranV .vmin (va 0x61 none) .vmin [0x3F800000, 0x3F800000] = true := by
  unfold Starts; decide +kernel

/-- Format VB: D 0, A 1, B the constant 1.0, N 2, and in the extension word C the constant −1.0: 1·1 − 1 and 2·1 − 1. -/
def iFma : Issue := issue (BitVec.ofNat 43 (1 * 2 ^ 29 + 0x61 * 2 ^ 22 + 2 * 2 ^ 7)) (some (0x63 <<< 57))
theorem test_vectorFma : Starts (vState .vfma iFma) 0 .v .vfma iFma ∧ ranV .vfma iFma .vfma [0, 0x3F800000] = true := by
  unfold Starts; decide +kernel

theorem test_vectorSpecialFunctions : Starts (vState .vexp (va 0x7F none)) 0 .v .vexp (va 0x7F none)
    ∧ Starts (vState .vlog (va 0x7F none)) 0 .v .vlog (va 0x7F none) ∧ Starts (vState .vrcp (va 0x7F none)) 0 .v .vrcp (va 0x7F none)
    ∧ Starts (vState .vrsq (va 0x7F none)) 0 .v .vrsq (va 0x7F none) ∧ vaReserved (vaOp (va 0x7F none)) true true = .ok ()
    ∧ vCheck ((vState .vexp (va 0x7F none)).quern 0) (vaOp (va 0x7F none)) [1] [0x7F] false false = .ok ()
    ∧ ranV .vexp (va 0x7F none) .vexp [0x402DF854, 0x40EC7326] = true ∧ ranV .vlog (va 0x7F none) .vlog [0, 0x3F317218] = true
    ∧ ranV .vrcp (va 0x7F none) .vrcp [0x3F800000, 0x3F000000] = true ∧ ranV .vrsq (va 0x7F none) .vrsq [0x3F800000, 0x3F3504F3] = true := by
  unfold Starts; decide +kernel

/-- VSEL GTZ of slot 1: b where a > 0, c the constant −1.0. -/
def iSel : Issue := issue (BitVec.ofNat 43 (1 * 2 ^ 29 + 1 * 2 ^ 22 + 2 * 2 ^ 7)) (some ((0x63 <<< 57) ||| (2 <<< 54)))
/-- VSEL ALWAYS into register 0 in register mode, length 1. -/
def iSelReg : Issue := issue (BitVec.ofNat 43 (0x40 * 2 ^ 36 + 0x7F * 2 ^ 29 + 0x61 * 2 ^ 22)) (some ((0x62 <<< 57) ||| (1 <<< 51)))
def sSelReg : State := withQ { quernFor .v .vsel iSelReg [] with org := true, vlen := 1 }
theorem test_vectorSelects : Starts (vState .vsel iSel) 0 .v .vsel iSel ∧ vbReserved iSel = .ok () ∧ (vbOp iSel).rm = 2
    ∧ slotFmtOf ((vState .vsel iSel).quern 0) (vbOp iSel).d = .ok .fp32 ∧ vCount ((vState .vsel iSel).quern 0) (vbOp iSel) = .ok 2
    ∧ ranV .vsel iSel .vsel [0x3F800000, 0x40000000] = true
    ∧ Starts sSelReg 0 .v .vsel iSelReg ∧ isReg (vbOp iSelReg).d = true ∧ (vbOp iSelReg).rm = 0 ∧ vCount (sSelReg.quern 0) (vbOp iSelReg) = .ok 1
    ∧ vCheck (sSelReg.quern 0) { vbOp iSelReg with rm := 0 } [(vbOp iSelReg).b, (vbOp iSelReg).c] [(vbOp iSelReg).a] false false = .ok ()
    ∧ nx (exec (.vsel 0 iSelReg) sSelReg) (fun t => (t.quern 0).lanes = [(0, 0x3F800000)] && (t.quern 0).vcount = 1) = true := by
  unfold Starts; decide +kernel

/-- VCVT of 1.0 and 2.0 into BF16. -/
def sCvt : State := withMem (withQ (quernFor .v .vcvt (va 0x7F none) [desc 2 1 2 4 (winBase 0), dIn])) (f32 [0x3F800000, 0x40000000] (winBase 0 + 64))
theorem test_vectorConverts : Starts sCvt 0 .v .vcvt (va 0x7F none) ∧ cvtComp (sCvt.quern 0) (vaOp (va 0x7F none)) = .ok .fp32
    ∧ nx (exec (.vcvt 0 (va 0x7F none)) sCvt) (fun t => rdNat (readByte t) (winBase 0) 4 = 0x40003F80) = true := by
  unfold Starts; decide +kernel

def vMode1 (i : Issue) (op : Opcode) : State := withQ (quernFor .v op i [])
theorem test_vectorLengthAndMode : Starts (vMode1 (issue 4096 none) .vsetvl) 0 .v .vsetvl (issue 4096 none) ∧ fld (issue 4096 none) 0 16 ≤ vlMax false
    ∧ Starts (vMode1 (issue 0x10000 none) .vsetvl) 0 .v .vsetvl (issue 0x10000 none) ∧ Starts (vMode1 (issue 9 none) .vmode) 0 .v .vmode (issue 9 none)
    ∧ fld (issue 9 none) 1 3 ≤ 4 ∧ Starts (vMode1 (issue 16 none) .vmode) 0 .v .vmode (issue 16 none)
    ∧ Starts (vMode1 (issue 10 none) .vmode) 0 .v .vmode (issue 10 none) ∧ 5 ≤ fld (issue 10 none) 1 3
    ∧ nx (exec (.vmode 0 (issue 9 none)) (vMode1 (issue 9 none) .vmode)) (fun t => (t.quern 0).org && (t.quern 0).defrm = 4) = true
    ∧ nx (exec (.vmode 0 (issue 10 none)) (vMode1 (issue 10 none) .vmode)) (fun t => (t.quern 0).err = some ⟨0x22, .v, 0⟩) = true := by
  unfold Starts; decide +kernel
/-! ### Row statistics, draws, norms and the update -/

/-- VROWSTAT MAXSUM of one row of two elements. -/
def iRow : Issue := va 0x7F (some 0)
theorem test_vectorRows : Starts (vState .vrowstat iRow) 0 .v .vrowstat iRow ∧ vaReserved (vaOp iRow) true false = .ok ()
    ∧ vCheck ((vState .vrowstat iRow).quern 0) (vaOp iRow) [1] [0x7F] false true = .ok ()
    ∧ okB (vMem ((vState .vrowstat iRow).quern 0) 0 1 2) = true ∧ okB (vMem ((vState .vrowstat iRow).quern 0) 0 0 2) = true
    ∧ ranV .vrowstat iRow .vrowstat [0x40000000, 0x3FAF16AC] = true := by
  unfold Starts; decide +kernel

/-- VRNG UNIF of two elements. -/
def iRng : Issue := issue (BitVec.ofNat 43 (0x7F * 2 ^ 29 + 0x7F * 2 ^ 22 + 2 * 2 ^ 4)) (some (1 <<< 32))
theorem test_vectorDraws : Starts (vState .vrng iRng) 0 .v .vrng iRng ∧ vCheck ((vState .vrng iRng).quern 0) (vaOp iRng) [] [0x7F, 0x7F] false true = .ok ()
    ∧ (vaOp iRng).subop = 1 ∧ nx (exec (.vrng 0 iRng) (vState .vrng iRng)) (fun t => (t.quern 0).err = none && (t.quern 0).flags = 0) = true := by
  unfold Starts; decide +kernel

/-- VSRND to one bit of mantissa under RTZ: 1.0 and 2.0 stay. -/
def iSrnd : Issue := issue (BitVec.ofNat 43 (1 * 2 ^ 29 + 0x7F * 2 ^ 22 + 1 * 2 ^ 19 + 2 * 2 ^ 4)) (some 1)
theorem test_vectorGrid : Starts (vState .vsrnd iSrnd) 0 .v .vsrnd iSrnd ∧ vCheck ((vState .vsrnd iSrnd).quern 0) (vaOp iSrnd) [1] [0x7F] true true = .ok ()
    ∧ compFmt ((vState .vsrnd iSrnd).quern 0) (vaOp iSrnd) [1] = .ok .fp32 ∧ ranV .vsrnd iSrnd .vsrnd [0x3F800000, 0x40000000] = true := by
  unfold Starts; decide +kernel

/-- VNORM2 into the record at the start of the scratchpad, and its fold. -/
def dRec : BitVec 384 := desc 0 1 72 576 (winBase 0)
def dVec : BitVec 384 := desc 1 1 2 8 (winBase 0 + 1024)
def iNorm : Issue := va 0x7F none
def iFold : Issue := issue (BitVec.ofNat 43 (0x7F * 2 ^ 29 + 0x7F * 2 ^ 22 + 2 * 2 ^ 4 + 1)) none
def sNorm (i : Issue) : State := withMem (withQ (quernFor .v .vnorm2 i [dRec, dVec])) (f32 [0x3F800000, 0x40000000] (winBase 0 + 1024))
theorem test_vectorNorms : Starts (sNorm iNorm) 0 .v .vnorm2 iNorm ∧ Starts (sNorm iFold) 0 .v .vnorm2 iFold
    ∧ okB (needDesc ((sNorm iNorm).quern 0) 0) = true ∧ rangesIn [((winBase 0 : Int), 576)] (winBase 0) (winBase 0 + winEnd) = true
    ∧ vCheck ((sNorm iNorm).quern 0) (vaOp iNorm) [1] [0x7F] false true = .ok ()
    ∧ vCheck ((sNorm iFold).quern 0) (vaOp iFold) [] [0x7F, 0x7F] false true = .ok ()
    ∧ nx (exec (.vnorm2 0 iNorm) (sNorm iNorm)) (fun t => rdNat (readByte t) (winBase 0) 8 = 0x3FF0000000000000
        && rdNat (readByte t) (winBase 0 + 8) 8 = 0x4010000000000000) = true
    ∧ nx (exec (.vnorm2 0 iFold) (sNorm iFold)) (fun t => (t.quern 0).err = none) = true := by
  unfold Starts; decide +kernel

/-- VUPD SGD of one weight: slots 1 to 3 hold w, m, v, slot 4 gs, slot 5 the control block, slots 6 to 8 take the results. -/
def iUpd : Issue := issue (BitVec.ofNat 43 (6 * 2 ^ 36 + 1 * 2 ^ 29 + 4 * 2 ^ 22 + 1 * 2 ^ 4)) (some 0)
def one (k : Nat) : BitVec 384 := desc 1 1 1 4 (winBase 0 + 64 * k)
def sUpd (flags : Nat) : State :=
  withMem (withQ (quernFor .v .vupd iUpd ([one 0, one 1, one 2, one 3, one 4, desc 1 1 16 64 (winBase 0 + 1024), one 6, one 7, one 8])))
    (f32 [0x3F800000] (winBase 0 + 64) ++ f32 [0x40000000] (winBase 0 + 256)
      ++ f32 [0, flags, 0, 0, 0, 0, 0x3F800000, 0xBF000000, 0x3F800000, 0, 0, 0, 0, 0, 0, 0] (winBase 0 + 1024))
theorem test_weightUpdate : Starts (sUpd 2) 0 .v .vupd iUpd ∧ Starts (sUpd 3) 0 .v .vupd iUpd ∧ vCheck ((sUpd 2).quern 0) (vaOp iUpd) [1, 4] [] false true = .ok ()
    ∧ okB (([1, 2, 3, 4, 6, 7, 8] : List Nat).mapM (fun x => vMem ((sUpd 2).quern 0) 0 x 1)) = true
    ∧ (ucbAt (readByte (sUpd 2)) (winBase 0 + 1024)).final = true ∧ (ucbAt (readByte (sUpd 2)) (winBase 0 + 1024)).nonfinite = false
    ∧ (ucbAt (readByte (sUpd 3)) (winBase 0 + 1024)).nonfinite = true
    ∧ nx (exec (.vupd 0 iUpd) (sUpd 3)) (fun t => t.mem = (sUpd 3).mem && ((t.quern 0).dslot 1).cursor = 1) = true := by
  unfold Starts; decide +kernel

/-! ### Moves, prefetches and fences -/

/-- A move of the tensor of slot 0 (in the scratchpad) to that of slot 1 (in the weight-gradient area of the scratchpad). -/
def iMove : Issue := issue 0x40 none
def sMove : State := withMem (withQ (quernFor .x .xmove iMove [dIn, dOut])) (f32 [0x3F800000, 0x40000000] (winBase 0 + 64))
def moved : State := match exec (.xmove 0 iMove) sMove with | .next t => t | _ => sMove
def mapped (s : State) (l : List Nat) : State := { s with mm := { s.mm with imp := l.map (fun p => (p, { state := .mapped, frame := p + 7 })) } }
/-- A fetch from Bin space, page 0. -/
def iFetch : Issue := issue 0x40 none
def dBin : BitVec 384 := desc 1 1 2 8 128
def sFetch : State := mapped (withQ (quernFor .x .xfetch iFetch [dBin, dOut])) [0]
theorem test_moves : Starts sMove 0 .x .xmove iMove ∧ (sMove.quern 0).moves.length < 96 ∧ okB (moveEnds 0 iMove (sMove.quern 0)) = true
    ∧ Starts sFetch 0 .x .xfetch iFetch ∧ okB (fetchEnds 0 iFetch (sFetch.quern 0)) = true
    ∧ ((moved.quern 0).moves.find? (fun x => x.tag == 0)).isSome = true
    ∧ (match descOf (loadDslot dIn) with | some d => d.inSpace && (readable moved d == (2, none)) | none => false) = true
    ∧ nx (exec (.moveComplete 0 0) moved) (fun t => outWords t == [0x3F800000, 0x40000000] && (t.quern 0).moves.isEmpty) = true := by
  unfold Starts; decide +kernel

def iPref : Issue := issue 0 none
def sPref : State := mapped (withQ (quernFor .x .xpref iPref [dBin])) [0]
def prefetching : State := match exec (.xpref 0 iPref) sPref with | .next t => t | _ => sPref
def sDrop : State := mapped (withQ (quernFor .x .xdrop iPref [dBin])) [0]
def sFence : State := withQ (quernFor .x .xfence iPref [])
theorem test_prefetches : Starts sPref 0 .x .xpref iPref ∧ (prefetchers sPref 0).length < 8 ∧ iPref.ops >>> 6 = 0 ∧ okB (binRange iPref sPref (sPref.quern 0)) = true
    ∧ ((prefetchers prefetching 0).find? (fun p => p.slot == 0)).isSome = true
    ∧ nx (exec (.prefetchComplete 0 0) prefetching) (fun t => t.mm.prefetch.isEmpty) = true
    ∧ Starts sDrop 0 .x .xdrop iPref ∧ fld iPref 6 10 = 0 ∧ fld iPref 17 26 = 0 ∧ okB (binRange iPref sDrop (sDrop.quern 0)) = true
    ∧ Starts sFence 0 .x .xfence iPref ∧ iPref.ops = 0 ∧ nx (exec (.xfence 0 iPref) sFence) (fun t => ((t.quern 0).stream .x).pos = 1) = true := by
  unfold Starts; decide +kernel

/-! ### Control of Querns -/

/-- CWAIT of two on counter 3, where the count is 1, and where it is 2. -/
def iWait : Issue := issue (BitVec.ofNat 43 (3 + 2 * 2 ^ 5)) none
def sWait (n : Nat) : State := withQ { quernFor .c .cwait iWait [] with tokens := [(3, n)] }
def sSig (n : Nat) : State := withQ { quernFor .c .csig iWait [] with tokens := [(3, n)] }
theorem test_quernCounters : ctrChecks iWait false = .ok () ∧ Starts (sWait 1) 0 .c .cwait iWait ∧ Starts (sWait 2) 0 .c .cwait iWait
    ∧ (((sWait 1).quern 0).stream .c).hdrTaken = false ∧ (((sWait 1).quern 0).takeWait iWait).token (fld iWait 0 5) < fld iWait 5 8
    ∧ fld iWait 5 8 ≤ (((sWait 2).quern 0).takeWait iWait).token (fld iWait 0 5)
    ∧ nx (exec (.cwait (.quern 0 .c) iWait) (sWait 1)) (fun t => ((t.quern 0).stream .c).waiting = some (3, 2) && (t.quern 0).token 3 = 1) = true
    ∧ nx (exec (.cwait (.quern 0 .c) iWait) (sWait 2)) (fun t => ((t.quern 0).token 3 = 0) && ((t.quern 0).stream .c).pos = 1) = true
    ∧ Starts (sSig 0xFFFD) 0 .c .csig iWait ∧ (((sSig 0xFFFD).quern 0).takeWait iWait).token 3 + fld iWait 5 8 ≤ 0xFFFF
    ∧ nx (exec (.csig (.quern 0 .c) iWait) (sSig 0xFFFD)) (fun t => (t.quern 0).token 3 = 0xFFFF) = true
    ∧ nx (exec (.csig (.quern 0 .c) iWait) (sSig 0xFFFE)) (fun t => (t.quern 0).err.isSome) = true := by
  unfold Starts; decide +kernel

def iLoop : Issue := issue 2 (some 1)
def sLoop : State := withQ (quernFor .v .cloop iLoop [dIn])
def sEnd (left : Nat) : State :=
  let v := quernFor .v .cend (issue 0 none) [dIn]
  withQ { v with streams := [(1, { (v.stream .v) with pos := 0, loops := [⟨0, left, 1, [(0, dIn)]⟩] })] }
def endSlots : List (Nat × DSlot) := match advanceSlots ((begun (sEnd 1) 0 (issue 0 none)).quern 0) (maskSlots 1) with | .ok v => v.dslots | .error _ => []
theorem test_quernLoops : Starts sLoop 0 .v .cloop iLoop ∧ tripChecks iLoop = .ok ()
    ∧ nx (exec (.cloop (.quern 0 .v) iLoop) sLoop) (fun t => ((t.quern 0).stream .v).loops.map (fun l => (l.start, l.left)) = [(1, 1)]) = true
    ∧ Starts (sEnd 0) 0 .v .cend (issue 0 none) ∧ Starts (sEnd 1) 0 .v .cend (issue 0 none)
    ∧ okB (advanceSlots ((begun (sEnd 1) 0 (issue 0 none)).quern 0) (maskSlots 1)) = true
    ∧ nx (exec (.cend (.quern 0 .v) (issue 0 none)) (sEnd 0)) (fun t => ((t.quern 0).stream .v).loops.isEmpty) = true
    ∧ nx (exec (.cend (.quern 0 .v) (issue 0 none)) (sEnd 1)) (fun t => ((t.quern 0).stream .v).loops.map (·.left) = [0] && (t.quern 0).dslots = endSlots) = true := by
  unfold Starts; decide +kernel

def sC (op : Opcode) (i : Issue) : State := (withQ (quernFor .c op i [])).setCtx 0 { state := .running, disps := [⟨0, 0, [0, 33], [], none, 0, none, 0, false, 0, 0, issue 0 none⟩] }
def atBar (a b : Nat) : State :=
  let v := quernFor .c .cbar (issue 0 none) []
  let x := fun n : Nat => { v with streams := [(3, { (v.stream .c) with pos := 1 })], barrier := some (BitVec.ofNat 8 n, true, 4) }
  (((sC .cbar (issue 0 none)).setQuern 0 (x a)).setQuern 33 (x b))
theorem test_phasesBarriersAndHalts : Starts (sC .cphase (issue 255 none)) 0 .c .cphase (issue 255 none) ∧ (issue 255 none).ops >>> 8 = 0
    ∧ nx (exec (.cphase 0 (issue 255 none)) (sC .cphase (issue 255 none))) (fun t => (t.stone 0).phase = 255) = true
    ∧ Starts (sC .cbar (issue 7 none)) 0 .c .cbar (issue 7 none) ∧ (dispMembers (sC .cbar (issue 7 none)) 0 0).length = 2
    ∧ nx (exec (.cbar 0 (issue 7 none)) (sC .cbar (issue 7 none))) (fun t => (t.quern 0).barrier = some (7, false, 0)) = true
    ∧ allAtBarrier (atBar 5 5) 0 0 = true ∧ allAtBarrier (atBar 5 6) 0 0 = true
    ∧ nx (exec (.barrierRelease 0 0) (atBar 5 5)) (fun t => (t.quern 33).barrier = none && (t.quern 0).token 4 = 1 && (t.quern 0).err = none) = true
    ∧ nx (exec (.barrierRelease 0 0) (atBar 5 6)) (fun t => (t.quern 33).err = some ⟨0x51, .c, 0⟩ && (t.quern 0).token 4 = 0) = true
    ∧ Starts (sC .chalt (issue 0 none)) 0 .c .chalt (issue 0 none)
    ∧ nx (exec (.chalt 0 (issue 0 none)) (sC .chalt (issue 0 none))) (fun t => ((t.quern 0).stream .c).ended) = true := by
  unfold Starts; decide +kernel

/-! ### Programs -/

/-- An image whose C sequence is one CHALT: eight header words, then the instruction. -/
def imgWords : List W64 := ([1 ||| (9 <<< 16), 0, (8 <<< 32) ||| (1 <<< 48), 0, 0, 0, 0, 0] : List W64) ++ encodeWords ⟨.chalt, issue 0 none⟩
def putWords (l : List W64) (a : Nat) : List (Nat × W8) := cellsAt a (wordBytes l)
def dblk0 : List W64 := [0, 0, 0, 0x4000, 0, 0, 0, 0]
def ldAt (a : Nat) : Load := { load0 with image := a, dblk := dblk0 }
/-- Page 0 is frame 7: the image stands at byte 0, a wrong version word at byte 4096. -/
def sImg (a : Nat) : State :=
  withMem (mapped ((withQ { loaded := true, waiting := [ldAt a] }).setCtx 0 { state := .running, disps := [⟨0, 0, [0], [], none, 0, none, 0, false, 0, 0, issue 0 none⟩] }) [0])
    (putWords imgWords (7 * 2 ^ 20) ++ putWords [2 ||| (9 <<< 16)] (7 * 2 ^ 20 + 4096))
def loadedImg : State := after (.imageLoad 0) (sImg 0)
theorem test_imagesLoad : ((sImg 0).quern 0).fenced = false ∧ ((sImg 0).quern 0).waiting = [ldAt 0] ∧ ((sImg 0).quern 0).next = none
    ∧ okB ((fetchImage (sImg 0) 0).mapError (fun _ => 0)) = true ∧ okB (parseImage imgWords) = true ∧ fetchImage (sImg 0) (2 ^ 39) = .error .addr
    ∧ okB (parseImage (readWords (sImg 0) 4096 9)) = false ∧ ((loadedImg.quern 0).next.map (·.info.cSeq)) = some [⟨.chalt, issue 0 none⟩]
    ∧ nx (exec (.imageLoad 0) (sImg 4096)) (fun t => (t.ctx 0).disps.all (fun d => d.notices.map (·.status) = [0x46])) = true
    ∧ nx (exec (.imageLoad 0) (sImg (2 ^ 39))) (fun t => (t.ctx 0).disps.all (fun d => d.notices.map (·.status) = [0x30])) = true := by
  decide +kernel

def running : State := after (.programStart 0) loadedImg
def halted : State := after (.chalt 0 (issue 0 none)) running
def completed : State := after (.programComplete 0) halted
theorem test_programsRun : (loadedImg.quern 0).run = none ∧ (loadedImg.quern 0).next.isSome = true ∧ rdNat (readByte running) (winBase 0 + 24) 8 = 0x4000
    ∧ ((running.quern 0).stream .m).ended = true ∧ ((running.quern 0).stream .c).ended = false ∧ programDone running 0 = false
    ∧ programDone halted 0 = true ∧ (halted.quern 0).fenced = false ∧ (halted.quern 0).run.isSome = true
    ∧ (completed.quern 0).run = none ∧ ((completed.ctx 0).disps.find? (fun e => e.id = 0)).isSome = true
    ∧ (completed.ctx 0).disps.all (fun d => mergeable (completed.ctx 0) d) = true
    ∧ nx (exec (.mergedCompletion 0 0) completed) (fun t => (t.ctx 0).disps.isEmpty && (t.ctx 0).merged.any (fun m => m.status = 0)) = true := by
  decide +kernel

/-- Quern 0 waits for counter 3 for ever. -/
def stuck : State := after (.cwait (.quern 0 .c) iWait) ((sWait 0).setCtx 0 { state := .running, disps := [⟨0, 0, [0], [], none, 0, none, 0, false, 0, 0, issue 0 none⟩] })
def failing : State := completed.setCtx 0 { completed.ctx 0 with disps := (completed.ctx 0).disps.map (fun d => { d with notices := d.notices.map (fun n => { n with status := 0x52 }) }) }
theorem test_deadlocksAndErrors : openMembers stuck 0 0 = [0] ∧ blockedIdle stuck 0 0 0 = true ∧ allAtBarrier stuck 0 0 = false
    ∧ nx (exec (.tokenDeadlock 0 0) stuck) (fun t => (t.quern 0).err.map (·.code) = some 0x52) = true
    ∧ nx (exec (.mergedCompletion 0 0) failing) (fun t => (t.ctx 0).state = .stopped) = true := by
  decide +kernel

/-! ### Stage control -/

def sStage (op : Opcode) (i : Issue) : State := withC (ctxFor op i)
def sTok (op : Opcode) (n : Nat) : State := withC { ctxFor op iWait with tokens := [(3, n)] }
def sStEnd (left : Nat) : State := withC { state := .running, program := [⟨.cloop, issue 2 none⟩, ⟨.cend, issue 0 none⟩], seqr := { pos := 1, loops := [⟨1, left, 0, []⟩] } }
theorem test_stageControl : StageStarts (sTok .cwait 2) 0 .cwait iWait false ∧ ctrChecks iWait true = .ok () ∧ ((sTok .cwait 2).ctx 0).seqr.hdrTaken = false
    ∧ fld iWait 5 8 ≤ (((sTok .cwait 2).ctx 0).takeWait iWait).token (fld iWait 0 5) ∧ StageStarts (sTok .csig 0xFFFD) 0 .csig iWait false
    ∧ nx (exec (.cwait (.stage 0) iWait) (sTok .cwait 2)) (fun t => (t.ctx 0).token 3 = 0 && (t.ctx 0).seqr.pos = 1) = true
    ∧ nx (exec (.csig (.stage 0) iWait) (sTok .csig 0xFFFD)) (fun t => (t.ctx 0).token 3 = 0xFFFF) = true
    ∧ StageStarts (sStage .cloop (issue 2 none)) 0 .cloop (issue 2 none) false ∧ tripChecks (issue 2 none) = .ok ()
    ∧ nx (exec (.cloop (.stage 0) (issue 2 none)) (sStage .cloop (issue 2 none))) (fun t => (t.ctx 0).seqr.loops.map (·.left) = [1]) = true
    ∧ StageStarts (sStEnd 0) 0 .cend (issue 0 none) false ∧ StageStarts (sStEnd 1) 0 .cend (issue 0 none) false
    ∧ nx (exec (.cend (.stage 0) (issue 0 none)) (sStEnd 0)) (fun t => (t.ctx 0).seqr.loops.isEmpty && (t.ctx 0).seqr.pos = 2) = true
    ∧ nx (exec (.cend (.stage 0) (issue 0 none)) (sStEnd 1)) (fun t => (t.ctx 0).seqr.loops.map (·.left) = [0] && (t.ctx 0).seqr.pos = 1) = true
    ∧ StageStarts (sStage .chalt (issue 0 none)) 0 .chalt (issue 0 none) true
    ∧ nx (exec (.stageProgramChalt 0 (issue 0 none)) (sStage .chalt (issue 0 none))) (fun t => (t.ctx 0).state = .ended && (t.ctx 0).seqr.pos = 1) = true := by
  unfold StageStarts; decide +kernel

/-! ### Stage programs -/

/-- Context 0 owns Flume 1 (outbound, LOCAL, to Flume 2) and Flume 2 (inbound, forward Hopper); its forward Hopper holds a READY entry. -/
def flCfg (kind dir owner role len far : Nat) : W64 := BitVec.ofNat 64 (kind + 4 * dir + 8 * owner + 256 * role + 512 * len + 2 ^ 29 * far)
def flOut (st : FlumeState) (kind : Nat) : Flume := { cfg := flCfg kind 0 0 0 1 2, state := st }
def ready0 : Entry := { hopper := 0, state := .ready, flume := 2, seq := 1, step := 5, mbid := 0, edition := 5, len := 4096, inPages := [70] }
def hop0 : Hopper := { cap := 4, ordered := true, mbPerStep := 1, outPages := 1, nextStep := 5 }
def sHop (op : Opcode) (i : Issue) (e : Entry) (fs : FlumeState) (kind : Nat) : State :=
  { (withC { ctxFor op i with hregs := [(0, some { entry := 4, read := true })], groups := [[0, 1]], free := [80, 81] }) with
    pool := [(4, e)], nextEntry := 5, hoppers := [(0, hop0)], flumes := [(1, flOut fs kind), (2, { cfg := flCfg 2 1 0 0 1 1, state := .openF })] }
def iPush : Issue := issue 8 none
def taken0 : Entry := { ready0 with state := .taken }

theorem test_entriesPop : StageStarts (sHop .hpop (issue 0 none) ready0 .openF 2) 0 .hpop (issue 0 none) true
    ∧ hregUnread ((sHop .hpop (issue 0 none) ready0 .openF 2).ctx 0) 0 = false ∧ popCandidate (sHop .hpop (issue 0 none) ready0 .openF 2) 0 = some (4, ready0)
    ∧ areaNeed (sHop .hpop (issue 0 none) ready0 .openF 2) 0 ready0 = 1
    ∧ nx (exec (.hpop 0 (issue 0 none)) (sHop .hpop (issue 0 none) ready0 .openF 2)) (fun t => t.entry? 4 = some { ready0 with state := .taken, outPages := [80] }
        && (t.ctx 0).free = [81] && (t.hopper 0).nextStep = 6 && (t.ctx 0).hregs.getD 0 none = some ⟨4, false⟩) = true := by
  unfold StageStarts; decide +kernel

def sPush (kind : Nat) : State := sHop .hpush iPush taken0 .openF kind
theorem test_entriesPush : StageStarts (sPush 3) 0 .hpush iPush false ∧ StageStarts (sPush 2) 0 .hpush iPush false
    ∧ hregEntry (sPush 3) 0 0 = some 4 ∧ pushOk (sPush 3) 0 1 = true ∧ pushRoom (sPush 3) 1 = true ∧ ((sPush 3).flume 1).kind = 3
    ∧ nx (exec (.hpush 0 iPush) (sPush 3)) (fun t => (t.flume 1).seq = 1 && (t.flume 1).tx.isEmpty && (t.entry? 4).any (fun e => e.rcpt && e.state == .done)) = true
    ∧ nx (exec (.hpush 0 iPush) (sPush 2)) (fun t => (t.flume 1).seq = 1 && (t.entry? 4).any (fun e => !e.rcpt && e.outSeq == 1 && e.pushed)) = true
    ∧ StageStarts (sHop .hrcpt (issue 0 none) { taken0 with state := .done, hpushed := true } .openF 2) 0 .hrcpt (issue 0 none) false
    ∧ nx (exec (.hrcpt 0 (issue 0 none)) (sHop .hrcpt (issue 0 none) { taken0 with state := .done, hpushed := true } .openF 2))
        (fun t => (t.ctx 0).pends.map (·.what) = [.rcpt 4] && (t.ctx 0).seqr.pos = 1) = true := by
  unfold StageStarts; decide +kernel

/-- DISPATCH of group 0 with the entry of register 0, and without an entry. -/
def iDisp : Issue := issue 0 (some 0)
def iDispNo : Issue := issue 8 (some 0)
theorem test_dispatchIssues : StageStarts (sHop .dispatch iDisp taken0 .openF 2) 0 .dispatch iDisp true ∧ StageStarts (sHop .dispatch iDispNo taken0 .openF 2) 0 .dispatch iDispNo true
    ∧ xfld iDisp 48 16 = 0 ∧ xfld iDisp 0 6 = 0 ∧ (hregEntry (sHop .dispatch iDisp taken0 .openF 2) 0 0).isSome = true
    ∧ nx (exec (.dispatch 0 iDisp) (sHop .dispatch iDisp taken0 .openF 2)) (fun t => (t.ctx 0).disps.map (fun d => (d.members, d.entry, d.step)) = [([0, 1], some 4, 5)]
        && (t.quern 1).waiting.map (fun l => l.dblk.getD 3 0) = [70 * 2 ^ 20]) = true
    ∧ nx (exec (.dispatch 0 iDispNo) (sHop .dispatch iDispNo taken0 .openF 2)) (fun t => (t.ctx 0).disps.map (·.entry) = [none]) = true := by
  unfold StageStarts; decide +kernel

/-- Shard 3 of context 0: one page, window at page 500; an Edition of step 4 in some state. -/
def sEd (op : Opcode) (i : Issue) (eds : List EdState) (settled : Option Nat) : State :=
  { (withC { ctxFor op i with shards := [3], alloc := 4, free := [80, 81], peers := [{ out := 1, inn := 2, lastToken := some 4 }], firstStep := 4,
                               steps := [(4, { final := true })] }) with
    shards := [(3, { valid := true, win := 500, span := 1, settled := settled, opened := some 4 })]
    eds := (List.range eds.length).zip (eds.map (fun st => { state := st, shard := 3, number := 4, pages := [90] }))
    flumes := [(1, flOut .openF 2), (2, { cfg := flCfg 2 1 0 0 1 1, state := .openF })] }
def iOpen : Issue := issue 3 (some 5)
theorem test_editionsOpen : StageStarts (sEd .edopen iOpen [] (some 4)) 0 .edopen iOpen false ∧ iOpen.ops >>> 13 = 0 ∧ xfld iOpen 32 32 = 0
    ∧ shardOk (sEd .edopen iOpen [] (some 4)) 0 3 = true ∧ openOk (sEd .edopen iOpen [] (some 4)) 3 5 = true ∧ openOk (sEd .edopen iOpen [] (some 5)) 3 5 = false
    ∧ usedEds (sEd .edopen iOpen [] (some 4)) 0 < 4 ∧ (takePages (sEd .edopen iOpen [] (some 4)) 0 1 true).isSome = true
    ∧ nx (exec (.edopen 0 iOpen) (sEd .edopen iOpen [] (some 4))) (fun t => (t.ed 0).state = .filling && (t.ed 0).number = 5 && (t.ed 0).pages = [80]
        && (t.ctx 0).deferred.isEmpty && (t.ctx 0).free = [81]) = true := by
  unfold StageStarts; decide +kernel

def iSh : Issue := issue 3 none
theorem test_editionsMove : StageStarts (sEd .edpend iSh [.filling] none) 0 .edpend iSh false ∧ (fillingOf (sEd .edpend iSh [.filling] none) 3).isSome = true
    ∧ StageStarts (sEd .edcommit iSh [.pending] none) 0 .edcommit iSh false
    ∧ (edsOf (sEd .edcommit iSh [.pending] none) 3).any (fun x => x.2.state == .pending) = true
    ∧ StageStarts (sEd .edretire iSh [.committed, .committed] (some 4)) 0 .edretire iSh false ∧ StageStarts (sEd .steptoken (issue 4 none) [] none) 0 .steptoken (issue 4 none) false
    ∧ nx (exec (.edpend 0 iSh) (sEd .edpend iSh [.filling] none)) (fun t => (t.ed 0).state = .pending && !(t.ed 0).requested) = true
    ∧ nx (exec (.edcommit 0 iSh) (sEd .edcommit iSh [.pending] none)) (fun t => (t.ed 0).state = .committed && (t.ctx 0).pends.isEmpty) = true
    ∧ (retireList (sEd .edretire iSh [.committed, .committed] (some 4)) 3).length = 1
    ∧ nx (exec (.steptoken 0 (issue 4 none)) (sEd .steptoken (issue 4 none) [] none)) (fun t => ((t.ctx 0).step 4).tokenIssued) = true := by
  unfold StageStarts; decide +kernel

/-- A descriptor of a reduction of one member over 256 elements, at byte 0 of page 0 (frame 7). -/
def bdescWords (formes : Nat) : List W64 := [0, 0, 1, 0, 0, 0, 0, BitVec.ofNat 64 (256 + formes * 2 ^ 35 + 2 ^ 40), 0, 0, 0, 0, 0, 0, 0, 0]
def sRed (op : Opcode) (i : Issue) : State := withMem (mapped (withC { ctxFor op i with tagBase := 6, tagCount := 1, quota := 1, rstep := 2 }) [0]) (putWords (bdescWords 1) (7 * 2 ^ 20))
theorem test_reductionsIssue : xfld (issue 6 (some 0)) 0 48 % 64 = 0 ∧ rangeErr (readErr (sRed .bscale (issue 6 (some 0)))) 0 128 = none
    ∧ StageStarts (sRed .bscale (issue 6 (some 0))) 0 .bscale (issue 6 (some 0)) false ∧ bdescOk (sRed .bscale (issue 6 (some 0))) 0 (readWords (sRed .bscale (issue 6 (some 0))) 0 16) [0] = true
    ∧ StageStarts (sRed .bred (issue 6 (some 0))) 0 .bred (issue 6 (some 0)) false
    ∧ nx (exec (.bscale 0 (issue 6 (some 0))) (sRed .bscale (issue 6 (some 0)))) (fun t => t.galley.nextBid = 1 && ((t.ctx 0).step 2).issued = 1 && (t.ctx 0).rstep = 2) = true := by
  unfold StageStarts; decide +kernel

/-! ### Flumes -/

/-- Race 0, attested to member 2 at incarnation 1. -/
def race0 : Race := { state := .attested, lanes := 0xFF, peer := some (2, 1), frameWindow := 100, slotLimit := 100 }
/-- A frame of member 2 from its Flume 9 on Race 0, for Flume 1, number 1. -/
def hdr0 : FrameHdr := { via := .race 0, ver := 1, typeOk := true, member := 2, inc := 1, flume := 9, cls := 2, ctr := 1, seqNo := 1, ackNo := 0, slotLimit := 50, window := 50, tagOk := true, dst := 1 }
def hdrF (f : Nat) : FrameHdr := { hdr0 with dst := BitVec.ofNat 10 f }
def flR (dir : Nat) (len far : Nat) : Flume := { cfg := flCfg 0 dir 0 0 len far + (2 <<< 25), route := 1 + (2 <<< 34), state := .openF, path := some (.race 0) }
/-- Flume 1 is inbound, Flume 3 outbound, both of context 0 towards Flume 9 of member 2. -/
def sFl : State :=
  { jobState with
    races := [(0, race0)], sec := { jobState.sec with incs := [(2, 1)] }
    flumes := [(1, flR 1 1 9), (3, flR 0 1 9)], hoppers := [(0, hop0)]
    ctxs := [(0, { state := .running, free := [80, 81, 82], peers := [{ out := 3, inn := 1 }] })] }
/-- A frame that takes a slot, and one that takes none. -/
def cSlot : Instr := .data hdr0 1 true 0 []
def cCtl : Instr := .grant hdr0 1
def got (h : FrameHdr) (c : Instr) (s : State) : State := (receive h c s).1

theorem test_framesAreReceived : raceTakes sFl 0 hdr0 = true ∧ raceTakes sFl 0 { hdr0 with inc := 2 } = false ∧ (sFl.race 0).rx.above = []
    ∧ ctrFresh (sFl.sec.replay.getD (replayKey hdr0) []) hdr0.ctr.toNat = true ∧ above48 hdr0.seqNo (sFl.race 0).rx.ack = 1
    ∧ ctrFresh ((got hdr0 cCtl sFl).sec.replay.getD (replayKey hdr0) []) hdr0.ctr.toNat = false
    ∧ (receive hdr0 cSlot sFl).2 = true ∧ ((got hdr0 cSlot sFl).race 0).slotsFreed = 1 ∧ ((got hdr0 cSlot sFl).race 0).rx.ack = 1
    ∧ ((got { hdr0 with tagOk := false } cSlot sFl).race 0).authFail = 1 ∧ ((got { hdr0 with ver := 2 } cSlot sFl).race 0).dropped = 1
    ∧ ((got hdr0 cCtl (got hdr0 cCtl sFl)).race 0).replay = 1 ∧ above48 3 (sFl.race 0).rx.ack = 3
    ∧ ((got { hdr0 with seqNo := 3 } cCtl sFl).race 0).rx.above = [(3, cCtl)] ∧ sFl.board.haltedByClock = false := by
  decide +kernel

/-- A grant stands issued at Flume 1 for entry 4; a whole micro-batch has arrived in it. -/
def rx0 : Rx := { seq := 1, grantNo := 1, step := 5, mbid := 0, edition := 5, len := 4096, entry := 4 }
def granted0 : Entry := { hopper := 0, state := .granted, flume := 1, grantNo := 1, inPages := [70] }
def sRx (v : Option Rx) (e : Entry) : State :=
  { sFl with flumes := [(1, { (flR 1 1 9) with issued := [(1, 4)], nextGrant := 2, rx := v }), (3, flR 0 1 9)], pool := [(4, e)], nextEntry := 5 }
theorem test_grants : grantWanted (sFl.flume 1) = true ∧ grantRoom sFl (sFl.flume 1) = true ∧ grantRoom (sFl.updCtx 0 (fun x => { x with free := [] })) (sFl.flume 1) = false
    ∧ nx (exec (.grantIssue 1) sFl) (fun t => (t.flume 1).issued = [(1, 0)] && (t.ctx 0).free = [81, 82] && (t.race 0).queue.map (·.2) = [.grant 1 9 1]) = true
    ∧ nx (exec (.grantIssue 1) (sFl.updCtx 0 (fun x => { x with free := [] }))) (fun t => t.grantStalls = 1 && (t.flume 1).stalled) = true
    ∧ (receive (hdrF 3) cCtl sFl).2 = true ∧ dstOk (got (hdrF 3) cCtl sFl) (hdrF 3) false = true ∧ onFabric (got (hdrF 3) cCtl sFl) (hdrF 3) = false
    ∧ nx (exec (.grant (hdrF 3) 1) sFl) (fun t => (t.flume 3).grants = [1] && (t.flume 3).nextGrant = 2) = true := by
  decide +kernel

theorem test_acceptance : ((sRx (some { rx0 with whole := true }) granted0).flume 1).inbound = true ∧ localFlume (sRx (some { rx0 with whole := true }) granted0) 1 = false
    ∧ ((sRx (some { rx0 with whole := true }) granted0).entry? 4).isSome = true
    ∧ nx (exec (.acceptance 1) (sRx (some { rx0 with whole := true }) granted0)) (fun t => (t.entry? 4).any (fun e => e.state == .ready && e.seq == 1 && e.step == 5)
        && (t.flume 1).seq = 1 && (t.race 0).queue.map (·.2) = [.receipt 1 9 1 5 0]) = true := by
  decide +kernel

/-- An entry of context 0 whose output left on Flume 3 as number 7. -/
def pushed0 : Entry := { granted0 with state := .done, seq := 1, step := 5, pushed := true, hpushed := true, outFlume := 3, outSeq := 7 }
def sOutM : State := { sRx none pushed0 with flumes := [(1, flR 1 1 9), (3, { flR 0 1 9 with seq := 7, tx := [{ kind := .mb 4, seq := 7, sent := true }, { kind := .token 5, seq := 0 }] })] }
def seg0 : List W8 := List.replicate 2048 0xAB
theorem test_microBatches : (receive hdr0 cCtl (sRx none granted0)).2 = true ∧ dstOk (got hdr0 cCtl (sRx none granted0)) hdr0 false = true
    ∧ (receive hdr0 cSlot (sRx (some rx0) granted0)).2 = true ∧ segSize (got hdr0 cSlot (sRx (some rx0) granted0)) hdr0.via = 2048
    ∧ nx (exec (.mbhdr hdr0 1 5 1 0 5 4096) (sRx none granted0)) (fun t => (t.flume 1).rx = some rx0) = true
    ∧ nx (exec (.mbhdr hdr0 2 5 1 0 5 4096) (sRx none granted0)) (fun t => (t.flume 1).rx = none && t.mil.ring.map (·.code) = [0x502]) = true
    ∧ seg0.length = 2048 ∧ ((got hdr0 cSlot (sRx (some rx0) granted0)).flume 1).rx = some rx0 := by
  decide +kernel

theorem test_receiptsAndRecalls : (receive (hdrF 3) cCtl sOutM).2 = true ∧ dstOk (got (hdrF 3) cCtl sOutM) (hdrF 3) false = true
    ∧ nx (exec (.receipt (hdrF 3) 7 5 0) sOutM) (fun t => (t.flume 3).tx.map (·.kind) = [.token 5] && (t.entry? 4).all (·.rcpt)) = true
    ∧ nx (exec (.receipt (hdrF 3) 0 5 1) sOutM) (fun t => (t.flume 3).tx.map (·.seq) = [7] && (t.entry? 4).all (fun e => !e.rcpt)) = true
    ∧ (receive hdr0 cCtl (sRx none { granted0 with state := .ready, seq := 1, recalled := true })).2 = true
    ∧ entryOfSeq (got hdr0 cCtl (sRx none { granted0 with state := .ready, seq := 1, recalled := true })) 1 1 = some (4, { granted0 with state := .ready, seq := 1, recalled := true })
    ∧ nx (exec (.recallMb hdr0 1 5) (sRx none { granted0 with state := .ready, seq := 1, recalled := true })) (fun t => (t.entry? 4).any (·.unrecoverable)) = true := by
  decide +kernel

/-- Flume 1 in OPENING, and the offers of its peer. -/
def sOpening : State := { sFl with flumes := [(1, { flR 1 1 9 with state := .opening }), (3, flR 0 1 9)] }
theorem test_flumesOpen : (receive hdr0 cCtl sOpening).2 = true ∧ dstOk (got hdr0 cCtl sOpening) hdr0 true = true ∧ dstOk (got hdr0 cCtl sOpening) hdr0 false = true ∧ ((got hdr0 cCtl sOpening).flume 1).state = .opening
    ∧ openConflict ((got hdr0 cCtl sOpening).flume 1) false 9 2 1 = 0 ∧ openConflict ((got hdr0 cCtl sOpening).flume 1) true 9 2 1 = 1
    ∧ openConflict ((got hdr0 cCtl sOpening).flume 1) false 9 2 2 = 4
    ∧ nx (exec (.openFlume hdr0 false 1) sOpening) (fun t => (t.flume 1).state = .openF && (t.race 0).queue.map (·.2) = [.openack 1 9 true 1 0]) = true
    ∧ nx (exec (.openFlume hdr0 false 2) sOpening) (fun t => (t.flume 1).state = .closed && (t.race 0).queue.map (·.2) = [.openack 1 9 true 1 4]) = true
    ∧ nx (exec (.openack hdr0 false 1 0) sOpening) (fun t => (t.flume 1).state = .openF) = true
    ∧ nx (exec (.openack hdr0 false 1 2) sOpening) (fun t => (t.flume 1).state = .closed) = true := by
  decide +kernel

theorem test_flumesCloseAndCarry : nx (exec (.close hdr0 false 0 1) (sRx none granted0)) (fun t => (t.flume 1).state = .closed && (t.entry? 4).isNone && (t.ctx 0).free.contains 70) = true
    ∧ (receive (hdrF 3) cCtl sFl).2 = true ∧ ((got (hdrF 3) cCtl sFl).flume 3).inbound = false
    ∧ nx (exec (.close (hdrF 3) false 0 0) sFl) (fun t => (t.flume 3).state = .closed) = true
    ∧ nx (exec (.close (hdrF 3) false 0 0) sOutM) (fun t => (t.flume 3).state = .closing) = true
    ∧ peerOn (got hdr0 cCtl sFl) 0 1 = some 0 ∧ ((got hdr0 cCtl sFl).ctx 0).peers[0]? = some { out := 3, inn := 1 }
    ∧ nx (exec (.token hdr0 5) sFl) (fun t => (t.ctx 0).peers.map (·.lastToken) = [some 5] && (t.race 0).queue.map (·.2) = [.receipt 1 9 0 5 1]) = true
    ∧ nx (exec (.token hdr0 5) (sFl.updCtx 0 (fun x => { x with peers := [{ out := 3, inn := 1, lastToken := some 6 }] }))) (fun t => (t.ctx 0).peers.map (·.lastToken) = [some 6]
        && (t.race 0).queue.map (·.2) = [.receipt 1 9 0 5 1]) = true
    ∧ nx (exec (.notice hdr0 5) sFl) (fun t => (t.ctx 0).peers.map (·.lastNotice) = [some 5] && (t.race 0).queue.map (·.2) = [.receipt 1 9 0 5 2]) = true := by
  decide +kernel

def sPath (st : RaceState) (path : Option Carrier) : State :=
  { sFl with races := [(0, { race0 with state := st }), (1, race0)], flumes := [(1, { flR 1 1 9 with path := path }), (3, { flR 0 1 9 with route := 3 + (2 <<< 34) })] }
theorem test_pathsBreak : pickPath (sPath .failed none) 1 = none ∧ ((sPath .failed none).flume 1).kind ≤ 1 ∧ pathGone (sPath .failed (some (.race 0))) 1 = true
    ∧ pathGone (sPath .failed (some (.race 0))) 3 = true ∧ pickPath (sPath .failed (some (.race 0))) 3 = some (.race 1)
    ∧ nx (exec (.flumeBreak 1) (sPath .failed none)) (fun t => (t.flume 1).state = .broken) = true
    ∧ nx (exec (.pathFail 1) (sPath .failed (some (.race 0)))) (fun t => (t.flume 1).state = .broken && (t.flume 1).path = none) = true
    ∧ nx (exec (.pathFail 3) (sPath .failed (some (.race 0)))) (fun t => (t.flume 3).state = .openF && (t.flume 3).path = some (.race 1)) = true
    ∧ nx (exec (.drainComplete 0) (withC { state := .draining })) (fun t => (t.ctx 0).state = .quiesced) = true
    ∧ nx (exec (.drainComplete 0) (withC { state := .draining, resumeAfterDrain := true })) (fun t => (t.ctx 0).state = .running) = true := by
  decide +kernel

/-! ### Reductions -/

/-- The root of a tree of two members, with one block: its child is on link 1, by Flumes 1 and 3. -/
def desc2 : BDesc := { bdescOf (bdescWords 1) with p := 2, link1 := { valid := true, inn := 1, out := 3 } }
def bucket2 : Bucket :=
  { bid := 0, ctx := 0, btag := 6, step := 2, idx := 0, kind := .bred 2, desc := desc2, phase := .data, formes := [0], e := [0]
    units := [(0, { lines := List.replicate 256 0 })], given := [(1, 1)], givenLog := [((1, 0, 0), 1)] }
def id2 : RedId := { round := 0, sched := 2, phase := 1, btag := 6, step := 2, blk := 0, chunk := 0, hop := 0 }
def sBuck (b : Bucket) : State :=
  { sFl with galley := { sFl.galley with buckets := [b], nextBid := 1, links := [(6, desc2.links)] }
             ctxs := [(0, { state := .running, tagBase := 6, tagCount := 1, quota := 1, rstep := 3, steps := [(2, { issued := 1, lastIssued := true })] })] }
def lines1 : List W64 := List.replicate 256 1
theorem test_reductionFrames : (receive hdr0 cSlot (sBuck bucket2)).2 = true ∧ redCompleted (got hdr0 cSlot (sBuck bucket2)) id2 = false
    ∧ redBucket (got hdr0 cSlot (sBuck bucket2)) id2 = some bucket2 ∧ bucket2.past (scaledBefore (got hdr0 cSlot (sBuck bucket2)) id2) id2 = false
    ∧ linksOf (got hdr0 cSlot (sBuck bucket2)) desc2.links hdr0 = [1] ∧ (bucket2.ins 0).contains (1, 0) = true
    ∧ bucket2.conflict id2 2 1 (bucket2.gathers true 1 0) = none ∧ bucket2.conflict id2 3 1 (bucket2.gathers true 1 0) = some 2
    ∧ nx (exec (.red hdr0 id2 0 2 1 lines1 .none) (sBuck bucket2)) (fun t => t.galley.buckets.all (fun b => b.seen == [(1, 0, 0)] && b.units.all (fun u => u.2.lines == lines1 && u.2.decided))) = true
    ∧ nx (exec (.red hdr0 id2 0 3 1 lines1 .none) (sBuck bucket2)) (fun t => t.galley.buckets.isEmpty && t.galley.mismatches = 1 && (t.ctx 0).state = .stopped) = true := by
  decide +kernel

theorem test_reductionCredits : (receive hdr0 cCtl (sBuck bucket2)).2 = true
    ∧ nx (exec (.redack hdr0 id2 true 3) (sBuck bucket2)) (fun t => t.galley.buckets.all (fun b => b.credits == [(1, 3)] && b.creditSeen == [(1, 0, 0)])) = true
    ∧ nx (exec (.redack hdr0 id2 false 0) (sBuck { bucket2 with unacked := [(1, 0, 0)] })) (fun t => t.galley.buckets.all (fun b => b.unacked.isEmpty)) = true := by
  decide +kernel

/-- The one member of a reduction, its data round done; with an overflow; and complete. -/
def bucket1 (ovf : Bool) (ph : Phase) : Bucket :=
  { bucket2 with desc := { bdescOf (bdescWords 1) with resultBase := 0, scaleBase := 8192, statusBase := 4096 }, phase := ph
                 units := [(0, { hdr := { ovf := ovf, ovb := 2 }, lines := lines1, decided := true })] }
theorem test_rounds : runningRed (sBuck (bucket1 false .data)) 0 6 = some (bucket1 false .data) ∧ (bucket1 false .data).roundDone = true
    ∧ nx (exec (.roundComplete 0 6) (sBuck (bucket1 false .data))) (fun t => t.galley.buckets.all (fun b => b.phase == .complete)) = true
    ∧ (bucket1 true .data).hdrs.any (·.ovf) = true ∧ (bucket1 true .data).rescaled = false ∧ (bucket1 true .data).regrinds < 2
    ∧ nx (exec (.roundComplete 0 6) (mapped (sBuck (bucket1 true .data)) [0])) (fun t => t.galley.regrinds = 1 && t.galley.buckets.all (fun b => b.regrinds == 1 && b.e == [3])) = true := by
  decide +kernel

theorem test_bucketsComplete : (writeMem (mapped (sBuck (bucket1 false .complete)) [0]) (bucket1 false .complete).outBytes).2 = none
    ∧ ((bucket1 false .complete).finalHdr 0).nf = false
    ∧ nx (exec (.bucketComplete 0 6) (mapped (sBuck (bucket1 false .complete)) [0])) (fun t => t.galley.buckets.isEmpty && (t.ctx 0).completed = [(6, 2)]) = true
    ∧ nx (exec (.galleyStall 0 6) (sBuck bucket2)) (fun t => t.galley.stalls = 1 && t.mil.ring.map (fun e => (e.code, e.detail)) = [(0x503, [2, bucket2.stallPhase, bucket2.awaited.2, bucket2.awaited.1])]) = true
    ∧ ({ jobState.galley with lost := [(3, 2)] }).lost.getD 3 0 = 2
    ∧ nx (exec (.formeDisable 3) { jobState with galley := { jobState.galley with lost := [(3, 2)] } }) (fun t => t.galley.disabled = [3]
        && t.boot.defects.map (fun d => (d.kind, d.action, d.location)) = [(10, 0, 3)] && t.mil.ring.map (·.code) = [0x206]) = true := by
  decide +kernel

/-! ### Races -/

def sRace (x : Race) : State :=
  { jobState with races := [(0, x)], racePorts := [(0, { cfg := 1 })], sec := { jobState.sec with members := [⟨2, false, 1, 0xFFFF, 77⟩] } }
theorem test_racesTrain : raceEnabled (sRace {}) 0 = true ∧ baseLanes (sRace { state := .training }) 0 = 0xFF ∧ ((sRace {}).racePort 0).idle = 0
    ∧ nx (exec (.raceTraining 0 .signal) (sRace {})) (fun t => (t.race 0).state = .training) = true
    ∧ nx (exec (.raceTraining 0 (.trained 0x1FF false)) (sRace { state := .training })) (fun t => (t.race 0).state = .qualifying && (t.race 0).lanes = 0xFF) = true
    ∧ countLanes (0xFF &&& ~~~(0x1FE : BitVec 9)) = 1 ∧ spareTaken (sRace { state := .training }) 0 = false
    ∧ nx (exec (.raceTraining 0 (.trained 0x1FE true)) (sRace { state := .training })) (fun t => (t.race 0).state = .qualifying && (t.race 0).lanes = 0x1FE && (t.race 0).spareInUse) = true
    ∧ laneSet (sRace { state := .training }) 0 0x0EE false none = none
    ∧ nx (exec (.raceTraining 0 (.trained 0x0EE false)) (sRace { state := .training })) (fun t => (t.race 0).state = .failed) = true
    ∧ nx (exec (.trainingTimeout 0) (sRace { state := .training })) (fun t => (t.race 0).state = .failed) = true
    ∧ nx (exec (.qualification 0 [22400]) (sRace { state := .qualifying, lanes := 0xFF })) (fun t => (t.race 0).state = .hello) = true
    ∧ nx (exec (.qualification 0 [0, 22401]) (sRace { state := .qualifying, lanes := 0xFF })) (fun t => (t.race 0).state = .training && (t.racePort 0).laneBad = 2) = true := by
  decide +kernel

def busy0 : Race := { race0 with unacked := [{ lsn := 3, frame := .linkResume, cls := 1 }], nextLsn := 4, peerAck := 2, lastPeer := some (2, 1) }
def back0 : Race := { busy0 with state := .retraining, recover := .attest, ownResult := some 0, cand := some (2, 1) }
theorem test_racesRecover : nx (exec (.laneFailure 0 7) (sRace busy0)) (fun t => (t.race 0).state = .retraining && (t.race 0).unacked = busy0.unacked && (t.racePort 0).laneBad = 0x80) = true
    ∧ nx (exec (.retrainRecovery 0 0x1FF [22400]) (sRace { busy0 with state := .retraining })) (fun t => (t.race 0).state = .retraining && (t.race 0).recover = .hello
        && (t.race 0).lanes = 0xFF && (t.race 0).unacked = busy0.unacked) = true
    ∧ nx (exec (.retrainRecovery 0 0x0EE []) (sRace { busy0 with state := .retraining })) (fun t => (t.race 0).state = .failed) = true
    ∧ back0.cand = back0.lastPeer
    ∧ nx (exec (.attest 0 (.result 0 true)) (sRace back0)) (fun t => (t.race 0).state = .attested && (t.race 0).unacked.map (·.lsn) = [3, 4]
        && (t.race 0).resumeq = [3] && t.out.length = 1) = true
    ∧ nx (exec (.failedRetry 0) (sRace { state := .failed })) (fun t => (t.race 0).state = .training && (t.racePort 0).retrains = 1) = true := by
  decide +kernel

def hello0 (v : W8) (job : W128) : HelloMsg := ⟨v, true, false, false, 0xFF, 512, 12, 34, job, true⟩
theorem test_racesLink : sendsHello { state := .hello } = true ∧ nx (exec (.helloSend 0) (sRace { state := .hello })) (fun t => t.out.length = 1) = true
    ∧ nx (exec (.hello 0 (hello0 1 8)) (sRace { state := .hello, lanes := 0xFF })) (fun t => (t.race 0).state = .linked && (t.race 0).peerSlots = 512) = true
    ∧ nx (exec (.hello 0 (hello0 1 9)) (sRace { state := .hello, lanes := 0xFF })) (fun t => (t.race 0).state = .attesting && t.out.length = 2) = true
    ∧ nx (exec (.hello 0 (hello0 2 9)) (sRace { state := .hello, lanes := 0xFF })) (fun t => (t.race 0).state = .failed) = true
    ∧ nx (exec (.attestRetry 0) (sRace { state := .linked, peerAdmitted := true, peerJob := 9 })) (fun t => (t.race 0).state = .attesting) = true
    ∧ (receive hdr0 cCtl sFl).2 = true ∧ nx (exec (.linkWithdraw 0 hdr0) sFl) (fun t => (t.race 0).state = .linked) = true := by
  decide +kernel

def attesting (p : Option Nat) : State := sRace { state := .attesting, lanes := 0xFF, chalOwn := 34, peerSlots := 512, peerResult := p, attParts := [false] }
def body0 (chal : W128) : AttestBody := ⟨9, 2, 1, 55, chal, 0, 77, true, true, true⟩
theorem test_racesAttest : attestCheck (attesting none) 0 (body0 34) = 0 ∧ attestCheck (attesting none) 0 (body0 35) = 6
    ∧ nx (exec (.attest 0 (.part false (body0 34) true)) (sRace { (attesting none).race 0 with attParts := [] })) (fun t => (t.race 0).attParts = [false]) = true
    ∧ nx (exec (.attest 0 (.part true (body0 34) true)) (attesting (some 0))) (fun t => (t.race 0).state = .attested && (t.race 0).peer = some (2, 1) && (t.race 0).slotLimit = 512) = true
    ∧ nx (exec (.attest 0 (.part true (body0 34) true)) (attesting none)) (fun t => (t.race 0).state = .attesting && (t.race 0).ownResult = some 0) = true
    ∧ nx (exec (.attest 0 (.part true (body0 35) true)) (attesting none)) (fun t => (t.race 0).state = .linked && (t.race 0).attResult = 6) = true
    ∧ nx (exec (.attest 0 (.result 4 true)) (attesting none)) (fun t => (t.race 0).state = .linked && (t.race 0).attResult = 4) = true := by
  decide +kernel

/-- The member table of the job, with a key policy that names no digest but 3. -/
def picky : State := { attesting none with sec := { (attesting none).sec with frisket := { (attesting none).sec.frisket with keypol := 4, digests := [3], ndigest := 1 } } }
theorem test_attestationChecks : memberOf (attesting none) 2 = some ⟨2, false, 1, 0xFFFF, 77⟩ ∧ isPairRace (attesting none) 0 = false
    ∧ attestCheck (attesting none) 0 { body0 34 with certOk := false } = 1 ∧ attestCheck (attesting none) 0 { body0 34 with sigOk := false } = 2
    ∧ attestCheck (attesting none) 0 { body0 34 with keyHash := 78 } = 3 ∧ attestCheck (attesting none) 0 { body0 34 with jobId := 8 } = 4
    ∧ attestCheck (attesting none) 0 { body0 34 with proofOk := false } = 5 ∧ attestCheck (attesting none) 0 { body0 34 with inc := 0 } = 7
    ∧ attestCheck picky 0 (body0 34) = 8 ∧ attestCheck picky 0 { body0 34 with digest := 3 } = 0 := by
  decide +kernel

def sAck (x : Race) : State := { sFl with races := [(0, x)] }
theorem test_raceAcknowledgements : (receive hdr0 cCtl (sAck busy0)).2 = true
    ∧ nx (exec (.linkAck 0 { hdr0 with ackNo := 3 }) (sAck busy0)) (fun t => (t.race 0).unacked.isEmpty && (t.race 0).peerAck = 3) = true
    ∧ nx (exec (.linkNack 0 hdr0 3 1) (sAck busy0)) (fun t => (t.race 0).retxq = [3]) = true
    ∧ nx (exec (.linkNack 0 hdr0 3 2) (sAck busy0)) (fun t => (t.race 0).retxq = []) = true
    ∧ nx (exec (.linkResume 0 hdr0) (sAck busy0)) (fun t => (t.race 0).resumeq = [3]) = true
    ∧ nx (exec (.linkAckTimer 0) (sAck { busy0 with rx := { ack := 6, sinceAck := 1 } })) (fun t => (t.race 0).nextLsn = 5 && t.out.length = 1) = true := by
  decide +kernel

theorem test_raceTransmission : frameClass .linkResume = 1 ∧ frameFlume .linkResume = none
    ∧ nx (exec (.frameTransmit 0) (sAck { race0 with queue := [(1, .linkResume)], nextLsn := 100 })) (fun t => (t.race 0).unacked.map (·.lsn) = [100]
        && (t.race 0).queue.isEmpty && t.out.length = 1) = true
    ∧ nx (exec (.frameTransmit 0) (sAck { race0 with queue := [(1, .linkResume)], nextLsn := 101 })) (fun t => t.out.isEmpty) = true
    ∧ nx (exec (.retransmissionTimeout 0) (sAck { busy0 with timeouts := 998 })) (fun t => (t.race 0).retxq = [3] && (t.race 0).state = .attested) = true
    ∧ nx (exec (.retransmissionTimeout 0) (sAck { busy0 with timeouts := 999 })) (fun t => (t.race 0).state = .retraining) = true := by
  decide +kernel

/-! ### Host ports -/

def src0 : NetAddr := ⟨0xFE80 <<< 112 ||| 7, 4000⟩
/-- The IPv4 address of port 0, and a packet to it. -/
def own0 : W128 := 0xFFFF0A000001
def d0 : Datagram := { src := src0, dst := .own own0, udpLen := 144 }
/-- Port 0 up with IPv4, the source's hardware address known; member 3 is a host. -/
def sHost (stage : Nat) (l : List (Nat × Session)) : State :=
  { jobState with
    boot := { jobState.boot with stage := stage }, timeNs := 300000000
    hosts := [(0, { cfg := 47210 <<< 23 ||| 9, ip4 := 0x0A000001, link := true, neigh := [(src0.addr, 1)], sessions := l })]
    sec := { jobState.sec with members := [⟨3, true, 1, 0xFFFF, 77⟩] } }
/-- A packet of member 3 on session 0 of port 0. -/
def hdrH : FrameHdr := { hdr0 with via := .host 0 0, member := 3, inc := 1, net := d0 }
theorem test_sessionsDiscover : portHears (sHost 7 []) 0 = true ∧ isReady (sHost 7 []) = true ∧ isReady (sHost 6 []) = false
    ∧ portHears { (sHost 7 []) with timeNs := 299999999 } 0 = false ∧ packetOk (sHost 7 []) 0 false d0 = true ∧ d0.crcOk = true
    ∧ runs (.discover 0 { d0 with udpLen := 143 }) (sHost 7 []) (sHost 7 []) = true
    ∧ nx (exec (.discover 0 d0) (sHost 7 [])) (fun t => t.out.length = 1 && (t.host 0).bucket = 63000000000) = true
    ∧ nx (exec (.discover 0 { d0 with dst := .own (own0 + 1) }) (sHost 7 [])) (fun t => t.out.isEmpty && (t.host 0).dropped = 1) = true
    ∧ nx (exec (.discover 0 { d0 with crcOk := false }) (sHost 7 [])) (fun t => t.out.isEmpty && (t.host 0).dropped = 0) = true
    ∧ nx (exec (.sopenFirstForm 0 d0) (sHost 7 [])) (fun t => t.out.length = 1) = true := by
  decide +kernel

/-- The cookie is an opaque value of Config: the checks of the second form, and the session that it opens. -/
theorem test_sessionsOpen : (sopenRefusal (sHost 7 []) 0 hdrH 9 0 = (0, sHost 7 [])) ∧ replacesOk (sHost 7 []) 0 3 0 = false
    ∧ (sopenRefusal (sHost 7 []) 0 hdrH 8 0).1 = 1 ∧ (sopenRefusal (sHost 7 []) 0 { hdrH with member := 4 } 9 0).1 = 4
    ∧ (sopenRefusal ((sHost 7 []).updHost 0 (fun h => { h with slotsFree := 0 })) 0 hdrH 9 0).1 = 3
    ∧ (((sopenRefusal (sHost 7 []) 0 { hdrH with tagOk := false } 9 0).2.host 0).authFail = 1)
    ∧ (nextHop (sHost 7 []) 0 src0.addr).isSome = true
    ∧ ((openSession (sHost 7 []) 0 hdrH true 300).session 0 0).window = 256
    ∧ ((openSession (sHost 7 []) 0 hdrH true 300).host 0).slotsFree = 256 ∧ ((openSession (sHost 7 []) 0 hdrH true 300).session 0 0).segsize = 8192 := by
  decide +kernel

def sess0 : Session := { state := .openS, addr := src0, member := 3, inc := 1, window := 256, peerWindow := 256 }
def unack0 : Unacked := { lsn := 1, frame := .linkAck 0, cls := 1 }
theorem test_sessionsRun : (receive hdrH cCtl (sHost 7 [(0, sess0)])).2 = true
    ∧ nx (exec (.ack hdrH 1) (sHost 7 [(0, sess0)])) (fun t => (t.session 0 0).cwnd = 8 && (t.session 0 0).peerCe = 1) = true
    ∧ nx (exec (.ack hdrH 0) (sHost 7 [(0, sess0)])) (fun t => (t.session 0 0).cwnd = 16 && (t.session 0 0).rx.ack = 1) = true
    ∧ nx (exec (.nack hdrH 1 1) (sHost 7 [(0, { sess0 with unacked := [unack0], nextPsn := 2 })])) (fun t => (t.host 0).retx = 1 && (t.session 0 0).cwnd = 8) = true
    ∧ nx (exec (.sclose hdrH) (sHost 7 [(0, sess0)])) (fun t => (t.host 0).sessions.isEmpty && (t.host 0).slotsFree = 768) = true
    ∧ nx (exec (.sclose hdrH) (sHost 7 [(0, { sess0 with state := .broken })])) (fun t => (t.host 0).sessions.isEmpty && t.out.length = 1) = true
    ∧ nx (exec (.sessionAckTimer 0 0) (sHost 7 [(0, { sess0 with rx := { ack := 4, sinceAck := 1 } })])) (fun t => t.out.length = 1) = true := by
  decide +kernel

theorem test_sessionsBreak : nx (exec (.sessionRetransmissionTimeout 0 0) (sHost 7 [(0, { sess0 with unacked := [unack0], timeouts := 62 })])) (fun t => (t.session 0 0).timeouts = 63
        && (t.session 0 0).state = .openS && (t.session 0 0).cwnd = 8) = true
    ∧ nx (exec (.sessionRetransmissionTimeout 0 0) (sHost 7 [(0, { sess0 with unacked := [unack0], timeouts := 63 })])) (fun t => (t.session 0 0).state = .broken) = true
    ∧ nx (exec (.hostPortLinkLoss 0) (sHost 7 [(0, sess0)])) (fun t => (t.session 0 0).state = .broken && !(t.host 0).link) = true
    ∧ nx (exec (.hostPortLinkUp 0 2) (sHost 7 [])) (fun t => (t.host 0).rateNow = 2) = true
    ∧ nx (exec (.hostPortLinkUp 0 0) (sHost 7 [])) (fun t => (t.host 0).rateNow = 0) = true
    ∧ nx (exec (.hostPortLinkUp 0 2) ((sHost 7 []).updHost 0 (fun h => { h with cfg := h.cfg ||| 6 }))) (fun t => (t.host 0).rateNow = 3) = true
    ∧ ownAddress (sHost 7 []) 0 own0 true = true ∧ nx (exec (.neighbourSolicitation 0 own0 true []) (sHost 7 [])) (fun t => t.out.length = 1) = true
    ∧ nx (exec (.neighbourSolicitation 0 own0 true [5]) (sHost 7 [])) (fun t => t.out.isEmpty && (t.host 0).dropped = 1) = true
    ∧ nx (exec (.neighbourResolution 0 5 6) { (sHost 7 []) with ipWait := [(0, 5, .guestError), (1, 5, .guestError)] }) (fun t => t.out = [.guestError] && t.ipWait = [(1, 5, .guestError)]) = true := by
  decide +kernel

/-! ### Job control -/

def job0 : JobHdr := ⟨hdrH, 5⟩
def sJob : State := { (sHost 7 [(0, sess0)]) with boot := { (sHost 7 []).boot with binsEn := 1 } }
/-- The state in which a request acts that has come in `s`. -/
def asked (s : State) (c : Instr) : State := jobTaken (got hdrH c s) job0 c
/-- Whether a request that comes in `s` acts at once. -/
def inTurn (s : State) (c : Instr) : Bool :=
  (receive hdrH c s).2 && decide (((got hdrH c s).session 0 0).state = .openS) && decide (((got hdrH c s).session 0 0).requests = [])
    && !((got hdrH c s).session 0 0).acted && decide (((got hdrH c s).session 0 0).part = none)
theorem jobTurn_of_inTurn (s : State) (c : Instr) (h : inTurn s c = true) : JobTurn s (got hdrH c s) job0 c := by
  simp only [inTurn, Bool.and_eq_true, decide_eq_true_eq, Bool.not_eq_true'] at h
  exact ⟨⟨0, 0, rfl⟩, Prod.ext rfl h.1.1.1.1, h.1.1.1.2, h.1.1.2, h.1.2, h.2⟩
def hopZ : HopSpec := ⟨4, false, 0, 0, 1, 0, 0⟩
def msg0 (prog : List W64) : LoadMsg := ⟨0, prog, [[0, 1]], [], [], [], hopZ, hopZ, 6, 2, 1, 1, 0, 3⟩
def halt1 : List W64 := encodeWords ⟨.chalt, issue 0 none⟩
/-- A LOAD in one part, its last part, and a first part of 8 bytes. -/
def cLoad : Instr := .load job0 ⟨0, 8, some (msg0 halt1)⟩
def cLast : Instr := .load job0 ⟨8, 8, some (msg0 halt1)⟩
def cPart : Instr := .load job0 ⟨0, 8, none⟩
def sParted : State := sJob.setSession 0 0 { sess0 with part := some (5, some 8) }
theorem test_contextsLoad : inTurn sJob cLoad = true ∧ inTurn sJob cPart = true ∧ loadRefusal (asked sJob cLoad) (msg0 halt1) = none
    ∧ parseProgram halt1 = .ok [⟨.chalt, issue 0 none⟩]
    ∧ nx (exec cLoad sJob) (fun t => (t.ctx 0).state = .running && (t.ctx 0).rstep = 3 && (t.session 0 0).requests.isEmpty && t.out.length = 1 && (t.quern 1).loaded) = true
    ∧ nx (exec cPart sJob) (fun t => (t.session 0 0).part = some (5, some 8) && t.ctxs.isEmpty) = true
    ∧ nx (exec cLast sParted) (fun t => (t.ctx 0).state = .running && (t.session 0 0).part = none) = true
    ∧ nx (exec cLast sJob) (fun t => t.ctxs.isEmpty && t.out.length = 1) = true
    ∧ loadRefusal (asked (sJob.setCtx 0 { state := .running }) cLoad) (msg0 halt1) = some (3, [0]) ∧ parseProgram [] = .error 0x44
    ∧ inTurn (sJob.setCtx 0 { state := .halted }) (.reload job0 (msg0 halt1)) = true
    ∧ nx (exec (.reload job0 (msg0 halt1)) (sJob.setCtx 0 { state := .halted })) (fun t => (t.ctx 0).state = .running && (t.ctx 0).program.length = 1) = true
    ∧ nx (exec (.reload job0 (msg0 halt1)) (sJob.setCtx 0 { state := .running })) (fun t => (t.ctx 0).state = .running && (t.ctx 0).program.isEmpty) = true
    ∧ inTurn (sJob.setCtx 0 { state := .stopped }) (.unload job0 0) = true
    ∧ openFlumeOf sFl 0 = some 1 ∧ openFlumeOf (asked (sJob.setCtx 0 { state := .stopped }) (.unload job0 0)) 0 = none
    ∧ nx (exec (.unload job0 0) (sJob.setCtx 0 { state := .stopped, alloc := 3 })) (fun t => (t.ctx 0).state = .unloaded && (t.ctx 0).alloc = 0) = true := by
  decide +kernel

def bytes3 : List W8 := [1, 2, 3]
def cMap : Instr := .map job0 524286 2 0 false true 0
def cPut (a : W48) : Instr := .put job0 a bytes3
theorem test_memoryRequests : inTurn sJob cMap = true
    ∧ (∀ i < 2, ((asked sJob cMap).page (524286 + i)).state = .unmapped ∧ pageClaimed (asked sJob cMap) (524286 + i) = false)
    ∧ halfRefused (asked sJob cMap) 524286 2 0 = false ∧ framesFor (asked sJob cMap) 0 2 = some [0, 1]
    ∧ nx (exec cMap sJob) (fun t => (t.page 524287).state = .mapped && (t.page 524287).frame = 1 && (t.page 524287).wp && (t.ctx 0).free = [524286, 524287]) = true
    ∧ inTurn (mapped sJob [0]) (.unmap job0 0 1) = true
    ∧ (movePages (asked (mapped sJob [0]) (.unmap job0 0 1))).any [0].contains = false
    ∧ nx (exec (.unmap job0 0 1) (mapped sJob [0])) (fun t => (t.page 0).state = .unmapped) = true
    ∧ inTurn (mapped sJob [0]) (cPut 0xFFFFD) = true
    ∧ nx (exec (cPut 0xFFFFD) (mapped sJob [0])) (fun t => readByte t 0xFFFFF = 3 && Memory.get t.mem (8 * 2 ^ 20 - 1) = 3) = true
    ∧ nx (exec (cPut 0xFFFFE) (mapped sJob [0])) (fun t => t.mem = []) = true := by
  decide +kernel

/-- No granule of a mapped page that nothing marks is uncovered. -/
theorem uncovered_mapped (s : State) (as : List Nat) (h : ∀ p, (s.page p).state ≠ .damaged ∧ (s.page p).state ≠ .migrating) (x : Nat) :
    uncovered s as x = false := by
  unfold uncovered
  split
  · next p o _ => simp [(h p).1, (h p).2]
  · rfl

theorem test_registerRequests : jobBlock 0x300000 = true ∧ jobBlock 0xC00010 = false ∧ inTurn sJob (.jobRegread job0 0x300000) = true
    ∧ inTurn sJob (.jobRegwrite job0 0x300800 0x0A) = true ∧ (readReg (asked sJob (.jobRegread job0 0x300000)) 0x300000).isSome = true
    ∧ readReg (asked sJob (.jobRegread job0 0x3FFFF8)) 0x3FFFF8 = none ∧ sJob.sec.frisket.jobView.getLsbD 2 = true
    ∧ nx (exec (.jobRegread job0 0x300000) sJob) (fun t => t.out.length = 1 && t.sec.frisketViol = 0) = true
    ∧ nx (exec (.jobRegread job0 0xC00010) sJob) (fun t => t.sec.frisketViol = 1) = true
    ∧ nx (exec (.jobRegwrite job0 0xC00010 0) sJob) (fun t => t.sec.frisketViol = 1) = true
    ∧ nx (exec (.jobRegwrite job0 0x300800 0x0A) sJob) (fun t => (t.ctx 0).lscale.lsExp = 10) = true := by
  decide +kernel

def sRest : State := sJob.setCtx 0 { state := .quiesced, rstep := 9, completed := [(6, 8)], shards := [3] }
def withShard (st : EdState) : State :=
  { sRest with shards := [(3, { valid := true, win := 500, span := 1, settled := some 5 })], eds := [(0, { state := .committed, shard := 3, number := 4 }), (1, { state := st, shard := 3, number := 5 })] }
def sFlumeOne (st : FlumeState) : State := { sJob with flumes := [(1, { cfg := flCfg 3 0 0 0 0 0, state := st })] }
def rolled : State := asked (withShard .committed) (.rollback job0 0 4)
theorem test_recoveryRequests : inTurn sRest (.rewind job0 0 7 true true) = true ∧ inTurn sRest (.abandon job0 0) = true
    ∧ inTurn (withShard .committed) (.rollback job0 0 4) = true ∧ inTurn (sFlumeOne .closed) (.fopen job0 1) = true
    ∧ inTurn (sFlumeOne .openF) (.fclose job0 1 false) = true ∧ inTurn sJob (.jobSubscribe job0 true) = true
    ∧ atRest ((asked sRest (.abandon job0 0)).ctx 0) = true ∧ atRest (sFl.ctx 0) = false
    ∧ fopenRefusal sFl 1 = some (3, [1]) ∧ fopenRefusal (asked (sFlumeOne .closed) (.fopen job0 1)) 1 = none
    ∧ nx (exec (.fopen job0 1) (sFlumeOne .closed)) (fun t => (t.flume 1).state = .openF) = true
    ∧ nx (exec (.fclose job0 1 false) (sFlumeOne .openF)) (fun t => (t.flume 1).state = .closed) = true
    ∧ nx (exec (.fclose job0 1 false) sJob) (fun t => t.flumes.isEmpty && t.out.length = 1) = true
    ∧ nx (exec (.rewind job0 0 7 true true) sRest) (fun t => (t.ctx 0).rstep = 7) = true
    ∧ nx (exec (.abandon job0 0) (withShard .pending)) (fun t => (t.ed 1).state = .free && (t.ed 0).state = .committed) = true
    ∧ keptEds rolled 3 4 ≠ [] ∧ (updatedShards rolled 0).find? (fun sh => (keptEds rolled sh 3).isEmpty) = some 3
    ∧ nx (exec (.rollback job0 0 4) (withShard .committed)) (fun t => (t.ed 1).state = .free && (t.shard 3).settled = some 4 && (t.ctx 0).completed = [(6, 4)]) = true
    ∧ nx (exec (.jobSubscribe job0 true) sJob) (fun t => (t.session 0 0).subscribed) = true := by
  decide +kernel

/-- A request waits behind one that waits, a seventeenth is refused at once, and a request that waited goes on in the next tick (R369). -/
def sWaits (n : Nat) : State := sJob.setSession 0 0 { sess0 with requests := List.replicate n (.unload job0 0), acted := true }
theorem test_requestsWait : nx (exec (.jobSubscribe job0 true) (sWaits 15)) (fun t => (t.session 0 0).requests.length = 16 && t.out.isEmpty) = true
    ∧ nx (exec (.jobSubscribe job0 true) (sWaits 16)) (fun t => (t.session 0 0).requests.length = 16 && t.out.length = 1) = true
    ∧ nx (step (sJob.setSession 0 0 { sess0 with requests := [.jobSubscribe job0 true] })) (fun t => (t.session 0 0).subscribed && (t.session 0 0).requests.isEmpty) = true := by
  decide +kernel

/-! ### The Miller -/

/-- An unenrolled part: the request carries its keys. -/
def milNet : Datagram := { src := src0, dst := .own own0, dstPort := 47211 }
def mh (signer : BitVec 2) (seq : W64) : MilHdr := ⟨milNet, signer, 5, seq, true, 21, 22, true, true, true⟩
def sMil : State := { sJob with mil := { sJob.mil with netCfg := 47211 <<< 10 ||| 1, ip4 := 0x0A000001, neigh := [(src0.addr, 1)], lastOwner := 3, lastOperator := 3 } }
def noJob (s : State) : State := { s with sec := { s.sec with phase := .noJob, jobId := 0, keySlot := false } }
theorem test_requestChecks : MilTurn sMil (mh 2 4) 0x10 .either ∧ MilTurn sMil (mh 2 4) 0x11 .operator ∧ MilTurn sMil (mh 3 4) 0x40 .both
    ∧ signaturesOk sMil { mh 2 4 with operatorSigOk := false } = false ∧ Signers.operator.allows (mh 1 4).signer = false
    ∧ millerPacket sMil { milNet with tags := [1] } = false
    ∧ nx (exec (.regread { mh 2 4 with formOk := false } 0xC00010 1) sMil) (fun t => t.out = [.mreply src0 0x10 4 6 []] && t.mil.lastOperator = 3) = true
    ∧ nx (exec (.regread { mh 2 4 with bootId := 6 } 0xC00010 1) sMil) (fun t => t.mil.replay = 1 && t.out.isEmpty) = true
    ∧ nx (exec (.regread { mh 2 4 with operatorSigOk := false } 0xC00010 1) sMil) (fun t => t.mil.refused = 1 && t.mil.lastOperator = 3) = true
    ∧ nx (exec (.regwrite (mh 1 4) 0xC00010 1 1) sMil) (fun t => t.mil.refused = 1) = true
    ∧ nx (exec (.regread (mh 2 2) 0xC00010 1) sMil) (fun t => t.mil.replay = 1) = true
    ∧ nx (exec (.regread (mh 2 3) 0xC00010 1) sMil) (fun t => t.out = [.mreply src0 0x10 3 2 []]) = true
    ∧ nx (exec (.regread (mh 2 4) 0xC00010 1) sMil) (fun t => t.mil.lastOperator = 4 && t.mil.lastOwner = 3) = true := by
  unfold MilTurn; decide +kernel

def ev0 : Event := { time := 1, seq := 7, code := 0x502, severity := 2, ptp := false, copy := false, scope := 0, scopeId := 0, detail := [] }
def withEv : State := { sMil with mil := { sMil.mil with ring := [ev0] } }
theorem test_millerReads : millerHears sMil 1 = true ∧ (readReg (takeRequest (mh 2 4) sMil) 0xC00010).isSome = true
    ∧ nx (exec (.millerHello (mh 0 0)) sMil) (fun t => t.out = [.mreply src0 1 0 0 [5, 1, 7, 0, 3, 3, 0, 0]]) = true
    ∧ nx (exec (.regread (mh 2 4) 0xC00010 0) sMil) (fun t => t.out = [.mreply src0 0x10 4 6 []]) = true
    ∧ nx (exec (.evread (mh 2 4) false 7) withEv) (fun t => t.out = [.mevents src0 4 [ev0]] && t.mil.readTo = 7) = true
    ∧ nx (exec (.evread (mh 2 4) false 8) withEv) (fun t => t.out = [.mevents src0 4 []]) = true
    ∧ nx (exec (.defread (mh 2 4) 0) { sMil with boot := { sMil.boot with defects := [⟨8, 3, 1, 1, 9, 0⟩] } }) (fun t => t.out = [.mreply src0 0x22 4 0 [8, 3, 1, 1, 9, 0]]) = true
    ∧ subPlace (takeRequest (mh 2 4) sMil) src0 = some 0
    ∧ nx (exec (.subscribe (mh 2 4) 255 60000 [0xC00010]) sMil) (fun t => (Tbl.find? t.mil.subs 0).any (fun x => x.minSeverity == 256 && x.periodMs == 60000)) = true
    ∧ nx (exec (.subscribe (mh 2 4) 0 9 []) sMil) (fun t => t.mil.subs.isEmpty) = true := by
  decide +kernel

def sub0 : Subscription := { dst := src0, minSeverity := 0, periodMs := 10, offsets := [0x400008] }
def withSub (link : Bool) : State := { sMil with mil := { sMil.mil with subs := [(0, sub0)], link := link, netCfg := 47211 <<< 10 ||| 3 } }
theorem test_millerPushes : nx (exec (.telemetryPush 0) (withSub true)) (fun t => t.out.length = 1 && t.mil.telemSkipped = 0) = true
    ∧ nx (exec (.telemetryPush 0) (withSub false)) (fun t => t.out.isEmpty && t.mil.telemSkipped = 1) = true
    ∧ nx (exec (.subscriptionLapse 0) (withSub true)) (fun t => t.mil.subs.isEmpty) = true
    ∧ (joinAssembly sMil 0x30 4 true 2000).isSome = true
    ∧ nx (exec (.continuationPart milNet 0x30 4 true 2000 0 1016 true) sMil) (fun t => t.mil.assemblies.map (fun a => a.2.parts) = [[(0, 1016)]]) = true
    ∧ nx (exec (.assemblyTimeout 0) (after (.continuationPart milNet 0x30 4 true 2000 0 1016 true) sMil)) (fun t => t.mil.assemblies.isEmpty) = true
    ∧ nx (exec (.continuationPart milNet 0x30 4 false 20 0 20 false) sMil) (fun t => t.mil.assemblies.isEmpty && t.out = [.mreply src0 0x30 4 6 []]) = true
    ∧ nx (exec (.ptpMessage 0 77 true) (withSub true)) (fun t => t.mil.ptpNs = 77 && t.mil.ptpLocked) = true
    ∧ nx (exec (.ptpMessage 1 77 true) (withSub true)) (fun t => t.mil.ptpNs = 0) = true
    ∧ nx (exec .energyEvent (sMil.setSession 0 0 { sess0 with subscribed := true })) (fun t => t.out.length = 1) = true := by
  decide +kernel

theorem test_registersWrite : (match writeReg 0x000 700 (maskAt 0 12) true (takeRequest (mh 2 4) sMil) with | .done t => t.pwr.capW == 700 | _ => false) = true ∧ readReg (takeRequest (mh 2 4) sMil) 0xDFFFF8 = none
    ∧ nx (exec (.regwrite (mh 2 4) 0xDFFFF8 1 1) sMil) (fun t => t.out = [.mreply src0 0x11 4 9 []] && t.mil.ring.length = 1) = true
    ∧ nx (exec (.capWWrite (mh 2 4) 700 (maskAt 0 12)) sMil) (fun t => t.pwr.capW = 700 && t.out = [.mreply src0 0x11 4 0 []]) = true
    ∧ nx (exec (.capWWrite (mh 2 4) 699 (maskAt 0 12)) sMil) (fun t => t.pwr.capW = 1700 && t.out = [.mreply src0 0x11 4 3 []]) = true
    ∧ nx (exec (.capWWrite (mh 2 4) 1701 (maskAt 0 12)) sMil) (fun t => t.pwr.capW = 1700) = true
    ∧ nx (exec (.paceEnWrite (mh 2 4) true) sMil) (fun t => t.pwr.paceEn) = true
    ∧ nx (exec (.estClear (mh 2 4)) { sMil with pwr := { sMil.pwr with estFault := true, ceilCode := 90 } }) (fun t => !t.pwr.estFault && t.pwr.ceilCode = 100) = true
    ∧ nx (exec (.retrain (mh 2 4) 0) { sMil with races := [(0, race0)], racePorts := [(0, { cfg := 1 })] }) (fun t => (t.race 0).state = .retraining && (t.race 0).wide && (t.racePort 0).retrains = 1) = true
    ∧ nx (exec (.takeover (mh 2 4)) { sMil with pair := { sMil.pair with pairEn := true, phase := .paired } }) (fun t => t.pair.phase = .takingOver || t.pair.phase = .sole) = true
    ∧ nx (exec (.leave (mh 2 4)) { sMil with pair := { sMil.pair with pairEn := true, phase := .paired } }) (fun t => t.pair.phase = .left) = true := by
  decide +kernel

theorem test_registersClear : nx (exec (.rcRegisterRead 0xA00050) { sMil with mm := { sMil.mm with ce := 4, ue := 5 } }) (fun t => t.mm.ce = 0 && t.mm.ue = 0) = true
    ∧ rcMask 0xC00010 = 0 ∧ stepOpen sMil 0 = false ∧ stepOpen (sMil.setCtx 0 { state := .running, steps := [(3, { dispatched := true })] }) 0 = true
    ∧ nx (exec (.edLscaleWrite 0 0x0A (maskAt 0 64)) sMil) (fun t => (t.ctx 0).lscale.lsExp = 10) = true
    ∧ nx (exec (.edLscaleWrite 0 0x0A (maskAt 0 64)) (sMil.setCtx 0 { state := .running, steps := [(3, { dispatched := true })] })) (fun t => (t.ctx 0).lscale.lsExp = 0 && t.mil.ring.length = 1) = true
    ∧ nx (exec (.registerWrite 0x400008 7 (maskAt 0 64) false) sMil) (fun t => t.galley.periodMs = 7) = true
    ∧ nx (exec (.registerWrite 0xA00048 9 (maskAt 0 64) false) sMil) (fun t => t.mm.reserveNext = 9) = true
    ∧ (readReg sMil 0x400008).isSome = true ∧ (writeBlock 0x400008 7 (maskAt 0 64) false sMil).isSome = true ∧ (writeBlock 0x400008 0 (maskAt 0 64) false sMil).isNone = true
    ∧ nx (exec (.registerWrite 0xDFFFF8 1 1 true) sMil) (fun t => t.mil.ring.length = 1) = true
    ∧ (readReg sMil 0x000).isSome = true ∧ nx (exec (.registerWrite 0x000 700 (maskAt 0 12) false) sMil) (fun t => t.pwr.capW = 1700 && t.mil.ring.length = 1) = true := by
  decide +kernel

/-! ### The job's life, firmware, power -/

def bundle0 (serialHash : W256) (kcv : Bool) : Bundle := ⟨11, 7, 1, [⟨1, false, 0, 0xFFFF, serialHash⟩], true, kcv⟩
theorem test_jobsStart : isReady sMil = true ∧ (noJob sMil).sec.phase = .noJob ∧ bundleOk (noJob sMil) (bundle0 1 true) = true ∧ bundleOk (noJob sMil) (bundle0 2 true) = false
    ∧ nx (exec (.admission (mh 2 4) (bundle0 1 true)) (noJob sMil)) (fun t => t.sec.phase = .admitted && t.sec.jobId = 11 && t.sec.scrubPending && t.out.any (fun o => o matches .mreply ..)) = true
    ∧ nx (exec (.admission (mh 2 4) (bundle0 2 true)) (noJob sMil)) (fun t => t.sec.phase = .noJob && t.sec.admitRefused = 1) = true
    ∧ nx (exec (.admission (mh 2 4) (bundle0 1 false)) (noJob sMil)) (fun t => t.sec.phase = .noJob && !t.sec.keySlot) = true
    ∧ nx (exec (.endJob (mh 1 4)) sMil) (fun t => t.sec.phase = .scrubbing && t.sec.endedJob = 9 && !t.sec.keySlot) = true
    ∧ nx (exec (.endJob (mh 1 4)) (noJob sMil)) (fun t => t.sec.phase = .noJob && t.mil.lastOwner = 4) = true
    ∧ nx (exec (.quiesce (mh 2 4) 1) (sMil.setCtx 0 { state := .running })) (fun t => (t.ctx 0).state ≠ .running && t.mil.holds = [(16, 0)]) = true
    ∧ nx (exec (.resume (mh 2 4) 1) { (sMil.setCtx 0 { state := .quiesced }) with mil := { sMil.mil with holds := [(16, 0)] } }) (fun t => (t.ctx 0).state = .running && t.mil.holds = []) = true := by
  decide +kernel

def frisk1 : FrisketRec := { factoryFrisket with seq := 1, ownerHash := 21, operatorHash := 22 }
def frisk2 : FrisketRec := { frisk1 with seq := 2 }
def enrolledMil : State := { sMil with sec := { sMil.sec with frisket := frisk1 } }
def scrubbing : State := { withMem sMil [(5, 6)] with sec := { sMil.sec with phase := .scrubbing, endedJob := 9 } }
def guest0 : State :=
  { sMil with part := { sMil.part with guestBuild := true }, mem := Memory.setAll [] [(7 * 2 ^ 20 + 3, 9)]
              sec := { sMil.sec with guestWait := true, windowsOpen := true, frisket := { factoryFrisket with gwin := [⟨true, true, true, false, 0, 1⟩] } } }
theorem test_frisketAndScrub : frisketCheck (noJob sMil) (mh 3 4) frisk1 true = 0 ∧ frisketCheck enrolledMil (mh 3 4) frisk2 true = 0
    ∧ nx (exec (.frisket (mh 3 4) frisk2 true) enrolledMil) (fun t => t.sec.frisket = frisk1 && t.sec.pendingFrisket = some frisk2) = true
    ∧ scrubbing.sec.guestWait = false ∧ scrubbing.sec.heldAdmit = none ∧ scrubbing.mm.retiring = []
    ∧ nx (exec (.scrub [] [] [] [] 5) scrubbing) (fun t => t.mem = [] && t.sec.phase = .noJob && t.sec.scrub.jobId = 9 && !t.sec.scrubPending) = true
    ∧ guest0.sec.guestWait = true ∧ nx (exec (.guestScrubConfirm false) guest0) (fun t => t.sec.guestResult = 2 && t.sec.guestHeld) = true
    ∧ guestWindow (mapped guest0 [0]) false 3 2 = true ∧ guestWindow (mapped guest0 [0]) false (2 ^ 20 - 1) 2 = false ∧ rangeErr (readErr (mapped guest0 [0])) 3 2 = none
    ∧ nx (exec (.guestAccess false 3 [0, 0]) (mapped guest0 [0])) (fun t => said t = [.guestData [9, 0]]) = true
    ∧ (writeMem (mapped guest0 [0]) (cellsAt 3 [1])).2 = none ∧ nx (exec (.guestAccess true 3 [1]) (mapped guest0 [0])) (fun t => readByte t 3 = 1) = true
    ∧ nx (exec (.guestAccess false 0xFFFFF [0, 0]) (mapped guest0 [0])) (fun t => said t = [.guestError] && t.sec.guestDenied = 1) = true := by
  decide +kernel

def img0 (ok : Bool) : FwImage := ⟨.spur, 1, 44, ok⟩
def fwState (x : Option Staging) : State :=
  { sMil with sec := { sMil.sec with frisket := { factoryFrisket with keypol := 2 } }, boot := { sMil.boot with staging := x } }
def stg (have_ : List Nat) (v : Option Nat) : Staging := { fromPort := true, imageId := 3, blocks := 4, have_ := have_, img := img0 true, verified := v }
theorem test_firmwareArrives : nx (exec (.fwdata 0 d0 3 1 4 true false [7] (img0 true)) (fwState none)) (fun t => t.boot.staging.any (fun x => x.have_ == [1] && x.data == [(1, [7])] && x.verified.isNone)) = true
    ∧ runs (.fwdata 0 d0 3 1 4 true true [7] (img0 true)) (fwState none) (fwState none) = true ∧ portHears (fwState none) 0 = true ∧ packetOk (fwState none) 0 true d0 = true
    ∧ nx (exec (.fwdata 0 d0 3 0 1 true false [] (img0 true)) (fwState none)) (fun t => t.boot.staging.any (fun x => x.verified == some 1)) = true
    ∧ nx (exec (.fwdata 0 d0 3 0 1 true false [] (img0 false)) (fwState none)) (fun t => t.boot.staging.any (fun x => x.verified == some 2)) = true
    ∧ nx (exec .firmwareStagingIdle (fwState (some (stg [1] none)))) (fun t => t.boot.staging.any (·.idle)) = true
    ∧ nx (exec (.fwstatus 0 { d0 with udpLen := 1104 } 3) (fwState (some (stg [] (some 1))))) (fun t => said t = [inIp t 0 src0.addr (.fwstatus 0 src0 1)]) = true
    ∧ nx (exec (.fwstatus 0 { d0 with udpLen := 1104 } 3) (fwState (some (stg [1] none)))) (fun t => (t.host 0).fwQueries = [src0]) = true
    ∧ (stg [1] none).missing = [0, 2, 3]
    ∧ nx (exec (.fwrepair 0) ((fwState (some (stg [1] none))).updHost 0 (fun h => { h with fwQueries := [src0] }))) (fun t => said t = [inIp t 0 src0.addr (.fwrepair 0 src0 3 0 3 [0, 2, 3])]) = true := by
  decide +kernel

def noCal : CalSet := ⟨[], [], [], [], [], 5⟩
def goodCal : CalSet := ⟨List.replicate 4 typicalTs, List.replicate 4 typicalK, [], [], [1, 2, 3, 4], 5⟩
def recalAt (n : Nat) (x : Option CalSet) : State := { sMil with boot := { sMil.boot with calPhase := n, calStaged := x } }
theorem test_firmwareAndCalibration : nx (exec (.fwstage (mh 2 4) (img0 true)) sMil) (fun t => t.boot.staging.any (fun x => x.verified == some 1)) = true
    ∧ nx (exec (.fwstage (mh 2 4) (img0 false)) sMil) (fun t => t.boot.staging.isNone && said t = [.mreply src0 0x50 4 5 [2]]) = true
    ∧ nx (exec (.fwactivate (mh 2 4) .spur) (noJob (fwState (some (stg [] (some 1)))))) (fun t => (t.boot.fw.getD 1 {}).b = (1, 44) && (t.boot.fw.getD 1 {}).preferB) = true
    ∧ nx (exec (.restart (mh 2 4)) sMil) (fun t => t.boot.stage = 7 && said t = [.mreply src0 0x52 4 3 []]) = true
    ∧ nx (exec (.restart (mh 2 4)) (withMem (noJob sMil) [(5, 6)])) (fun t => t.boot.stage = 0 && t.boot.bootNo = 1 && t.mem = []) = true
    ∧ nx (exec (.recal (mh 3 4) 1) (noJob sMil)) (fun t => t.boot.calPhase = 1) = true
    ∧ nx (exec (.recalabort (mh 2 4)) { sMil with boot := { sMil.boot with calPhase := 3 } }) (fun t => t.boot.calPhase = 0 && t.boot.calResult = 3) = true
    ∧ recalRuns { sMil with boot := { sMil.boot with calPhase := 4 } } = true
    ∧ (∀ n < 4, recalPaces sMil n typicalTs typicalK = true)
    ∧ nx (exec (.recalDone 3 false noCal) (recalAt 1 none)) (fun t => t.boot.calPhase = 3) = true
    ∧ nx (exec (.recalDone 4 true goodCal) (recalAt 3 none)) (fun t => t.boot.calPhase = 4 && t.boot.calStaged = some goodCal) = true
    ∧ nx (exec (.recalDone 5 true goodCal) (recalAt 4 (some goodCal))) (fun t => t.boot.stage = 3 && (t.stone 2).cMax = 3 && t.boot.calResult = 1) = true
    ∧ nx (exec (.recalDone 4 false noCal) (recalAt 3 none)) (fun t => t.boot.calResult = 2 && t.boot.stage = 7) = true := by
  decide +kernel

/-- Stone 0 is in service. -/
def sPow : State := { sMil with boot := { sMil.boot with stonesEn := 1 } }
theorem test_powerIsControlled : liveStones sPow = [0] ∧ nx (exec (.controllerPeriod 100 [300]) sPow) (fun t => (t.stone 0).powerW = 300 && t.pwr.energyUj = 40000 && t.pwr.fixedW = 100) = true
    ∧ runs (.regulatorReading 1870) sPow sPow = true ∧ nx (exec (.regulatorReading 1871) sPow) (fun t => t.pwr.basis = some 1871 && t.pwr.capLimited) = true
    ∧ nx (exec (.throttleEstimate [1869]) (sPow.updStone 0 (fun x => { x with throttle := 3 }))) (fun t => (t.stone 0).throttle = 0) = true
    ∧ nx (exec (.throttleEstimate [2040]) (sPow.updStone 0 (fun x => { x with throttle := 3 }))) (fun t => (t.stone 0).throttle = 3) = true
    ∧ nx (exec (.estimatorFault 85 100) sPow) (fun t => t.pwr.disagreeRun = 0 && !t.pwr.estFault) = true
    ∧ nx (exec (.estimatorFault 84 100) { sPow with pwr := { sPow.pwr with disagreeRun := 50 } }) (fun t => t.pwr.estFault && t.pwr.ceilCode = 90 && t.pwr.estFaults = 1) = true
    ∧ nx (exec (.temperatureSample [105, 40, 40, 40] 40 [40, 40, 40, 40]) sPow) (fun t => (t.stone 0).throttle = 15 && (t.stone 1).temp = 40) = true
    ∧ nx (exec (.delaySettingChange 0 3) sPow) (fun t => (t.stone 0).row = 3 && (t.stone 0).hold = 64) = true
    ∧ nx (exec (.ageingSample 0 3 true 2700) sPow) (fun t => (t.stone 0).taps.getD 3 0 = 1 && (t.stone 0).trims = 1 && (t.stone 0).agePermil = 11) = true := by
  decide +kernel

/-! ### Faults -/

/-- Every Stone has 34 good Querns; Stone 0 serves with its first 32, and with the physical Quern that follows as a spare. -/
def sStone : State :=
  { (sMil.updStone 0 (fun x => { x with vcode := 100 })) with
    boot := { sMil.boot with stonesEn := 1, physOk := List.replicate 4 (List.replicate 34 true), quernMap := (List.range 32).map (fun i => (i, i)) } }
def fencedStone : State := after (.brownOut 0) (sStone.setCtx 0 { state := .running, groups := [[3]] })
theorem test_stonesFail : nx (exec (.stoneProbe 0 true) (sStone.updStone 0 (fun x => { x with probesMissed := 5 }))) (fun t => (t.stone 0).probesMissed = 0) = true
    ∧ nx (exec (.stoneProbe 0 false) (sStone.updStone 0 (fun x => { x with probesMissed := 6 }))) (fun t => (t.stone 0).probesMissed = 7 && !(t.stone 0).fenced) = true
    ∧ nx (exec (.stoneProbe 0 false) (sStone.updStone 0 (fun x => { x with probesMissed := 7 }))) (fun t => (t.stone 0).fenced && (t.quern 31).fenced && !(t.quern 32).fenced) = true
    ∧ (sStone.stone 0).vcode ≠ 0 ∧ (fencedStone.stone 0).fenced = true ∧ (fencedStone.ctx 0).state = .halted ∧ fencedStone.mil.holds = [(24, 0)]
    ∧ Tbl.find? sStone.mil.awaitStone 0 = none ∧ nx (exec (.stonereset (mh 2 4) 0) sStone) (fun t => (Tbl.find? t.mil.awaitStone 0).isSome && t.out.isEmpty) = true
    ∧ (okQuerns fencedStone 0).length = 34
    ∧ nx (exec (.stoneRecovery 0 ⟨true, List.replicate 34 true, true⟩) fencedStone) (fun t => !(t.stone 0).fenced && (t.quern 31).loaded && (t.ctx 0).state = .running) = true
    ∧ nx (exec (.stoneRecovery 0 ⟨false, [], true⟩) fencedStone) (fun t => t.boot.degraded && (t.ctx 0).state = .halted && t.mil.holds = []) = true := by
  decide +kernel

theorem test_quernsFail : Tbl.find? sStone.boot.quernMap 5 = some 5 ∧ (sStone.stone 0).fenced = false ∧ (sStone.quern 5).fenced = false
    ∧ spareOf (fenceQuern 5 5 sStone) 0 = some 32
    ∧ nx (exec (.quernFault 5 .spareOk) sStone) (fun t => Tbl.find? t.boot.quernMap 5 = some 32 && (t.quern 5).loaded && !(t.quern 5).fenced) = true
    ∧ spareOf (fenceQuern 5 5 { sStone with boot := { sStone.boot with physOk := List.replicate 4 (List.replicate 32 true) } }) 0 = none
    ∧ nx (exec (.quernFault 5 .spareOk) { sStone with boot := { sStone.boot with physOk := List.replicate 4 (List.replicate 32 true) } }) (fun t => t.boot.degraded && t.boot.stonesEn = 0) = true
    ∧ nx (exec (.quernFault 5 .corrected) sStone) (fun t => t.mm.ce = 1 && !(t.quern 5).fenced) = true
    ∧ nx (exec (.millerWatchdogReset true) (sMil.setCtx 0 { state := .running })) (fun t => (t.ctx 0).state = .halted && t.sec.keySlot && t.mil.wdogResets = 1) = true
    ∧ nx (exec (.millerWatchdogReset false) (sMil.setCtx 0 { state := .running })) (fun t => (t.ctx 0).state = .draining && (t.ctx 0).resumeAfterDrain && t.mil.lastOwner = 0) = true := by
  decide +kernel

/-- Page 0 lies behind frame 7. -/
def sPage (bad : List Nat) (l : List Nat) (mem : List (Nat × W8)) : State :=
  { (mapped sMil [0]) with
    mem := Memory.setAll [] mem
    mm := { (mapped sMil [0]).mm with
      imp := Tbl.mapV (mapped sMil [0]).mm.imp (fun _ e => if bad.isEmpty then e else { e with state := .damaged }), unreadable := if bad.isEmpty then [] else [(7, bad)]
      retiring := l } }
theorem test_memoryFails : ((sPage [] [] []).page 0).state = .mapped ∧ pagesOf (sPage [] [] []) 7 = [0] ∧ ((sPage [] [] []).page 0).frame = 7
    ∧ nx (exec (.uncorrectableError 0 (.granule 3) .miller) (sPage [] [] [])) (fun t => (t.page 0).state = .damaged && t.badGranules 0 = [3] && t.mm.retiring = [7] && t.mm.ue = 1) = true
    ∧ nx (exec (.uncorrectableError 0 (.granule 16383) (.reduction 0)) ((sPage [] [] []).setCtx 0 { state := .running })) (fun t => (t.ctx 0).state = .halted && t.badGranules 0 = [16383]) = true
    ∧ Memory.wf (sPage [3] [7] [(7 * 2 ^ 20 + 191, 5), (7 * 2 ^ 20 + 192, 9)]).mem = true ∧ reserveFrame (sPage [3] [7] []) 0 = some 131008
    ∧ ((sPage [3] [7] []).page 0).state = .damaged
    ∧ nx (exec (.pageMigration 0 256 []) (sPage [3] [7] [(7 * 2 ^ 20 + 191, 5), (7 * 2 ^ 20 + 192, 9)])) (fun t => t.mem = [(131008 * 2 ^ 20 + 191, 5)] && (t.page 0).frame = 131008
        && (t.page 0).state = .damaged && t.mm.retired = [7] && t.mm.retiring.isEmpty) = true
    ∧ (sPage [3] [7] []).mm.migr.find? 7 = none
    ∧ nx (exec (.pageMigration 0 1 []) (sPage [3] [7] [(7 * 2 ^ 20 + 191, 5), (7 * 2 ^ 20 + 192, 9), (7 * 2 ^ 20 + 4096, 6)])) (fun t => (t.page 0).state = .migrating && (t.page 0).frame = 7
        && readByte t 191 = 5 && readByte t 192 = 0 && readByte t 4096 = 6) = true
    ∧ nx (exec (.uncorrectableError 0 (.corrected 3) .miller) (sPage [] [] [])) (fun t => t.mm.ce = 1 && (t.page 0).cecount = 1) = true
    ∧ nx (exec (.uncorrectableError 0 (.entry true) .miller) (sPage [] [] [])) (fun t => (t.mm.impB.getD 0 {}).frame = 7) = true
    ∧ nx (exec (.uncorrectableError 0 (.entry false) .miller) (sPage [] [] [])) (fun t => (t.page 0).state = .unmapped) = true
    ∧ nx (exec (.uncorrectableError 0 .entryBoth .miller) ((sPage [] [] []).setCtx 0 { state := .running })) (fun t => (t.ctx 0).state = .halted) = true
    ∧ nx (exec (.rowRemap ⟨0, 0, 1, 2, 7⟩ none) (sPage [] [] [])) (fun t => t.mm.sparesUsed.map (·.2) = [1] && t.mm.retiring.isEmpty) = true
    ∧ rowFrame ⟨0, 0, 1, 2, 7⟩ = 7 ∧ bankKey ⟨0, 0, 1, 2, 7⟩ = 18
    ∧ nx (exec (.rowRemap ⟨0, 0, 1, 2, 7⟩ none) { (sPage [] [] []) with mm := { (sPage [] [] []).mm with sparesUsed := [(18, 8)] } }) (fun t => t.mm.retiring = [7]) = true := by
  decide +kernel

theorem test_waysAndBonds : backed (sPage [] [] []) 0 = true ∧ (sPage [] [] []).mm.waysHit = [] ∧ (sPage [] [] []).mm.waysOff = []
    ∧ nx (exec (.storeUncorrectable 0 0 3 .clean .miller) (sPage [] [] [])) (fun t => t.mm.ue = 1 && t.mm.waysHit.length = 1 && t.mm.waysOff.isEmpty) = true
    ∧ nx (exec (.storeUncorrectable 0 0 3 .corrected .miller) (sPage [] [] [])) (fun t => t.mm.ce = 1) = true
    ∧ nx (exec (.storeUncorrectable 0 0 3 .dirty .miller) (sPage [] [] [])) (fun t => t.mm.waysOff.length = 1) = true
    ∧ nx (exec (.patrolRead 7 [5] none) (sPage [] [] [])) (fun t => t.mm.ce = 1 && (t.page 0).cecount = 1) = true
    ∧ nx (exec (.patrolRead 7 [] (some 5)) (sPage [] [] [])) (fun t => (t.page 0).state = .damaged) = true
    ∧ pagesOf (sPage [] [] []) 8 = [] ∧ runs (.patrolRead 8 [] none) (sPage [] [] []) (sPage [] [] []) = true
    ∧ nx (exec (.bondFailure ⟨.stone 0, 255, 9⟩) sStone) (fun t => t.boot.sparesUsed.map (·.2) = [1] && t.boot.groupsOff = []) = true
    ∧ nx (exec (.bondFailure ⟨.bin 0, 63, 9⟩) { sStone with boot := { sStone.boot with sparesUsed := [(groupKey (.bin 0) 63, 32)] } }) (fun t => t.boot.groupsOff = [groupKey (.bin 0) 63]) = true := by
  decide +kernel

/-- A way that has failed once. -/
def hitOnce : State := { (sPage [] [] []) with mm := { (sPage [] [] []).mm with waysHit := [storeSet (7 * 2048) * 16 + 3] } }
theorem test_waySecondFailure : storeSet (7 * 2048) * 16 + 3 ∈ hitOnce.mm.waysHit ∧ (storeSet (7 * 2048), 3) ∉ hitOnce.mm.waysOff :=
  ⟨List.mem_singleton.mpr rfl, List.not_mem_nil⟩

/-! ### Board, bring-up, pair mode -/

def sOn : State := { withMem sMil [(5, 6)] with sec := { sMil.sec with scrubPending := true }, board := { sMil.board with control := true } }
theorem test_powerComesAndGoes :
    nx (exec .pwrgoodAssert State.reset) (fun t => t.board.pwrgood && t.boot.stage = 0 && t.boot.bootNo = 1 && t.mil.mstate = 0) = true
    ∧ nx (exec .pwrgoodDeassert sOn) (fun t => !t.board.pwrgood && !t.board.control && t.mem = [] && t.sec.phase = .noJob && t.sec.scrubPending && said t = [.control false]) = true
    ∧ nx (exec (.railMonitorTrip 3) sOn) (fun t => !t.board.pwrgood && t.mem = [] && t.mil.ring.map (·.detail) = [[3]]) = true
    ∧ nx (exec (.boundaryScan true) sOn) (fun t => t.board.scan && t.board.pwrgood && t.mem = []) = true
    ∧ nx (exec .testLogicReset (after (.boundaryScan true) sOn)) (fun t => !t.board.scan && t.boot.stage = 0 && t.boot.bootNo = 1) = true
    ∧ nx (exec .thermtrip (sOn.updStone 2 (fun x => { x with vcode := 100 }))) (fun t => t.board.thermtrip && (t.stone 2).vcode = 0 && said t = [.thermtrip true, .control false] && t.mem = sOn.mem) = true
    ∧ nx (exec .thermtripRelease { sOn with board := { sOn.board with thermtrip := true } }) (fun t => said t = [.thermtrip false]) = true
    ∧ nx (exec .vstbyLoss sOn) (fun t => !t.board.vstby && t.mem = [] && t.mil.ring.isEmpty && t.board.freset && t.board.fwp) = true := by
  decide +kernel

def clockLost : State := after (.referenceClockLoss 2) ((mapped sMil [0]).setCtx 0 { state := .running })
/-- Debug is permitted without a job only. -/
def dbgMil : State := { sMil with sec := { sMil.sec with frisket := { sMil.sec.frisket with dbg := 1 } } }
theorem test_clocksAndBuses : clockLost.board.haltedByClock = true ∧ (clockLost.ctx 0).state = .halted ∧ clockLost.board.refclk = 0xB
    ∧ nx (exec (.stoneProbe 0 false) clockLost) (fun t => (t.stone 0).probesMissed = 0) = true
    ∧ nx (exec (.referenceClockResume true false) clockLost) (fun t => (t.ctx 0).state = .running && t.board.intact && (t.page 0).state = .mapped) = true
    ∧ nx (exec (.referenceClockResume true true) clockLost) (fun t => (t.ctx 0).state = .halted && !t.board.intact && (t.page 0).state = .lost) = true
    ∧ nx (exec (.pmbusFailure (.telemetry 11)) sMil) (fun t => t.pwr.railLost = [11]) = true
    ∧ nx (exec (.pmbusFailure (.restored 11)) { sMil with pwr := { sMil.pwr with railLost := [4, 11] } }) (fun t => t.pwr.railLost = [4]) = true
    ∧ nx (exec (.pmbusFailure (.setpoint 0 true)) sStone) (fun t => (t.stone 0).fenced && !t.boot.degraded) = true
    ∧ nx (exec (.alert [(0x40, 2), (0x4B, 8)]) sMil) (fun t => t.out.length = 11 && t.board.statusWords = [(0x40, 2)]) = true
    ∧ nx (exec .xinLoss sMil) (fun t => !t.board.xin && !t.mil.link && t.pwr.railLost.length = 11) = true
    ∧ nx (exec .xinResume { sMil with board := { sMil.board with xin := false } }) (fun t => t.board.xin && t.pwr.railLost = []) = true
    ∧ debugPermitted dbgMil = false
    ∧ nx (exec (.debugInstruction 9) dbgMil) (fun t => !t.sec.debugOpen && t.sec.frisketViol = 1) = true
    ∧ debugPermitted (noJob dbgMil) = true
    ∧ nx (exec (.debugInstruction 9) (noJob dbgMil)) (fun t => t.sec.debugOpen) = true := by
  decide +kernel

def allValid : List (FwKind × Bool × Bool) := [(.miller, true, true), (.spur, false, true), (.quern, true, false), (.serdes, true, true)]
def booted : State := after (.millerBoot allValid true true [.octalDtr] []) (after .pwrgoodAssert State.reset)
/-- The list marks Forme 2, the fuses mark host port 1. -/
def marked : State := { booted with boot := { booted.boot with defects := [⟨10, 3, 0, 1, 2, 0⟩], fuses := [(12, 17)] } }
def binsDone (n : Nat) : State := { booted with boot := { booted.boot with stage := 2, binsTested := List.range n } }
def goodStone : StoneTest := ⟨true, List.replicate 34 true, []⟩
def atStage (n : Nat) : State := { sMil with boot := { sMil.boot with stage := n, fw := List.replicate 4 { valid := true } } }
theorem test_bringUpBoots : booted.boot.stage = 1 ∧ booted.mil.mstate = 1 ∧ booted.board.freset = false ∧ booted.board.flashMode = .octalDtr ∧ slotsPass (after .pwrgoodAssert State.reset) allValid .miller = (true, true)
    ∧ nx (exec (.millerBoot [] true true [] []) (after .pwrgoodAssert State.reset)) (fun t => t.boot.stage = 0 && t.mil.mstate = 2) = true
    ∧ nx (exec (.spurSelfTest false false [] [] [] []) booted) (fun t => t.boot.stage = 1 && t.boot.clockWait) = true
    ∧ nx (exec (.spurSelfTest true false [] [] [] []) booted) (fun t => t.boot.stage = 2) = true
    ∧ nx (exec (.spurSelfTest true false [] [3] [5] []) marked) (fun t => t.galley.disabled = [2, 3] && t.boot.fuseContra = 4 && (t.host 1).disabled && t.boot.defects.length = 3) = true
    ∧ nx (exec (.millerBoot allValid false true [] [0]) (after .pwrgoodAssert { marked with board := {}, boot := { marked.boot with calStaged := some goodCal } }))
        (fun t => t.boot.defects = [] && !t.boot.calInvalid && t.boot.calField && (t.stone 2).cMax = 3) = true
    ∧ imageRuns booted .spur = true ∧ imageRuns booted .serdes = true ∧ (booted.host 0).disabled = false ∧ markedUnits booted 0x0C = []
    ∧ nx (exec (.spurSelfTest true true [] [] [] []) booted) (fun t => t.boot.stage = 15 && t.boot.failStage = 1) = true
    ∧ nx (exec (.binTest 2 [] []) (withMem (binsDone 2) [(2 ^ 38, 5), (2 ^ 38 + 2 ^ 37, 6)])) (fun t => t.boot.stage = 2 && t.mem = [(2 ^ 38 + 2 ^ 37, 6)]) = true
    ∧ nx (exec (.binTest 3 [] []) (binsDone 3)) (fun t => t.boot.stage = 3) = true ∧ groupsOffIn (binsDone 3) 7 < 8
    ∧ nx (exec (.binTest 3 [] []) { (binsDone 3) with boot := { (binsDone 3).boot with calInvalid := true } }) (fun t => t.boot.stage = 15 && t.boot.failStage = 2) = true := by
  decide +kernel

theorem test_bringUpRuns : (atStage 3).boot.physOk.length = 4 ∧ (∀ i < 34, goodStone.pass.getD i false = true ∧ markedQuern (atStage 3) (physNo 2 i) = false)
    ∧ nx (exec (.stoneStartTest 2 goodStone) (atStage 3)) (fun t => t.boot.stage = 3 && Tbl.find? t.boot.quernMap 95 = some 99 && t.boot.stonesEn = 4) = true
    ∧ nx (exec (.stoneStartTest 3 goodStone) { atStage 3 with boot := { (atStage 3).boot with stonesTested := [0, 1, 2] } }) (fun t => t.boot.stage = 4) = true
    ∧ imageRuns (atStage 4) .quern = true ∧ nx (exec .firmwareBroadcast (atStage 4)) (fun t => t.boot.broadcast) = true
    ∧ nx (exec (.broadcastRepair []) { atStage 4 with boot := { (atStage 4).boot with broadcast := true, quernMap := [(5, 5)] } }) (fun t => t.boot.stage = 6 && (t.quern 5).loaded) = true
    ∧ nx (exec (.linkQualification []) (atStage 6)) (fun t => t.boot.linkDone) = true
    ∧ nx (exec (.ready 3000) { atStage 6 with boot := { (atStage 6).boot with linkDone := true } }) (fun t => t.boot.stage = 7 && t.boot.readyMs = 3000) = true
    ∧ nx (exec (.ready 3001) { atStage 6 with boot := { (atStage 6).boot with linkDone := true } }) (fun t => t.boot.stage = 15 && t.boot.failStage = 6) = true
    ∧ nx (exec (.ready 9) { atStage 6 with boot := { (atStage 6).boot with linkDone := true, degraded := true } }) (fun t => t.boot.stage = 8) = true := by
  decide +kernel

/-- Race 0 is a pair Race to the twin, member 2; page 262144, the mirror of page 0, is mapped. -/
def sPair : State :=
  { mapped sFl [0, 262144] with
    racePorts := [(0, { cfg := 7 })], pair := { sFl.pair with pairEn := true, phase := .paired, twinMember := 2, nextJsn := 9, applied := 4, sinceAck := 1 }
    sec := { sFl.sec with incs := [(2, 1), (3, 4)], members := [⟨2, false, 1, 3, 0⟩, ⟨3, false, 4, 2, 0⟩] } }
def tw (jsn : W48) : TwinHdr := ⟨hdr0, jsn, false⟩
def jRec (jsn : W48) : Instr := .jpush (tw jsn) 1 2 3 4
def atTwin : State := got hdr0 cCtl sPair
theorem test_journalApplies : (receive hdr0 cCtl sPair).2 = true ∧ isPairRace atTwin 0 = true ∧ pairActive atTwin = true ∧ atTwin.pair.stopped = false
    ∧ atTwin.pair.early = [] ∧ mirrorMapped atTwin 0 = true ∧ pairActive sPair = true ∧ atTwin.pair.applied = 4 ∧ atTwin.pair.ackJsn = 0
    ∧ nx (exec (jRec 5) sPair) (fun t => t.pair.applied = 5 && t.twinFlume 3 = (4, 0, 0, 0)) = true
    ∧ nx (exec (jRec 6) sPair) (fun t => t.pair.applied = 4 && t.pair.early.map (·.1) = [6]) = true
    ∧ nx (exec (.jwrite (tw 5) 0 3 [7]) sPair) (fun t => t.pair.applied = 5 && readByte t (2 ^ 38 + 6144) = 7) = true
    ∧ mirrorMapped atTwin 0 = true ∧ mirrorMapped atTwin 1 = false
    ∧ nx (exec (.jwrite (tw 5) 1 3 [7]) sPair) (fun t => t.pair.applied = 4 && t.pair.early.length = 1 && t.mil.ring.length = 1) = true
    ∧ nx (exec (.jflume (tw 5) 1 0 0 0 5) sPair) (fun t => t.pair.applied = 4 && t.pair.stopped) = true
    ∧ nx (exec (.jimp (tw 5) [⟨0, 1 <<< 59⟩]) sPair) (fun t => t.pair.applied = 5 && (t.page 262144).last) = true
    ∧ nx (exec (.jack (tw 0) 8) sPair) (fun t => t.pair.ackJsn = 8) = true ∧ nx (exec (.jack (tw 0) 9) sPair) (fun t => t.pair.ackJsn = 0) = true
    ∧ nx (exec .journalAckTimer sPair) (fun t => t.pair.sinceAck = 0 && (t.race 0).unacked.length + (t.race 0).queue.length = 1) = true := by
  decide +kernel

/-- Page 0 and its mirror are damaged in their first unit, and their frames hold nothing. -/
def torn : State :=
  { sPair with mm := { sPair.mm with imp := Tbl.mapV sPair.mm.imp (fun _ e => { e with state := .damaged }), unreadable := [(7, [0]), (262151, [40])] } }
theorem test_twinsFail : nx (exec (.twinLeave (tw 0) 1) sPair) (fun t => t.pair.phase = .sole && recordedInc t 2 = 2) = true
    ∧ ((got hdr0 cCtl sPair).race 0).peer = some (2, 1) ∧ paired atTwin 2 3 = true ∧ recordedInc atTwin 3 = 4
    ∧ nx (exec (.assume (tw 0) 3 5) sPair) (fun t => recordedInc t 3 = 5 && (t.race 0).assumed = [(3, 5)]) = true
    ∧ nx (exec (.assume (tw 0) 3 4) sPair) (fun t => recordedInc t 3 = 4 && (t.race 0).dropped = 1) = true
    ∧ nx (exec (.assume (tw 0) 3 5) { sPair with sec := { sPair.sec with self := 3 } }) (fun t => t.pair.phase = .left && (t.ctx 0).state = .halted) = true
    ∧ unitReadable atTwin 0 0 = true ∧ unitReadable (got hdr0 cCtl torn) 0 0 = false ∧ unitReadable (got hdr0 cCtl torn) 0 1 = true
    ∧ ((got hdr0 cCtl torn).page 0).state = .damaged ∧ ((got hdr0 cCtl torn).page 262144).state = .damaged
    ∧ runs (.rdata (tw 0) 0 0 false true []) torn (got hdr0 cCtl torn) = true
    ∧ nx (exec .pairHoldTimeout { sPair with races := [(0, { race0 with state := .failed })], pair := { sPair.pair with autoTko := false } }) (fun t => t.pair.phase = .isolated) = true
    ∧ nx (exec .pairHoldTimeout { sPair with races := [(0, { race0 with state := .failed })] }) (fun t => t.pair.phase = .sole) = true := by
  decide +kernel

def unit0 : List W8 := List.replicate 2048 0
def tornMirror (g : Nat) : State := { torn with mm := { torn.mm with unreadable := [(262151, [g])] } }
theorem test_mirrorRepair : unit0.length = 2048
    ∧ nx (exec (.rdata (tw 0) 0 0 false false unit0) (tornMirror 32)) (fun t => (t.page 262144).state = .damaged) = true
    ∧ nx (exec (.rdata (tw 0) 0 0 false false unit0) (tornMirror 31)) (fun t => (t.page 262144).state = .mapped) = true
    ∧ nx (exec (.rfetch (tw 0) 0 0 true) sPair) (fun t => (t.race 0).unacked.length + (t.race 0).queue.length = 1) = true := by
  decide +kernel

/-- The partitions of R524 do not overlap, and the last one ends where the reserved bytes begin. -/
theorem test_flashLayout : flashLayout.Pairwise (fun a b => a.1 + a.2 ≤ b.1) ∧ (flashLayout.getLast?.map (fun p => p.1 + p.2)) = some 0x30000000 := by decide +kernel

/-! ### The machine as a whole -/

theorem test_step : nx (step (queued (.managementLinkLoss false) sMil)) (fun t => !t.mil.link && t.pending = []) = true
    ∧ nx (step sMil) (fun t => t.timeNs = sMil.timeNs + 40) = true := by
  decide +kernel

theorem test_frisketIsGuarded : nx (exec (.admission (mh 2 4) (bundle0 1 true)) { noJob enrolledMil with sec := { (noJob enrolledMil).sec with pendingFrisket := some frisk2 } })
      (fun t => t.sec.frisket = frisk2 && t.sec.pendingFrisket = none) = true := by
  decide +kernel

theorem test_componentsKept : nx (exec (.mcfg 0 iQuad) sQuad) (fun _ => true) = true ∧ Component.races ∉ touched (.mcfg 0 iQuad)
    ∧ Component.querns ∈ touched (.mcfg 0 iQuad) := by
  decide +kernel

theorem test_streamsStayLocal : issuer (.mcfg 0 iQuad) = some 0 ∧ nx (exec (.mcfg 0 iQuad) sQuad) (fun t => (t.quern 0).err = none) = true
    ∧ Memory.wf (vState .vrowstat iRow).mem = true ∧ Instr.vrowstat 0 iRow ∈ vStream 0 iRow ∧ nx (exec (.vrowstat 0 iRow) (vState .vrowstat iRow)) (fun t => t.mem ≠ (vState .vrowstat iRow).mem) = true
    ∧ (vStored (vState .vrowstat iRow) 0 (.vrowstat 0 iRow)).length ≠ 0 ∧ 0 ∉ vStored (vState .vrowstat iRow) 0 (.vrowstat 0 iRow) := by
  decide +kernel

end Sys2Proof.Tests
end

section
/-! # What no command changes

A command changes the queue, the part's identity and the Frisket only where the spec says so: the Frisket by FRISKET and by an
admission (R29, R450, R505), the queue and the identity not at all. The four stand together in `Guarded`. There is one lemma for each
function of the model that takes a state to a state, in the model's order: `guarded_f` says that `f` keeps them, `goes_f` that a
command or a part of one answers a next state with them kept. Each lemma rests on those of the functions that `f` calls. -/

namespace Sys2Proof.Machine

open Sys2Proof

/-! ## The guarded parts and how an outcome keeps them -/

/-- The parts of the state that only the two-party protocol and the stepper may change: the queue, the part's identity, the Frisket in
force and the pending one. -/
@[ext] structure Guarded where
  queue : List Instr
  part : Part
  frisket : FrisketRec
  waiting : Option FrisketRec

/-- The guarded parts of a state. -/
def State.guarded (s : State) : Guarded := ⟨s.pending, s.part, s.sec.frisket, s.sec.pendingFrisket⟩

/-- The guarded parts after an admission: a pending Frisket has come into force (R450). -/
def Guarded.afterAdmission (g : Guarded) : Guarded :=
  match g.waiting with
  | some f => { g with frisket := f, waiting := none }
  | none => g

/-- What a command other than FRISKET makes of guarded parts `g`: the same, or those after an admission. -/
abbrev KeptOrAdmitted (g h : Guarded) : Prop := h = g ∨ h = g.afterAdmission

@[simp] theorem guarded_update (s : State) {freeCtr timeNs mem mm querns ctxs hoppers pool nextEntry flumes eds shards galley races
    racePorts hosts mil boot pwr pair board grantStalls ipWait cookieSecret cookiePrev cookieEpoch stepEventBase stepEventLow out} :
    ({ s with freeCtr, timeNs, mem, mm, querns, ctxs, hoppers, pool, nextEntry, flumes, eds, shards, galley, races, racePorts, hosts,
              mil, boot, pwr, pair, board, grantStalls, ipWait, cookieSecret, cookiePrev, cookieEpoch, stepEventBase, stepEventLow,
              out } : State).guarded = s.guarded := by
  rfl

@[simp] theorem guarded_updateSec (s : State) {freeCtr timeNs mem mm querns ctxs hoppers pool nextEntry flumes eds shards galley races
    racePorts hosts mil boot pwr pair board grantStalls ipWait cookieSecret cookiePrev cookieEpoch stepEventBase stepEventLow out}
    {phase keySlot jobId endedJob seed self members incs scrubPending guestWait guestResult windowsOpen guestHeld debugOpen scrub
    coloSeq colophon frisketViol guestDenied admitRefused heldAdmit ctrs replay} :
    ({ s with freeCtr, timeNs, mem, mm, querns, ctxs, hoppers, pool, nextEntry, flumes, eds, shards, galley, races, racePorts, hosts,
              mil, boot, pwr, pair, board, grantStalls, ipWait, cookieSecret, cookiePrev, cookieEpoch, stepEventBase, stepEventLow, out,
              sec := { s.sec with phase, keySlot, jobId, endedJob, seed, self, members, incs, scrubPending, guestWait, guestResult,
                                  windowsOpen, guestHeld, debugOpen, scrub, coloSeq, colophon, frisketViol, guestDenied, admitRefused,
                                  heldAdmit, ctrs, replay } } : State).guarded = s.guarded := by
  rfl

@[simp] theorem guarded_ite (c : Prop) [Decidable c] (s t : State) :
    (if c then s else t).guarded = if c then s.guarded else t.guarded := apply_ite State.guarded c s t

@[simp] theorem guarded_ite_fst {α : Type} (c : Prop) [Decidable c] (p q : State × α) :
    (if c then p else q).1.guarded = if c then p.1.guarded else q.1.guarded := apply_ite (fun p : State × α => p.1.guarded) c p q

theorem guarded_of_fst {α : Type} {p : State × α} {s t : State} {a : α} (h : p = (t, a)) (hp : p.1.guarded = s.guarded) :
    t.guarded = s.guarded := by
  rw [← hp, h]

@[simp] theorem guarded_foldl {α : Type*} {f : State → α → State} (h : ∀ s x, (f s x).guarded = s.guarded) (l : List α) (s : State) :
    (l.foldl f s).guarded = s.guarded := by
  induction l generalizing s with
  | nil => rfl
  | cons x l ih => rw [List.foldl_cons, ih, h]

theorem guarded_foldl_fst {α β : Type} {f : State × β → α → State × β} (h : ∀ p x, (f p x).1.guarded = p.1.guarded) (l : List α)
    (p : State × β) : (l.foldl f p).1.guarded = p.1.guarded := by
  induction l generalizing p with
  | nil => rfl
  | cons x l ih => rw [List.foldl_cons, ih, h]

theorem guarded_elim {α : Type} {s : State} {f : α → State} (h : ∀ a, (f a).guarded = s.guarded) (o : Option α) :
    (o.elim s f).guarded = s.guarded := by
  cases o with
  | none => rfl
  | some a => exact h a

/-- The outcome is a next state, and its guarded parts satisfy `P`. -/
def GoesTo (P : Guarded → Prop) (r : Res) : Prop := ∃ t, r = .next t ∧ P t.guarded

/-- The outcome is a next state with the guarded parts of `s`. -/
abbrev Goes (s : State) (r : Res) : Prop := GoesTo (· = s.guarded) r

@[simp] theorem goesTo_next (P : Guarded → Prop) (t : State) : GoesTo P (.next t) ↔ P t.guarded := by simp [GoesTo]

@[simp] theorem goesTo_ite (P : Guarded → Prop) (c : Prop) [Decidable c] (q r : Res) :
    GoesTo P (if c then q else r) ↔ if c then GoesTo P q else GoesTo P r := by split <;> rfl

theorem GoesTo.imp {P Q : Guarded → Prop} {r : Res} (h : GoesTo P r) (hPQ : ∀ g, P g → Q g) : GoesTo Q r :=
  Exists.imp (fun _ ⟨hr, hP⟩ => ⟨hr, hPQ _ hP⟩) h

theorem Goes.of_guarded {s u : State} {r : Res} (h : Goes u r) (hu : u.guarded = s.guarded) : Goes s r := by
  unfold Goes at *
  rwa [← hu]

@[simp] theorem goesTo_whileClocked {P : Guarded → Prop} {s : State} {r : Res} (hs : P s.guarded) (hr : GoesTo P r) :
    GoesTo P (whileClocked s r) := by
  unfold whileClocked
  split
  · simpa using hs
  · exact hr

theorem goes_andThen {s : State} {r : Res} {f : State → State} (h : Goes s r) (hf : ∀ s, (f s).guarded = s.guarded) :
    Goes s (andThen r f) := by
  obtain ⟨t, rfl, ht⟩ := h
  simpa using (hf t).trans ht

/-! ## The state in the other answers of the model -/

/-- The state that an answer of the request level leaves: `s` where it waits. -/
def Answer.stateOr (s : State) : Answer → State
  | .wait => s
  | .done t _ _ => t

@[simp] theorem Answer.stateOr_wait (s : State) : Answer.wait.stateOr s = s := rfl
@[simp] theorem Answer.stateOr_done (s t : State) (a b) : (Answer.done t a b).stateOr s = t := rfl
@[simp] theorem Answer.stateOr_refuse (s t : State) (a b) : (refuse t a b).stateOr s = t := rfl
@[simp] theorem Answer.stateOr_ite (s : State) (c : Prop) [Decidable c] (a b : Answer) :
    (if c then a else b).stateOr s = if c then a.stateOr s else b.stateOr s := apply_ite ..

/-- The state that a reply of the Miller leaves. -/
def Reply.state : Reply → State
  | .now s _ _ => s
  | .form s _ => s
  | .later s => s

@[simp] theorem Reply.state_now (s : State) (a b) : (Reply.now s a b).state = s := rfl
@[simp] theorem Reply.state_form (s : State) (a) : (Reply.form s a).state = s := rfl
@[simp] theorem Reply.state_later (s : State) : (Reply.later s).state = s := rfl
@[simp] theorem Reply.state_ite (c : Prop) [Decidable c] (a b : Reply) :
    (if c then a else b).state = if c then a.state else b.state := apply_ite ..

@[simp] theorem Wrote.state_done (s : State) : (Wrote.done s).state = s := rfl
@[simp] theorem Wrote.state_ignored (s : State) : (Wrote.ignored s).state = s := rfl
@[simp] theorem Wrote.state_reserved (s : State) : (Wrote.reserved s).state = s := rfl

/-- Where `x` is a value and no error, `P` holds of it. -/
def Yields {ε α : Type} (P : α → Prop) : Except ε α → Prop
  | .ok a => P a
  | .error _ => True

section Yields
variable {ε α β : Type} {P : α → Prop}

@[simp] theorem yields_ok (P : α → Prop) (a : α) : Yields (ε := ε) P (.ok a) ↔ P a := .rfl
@[simp] theorem yields_error (P : α → Prop) (e : ε) : Yields P (.error e) ↔ True := .rfl

@[simp] theorem yields_bind (P : β → Prop) (x : Except ε α) (f : α → Except ε β) :
    Yields P (x >>= f) ↔ Yields (fun a => Yields P (f a)) x := by
  cases x <;> rfl

@[simp] theorem yields_true (x : Except ε α) : Yields (fun _ => True) x := by cases x <;> trivial

@[simp] theorem yields_ite (P : α → Prop) (c : Prop) [Decidable c] (x y : Except ε α) :
    Yields P (if c then x else y) ↔ if c then Yields P x else Yields P y := by split <;> rfl

theorem yields_of_forall (h : ∀ a, P a) (x : Except ε α) : Yields P x := by
  cases x with
  | ok a => exact h a
  | error e => trivial

theorem Yields.of_ok {x : Except ε α} {a : α} (h : Yields P x) (e : x = .ok a) : P a := by
  subst e
  exact h

theorem Yields.bind {Q : β → Prop} {x : Except ε α} {f : α → Except ε β} (hx : Yields P x) (hf : ∀ a, P a → Yields Q (f a)) :
    Yields Q (x >>= f) := by
  cases x with
  | ok a => exact hf a hx
  | error e => trivial

end Yields

/-- A name for a term. A proof that splits on the value of a large function of the model replaces the function by such a variable, so
that the kernel compares the branches without evaluating the function. -/
theorem asVariable {α : Sort*} (a : α) : ∃ b, b = a := ⟨a, rfl⟩

/-! ## Ops (`Machine/Ops`) -/

@[simp] theorem guarded_clockTick (s : State) : (clockTick s).guarded = s.guarded := by simp [clockTick]

@[simp] theorem guarded_setQuern (s : State) (q v) : (State.setQuern s q v).guarded = s.guarded := by simp [State.setQuern]

@[simp] theorem guarded_updQuern (s : State) (q f) : (State.updQuern s q f).guarded = s.guarded := by simp [State.updQuern]

@[simp] theorem guarded_setCtx (s : State) (c v) : (State.setCtx s c v).guarded = s.guarded := by simp [State.setCtx]

@[simp] theorem guarded_updCtx (s : State) (c f) : (State.updCtx s c f).guarded = s.guarded := by simp [State.updCtx]

@[simp] theorem guarded_setHopper (s : State) (h v) : (State.setHopper s h v).guarded = s.guarded := by simp [State.setHopper]

@[simp] theorem guarded_setEntry (s : State) (e v) : (State.setEntry s e v).guarded = s.guarded := by simp [State.setEntry]

@[simp] theorem guarded_updEntry (s : State) (e f) : (State.updEntry s e f).guarded = s.guarded := by
  unfold State.updEntry
  split <;> simp

@[simp] theorem guarded_setFlume (s : State) (f v) : (State.setFlume s f v).guarded = s.guarded := by simp [State.setFlume]

@[simp] theorem guarded_updFlume (s : State) (f g) : (State.updFlume s f g).guarded = s.guarded := by simp [State.updFlume]

@[simp] theorem guarded_setEd (s : State) (e v) : (State.setEd s e v).guarded = s.guarded := by simp [State.setEd]

@[simp] theorem guarded_setShard (s : State) (i v) : (State.setShard s i v).guarded = s.guarded := by simp [State.setShard]

@[simp] theorem guarded_setRace (s : State) (r v) : (State.setRace s r v).guarded = s.guarded := by simp [State.setRace]

@[simp] theorem guarded_updRace (s : State) (r f) : (State.updRace s r f).guarded = s.guarded := by simp [State.updRace]

@[simp] theorem guarded_setRacePort (s : State) (a v) : (State.setRacePort s a v).guarded = s.guarded := by simp [State.setRacePort]

@[simp] theorem guarded_setHost (s : State) (a v) : (State.setHost s a v).guarded = s.guarded := by simp [State.setHost]

@[simp] theorem guarded_updHost (s : State) (a f) : (State.updHost s a f).guarded = s.guarded := by simp [State.updHost]

@[simp] theorem guarded_setSession (s : State) (a n v) : (State.setSession s a n v).guarded = s.guarded := by simp [State.setSession]

@[simp] theorem guarded_setStone (s : State) (n v) : (State.setStone s n v).guarded = s.guarded := by simp [State.setStone]

@[simp] theorem guarded_updStone (s : State) (n f) : (State.updStone s n f).guarded = s.guarded := by simp [State.updStone]

@[simp] theorem guarded_emit (s : State) (o) : (State.emit s o).guarded = s.guarded := by simp [State.emit]

@[simp] theorem guarded_flashWrite (s : State) : (flashWrite s).guarded = s.guarded := by simp [flashWrite]

@[simp] theorem guarded_nextFree (s : State) : (State.nextFree s).guarded = s.guarded := by simp [State.nextFree]

@[simp] theorem guarded_enqueueSession (s : State) (a n cls f) : (enqueueSession s a n cls f).guarded = s.guarded := by
  simp [enqueueSession]

@[simp] theorem guarded_toSubscribers (s : State) (f) : (toSubscribers s f).guarded = s.guarded := by simp [toSubscribers]

@[simp] theorem guarded_recordEvent (s : State) (code scope id detail) : (recordEvent s code scope id detail).guarded = s.guarded := by
  simp [recordEvent]

@[simp] theorem guarded_logEvent (s : State) (code scope id detail) : (logEvent s code scope id detail).guarded = s.guarded := by
  simp [logEvent]

@[simp] theorem guarded_addDefect (s : State) (kind source action location detail) :
    (addDefect s kind source action location detail).guarded = s.guarded := by
  simp [addDefect]

@[simp] theorem guarded_setPage (s : State) (a e) : (State.setPage s a e).guarded = s.guarded := by simp [State.setPage]

@[simp] theorem guarded_eraseLine (s : State) (l) : (eraseLine l s).guarded = s.guarded := by simp [eraseLine]

@[simp] theorem guarded_shrinkSet (s : State) (set n k) : (shrinkSet set n k s).guarded = s.guarded := by
  induction k generalizing s with
  | zero => rfl
  | succ fuel ih =>
    unfold shrinkSet
    split
    · rfl
    · split <;> simp [ih]

@[simp] theorem guarded_setLine (s : State) (l v) : (setLine s l v).guarded = s.guarded := by simp [setLine]

@[simp] theorem guarded_useLine (s : State) (l) : (useLine s l).guarded = s.guarded := by
  unfold useLine
  split <;> simp

@[simp] theorem guarded_dropLine (s : State) (l) : (dropLine s l).guarded = s.guarded := by
  unfold dropLine
  split <;> simp

@[simp] theorem guarded_pinLine (s : State) (l owner) : (pinLine s l owner).guarded = s.guarded := by simp [pinLine]

@[simp] theorem guarded_hintLine (s : State) (hint owner l) : (hintLine s hint owner l).guarded = s.guarded := by
  unfold hintLine
  (repeat' split) <;> simp

@[simp] theorem guarded_touchLine (s : State) (hint owner l) : (touchLine s hint owner l).guarded = s.guarded := by simp [touchLine]

@[simp] theorem guarded_dirtyLine (s : State) (l) : (dirtyLine s l).guarded = s.guarded := by
  unfold dirtyLine
  split <;> simp

@[simp] theorem guarded_lastLines (s : State) (ls) : (lastLines s ls).guarded = s.guarded := by
  refine guarded_foldl (fun s l => ?_) _ _
  split <;> simp

@[simp] theorem guarded_xdropLines (s : State) (ls) : (xdropLines s ls).guarded = s.guarded := by
  refine guarded_foldl (fun s l => ?_) _ _
  split <;> simp

@[simp] theorem guarded_releasePins (s : State) (a) : (releasePins s a).guarded = s.guarded := by simp [releasePins]

@[simp] theorem guarded_dropFrameLines (s : State) (frame) : (dropFrameLines s frame).guarded = s.guarded := by simp [dropFrameLines]

@[simp] theorem guarded_clearMark (s : State) (f g) : (clearMark s f g).guarded = s.guarded := by simp [clearMark]

@[simp] theorem guarded_noteUnits (s : State) (as) : (noteUnits s as).guarded = s.guarded := by simp [noteUnits]

@[simp] theorem guarded_storeBytes (s : State) (ws) : (storeBytes s ws).guarded = s.guarded := by simp [storeBytes]

@[simp] theorem guarded_markData (s : State) (as) : (markData s as).guarded = s.guarded := by simp [markData]

@[simp] theorem guarded_clearData (s : State) (as) : (clearData s as).guarded = s.guarded := by simp [clearData]

@[simp] theorem guarded_storeData (s : State) (ws) : (storeData s ws).guarded = s.guarded := by simp [storeData]

@[simp] theorem guarded_writeMem (s : State) (ws) : (writeMem s ws).1.guarded = s.guarded := by
  unfold writeMem
  dsimp only
  (repeat' split) <;> simp

/-! ## Programs (`Machine/Program`) -/

@[simp] theorem guarded_addNotice (s : State) (c d n) : (addNotice s c d n).guarded = s.guarded := by simp [addNotice]

@[simp] theorem guarded_groupStop (s : State) (c d q) : (groupStop s c d q).guarded = s.guarded := by
  unfold groupStop
  dsimp only
  (repeat' split) <;> simp

@[simp] theorem guarded_stopOthers (s : State) (c d q) : (stopOthers s c d q).guarded = s.guarded := by simp [stopOthers]

@[simp] theorem guarded_failAt (s : State) (q st idx code) : (failAt s q st idx code).guarded = s.guarded := by
  unfold failAt
  dsimp only
  split <;> simp

@[simp] theorem guarded_signalBy (s : State) (q st idx tok n) : (signalBy s q st idx tok n).guarded = s.guarded := by simp [signalBy]

@[simp] theorem guarded_signalIf (s : State) (q st idx sen tok) : (signalIf s q st idx sen tok).guarded = s.guarded := by simp [signalIf]

@[simp] theorem guarded_advance (s : State) (q st) : (advance s q st).guarded = s.guarded := by simp [advance]

@[simp] theorem guarded_markWaiting (s : State) (q st tok n) : (markWaiting s q st tok n).guarded = s.guarded := by simp [markWaiting]

@[simp] theorem guarded_addressError (s : State) (c) : (addressError s c).guarded = s.guarded := by simp [addressError]

@[simp] theorem guarded_failInstr (s : State) (q st idx code) : (failInstr s q st idx code).guarded = s.guarded := by
  unfold failInstr
  split <;> simp

theorem goes_startInstr {body : State → Except Nat State} (hbody : ∀ s, Yields (fun t => t.guarded = s.guarded) (body s))
    (s : State) (q st op i now ready) :
    Goes s (startInstr q st op i now ready body s) := by
  unfold startInstr
  dsimp only
  split
  · simp
  split
  · simp
  split
  · simp
  have hb := hbody (s.setQuern q ((s.quern q).takeWait i))
  split
  · simp
  · next h => simpa using hb.of_ok h

/-! ## Copies (`Machine/Copy`) -/

@[simp] theorem guarded_forgetSpecial (s : State) (ws) : (forgetSpecial s ws).guarded = s.guarded := by
  refine guarded_foldl (fun s w => ?_) _ _
  split <;> simp

@[simp] theorem guarded_deliver (s : State) (q o) : (deliver s q o).1.guarded = s.guarded := by
  cases o with
  | mem ws =>
    simp only [deliver]
    split
    · next h => simpa using guarded_of_fst h (guarded_writeMem s ws)
    · exact guarded_writeMem s ws
  | status n v => simp [deliver]
  | desc n d => simp [deliver]

@[simp] theorem guarded_touchTensor (s : State) (owner d) : (touchTensor s owner d).guarded = s.guarded := by simp [touchTensor]

@[simp] theorem guarded_cancelMove (s : State) (q m) : (cancelMove s q m).guarded = s.guarded := by
  unfold cancelMove
  split <;> simp

@[simp] theorem guarded_cancelMoves (s : State) (q) : (cancelMoves s q).guarded = s.guarded := by simp [cancelMoves]

/-! ## Frames (`Machine/Frames`) -/

@[simp] theorem guarded_setStates (s : State) (f st) : (setStates f st s).guarded = s.guarded := by simp [setStates]

@[simp] theorem guarded_markFrame (s : State) (f g) : (markFrame f g s).guarded = s.guarded := by simp [markFrame]

@[simp] theorem guarded_countUe (s : State) (a g) : (countUe a g s).guarded = s.guarded := by simp [countUe]

@[simp] theorem guarded_retireFrame (s : State) (f source) : (retireFrame f source s).guarded = s.guarded := by simp [retireFrame]

@[simp] theorem guarded_startRetire (s : State) (f) : (startRetire f s).guarded = s.guarded := by simp [startRetire]

@[simp] theorem guarded_damageFrame (s : State) (f a g) : (damageFrame f a g s).guarded = s.guarded := by simp [damageFrame]

@[simp] theorem guarded_remapRow (s : State) (r source) : (remapRow r source s).guarded = s.guarded := by simp [remapRow]

@[simp] theorem guarded_countCe (s : State) : (countCe s).guarded = s.guarded := by simp [countCe]

@[simp] theorem guarded_correctedError (s : State) (f g) : (correctedError f s g).guarded = s.guarded := by simp [correctedError]

@[simp] theorem guarded_unback (s : State) (a) : (unback s a).guarded = s.guarded := by simp [unback]

@[simp] theorem guarded_copyChunks (s : State) (f g lo hi bad) : (copyChunks f g lo hi bad s).guarded = s.guarded := by simp [copyChunks]

@[simp] theorem guarded_settlePage (s : State) (g marks a) : (settlePage g marks s a).guarded = s.guarded := by simp [settlePage]

@[simp] theorem guarded_endMigration (s : State) (f g) : (endMigration f g s).guarded = s.guarded := by simp [endMigration]

@[simp] theorem guarded_migrateChunks (s : State) (f a n found) : (migrateChunks f a n found s).guarded = s.guarded := by
  unfold migrateChunks
  split <;> simp

@[simp] theorem guarded_startMigration (s : State) (f) : (startMigration f s).guarded = s.guarded := by
  unfold startMigration
  split <;> simp

@[simp] theorem guarded_disableWay (s : State) (set way source) : (disableWay set way source s).guarded = s.guarded := by simp [disableWay]

@[simp] theorem guarded_repairEntry (s : State) (second a) : (repairEntry second a s).guarded = s.guarded := by simp [repairEntry]

/-! ## Contexts (`Machine/Context`) -/

@[simp] theorem guarded_chainPages (s : State) (tail k) : (chainPages tail k s).guarded = s.guarded := by
  induction k generalizing s with
  | nil => rfl
  | cons p l ih => simp [chainPages, ih]

theorem guarded_takePages (s : State) (c n shared) : ∀ t ∈ takePages s c n shared, t.2.guarded = s.guarded := by simp [takePages]

@[simp] theorem guarded_returnPages (s : State) (c l) : (returnPages s c l).guarded = s.guarded := by simp [returnPages]

@[simp] theorem guarded_revertEntries (s : State) (h a) : (revertEntries s h a).guarded = s.guarded := by simp [revertEntries]

@[simp] theorem guarded_dropRefs (s : State) (refs) : (dropRefs s refs).guarded = s.guarded := by simp [dropRefs]

@[simp] theorem guarded_releaseEntry (s : State) (h) : (releaseEntry s h).guarded = s.guarded := by
  unfold releaseEntry
  split <;> simp

@[simp] theorem guarded_reportError (s : State) (c code idx detail) : (reportError s c code idx detail).guarded = s.guarded := by
  simp [reportError]

@[simp] theorem guarded_stopCtx (s : State) (c code idx detail) : (stopCtx s c code idx detail).guarded = s.guarded := by simp [stopCtx]

@[simp] theorem guarded_stopMerged (s : State) (c code idx detail) : (stopMerged s c code idx detail).guarded = s.guarded := by
  simp [stopMerged]

@[simp] theorem guarded_abandonOn (s : State) (c q) : (abandonOn s c q).guarded = s.guarded := by
  unfold abandonOn
  dsimp only
  split <;> simp

@[simp] theorem guarded_freshQuern (s : State) (q) : (freshQuern s q).guarded = s.guarded := by simp [freshQuern]

@[simp] theorem guarded_loadQuerns (s : State) (c groups) : (loadQuerns s c groups).guarded = s.guarded := by simp [loadQuerns]

@[simp] theorem guarded_resetOrder (s : State) (wgo) : (resetOrder s wgo).guarded = s.guarded := by simp [resetOrder]

@[simp] theorem guarded_haltCtx (s : State) (c) : (haltCtx s c).guarded = s.guarded := by simp [haltCtx]

@[simp] theorem guarded_returnSeq (s : State) (c) : (returnSeq s c).guarded = s.guarded := by
  unfold returnSeq
  dsimp only
  split <;> simp

@[simp] theorem guarded_haltFor (s : State) (cause c) : (haltFor cause s c).guarded = s.guarded := by simp [haltFor]

@[simp] theorem guarded_stopHeld (s : State) : (stopHeld s).guarded = s.guarded := by simp [stopHeld]

@[simp] theorem guarded_overlapping (s : State) (page before) : (overlapping page before s).guarded = s.guarded := by simp [overlapping]

@[simp] theorem guarded_haltData (s : State) (c as) : (haltData s c as).guarded = s.guarded := by
  unfold haltData
  split <;> simp

@[simp] theorem guarded_drainCtx (s : State) (c) : (drainCtx s c).guarded = s.guarded := by simp [drainCtx]

@[simp] theorem guarded_resumeCtx (s : State) (c) : (resumeCtx s c).guarded = s.guarded := by simp [resumeCtx]

@[simp] theorem guarded_stageSignalBy (s : State) (c idx tok n) : (stageSignalBy s c idx tok n).guarded = s.guarded := by
  simp [stageSignalBy]

@[simp] theorem guarded_stageSignal (s : State) (c idx sen tok) : (stageSignal s c idx sen tok).guarded = s.guarded := by simp [stageSignal]

@[simp] theorem guarded_lateSignal (s : State) (c no idx sen tok) : (lateSignal s c no idx sen tok).guarded = s.guarded := by
  simp [lateSignal]

@[simp] theorem guarded_finalizeStep (s : State) (c n) : (finalizeStep s c n).guarded = s.guarded := by simp [finalizeStep]

@[simp] theorem guarded_finalizeIfDone (s : State) (c n) : (finalizeIfDone s c n).guarded = s.guarded := by simp [finalizeIfDone]

@[simp] theorem guarded_stepEvent (s : State) : (stepEvent s).guarded = s.guarded := by
  unfold stepEvent
  split <;> simp

@[simp] theorem guarded_releaseClosed (s : State) : (releaseClosed s).guarded = s.guarded := by simp [releaseClosed]

@[simp] theorem guarded_releaseDue (s : State) : (releaseDue s).guarded = s.guarded := by simp [releaseDue]

@[simp] theorem guarded_closeStep (s : State) (c n) : (closeStep c n s).guarded = s.guarded := by simp [closeStep]

@[simp] theorem guarded_settleTo (s : State) (sh n commit) : (settleTo s sh n commit).guarded = s.guarded := by
  unfold settleTo
  dsimp only
  split <;> simp

@[simp] theorem guarded_freeEdition (s : State) (e) : (freeEdition s e).guarded = s.guarded := by simp [freeEdition]

@[simp] theorem guarded_freeRetiring (s : State) (e) : (freeRetiring s e).guarded = s.guarded := by
  unfold freeRetiring
  dsimp only
  (repeat' split) <;> simp

@[simp] theorem guarded_commitEdition (s : State) (e) : (commitEdition s e).guarded = s.guarded := by simp [commitEdition]

@[simp] theorem guarded_firePends (s : State) (c) : (firePends c s).guarded = s.guarded := by
  refine (guarded_foldl (fun s p => ?_) _ _).trans (by simp)
  dsimp only
  split <;> simp

/-! ## Moves (`Machine/Move`) -/

@[simp] theorem guarded_issueMove (s : State) (q i ends wgb) : (issueMove q i ends wgb s).guarded = s.guarded := by simp [issueMove]

@[simp] theorem goes_execXmove (s : State) (q i) : Goes s (execXmove q i s) := by
  refine goes_startInstr (fun s => ?_) ..
  simp

@[simp] theorem goes_execXfetch (s : State) (q i) : Goes s (execXfetch q i s) := by
  refine goes_startInstr (fun s => ?_) ..
  simp

@[simp] theorem guarded_fireFences (s : State) (q) : (fireFences q s).guarded = s.guarded := by simp [fireFences]

@[simp] theorem goes_execXfence (s : State) (q i) : Goes s (execXfence q i s) := by
  refine goes_andThen (goes_startInstr (fun s => ?_) ..) (fun s => ?_)
  · simp
  · simp

@[simp] theorem goes_execXpref (s : State) (q i) : Goes s (execXpref q i s) := by
  refine goes_startInstr (fun s => ?_) ..
  simp

@[simp] theorem goes_execXdrop (s : State) (q i) : Goes s (execXdrop q i s) := by
  refine goes_startInstr (fun s => ?_) ..
  simp

@[simp] theorem guarded_endMove (s : State) (q tag) : (endMove s q tag).guarded = s.guarded := by simp [endMove]

@[simp] theorem guarded_wgbendClear (s : State) (q m) : (wgbendClear s q m).guarded = s.guarded := by
  unfold wgbendClear
  split <;> simp

@[simp] theorem guarded_moveFails (s : State) (q m e) : (moveFails s q m e).guarded = s.guarded := by
  unfold moveFails
  split <;> simp

@[simp] theorem guarded_completeMove (s : State) (q m) : (completeMove q m s).guarded = s.guarded := by
  unfold completeMove
  split
  · simp
  split
  · simp
  · simp
  dsimp only
  split
  · simp
  · next h => simpa using guarded_of_fst h (guarded_deliver _ q _)
  · next h =>
    have := guarded_of_fst h (guarded_deliver _ q _)
    split <;> simpa using this

@[simp] theorem goes_execMoveComplete (s : State) (q tag) : Goes s (execMoveComplete q tag s) := by
  unfold execMoveComplete
  split <;> simp

@[simp] theorem guarded_prefetchLine (s : State) (a v) : (prefetchLine s a v).guarded = s.guarded := by simp [prefetchLine]

@[simp] theorem goes_execPrefetchComplete (s : State) (c slot) : Goes s (execPrefetchComplete c slot s) := by
  unfold execPrefetchComplete
  split <;> simp

/-! ## Control (`Machine/Control`) -/

@[simp] theorem guarded_stageAdvance (s : State) (c) : (stageAdvance s c).guarded = s.guarded := by simp [stageAdvance]

@[simp] theorem guarded_stageWaiting (s : State) (c tok n) : (stageWaiting s c tok n).guarded = s.guarded := by simp [stageWaiting]

@[simp] theorem guarded_stageSig (s : State) (c idx i k) : (stageSig s c idx i k).guarded = s.guarded := by
  unfold stageSig
  split <;> simp

theorem goes_startStage {body : State → Except Nat (State × SigWhen)} (hbody : ∀ s, Yields (fun r => r.1.guarded = s.guarded) (body s))
    (s : State) (c op i held enabled) :
    Goes s (startStage c op i held enabled body s) := by
  unfold startStage
  dsimp only
  split
  · simp
  split
  · simp
  split
  · simp
  split
  · simp
  split
  · simp
  have hb := hbody (s.setCtx c { (s.ctx c).takeWait i with issued := (s.ctx c).issued + 1 })
  split
  · simp
  · next h => simpa using hb.of_ok h

@[simp] theorem guarded_quernCwait (s : State) (q st i) : (quernCwait q st i s).guarded = s.guarded := by
  unfold quernCwait
  split <;> simp

@[simp] theorem guarded_stageCwait (s : State) (c i) : (stageCwait c i s).guarded = s.guarded := by
  unfold stageCwait
  (repeat' split) <;> simp

@[simp] theorem goes_execCwait (s : State) (u i) : Goes s (execCwait u i s) := by
  unfold execCwait
  split <;> simp

@[simp] theorem goes_execCsig (s : State) (u i) : Goes s (execCsig u i s) := by
  cases u with
  | quern q st =>
    dsimp only [execCsig]
    refine goes_startInstr (fun s => ?_) ..
    simp
  | stage c =>
    dsimp only [execCsig]
    refine goes_startStage (fun s => ?_) ..
    simp

@[simp] theorem goes_execCloop (s : State) (u i) : Goes s (execCloop u i s) := by
  cases u with
  | quern q st =>
    dsimp only [execCloop]
    refine goes_startInstr (fun s => ?_) ..
    simp
  | stage c =>
    dsimp only [execCloop]
    refine goes_startStage (fun s => ?_) ..
    simp

@[simp] theorem guarded_quernCend (s : State) (q st) {g} (h : s.guarded = g) : Yields (fun t => t.guarded = g) (quernCend q st s) := by
  unfold quernCend
  dsimp only
  split
  · exact h
  · split <;> simp [h]

@[simp] theorem guarded_stageCend (s : State) (c) : (stageCend c s).guarded = s.guarded := by simp [stageCend]

@[simp] theorem goes_execCend (s : State) (u i) : Goes s (execCend u i s) := by
  cases u with
  | quern q st =>
    dsimp only [execCend]
    refine goes_startInstr (fun s => ?_) ..
    simp
  | stage c =>
    dsimp only [execCend]
    refine goes_startStage (fun s => ?_) ..
    simp

@[simp] theorem goes_execCphase (s : State) (q i) : Goes s (execCphase q i s) := by
  refine goes_startInstr (fun s => ?_) ..
  simp

@[simp] theorem guarded_releaseBarrier (s : State) (c d) : (releaseBarrier s c d).guarded = s.guarded := by
  unfold releaseBarrier
  dsimp only
  split
  · rfl
  split
  · refine guarded_foldl (fun s m => ?_) _ _
    split <;> simp
  · simp

@[simp] theorem goes_execCbar (s : State) (q i) : Goes s (execCbar q i s) := by
  refine goes_andThen (goes_startInstr (fun s => ?_) ..) (fun s => ?_)
  · simp
  · split
    · split <;> simp
    · rfl

@[simp] theorem goes_execBarrierRelease (s : State) (c disp) : Goes s (execBarrierRelease c disp s) := by simp [execBarrierRelease]

@[simp] theorem goes_execChalt (s : State) (q i) : Goes s (execChalt q i s) := by
  refine goes_startInstr (fun s => ?_) ..
  simp

@[simp] theorem goes_execStageProgramChalt (s : State) (c i) : Goes s (execStageProgramChalt c i s) := by
  exact goes_startStage (fun s => by simp) ..

@[simp] theorem guarded_orphanPrefetches (s : State) (q) : (orphanPrefetches s q).guarded = s.guarded := by simp [orphanPrefetches]

@[simp] theorem goes_execProgramComplete (s : State) (q) : Goes s (execProgramComplete q s) := by
  unfold execProgramComplete
  dsimp only
  split <;> simp

@[simp] theorem goes_execTokenDeadlock (s : State) (c disp) : Goes s (execTokenDeadlock c disp s) := by simp [execTokenDeadlock]

@[simp] theorem goes_execMergedCompletion (s : State) (c disp) : Goes s (execMergedCompletion c disp s) := by
  unfold execMergedCompletion
  dsimp only
  split <;> simp

/-! ## Images (`Machine/Image`) -/

@[simp] theorem guarded_failLoad (s : State) (q code l) : (failLoad s q code l).guarded = s.guarded := by simp [failLoad]

@[simp] theorem guarded_loadImage (s : State) (q) : (loadImage q s).guarded = s.guarded := by
  unfold loadImage
  dsimp only
  (repeat' split) <;> simp

@[simp] theorem goes_execImageLoad (s : State) (q) : Goes s (execImageLoad q s) := by simp [execImageLoad]

@[simp] theorem guarded_startProgram (s : State) (q sl) : (startProgram q sl s).guarded = s.guarded := by simp [startProgram]

@[simp] theorem goes_execProgramStart (s : State) (q) : Goes s (execProgramStart q s) := by
  unfold execProgramStart
  dsimp only
  split <;> simp

/-! ## Links (`Machine/Link`) -/

@[simp] theorem guarded_drawCtr (s : State) (key) : (drawCtr s key).2.guarded = s.guarded := by simp [drawCtr]

@[simp] theorem guarded_haltSender (s : State) (seg fr) : (haltSender seg s fr).guarded = s.guarded := by
  unfold haltSender
  split <;> simp

@[simp] theorem guarded_queueRace (s : State) (r fr) : (queueRace s r fr).guarded = s.guarded := by simp [queueRace]

@[simp] theorem guarded_sendIp (s : State) (a dst o) : (sendIp s a dst o).guarded = s.guarded := by
  unfold sendIp
  split <;> simp

@[simp] theorem guarded_emitPacket (s : State) (a n psn fr) : (emitPacket s a n psn fr).guarded = s.guarded := by simp [emitPacket]

@[simp] theorem guarded_sessionSend (s : State) (p n lim k) : (sessionSend p n lim k s).guarded = s.guarded := by
  induction k generalizing s with
  | zero => rfl
  | succ fuel ih =>
    unfold sessionSend
    dsimp only
    split
    · rfl
    split
    · rfl
    · split <;> simp [ih]

@[simp] theorem guarded_sessionPump (s : State) (a n) : (sessionPump s a n).guarded = s.guarded := by simp [sessionPump]

@[simp] theorem guarded_queueSession (s : State) (a n fr) : (queueSession s a n fr).guarded = s.guarded := by simp [queueSession]

@[simp] theorem guarded_pumpSessions (s : State) : (pumpSessions s).guarded = s.guarded := by
  exact guarded_foldl (fun s p => guarded_foldl (fun s cls => guarded_foldl (fun s n => guarded_sessionSend ..) _ _) _ _) _ _

@[simp] theorem guarded_sendGuest (s : State) (fr) : (sendGuest s fr).guarded = s.guarded := by
  unfold sendGuest
  split <;> simp

@[simp] theorem guarded_sendOn (s : State) (c fr) : (sendOn s c fr).guarded = s.guarded := by
  unfold sendOn
  split <;> simp

@[simp] theorem guarded_losePaths (s : State) (c) : (losePaths c s).guarded = s.guarded := by simp [losePaths]

@[simp] theorem guarded_pumpOne (s : State) (f) : (pumpOne f s).1.guarded = s.guarded := by
  unfold pumpOne
  dsimp only
  split
  · split
    · rfl
    split
    · simp only [guarded_ite_fst, guarded_elim, guarded_haltSender, implies_true]
      refine ite_eq_left_iff.2 (fun _ => ?_)
      split
      · simp [guarded_foldl]
      · simp [guarded_foldl]
      · rfl
    · split <;> simp
    · split <;> simp
  · rfl

@[simp] theorem guarded_pumpMany (s : State) (f k) : (pumpMany f k s).guarded = s.guarded := by
  induction k generalizing s with
  | zero => rfl
  | succ n ih =>
    unfold pumpMany
    split
    · next h => rw [ih]; exact guarded_of_fst h (guarded_pumpOne s f)
    · next h => exact guarded_of_fst h (guarded_pumpOne s f)

@[simp] theorem guarded_pump (s : State) (f) : (pump f s).guarded = s.guarded := by simp [pump]

@[simp] theorem guarded_receiptAt (s : State) (f seq step what) : (receiptAt f seq step what s).guarded = s.guarded := by simp [receiptAt]

@[simp] theorem guarded_grantAt (s : State) (f no) : (grantAt f no s).guarded = s.guarded := by simp [grantAt]

@[simp] theorem guarded_localFrame (s : State) (k) : (localFrame s k).guarded = s.guarded := by
  unfold localFrame
  split <;> simp

@[simp] theorem guarded_sendFlume (s : State) (f fr) : (sendFlume s f fr).guarded = s.guarded := by
  unfold sendFlume
  split <;> simp

@[simp] theorem guarded_enterTx (s : State) (f t2) : (enterTx s f t2).guarded = s.guarded := by simp [enterTx]

@[simp] theorem guarded_sendTwin (s : State) (sub body bytes) : (sendTwin s sub body bytes).guarded = s.guarded := by
  unfold sendTwin
  split <;> simp

@[simp] theorem guarded_journal (s : State) (sub body bytes) : (journal s sub body bytes).guarded = s.guarded := by
  unfold journal
  (repeat' split) <;> simp

@[simp] theorem guarded_journalFor (s : State) (c sub body) : (journalFor s c sub body).guarded = s.guarded := by simp [journalFor]

@[simp] theorem guarded_flushUnits (s : State) : (flushUnits s).guarded = s.guarded := by simp [flushUnits]

@[simp] theorem guarded_journalPages (s : State) (k l) : (journalPages k l s).guarded = s.guarded := by
  induction k generalizing s l with
  | zero => rfl
  | succ n ih => simp [journalPages, ih]

@[simp] theorem guarded_journalEd (s : State) (e) : (journalEd s e).guarded = s.guarded := by simp [journalEd]

@[simp] theorem guarded_journalFreed (s : State) (v) : (journalFreed s v).guarded = s.guarded := by simp [journalFreed]

@[simp] theorem guarded_journalStep (s : State) (c n recs) : (journalStep s c n recs).guarded = s.guarded := by simp [journalStep]

@[simp] theorem guarded_journalFlume (s : State) (f) : (journalFlume s f).guarded = s.guarded := by simp [journalFlume]

@[simp] theorem guarded_journalPeer (s : State) (c j) : (journalPeer s c j).guarded = s.guarded := by
  unfold journalPeer
  split <;> simp

@[simp] theorem guarded_enterTurn (s : State) (f t2) : (enterTurn s f t2).guarded = s.guarded := by simp [enterTurn]

@[simp] theorem guarded_sendNotice (s : State) (c n) : (sendNotice s c n).guarded = s.guarded := by simp [sendNotice]

@[simp] theorem guarded_respondNow (s : State) (a n f) : (respondNow s a n f).guarded = s.guarded := by simp [respondNow]

@[simp] theorem guarded_perform (s : State) (k) : (perform s k).guarded = s.guarded := by
  unfold perform
  split <;> simp

@[simp] theorem guarded_hold (s : State) (a) : (hold s a).guarded = s.guarded := by simp [hold]

@[simp] theorem guarded_noticeStep (s : State) (c n) : (noticeStep c n s).guarded = s.guarded := by simp [noticeStep]

/-! ## Stage programs (`Machine/Stage`) -/

@[simp] theorem guarded_aliasPages (s : State) (owner base n pages) : (aliasPages s owner base n pages).guarded = s.guarded := by
  refine guarded_foldl (fun s i => ?_) _ _
  split <;> simp

@[simp] theorem guarded_setWindow (s : State) (sh new) : (setWindow s sh new).guarded = s.guarded := by simp [setWindow]

@[simp] theorem guarded_holdSignal (s : State) (c d) : (holdSignal s c d).guarded = s.guarded := by simp [holdSignal]

theorem guarded_wakeEdopen (s : State) (c d) : ∀ t ∈ wakeEdopen c d s, t.guarded = s.guarded := by
  unfold wakeEdopen
  dsimp only
  split
  · simp
  · next h => simpa using guarded_takePages _ _ _ _ _ h

theorem guarded_wakeEdpend (s : State) (c d) : ∀ t ∈ wakeEdpend c d s, t.guarded = s.guarded := by
  unfold wakeEdpend
  dsimp only
  split <;> simp

@[simp] theorem guarded_addRefs (s : State) (h l) : (addRefs s h l).guarded = s.guarded := by
  unfold addRefs
  split <;> simp

theorem guarded_wakeDispatch (s : State) (c d) : ∀ t ∈ wakeDispatch c d s, t.guarded = s.guarded := by
  unfold wakeDispatch
  dsimp only
  (repeat' split) <;> simp

@[simp] theorem guarded_wakeOne (s : State) (c d) : (wakeOne c d s).guarded = s.guarded := by
  unfold wakeOne
  dsimp only
  split
  · next h =>
    split at h
    · simpa using guarded_wakeEdopen _ _ _ _ h
    · simpa using guarded_wakeEdpend _ _ _ _ h
    · simpa using guarded_wakeDispatch _ _ _ _ h
  · rfl

@[simp] theorem guarded_wakeCtx (s : State) (c) : (wakeCtx c s).guarded = s.guarded := by simp [wakeCtx]

@[simp] theorem guarded_commitAll (s : State) (c) : (commitAll c s).guarded = s.guarded := by simp [commitAll]

@[simp] theorem guarded_freeAll (s : State) (c) : (freeAll c s).guarded = s.guarded := by simp [freeAll]

@[simp] theorem guarded_closeAll (s : State) (c) : (closeAll c s).guarded = s.guarded := by simp [closeAll]

@[simp] theorem guarded_settleCtx (s : State) (c) : (settleCtx s c).guarded = s.guarded := by simp [settleCtx]

@[simp] theorem guarded_settleRound (s : State) : (settleRound s).guarded = s.guarded := by simp [settleRound]

@[simp] theorem guarded_settle (s : State) : (settle s).guarded = s.guarded := by simp [settle]

theorem goes_stageInstr {body : State → Except Nat (State × SigWhen)} (hbody : ∀ s, Yields (fun r => r.1.guarded = s.guarded) (body s))
    (s : State) (c op i held enabled) :
    Goes s (stageInstr c op i held enabled body s) := by
  exact goes_andThen (goes_startStage hbody ..) (fun s => by simp)

@[simp] theorem guarded_defer (s : State) (c op i entry disp step) : (defer s c op i entry disp step).guarded = s.guarded := by simp [defer]

@[simp] theorem guarded_popEntry (s : State) (c h k x0) : (popEntry c h k x0 s).guarded = s.guarded := by
  unfold popEntry
  split
  · rfl
  split
  · rfl
  · next h =>
    have := guarded_takePages _ _ _ _ _ h
    dsimp only
    split <;> simpa using this

@[simp] theorem guarded_stallHpop (s : State) (c h) : (stallHpop c h s).guarded = s.guarded := by simp [stallHpop]

@[simp] theorem goes_execHpop (s : State) (c i) : Goes s (execHpop c i s) := by
  unfold execHpop
  extract_lets x0 k h fails s0
  have hs0 : s0.guarded = s.guarded := by simp [s0]
  refine Goes.of_guarded (goes_stageInstr (fun s => ?_) ..) hs0
  simp

@[simp] theorem goes_execDispatch (s : State) (c i) : Goes s (execDispatch c i s) := by
  refine goes_stageInstr (fun s => ?_) ..
  simp only [yields_bind, yields_ok, guarded_defer, guarded_setCtx, yields_true]

@[simp] theorem guarded_reenterTx (s : State) (f h seq) : (reenterTx f h seq s).guarded = s.guarded := by simp [reenterTx]

@[simp] theorem guarded_pushEntry (s : State) (f h) : (pushEntry f h s).guarded = s.guarded := by
  unfold pushEntry
  split <;> simp

@[simp] theorem guarded_copyLocal (s : State) (k e) : (copyLocal s k e).guarded = s.guarded := by
  unfold copyLocal
  split <;> simp

@[simp] theorem guarded_recopyLocal (s : State) (h) : (recopyLocal h s).guarded = s.guarded := by
  unfold recopyLocal
  (repeat' split) <;> simp

@[simp] theorem goes_execHpush (s : State) (c i) : Goes s (execHpush c i s) := by
  refine goes_stageInstr (fun s => ?_) ..
  refine (yields_bind ..).2 (yields_of_forall (fun _ => ?_) _)
  split
  · simp [apply_ite Prod.fst]
  · simp

@[simp] theorem goes_execHrcpt (s : State) (c i) : Goes s (execHrcpt c i s) := by
  refine goes_stageInstr (fun s => ?_) ..
  refine (yields_bind ..).2 (yields_of_forall (fun _ => ?_) _)
  split <;> simp

@[simp] theorem goes_execEdopen (s : State) (c i) : Goes s (execEdopen c i s) := by
  refine goes_stageInstr (fun s => ?_) ..
  simp

@[simp] theorem goes_execEdpend (s : State) (c i) : Goes s (execEdpend c i s) := by
  refine goes_stageInstr (fun s => ?_) ..
  simp

@[simp] theorem guarded_requestCommit (s : State) (sh) : (requestCommit s sh).guarded = s.guarded := by
  unfold requestCommit
  split <;> simp

@[simp] theorem goes_execEdcommit (s : State) (c i) : Goes s (execEdcommit c i s) := by
  refine goes_stageInstr (fun s => ?_) ..
  simp

@[simp] theorem goes_execEdretire (s : State) (c i) : Goes s (execEdretire c i s) := by
  refine goes_stageInstr (fun s => ?_) ..
  simp

@[simp] theorem goes_execSteptoken (s : State) (c i) : Goes s (execSteptoken c i s) := by
  refine goes_stageInstr (fun s => ?_) ..
  simp

/-! ## Wire (`Machine/Wire`) -/

@[simp] theorem guarded_emitNumbered (s : State) (r lsn fr) : (emitNumbered s r lsn fr).guarded = s.guarded := by simp [emitNumbered]

@[simp] theorem guarded_emitRace (s : State) (r fr) : (emitRace s r fr).guarded = s.guarded := by simp [emitRace]

@[simp] theorem guarded_emitPlain (s : State) (r fr) : (emitPlain s r fr).guarded = s.guarded := by simp [emitPlain]

@[simp] theorem guarded_dropAt (s : State) (a) : (dropAt s a).guarded = s.guarded := by simp [dropAt]

@[simp] theorem guarded_authFailAt (s : State) (a) : (authFailAt s a).guarded = s.guarded := by simp [authFailAt]

@[simp] theorem guarded_countDropped (s : State) (k) : (countDropped s k).guarded = s.guarded := by
  unfold countDropped
  split <;> simp

@[simp] theorem guarded_dropFrame (s : State) (via detail) : (dropFrame s via detail).guarded = s.guarded := by simp [dropFrame]

@[simp] theorem guarded_leaveAttested (s : State) (r) : (leaveAttested s r).guarded = s.guarded := by simp [leaveAttested]

@[simp] theorem guarded_moveJournal (s : State) (r) : (moveJournal r s).guarded = s.guarded := by
  unfold moveJournal
  split <;> simp

@[simp] theorem guarded_toLinked (s : State) (r) : (toLinked s r).guarded = s.guarded := by simp [toLinked]

@[simp] theorem guarded_tagFailure (s : State) (r) : (tagFailure s r).guarded = s.guarded := by simp [tagFailure]

@[simp] theorem guarded_raceAckDue (s : State) (r) : (raceAckDue s r).guarded = s.guarded := by simp [raceAckDue]

@[simp] theorem guarded_sessionAckDue (s : State) (a n) : (sessionAckDue s a n).guarded = s.guarded := by simp [sessionAckDue]

@[simp] theorem guarded_seeCtr (s : State) (h) : (seeCtr s h).guarded = s.guarded := by simp [seeCtr]

@[simp] theorem guarded_receiveRace (s : State) (r h c) : (receiveRace r h c s).1.guarded = s.guarded := by
  rw [show receiveRace = _ by delta receiveRace; rfl]
  obtain ⟨take, htake⟩ := asVariable RxLink.take
  obtain ⟨acked, hacked⟩ := asVariable Race.acked
  rw [← htake, ← hacked]
  dsimp only
  split
  · rfl
  split
  · simp
  split
  · simp
  split
  · simp
  split
  · simp
  · split <;> simp
  · simp

@[simp] theorem guarded_receiveHost (s : State) (a n h c) : (receiveHost a n h c s).1.guarded = s.guarded := by
  rw [show receiveHost = _ by delta receiveHost; rfl]
  obtain ⟨take, htake⟩ := asVariable RxLink.take
  obtain ⟨acked, hacked⟩ := asVariable Session.acked_
  rw [← htake, ← hacked]
  dsimp only
  split
  · rfl
  split
  · simp
  split
  · simp
  split
  · simp
  split
  · simp
  · split <;> simp
  · simp

@[simp] theorem guarded_receive (s : State) (h c) : (receive h c s).1.guarded = s.guarded := by
  unfold receive
  split <;> simp

theorem guarded_takeKept (s : State) (via) : ∀ t ∈ takeKept via s, t.2.guarded = s.guarded := by
  cases via with
  | race r =>
    unfold takeKept
    dsimp only
    split
    · simp only [Option.mem_def, Option.map_eq_some_iff]
      rintro t ⟨y, -, rfl⟩
      simp
    · simp
  | host p n =>
    unfold takeKept
    dsimp only
    split
    · simp only [Option.mem_def, Option.map_eq_some_iff]
      rintro t ⟨y, -, rfl⟩
      simp
    · simp
  | fabric => simp [takeKept]

@[simp] theorem guarded_setFlumeState (s : State) (f st) : (setFlumeState s f st).guarded = s.guarded := by simp [setFlumeState]

@[simp] theorem guarded_abandonRx (s : State) (f) : (abandonRx s f).guarded = s.guarded := by simp [abandonRx]

@[simp] theorem guarded_resendAsks (s : State) (f) : (resendAsks f s).guarded = s.guarded := by
  unfold resendAsks
  dsimp only
  split <;> simp

@[simp] theorem guarded_resendFlume (s : State) (f) : (resendFlume f s).guarded = s.guarded := by simp [resendFlume]

/-! ## The Galley (`Machine/Galley`) -/

@[simp] theorem guarded_setBucket (s : State) (b) : (State.setBucket s b).guarded = s.guarded := by simp [State.setBucket]

@[simp] theorem guarded_updBucket (s : State) (bid f) : (State.updBucket s bid f).guarded = s.guarded := by
  unfold State.updBucket
  split <;> simp

@[simp] theorem guarded_dropBucket (s : State) (bid) : (dropBucket s bid).guarded = s.guarded := by simp [dropBucket]

@[simp] theorem guarded_emitUnit (s : State) (b link hop u) : (emitUnit b link hop u s).guarded = s.guarded := by simp [emitUnit]

@[simp] theorem guarded_sendQueue (s : State) (b l blocked) : (sendQueue s b l blocked).1.guarded = s.guarded := by
  induction l generalizing s b blocked with
  | nil => rfl
  | cons x l ih =>
    unfold sendQueue
    dsimp only
    split
    · exact ih ..
    split
    · simp [ih]
    split <;> simp [ih]

@[simp] theorem guarded_pumpRed (s : State) (bid) : (pumpRed bid s).guarded = s.guarded := by
  unfold pumpRed
  split <;> simp

@[simp] theorem guarded_sendAck (s : State) (out id credit n) : (sendAck s out id credit n).guarded = s.guarded := by simp [sendAck]

@[simp] theorem guarded_giveCredit (p) (link hop chunk n) : (giveCredit link hop chunk n p).1.guarded = p.1.guarded := by
  unfold giveCredit
  dsimp only
  split <;> simp

@[simp] theorem guarded_takeEarly (s : State) (b) : (takeEarly s b).1.guarded = s.guarded := by simp [takeEarly]

@[simp] theorem guarded_startRound (s : State) (b) {g} (h : s.guarded = g) : Yields (fun t => t.guarded = g) (startRound b s) := by
  subst h
  unfold startRound
  split
  · simp
  dsimp only
  split
  · simp
  · simp [guarded_foldl_fst]

@[simp] theorem guarded_redFails (s : State) (b e) : (redFails b e s).guarded = s.guarded := by
  unfold redFails
  split <;> simp

@[simp] theorem guarded_redSignal (s : State) (c bid) : (redSignal c bid s).guarded = s.guarded := by
  unfold redSignal
  dsimp only
  split <;> simp

@[simp] theorem guarded_finishRed (s : State) (b nf) : (finishRed b nf s).guarded = s.guarded := by
  unfold finishRed
  split <;> simp

@[simp] theorem guarded_beginRed (s : State) (b) : (beginRed b s).guarded = s.guarded := by
  have start (b : Bucket) (t : State) (ht : t.guarded = s.guarded) :
      (match startRound b (t.setBucket b) with
        | .ok s1 => s1
        | .error e => redFails b e (t.setBucket b)).guarded = s.guarded := by
    split
    · next h => exact (guarded_startRound _ _ (by simpa using ht)).of_ok h
    · simpa using ht
  unfold beginRed
  dsimp only
  split
  · exact start _ _ (by simp)
  split
  · simp
  · split
    · exact start _ _ (by simp)
    · exact start _ _ rfl

theorem guarded_carryScale (s : State) (b h) : ∀ t ∈ carryScale b h s, t.guarded = s.guarded := by
  unfold carryScale
  split
  · simp
  split
  · simp
  split
  · next h => simpa using guarded_of_fst h (guarded_writeMem ..)
  · simp
  · next h => simpa using guarded_of_fst h (guarded_writeMem ..)

@[simp] theorem guarded_tryBegin (p) (bid) : (tryBegin bid p).1.guarded = p.1.guarded := by
  obtain ⟨s, blocked⟩ := p
  unfold tryBegin
  dsimp only
  split
  · rfl
  next b _ =>
  simp
  intros
  split
  · next h =>
    split at h
    · exact guarded_carryScale _ _ _ _ h
    · simp at h
  · simp

@[simp] theorem guarded_retryRound (s : State) (bid) : (retryRound bid s).guarded = s.guarded := by
  unfold retryRound
  split
  · split
    · rfl
    split
    · split
      · next h => exact (guarded_startRound _ _ rfl).of_ok h
      · simp
    · split <;> simp
  · rfl

@[simp] theorem guarded_wakeReds (s : State) (c) : (wakeReds c s).guarded = s.guarded := by
  refine (guarded_foldl_fst (fun p x => guarded_tryBegin ..) _ _).trans ?_
  exact guarded_foldl (fun s x => guarded_retryRound ..) _ _

@[simp] theorem guarded_issueRed (s : State) (c i kind lastred w) : (issueRed c i kind lastred w s).guarded = s.guarded := by
  simp [issueRed]

@[simp] theorem guarded_issueBody (s : State) (c i scheds kind lastred) {g} (h : s.guarded = g) :
    Yields (fun t => t.1.guarded = g) (issueBody c i scheds kind lastred s) := by
  unfold issueBody
  dsimp only
  refine (yields_bind ..).2 (yields_of_forall (fun _ => ?_) _)
  split <;> simp [h]

@[simp] theorem guarded_afterIssue (s : State) (c) : (afterIssue c s).guarded = s.guarded := by simp [afterIssue]

@[simp] theorem goes_execBscale (s : State) (c i) : Goes s (execBscale c i s) := by
  refine goes_andThen (goes_startStage (fun s => ?_) ..) (fun s => guarded_afterIssue ..)
  simp [guarded_issueBody]

@[simp] theorem goes_execBred (s : State) (c i) : Goes s (execBred c i s) := by
  refine goes_andThen (goes_startStage (fun s => ?_) ..) (fun s => guarded_afterIssue ..)
  simp [guarded_issueBody]

@[simp] theorem guarded_redMismatch (s : State) (b field) : (redMismatch b field s).guarded = s.guarded := by simp [redMismatch]

@[simp] theorem guarded_beginSecond (p) : (beginSecond p).1.guarded = p.1.guarded := by
  obtain ⟨s, b⟩ := p
  unfold beginSecond
  dsimp only
  split
  · exact guarded_foldl_fst (fun p x => guarded_giveCredit ..) _ _
  · rfl

@[simp] theorem guarded_freeHolding (p) : (freeHolding p).1.guarded = p.1.guarded := by
  exact guarded_foldl_fst (fun p x => guarded_giveCredit ..) _ _

@[simp] theorem guarded_loseLine (s : State) (b chunk) : (loseLine b chunk s).guarded = s.guarded := by
  unfold loseLine
  split <;> simp

@[simp] theorem guarded_acceptUnit (s : State) (b link id hdr lines err) : (acceptUnit b link id hdr lines err s).guarded = s.guarded := by
  unfold acceptUnit
  extract_lets hop u ch b1 lineLost lost src h s1 b2
  have h1 : s1.guarded = s.guarded := by unfold s1; cases err <;> simp
  split
  next s2 b3 h2 =>
  have h2 : s2.guarded = s.guarded := by
    rw [← h1]
    split at h2
    · exact guarded_of_fst h2 (by simp)
    · exact guarded_of_fst h2 rfl
  split
  next h3 =>
  have := guarded_of_fst h3 (guarded_beginSecond _)
  simpa [h2] using this

@[simp] theorem guarded_redArrives (s : State) (h id hdr a nb lines err) : (redArrives h id hdr a nb lines err s).guarded = s.guarded := by
  unfold redArrives
  dsimp only
  (repeat' split) <;> simp

theorem guarded_takeLocal (s : State) (a) : ∀ t ∈ takeLocal s a, t.guarded = s.guarded := by simp [takeLocal]

@[simp] theorem guarded_ackArrives (s : State) (b ch) : (ackArrives b ch s).guarded = s.guarded := by simp [ackArrives]

@[simp] theorem guarded_redackArrives (s : State) (h id credit n) : (redackArrives h id credit n s).guarded = s.guarded := by
  unfold redackArrives
  dsimp only
  (repeat' split) <;> simp

@[simp] theorem guarded_resendReds (s : State) (f) : (resendReds f s).guarded = s.guarded := by
  refine guarded_foldl (fun s b => ?_) _ _
  dsimp only
  refine (guarded_foldl (fun s c => ?_) _ _).trans (by simp)
  refine guarded_foldl (fun s u => ?_) _ _
  simp

@[simp] theorem guarded_nextRound (s : State) (b) : (nextRound b s).guarded = s.guarded := by
  unfold nextRound
  dsimp only
  split
  · next h => exact (guarded_startRound _ _ (by simp)).of_ok h
  · simp

@[simp] theorem guarded_countRepeat (s : State) : (countRepeat s).guarded = s.guarded := by simp [countRepeat]

@[simp] theorem guarded_scaleDone (s : State) (b) : (scaleDone b s).guarded = s.guarded := by
  unfold scaleDone
  split
  · simp
  dsimp only
  split
  · split
    · next h => simpa using guarded_of_fst h (guarded_writeMem ..)
    · simp
    · next h => simpa using guarded_of_fst h (guarded_writeMem ..)
  · simp

@[simp] theorem guarded_dataDone (s : State) (b) : (dataDone b s).guarded = s.guarded := by simp [dataDone]

@[simp] theorem goes_execRoundComplete (s : State) (c btag) : Goes s (execRoundComplete c btag s) := by
  unfold execRoundComplete
  split <;> simp

@[simp] theorem guarded_completeBucket (s : State) (b) : (completeBucket b s).guarded = s.guarded := by
  unfold completeBucket
  split
  · simp
  · next h => simpa using guarded_of_fst h (guarded_writeMem ..)
  · next h =>
    have := guarded_of_fst h (guarded_writeMem ..)
    dsimp only
    split <;> simpa using this

@[simp] theorem goes_execBucketComplete (s : State) (c btag) : Goes s (execBucketComplete c btag s) := by
  unfold execBucketComplete
  split <;> simp

@[simp] theorem goes_execGalleyStall (s : State) (c btag) : Goes s (execGalleyStall c btag s) := by
  unfold execGalleyStall
  split <;> simp

@[simp] theorem guarded_lowerQuota (s : State) : (lowerQuota s).guarded = s.guarded := by
  unfold lowerQuota
  (repeat' split) <;> simp

@[simp] theorem goes_execFormeDisable (s : State) (forme) : Goes s (execFormeDisable forme s) := by simp [execFormeDisable]

/-! ## Flumes (`Machine/Flume`) -/

@[simp] theorem guarded_releaseGrant (s : State) (e) : (releaseGrant s e).guarded = s.guarded := by simp [releaseGrant]

@[simp] theorem guarded_enterClosed (s : State) (f) : (enterClosed s f).guarded = s.guarded := by simp [enterClosed]

@[simp] theorem guarded_sendClose (s : State) (f) : (sendClose s f).guarded = s.guarded := by simp [sendClose]

@[simp] theorem guarded_closings (s : State) : (closings s).guarded = s.guarded := by simp [closings]

@[simp] theorem guarded_afterFlume (s : State) : (afterFlume s).guarded = s.guarded := by simp [afterFlume]

@[simp] theorem guarded_onFlume {act : State → State} (hact : ∀ s, (act s).guarded = s.guarded) (s : State) (h typ detail) :
    (onFlume h typ detail act s).guarded = s.guarded := by
  simp [onFlume, hact]

@[simp] theorem guarded_issueGrant (s : State) (f) : (issueGrant f s).guarded = s.guarded := by
  rw [show issueGrant = _ by delta issueGrant; rfl]
  extract_lets x
  split
  · rfl
  · next h => simpa using guarded_takePages _ _ _ _ _ h

@[simp] theorem goes_execGrantIssue (s : State) (f) : Goes s (execGrantIssue f s) := by simp [execGrantIssue]

@[simp] theorem guarded_grantActs (s : State) (h grantNo) : (grantActs h grantNo s).guarded = s.guarded := by simp [grantActs]

@[simp] theorem guarded_journalAccepted (s : State) (f e) : (journalAccepted s f e).guarded = s.guarded := by
  unfold journalAccepted
  split <;> simp

@[simp] theorem guarded_acceptEntry (s : State) (f e seq step mbid edition) :
    (acceptEntry f e seq step mbid edition s).guarded = s.guarded := by
  unfold acceptEntry
  split
  · rfl
  · simp only [guarded_hold, guarded_journalAccepted, guarded_setFlume, guarded_setHopper, guarded_setEntry, guarded_returnPages]

@[simp] theorem guarded_acceptRx (s : State) (f) : (acceptRx f s).guarded = s.guarded := by
  unfold acceptRx
  split <;> simp

@[simp] theorem guarded_duplicateMb (s : State) (f seq) : (duplicateMb f seq s).guarded = s.guarded := by
  unfold duplicateMb
  split <;> simp

@[simp] theorem guarded_mbArrives (s : State) (via f seq step grantNo mbid edition len) :
    (mbArrives via f seq step grantNo mbid edition len s).guarded = s.guarded := by
  unfold mbArrives
  dsimp only
  (repeat' split) <;> simp

@[simp] theorem guarded_mbhdrActs (s : State) (h seq step grantNo mbid edition len) :
    (mbhdrActs h seq step grantNo mbid edition len s).guarded = s.guarded := by
  simp [mbhdrActs]

@[simp] theorem guarded_dataArrives (s : State) (f seq seg size last bytes) :
    (dataArrives f seq seg size last bytes s).guarded = s.guarded := by
  unfold dataArrives
  dsimp only
  (repeat' split) <;> simp

@[simp] theorem guarded_dataActs (s : State) (h seq last seg bytes) : (dataActs h seq last seg bytes s).guarded = s.guarded := by
  simp [dataActs]

@[simp] theorem guarded_takeItem (s : State) (g grant) : (takeItem s g grant).guarded = s.guarded := by simp [takeItem]

@[simp] theorem guarded_localMb (s : State) (f) : (localMb f s).guarded = s.guarded := by
  unfold localMb
  dsimp only
  (repeat' split) <;> simp

@[simp] theorem goes_execAcceptance (s : State) (f) : Goes s (execAcceptance f s) := by simp [execAcceptance]

@[simp] theorem guarded_receiptActs (s : State) (h seq step what) : (receiptActs h seq step what s).guarded = s.guarded := by
  simp [receiptActs]

@[simp] theorem guarded_recallAtOut (s : State) (f seq step) : (recallAtOut f seq step s).guarded = s.guarded := by
  unfold recallAtOut
  (repeat' split) <;> simp

@[simp] theorem guarded_recallAtIn (s : State) (f seq) : (recallAtIn f seq s).guarded = s.guarded := by
  unfold recallAtIn
  split <;> simp

@[simp] theorem guarded_recallActs (s : State) (h seq step) : (recallActs h seq step s).guarded = s.guarded := by simp [recallActs]

@[simp] theorem guarded_recordPeer (s : State) (c j n token) : (recordPeer s c j n token).guarded = s.guarded := by
  unfold recordPeer
  split <;> simp

@[simp] theorem guarded_tokenArrives (s : State) (f n token) : (tokenArrives f n token s).guarded = s.guarded := by
  unfold tokenArrives
  dsimp only
  (repeat' split) <;> simp

@[simp] theorem guarded_localToken (s : State) (f n token) : (localToken f n token s).guarded = s.guarded := by
  unfold localToken
  dsimp only
  split <;> simp

@[simp] theorem guarded_tokenActs (s : State) (h step) : (tokenActs h step s).guarded = s.guarded := by simp [tokenActs]

@[simp] theorem guarded_noticeActs (s : State) (h step) : (noticeActs h step s).guarded = s.guarded := by simp [noticeActs]

@[simp] theorem guarded_enterOpen (s : State) (f) : (enterOpen f s).guarded = s.guarded := by simp [enterOpen]

@[simp] theorem guarded_refuseOpen (s : State) (f field) : (refuseOpen f field s).guarded = s.guarded := by simp [refuseOpen]

@[simp] theorem guarded_offerArrives (s : State) (via f from_ member dir len4k) :
    (offerArrives via f from_ member dir len4k s).guarded = s.guarded := by
  unfold offerArrives
  dsimp only
  (repeat' split) <;> simp

@[simp] theorem guarded_openActs (s : State) (h dir len4k) : (openActs h dir len4k s).guarded = s.guarded := by simp [openActs]

@[simp] theorem guarded_openackActs (s : State) (h result) : (openackActs h result s).guarded = s.guarded := by simp [openackActs]

@[simp] theorem guarded_openLocal (s : State) (f) : (openLocal f s).guarded = s.guarded := by simp [openLocal]

@[simp] theorem guarded_wakePath (s : State) (f) : (wakePath f s).guarded = s.guarded := by
  unfold wakePath
  split <;> simp

@[simp] theorem guarded_wakePaths (s : State) : (wakePaths s).guarded = s.guarded := by simp [wakePaths]

@[simp] theorem guarded_startOpen (s : State) (f) : (startOpen f s).guarded = s.guarded := by
  unfold startOpen
  split <;> simp

@[simp] theorem guarded_abandonTx (s : State) (f) : (abandonTx f s).guarded = s.guarded := by simp [abandonTx]

@[simp] theorem guarded_askClose (s : State) (f forced) : (askClose f forced s).guarded = s.guarded := by simp [askClose]

@[simp] theorem guarded_startClose (s : State) (f forced) : (startClose f forced s).guarded = s.guarded := by simp [startClose]

@[simp] theorem guarded_closeActs (s : State) (h forced firstUnused) : (closeActs h forced firstUnused s).guarded = s.guarded := by
  simp [closeActs]

@[simp] theorem goes_execFlumeBreak (s : State) (f) : Goes s (execFlumeBreak f s) := by simp [execFlumeBreak]

@[simp] theorem guarded_leavePath (s : State) (f) : (leavePath f s).guarded = s.guarded := by
  unfold leavePath
  split <;> simp

@[simp] theorem goes_execPathFail (s : State) (f) : Goes s (execPathFail f s) := by simp [execPathFail]

@[simp] theorem goes_execDrainComplete (s : State) (c) : Goes s (execDrainComplete c s) := by simp [execDrainComplete]

/-! ## Races (`Machine/Race`) -/

@[simp] theorem guarded_noteLane (s : State) (r action) : (noteLane s r action).guarded = s.guarded := by simp [noteLane]

@[simp] theorem guarded_endRace (s : State) (r st) : (endRace s r st).guarded = s.guarded := by simp [endRace]

@[simp] theorem guarded_failRace (s : State) (r) : (failRace s r).guarded = s.guarded := by simp [failRace]

@[simp] theorem guarded_takeLanes (s : State) (r set) : (takeLanes r set s).guarded = s.guarded := by simp [takeLanes]

@[simp] theorem guarded_markBad (s : State) (r l) : (markBad s r l).guarded = s.guarded := by simp [markBad]

@[simp] theorem guarded_wakeLanes (s : State) (r l) : (wakeLanes s r l).guarded = s.guarded := by simp [wakeLanes]

@[simp] theorem guarded_countRetrain (s : State) (r) : (countRetrain s r).guarded = s.guarded := by simp [countRetrain]

@[simp] theorem guarded_freshTraining (s : State) (r) : (freshTraining s r).guarded = s.guarded := by simp [freshTraining]

@[simp] theorem guarded_enterRetraining (s : State) (r) : (enterRetraining s r).guarded = s.guarded := by simp [enterRetraining]

@[simp] theorem guarded_retrainRace (s : State) (r) : (retrainRace s r).guarded = s.guarded := by simp [retrainRace]

@[simp] theorem goes_execRaceTraining (s : State) (r e) : Goes s (execRaceTraining r e s) := by
  unfold execRaceTraining
  dsimp only
  (repeat' split) <;> simp

@[simp] theorem goes_execTrainingTimeout (s : State) (r) : Goes s (execTrainingTimeout r s) := by simp [execTrainingTimeout]

@[simp] theorem guarded_noteErrors (s : State) (r errors) : (noteErrors s r errors).guarded = s.guarded := by simp [noteErrors]

@[simp] theorem guarded_freshChallenge (s : State) (r) : (freshChallenge s r).guarded = s.guarded := by simp [freshChallenge]

@[simp] theorem guarded_enterHello (s : State) (r) : (enterHello s r).guarded = s.guarded := by simp [enterHello]

@[simp] theorem goes_execQualification (s : State) (r errors) : Goes s (execQualification r errors s) := by simp [execQualification]

@[simp] theorem goes_execHelloSend (s : State) (r) : Goes s (execHelloSend r s) := by simp [execHelloSend]

@[simp] theorem guarded_sendBody (s : State) (r) : (sendBody s r).guarded = s.guarded := by simp [sendBody]

@[simp] theorem guarded_tryAttest (s : State) (r) : (tryAttest s r).guarded = s.guarded := by simp [tryAttest]

@[simp] theorem goes_execHello (s : State) (r m) : Goes s (execHello r m s) := by simp [execHello]

@[simp] theorem guarded_resendJournal (s : State) (r) : (resendJournal s r).guarded = s.guarded := by simp [resendJournal]

@[simp] theorem guarded_announce (s : State) (r) : (announce s r).guarded = s.guarded := by simp [announce]

@[simp] theorem guarded_rejoin (s : State) (r) : (rejoin s r).guarded = s.guarded := by simp [rejoin]

@[simp] theorem guarded_firstSealed (s : State) (r) : (firstSealed s r).guarded = s.guarded := by simp [firstSealed]

@[simp] theorem guarded_enterAttested (s : State) (r) : (enterAttested s r).guarded = s.guarded := by
  unfold enterAttested
  dsimp only
  (repeat' split) <;> simp

@[simp] theorem guarded_pumpRaceFlumes (s : State) (r) : (pumpRaceFlumes s r).guarded = s.guarded := by
  refine guarded_foldl (fun s f => ?_) _ _
  split <;> simp

@[simp] theorem guarded_resumeFrames (s : State) (r) : (resumeFrames s r).guarded = s.guarded := by simp [resumeFrames]

@[simp] theorem guarded_endRecovery (s : State) (r) : (endRecovery s r).guarded = s.guarded := by simp [endRecovery]

@[simp] theorem guarded_attestFails (s : State) (r code) : (attestFails s r code).guarded = s.guarded := by simp [attestFails]

@[simp] theorem guarded_attestPasses (s : State) (r) : (attestPasses s r).guarded = s.guarded := by simp [attestPasses]

@[simp] theorem guarded_attestStep (s : State) (r) : (attestStep s r).guarded = s.guarded := by
  unfold attestStep
  dsimp only
  split <;> simp

@[simp] theorem guarded_verifyBody (s : State) (r a) : (verifyBody r a s).guarded = s.guarded := by simp [verifyBody]

@[simp] theorem goes_execAttest (s : State) (r a) : Goes s (execAttest r a s) := by
  unfold execAttest
  split <;> simp

@[simp] theorem goes_execAttestRetry (s : State) (r) : Goes s (execAttestRetry r s) := by simp [execAttestRetry]

@[simp] theorem goes_execFailedRetry (s : State) (r) : Goes s (execFailedRetry r s) := by simp [execFailedRetry]

@[simp] theorem goes_execLinkAckTimer (s : State) (r) : Goes s (execLinkAckTimer r s) := by simp [execLinkAckTimer]

@[simp] theorem guarded_nackActs (s : State) (r base missing) : (nackActs r base missing s).guarded = s.guarded := by simp [nackActs]

@[simp] theorem goes_execRetransmissionTimeout (s : State) (r) : Goes s (execRetransmissionTimeout r s) := by
  unfold execRetransmissionTimeout
  dsimp only
  split <;> simp

@[simp] theorem goes_execFrameTransmit (s : State) (r) : Goes s (execFrameTransmit r s) := by
  unfold execFrameTransmit
  dsimp only
  (repeat' split) <;> simp

@[simp] theorem goes_execLaneFailure (s : State) (r lane) : Goes s (execLaneFailure r lane s) := by simp [execLaneFailure]

@[simp] theorem goes_execRetrainRecovery (s : State) (r good errors) : Goes s (execRetrainRecovery r good errors s) := by
  unfold execRetrainRecovery
  dsimp only
  (repeat' split) <;> simp

/-! ## Host ports (`Machine/HostPort`) -/

@[simp] theorem goes_hearPacket {act : State → State} (hact : ∀ s, (act s).guarded = s.guarded) (s : State) (p groups d) :
    Goes s (hearPacket p groups d s act) := by
  unfold hearPacket
  simp [hact]

@[simp] theorem guarded_rateReply (s : State) (a dst o) : (rateReply s a dst o).guarded = s.guarded := by simp [rateReply]

@[simp] theorem goes_execDiscover (s : State) (a d) : Goes s (execDiscover a d s) := by simp [execDiscover]

@[simp] theorem guarded_giveCookie (s : State) (a d) : (giveCookie s a d).guarded = s.guarded := by simp [giveCookie]

@[simp] theorem goes_execSopenFirstForm (s : State) (a d) : Goes s (execSopenFirstForm a d s) := by simp [execSopenFirstForm]

@[simp] theorem guarded_freeSession (s : State) (a n) : (freeSession s a n).guarded = s.guarded := by simp [freeSession]

@[simp] theorem guarded_breakSession (s : State) (a n) : (breakSession a n s).guarded = s.guarded := by simp [breakSession]

theorem guarded_sopenFails (s : State) (a h) : ∀ t ∈ sopenFails s a h, t.guarded = s.guarded := by
  unfold sopenFails
  (repeat' split) <;> simp

@[simp] theorem guarded_sopenRefusal (s : State) (a h jobId replaces) : (sopenRefusal s a h jobId replaces).2.guarded = s.guarded := by
  unfold sopenRefusal
  dsimp only
  split
  · rfl
  split
  · next h => exact guarded_sopenFails _ _ _ _ h
  · split_ifs <;> rfl

@[simp] theorem guarded_openSession (s : State) (a h segsize window) : (openSession s a h segsize window).guarded = s.guarded := by
  simp [openSession]

@[simp] theorem goes_execSopenSecondForm (s : State) (p h cookie jobId segsize window replaces) :
    Goes s (execSopenSecondForm p h cookie jobId segsize window replaces s) := by
  have hr := guarded_sopenRefusal s p h jobId replaces
  unfold execSopenSecondForm
  dsimp only
  split
  · simp
  split
  · simp
  split
  · simp
  split
  · simp
  split <;> next h => 
    rw [h] at hr
    simp [hr]

@[simp] theorem goes_execCookieEpoch (s : State) : Goes s (execCookieEpoch s) := by simp [execCookieEpoch]

@[simp] theorem guarded_halve (s : State) (a n) : (halve s a n).guarded = s.guarded := by simp [halve]

@[simp] theorem guarded_ackActs (s : State) (a n ceCount) : (ackActs a n ceCount s).guarded = s.guarded := by simp [ackActs]

@[simp] theorem guarded_resendPacket (s : State) (a n u) : (resendPacket a n s u).guarded = s.guarded := by simp [resendPacket]

@[simp] theorem guarded_sessionNackActs (s : State) (a n base missing) : (sessionNackActs a n base missing s).guarded = s.guarded := by
  simp [sessionNackActs]

@[simp] theorem goes_execSessionAckTimer (s : State) (a session) : Goes s (execSessionAckTimer a session s) := by simp [execSessionAckTimer]

@[simp] theorem goes_execSessionRetransmissionTimeout (s : State) (a session) : Goes s (execSessionRetransmissionTimeout a session s) := by
  unfold execSessionRetransmissionTimeout
  dsimp only
  split <;> simp

@[simp] theorem guarded_scloseActs (s : State) (a n) : (scloseActs a n s).guarded = s.guarded := by simp [scloseActs]

@[simp] theorem guarded_scloseBroken (s : State) (a n h) : (scloseBroken a n h s).guarded = s.guarded := by simp [scloseBroken]

@[simp] theorem goes_execHostPortLinkLoss (s : State) (a) : Goes s (execHostPortLinkLoss a s) := by simp [execHostPortLinkLoss]

@[simp] theorem goes_execHostPortLinkUp (s : State) (a rate) : Goes s (execHostPortLinkUp a rate s) := by simp [execHostPortLinkUp]

@[simp] theorem goes_execNeighbourSolicitation (s : State) (port target v4 tags) :
    Goes s (execNeighbourSolicitation port target v4 tags s) := by
  simp [execNeighbourSolicitation]

@[simp] theorem goes_execNeighbourResolution (s : State) (port addr mac) : Goes s (execNeighbourResolution port addr mac s) := by
  simp [execNeighbourResolution]

/-! ## The twin (`Machine/Twin`) -/

@[simp] theorem guarded_leaveFreeList (s : State) (a) : (leaveFreeList s a).guarded = s.guarded := by simp [leaveFreeList]

@[simp] theorem guarded_applyImp (s : State) (r) : (applyImp s r).guarded = s.guarded := by simp [applyImp]

@[simp] theorem guarded_setTwinFlume (s : State) (f v) : (State.setTwinFlume s f v).guarded = s.guarded := by simp [State.setTwinFlume]

@[simp] theorem guarded_applyEntry (s : State) (c bwd e nextGrant) : (applyEntry c bwd e nextGrant s).guarded = s.guarded := by
  simp [applyEntry]

@[simp] theorem guarded_applyPush (s : State) (f seq outF outSeq) : (applyPush f seq outF outSeq s).guarded = s.guarded := by
  unfold applyPush
  split <;> simp

@[simp] theorem guarded_applyEd (s : State) (sh state num head n settled) :
    (applyEd sh state num head n settled s).guarded = s.guarded := by
  unfold applyEd
  dsimp only
  (repeat' split) <;> simp

@[simp] theorem guarded_applyStepRec (s : State) (c r) : (applyStepRec c s r).guarded = s.guarded := by simp [applyStepRec]

@[simp] theorem guarded_applyStep (s : State) (c n lscale final nonfinite closed rstep recs) :
    (applyStep c n lscale final nonfinite closed rstep recs s).guarded = s.guarded := by
  simp [applyStep]

@[simp] theorem guarded_applyPeer (s : State) (c j token notice) : (applyPeer c j token notice s).guarded = s.guarded := by
  unfold applyPeer
  split <;> simp

theorem guarded_applyRecord (s : State) (c) : ∀ t, applyRecord s c = .done t → t.guarded = s.guarded := by
  cases c <;> simp only [applyRecord, reduceCtorEq, false_imp_iff, implies_true]
  case jwrite => split <;> simp
  case jimp => split <;> simp [guarded_foldl]
  case jentry =>
    unfold onMirror
    split
    · dsimp only
      split <;> simp
    · simp
  case jpush => simp
  case jflume => split <;> simp
  case jed =>
    split
    · simp
    split
    · simp
    split <;> simp
  case jstep => unfold onMirror; split <;> simp
  case jpeer => unfold onMirror; split <;> simp

@[simp] theorem guarded_sendJack (s : State) : (sendJack s).guarded = s.guarded := by simp [sendJack]

@[simp] theorem guarded_countApplied (s : State) : (countApplied s).guarded = s.guarded := by simp [countApplied]

@[simp] theorem guarded_applyNext (s : State) (fresh) : (applyNext fresh s).1.guarded = s.guarded := by
  unfold applyNext
  dsimp only
  split
  · rfl
  split
  · rfl
  split
  · next h => simpa using guarded_applyRecord _ _ _ h
  · simp
  · simp

@[simp] theorem guarded_applyMany (s : State) (fresh k) : (applyMany fresh k s).guarded = s.guarded := by
  induction k generalizing s with
  | zero => rfl
  | succ k ih =>
    unfold applyMany
    split
    · next h => rw [ih]; exact guarded_of_fst h (guarded_applyNext ..)
    · next h => exact guarded_of_fst h (guarded_applyNext ..)

@[simp] theorem guarded_applyEarly (s : State) (fresh) : (applyEarly fresh s).guarded = s.guarded := by simp [applyEarly]

@[simp] theorem guarded_onTwin {act : State → State} (hact : ∀ s, (act s).guarded = s.guarded) (s : State) (t : TwinHdr) :
    (onTwin t act s).guarded = s.guarded := by
  unfold onTwin
  split <;> simp [hact]

@[simp] theorem guarded_journalActs (s : State) (t2 i) : (journalActs t2 i s).guarded = s.guarded := by
  refine guarded_onTwin (fun s => ?_) ..
  simp

@[simp] theorem guarded_wakeAllRounds (s : State) : (wakeAllRounds s).guarded = s.guarded := by simp [wakeAllRounds]

@[simp] theorem guarded_release (s : State) (n) : (release n s).guarded = s.guarded := by simp [release]

@[simp] theorem guarded_jackActs (s : State) (t2 ackJsn) : (jackActs t2 ackJsn s).guarded = s.guarded := by
  refine guarded_onTwin (fun s => ?_) ..
  simp

@[simp] theorem goes_execJournalAckTimer (s : State) : Goes s (execJournalAckTimer s) := by simp [execJournalAckTimer]

@[simp] theorem guarded_rebuildGrants (s : State) (f l) : (rebuildGrants f l s).guarded = s.guarded := by
  have htake := guarded_takePages
  delta rebuildGrants rebuildGrants._f
  obtain ⟨take, e⟩ := asVariable takePages
  rw [← e] at htake ⊢
  induction l generalizing s with
  | nil => rfl
  | cons n rest ih =>
    dsimp only [List.brecOn, List.rec]
    split
    · rfl
    · next h => exact (ih _).trans (by simpa using htake _ _ _ _ _ h)

@[simp] theorem guarded_rebuildFlume (s : State) (f) : (rebuildFlume s f).guarded = s.guarded := by simp [rebuildFlume]

@[simp] theorem guarded_buildCtx (s : State) (c) : (buildCtx s c).guarded = s.guarded := by simp [buildCtx]

@[simp] theorem guarded_takeOver (s : State) : (takeOver s).guarded = s.guarded := by simp [takeOver]

@[simp] theorem guarded_leaveActs (s : State) (t2) : (leaveActs t2 s).guarded = s.guarded := by
  refine guarded_onTwin (fun s => ?_) ..
  simp

@[simp] theorem guarded_fence (s : State) : (fence s).guarded = s.guarded := by simp [fence]

@[simp] theorem guarded_movePaths (s : State) (b r) : (movePaths s b r).guarded = s.guarded := by
  refine guarded_foldl (fun s f => ?_) _ _
  split <;> simp

@[simp] theorem guarded_assumeAt (s : State) (r b inc) : (assumeAt r b inc s).guarded = s.guarded := by simp [assumeAt]

@[simp] theorem guarded_assumeActs (s : State) (t2 member incNew) : (assumeActs t2 member incNew s).guarded = s.guarded := by
  unfold assumeActs
  split <;> simp

@[simp] theorem goes_execPairHoldTimeout (s : State) : Goes s (execPairHoldTimeout s) := by simp [execPairHoldTimeout]

@[simp] theorem guarded_leavePair (s : State) (reason) : (leavePair reason s).guarded = s.guarded := by simp [leavePair]

@[simp] theorem guarded_rfetchActs (s : State) (t2 vpage unit mirror) : (rfetchActs t2 vpage unit mirror s).guarded = s.guarded := by
  refine guarded_onTwin (fun s => ?_) ..
  simp

/-! ## Jobs (`Machine/Job`) -/

@[simp] theorem guarded_refuse (s : State) (status detail) : ((refuse s status detail).stateOr s).guarded = s.guarded := by simp [refuse]

@[simp] theorem guarded_loadShard (s : State) (c a) : (loadShard c s a).guarded = s.guarded := by
  unfold loadShard
  dsimp only
  split
  · split
    · simp
    · next h => simpa using guarded_takePages _ _ _ _ _ h
  · simp

@[simp] theorem guarded_loadCtx (s : State) (m prog) : (loadCtx m prog s).guarded = s.guarded := by simp [loadCtx]

@[simp] theorem guarded_loadActs (s : State) (msg) : ((loadActs msg s).stateOr s).guarded = s.guarded := by
  unfold loadActs
  (repeat' split) <;> simp

@[simp] theorem guarded_endBuckets (s : State) (c a) : (endBuckets s c a).guarded = s.guarded := by simp [endBuckets]

@[simp] theorem guarded_wakeAllReds (s : State) : (wakeAllReds s).guarded = s.guarded := by simp [wakeAllReds]

@[simp] theorem guarded_recountFrom (s : State) (c n) : (recountFrom s c n).guarded = s.guarded := by simp [recountFrom]

@[simp] theorem guarded_reloadCtx (s : State) (c groups wgo prog) : (reloadCtx c groups wgo prog s).guarded = s.guarded := by
  simp [reloadCtx]

@[simp] theorem guarded_reloadActs (s : State) (msg) : ((reloadActs msg s).stateOr s).guarded = s.guarded := by
  unfold reloadActs
  dsimp only
  (repeat' split) <;> simp

@[simp] theorem guarded_unloadShard (s : State) (n) : (unloadShard s n).guarded = s.guarded := by simp [unloadShard]

@[simp] theorem guarded_unloadCtx (s : State) (c) : (unloadCtx c s).guarded = s.guarded := by simp [unloadCtx]

@[simp] theorem guarded_unloadActs (s : State) (c) : ((unloadActs c s).stateOr s).guarded = s.guarded := by
  unfold unloadActs
  (repeat' split) <;> simp

@[simp] theorem guarded_appendFree (s : State) (c l) : (appendFree s c l).guarded = s.guarded := by
  unfold appendFree
  dsimp only
  split <;> simp

@[simp] theorem guarded_mapPages (s : State) (first frames owner shared wp) :
    (mapPages s first frames owner shared wp).guarded = s.guarded := by
  simp [mapPages]

@[simp] theorem guarded_mapActs (s : State) (first count owner shared wp bin) :
    ((mapActs first count owner shared wp bin s).stateOr s).guarded = s.guarded := by
  unfold mapActs
  (repeat' split) <;> simp

@[simp] theorem guarded_freeFrame (s : State) (f) : (freeFrame s f).guarded = s.guarded := by
  unfold freeFrame
  (repeat' split) <;> simp

@[simp] theorem guarded_dropFrame_ (s : State) (f) : (dropFrame_ s f).guarded = s.guarded := by simp [dropFrame_]

@[simp] theorem guarded_releaseFrames (s : State) (f) : (releaseFrames f s).guarded = s.guarded := by
  unfold releaseFrames
  split <;> simp

@[simp] theorem guarded_unmapPage (s : State) (a) : (unmapPage s a).guarded = s.guarded := by simp [unmapPage]

@[simp] theorem guarded_unmapActs (s : State) (first count) : ((unmapActs first count s).stateOr s).guarded = s.guarded := by
  unfold unmapActs
  dsimp only
  (repeat' split) <;> simp

@[simp] theorem guarded_putActs (s : State) (addr bytes) : ((putActs addr bytes s).stateOr s).guarded = s.guarded := by
  unfold putActs
  dsimp only
  (repeat' split) <;> simp

@[simp] theorem guarded_fopenActs (s : State) (f) : ((fopenActs f s).stateOr s).guarded = s.guarded := by
  unfold fopenActs
  split <;> simp

@[simp] theorem guarded_fcloseActs (s : State) (f forced) : ((fcloseActs f forced s).stateOr s).guarded = s.guarded := by
  unfold fcloseActs
  split <;> simp

@[simp] theorem guarded_rewindHopper (s : State) (h n) : (rewindHopper h n s).guarded = s.guarded := by simp [rewindHopper]

@[simp] theorem guarded_rewindStep (s : State) (c n fwd bwd) : (rewindStep c n fwd bwd s).guarded = s.guarded := by simp [rewindStep]

@[simp] theorem guarded_rewindActs (s : State) (c step fwd bwd) : ((rewindActs c step fwd bwd s).stateOr s).guarded = s.guarded := by
  unfold rewindActs
  split <;> simp

@[simp] theorem guarded_abandonShard (s : State) (sh) : (abandonShard s sh).guarded = s.guarded := by simp [abandonShard]

@[simp] theorem guarded_abandonActs (s : State) (c) : ((abandonActs c s).stateOr s).guarded = s.guarded := by
  unfold abandonActs
  split <;> simp

@[simp] theorem guarded_forgetEds (s : State) (es) : (forgetEds s es).guarded = s.guarded := by simp [forgetEds]

@[simp] theorem guarded_rollShard (s : State) (t2 sh) : (rollShard t2 s sh).guarded = s.guarded := by simp [rollShard]

@[simp] theorem guarded_rollbackActs (s : State) (c step) : ((rollbackActs c step s).stateOr s).guarded = s.guarded := by
  unfold rollbackActs
  dsimp only
  (repeat' split) <;> simp

@[simp] theorem guarded_jobSubscribeActs (s : State) (a n on) : ((jobSubscribeActs a n on s).stateOr s).guarded = s.guarded := by
  simp [jobSubscribeActs]

/-! ## Power (`Machine/Power`) -/

@[simp] theorem guarded_setCode (s : State) (n code) : (setCode n code s).guarded = s.guarded := by simp [setCode]

@[simp] theorem guarded_pacedNow (s : State) : (pacedNow s).guarded = s.guarded := by simp [pacedNow]

@[simp] theorem guarded_applyTarget (s : State) (t2) : (applyTarget t2 s).guarded = s.guarded := by simp [applyTarget]

@[simp] theorem guarded_learn (s : State) (n powerW) : (learn n powerW s).guarded = s.guarded := by simp [learn]

@[simp] theorem guarded_logHot (s : State) : (logHot s).guarded = s.guarded := by simp [logHot]

@[simp] theorem goes_execControllerPeriod (s : State) (fixedW stoneW) : Goes s (execControllerPeriod fixedW stoneW s) := by
  simp [execControllerPeriod]

@[simp] theorem goes_execRegulatorReading (s : State) (avg2msW) : Goes s (execRegulatorReading avg2msW s) := by simp [execRegulatorReading]

@[simp] theorem guarded_setThrottle (s : State) (n k) : (setThrottle n k s).guarded = s.guarded := by simp [setThrottle]

@[simp] theorem goes_execThrottleEstimate (s : State) (estW) : Goes s (execThrottleEstimate estW s) := by simp [execThrottleEstimate]

@[simp] theorem goes_execEstimatorFault (s : State) (estW measW) : Goes s (execEstimatorFault estW measW s) := by simp [execEstimatorFault]

@[simp] theorem guarded_holdCtx (s : State) (cause c) : (holdCtx cause s c).guarded = s.guarded := by simp [holdCtx]

@[simp] theorem guarded_releaseCause (s : State) (cause) : (releaseCause cause s).guarded = s.guarded := by simp [releaseCause]

@[simp] theorem guarded_drainSensor (s : State) (cause scope id t2 limit cs) :
    (drainSensor cause scope id t2 limit cs s).guarded = s.guarded := by
  simp [drainSensor]

@[simp] theorem guarded_stoneSample (s : State) (n t2) : (stoneSample n t2 s).guarded = s.guarded := by simp [stoneSample]

@[simp] theorem guarded_binSample (s : State) (b t2) : (binSample b t2 s).guarded = s.guarded := by simp [binSample]

@[simp] theorem goes_execTemperatureSample (s : State) (stones spur bins) : Goes s (execTemperatureSample stones spur bins s) := by
  simp [execTemperatureSample]

@[simp] theorem goes_execDelaySettingChange (s : State) (n row) : Goes s (execDelaySettingChange n row s) := by
  simp [execDelaySettingChange]

@[simp] theorem goes_execAgeingSample (s : State) (n row marginLow tsRefNew) : Goes s (execAgeingSample n row marginLow tsRefNew s) := by
  simp [execAgeingSample]

@[simp] theorem goes_execEnergyEvent (s : State) : Goes s (execEnergyEvent s) := by simp [execEnergyEvent]

/-! ## Registers (`Machine/Regs`) -/

@[simp] theorem guarded_clearFlm (s : State) (o) : (clearFlm s o).guarded = s.guarded := by
  unfold clearFlm
  split <;> simp

@[simp] theorem guarded_clearRace (s : State) (o) : (clearRace s o).guarded = s.guarded := by
  unfold clearRace
  split <;> simp

@[simp] theorem guarded_clearRc (s : State) (off) : (clearRc s off).guarded = s.guarded := by
  unfold clearRc
  dsimp only
  (repeat' split) <;> simp

@[simp] theorem guarded_logIgnored (s : State) (off) : (logIgnored s off).guarded = s.guarded := by simp [logIgnored]

theorem guarded_writeCap (s : State) (new) : ∀ t ∈ writeCap new s, t.guarded = s.guarded := by simp [writeCap]

@[simp] theorem guarded_setPace (s : State) (on) : (setPace on s).guarded = s.guarded := by simp [setPace]

@[simp] theorem guarded_clearEst (s : State) : (clearEst s).guarded = s.guarded := by simp [clearEst]

theorem guarded_writePwr (s : State) (o value mask) : ∀ t ∈ writePwr o value mask s, t.guarded = s.guarded := by
  unfold writePwr
  split
  · split
    · exact guarded_writeCap _ _
    · simp
  split <;> simp

theorem guarded_writeFlm (s : State) (off o value mask) : ∀ t ∈ writeFlm off o value mask s, t.guarded = s.guarded := by
  unfold writeFlm
  split <;> simp

theorem guarded_writeLscale (s : State) (c value mask) : ∀ t ∈ writeLscale c value mask s, t.guarded = s.guarded := by simp [writeLscale]

@[simp] theorem guarded_retrainPort (s : State) (a) : (retrainPort a s).guarded = s.guarded := by simp [retrainPort]

@[simp] theorem guarded_writeRaceCfg (s : State) (a off value mask) : (writeRaceCfg a off value mask s).guarded = s.guarded := by
  simp [writeRaceCfg]

theorem guarded_writeEth (s : State) (o value mask) : ∀ t ∈ writeEth o value mask s, t.guarded = s.guarded := by
  unfold writeEth
  (repeat' split) <;> simp

@[simp] theorem guarded_frisketViolation (s : State) (detail) : (frisketViolation s detail).guarded = s.guarded := by
  simp [frisketViolation]

@[simp] theorem guarded_writeArb (s : State) (off value mask) : (writeArb off value mask s).guarded = s.guarded := by simp [writeArb]

@[simp] theorem guarded_writePairCfg (s : State) (off value mask) : (writePairCfg off value mask s).guarded = s.guarded := by
  simp [writePairCfg]

@[simp] theorem guarded_pairCommand (s : State) (takeover leave) : (pairCommand takeover leave s).guarded = s.guarded := by
  simp [pairCommand]

theorem guarded_writePair (s : State) (off value mask) : ∀ t ∈ writePair off value mask s, t.guarded = s.guarded := by simp [writePair]

theorem guarded_writeMil (s : State) (off o value mask) : ∀ t ∈ writeMil off o value mask s, t.guarded = s.guarded := by
  unfold writeMil
  dsimp only
  iterate 7
    split
    · simp
  split
  · exact guarded_writePair _ _ _ _
  · simp

theorem guarded_writeBlock (s : State) (off value mask miller) : ∀ t ∈ writeBlock off value mask miller s, t.guarded = s.guarded := by
  have own {r : Option State} (h : ∀ t ∈ r, t.guarded = s.guarded) : ∀ t ∈ (if miller then r else none), t.guarded = s.guarded := by
    split
    · exact h
    · simp
  unfold writeBlock
  dsimp only
  split
  · exact own (guarded_writePwr _ _ _ _)
  · split <;> simp
  · exact guarded_writeFlm _ _ _ _ _
  · split
    · exact guarded_writeLscale _ _ _ _
    · simp
  · split
    · split <;> simp
    · simp
  · split
    · exact own (by simp)
    · simp
  · split
    · exact own (guarded_writeEth _ _ _ _)
    · simp
  · split <;> simp
  · split
    · simp
    split <;> simp
  · exact own (guarded_writeMil _ _ _ _ _)
  · simp

@[simp] theorem guarded_writeReg (s : State) (off value mask miller) : (writeReg off value mask miller s).state.guarded = s.guarded := by
  unfold writeReg
  split
  · simp
  split
  · next h => exact guarded_writeBlock _ _ _ _ _ _ h
  · simp

@[simp] theorem goes_execRcRegisterRead (s : State) (off) : Goes s (execRcRegisterRead off s) := by simp [execRcRegisterRead]

@[simp] theorem goes_execRegisterWrite (s : State) (off value mask fromMiller) :
    Goes s (execRegisterWrite off value mask fromMiller s) := by
  simp [execRegisterWrite]

@[simp] theorem goes_execEdLscaleWrite (s : State) (c value mask) : Goes s (execEdLscaleWrite c value mask s) := by simp [execEdLscaleWrite]

@[simp] theorem guarded_refuseBlock (s : State) (off) : ((refuseBlock s off).stateOr s).guarded = s.guarded := by simp [refuseBlock]

@[simp] theorem guarded_jobRegreadActs (s : State) (off) : ((jobRegreadActs off s).stateOr s).guarded = s.guarded := by
  unfold jobRegreadActs
  dsimp only
  (repeat' split) <;> simp

@[simp] theorem guarded_jobRegwriteActs (s : State) (off value) : ((jobRegwriteActs off value s).stateOr s).guarded = s.guarded := by
  unfold jobRegwriteActs
  dsimp only
  split
  · simp
  have := guarded_writeReg s off.toNat value (maskAt 0 64) false
  split <;> next h => simpa [h] using this

/-! ## Requests (`Machine/Request`) -/

@[simp] theorem guarded_bucketReply (s : State) (dst o) : (bucketReply s dst o).guarded = s.guarded := by simp [bucketReply]

@[simp] theorem guarded_storeReply (s : State) (m o) : (storeReply m o s).guarded = s.guarded := by simp [storeReply]

@[simp] theorem guarded_signedReply (s : State) (m o) : (signedReply m o s).guarded = s.guarded := by simp [signedReply]

@[simp] theorem guarded_refuseRequest (s : State) (m op status) : (refuseRequest m op status s).guarded = s.guarded := by
  simp [refuseRequest]

@[simp] theorem guarded_countReplay (s : State) : (countReplay s).guarded = s.guarded := by simp [countReplay]

@[simp] theorem guarded_takeRequest (s : State) (m) : (takeRequest m s).guarded = s.guarded := by simp [takeRequest]

theorem goes_milRequest {P : Guarded → Prop} {onRefuse : State → State} {act : State → Reply}
    {s : State} (hP : P s.guarded)
    (hrefuse : ∀ s, (onRefuse s).guarded = s.guarded)
    (hact : ∀ u, u.guarded = s.guarded → P (act u).state.guarded)
    (m op who early) :
    GoesTo P (milRequest m op who early onRefuse act s) := by
  have hs (u : State) (hu : u.guarded = s.guarded) : P u.guarded := hu ▸ hP
  unfold milRequest
  dsimp only
  split
  · simpa using hP
  split
  · exact (goesTo_next ..).2 (hs _ (by simp))
  split
  · exact (goesTo_next ..).2 (hs _ (by simp))
  split
  · exact (goesTo_next ..).2 (hs _ (by simp [hrefuse]))
  split
  · exact (goesTo_next ..).2 (hs _ (by simp [hrefuse]))
  split
  · exact (goesTo_next ..).2 (hs _ (by simp))
  split
  · exact (goesTo_next ..).2 (hs _ (by simp))
  split
  · exact (goesTo_next ..).2 (hs _ (by simp))
  have ha := hact (takeRequest m s) (by simp)
  split <;> next h => simpa [h] using ha

@[simp] theorem goes_plainRequest {act : State → Reply} (hact : ∀ s, (act s).state.guarded = s.guarded) (s : State) (m op who early) :
    Goes s (plainRequest m op who early act s) := by
  exact goes_milRequest (P := (· = s.guarded)) rfl (fun _ => rfl) (fun u hu => (hact u).trans hu) ..

@[simp] theorem goes_execMillerHello (s : State) (m) : Goes s (execMillerHello m s) := by simp [execMillerHello]

@[simp] theorem guarded_readRegs (s : State) (k off) : (readRegs k off s).2.guarded = s.guarded := by
  induction k generalizing s off with
  | zero => rfl
  | succ k ih => simp [readRegs, ih]

@[simp] theorem goes_execRegread (s : State) (m off count) : Goes s (execRegread m off count s) := by simp [execRegread]

@[simp] theorem goes_regwrite (s : State) (m off value mask early) : Goes s (regwrite m off value mask early s) := by
  refine goes_plainRequest (fun s => ?_) ..
  have := guarded_writeReg s off value mask true
  cases h : writeReg off value mask true s <;> simpa [h, wroteReply] using this

@[simp] theorem goes_execRegwrite (s : State) (m off value mask) : Goes s (execRegwrite m off value mask s) := by simp [execRegwrite]

@[simp] theorem goes_execCapWWrite (s : State) (m value mask) : Goes s (execCapWWrite m value mask s) := by simp [execCapWWrite]

@[simp] theorem goes_execPaceEnWrite (s : State) (m on) : Goes s (execPaceEnWrite m on s) := by simp [execPaceEnWrite]

@[simp] theorem goes_execEstClear (s : State) (m) : Goes s (execEstClear m s) := by simp [execEstClear]

@[simp] theorem goes_execRetrain (s : State) (m port) : Goes s (execRetrain m port s) := by simp [execRetrain]

@[simp] theorem goes_execTakeover (s : State) (m) : Goes s (execTakeover m s) := by simp [execTakeover]

@[simp] theorem goes_execLeave (s : State) (m) : Goes s (execLeave m s) := by simp [execLeave]

@[simp] theorem goes_execEvread (s : State) (m flash first) : Goes s (execEvread m flash first s) := by simp [execEvread]

@[simp] theorem goes_execDefread (s : State) (m first) : Goes s (execDefread m first s) := by
  refine goes_plainRequest (fun s => ?_) ..
  simp

@[simp] theorem goes_execSubscribe (s : State) (m minSeverity periodMs offsets) :
    Goes s (execSubscribe m minSeverity periodMs offsets s) := by
  refine goes_plainRequest (fun s => ?_) ..
  dsimp only
  (repeat' split) <;> simp

@[simp] theorem goes_execTelemetryPush (s : State) (k) : Goes s (execTelemetryPush k s) := by
  unfold execTelemetryPush
  split <;> simp

@[simp] theorem goes_execSubscriptionLapse (s : State) (k) : Goes s (execSubscriptionLapse k s) := by simp [execSubscriptionLapse]

@[simp] theorem goes_execContinuationPart (s : State) (net op reqSeq split total offset len hashOk) :
    Goes s (execContinuationPart net op reqSeq split total offset len hashOk s) := by
  unfold execContinuationPart
  (repeat' split) <;> simp

@[simp] theorem goes_execAssemblyTimeout (s : State) (k) : Goes s (execAssemblyTimeout k s) := by simp [execAssemblyTimeout]

@[simp] theorem goes_execManagementLinkLoss (s : State) (up) : Goes s (execManagementLinkLoss up s) := by simp [execManagementLinkLoss]

@[simp] theorem goes_execPtpMessage (s : State) (domain timeNs lock) : Goes s (execPtpMessage domain timeNs lock s) := by
  simp [execPtpMessage]

@[simp] theorem goes_execQuiesce (s : State) (m mask) : Goes s (execQuiesce m mask s) := by simp [execQuiesce]

@[simp] theorem guarded_resumeHeld (s : State) (c) : (resumeHeld s c).guarded = s.guarded := by simp [resumeHeld]

@[simp] theorem goes_execResume (s : State) (m mask) : Goes s (execResume m mask s) := by simp [execResume]

/-! ## Faults (`Machine/Faults`) -/

@[simp] theorem guarded_setPhys (s : State) (n ok) : (setPhys n ok s).guarded = s.guarded := by simp [setPhys]

@[simp] theorem guarded_disablePhys (s : State) (n i source) : (disablePhys n i source s).guarded = s.guarded := by simp [disablePhys]

@[simp] theorem guarded_mapQuerns (s : State) (n) : (mapQuerns n s).guarded = s.guarded := by simp [mapQuerns]

@[simp] theorem guarded_loadQuern (s : State) (q) : (loadQuern s q).guarded = s.guarded := by simp [loadQuern]

@[simp] theorem guarded_forgetCause (s : State) (cause) : (forgetCause cause s).guarded = s.guarded := by simp [forgetCause]

@[simp] theorem guarded_rewindOpen (s : State) (both c) : (rewindOpen both s c).guarded = s.guarded := by simp [rewindOpen]

@[simp] theorem guarded_recoverCause (s : State) (both cause) : (recoverCause both cause s).guarded = s.guarded := by simp [recoverCause]

@[simp] theorem guarded_fenceStone (s : State) (n) : (fenceStone n s).guarded = s.guarded := by simp [fenceStone]

@[simp] theorem guarded_stopStone (s : State) (n why) : (stopStone n why s).guarded = s.guarded := by simp [stopStone]

@[simp] theorem guarded_answerStone (s : State) (n status) : (answerStone n status s).guarded = s.guarded := by
  unfold answerStone
  split <;> simp

@[simp] theorem guarded_degradedLeaves (s : State) : (degradedLeaves s).guarded = s.guarded := by simp [degradedLeaves]

@[simp] theorem guarded_degradeStone (s : State) (n source) : (degradeStone n source s).guarded = s.guarded := by simp [degradeStone]

@[simp] theorem goes_execStoneProbe (s : State) (n answered) : Goes s (execStoneProbe n answered s) := by simp [execStoneProbe]

@[simp] theorem goes_execStonereset (s : State) (m stone) : Goes s (execStonereset m stone s) := by simp [execStonereset]

@[simp] theorem guarded_restartUnion (s : State) (n pass) : (restartUnion n pass s).guarded = s.guarded := by simp [restartUnion]

@[simp] theorem goes_execStoneRecovery (s : State) (n o) : Goes s (execStoneRecovery n o s) := by simp [execStoneRecovery]

@[simp] theorem guarded_fenceQuern (s : State) (q phys) : (fenceQuern q phys s).guarded = s.guarded := by simp [fenceQuern]

@[simp] theorem guarded_substitute (s : State) (q old i) : (substitute q old i s).guarded = s.guarded := by simp [substitute]

@[simp] theorem guarded_noSpare (s : State) (n) : (noSpare n s).guarded = s.guarded := by simp [noSpare]

@[simp] theorem goes_execQuernFault (s : State) (q o) : Goes s (execQuernFault q o s) := by
  unfold execQuernFault
  dsimp only
  (repeat' split) <;> simp

@[simp] theorem guarded_meetCorrected (s : State) (f g) : (meetCorrected f s g).guarded = s.guarded := by simp [meetCorrected]

@[simp] theorem guarded_haltReader (s : State) (a r) : (haltReader s a r).guarded = s.guarded := by
  unfold haltReader
  split <;> simp

@[simp] theorem guarded_spurFault (s : State) : (spurFault s).guarded = s.guarded := by simp [spurFault]

@[simp] theorem goes_execUncorrectableError (s : State) (page found reader) : Goes s (execUncorrectableError page found reader s) := by
  unfold execUncorrectableError
  split <;> simp

@[simp] theorem guarded_recallEntry (s : State) (k) : (recallEntry s k).guarded = s.guarded := by
  unfold recallEntry
  split <;> simp

@[simp] theorem guarded_rewindEntry (s : State) (page k) : (rewindEntry page s k).guarded = s.guarded := by
  unfold rewindEntry
  split <;> simp

@[simp] theorem guarded_fetchUnits (s : State) (a) : (fetchUnits s a).guarded = s.guarded := by simp [fetchUnits]

@[simp] theorem guarded_recoverPages (s : State) (ps) : (recoverPages ps s).guarded = s.guarded := by simp [recoverPages]

@[simp] theorem goes_execPageMigration (s : State) (page chunks unreadable) : Goes s (execPageMigration page chunks unreadable s) := by
  simp [execPageMigration]

@[simp] theorem guarded_rdataActs (s : State) (t2 vpage unit mirror bad bytes) :
    (rdataActs t2 vpage unit mirror bad bytes s).guarded = s.guarded := by
  refine guarded_onTwin (fun s => ?_) ..
  simp

@[simp] theorem goes_execRowRemap (s : State) (row uncorrectable) : Goes s (execRowRemap row uncorrectable s) := by
  unfold execRowRemap
  split <;> simp

@[simp] theorem goes_execPatrolRead (s : State) (frame corrected uncorrectable) :
    Goes s (execPatrolRead frame corrected uncorrectable s) := by
  unfold execPatrolRead
  split <;> simp

@[simp] theorem goes_execStoreUncorrectable (s : State) (page granule way line reader) :
    Goes s (execStoreUncorrectable page granule way line reader s) := by
  unfold execStoreUncorrectable
  split <;> simp

@[simp] theorem guarded_bondDefect (s : State) (site group bond spare source) :
    (bondDefect site group bond spare source s).guarded = s.guarded := by
  unfold bondDefect
  split <;> simp

@[simp] theorem guarded_degradeBin (s : State) (b) : (degradeBin b s).guarded = s.guarded := by simp [degradeBin]

@[simp] theorem guarded_degradeGuest (s : State) : (degradeGuest s).guarded = s.guarded := by simp [degradeGuest]

@[simp] theorem guarded_bondConsequence (s : State) (site) : (bondConsequence site s).guarded = s.guarded := by
  unfold bondConsequence
  split <;> simp

@[simp] theorem guarded_disableGroup (s : State) (site group source) : (disableGroup site group source s).guarded = s.guarded := by
  simp [disableGroup]

@[simp] theorem guarded_failBond (s : State) (l source) : (failBond l source s).guarded = s.guarded := by simp [failBond]

@[simp] theorem goes_execBondFailure (s : State) (l) : Goes s (execBondFailure l s) := by simp [execBondFailure]

@[simp] theorem goes_execReferenceClockLoss (s : State) (refclk) : Goes s (execReferenceClockLoss refclk s) := by
  simp [execReferenceClockLoss]

@[simp] theorem guarded_retrainAll (s : State) : (retrainAll s).guarded = s.guarded := by simp [retrainAll]

@[simp] theorem guarded_loseBins (s : State) : (loseBins s).guarded = s.guarded := by simp [loseBins]

@[simp] theorem goes_execReferenceClockResume (s : State) (within60s binLapse) :
    Goes s (execReferenceClockResume within60s binLapse s) := by
  simp [execReferenceClockResume]

@[simp] theorem guarded_freshMiller (s : State) : (freshMiller s).guarded = s.guarded := by simp [freshMiller]

@[simp] theorem guarded_abortRecal (s : State) : (abortRecal s).guarded = s.guarded := by simp [abortRecal]

@[simp] theorem goes_execMillerWatchdogReset (s : State) (within60s) : Goes s (execMillerWatchdogReset within60s s) := by
  simp [execMillerWatchdogReset]

/-! ## Security (`Machine/Security`) -/

@[simp] theorem guarded_issueColophon (s : State) : (issueColophon s).guarded = s.guarded := by simp [issueColophon]

@[simp] theorem guarded_freshColophon (s : State) (nonce) : (freshColophon nonce s).2.guarded = s.guarded := by simp [freshColophon]

@[simp] theorem guarded_whenEngine {act : State → Reply} (hact : ∀ s, (act s).state.guarded = s.guarded) (s : State) :
    (whenEngine act s).state.guarded = s.guarded := by
  unfold whenEngine
  split
  · rfl
  · exact hact s

@[simp] theorem goes_execColophon (s : State) (m nonce) : Goes s (execColophon m nonce s) := by simp [execColophon]

@[simp] theorem guarded_dropKeys (s : State) (old new) : (dropKeys old new s).guarded = s.guarded := by simp [dropKeys]

@[simp] theorem guarded_applyFrisket (s : State) (f) : (applyFrisket f s).guarded = { s.guarded with frisket := f, waiting := none } := by
  simp only [applyFrisket, guarded_issueColophon, guarded_logEvent, guarded_dropKeys]
  rfl

theorem goes_execFrisket (s : State) (m rec reservedZero) :
    GoesTo (fun g => g.queue = s.pending ∧ g.part = s.part) (execFrisket m rec reservedZero s) := by
  refine goes_milRequest (P := fun g => g.queue = s.pending ∧ g.part = s.part) ⟨rfl, rfl⟩
    (fun s => guarded_frisketViolation ..) (fun u hu => ?_) ..
  have hq : u.guarded.queue = s.pending ∧ u.guarded.part = s.part := hu ▸ ⟨rfl, rfl⟩
  split
  · split
    · simpa [guarded_applyFrisket] using hq
    · exact hq
  · simpa using hq

@[simp] theorem guarded_admitRefused (s : State) (step) : (admitRefused step s).guarded = s.guarded := by simp [admitRefused]

@[simp] theorem guarded_renewReserve (s : State) : (renewReserve s).guarded = s.guarded := by simp [renewReserve]

@[simp] theorem guarded_admitJob (s : State) (b) : (admitJob b s).guarded = s.guarded.afterAdmission := by
  unfold admitJob
  extract_lets s1 src1 src2 src3 s2 s3
  have h1 : s1.guarded = s.guarded.afterAdmission := by
    unfold s1 Guarded.afterAdmission
    cases h : s.sec.pendingFrisket with
    | none => simp [State.guarded, h]
    | some f => simp only [guarded_applyFrisket]; simp [State.guarded, h]
  have h2 : s2.guarded = s1.guarded := (guarded_renewReserve _).trans rfl
  have h3 : s3.guarded = s2.guarded := by simp [s3]
  exact (guarded_foldl (fun s r => guarded_tryAttest ..) _ _).trans (h3.trans (h2.trans h1))

theorem guarded_tryAdmit (s : State) (m b) : KeptOrAdmitted s.guarded (tryAdmit m b s).1.guarded := by
  unfold tryAdmit
  split
  · left; split <;> simp
  split
  · left; simp
  split
  · left; simp
  split
  · left; simp
  · right; simp

theorem goes_execAdmission (s : State) (m b) : GoesTo (KeptOrAdmitted s.guarded) (execAdmission m b s) := by
  refine goes_milRequest (P := KeptOrAdmitted s.guarded) (.inl rfl) (fun s => guarded_admitRefused ..) (fun u hu => ?_) ..
  unfold whenEngine
  split
  · exact .inl hu
  have ht := guarded_tryAdmit u m b
  rw [hu] at ht
  dsimp only
  split <;> next h => simpa [h] using ht

theorem guarded_admitHeld (s : State) : KeptOrAdmitted s.guarded (admitHeld s).guarded := by
  unfold admitHeld
  split
  · exact .inl rfl
  next m b _ =>
  have ht := guarded_tryAdmit { s with sec := { s.sec with heldAdmit := none } } m b
  simp only [guarded_updateSec] at ht
  split <;> next h => simpa [h] using ht

@[simp] theorem guarded_freeSessions (s : State) : (freeSessions s).guarded = s.guarded := by simp [freeSessions]

@[simp] theorem guarded_endJob (s : State) : (endJob s).guarded = s.guarded := by simp [endJob]

@[simp] theorem goes_execEndJob (s : State) (m) : Goes s (execEndJob m s) := by simp [execEndJob]

@[simp] theorem goes_execGuestScrubConfirm (s : State) (confirmed) : Goes s (execGuestScrubConfirm confirmed s) := by
  simp [execGuestScrubConfirm]

@[simp] theorem guarded_scrubbed (s : State) : (scrubbed s).guarded = s.guarded := by simp [scrubbed]

@[simp] theorem guarded_failPhys (s : State) (n i source) : (failPhys n i source s).guarded = s.guarded := by
  unfold failPhys
  dsimp only
  (repeat' split) <;> simp

@[simp] theorem guarded_failForme (s : State) (source f) : (failForme source s f).guarded = s.guarded := by simp [failForme]

theorem goes_execScrub (s : State) (badFrames badQuerns badWays badFormes durationUs) :
    GoesTo (KeptOrAdmitted s.guarded) (execScrub badFrames badQuerns badWays badFormes durationUs s) := by
  unfold execScrub
  refine goesTo_whileClocked (P := KeptOrAdmitted s.guarded) (.inl rfl) ?_
  extract_lets up frames fails s1 s2 s3 s4 rec_ src1 src2 src3 s5
  split
  · have h2 : s2.guarded = s.guarded := by simp [s2, s1, guarded_foldl]
    have h4 : s4.guarded = s.guarded := by simp [s4, s3, guarded_foldl, h2]
    have h5 : s5.guarded = s.guarded := h4
    simpa [h5] using guarded_admitHeld (logEvent (issueColophon s5) evScrubRecord scPackage 0 [rec_.result])
  · exact (goesTo_next ..).2 (.inl rfl)

@[simp] theorem guarded_guestDeny (s : State) (a) : (guestDeny a s).guarded = s.guarded := by simp [guestDeny]

@[simp] theorem goes_execGuestAccess (s : State) (write addr bytes) : Goes s (execGuestAccess write addr bytes s) := by
  simp [execGuestAccess]

/-! ## Firmware (`Machine/Firmware`) -/

@[simp] theorem guarded_logVerified (s : State) (img k) : (logVerified s img k).guarded = s.guarded := by simp [logVerified]

@[simp] theorem guarded_stageBlock (s : State) (a b bytes) : (stageBlock a b bytes s).guarded = s.guarded := by simp [stageBlock]

@[simp] theorem goes_execFwdata (s : State) (a d imageId block blocks blockOk busy bytes img) :
    Goes s (execFwdata a d imageId block blocks blockOk busy bytes img s) := by
  refine goes_hearPacket (fun s => ?_) ..
  dsimp only
  (repeat' split) <;> simp

@[simp] theorem goes_execFirmwareStagingIdle (s : State) : Goes s (execFirmwareStagingIdle s) := by
  unfold execFirmwareStagingIdle
  split <;> simp

@[simp] theorem goes_execFwstatus (s : State) (a d imageId) : Goes s (execFwstatus a d imageId s) := by
  refine goes_hearPacket (fun s => ?_) ..
  split
  · rfl
  split
  · rfl
  split
  · rfl
  split <;> simp

@[simp] theorem goes_execFwrepair (s : State) (a) : Goes s (execFwrepair a s) := by
  unfold execFwrepair
  dsimp only
  (repeat' split) <;> simp

@[simp] theorem goes_execFwstage (s : State) (m img) : Goes s (execFwstage m img s) := by simp [execFwstage]

@[simp] theorem goes_execFwactivate (s : State) (m kind) : Goes s (execFwactivate m kind s) := by
  refine goes_plainRequest (fun s => ?_) ..
  dsimp only
  (repeat' split) <;> simp

/-! ## Bring-up (`Machine/BringUp`) -/

@[simp] theorem guarded_resetDies (s : State) : (resetDies s).guarded = s.guarded := by simp [resetDies]

@[simp] theorem guarded_losePower (s : State) (why) : (losePower why s).guarded = s.guarded := by simp [losePower]

@[simp] theorem guarded_powerUp (s : State) : (powerUp s).guarded = s.guarded := by simp [powerUp]

@[simp] theorem goes_execPwrgoodAssert (s : State) : Goes s (execPwrgoodAssert s) := by simp [execPwrgoodAssert]

@[simp] theorem goes_execPwrgoodDeassert (s : State) : Goes s (execPwrgoodDeassert s) := by simp [execPwrgoodDeassert]

@[simp] theorem guarded_failBringUp (s : State) (k) : (failBringUp k s).guarded = s.guarded := by simp [failBringUp]

@[simp] theorem guarded_bootImage (s : State) (valid kind) : (bootImage valid s kind).guarded = s.guarded := by
  unfold bootImage
  dsimp only
  split <;> simp

@[simp] theorem guarded_openFlash (s : State) (modes) : (openFlash modes s).guarded = s.guarded := by simp [openFlash]

@[simp] theorem guarded_commitStone (s : State) (a n) : (commitStone a s n).guarded = s.guarded := by simp [commitStone]

@[simp] theorem guarded_writeCal (s : State) (a) : (writeCal a s).guarded = s.guarded := by simp [writeCal]

@[simp] theorem guarded_completeCal (s : State) : (completeCal s).guarded = s.guarded := by
  unfold completeCal
  split <;> simp

@[simp] theorem guarded_dropRecords (s : State) (bad) : (dropRecords bad s).guarded = s.guarded := by simp [dropRecords]

@[simp] theorem goes_execMillerBoot (s : State) (valid calCrcOk calSerialOk modes badRecords) :
    Goes s (execMillerBoot valid calCrcOk calSerialOk modes badRecords s) := by
  simp [execMillerBoot]

@[simp] theorem guarded_contradiction (s : State) (kind loc) : (contradiction kind loc s).guarded = s.guarded := by simp [contradiction]

@[simp] theorem guarded_hidePort (s : State) (k) : (hidePort s k).guarded = s.guarded := by simp [hidePort]

@[simp] theorem guarded_hideUnit (s : State) (kind k) : (hideUnit kind s k).guarded = s.guarded := by
  unfold hideUnit
  split <;> simp

@[simp] theorem guarded_failUnit (s : State) (kind k) : (failUnit kind s k).guarded = s.guarded := by
  unfold failUnit
  split <;> simp

@[simp] theorem guarded_unionUnits (s : State) (kind bad) : (unionUnits kind bad s).guarded = s.guarded := by simp [unionUnits]

@[simp] theorem goes_execSpurSelfTest (s : State) (refPresent fatal badWays badFormes badRacePorts badHostPorts) :
    Goes s (execSpurSelfTest refPresent fatal badWays badFormes badRacePorts badHostPorts s) := by
  simp [execSpurSelfTest]

@[simp] theorem guarded_testRow (s : State) (r) : (testRow s r).guarded = s.guarded := by simp [testRow]

@[simp] theorem goes_execBinTest (s : State) (b badRows badGroups) : Goes s (execBinTest b badRows badGroups s) := by simp [execBinTest]

@[simp] theorem guarded_unionQuern (s : State) (n pass i) : (unionQuern n pass s i).guarded = s.guarded := by simp [unionQuern]

@[simp] theorem guarded_raiseStone (s : State) (n) : (raiseStone n s).guarded = s.guarded := by simp [raiseStone]

@[simp] theorem goes_execStoneStartTest (s : State) (n t2) : Goes s (execStoneStartTest n t2 s) := by simp [execStoneStartTest]

@[simp] theorem goes_execFirmwareBroadcast (s : State) : Goes s (execFirmwareBroadcast s) := by simp [execFirmwareBroadcast]

@[simp] theorem guarded_failBroadcast (s : State) (q) : (failBroadcast s q).guarded = s.guarded := by simp [failBroadcast]

@[simp] theorem guarded_loadAll (s : State) : (loadAll s).guarded = s.guarded := by simp [loadAll]

@[simp] theorem goes_execBroadcastRepair (s : State) (incomplete) : Goes s (execBroadcastRepair incomplete s) := by
  simp [execBroadcastRepair]

@[simp] theorem goes_execLinkQualification (s : State) (bad) : Goes s (execLinkQualification bad s) := by simp [execLinkQualification]

@[simp] theorem goes_execReady (s : State) (ms) : Goes s (execReady ms s) := by simp [execReady]

@[simp] theorem goes_execRestart (s : State) (m) : Goes s (execRestart m s) := by simp [execRestart]

@[simp] theorem goes_execRecal (s : State) (m serial) : Goes s (execRecal m serial s) := by simp [execRecal]

@[simp] theorem guarded_failCal (s : State) (a) : (failCal a s).guarded = s.guarded := by simp [failCal]

@[simp] theorem goes_execRecalDone (s : State) (phase pass cal) : Goes s (execRecalDone phase pass cal s) := by
  unfold execRecalDone
  (repeat' split) <;> simp

@[simp] theorem goes_execRecalabort (s : State) (m) : Goes s (execRecalabort m s) := by simp [execRecalabort]

/-! ## Delivery (`Machine/Deliver`) -/

@[simp] theorem guarded_respond (s : State) (a n held f) : (respond a n held f s).guarded = s.guarded := by simp [respond]

theorem guarded_jobOp {c : Instr} {r : JobHdr × Nat × Bool × (State → Answer)} (h : jobOp c = some r) (s : State) :
    ((r.2.2.2 s).stateOr s).guarded = s.guarded := by
  unfold jobOp at h
  split at h <;> cases h
  · next p => dsimp only; cases p.final <;> simp
  all_goals simp
theorem guarded_runFirst (s : State) (a n) :
    ∀ t ∈ runFirst a n s, t.guarded = s.guarded := by
  unfold runFirst
  dsimp only
  split
  · simp
  split
  · simp
  next j op held act h =>
  split
  · simp
  next h2 =>
  obtain ⟨c, -, hc⟩ := Option.bind_eq_some_iff.1 h
  simpa [h2] using guarded_jobOp hc s

@[simp] theorem guarded_runRequests (s : State) (p n k) : (runRequests p n k s).guarded = s.guarded := by
  induction k generalizing s with
  | zero => rfl
  | succ k ih =>
    unfold runRequests
    split
    · next h => rw [ih]; exact guarded_runFirst _ _ _ _ h
    · rfl

@[simp] theorem guarded_runSession (s : State) (a n) : (runSession a n s).guarded = s.guarded := by simp [runSession]

@[simp] theorem guarded_runSessions (s : State) : (runSessions s).guarded = s.guarded := by simp [runSessions]

@[simp] theorem guarded_joinRequests (s : State) (j c) : (joinRequests j c s).guarded = s.guarded := by simp [joinRequests]

@[simp] theorem guarded_loadPart (s : State) (j q) : (loadPart j q s).guarded = s.guarded := by
  unfold loadPart
  dsimp only
  (repeat' split) <;> simp

@[simp] theorem guarded_deliverFrame (s : State) (c) : (deliverFrame c s).guarded = s.guarded := by
  unfold deliverFrame
  (repeat' split) <;> simp

@[simp] theorem guarded_deliverKept (s : State) (via k) : (deliverKept via k s).guarded = s.guarded := by
  induction k generalizing s with
  | zero => rfl
  | succ k ih =>
    unfold deliverKept
    split
    · next h => simpa [ih] using guarded_takeKept _ _ _ h
    · rfl

@[simp] theorem goes_arrive (s : State) (h c) : Goes s (arrive h c s) := by
  unfold arrive
  split
  · next h => simpa using guarded_of_fst h (guarded_receive ..)
  · next h => simpa using guarded_of_fst h (guarded_receive ..)

@[simp] theorem goes_onRace (s : State) (r h c) : Goes s (onRace r h c s) := by simp [onRace]

@[simp] theorem goes_onHost (s : State) (h c) : Goes s (onHost h c s) := by
  unfold onHost
  split <;> simp

@[simp] theorem goes_execMbhdr (s : State) (h seq step grantNo mbid edition len) :
    Goes s (execMbhdr h seq step grantNo mbid edition len s) := by
  simp [execMbhdr]

@[simp] theorem goes_execData (s : State) (h seq last seg bytes) : Goes s (execData h seq last seg bytes s) := by simp [execData]

@[simp] theorem goes_execGrant (s : State) (h grantNo) : Goes s (execGrant h grantNo s) := by simp [execGrant]

@[simp] theorem goes_execReceipt (s : State) (h seq step what) : Goes s (execReceipt h seq step what s) := by simp [execReceipt]

@[simp] theorem goes_execRecallMb (s : State) (h seq step) : Goes s (execRecallMb h seq step s) := by simp [execRecallMb]

@[simp] theorem goes_execOpenFlume (s : State) (h dir len4k) : Goes s (execOpenFlume h dir len4k s) := by simp [execOpenFlume]

@[simp] theorem goes_execOpenack (s : State) (h dir len4k result) : Goes s (execOpenack h dir len4k result s) := by simp [execOpenack]

@[simp] theorem goes_execClose (s : State) (h forced lastIssued firstUnused) : Goes s (execClose h forced lastIssued firstUnused s) := by
  simp [execClose]

@[simp] theorem goes_execToken (s : State) (h step) : Goes s (execToken h step s) := by simp [execToken]

@[simp] theorem goes_execNotice (s : State) (h step) : Goes s (execNotice h step s) := by simp [execNotice]

@[simp] theorem goes_execRed (s : State) (h id blockHdr a nb lines err) : Goes s (execRed h id blockHdr a nb lines err s) := by
  unfold execRed
  dsimp only
  split
  · refine goesTo_whileClocked rfl ?_
    split
    · next h => simpa using guarded_takeLocal _ _ _ h
    · simp
  · exact goes_arrive ..

@[simp] theorem goes_execRedack (s : State) (h id credit formes) : Goes s (execRedack h id credit formes s) := by
  unfold execRedack
  dsimp only
  split
  · refine goesTo_whileClocked rfl ?_
    split
    · next h => simpa using guarded_takeLocal _ _ _ h
    · simp
  · exact goes_arrive ..

@[simp] theorem goes_execLinkAck (s : State) (r h) : Goes s (execLinkAck r h s) := by simp [execLinkAck]

@[simp] theorem goes_execLinkNack (s : State) (r h base missing) : Goes s (execLinkNack r h base missing s) := by simp [execLinkNack]

@[simp] theorem goes_execLinkResume (s : State) (r h) : Goes s (execLinkResume r h s) := by simp [execLinkResume]

@[simp] theorem goes_execLinkWithdraw (s : State) (r h) : Goes s (execLinkWithdraw r h s) := by simp [execLinkWithdraw]

@[simp] theorem goes_execAck (s : State) (h ceCount) : Goes s (execAck h ceCount s) := by simp [execAck]

@[simp] theorem goes_execNack (s : State) (h base missing) : Goes s (execNack h base missing s) := by simp [execNack]

@[simp] theorem goes_execSclose (s : State) (h) : Goes s (execSclose h s) := by
  unfold execSclose
  split <;> simp

@[simp] theorem goes_execLoad (s : State) (j part) : Goes s (execLoad j part s) := by simp [execLoad]

@[simp] theorem goes_execUnload (s : State) (j c) : Goes s (execUnload j c s) := by simp [execUnload]

@[simp] theorem goes_execReload (s : State) (j msg) : Goes s (execReload j msg s) := by simp [execReload]

@[simp] theorem goes_execMap (s : State) (j first count owner shared wp bin) : Goes s (execMap j first count owner shared wp bin s) := by
  simp [execMap]

@[simp] theorem goes_execUnmap (s : State) (j first count) : Goes s (execUnmap j first count s) := by simp [execUnmap]

@[simp] theorem goes_execPut (s : State) (j addr bytes) : Goes s (execPut j addr bytes s) := by simp [execPut]

@[simp] theorem goes_execJobRegread (s : State) (j off) : Goes s (execJobRegread j off s) := by simp [execJobRegread]

@[simp] theorem goes_execJobRegwrite (s : State) (j off value) : Goes s (execJobRegwrite j off value s) := by simp [execJobRegwrite]

@[simp] theorem goes_execFopen (s : State) (j f) : Goes s (execFopen j f s) := by simp [execFopen]

@[simp] theorem goes_execFclose (s : State) (j f forced) : Goes s (execFclose j f forced s) := by simp [execFclose]

@[simp] theorem goes_execRewind (s : State) (j c step fwd bwd) : Goes s (execRewind j c step fwd bwd s) := by simp [execRewind]

@[simp] theorem goes_execAbandon (s : State) (j c) : Goes s (execAbandon j c s) := by simp [execAbandon]

@[simp] theorem goes_execRollback (s : State) (j c step) : Goes s (execRollback j c step s) := by simp [execRollback]

@[simp] theorem goes_execJobSubscribe (s : State) (j on) : Goes s (execJobSubscribe j on s) := by simp [execJobSubscribe]

@[simp] theorem goes_execJwrite (s : State) (t2 vpage unit bytes) : Goes s (execJwrite t2 vpage unit bytes s) := by simp [execJwrite]

@[simp] theorem goes_execJimp (s : State) (t2 recs) : Goes s (execJimp t2 recs s) := by simp [execJimp]

@[simp] theorem goes_execJentry (s : State) (t2 ctx bwd e nextGrant) : Goes s (execJentry t2 ctx bwd e nextGrant s) := by simp [execJentry]

@[simp] theorem goes_execJpush (s : State) (t2 flume seq outFlume outSeq) : Goes s (execJpush t2 flume seq outFlume outSeq s) := by
  simp [execJpush]

@[simp] theorem goes_execJflume (s : State) (t2 flume seq issued used state) : Goes s (execJflume t2 flume seq issued used state s) := by
  simp [execJflume]

@[simp] theorem goes_execJed (s : State) (t2 shard state number refcount head pages settled) :
    Goes s (execJed t2 shard state number refcount head pages settled s) := by
  simp [execJed]

@[simp] theorem goes_execJstep (s : State) (t2 ctx step lscale final nonfinite closed rstep recs) :
    Goes s (execJstep t2 ctx step lscale final nonfinite closed rstep recs s) := by
  simp [execJstep]

@[simp] theorem goes_execJpeer (s : State) (t2 ctx peer lastToken lastNotice) : Goes s (execJpeer t2 ctx peer lastToken lastNotice s) := by
  simp [execJpeer]

@[simp] theorem goes_execJack (s : State) (t2 ackJsn) : Goes s (execJack t2 ackJsn s) := by simp [execJack]

@[simp] theorem goes_execTwinLeave (s : State) (t2 reason) : Goes s (execTwinLeave t2 reason s) := by simp [execTwinLeave]

@[simp] theorem goes_execAssume (s : State) (t2 member incNew) : Goes s (execAssume t2 member incNew s) := by simp [execAssume]

@[simp] theorem goes_execRfetch (s : State) (t2 vpage unit mirror) : Goes s (execRfetch t2 vpage unit mirror s) := by simp [execRfetch]

@[simp] theorem goes_execRdata (s : State) (t2 vpage unit mirror bad bytes) : Goes s (execRdata t2 vpage unit mirror bad bytes s) := by
  simp [execRdata]

/-! ## The board (`Machine/Board`) -/

@[simp] theorem goes_execBrownOut (s : State) (n) : Goes s (execBrownOut n s) := by simp [execBrownOut]

@[simp] theorem guarded_stonesOff (s : State) : (stonesOff s).guarded = s.guarded := by simp [stonesOff]

@[simp] theorem goes_execThermtrip (s : State) : Goes s (execThermtrip s) := by simp [execThermtrip]

@[simp] theorem goes_execThermtripRelease (s : State) : Goes s (execThermtripRelease s) := by simp [execThermtripRelease]

@[simp] theorem goes_execRailMonitorTrip (s : State) (rail) : Goes s (execRailMonitorTrip rail s) := by simp [execRailMonitorTrip]

@[simp] theorem guarded_loseRail (s : State) (rail) : (loseRail s rail).guarded = s.guarded := by simp [loseRail]

@[simp] theorem goes_execPmbusFailure (s : State) (b) : Goes s (execPmbusFailure b s) := by
  unfold execPmbusFailure
  split <;> simp

@[simp] theorem goes_execAlert (s : State) (status) : Goes s (execAlert status s) := by simp [execAlert]

@[simp] theorem goes_execXinLoss (s : State) : Goes s (execXinLoss s) := by simp [execXinLoss]

@[simp] theorem goes_execXinResume (s : State) : Goes s (execXinResume s) := by simp [execXinResume]

@[simp] theorem goes_execBoundaryScan (s : State) (a) : Goes s (execBoundaryScan a s) := by simp [execBoundaryScan]

@[simp] theorem goes_execTestLogicReset (s : State) : Goes s (execTestLogicReset s) := by simp [execTestLogicReset]

@[simp] theorem goes_execDebugInstruction (s : State) (ir) : Goes s (execDebugInstruction ir s) := by simp [execDebugInstruction]

@[simp] theorem goes_execVstbyLoss (s : State) : Goes s (execVstbyLoss s) := by simp [execVstbyLoss]

@[simp] theorem guarded_refill (s : State) : (refill s).guarded = s.guarded := by simp [refill]

@[simp] theorem guarded_idleTick (s : State) : (idleTick s).guarded = s.guarded := by simp [idleTick]

/-! ## Vector instructions (`Machine/Vector`) -/

@[simp] theorem guarded_vStore (s : State) (q dist lanes bytes mask) : (vStore s q dist lanes bytes mask).guarded = s.guarded := by
  simp [vStore]

@[simp] theorem guarded_vDestConv (s : State) (q o dist comp conv rm sat vals draw n) {g} (h : s.guarded = g) :
    Yields (fun t => t.guarded = g) (vDestConv s q o dist comp conv rm sat vals draw n) := by
  simp [vDestConv, h]

@[simp] theorem guarded_vArith (s : State) (q o srcs unused op) {g} (h : s.guarded = g) :
    Yields (fun t => t.guarded = g) (vArith q o srcs unused op s) := by
  simp [vArith, h]

theorem goes_startV {body : State → Except Nat State} (hbody : ∀ s, Yields (fun t => t.guarded = s.guarded) (body s)) (s : State) (q op i) :
    Goes s (startV q op i body s) := by
  refine goes_startInstr (fun s => ?_) ..
  dsimp only
  refine Yields.bind (hbody _) (fun s2 h2 => ?_)
  simpa using h2

@[simp] theorem guarded_vTwo (s : State) (q i f) {g} (h : s.guarded = g) : Yields (fun t => t.guarded = g) (vTwo q i f s) := by
  simp [vTwo, h]

@[simp] theorem goes_execVadd (s : State) (q i) : Goes s (execVadd q i s) := by
  refine goes_startV (fun s => ?_) ..
  simp

@[simp] theorem goes_execVmul (s : State) (q i) : Goes s (execVmul q i s) := by
  refine goes_startV (fun s => ?_) ..
  simp

@[simp] theorem goes_execVmax (s : State) (q i) : Goes s (execVmax q i s) := by
  refine goes_startV (fun s => ?_) ..
  simp

@[simp] theorem goes_execVmin (s : State) (q i) : Goes s (execVmin q i s) := by
  refine goes_startV (fun s => ?_) ..
  simp

@[simp] theorem goes_execVfma (s : State) (q i) : Goes s (execVfma q i s) := by
  refine goes_startV (fun s => ?_) ..
  simp

@[simp] theorem guarded_vSel (s : State) (q i) {g} (h : s.guarded = g) : Yields (fun t => t.guarded = g) (vSel q i s) := by simp [vSel, h]

@[simp] theorem goes_execVsel (s : State) (q i) : Goes s (execVsel q i s) := by
  refine goes_startV (fun s => ?_) ..
  simp

@[simp] theorem guarded_vCvt (s : State) (q i) {g} (h : s.guarded = g) : Yields (fun t => t.guarded = g) (vCvt q i s) := by simp [vCvt, h]

@[simp] theorem goes_execVcvt (s : State) (q i) : Goes s (execVcvt q i s) := by
  refine goes_startV (fun s => ?_) ..
  simp

@[simp] theorem guarded_vSpecial (s : State) (q i opbit f) {g} (h : s.guarded = g) :
    Yields (fun t => t.guarded = g) (vSpecial q i opbit f s) := by
  simp [vSpecial, h]

@[simp] theorem goes_execVexp (s : State) (q i) : Goes s (execVexp q i s) := by
  refine goes_startV (fun s => ?_) ..
  simp

@[simp] theorem goes_execVlog (s : State) (q i) : Goes s (execVlog q i s) := by
  refine goes_startV (fun s => ?_) ..
  simp

@[simp] theorem goes_execVrcp (s : State) (q i) : Goes s (execVrcp q i s) := by
  refine goes_startV (fun s => ?_) ..
  simp

@[simp] theorem goes_execVrsq (s : State) (q i) : Goes s (execVrsq q i s) := by
  refine goes_startV (fun s => ?_) ..
  simp

@[simp] theorem goes_execVsetvl (s : State) (q i) : Goes s (execVsetvl q i s) := by
  refine goes_startV (fun s => ?_) ..
  simp

@[simp] theorem goes_execVmode (s : State) (q i) : Goes s (execVmode q i s) := by
  refine goes_startV (fun s => ?_) ..
  simp

/-! ## Learning instructions (`Machine/Learn`) -/

@[simp] theorem guarded_vRowstat (s : State) (q i) {g} (h : s.guarded = g) : Yields (fun t => t.guarded = g) (vRowstat q i s) := by
  simp [vRowstat, h]

@[simp] theorem goes_execVrowstat (s : State) (q i) : Goes s (execVrowstat q i s) := by
  refine goes_startV (fun s => ?_) ..
  simp

@[simp] theorem guarded_vRng (s : State) (q i) {g} (h : s.guarded = g) : Yields (fun t => t.guarded = g) (vRng q i s) := by simp [vRng, h]

@[simp] theorem goes_execVrng (s : State) (q i) : Goes s (execVrng q i s) := by
  refine goes_startV (fun s => ?_) ..
  simp

@[simp] theorem guarded_vSrnd (s : State) (q i) {g} (h : s.guarded = g) : Yields (fun t => t.guarded = g) (vSrnd q i s) := by
  simp [vSrnd, h]

@[simp] theorem goes_execVsrnd (s : State) (q i) : Goes s (execVsrnd q i s) := by
  refine goes_startV (fun s => ?_) ..
  simp

@[simp] theorem guarded_vNorm2 (s : State) (q i) {g} (h : s.guarded = g) : Yields (fun t => t.guarded = g) (vNorm2 q i s) := by
  simp [vNorm2, h]

@[simp] theorem goes_execVnorm2 (s : State) (q i) : Goes s (execVnorm2 q i s) := by
  refine goes_startV (fun s => ?_) ..
  simp

@[simp] theorem guarded_updPut (s : State) (q slot n roll words) {g} (h : s.guarded = g) :
    Yields (fun t => t.guarded = g) (updPut q slot n roll words s) := by
  simp [updPut, h]

@[simp] theorem guarded_vUpd (s : State) (q i) {g} (h : s.guarded = g) : Yields (fun t => t.guarded = g) (vUpd q i s) := by
  unfold vUpd
  dsimp only
  iterate 12 refine (yields_bind ..).2 (yields_of_forall (fun _ => ?_) _)
  split
  · simp [h]
  refine Yields.bind (guarded_updPut (g := g) _ _ _ _ _ _ (by simp [h])) (fun s1 h1 => ?_)
  refine Yields.bind (guarded_updPut _ _ _ _ _ _ h1) (fun s2 h2 => ?_)
  refine Yields.bind (guarded_updPut _ _ _ _ _ _ h2) (fun s3 h3 => ?_)
  simpa using h3

@[simp] theorem goes_execVupd (s : State) (q i) : Goes s (execVupd q i s) := by
  refine goes_startV (fun s => ?_) ..
  simp

/-! ## Matrix instructions (`Machine/Matrix`) -/

@[simp] theorem guarded_clearSet (s : State) (q k) : (clearSet s q k).guarded = s.guarded := by simp [clearSet]

@[simp] theorem guarded_setMode (s : State) (q pm) : (setMode q pm s).guarded = s.guarded := by simp [setMode]

@[simp] theorem guarded_addSums (s : State) (q adds) : (addSums s q adds).guarded = s.guarded := by
  refine guarded_foldl (fun s x => ?_) _ _
  dsimp only
  split
  · rfl
  · split <;> simp

@[simp] theorem guarded_runPass (s : State) (q o) : (runPass q o s).guarded = s.guarded := by simp [runPass]

@[simp] theorem guarded_releaseHeld (s : State) (q epoch) : (releaseHeld s q epoch).guarded = s.guarded := by simp [releaseHeld]

@[simp] theorem guarded_releaseClears (s : State) (q epoch) : (releaseClears s q epoch).guarded = s.guarded := by simp [releaseClears]

@[simp] theorem guarded_endWriteOut (s : State) (q dr advWgo) : (endWriteOut s q dr advWgo).guarded = s.guarded := by simp [endWriteOut]

@[simp] theorem guarded_countDuplicate (s : State) (q) : (countDuplicate s q).guarded = s.guarded := by simp [countDuplicate]

@[simp] theorem guarded_writeOut (s : State) (q) : (writeOut q s).guarded = s.guarded := by
  unfold writeOut
  dsimp only
  (repeat' split) <;> simp

@[simp] theorem goes_execMcfg (s : State) (q i) : Goes s (execMcfg q i s) := by
  refine goes_startInstr (fun s => ?_) ..
  simp

@[simp] theorem goes_execMload (s : State) (q i) : Goes s (execMload q i s) := by
  refine goes_startInstr (fun s => ?_) ..
  simp

@[simp] theorem goes_execMpass (s : State) (q i) : Goes s (execMpass q i s) := by
  refine goes_startInstr (fun s => ?_) ..
  simp

@[simp] theorem goes_execMdrain (s : State) (q i) : Goes s (execMdrain q i s) := by
  refine goes_startInstr (fun s => ?_) ..
  simp

@[simp] theorem goes_execMdrainWriteOut (s : State) (q) : Goes s (execMdrainWriteOut q s) := by simp [execMdrainWriteOut]

@[simp] theorem guarded_clearEpoch (s : State) (q i) : (clearEpoch q i s).guarded = s.guarded := by simp [clearEpoch]

@[simp] theorem goes_execMclr (s : State) (q i) : Goes s (execMclr q i s) := by
  refine goes_startInstr (fun s => ?_) ..
  simp

/-! ## Every command and every step -/

theorem pending_of_guarded {s t : State} (h : t.guarded = s.guarded) : t.pending = s.pending := congrArg Guarded.queue h
theorem part_of_guarded {s t : State} (h : t.guarded = s.guarded) : t.part = s.part := congrArg Guarded.part h
theorem friskets_of_guarded {s t : State} (h : t.guarded = s.guarded) :
    t.sec.frisket = s.sec.frisket ∧ t.sec.pendingFrisket = s.sec.pendingFrisket :=
  ⟨congrArg Guarded.frisket h, congrArg Guarded.waiting h⟩

/-- A command other than FRISKET answers a next state, and the most it does to the guarded parts is to put a pending Frisket in force. -/
theorem goes_exec (c : Instr) (s : State) (hf : ∀ m rec z, c ≠ .frisket m rec z) :
    GoesTo (KeptOrAdmitted s.guarded) (exec c s) := by
  have kept {r : Res} (h : Goes s r) : GoesTo (KeptOrAdmitted s.guarded) r := h.imp fun _ => .inl
  cases c with
  | frisket m rec z => exact absurd rfl (hf m rec z)
  | admission m b => exact goes_execAdmission ..
  | scrub badFrames badQuerns badWays badFormes durationUs => exact goes_execScrub ..
  | _ => exact kept (by simp [exec])

@[simp] theorem afterAdmission_queue (g : Guarded) : g.afterAdmission.queue = g.queue := by unfold Guarded.afterAdmission; split <;> rfl
@[simp] theorem afterAdmission_part (g : Guarded) : g.afterAdmission.part = g.part := by unfold Guarded.afterAdmission; split <;> rfl

theorem exec_keeps_queue_and_part (c : Instr) (s : State) :
    GoesTo (fun g => g.queue = s.pending ∧ g.part = s.part) (exec c s) := by
  by_cases hf : ∃ m rec z, c = .frisket m rec z
  · obtain ⟨m, rec, z, rfl⟩ := hf
    exact goes_execFrisket ..
  · refine (goes_exec c s fun m rec z h => hf ⟨m, rec, z, h⟩).imp fun g hg => ?_
    obtain rfl | rfl := hg
    · exact ⟨rfl, rfl⟩
    · exact ⟨afterAdmission_queue _, afterAdmission_part _⟩

/-- Settles O60: a command other than FRISKET keeps the guarded parts or does with them what an admission does, and an admission without
a pending record keeps them too. -/
theorem frisketIsGuarded : Obligations.FrisketIsGuarded := by
  intro c s t ht hf
  obtain ⟨u, hu, hg⟩ := goes_exec c s hf
  obtain rfl : t = u := Host.Outcome.next.inj (ht.symm.trans hu)
  obtain hg | hg := hg
  · exact .inl (friskets_of_guarded hg)
  cases hp : s.sec.pendingFrisket with
  | none => exact .inl (hp ▸ friskets_of_guarded (by simpa [Guarded.afterAdmission, State.guarded, hp] using hg))
  | some f =>
    have hg : t.guarded = { s.guarded with frisket := f, waiting := none } := by simpa [Guarded.afterAdmission, State.guarded, hp] using hg
    exact .inr ⟨congrArg (some ∘ Guarded.frisket) hg, congrArg Guarded.waiting hg⟩

theorem step_of_empty {s : State} (h : s.pending = []) : step s = .next (idleTick s) := by rw [step, h]

theorem step_of_cons {s : State} {c : Instr} {rest : List Instr} (h : s.pending = c :: rest) :
    step s = exec c { s with pending := rest } := by rw [step, h]

/-- Settles O53: an empty queue leaves an idle tick, which keeps the guarded parts, and a command acts on the state without it. -/
theorem everyStepGoesOn : Obligations.EveryStepGoesOn := by
  intro s
  cases hs : s.pending with
  | nil =>
    have hg := guarded_idleTick s
    exact ⟨idleTick s, step_of_empty hs, (pending_of_guarded hg).trans hs, part_of_guarded hg⟩
  | cons c rest =>
    obtain ⟨t, ht, hkept⟩ := exec_keeps_queue_and_part c { s with pending := rest }
    exact ⟨t, (step_of_cons hs).trans ht, hkept⟩

end Sys2Proof.Machine
end

section
/-! # Register writes and reads

A signed request that passes its checks comes to what its action makes of the taken request; a REGWRITE's action is `writeReg`, and
`writeReg` goes by the register's presence and by its block. Each register that the statement names has one lemma about `writeBlock`. -/

namespace Sys2Proof.Machine

open Sys2Proof

/-! ## A signed request that passes its checks (R484 to R489) -/

theorem milRequest_now {s t : State} {m : MilHdr} {op : Nat} {who : Signers} {early : Bool} {onRefuse : State → State}
    {act : State → Reply} {status : Nat} {body : List Nat} (h : MilTurn s m op who) (hr : early = true ∨ isReady s = true)
    (ha : act (takeRequest m s) = .now t status body) :
    milRequest m op who early onRefuse act s = .next (milAnswered m op status body t) := by
  obtain ⟨hears, packet, form, boot, sigs, signed, allowed, fresh⟩ := h
  have notBelow : (lastSeqs s m).any (fun n => decide (m.reqSeq.toNat < n)) = false := by
    simpa [List.any_eq_false] using fun n hn => (fresh n hn).le
  have notEqual : (lastSeqs s m).any (fun n => decide (m.reqSeq.toNat = n)) = false := by
    simpa [List.any_eq_false] using fun n hn => (fresh n hn).ne'
  have served : ¬((!early) = true ∧ (!(isReady s)) = true) := by obtain hr | hr := hr <;> simp [hr]
  simp only [milRequest, hears, packet, form, boot, sigs, signed, allowed, notBelow, notEqual, served, ha]
  simp [milAnswered]

/-! ## What a register write comes to (R27, R28, R504) -/

section Write
variable {s t : State} {off : Nat} {value mask : W64} {miller : Bool}

theorem writeReg_done (hr : (readReg s off).isSome = true) (hw : writeBlock off value mask miller s = some t) :
    writeReg off value mask miller s = .done t := by
  obtain ⟨v, hv⟩ := Option.isSome_iff_exists.1 hr
  simp [writeReg, hv, hw]

theorem writeReg_ignored (hr : (readReg s off).isSome = true) (hw : writeBlock off value mask miller s = none) :
    writeReg off value mask miller s = .ignored (logIgnored s off) := by
  obtain ⟨v, hv⟩ := Option.isSome_iff_exists.1 hr
  simp [writeReg, hv, hw]

theorem writeReg_reserved (hr : readReg s off = none) : writeReg off value mask miller s = .reserved (logIgnored s off) := by
  simp [writeReg, hr]

variable {m : MilHdr} {early : Bool}

theorem regwrite_now {status : Nat} (h : MilTurn s m 0x0011 .operator) (hr : isReady s = true)
    (hw : wroteReply (writeReg off value mask true (takeRequest m s)) = .now t status []) :
    regwrite m off value mask early s = .next (milAnswered m 0x0011 status [] t) := by
  unfold regwrite plainRequest
  exact milRequest_now h (.inr hr) hw

@[simp] theorem wroteReply_done (s : State) : wroteReply (.done s) = .now s 0 [] := rfl
@[simp] theorem wroteReply_ignored (s : State) : wroteReply (.ignored s) = .now s 3 [] := rfl
@[simp] theorem wroteReply_reserved (s : State) : wroteReply (.reserved s) = .now s 9 [] := rfl

end Write

/-! ## Fields of a merged word -/

theorem getLsbD_maskAt (k n i : Nat) : (maskAt k n).getLsbD i = (decide (i < 64) && decide (k ≤ i) && decide (i < k + n)) := by
  simp only [maskAt, BitVec.getLsbD_ofNat, Nat.testBit_mul_two_pow, Nat.testBit_two_pow_sub_one]
  by_cases hk : k ≤ i
  · simp [hk, Nat.sub_lt_iff_lt_add' hk]
  · simp [hk]

theorem getElem_maskAt (k n i : Nat) (hi : i < 64) : (maskAt k n)[i] = (decide (k ≤ i) && decide (i < k + n)) := by
  simp [← BitVec.getLsbD_eq_getElem, getLsbD_maskAt, hi]

theorem getLsbD_merge (old value mask : W64) (i : Nat) :
    (merge old value mask).getLsbD i = if mask.getLsbD i then value.getLsbD i else old.getLsbD i := by
  by_cases hi : i < 64
  · simp only [merge, BitVec.getLsbD_or, BitVec.getLsbD_and, BitVec.getLsbD_not, hi]
    cases mask.getLsbD i <;> simp
  · simp [BitVec.getLsbD_of_ge _ _ (Nat.le_of_not_lt hi)]

@[simp] theorem merge_mask_zero (old value : W64) : merge old value 0#64 = old := by
  refine BitVec.eq_of_getLsbD_eq fun i _ => ?_
  simp [getLsbD_merge]

theorem extract_merge_inside {old value mask : W64} {k n : Nat} (h : ∀ i < n, mask.getLsbD (k + i) = true) :
    (merge old value mask).extractLsb' k n = value.extractLsb' k n := by
  refine BitVec.eq_of_getLsbD_eq fun i hi => ?_
  simp [getLsbD_merge, h i hi]

theorem extract_merge_outside {old value mask : W64} {k n : Nat} (h : ∀ i < n, mask.getLsbD (k + i) = false) :
    (merge old value mask).extractLsb' k n = old.extractLsb' k n := by
  refine BitVec.eq_of_getLsbD_eq fun i hi => ?_
  simp [getLsbD_merge, h i hi]

theorem extract_merge_maskAt {old value : W64} {k n j w : Nat} (hj : j ≤ k) (hw : k + n ≤ j + w) (h64 : k + n ≤ 64) :
    (merge old value (maskAt j w)).extractLsb' k n = value.extractLsb' k n :=
  extract_merge_inside fun i hi => by simp [getLsbD_maskAt]; omega

/-! ## The power registers (R416, R422, R423, R427) -/

section Power
variable (s : State)

theorem readReg_capW : (readReg s 0x000).isSome = true := rfl
theorem readReg_pace : (readReg s 0x008).isSome = true := rfl

theorem writeBlock_capW (v : W64) : writeBlock 0x000 v (maskAt 0 12) true s
    = writeCap (merge (BitVec.ofNat 64 s.pwr.capW) v (maskAt 0 12)) s := by
  simp [writeBlock, writePwr, show hits (maskAt 0 12) 0 12 = true by decide]

theorem extract_capW (old v : W64) : (merge old v (maskAt 0 12)).extractLsb' 0 12 = v.extractLsb' 0 12 :=
  extract_merge_maskAt le_rfl le_rfl (by omega)

theorem writeBlock_capW_inside {v : W64} (lo : 700 ≤ (v.extractLsb' 0 12).toNat)
    (hi : (v.extractLsb' 0 12).toNat ≤ variantCap s.part.variant) : writeBlock 0x000 v (maskAt 0 12) true s
    = some (logEvent { s with pwr := { s.pwr with capW := (v.extractLsb' 0 12).toNat } } evCapChanged scPackage 0
      [(v.extractLsb' 0 12).toNat]) := by
  rw [writeBlock_capW, writeCap, extract_capW]
  exact if_pos ⟨lo, hi⟩

theorem writeBlock_capW_outside {v : W64}
    (h : (v.extractLsb' 0 12).toNat < 700 ∨ variantCap s.part.variant < (v.extractLsb' 0 12).toNat) :
    writeBlock 0x000 v (maskAt 0 12) true s = none := by
  rw [writeBlock_capW, writeCap, extract_capW]
  exact if_neg fun ⟨lo, hi⟩ => h.elim (Nat.not_lt.2 lo) (Nat.not_lt.2 hi)

theorem writeBlock_pace (on : Bool) : writeBlock 0x008 (if on then 1 else 0) 1 true s = some (setPace on s) := by
  cases on <;> simp [writeBlock, writePwr]

theorem writeBlock_estClear : writeBlock 0x008 (maskAt 11 1) (maskAt 11 1) true s = some (clearEst s) := by
  simp [writeBlock, writePwr, getElem_maskAt]

theorem paceEn_setPace (on : Bool) : (setPace on s).pwr.paceEn = on := by
  unfold setPace pacedNow
  dsimp only
  split
  · rfl
  · split <;> simp

end Power

/-! ## RETRAIN (R353, R356) -/

section Retrain
variable {s : State} {p : Nat}

theorem raceConfig_block (hp : p < 16) : (0x500000 + 8 * p) / 2 ^ 20 = 5 ∧ (0x500000 + 8 * p) % 2 ^ 20 = 8 * p := by omega

theorem readReg_raceConfig (s : State) (hp : p < 16) : (readReg s (0x500000 + 8 * p)).isSome = true := by
  obtain ⟨hblock, hoff⟩ := raceConfig_block hp
  have aligned : (0x500000 + 8 * p) % 8 = 0 := by omega
  have inRun : 8 * p < 128 := by omega
  simp only [readReg, hblock, hoff, aligned]
  simp [readRace, inArr, inRun]

theorem writeRaceCfg_retrain (h : (s.racePort p).cfg.getLsbD 0 = true) (off : Nat) :
    writeRaceCfg p off 0x10 0x10 s = retrainPort p (s.setRacePort p (s.racePort p)) := by
  have enabled : (s.racePort p).cfg[0] = true := h
  simp [writeRaceCfg, enabled]

theorem writeBlock_retrain (hp : p < 16) (h : (s.racePort p).cfg.getLsbD 0 = true) :
    writeBlock (0x500000 + 8 * p) 0x10 0x10 true s = some (retrainPort p (s.setRacePort p (s.racePort p))) := by
  obtain ⟨hblock, hoff⟩ := raceConfig_block hp
  have inRun : 8 * p < 128 := by omega
  simp only [writeBlock, hblock, hoff]
  simpa [idxOf, inRun] using writeRaceCfg_retrain h _

theorem cfg_of_raceEnabled (h : raceEnabled s (2 * p) = true) : (s.racePort p).cfg.getLsbD 0 = true := by
  have port : 2 * p / 2 = p := by omega
  simp only [raceEnabled, port, Bool.and_eq_true] at h
  obtain ⟨⟨⟨⟨enabled, -⟩, -⟩, -⟩, -⟩ := h
  exact enabled

theorem raceEnabled_setRacePort_self (s : State) (p : Nat) :
    raceEnabled (s.setRacePort p (s.racePort p)) (2 * p) = raceEnabled s (2 * p) := by
  have port : 2 * p / 2 = p := by omega
  simp only [raceEnabled, port, State.racePort_setRacePort_same]
  rfl

theorem retrainRace_attested {r : Nat} (h : (s.race r).state = .attested) :
    retrainRace s r = ((wakeLanes s r (ownLanes s r)).updRace r (fun x => { x with state := .retraining, recover := .lanes })).updRace r
      (fun x => { x with wide := true }) := by
  simp only [retrainRace, h, true_or, if_true, enterRetraining]

/-- The state after a port has been told to retrain while its first Race is ATTESTED and its second one OFF. -/
theorem retrainPort_first (hen : raceEnabled s (2 * p) = true) (hatt : (s.race (2 * p)).state = .attested)
    (hoff : (s.race (2 * p + 1)).state = .off) : retrainPort p s = countRetrain (retrainRace s (2 * p)) (2 * p) := by
  have other : ((countRetrain (retrainRace s (2 * p)) (2 * p)).race (2 * p + 1)).state = .off := by
    simp [retrainRace_attested hatt, countRetrain, wakeLanes, State.updRace, State.race_setRace_ne, hoff]
  simp [retrainPort, hen, hatt, other]

theorem countRetrain_retrainRace (h : (s.race (2 * p)).state = .attested) :
    let t := countRetrain (retrainRace s (2 * p)) (2 * p)
    (t.race (2 * p)).state = .retraining ∧ (t.race (2 * p)).wide = true
      ∧ (t.racePort p).retrains = satAdd (s.racePort p).retrains 1 65535 ∧ t.mem = s.mem := by
  simp [retrainRace_attested h, countRetrain, wakeLanes, State.updRace]

end Retrain

/-! ## ED_LSCALE (R144) -/

section Lscale
variable {s : State} {c : Nat}

theorem lscale_block (hc : c < 32) : (0x300800 + 8 * c) / 2 ^ 20 = 3 ∧ (0x300800 + 8 * c) % 2 ^ 20 = 0x800 + 8 * c := by omega

theorem readReg_lscale (s : State) (hc : c < 32) : (readReg s (0x300800 + 8 * c)).isSome = true := by
  obtain ⟨hblock, hoff⟩ := lscale_block hc
  have aligned : (0x300800 + 8 * c) % 8 = 0 := by omega
  have inRun : 0x800 + 8 * c < 0x900 := by omega
  simp only [readReg, hblock, hoff, aligned]
  simp [readEd, inArr, inRun]

theorem writeBlock_lscale (hc : c < 32) (v mask : W64) (miller : Bool) :
    writeBlock (0x300800 + 8 * c) v mask miller s = writeLscale c v mask s := by
  obtain ⟨hblock, hoff⟩ := lscale_block hc
  have inRun : 0x800 + 8 * c < 0x900 := by omega
  simp only [writeBlock, hblock, hoff]
  simp [idxOf, inRun]

/-- The word that ED_LSCALE shows. -/
def lscaleWord (l : LScale) : W64 :=
  BitVec.ofNat 64 (packW [(8, l.lsExp.toNat), (8, l.lsMin.toNat), (8, l.lsMax.toNat), (16, l.growth.toNat), (16, l.goodRun.toNat)])

theorem goodRun_lscaleWord (l : LScale) : (lscaleWord l).extractLsb' 40 16 = l.goodRun := by
  apply BitVec.eq_of_toNat_eq
  simp [lscaleWord, packW]
  omega

theorem lscaleOf_merge (l : LScale) (v : W64) :
    lscaleOf (merge (lscaleWord l) v (maskAt 0 64 &&& maskAt 0 40)) = { lscaleOf v with goodRun := l.goodRun } := by
  rw [show maskAt 0 64 &&& maskAt 0 40 = maskAt 0 40 by decide]
  have kept : (merge (lscaleWord l) v (maskAt 0 40)).extractLsb' 40 16 = l.goodRun :=
    (extract_merge_outside fun i _ => by simp [getLsbD_maskAt]).trans (goodRun_lscaleWord l)
  simp [lscaleOf, kept, extract_merge_maskAt]

theorem writeLscale_closed (h : stepOpen s c = false) (v : W64) : writeLscale c v (maskAt 0 64) s
    = some (s.setCtx c { s.ctx c with lscale := { lscaleOf v with goodRun := (s.ctx c).lscale.goodRun } }) := by
  rw [← lscaleOf_merge]
  simp only [writeLscale, h]
  rfl

theorem writeLscale_open (h : stepOpen s c = true) (v mask : W64) : writeLscale c v mask s = none := by
  simp only [writeLscale, h, if_true]

end Lscale


/-! ## The pair registers (R406, R411) -/

section Pair
variable (s : State)

theorem readReg_pair : (readReg s 0xC00800).isSome = true := rfl

theorem writeBlock_takeover (h : s.pair.pairEn = true) : writeBlock 0xC00800 (maskAt 60 1) (maskAt 60 1) true s = some (takeOver s) := by
  simp [writeBlock, writeMil, writePair, h, getElem_maskAt, pairCommand, show hits (maskAt 60 1) 0 60 = false by decide]

theorem writeBlock_leave (h : s.pair.pairEn = true) (hoff : s.pair.phase ≠ .off) (hleft : s.pair.phase ≠ .left) :
    writeBlock 0xC00800 (maskAt 61 1) (maskAt 61 1) true s = some (leavePair 2 s) := by
  simp [writeBlock, writeMil, writePair, h, hoff, hleft, getElem_maskAt, pairCommand, show hits (maskAt 61 1) 0 60 = false by decide]

end Pair

/-! ## The registers that a REGISTER_WRITE names (R324, R246) -/

section Named
variable (s : State) (v : W64) (miller : Bool)

theorem readReg_galPeriod : (readReg s 0x400008).isSome = true := rfl
theorem readReg_memReserve : (readReg s 0xA00048).isSome = true := rfl

theorem writeBlock_galPeriod (h : (v.extractLsb' 0 16).toNat ≠ 0) : writeBlock 0x400008 v (maskAt 0 64) miller s
    = some { s with galley := { s.galley with periodMs := (v.extractLsb' 0 16).toNat } } := by
  have named : hits (maskAt 0 64) 0 16 = true := by decide
  have field : (merge (BitVec.ofNat 64 s.galley.periodMs) v (maskAt 0 64)).extractLsb' 0 16 = v.extractLsb' 0 16 :=
    extract_merge_maskAt (by omega) (by omega) (by omega)
  simp only [writeBlock, named, field, h]
  rfl

theorem writeBlock_memReserve : writeBlock 0xA00048 v (maskAt 0 64) miller s
    = some { s with mm := { s.mm with reserveNext := (v.extractLsb' 0 8).toNat } } := by
  have named : hits (maskAt 0 64) 0 8 = true := by decide
  have field : (merge (BitVec.ofNat 64 s.mm.reserveNext) v (maskAt 0 64)).extractLsb' 0 8 = v.extractLsb' 0 8 :=
    extract_merge_maskAt (by omega) (by omega) (by omega)
  simp only [writeBlock, named, field]
  rfl

theorem writeBlock_power_job {off : Nat} {mask : W64} (h : off / 2 ^ 20 = 0) : writeBlock off v mask false s = none := by
  simp only [writeBlock, h]
  rfl

end Named

/-! ## The requests of the Operator -/

section Operator
variable {s : State} {m : MilHdr}

theorem exec_regwrite_done (h : MilTurn s m 0x0011 .operator) (hr : isReady s = true) {off : W48} {v mask : W64} {t : State}
    (hw : writeReg off.toNat v mask true (takeRequest m s) = .done t) :
    exec (.regwrite m off v mask) s = .next (milAnswered m 0x0011 0 [] t) :=
  regwrite_now h hr (by rw [hw, wroteReply_done])

theorem exec_regwrite_reserved (h : MilTurn s m 0x0011 .operator) (hr : isReady s = true) {off : W48} {v mask : W64}
    (hnone : readReg (takeRequest m s) off.toNat = none) : exec (.regwrite m off v mask) s
      = .next (milAnswered m 0x0011 9 [] (logEvent (takeRequest m s) evWriteIgnored scPackage 0 [off.toNat])) :=
  regwrite_now h hr (by rw [writeReg_reserved hnone, wroteReply_reserved, logIgnored])

theorem exec_capWWrite_inside (h : MilTurn s m 0x0011 .operator) (hr : isReady s = true) {v : W64} (lo : 700 ≤ (v.extractLsb' 0 12).toNat)
    (hi : (v.extractLsb' 0 12).toNat ≤ variantCap s.part.variant) :
    ∃ t, exec (.capWWrite m v (maskAt 0 12)) s = .next (milAnswered m 0x0011 0 [] t)
      ∧ t.pwr = { s.pwr with capW := (v.extractLsb' 0 12).toNat } ∧ t.mem = s.mem := by
  have written := writeBlock_capW_inside (takeRequest m s) lo hi
  refine ⟨_, regwrite_now h hr (by rw [writeReg_done (readReg_capW _) written, wroteReply_done]), ?_, ?_⟩
  · rw [pwr_logEvent]
    rfl
  · rw [mem_logEvent]
    rfl

theorem exec_capWWrite_outside (h : MilTurn s m 0x0011 .operator) (hr : isReady s = true) {v : W64}
    (hv : (v.extractLsb' 0 12).toNat < 700 ∨ variantCap s.part.variant < (v.extractLsb' 0 12).toNat) :
    ∃ t, exec (.capWWrite m v (maskAt 0 12)) s = .next (milAnswered m 0x0011 3 [] t) ∧ t.pwr = s.pwr ∧ t.mem = s.mem := by
  have refused := writeBlock_capW_outside (takeRequest m s) hv
  refine ⟨_, regwrite_now h hr (by rw [writeReg_ignored (readReg_capW _) refused, wroteReply_ignored]), ?_, ?_⟩
  · rw [logIgnored, pwr_logEvent]
    rfl
  · rw [logIgnored, mem_logEvent]
    rfl

theorem exec_paceEnWrite (h : MilTurn s m 0x0011 .operator) (hr : isReady s = true) (on : Bool) :
    exec (.paceEnWrite m on) s = .next (milAnswered m 0x0011 0 [] (setPace on (takeRequest m s))) := by
  change regwrite m 0x008 (if on then 1 else 0) 1 false s = _
  exact regwrite_now h hr (by rw [writeReg_done (readReg_pace _) (writeBlock_pace _ on), wroteReply_done])

theorem exec_estClear (h : MilTurn s m 0x0011 .operator) (hr : isReady s = true) :
    exec (.estClear m) s = .next (milAnswered m 0x0011 0 [] (clearEst (takeRequest m s))) := by
  change regwrite m 0x008 (maskAt 11 1) (maskAt 11 1) true s = _
  exact regwrite_now h hr (by rw [writeReg_done (readReg_pace _) (writeBlock_estClear _), wroteReply_done])

theorem exec_retrain_first (h : MilTurn s m 0x0011 .operator) (hr : isReady s = true) (p : Fin 16) (hen : raceEnabled s (2 * p.val) = true)
    (hatt : (s.race (2 * p.val)).state = .attested) (hoff : (s.race (2 * p.val + 1)).state = .off) :
    ∃ t, exec (.retrain m p) s = .next (milAnswered m 0x0011 0 [] t) ∧ (t.race (2 * p.val)).state = .retraining
      ∧ (t.race (2 * p.val)).wide = true ∧ (t.racePort p).retrains = satAdd (s.racePort p).retrains 1 65535 ∧ t.mem = s.mem := by
  have written := writeBlock_retrain (s := takeRequest m s) p.isLt (cfg_of_raceEnabled hen)
  have enabled := (raceEnabled_setRacePort_self (takeRequest m s) p.val).trans hen
  obtain ⟨state, wide, retrains, mem⟩ := countRetrain_retrainRace
    (s := (takeRequest m s).setRacePort p.val ((takeRequest m s).racePort p.val)) (p := p.val) hatt
  rw [retrainPort_first enabled hatt hoff] at written
  refine ⟨_, regwrite_now h hr (by rw [writeReg_done (readReg_raceConfig _ p.isLt) written, wroteReply_done]), state, wide, ?_, mem⟩
  rw [retrains, State.racePort_setRacePort_same]
  rfl

theorem exec_takeover_paired (h : MilTurn s m 0x0011 .operator) (hr : isReady s = true) (hen : s.pair.pairEn = true) :
    exec (.takeover m) s = .next (milAnswered m 0x0011 0 [] (takeOver (takeRequest m s))) :=
  regwrite_now h hr (by rw [writeReg_done (readReg_pair _) (writeBlock_takeover (takeRequest m s) hen), wroteReply_done])

theorem exec_leave_paired (h : MilTurn s m 0x0011 .operator) (hr : isReady s = true) (hen : s.pair.pairEn = true)
    (hoff : s.pair.phase ≠ .off) (hleft : s.pair.phase ≠ .left) :
    exec (.leave m) s = .next (milAnswered m 0x0011 0 [] (leavePair 2 (takeRequest m s))) :=
  regwrite_now h hr (by rw [writeReg_done (readReg_pair _) (writeBlock_leave (takeRequest m s) hen hoff hleft), wroteReply_done])

end Operator

/-! ## The register commands -/

section Commands
variable {s : State}

theorem exec_registerWrite_done {off : W48} {v mask : W64} {miller : Bool} {t : State} (hr : (readReg s off.toNat).isSome = true)
    (hw : writeBlock off.toNat v mask miller s = some t) : exec (.registerWrite off v mask miller) s = .next t := by
  change Host.Outcome.next (writeReg off.toNat v mask miller s).state = _
  rw [writeReg_done hr hw, Wrote.state_done]

theorem exec_registerWrite_ignored {off : W48} {v mask : W64} {miller : Bool} (hr : (readReg s off.toNat).isSome = true)
    (hw : writeBlock off.toNat v mask miller s = none) :
    exec (.registerWrite off v mask miller) s = .next (logEvent s evWriteIgnored scPackage 0 [off.toNat]) := by
  change Host.Outcome.next (writeReg off.toNat v mask miller s).state = _
  rw [writeReg_ignored hr hw, Wrote.state_ignored, logIgnored]

theorem exec_registerWrite_reserved {off : W48} {v mask : W64} {miller : Bool} (hr : readReg s off.toNat = none) :
    exec (.registerWrite off v mask miller) s = .next (logEvent s evWriteIgnored scPackage 0 [off.toNat]) := by
  change Host.Outcome.next (writeReg off.toNat v mask miller s).state = _
  rw [writeReg_reserved hr, Wrote.state_reserved, logIgnored]

theorem clearRc_of_rcMask {off : Nat} (h : rcMask off = 0) : clearRc s off = s := by
  simp [clearRc, h]

theorem clearRc_memErrors : clearRc s 0xA00050 = { s with mm := { s.mm with ce := 0, ue := 0, keepOvf := 0 } } := by rfl

theorem exec_edLscaleWrite_closed {c : Fin 32} (v : W64) (h : stepOpen s c = false) :
    ∃ t, exec (.edLscaleWrite c v (maskAt 0 64)) s = .next t ∧ t.mem = s.mem
      ∧ t.ctx c = { s.ctx c with lscale := { lscaleOf v with goodRun := (s.ctx c).lscale.goodRun } } := by
  refine ⟨_, ?_, State.mem_setCtx s c.val _, State.ctx_setCtx_same s c.val _⟩
  change Host.Outcome.next (writeReg (0x300800 + 8 * c.val) v (maskAt 0 64) false s).state = _
  rw [writeReg_done (readReg_lscale s c.isLt) ((writeBlock_lscale c.isLt ..).trans (writeLscale_closed h v)), Wrote.state_done]

theorem exec_edLscaleWrite_open {c : Fin 32} (v : W64) (h : stepOpen s c = true) :
    exec (.edLscaleWrite c v (maskAt 0 64)) s = .next (logEvent s evWriteIgnored scPackage 0 [0x300800 + 8 * c.val]) := by
  change Host.Outcome.next (writeReg (0x300800 + 8 * c.val) v (maskAt 0 64) false s).state = _
  rw [writeReg_ignored (readReg_lscale s c.isLt) ((writeBlock_lscale c.isLt ..).trans (writeLscale_open h ..)), Wrote.state_ignored,
    logIgnored]

end Commands

/-- Settles O41: the Operator's writes clause by clause through `regwrite_now`, the register commands through what `writeReg` comes to. -/
theorem registersAreWrittenAndRead : Obligations.RegistersAreWrittenAndRead := by
  constructor
  · intro s m h hr
    exact ⟨fun off v mask => ⟨fun t hw => exec_regwrite_done h hr hw, fun hnone => exec_regwrite_reserved h hr hnone⟩,
      fun v lo hi => exec_capWWrite_inside h hr lo hi,
      fun v hv => exec_capWWrite_outside h hr hv,
      fun on => ⟨exec_paceEnWrite h hr on, paceEn_setPace _ on⟩,
      ⟨_, exec_estClear h hr, rfl, rfl⟩,
      fun p hen hatt hoff => exec_retrain_first h hr p hen hatt hoff,
      fun hen => exec_takeover_paired h hr hen,
      fun hen hoff hleft => exec_leave_paired h hr hen hoff hleft⟩
  · intro s
    exact ⟨fun off => ⟨rfl, clearRc_of_rcMask⟩,
      congrArg Host.Outcome.next clearRc_memErrors,
      fun c v => ⟨exec_edLscaleWrite_closed v, exec_edLscaleWrite_open v⟩,
      fun v miller => ⟨fun hv => exec_registerWrite_done (readReg_galPeriod s) (writeBlock_galPeriod s v miller hv),
        exec_registerWrite_done (readReg_memReserve s) (writeBlock_memReserve s v miller)⟩,
      fun off v mask miller => ⟨fun t hr hw => exec_registerWrite_done hr hw, fun hr hw => exec_registerWrite_ignored hr hw,
        fun hr => exec_registerWrite_reserved hr,
        fun hblock _ hr => exec_registerWrite_ignored hr (writeBlock_power_job s v hblock)⟩⟩

end Sys2Proof.Machine
end

section
/-! # Images, barriers and drains

What IMAGE_LOAD comes to for each answer of the fetch, and the instructions of the C stream. -/

namespace Sys2Proof.Machine

open Sys2Proof

/-! ## Units that an update sets -/

@[simp] theorem quern_updQuern_same (s : State) (q : Nat) (f : Quern → Quern) : (s.updQuern q f).quern q = f (s.quern q) :=
  s.quern_setQuern_same q _

@[simp] theorem stone_updStone_same (s : State) (n : Nat) (f : StonePwr → StonePwr) : (s.updStone n f).stone n = f (s.stone n) :=
  s.stone_setStone_same n _

/-! ## IMAGE_LOAD and PROGRAM_START (R159 to R161, R192) -/

section Images
variable {s : State} {q : Fin 128} {l : Load} {rest : List Load}

/-- On a running clock an unfenced Quern loads its image. -/
theorem exec_imageLoad (hc : s.board.haltedByClock = false) (hf : (s.quern q).fenced = false) :
    exec (.imageLoad q) s = .next (loadImage q s) := by
  change whileClocked s _ = _
  simp [whileClocked_runs hc, hf]

theorem loadImage_addrError (hw : (s.quern q).waiting = l :: rest) (hn : (s.quern q).next = none)
    (he : fetchImage s l.image = .error .addr) :
    loadImage q s = failLoad (s.setQuern q { s.quern q with waiting := rest }) q 0x30 l := by
  simp only [loadImage, hw, hn, he]

theorem loadImage_fromData {ws : List W64} (hw : (s.quern q).waiting = l :: rest) (hn : (s.quern q).next = none)
    (hi : fetchImage s l.image = .ok ws) (hd : fromData s l.image (8 * ws.length) = true) :
    loadImage q s = failLoad (s.setQuern q { s.quern q with waiting := rest }) q 0x46 l := by
  simp only [loadImage, hw, hn, hi, hd, if_true]

theorem loadImage_malformed {ws : List W64} {code : Nat} (hw : (s.quern q).waiting = l :: rest) (hn : (s.quern q).next = none)
    (hi : fetchImage s l.image = .ok ws) (hd : fromData s l.image (8 * ws.length) = false) (hp : parseImage ws = .error code) :
    loadImage q s = failLoad (s.setQuern q { s.quern q with waiting := rest }) q code l := by
  simp [loadImage, hw, hn, hi, hd, hp]

theorem loadImage_loaded {ws : List W64} {info : ImageInfo} (hw : (s.quern q).waiting = l :: rest) (hn : (s.quern q).next = none)
    (hi : fetchImage s l.image = .ok ws) (hd : fromData s l.image (8 * ws.length) = false) (hp : parseImage ws = .ok info) :
    loadImage q s = s.setQuern q { s.quern q with waiting := rest, next := some { load := l, info := info } } := by
  simp [loadImage, hw, hn, hi, hd, hp]

theorem exec_programStart {sl : Slot} (hc : s.board.haltedByClock = false) (hf : (s.quern q).fenced = false)
    (hr : (s.quern q).run = none) (hn : (s.quern q).next = some sl) :
    exec (.programStart q) s = .next (startProgram q sl s) := by
  change whileClocked s _ = _
  simp [whileClocked_runs hc, hf, hr, hn]

/-- The Quern on which a program has started: fresh counters, flags and streams, and the image's descriptors with their bases. -/
theorem quern_startProgram (s : State) (q : Nat) (sl : Slot) : (startProgram q sl s).quern q = { s.quern q with
    run := some sl, next := none, err := none, tokens := [], flags := 0, streams := freshStreams sl.info
    dslots := (List.range sl.info.descs.length).zip (sl.info.descs.map (startSlot sl.load.dblk))
    moves := [], fences := [], xord := 0, barrier := none } :=
  s.quern_setQuern_same q _

/-- Without a step-status record the start writes the dispatch block alone. -/
theorem mem_startProgram (s : State) (q : Nat) {sl : Slot} (h : sl.load.sts = none) : (startProgram q sl s).mem
    = Memory.setAll s.mem (cellsAt (winBase q + sl.info.dblkOff) (wordBytes sl.load.dblk)) := by
  simp [startProgram, h]

end Images

/-- Settles O14: the load by what the fetch and the parse answer, the start by the Quern that it leaves. -/
theorem imagesLoadAndStart : Obligations.ImagesLoadAndStart := by
  intro s q l rest sl hc hf
  refine ⟨fun hw hn => ⟨fun ws hi => ⟨fun info hd hp => ?_, fun code hd hp => ?_, fun hd => ?_⟩, fun he => ?_⟩, fun hr hn => ?_⟩
  · rw [exec_imageLoad hc hf, loadImage_loaded hw hn hi hd hp]
  · rw [exec_imageLoad hc hf, loadImage_malformed hw hn hi hd hp]
  · rw [exec_imageLoad hc hf, loadImage_fromData hw hn hi hd]
  · rw [exec_imageLoad hc hf, loadImage_addrError hw hn he]
  · refine ⟨_, exec_programStart hc hf hr hn, ?_⟩
    rw [quern_startProgram]
    exact ⟨rfl, rfl, rfl, rfl, rfl, rfl, rfl, rfl, rfl, rfl, mem_startProgram s q⟩

/-! ## The C stream (R45, R169 to R171) -/

section Control
variable {s : State} {q : Fin 128} {i : Issue}

theorem exec_cphase (h : Starts s q .c .cphase i) (ho : i.ops >>> 8 = 0) : exec (.cphase q i) s
    = .next (ended s ((begun s q i).updStone (q.val / 32) (fun p => notePhase p (fld i 0 8))) q .c i) := by
  change execCphase q i s = _
  exact startInstr_now h rfl (by simp [needTop_of ho, Bind.bind, Except.bind])

theorem markers_notePhase (p : StonePwr) (phase : Nat) : (notePhase p phase).markers = p.markers + p.marked.toNat := by
  cases h : p.marked <;> simp [notePhase, h]

theorem exec_chalt (h : Starts s q .c .chalt i) (ho : i.ops = 0) : exec (.chalt q i) s = .next (ended s (begun s q i) q .c i) := by
  change execChalt q i s = _
  exact startInstr_now h rfl (by simp [needTop, ho, Bind.bind, Except.bind])

/-- The state in which a CBAR holds its stream: the Quern waits at the instruction's BARID. -/
def atBarrier (s : State) (q : Nat) (i : Issue) : State :=
  (begun s q i).updQuern q (fun v => { v with barrier := some (BitVec.ofNat 8 (fld i 0 8), i.sen, i.stok.toNat) })

theorem run_advance (s : State) (q : Nat) (st : StreamId) : ((advance s q st).quern q).run = (s.quern q).run := by
  simp [advance, Quern.setStream]

theorem run_atBarrier (s : State) (q : Nat) (i : Issue) : ((atBarrier s q i).quern q).run = (s.quern q).run := by
  simp [atBarrier, quern_begun]

/-- In a group of more than one a CBAR only holds its stream. -/
theorem exec_cbar (h : Starts s q .c .cbar i) (ho : i.ops >>> 8 = 0)
    (hg : ∀ sl, (s.quern q).run = some sl → (dispMembers s sl.load.ctx sl.load.disp).length ≠ 1) :
    exec (.cbar q i) s = .next (advance (atBarrier s q i) q .c) := by
  change andThen (startInstr _ _ _ _ _ _ _ _) _ = _
  rw [startInstr_later (t := atBarrier s q i) h rfl (by simp [needTop_of ho, Bind.bind, Except.bind, atBarrier]), andThen_next]
  have run : ((advance (atBarrier s q i) q .c).quern q).run = (s.quern q).run := (run_advance ..).trans (run_atBarrier ..)
  rw [run]
  cases hr : (s.quern q).run with
  | none => rfl
  | some sl => exact congrArg _ (if_neg (hg sl hr))

theorem exec_barrierRelease {c : Fin 32} {d : Nat} (hc : s.board.haltedByClock = false) :
    exec (.barrierRelease c d) s = .next (releaseBarrier s c d) := whileClocked_runs hc _

end Control

/-- Settles O13: each instruction through the start of its stream, the release by whether the BARIDs agree. -/
theorem phasesBarriersAndHalts : Obligations.PhasesBarriersAndHalts := by
  intro s q i
  refine ⟨fun h ho => ⟨_, exec_cphase h ho, rfl, rfl, ?_, ?_⟩, fun h ho hg => ⟨_, exec_cbar h ho hg, rfl, ?_⟩, fun c d hc hall => ?_,
    exec_chalt⟩
  · rw [stone_updStone_same]
    rfl
  · rw [stone_updStone_same]
    exact markers_notePhase ..
  · simp [atBarrier]
  · rw [exec_barrierRelease hc]
    refine ⟨fun h1 => ?_, fun h1 => ?_⟩
    · simp only [releaseBarrier, hall, h1]
      rfl
    · simp only [releaseBarrier, hall, h1]
      rfl

/-! ## Paths and drains (R250, R264, R272, R349, R350) -/

section Paths
variable {s : State} {f : Fin 1024}

/-- A Flume that leaves its path: what came in part is abandoned, and no path is recorded. -/
theorem exec_flumeBreak (hc : s.board.haltedByClock = false) (ho : (s.flume f).state = .openF) (hk : (s.flume f).kind ≤ 1)
    (hp : (s.flume f).path = none ∨ pathGone s f = true) (hn : pickPath s f = none) : exec (.flumeBreak f) s
    = .next (setFlumeState ((abandonRx s f).updFlume f (fun y => { y with path := none, pathLost := false })) f .broken) := by
  change whileClocked s _ = _
  have unreached : (s.flume f).state = .openF ∧ (s.flume f).kind ≤ 1 ∧ ((s.flume f).path.isNone = true ∨ pathGone s f = true)
      ∧ (pickPath s f).isNone = true := ⟨ho, hk, by simpa using hp, by simp [hn]⟩
  simp only [whileClocked_runs hc, unreached, if_true, and_self]

theorem exec_pathFail (hc : s.board.haltedByClock = false) (hg : pathGone s f = true) :
    exec (.pathFail f) s = .next (afterFlume (leavePath f s)) := by
  change whileClocked s _ = _
  rw [whileClocked_runs hc, if_pos hg]

theorem exec_drainComplete {c : Fin 32} (hc : s.board.haltedByClock = false) (hd : (s.ctx c).state = .draining) (ho : (s.ctx c).disps = []) :
    exec (.drainComplete c) s = .next (settle (s.setCtx c { s.ctx c with
      state := if (s.ctx c).resumeAfterDrain then .running else .quiesced, resumeAfterDrain := false })) := by
  change whileClocked s _ = _
  rw [whileClocked_runs hc, if_pos ⟨hd, by simp [ho]⟩]

end Paths

/-- Settles O25: the break and the drain by their conditions, a failed path by whether another one qualifies. -/
theorem pathsBreakAndDrainsEnd : Obligations.PathsBreakAndDrainsEnd := by
  refine fun s hc => ⟨fun f => exec_flumeBreak hc, fun f hg => ⟨fun c hp => ?_, fun hn ho => ?_⟩, fun c => exec_drainComplete hc⟩
  · simp only [exec_pathFail hc hg, leavePath, hp]
  · simp only [exec_pathFail hc hg, leavePath, hn, ho, if_true]

end Sys2Proof.Machine
end

section
/-! # A LOAD on a memory that is not canonical

A LOAD erases the accumulator sets of its Querns. `Memory.get` finds a byte only where the keys rise (`Memory.wf`), and the statement about
LOAD names no such premise: where an accumulator's byte stands before a Bin's, erasing the one uncovers the other. -/

namespace Sys2Proof.Machine

open Sys2Proof

/-- The first packet of member 3 on session 0 of host port 0, at the port's IPv4 address. -/
def loadHdr : FrameHdr :=
  { via := .host 0 0, ver := 1, typeOk := true, member := 3, inc := 1, flume := 0, cls := 0, ctr := 1, seqNo := 1, ackNo := 0, slotLimit := 0
    window := 0, tagOk := true, dst := 0, net := { src := ⟨1, 4000⟩, dst := .own 0xFFFF00000001 } }

/-- A program that is one CHALT, on Quern 0. -/
def loadMsg : LoadMsg :=
  { ctx := 0, program := encodeWords ⟨.chalt, ⟨0, false, 0, false, 0, none⟩⟩, groups := [[0]], shards := [], peers := [], wgo := []
    fwd := ⟨1, false, 0, 0, 0, 0, 0⟩, bwd := ⟨1, false, 0, 0, 0, 0, 0⟩, tagBase := 0, tagCount := 0, quota := 0, quotaAfter := 0, alloc := 0
    firstStep := 0 }

def loadJob : JobHdr := ⟨loadHdr, 0⟩
def loadCommand : Instr := .load loadJob { offset := 0, len := 8, final := some loadMsg }

/-- A job with an OPEN session. The byte of Quern 0's first accumulator stands before the byte at key 0, which therefore reads as 0. -/
def hidingState : State :=
  { State.reset with
    mem := [(winBase 0 + accOff, 1), (0, 1)]
    hosts := [(0, { cfg := 47210 <<< 23 ||| 9, ip4 := 1, link := true,
                    sessions := [(0, { state := .openS, addr := ⟨1, 4000⟩, member := 3, inc := 1 })] })]
    sec := { State.reset.sec with phase := .admitted } }

/-- The state in which the LOAD is received. -/
def loadReceived : State := (receive loadHdr loadCommand hidingState).1

theorem loadReceived_turn : JobTurn hidingState loadReceived loadJob loadCommand :=
  ⟨⟨0, 0, rfl⟩, Prod.ext rfl (by decide +kernel), by decide +kernel, by decide +kernel, by decide +kernel, by decide +kernel⟩

/-- Refutes O36: the LOAD is taken, and the byte at key 0, which an accumulator's byte hid, reads 1 behind it. -/
theorem not_contextsLoadAndUnload : ¬ Obligations.ContextsLoadAndUnload := by
  intro h
  obtain ⟨load, -⟩ := h hidingState loadReceived loadJob
  obtain ⟨taken, -⟩ := load loadMsg 8 loadReceived_turn
  obtain ⟨-, -, -, -, bytesKept, -⟩ := taken [⟨.chalt, ⟨0, false, 0, false, 0, none⟩⟩] (by decide +kernel) (by decide +kernel)
  exact absurd (bytesKept 0 (by decide)) (by decide +kernel)

end Sys2Proof.Machine
end

section
/-! # The life of a job

What ADMIT, END and the scrub make of the security state, from the records inside out. -/

namespace Sys2Proof.Machine

open Sys2Proof

/-- What every element of a fold keeps, the fold keeps. -/
theorem foldl_keeps {α β : Type} (g : State → β) {f : State → α → State} (h : ∀ s x, g (f s x) = g s) (l : List α) (s : State) :
    g (l.foldl f s) = g s := by
  induction l generalizing s with
  | nil => rfl
  | cons x l ih => rw [List.foldl_cons, ih, h]

/-! ## The Miller's checks and the security engine's clock (R37, R494) -/

theorem whenEngine_runs {s : State} (h : s.board.haltedByClock = false) (act : State → Reply) : whenEngine act s = act s := by
  simp [whenEngine, h]

/-! ## Attestation behind an admission (R333) -/

/-- The security state without the nonce counters, which every frame that leaves moves on. -/
def Sec.uncounted (x : Sec) : Sec := { x with ctrs := [] }

/-- The fields of the security state that an admission sets do not depend on the nonce counters. -/
theorem Sec.fields_of_uncounted {x y : Sec} (h : x.uncounted = y.uncounted) : x.phase = y.phase ∧ x.jobId = y.jobId ∧ x.seed = y.seed
    ∧ x.members = y.members ∧ x.keySlot = y.keySlot ∧ x.scrubPending = y.scrubPending := by
  have field {α : Type} (g : Sec → α) : g x.uncounted = g y.uncounted := congrArg g h
  exact ⟨field Sec.phase, field Sec.jobId, field Sec.seed, field Sec.members, field Sec.keySlot, field Sec.scrubPending⟩

@[simp] theorem uncounted_emitPlain (s : State) (r : Nat) (fr : Frame) : (emitPlain s r fr).sec.uncounted = s.sec.uncounted := rfl

theorem uncounted_tryAttest (s : State) (r : Nat) : (tryAttest s r).sec.uncounted = s.sec.uncounted := by
  unfold tryAttest
  dsimp only
  split
  · rfl
  · split
    · simp [sendBody]
    · split
      · simp [sendBody]
      · rfl

theorem mem_tryAttest (s : State) (r : Nat) : (tryAttest s r).mem = s.mem := by
  unfold tryAttest
  dsimp only
  split
  · rfl
  · split
    · simp [sendBody]
    · split
      · simp [sendBody]
      · rfl

/-! ## ADMIT (R42, R43, R441) -/

section Admission
variable {s : State} {m : MilHdr} {b : Bundle}

@[simp] theorem mem_applyFrisket (f : FrisketRec) (s : State) : (applyFrisket f s).mem = s.mem := by
  simp only [applyFrisket, issueColophon, mem_logEvent]
  rfl

/-- After an admission the job stands, with its key and a pending scrub; the attestations that follow change none of it. -/
theorem sec_admitJob (b : Bundle) (s : State) : (admitJob b s).sec.phase = .admitted ∧ (admitJob b s).sec.jobId = b.jobId
    ∧ (admitJob b s).sec.seed = b.seed ∧ (admitJob b s).sec.members = b.members ∧ (admitJob b s).sec.keySlot = true
    ∧ (admitJob b s).sec.scrubPending = true := by
  unfold admitJob
  dsimp only
  obtain ⟨phase, jobId, seed, members, keySlot, pending⟩ :=
    Sec.fields_of_uncounted (foldl_keeps (fun s => s.sec.uncounted) uncounted_tryAttest (List.range 32) (issueColophon (logEvent _ _ _ _ _)))
  rw [phase, jobId, seed, members, keySlot, pending]
  simp [issueColophon, renewReserve]

theorem mem_admitJob (b : Bundle) (s : State) : (admitJob b s).mem = s.mem := by
  unfold admitJob
  dsimp only
  rw [foldl_keeps State.mem mem_tryAttest]
  simp only [issueColophon, mem_logEvent, renewReserve, flashWrite_eq]
  cases s.sec.pendingFrisket with
  | none => rfl
  | some f => exact mem_applyFrisket f s

theorem exec_admission {st : Nat} {d : List Nat} {t : State}
    (h : MilTurn s m 0x0030 (if s.sec.frisket.keypol.getLsbD 0 then .both else .operator)) (hr : isReady s = true)
    (hc : s.board.haltedByClock = false) (ht : tryAdmit m b (takeRequest m s) = (t, some (st, d))) :
    exec (.admission m b) s = .next (milAnswered m 0x0030 st d t) := by
  change execAdmission m b s = _
  exact milRequest_now h (.inr hr) ((whenEngine_runs (s := takeRequest m s) hc _).trans (by rw [ht]))

theorem tryAdmit_accepted (hp : s.sec.phase = .noJob) (hl : s.boot.listFull = false) (hb : bundleOk s b = true) (hk : b.kcvOk = true) :
    tryAdmit m b s = (admitJob b s, some (0, [])) := by simp [tryAdmit, hp, hl, hb, hk]

theorem tryAdmit_badBundle (hp : s.sec.phase = .noJob) (hl : s.boot.listFull = false) (hb : bundleOk s b = false) :
    tryAdmit m b s = (admitRefused 3 s, some (6, [3])) := by simp [tryAdmit, hp, hl, hb]

theorem tryAdmit_badKey (hp : s.sec.phase = .noJob) (hl : s.boot.listFull = false) (hb : bundleOk s b = true) (hk : b.kcvOk = false) :
    tryAdmit m b s = (admitRefused 4 { s with sec := { s.sec with keySlot := false } }, some (5, [4])) := by
  simp [tryAdmit, hp, hl, hb, hk]

theorem sec_admitRefused (step : Nat) (s : State) :
    (admitRefused step s).sec = { s.sec with admitRefused := satAdd s.sec.admitRefused 1 65535 } := sec_logEvent ..

theorem mem_admitRefused (step : Nat) (s : State) : (admitRefused step s).mem = s.mem := mem_logEvent ..

end Admission

/-! ## END, QUIESCE, RESUME and FRISKET (R44 to R47, R442, R450) -/

section Requests
variable {s : State} {m : MilHdr}

theorem exec_endJob_admitted (h : MilTurn s m 0x0031 .either) (hc : s.board.haltedByClock = false) (hp : s.sec.phase = .admitted) :
    exec (.endJob m) s = .next (milAnswered m 0x0031 1 [] (endJob (takeRequest m s))) := by
  change execEndJob m s = _
  unfold execEndJob plainRequest
  exact milRequest_now h (.inl rfl) ((whenEngine_runs (s := takeRequest m s) hc _).trans (if_pos hp))

theorem exec_endJob_idle (h : MilTurn s m 0x0031 .either) (hc : s.board.haltedByClock = false) (hp : s.sec.phase ≠ .admitted) :
    exec (.endJob m) s = .next (milAnswered m 0x0031 3 [] (takeRequest m s)) := by
  change execEndJob m s = _
  unfold execEndJob plainRequest
  exact milRequest_now h (.inl rfl) ((whenEngine_runs (s := takeRequest m s) hc _).trans (if_neg hp))

/-- Behind END a scrub is due, and no job, key, pair or hold stands. -/
theorem endJob_ends (s : State) : (endJob s).sec.phase = .scrubbing ∧ (endJob s).sec.keySlot = false ∧ (endJob s).sec.jobId = 0
    ∧ (endJob s).pair.phase = .off ∧ (endJob s).mil.holds = [] := by
  unfold endJob
  dsimp only
  split <;> exact ⟨rfl, rfl, rfl, rfl, rfl⟩

theorem exec_quiesce {mask : W32} (h : MilTurn s m 0x0032 .operator) (hr : isReady s = true) : exec (.quiesce m mask) s
    = .next (milAnswered m 0x0032 0 [] (((maskCtxs mask).filter (fun c => (s.ctx c).state == .running)).foldl (holdCtx 16) (takeRequest m s))) := by
  change execQuiesce m mask s = _
  unfold execQuiesce plainRequest
  exact milRequest_now h (.inr hr) rfl

/-- The contexts that RESUME has freed, before what follows from it. -/
def resumedCtxs (mask : W32) (s : State) : State :=
  let s1 := (maskCtxs mask).foldl resumeHeld s
  { s1 with pair := { s1.pair with incompleteRed := s1.pair.incompleteRed && s1.mil.holds.any (fun h => h.1 == 18) } }

theorem exec_resume {mask : W32} (h : MilTurn s m 0x0033 .operator) (hr : isReady s = true) : exec (.resume m mask) s
    = .next (milAnswered m 0x0033 0 [] (settle (wakeAllRounds (resumedCtxs mask (takeRequest m s))))) := by
  change execResume m mask s = _
  unfold execResume plainRequest
  exact milRequest_now h (.inr hr) rfl

theorem exec_frisket_applied {f : FrisketRec} (h : MilTurn s m 0x0040 .both) (hf : frisketCheck s m f true = 0) (hp : s.sec.phase = .noJob)
    (hs : s.sec.scrubPending = false) : exec (.frisket m f true) s = .next (milAnswered m 0x0040 0 [] (applyFrisket f (takeRequest m s))) := by
  change execFrisket m f true s = _
  have check : frisketCheck (takeRequest m s) m f true = 0 := hf
  have phase : (takeRequest m s).sec.phase = .noJob := hp
  have pending : (takeRequest m s).sec.scrubPending = false := hs
  exact milRequest_now h (.inl rfl) (by simp [check, phase, pending])

/-- The state in which a Frisket record waits for the next admission. -/
def frisketKept (f : FrisketRec) (s : State) : State := { flashWrite s with sec := { s.sec with pendingFrisket := some f } }

theorem frisketKept_keeps (f : FrisketRec) (s : State) : (frisketKept f s).sec.frisket = s.sec.frisket
    ∧ (frisketKept f s).sec.pendingFrisket = some f ∧ (frisketKept f s).mem = s.mem := ⟨rfl, rfl, rfl⟩

theorem exec_frisket_kept {f : FrisketRec} (h : MilTurn s m 0x0040 .both) (hf : frisketCheck s m f true = 0) (hp : s.sec.phase = .admitted) :
    exec (.frisket m f true) s = .next (milAnswered m 0x0040 0 [] (frisketKept f (takeRequest m s))) := by
  change execFrisket m f true s = _
  have check : frisketCheck (takeRequest m s) m f true = 0 := hf
  have phase : (takeRequest m s).sec.phase = .admitted := hp
  exact milRequest_now h (.inl rfl) (by simp [check, phase, frisketKept])

theorem sec_applyFrisket (f : FrisketRec) (s : State) :
    (applyFrisket f s).sec.frisket = f ∧ (applyFrisket f s).sec.pendingFrisket = none := by
  simp [applyFrisket, issueColophon, dropKeys]

end Requests

/-! ## The scrub and the guest die (R443 to R446, R455 to R457) -/

section Scrub
variable {s : State}

/-- The state of a scrub that has found nothing to retire, with its record and a new Colophon. -/
def scrubClean (us : W32) (s : State) : State :=
  let record := scrubRecord s 0 0 us
  logEvent (issueColophon { flashWrite (scrubbed s).nextFree with
    sec := { (scrubbed s).sec with phase := .noJob, scrubPending := false, scrub := record }
    boot := { s.boot with stage := if s.boot.stage = 5 then 6 else s.boot.stage } }) evScrubRecord scPackage 0 [record.result]

theorem admitHeld_none (h : s.sec.heldAdmit = none) : admitHeld s = s := by simp [admitHeld, h]

theorem exec_scrub {us : W32} (hc : s.board.haltedByClock = false) (hp : s.sec.phase = .scrubbing) (hg : s.sec.guestWait = false)
    (hh : s.sec.heldAdmit = none) (hr : s.mm.retiring = []) : exec (.scrub [] [] [] [] us) s = .next (scrubClean us s) := by
  change whileClocked s _ = _
  have held : (scrubClean us s).sec.heldAdmit = none := by
    simp [scrubClean, issueColophon, scrubbed, State.nextFree, hh]
  have retiring : (scrubbed s).mm.retiring = [] := hr
  rw [whileClocked_runs hc, if_pos (by simp [hp, hg]), ← admitHeld_none held]
  simp only [retiring]
  rfl

/-- After the scrub no byte, table or job stands, and no Quern has a register. -/
theorem scrubClean_empty (us : W32) (s : State) : (scrubClean us s).mem = [] ∧ (scrubClean us s).mm.imp = [] ∧ (scrubClean us s).pool = []
    ∧ (scrubClean us s).flumes = [] ∧ (scrubClean us s).shards = [] ∧ (scrubClean us s).sec.phase = .noJob
    ∧ (scrubClean us s).sec.scrubPending = false ∧ (scrubClean us s).sec.scrub = scrubRecord s 0 0 us
    ∧ (scrubClean us s).querns = (scrubbed s).querns := by
  simp [scrubClean, issueColophon, scrubbed, flashWrite_eq]

theorem lanes_scrubbed (s : State) (q : Nat) : ((scrubbed s).quern q).lanes = [] := by
  simp only [State.quern, scrubbed, Tbl.getD, Tbl.find?_mapV]
  cases Tbl.find? s.querns q <;> rfl

theorem exec_guestScrubConfirm (h : s.sec.guestWait = true) (ok : Bool) : ∃ t, exec (.guestScrubConfirm ok) s = .next t ∧ t.sec.guestWait = false
    ∧ t.sec.guestResult = (if ok then 1 else 2) ∧ t.mem = s.mem := by
  cases ok <;> simp [exec, execGuestScrubConfirm, h]

theorem exec_guestAccess {write : Bool} {a : W48} {bytes : List W8} (hc : s.board.haltedByClock = false) (hg : s.part.guestBuild = true)
    (ha : a.toNat + bytes.length ≤ 2 ^ 39) : exec (.guestAccess write a bytes) s =
      if guestWindow s write a.toNat bytes.length = false then .next (guestDeny a.toNat s)
      else if write then
        if (writeMem s (cellsAt a.toNat bytes)).2.isSome then .next (guestDeny a.toNat s)
        else .next ((writeMem s (cellsAt a.toNat bytes)).1.emit (.guestData []))
      else if (rangeErr (readErr s) a.toNat bytes.length).isSome then .next (guestDeny a.toNat s)
      else .next (s.emit (.guestData (readBytes s a.toNat bytes.length))) := by
  change whileClocked s _ = _
  have inSpace : ¬ 2 ^ 39 < a.toNat + bytes.length := by omega
  simp only [whileClocked_runs hc, hg, gt_iff_lt, inSpace, false_or, Bool.not_true, Bool.not_eq_true']
  rfl

end Scrub

/-- Settles O42: an admission by what `tryAdmit` answers, the other requests by the state that each takes, the scrub by its clean state. -/
theorem jobsStartAndEnd : Obligations.JobsStartAndEnd := by
  intro s m hr hc
  refine ⟨fun b h hp hl => ⟨fun hb hk => ?_, fun hb => ?_, fun hb hk => ?_⟩, fun h => ⟨fun hp => ?_, fun hp => ?_⟩, fun mask h => ?_,
    fun mask h => ?_, fun f h hf => ⟨fun hp hs => ?_, fun hp => ?_⟩, fun us hp hg hh hret => ?_, exec_guestScrubConfirm,
    fun a bytes hg ha => ⟨fun hw hread => ?_, fun hw t ht => ?_, fun hw => ?_⟩⟩
  · obtain ⟨phase, jobId, seed, members, keySlot, pending⟩ := sec_admitJob b (takeRequest m s)
    exact ⟨_, exec_admission h hr hc (tryAdmit_accepted (s := takeRequest m s) hp hl hb hk), phase, jobId, seed, members, keySlot, pending,
      mem_admitJob b (takeRequest m s)⟩
  · refine ⟨_, exec_admission h hr hc (tryAdmit_badBundle (s := takeRequest m s) hp hl hb), ?_, ?_, mem_admitRefused ..⟩
    · rw [sec_admitRefused]
      exact hp
    · rw [sec_admitRefused]
      rfl
  · refine ⟨_, exec_admission h hr hc (tryAdmit_badKey (s := takeRequest m s) hp hl hb hk), ?_, ?_, mem_admitRefused ..⟩
    · rw [sec_admitRefused]
      exact hp
    · rw [sec_admitRefused]
  · exact ⟨_, exec_endJob_admitted h hc hp, endJob_ends (takeRequest m s)⟩
  · exact exec_endJob_idle h hc hp
  · exact exec_quiesce h hr
  · exact ⟨_, exec_resume h hr, rfl⟩
  · obtain ⟨frisket, waiting⟩ := sec_applyFrisket f (takeRequest m s)
    exact ⟨_, exec_frisket_applied h hf hp hs, frisket, waiting, mem_applyFrisket ..⟩
  · exact ⟨_, exec_frisket_kept h hf hp, frisketKept_keeps f (takeRequest m s)⟩
  · obtain ⟨mem, imp, pool, flumes, shards, phase, pending, record, querns⟩ := scrubClean_empty us s
    refine ⟨_, exec_scrub hc hp hg hh hret, mem, imp, pool, flumes, shards, phase, pending, ?_, ?_, ?_, ?_, fun q => ?_⟩
    · rw [record]
      rfl
    · rw [record]
      rfl
    · rw [record]
      rfl
    · rw [record]
      rfl
    · rw [State.quern, querns]
      exact lanes_scrubbed s q
  · rw [exec_guestAccess hc hg ha]
    simp [hw, hread]
  · rw [exec_guestAccess hc hg ha]
    simp [hw, ht]
  · refine ⟨_, (exec_guestAccess hc hg ha).trans (if_pos hw), ?_, ?_, ?_⟩
    · exact mem_logEvent ..
    · exact ctxs_logEvent ..
    · rw [sec_logEvent]

end Sys2Proof.Machine
end

section
/-! # What stores, cancelled moves and halts leave as it was

A store to memory reaches the Querns' state nowhere, and the pair's phase nowhere; a cancelled move reaches a Quern's slots and special
elements alone, and a halt leaves the pair's phase. -/

namespace Sys2Proof.Machine

open Sys2Proof

/-! ## Stores -/

/-- The parts of the state that a store to memory leaves as they are. -/
def State.besideStores (s : State) : Tbl Quern × PairPhase := (s.querns, s.pair.phase)

/-- A set that shrinks loses lines and nothing else. -/
theorem shrinkSet_eq (set n k : Nat) (s : State) : ∃ l, shrinkSet set n k s = { s with mm := { s.mm with lines := l } } := by
  induction k generalizing s with
  | zero => exact ⟨s.mm.lines, rfl⟩
  | succ fuel ih =>
    unfold shrinkSet
    split
    · exact ⟨s.mm.lines, rfl⟩
    · split
      · next l _ =>
        obtain ⟨lines, h⟩ := ih (eraseLine l s)
        exact ⟨lines, h⟩
      · exact ⟨s.mm.lines, rfl⟩

@[simp] theorem besideStores_shrinkSet (set n k : Nat) (s : State) : (shrinkSet set n k s).besideStores = s.besideStores := by
  obtain ⟨l, h⟩ := shrinkSet_eq set n k s
  rw [h]
  rfl

@[simp] theorem besideStores_setLine (s : State) (l : Nat) (v : StoreLine) : (setLine s l v).besideStores = s.besideStores := by
  unfold setLine
  split
  · rfl
  · split
    · rfl
    · exact besideStores_shrinkSet ..

@[simp] theorem besideStores_useLine (s : State) (l : Nat) : (useLine s l).besideStores = s.besideStores := by
  unfold useLine
  split <;> rfl

@[simp] theorem besideStores_dirtyLine (s : State) (l : Nat) : (dirtyLine s l).besideStores = s.besideStores := by
  unfold dirtyLine
  split
  · split <;> simp
  · rfl

theorem besideStores_setPage (s : State) (p : Nat) (e : ImpEnt) : (s.setPage p e).besideStores = s.besideStores := rfl

@[simp] theorem besideStores_clearMark (s : State) (f g : Nat) : (clearMark s f g).besideStores = s.besideStores := by
  unfold clearMark
  dsimp only
  split
  · split
    · exact foldl_keeps State.besideStores (fun s x => besideStores_setPage s _ _) ..
    · rfl
  · rfl

@[simp] theorem besideStores_noteUnits (s : State) (as : List Nat) : (noteUnits s as).besideStores = s.besideStores := by
  unfold noteUnits
  split <;> rfl

@[simp] theorem besideStores_logEvent (s : State) (code scope id : Nat) (detail : List Nat) :
    (logEvent s code scope id detail).besideStores = s.besideStores := by
  simp [State.besideStores]

@[simp] theorem besideStores_storeBytes (s : State) (ws : List (Nat × W8)) : (storeBytes s ws).besideStores = s.besideStores := by
  unfold storeBytes
  dsimp only
  rw [foldl_keeps State.besideStores (fun s p => besideStores_logEvent ..), besideStores_noteUnits,
    foldl_keeps State.besideStores (fun s m => besideStores_clearMark ..)]
  exact foldl_keeps State.besideStores besideStores_dirtyLine ..

@[simp] theorem besideStores_writeMem (s : State) (ws : List (Nat × W8)) : (writeMem s ws).1.besideStores = s.besideStores := by
  unfold writeMem storeData
  dsimp only
  split
  · rfl
  · split <;> exact besideStores_storeBytes ..

theorem querns_writeMem (s : State) (ws : List (Nat × W8)) : (writeMem s ws).1.querns = s.querns :=
  congrArg Prod.fst (besideStores_writeMem s ws)

theorem phase_writeMem (s : State) (ws : List (Nat × W8)) : (writeMem s ws).1.pair.phase = s.pair.phase :=
  congrArg Prod.snd (besideStores_writeMem s ws)

/-! ## Cancelled moves (R36) -/

/-- Which Querns are fenced. -/
def State.fences (s : State) : Nat → Bool := fun q => (s.quern q).fenced

/-- An update that keeps a Quern's fence keeps every fence. -/
theorem fences_updQuern (s : State) (q : Nat) {f : Quern → Quern} (h : (f (s.quern q)).fenced = (s.quern q).fenced) :
    (s.updQuern q f).fences = s.fences := by
  funext i
  by_cases hi : i = q
  · subst hi
    simpa [State.fences] using h
  · simp [State.fences, State.updQuern, State.quern_setQuern_ne _ _ _ _ hi]

theorem fences_of_querns {s t : State} (h : t.querns = s.querns) : t.fences = s.fences := by
  unfold State.fences State.quern
  rw [h]

theorem fenced_setSlot (v : Quern) (n : Nat) (t : StatusSlot) : (v.setSlot n t).fenced = v.fenced := by
  unfold Quern.setSlot
  split <;> rfl

@[simp] theorem fences_forgetSpecial (s : State) (ws : List (Nat × W8)) : (forgetSpecial s ws).fences = s.fences := by
  refine foldl_keeps State.fences (fun s w => ?_) ws s
  split
  · split
    · exact fences_updQuern _ _ rfl
    · rfl
  · rfl

@[simp] theorem phase_forgetSpecial (s : State) (ws : List (Nat × W8)) : (forgetSpecial s ws).pair.phase = s.pair.phase := by
  refine foldl_keeps (fun s => s.pair.phase) (fun s w => ?_) ws s
  split
  · split <;> rfl
  · rfl

/-- A delivery keeps every fence and the pair's phase. -/
theorem deliver_keeps (s : State) (q : Nat) (o : MoveOut) :
    (deliver s q o).1.fences = s.fences ∧ (deliver s q o).1.pair.phase = s.pair.phase := by
  cases o with
  | mem ws =>
    have fences := fences_of_querns (querns_writeMem s ws)
    have phase := phase_writeMem s ws
    unfold deliver
    dsimp only
    split
    · next s1 hw =>
      rw [hw] at fences phase
      exact ⟨(fences_forgetSpecial ..).trans fences, (phase_forgetSpecial ..).trans phase⟩
    · exact ⟨fences, phase⟩
  | status n t => exact ⟨fences_updQuern _ _ (fenced_setSlot ..), rfl⟩
  | desc n d => exact ⟨fences_updQuern _ _ rfl, rfl⟩

/-- A cancelled move keeps every fence and the pair's phase. -/
theorem cancelMove_keeps (s : State) (q : Nat) (m : Move) :
    (cancelMove s q m).fences = s.fences ∧ (cancelMove s q m).pair.phase = s.pair.phase := by
  unfold cancelMove
  dsimp only
  split
  · exact ⟨rfl, rfl⟩
  · exact ⟨fences_of_querns (querns_writeMem s.nextFree _), phase_writeMem s.nextFree _⟩
  · split
    · exact deliver_keeps s.nextFree q _
    · exact ⟨rfl, rfl⟩

theorem phase_cancelMove (s : State) (q : Nat) (m : Move) : (cancelMove s q m).pair.phase = s.pair.phase := (cancelMove_keeps s q m).2

@[simp] theorem fences_cancelMoves (s : State) (q : Nat) : (cancelMoves s q).fences = s.fences :=
  (fences_updQuern _ _ rfl).trans (foldl_keeps State.fences (fun s m => (cancelMove_keeps s q m).1) _ s)

/-! ## Halts (R46) -/

theorem phase_abandonOn (s : State) (c q : Nat) : (abandonOn s c q).pair.phase = s.pair.phase := by
  unfold abandonOn
  dsimp only
  split
  · rfl
  · split
    · exact foldl_keeps (fun s => s.pair.phase) (fun s m => phase_cancelMove s q m) ..
    · rfl

theorem phase_revertEntries (s : State) (h : Nat) (p : Entry → Bool) : (revertEntries s h p).pair.phase = s.pair.phase := by
  unfold revertEntries
  dsimp only
  split <;> rfl

@[simp] theorem phase_haltCtx (s : State) (c : Nat) : (haltCtx s c).pair.phase = s.pair.phase := by
  unfold haltCtx
  dsimp only
  split
  · rw [phase_revertEntries, phase_revertEntries]
    exact foldl_keeps (fun s => s.pair.phase) (fun s q => phase_abandonOn s c q) ..
  · rfl

/-! ## What an event and a defect record leave of the Miller and the boot state (R470, R496) -/

/-- The Miller without what an event changes: its rings, their counts and the pushes that had no link. -/
def Miller.besideEvents (x : Miller) : Miller := { x with ring := [], flashRing := [], evSeq := 0, lost := 0, telemSkipped := 0 }

theorem besideEvents_recordEvent (s : State) (code scope id : Nat) (detail : List Nat) :
    (recordEvent s code scope id detail).mil.besideEvents = s.mil.besideEvents := by
  unfold recordEvent
  dsimp only
  split
  · rw [mil_toSubscribers]
    rfl
  · rfl

theorem besideEvents_logEvent (s : State) (code scope id : Nat) (detail : List Nat) :
    (logEvent s code scope id detail).mil.besideEvents = s.mil.besideEvents := by
  unfold logEvent
  dsimp only
  split
  · rw [besideEvents_recordEvent, besideEvents_recordEvent]
  · exact besideEvents_recordEvent ..

section Events
variable (s : State) (code scope id : Nat) (detail : List Nat)

theorem mil_field_logEvent {α : Type} (g : Miller → α) (h : ∀ x, g x.besideEvents = g x) :
    g (logEvent s code scope id detail).mil = g s.mil := by
  rw [← h, besideEvents_logEvent, h]

@[simp] theorem wdogResets_logEvent : (logEvent s code scope id detail).mil.wdogResets = s.mil.wdogResets :=
  mil_field_logEvent s code scope id detail Miller.wdogResets fun _ => rfl
@[simp] theorem subs_logEvent : (logEvent s code scope id detail).mil.subs = s.mil.subs :=
  mil_field_logEvent s code scope id detail Miller.subs fun _ => rfl
@[simp] theorem keyOwner_logEvent : (logEvent s code scope id detail).mil.keyOwner = s.mil.keyOwner :=
  mil_field_logEvent s code scope id detail Miller.keyOwner fun _ => rfl
@[simp] theorem keyOperator_logEvent : (logEvent s code scope id detail).mil.keyOperator = s.mil.keyOperator :=
  mil_field_logEvent s code scope id detail Miller.keyOperator fun _ => rfl
@[simp] theorem lastOwner_logEvent : (logEvent s code scope id detail).mil.lastOwner = s.mil.lastOwner :=
  mil_field_logEvent s code scope id detail Miller.lastOwner fun _ => rfl
@[simp] theorem link_logEvent : (logEvent s code scope id detail).mil.link = s.mil.link :=
  mil_field_logEvent s code scope id detail Miller.link fun _ => rfl
@[simp] theorem ptpLocked_logEvent : (logEvent s code scope id detail).mil.ptpLocked = s.mil.ptpLocked :=
  mil_field_logEvent s code scope id detail Miller.ptpLocked fun _ => rfl

end Events

end Sys2Proof.Machine
end

section
/-! # Stones, Querns and the Miller's watchdog

A Stone that stops fences each of its Querns; one that recovers has its Querns loaded one by one; both are folds over the Stone's Querns. -/

namespace Sys2Proof.Machine

open Sys2Proof

/-- What each step of a fold brings about for its own element, and later steps keep, holds of every element in the end. -/
theorem foldl_establishes {α : Type} {f : State → α → State} {P : α → State → Prop} (own : ∀ s x, P x (f s x))
    (keep : ∀ s x y, P y s → P y (f s x)) (l : List α) (s : State) : ∀ x ∈ l, P x (l.foldl f s) := by
  induction l using List.reverseRecOn with
  | nil => simp
  | append_singleton l a ih =>
    intro x hx
    rw [List.foldl_append]
    obtain hx | hx := List.mem_append.1 hx
    · exact keep _ _ _ (ih x hx)
    · rw [List.mem_singleton.1 hx]
      exact own _ _

/-- A fold whose every step changes nothing changes nothing. -/
theorem foldl_idle {α : Type} {f : State → α → State} {l : List α} {s : State} (h : ∀ x ∈ l, f s x = s) : l.foldl f s = s :=
  List.foldlRecOn (motive := fun t => t = s) l f rfl fun _ ht x hx => ht ▸ h x hx

theorem mem_stoneQuerns {n q : Nat} (h : q / 32 = n) : q ∈ stoneQuerns n :=
  List.mem_map.2 ⟨q % 32, List.mem_range.2 (by omega), by omega⟩

/-! ## Fencing (R36, R387) -/

theorem querns_stopHeld (s : State) : (stopHeld s).querns = s.querns := by
  unfold stopHeld
  dsimp only
  refine foldl_keeps State.querns (fun s c => ?_) _ s
  rfl

theorem fences_overlapping (page : Bool) (before s : State) : (overlapping page before s).fences = s.fences := by
  unfold overlapping
  split
  · exact fences_of_querns (querns_stopHeld s)
  · rfl

theorem fences_logEvent (s : State) (code scope id : Nat) (detail : List Nat) : (logEvent s code scope id detail).fences = s.fences :=
  fences_of_querns (querns_logEvent ..)

/-- One Quern of a Stone is fenced: its moves are cancelled first. -/
def fenceOne (s : State) (q : Nat) : State := (cancelMoves s q).updQuern q (fun v => { v with fenced := true })

theorem fences_fenceOne_same (s : State) (q : Nat) : (fenceOne s q).fences q = true := by
  simp [fenceOne, State.fences]

theorem fences_fenceOne_of_fenced {s : State} {p : Nat} (q : Nat) (h : s.fences p = true) : (fenceOne s q).fences p = true := by
  by_cases hp : p = q
  · rw [hp]
    exact fences_fenceOne_same ..
  · have kept := congrFun (fences_cancelMoves s q) p
    rw [h] at kept
    simpa [fenceOne, State.fences, State.updQuern, State.quern_setQuern_ne _ _ _ _ hp] using kept

theorem fenceStone_eq (n : Nat) (s : State) : ∃ u, fenceStone n s = (stoneQuerns n).foldl fenceOne u := by
  unfold fenceStone fenceOne
  exact ⟨_, rfl⟩

theorem fences_fenceStone (s : State) {n q : Nat} (h : q / 32 = n) : (fenceStone n s).fences q = true := by
  obtain ⟨u, hu⟩ := fenceStone_eq n s
  rw [hu]
  exact foldl_establishes (f := fenceOne) (P := fun q s => s.fences q = true) (fun s q => fences_fenceOne_same s q)
    (fun _ q _ hp => fences_fenceOne_of_fenced q hp) (stoneQuerns n) u q (mem_stoneQuerns h)

theorem fenced_stopStone {s : State} {n q : Nat} (why : List Nat) (hen : s.boot.stonesEn.getLsbD n = true)
    (hf : (s.stone n).fenced = false) (h : q / 32 = n) : ((stopStone n why s).quern q).fenced = true := by
  change (stopStone n why s).fences q = true
  rw [stopStone, if_neg (by simp [hen, hf]), fences_overlapping, fences_logEvent]
  exact fences_fenceStone s h

/-! ## Probes, brown-outs and requests (R387, R388, R520) -/

section Stone
variable {s : State} {n : Fin 4}

theorem exec_stoneProbe (hc : s.board.haltedByClock = false) (hen : s.boot.stonesEn.getLsbD n = true) (hf : (s.stone n).fenced = false)
    (b : Bool) : exec (.stoneProbe n b) s = .next (if b then s.setStone n { s.stone n with probesMissed := 0 }
      else if (s.stone n).probesMissed + 1 < 8 then s.setStone n { s.stone n with probesMissed := (s.stone n).probesMissed + 1 }
      else stopStone n [] s) := by
  change execStoneProbe n b s = _
  unfold execStoneProbe
  rw [whileClocked_runs hc]
  simp only [hen, hf, Bool.not_true, Bool.false_eq_true, or_self, if_false]
  split
  · rfl
  · split <;> rfl

theorem exec_brownOut (h : (s.stone n).vcode ≠ 0) : exec (.brownOut n) s = .next (stopStone n [1] s) := by
  change execBrownOut n s = _
  unfold execBrownOut
  rw [if_neg h]

/-- A signed request that passes its checks and whose reply comes later leaves what its action makes of it (R488). -/
theorem milRequest_later {t : State} {m : MilHdr} {op : Nat} {who : Signers} {onRefuse : State → State} {act : State → Reply}
    (h : MilTurn s m op who) (hr : isReady s = true) (ha : act (takeRequest m s) = .later t) :
    milRequest m op who false onRefuse act s = .next t := by
  obtain ⟨hears, packet, form, boot, sigs, signed, allowed, fresh⟩ := h
  have notBelow : (lastSeqs s m).any (fun n => decide (m.reqSeq.toNat < n)) = false := by
    simpa [List.any_eq_false] using fun n hn => (fresh n hn).le
  have notEqual : (lastSeqs s m).any (fun n => decide (m.reqSeq.toNat = n)) = false := by
    simpa [List.any_eq_false] using fun n hn => (fresh n hn).ne'
  simp only [milRequest, hears, packet, form, boot, sigs, signed, allowed, notBelow, notEqual, hr, ha]
  simp

theorem exec_stonereset {m : MilHdr} (h : MilTurn s m 0x0034 .operator) (hr : isReady s = true) (hen : s.boot.stonesEn.getLsbD n = true)
    (hw : Tbl.find? s.mil.awaitStone n = none) :
    ∃ t, exec (.stonereset m n) s = .next t ∧ Tbl.find? t.mil.awaitStone n = some m := by
  have enabled : (takeRequest m s).boot.stonesEn.getLsbD n = true := hen
  have free : Tbl.find? (takeRequest m s).mil.awaitStone n = none := hw
  let u := stopStone n [] (takeRequest m s)
  refine ⟨{ u with mil := { u.mil with awaitStone := u.mil.awaitStone.set n m } }, ?_, Tbl.find?_set_same ..⟩
  change execStonereset m n s = _
  unfold execStonereset plainRequest
  exact milRequest_later h hr (by simp [enabled, free, u])

/-! ## Recovery (R388, R391) -/

theorem quern_loadQuern_same (s : State) (q : Nat) : (loadQuern s q).quern q = { loaded := true } := s.quern_setQuern_same q _

theorem quern_loadQuern_of_loaded {s : State} {p : Nat} (q : Nat) (h : s.quern p = { loaded := true }) :
    (loadQuern s q).quern p = { loaded := true } := by
  by_cases hp : p = q
  · rw [hp]
    exact quern_loadQuern_same ..
  · exact (s.quern_setQuern_ne q p _ hp).trans h

/-- A Stone that has passed its tests: its Querns are mapped and loaded, and its fence is open (R388 steps 4 and 5). -/
def reopened (n : Nat) (s : State) : State := ((stoneQuerns n).foldl loadQuern (mapQuerns n s)).updStone n (fun x => { x with fenced := false })

theorem foldl_loadQuern (l : List Nat) (s : State) : (l.foldl loadQuern s).pool = s.pool ∧ (l.foldl loadQuern s).ctxs = s.ctxs
    ∧ ∀ q ∈ l, (l.foldl loadQuern s).quern q = { loaded := true } :=
  ⟨foldl_keeps (f := loadQuern) State.pool (fun _ _ => rfl) l s, foldl_keeps (f := loadQuern) State.ctxs (fun _ _ => rfl) l s,
    foldl_establishes (P := fun q s => s.quern q = { loaded := true }) (fun s q => quern_loadQuern_same s q)
      (fun _ q _ hp => quern_loadQuern_of_loaded q hp) l s⟩

theorem reopened_spec (n : Nat) (s : State) : ((reopened n s).stone n).fenced = false ∧ (reopened n s).pool = s.pool
    ∧ (reopened n s).ctxs = s.ctxs ∧ ∀ q ∈ stoneQuerns n, (reopened n s).quern q = { loaded := true } := by
  obtain ⟨pool, ctxs, loaded⟩ := foldl_loadQuern (stoneQuerns n) (mapQuerns n s)
  unfold reopened
  generalize (stoneQuerns n).foldl loadQuern (mapQuerns n s) = u at *
  exact ⟨by rw [stone_updStone_same], pool, ctxs, loaded⟩

theorem restartUnion_passed {pass : List Bool} (h : ∀ i ∈ okQuerns s n, pass.getD i false = true) : restartUnion n pass s = s :=
  foldl_idle fun i hi => if_pos (h i hi)

theorem exec_stoneRecovery_passed (hc : s.board.haltedByClock = false) (hf : (s.stone n).fenced = true) {o : RestartOutcome}
    (hrail : o.railUp = true) (hload : o.loadOk = true) (hpass : ∀ i ∈ okQuerns s n, o.pass.getD i false = true)
    (hok : 32 ≤ (okQuerns s n).length) :
    exec (.stoneRecovery n o) s = .next (answerStone n 0 (settle (wakeAllReds ((stoneQuerns n).foldl
      (fun s q => recoverCause false (quernCause q) s) (recoverCause false (stoneCause n) (reopened n s)))))) := by
  change execStoneRecovery n o s = _
  unfold execStoneRecovery
  rw [whileClocked_runs hc]
  simp only [hf, hrail, hload, if_true, restartUnion_passed hpass, Nat.not_lt.2 hok]
  rfl

theorem exec_stoneRecovery_railDown (hc : s.board.haltedByClock = false) (hf : (s.stone n).fenced = true) {o : RestartOutcome}
    (hrail : o.railUp = false) : exec (.stoneRecovery n o) s = .next (answerStone n 3 (degradeStone n 3 s)) := by
  change execStoneRecovery n o s = _
  unfold execStoneRecovery
  rw [whileClocked_runs hc]
  simp [hf, hrail]

/-! ## One Quern (R237, R392) -/

section Quern
variable {q : Fin 128} {old : Nat} (hc : s.board.haltedByClock = false) (hq : q.val / 32 = n.val)
  (hmap : Tbl.find? s.boot.quernMap q = some old) (hf : (s.stone n).fenced = false)
include hc hq hmap hf

theorem exec_quernFault_corrected : exec (.quernFault q .corrected) s = .next (countCe s) := by
  change execQuernFault q .corrected s = _
  unfold execQuernFault
  rw [whileClocked_runs hc]
  simp [hq, hmap, hf]

variable (hopen : (s.quern q).fenced = false)
include hopen

theorem exec_quernFault_spare {i : Nat} (hs : spareOf (fenceQuern q old s) n = some i) :
    exec (.quernFault q .spareOk) s = .next (substitute q old i (fenceQuern q old s)) := by
  change execQuernFault q .spareOk s = _
  unfold execQuernFault
  rw [whileClocked_runs hc]
  simp [hq, hmap, hf, hopen, hs]

theorem exec_quernFault_noSpare (hs : spareOf (fenceQuern q old s) n = none) {o : QuernOutcome} (ho : o ≠ .corrected) :
    exec (.quernFault q o) s = .next (noSpare n (fenceQuern q old s)) := by
  change execQuernFault q o s = _
  unfold execQuernFault
  rw [whileClocked_runs hc]
  simp [hq, hmap, hf, hopen, hs, ho]

end Quern
end Stone

/-! ## The Miller's watchdog (R502) -/

/-- The state after the Miller's own part of a watchdog reset, before the contexts halt or drain. -/
def watchdogBoot (s : State) : State :=
  let s1 := abortRecal (freshMiller { s with sec := { s.sec with heldAdmit := none } })
  logEvent { s1 with mil := { s1.mil with wdogResets := satAdd s1.mil.wdogResets 1 255 } } evMillerWatchdog scPackage 0 []

theorem abortRecal_eq (s : State) : ∃ b, abortRecal s = { s with boot := b } := by
  unfold abortRecal
  split
  · exact ⟨_, rfl⟩
  · exact ⟨s.boot, rfl⟩

theorem watchdogBoot_spec (s : State) : (watchdogBoot s).sec.keySlot = s.sec.keySlot
    ∧ (watchdogBoot s).mil.wdogResets = satAdd s.mil.wdogResets 1 255 ∧ (watchdogBoot s).mil.subs = [] ∧ (watchdogBoot s).mil.keyOwner = false
    ∧ (watchdogBoot s).mil.keyOperator = false ∧ (watchdogBoot s).mil.lastOwner = 0 ∧ (watchdogBoot s).pwr = s.pwr
    ∧ (watchdogBoot s).mem = s.mem := by
  obtain ⟨b, hb⟩ := abortRecal_eq (freshMiller { s with sec := { s.sec with heldAdmit := none } })
  unfold watchdogBoot
  rw [hb]
  simp [freshMiller]

theorem exec_millerWatchdogReset {s : State} (h : s.mil.mstate = 1) (within : Bool) :
    exec (.millerWatchdogReset within) s = .next (if within then (allCtxs (watchdogBoot s)).foldl (haltFor 17) (watchdogBoot s)
      else settle ((runningCtxs s).foldl (fun s c => resumeCtx (drainCtx s c) c) (watchdogBoot s))) := by
  change execMillerWatchdogReset within s = _
  unfold execMillerWatchdogReset
  rw [if_neg (not_not.2 h)]
  dsimp only
  split <;> rfl

/-- Settles O45: the fence of a Stone and its reload are folds over its Querns, the rest is one branch of a command each. -/
theorem stonesAndQuernsFail : Obligations.StonesAndQuernsFail := by
  intro s n
  refine ⟨fun hc hen hf => ⟨?_, fun hp => ?_, fun hp => ?_, fun q hq _ => fenced_stopStone [] hen hf hq⟩, exec_brownOut,
    fun m h hr hen hw => exec_stonereset h hr hen hw, fun hc hf => ⟨fun o hrail hload hpass hok => ?_, fun o => exec_stoneRecovery_railDown hc hf⟩,
    fun q old hc hq hmap hf => ⟨exec_quernFault_corrected hc hq hmap hf, fun hopen => ⟨fun i => exec_quernFault_spare hc hq hmap hf hopen,
      fun hs o ho => exec_quernFault_noSpare hc hq hmap hf hopen hs ho⟩⟩, fun h => ?_⟩
  · exact exec_stoneProbe hc hen hf true
  · rw [exec_stoneProbe hc hen hf]
    simp [hp]
  · rw [exec_stoneProbe hc hen hf]
    simp [Nat.not_lt.2 hp]
  · exact ⟨reopened n s, exec_stoneRecovery_passed hc hf hrail hload hpass hok, reopened_spec n s⟩
  · obtain ⟨key, resets, subs, owner, operator, last, pwr, mem⟩ := watchdogBoot_spec s
    exact ⟨watchdogBoot s, key, resets, subs, owner, operator, last, pwr, mem, exec_millerWatchdogReset h true, exec_millerWatchdogReset h false⟩

end Sys2Proof.Machine
end

section
/-! # The reference clocks, the buses, the crystal and the debug port

What the Races' retraining leaves of memory, board and pair; the rails one by one; the rest is one branch of a command each. -/

namespace Sys2Proof.Machine

open Sys2Proof

/-! ## A lost reference (R37, R396) -/

/-- The state in which the halts of a lost reference start. -/
def clockLost (k : Fin 4) (s : State) : State :=
  logEvent { s with board := { s.board with refclk := s.board.refclk &&& ~~~((1 : BitVec 4) <<< k.val), haltedByClock := true } }
    evClockLoss scPackage 0 []

theorem getLsbD_clearBit (v : BitVec 4) (k : Fin 4) : (v &&& ~~~((1 : BitVec 4) <<< k.val)).getLsbD k = false := by
  simp

theorem clockLost_spec (k : Fin 4) (s : State) : (clockLost k s).board.haltedByClock = true ∧ (clockLost k s).board.refclk.getLsbD k = false
    ∧ (clockLost k s).ctxs = s.ctxs ∧ (clockLost k s).mem = s.mem := by
  unfold clockLost
  rw [board_logEvent, ctxs_logEvent, mem_logEvent]
  exact ⟨rfl, getLsbD_clearBit _ k, rfl, rfl⟩

section Clock
variable {s : State}

theorem exec_referenceClockLoss (hc : s.board.haltedByClock = false) (hp : s.board.pwrgood = true) (k : Fin 4) :
    exec (.referenceClockLoss k) s = .next (((clockLost k s).querns.map (·.1)).foldl cancelMoves
      ((allCtxs (clockLost k s)).foldl (haltFor clockCause) (clockLost k s))) := by
  change execReferenceClockLoss k s = _
  unfold execReferenceClockLoss
  dsimp only
  rw [if_neg (by simp [hc, hp])]
  rfl

section Stopped
variable (hc : s.board.haltedByClock = true)
include hc

theorem exec_programComplete_stopped (q : Fin 128) : exec (.programComplete q) s = .next s := whileClocked_stopped hc _

theorem exec_cwait_stopped (q : Fin 128) (st : StreamId) (i : Issue) : exec (.cwait (.quern q st) i) s = .next s := by
  change execCwait (.quern q st) i s = _
  simp [execCwait, quernCwait, hc]

theorem exec_stoneProbe_stopped (n : Fin 4) (b : Bool) : exec (.stoneProbe n b) s = .next s := whileClocked_stopped hc _

theorem exec_discover_stopped (p : Fin 2) (d : Datagram) : exec (.discover p d) s = .next s := by
  change execDiscover p d s = _
  simp [execDiscover, hearPacket, portHears, hc]

end Stopped

/-! ## Its return (R396) -/

/-- What the training of Races leaves as it is: memory, board and pair. -/
def State.besideRaces (s : State) : Mem × List Host.Cell × Board × Pair := (s.mm, s.mem, s.board, s.pair)

theorem besideRaces_moveJournal (r : Nat) (s : State) : (moveJournal r s).besideRaces = s.besideRaces := by
  unfold moveJournal
  split
  · split
    · refine foldl_keeps State.besideRaces (fun s x => ?_) ..
      rfl
    · rfl
  · rfl

theorem besideRaces_leaveAttested (s : State) (r : Nat) : (leaveAttested s r).besideRaces = s.besideRaces := by
  unfold leaveAttested
  split <;> rfl

theorem besideRaces_endRace (s : State) (r : Nat) (st : RaceState) : (endRace s r st).besideRaces = s.besideRaces :=
  (besideRaces_moveJournal ..).trans (besideRaces_leaveAttested s r)

theorem besideRaces_retrainRace (s : State) (r : Nat) : (retrainRace s r).besideRaces = s.besideRaces := by
  unfold retrainRace
  split
  · rfl
  · exact besideRaces_endRace ..

theorem besideRaces_retrainAll (s : State) : (retrainAll s).besideRaces = s.besideRaces := by
  unfold retrainAll
  refine foldl_keeps State.besideRaces (fun s r => ?_) ..
  split
  · exact besideRaces_retrainRace ..
  · rfl

/-- The Races train again with the references back, INTACT or not. -/
def clocksBack (intact : Bool) (s : State) : State :=
  retrainAll { s with board := { s.board with refclk := 0xF, haltedByClock := false, intact := intact } }

theorem clocksBack_spec (intact : Bool) (s : State) : (clocksBack intact s).board.intact = intact ∧ (clocksBack intact s).mm = s.mm
    ∧ (clocksBack intact s).mem = s.mem ∧ (clocksBack intact s).pair = s.pair := by
  have h := besideRaces_retrainAll { s with board := { s.board with refclk := 0xF, haltedByClock := false, intact := intact } }
  simp only [State.besideRaces, Prod.mk.injEq] at h
  obtain ⟨mm, mem, board, pair⟩ := h
  exact ⟨congrArg Board.intact board, mm, mem, pair⟩

theorem exec_referenceClockResume_intact (hc : s.board.haltedByClock = true) : exec (.referenceClockResume true false) s
    = .next (settle (wakeAllReds (logEvent (recoverCause true clockCause (clocksBack true s)) evClockResume scPackage 0 [1]))) := by
  change execReferenceClockResume true false s = _
  unfold execReferenceClockResume
  simp [hc, clocksBack]

/-- The state after a resume that the Bins' contents did not outlive, in single-package mode. -/
def binsForgotten (s : State) : State := forgetCause clockCause (logEvent (loseBins (clocksBack false s)) evClockResume scPackage 0 [0])

theorem mm_binsForgotten (s : State) : (binsForgotten s).mm = (loseBins (clocksBack false s)).mm := mm_logEvent ..

theorem board_binsForgotten (s : State) : (binsForgotten s).board = (clocksBack false s).board := board_logEvent ..

theorem pair_binsForgotten (s : State) : (binsForgotten s).pair = s.pair :=
  (pair_logEvent ..).trans (clocksBack_spec false s).2.2.2

theorem exec_referenceClockResume_lapsed (hc : s.board.haltedByClock = true) (hp : s.pair.phase = .off) {within lapse : Bool}
    (h : (within && !lapse) = false) : exec (.referenceClockResume within lapse) s = .next (binsForgotten s) := by
  have single : pairMode (binsForgotten s) = false := by simp [pairMode, pair_binsForgotten, hp]
  change execReferenceClockResume within lapse s = _
  unfold execReferenceClockResume
  dsimp only
  rw [if_neg (by simp [hc]), h, if_neg Bool.false_ne_true]
  change Host.Outcome.next (if pairMode (binsForgotten s) then leavePair 3 (binsForgotten s) else binsForgotten s) = _
  rw [if_neg (by simp [single])]

/-- Every page behind a frame is LOST with the Bins' contents. -/
theorem state_page_loseBins (s : State) (p : Nat)
    (h : (s.page p).state = .mapped ∨ (s.page p).state = .damaged ∨ (s.page p).state = .migrating) : ((loseBins s).page p).state = .lost := by
  unfold State.page Tbl.getD at h ⊢
  unfold loseBins
  dsimp only
  rw [Tbl.find?_mapV]
  cases hf : Tbl.find? s.mm.imp p with
  | none => simp [hf] at h
  | some e =>
    simp only [hf, Option.getD_some] at h
    obtain h | h | h := h <;> simp [h]

theorem state_page_binsForgotten (p : Nat)
    (h : (s.page p).state = .mapped ∨ (s.page p).state = .damaged ∨ (s.page p).state = .migrating) : ((binsForgotten s).page p).state = .lost := by
  have pages : (binsForgotten s).page p = (loseBins (clocksBack false s)).page p := by rw [State.page, mm_binsForgotten, State.page]
  have kept : (clocksBack false s).page p = s.page p := by rw [State.page, (clocksBack_spec false s).2.1, State.page]
  rw [pages]
  exact state_page_loseBins _ p (by rwa [kept])

/-! ## The power buses and ALERT (R516, R519) -/

theorem mem_railLost_loseRail (s : State) (rail : Nat) : rail ∈ (loseRail s rail).pwr.railLost := by
  unfold loseRail
  rw [pwr_logEvent]
  dsimp only
  split
  · next h => simpa using h
  · simp

theorem mem_railLost_loseRail_of_mem {r : Nat} (rail : Nat) (h : r ∈ s.pwr.railLost) : r ∈ (loseRail s rail).pwr.railLost := by
  unfold loseRail
  rw [pwr_logEvent]
  dsimp only
  split
  · exact h
  · exact List.mem_append_left _ h

theorem exec_pmbusFailure_setpoint (n : Fin 4) :
    exec (.pmbusFailure (.setpoint n true)) s = .next (stopStone n [] (logEvent s evEstimatorFault scPackage 0 [n.val])) := by
  change execPmbusFailure (.setpoint n true) s = _
  simp [execPmbusFailure]

/-- Output that a fold emits stands behind what was there. -/
theorem out_foldl_emit {α : Type} (g : α → Out) (l : List α) (s : State) : (l.foldl (fun s a => s.emit (g a)) s).out = s.out ++ l.map g := by
  induction l generalizing s with
  | nil => simp
  | cons a l ih => rw [List.foldl_cons, ih, State.out_emit, List.map_cons, List.append_assoc, List.singleton_append]

theorem exec_alert (st : List (Nat × W16)) (s : State) :
    ∃ t, exec (.alert st) s = .next t ∧ t.out = s.out ++ (controllers s).map (fun a => .pmbusRead a) ∧ t.mem = s.mem := by
  refine ⟨_, rfl, out_foldl_emit (fun a => .pmbusRead a) (controllers s) s, ?_⟩
  exact foldl_keeps (f := fun s a => s.emit (.pmbusRead a)) State.mem (fun _ _ => rfl) (controllers s) s

/-! ## The Miller's crystal (R519, R522) -/

/-- The state at the loss of XIN, before the rails' telemetry goes. -/
def xinLost (s : State) : State :=
  logEvent { s with board := { s.board with xin := false }, mil := { s.mil with link := false, ptpLocked := false } } evClockLoss scPackage 0 [2]

/-- What the loss of rails' telemetry leaves as it is, as far as XIN_LOSS speaks of it. -/
def State.besideRails (s : State) : Board × Bool × Bool × List Host.Cell := (s.board, s.mil.link, s.mil.ptpLocked, s.mem)

theorem besideRails_loseRail (s : State) (rail : Nat) : (loseRail s rail).besideRails = s.besideRails := by
  simp [loseRail, State.besideRails]

theorem rails_xinLost (s : State) : rails (xinLost s) = rails s := by simp [rails, xinLost]

theorem exec_xinLoss (h : s.board.xin = true) : exec .xinLoss s = .next ((rails s).foldl loseRail (xinLost s)) := by
  rw [← rails_xinLost]
  change execXinLoss s = _
  unfold execXinLoss
  rw [if_neg (by simp [h])]
  rfl

theorem xinLost_spec (s : State) (l : List Nat) : (l.foldl loseRail (xinLost s)).board.xin = false
    ∧ (l.foldl loseRail (xinLost s)).mil.link = false ∧ (l.foldl loseRail (xinLost s)).mil.ptpLocked = false
    ∧ (∀ r ∈ l, r ∈ (l.foldl loseRail (xinLost s)).pwr.railLost) ∧ (l.foldl loseRail (xinLost s)).mem = s.mem := by
  have kept : (l.foldl loseRail (xinLost s)).besideRails = (xinLost s).besideRails := foldl_keeps State.besideRails besideRails_loseRail l _
  simp only [State.besideRails, Prod.mk.injEq] at kept
  obtain ⟨board, link, ptp, mem⟩ := kept
  refine ⟨?_, ?_, ?_, ?_, ?_⟩
  · rw [board]
    simp [xinLost]
  · rw [link]
    simp [xinLost]
  · rw [ptp]
    simp [xinLost]
  · exact foldl_establishes (P := fun r s => r ∈ s.pwr.railLost) mem_railLost_loseRail
      (fun _ rail _ hr => mem_railLost_loseRail_of_mem rail hr) l _
  · rw [mem]
    simp [xinLost]

theorem exec_xinResume (h : s.board.xin = false) :
    ∃ t, exec .xinResume s = .next t ∧ t.board.xin = true ∧ t.pwr.railLost = [] ∧ t.mem = s.mem := by
  refine ⟨logEvent { s with board := { s.board with xin := true }, pwr := { s.pwr with railLost := [] } } evClockResume scPackage 0 [2],
    ?_, ?_, ?_, ?_⟩
  · change execXinResume s = _
    unfold execXinResume
    rw [if_neg (by simp [h])]
  · rw [board_logEvent]
  · rw [pwr_logEvent]
  · rw [mem_logEvent]

/-! ## The debug port (R451) -/

theorem exec_debugInstruction (ir : W16) (s : State) : exec (.debugInstruction ir) s
    = .next (if debugPermitted s then { s with sec := { s.sec with debugOpen := true } } else frisketViolation s [ir.toNat]) := by
  change execDebugInstruction ir s = _
  unfold execDebugInstruction
  split <;> rfl

end Clock

/-- Settles O48: retraining touches neither memory, board nor pair, and the rails are lost one by one; the rest is one branch of a command each. -/
theorem clocksAndBuses : Obligations.ClocksAndBuses := by
  intro s
  refine ⟨fun k hc hp => ⟨clockLost k s, exec_referenceClockLoss hc hp k, clockLost_spec k s⟩,
    fun hc => ⟨exec_programComplete_stopped hc, exec_cwait_stopped hc, exec_stoneProbe_stopped hc, exec_discover_stopped hc⟩,
    fun hc => ⟨?_, fun hp within lapse h => ?_⟩, fun rail => ⟨rfl, mem_railLost_loseRail s rail, rfl⟩, exec_pmbusFailure_setpoint,
    fun st => exec_alert st s, fun h => ⟨_, exec_xinLoss h, xinLost_spec s (rails s)⟩, exec_xinResume, fun ir => ⟨fun h => ?_, fun h => ?_⟩⟩
  · obtain ⟨intact, mm, mem, _⟩ := clocksBack_spec true s
    exact ⟨clocksBack true s, exec_referenceClockResume_intact hc, intact, congrArg Mem.imp mm, mem⟩
  · exact ⟨binsForgotten s, exec_referenceClockResume_lapsed hc hp h,
      (congrArg Board.intact (board_binsForgotten s)).trans (clocksBack_spec false s).1, state_page_binsForgotten⟩
  · rw [exec_debugInstruction, if_pos h]
  · rw [exec_debugInstruction, if_neg (by simp [h])]

end Sys2Proof.Machine
end

section
/-! # Frames, rows, Store ways and bonds that fail

A frame behind one page has one entry in the Imposition table that counts, so marking it is one update of that page; retiring, remapping and
disabling are updates of their own lists. -/

namespace Sys2Proof.Tbl

theorem mem_of_find? {α : Type} {t : Tbl α} {k : Nat} {v : α} (h : find? t k = some v) : (k, v) ∈ t := by
  induction t with
  | nil => simp [find?] at h
  | cons x t ih =>
    obtain ⟨i, w⟩ := x
    unfold find? at h
    split at h
    · next hi =>
      rw [hi, Option.some.inj h]
      exact List.mem_cons_self
    · exact List.mem_cons_of_mem _ (ih h)

end Sys2Proof.Tbl

namespace Sys2Proof.Machine

open Sys2Proof

/-! ## The page of a frame (R219, R240) -/

section Frame
variable {s t : State} {f p : Nat}

theorem mem_imp_of_mapped (h : (s.page p).state ≠ .unmapped) : (p, s.page p) ∈ s.mm.imp := by
  unfold State.page Tbl.getD at h ⊢
  cases hf : Tbl.find? s.mm.imp p with
  | none => simp [hf] at h
  | some e => simpa using Tbl.mem_of_find? hf

theorem pagesOf_congr (h : t.mm.imp = s.mm.imp) (f : Nat) : pagesOf t f = pagesOf s f := by
  unfold pagesOf
  rw [h]

theorem page_congr (h : t.mm.imp = s.mm.imp) (p : Nat) : t.page p = s.page p := by
  unfold State.page
  rw [h]

theorem mem_pagesOf (hb : (s.page p).state.backed = true) (hf : (s.page p).frame = f) : p ∈ pagesOf s f := by
  have listed := mem_imp_of_mapped (s := s) (p := p) (fun h => by simp [h, PageState.backed] at hb)
  refine List.mem_map.2 ⟨_, List.mem_filter.2 ⟨listed, ?_⟩, rfl⟩
  cases hs : (s.page p).state <;> simp_all [PageState.backed]

/-- The entries of a frame that lies behind one page. -/
theorem entries_alone (hp : pagesOf s f = [p]) (hf : (s.page p).frame = f) (hb : (s.page p).state.backed = true) :
    s.mm.imp.filter (fun x => x.2.state != .unmapped && x.2.state != .unbacked && x.2.frame == f) = [(p, s.page p)] := by
  obtain ⟨x, hx, _⟩ := List.map_eq_singleton_iff.1 hp
  have listed := mem_imp_of_mapped (s := s) (p := p) (fun h => by simp [h, PageState.backed] at hb)
  have member : (p, s.page p) ∈ s.mm.imp.filter (fun x => x.2.state != .unmapped && x.2.state != .unbacked && x.2.frame == f) := by
    refine List.mem_filter.2 ⟨listed, ?_⟩
    cases hs : (s.page p).state <;> simp_all [PageState.backed]
  rw [hx] at member ⊢
  rw [List.mem_singleton.1 member]

/-- The pages of a frame that lies behind one page take a state: that page does. -/
theorem setStates_alone (hp : pagesOf s f = [p]) (hf : (s.page p).frame = f) (hb : (s.page p).state.backed = true)
    (hm : (s.page p).state ≠ .migrating) (st : PageState) : setStates f st s = s.setPage p { s.page p with state := st } := by
  have chosen : s.mm.imp.filter (fun x => x.2.state.backed && x.2.frame == f && (x.2.state != .migrating || st == .lost)) = [(p, s.page p)] := by
    have h := congrArg (List.filter (fun x => x.2.state.backed && x.2.frame == f && (x.2.state != .migrating || st == .lost))) (entries_alone hp hf hb)
    rw [List.filter_filter] at h
    have kept : (s.page p).state.backed && (s.page p).frame == f && ((s.page p).state != .migrating || st == .lost) := by simp [hb, hf, hm]
    rw [List.filter_singleton, kept, cond_true] at h
    rw [← h]
    refine List.filter_congr fun x _ => ?_
    cases x.2.state <;> simp +contextual [PageState.backed]
  unfold setStates
  rw [chosen]
  rfl

/-! ## Retirement (R240, R241) -/

theorem mm_countUe (p g : Nat) (s : State) : (countUe p g s).mm = { s.mm with ue := satAdd s.mm.ue 1 65535 } := mm_logEvent ..

theorem mem_countUe (p g : Nat) (s : State) : (countUe p g s).mem = s.mem := mem_logEvent ..

theorem mm_retireFrame (source : Nat) (h : f ∉ s.mm.retired) : (retireFrame f source s).mm = { s.mm with
    retired := s.mm.retired ++ [f], retiring := s.mm.retiring.filter (· != f), reserve := s.mm.reserve.filter (· != f) } := by
  unfold retireFrame
  rw [if_neg (by simpa using h)]
  simp

theorem mem_retireFrame (f source : Nat) (s : State) : (retireFrame f source s).mem = s.mem := by
  unfold retireFrame
  split
  · rfl
  · simp

theorem ce_retireFrame (f source : Nat) (s : State) : (retireFrame f source s).mm.ce = s.mm.ce := by
  unfold retireFrame
  split
  · rfl
  · simp

theorem startRetire_waits (hp : pagesOf s f ≠ []) (h : f ∉ s.mm.retiring) (h' : f ∉ s.mm.retired) :
    startRetire f s = { s with mm := { s.mm with retiring := s.mm.retiring ++ [f] } } := by
  unfold startRetire
  rw [if_neg (by simpa using hp), if_neg (by simp [h, h'])]

theorem retiring_startRetire (hp : pagesOf s f ≠ []) (h : f ∉ s.mm.retiring) (h' : f ∉ s.mm.retired) :
    (startRetire f s).mm.retiring = s.mm.retiring ++ [f] := by rw [startRetire_waits hp h h']

theorem startRetire_keeps (f : Nat) (s : State) : (startRetire f s).mem = s.mem ∧ (startRetire f s).mm.ce = s.mm.ce := by
  unfold startRetire
  split
  · exact ⟨mem_retireFrame .., ce_retireFrame ..⟩
  · split <;> exact ⟨rfl, rfl⟩

/-- An uncorrectable granule of a frame behind one page: that page is DAMAGED, and the frame waits for its migration. -/
theorem damageFrame_alone (g : Nat) (hp : pagesOf s f = [p]) (hf : (s.page p).frame = f) (hb : (s.page p).state.backed = true)
    (hm : (s.page p).state ≠ .migrating) (hlen : s.mm.unreadable.length < 256) (hr : f ∉ s.mm.retiring) (hd : f ∉ s.mm.retired) :
    ((damageFrame f p g s).page p).state = .damaged ∧ g ∈ (damageFrame f p g s).badGranules p
      ∧ (damageFrame f p g s).mm.ue = satAdd s.mm.ue 1 65535 ∧ f ∈ (damageFrame f p g s).mm.retiring ∧ (damageFrame f p g s).mem = s.mem := by
  let s1 : State := { s with mm := { s.mm with unreadable := s.mm.unreadable.set f ((s.marksOf f).filter (· != g) ++ [g]) } }
  have marked : markFrame f g s = s1.setPage p { s.page p with state := .damaged } := by
    unfold markFrame
    rw [if_neg (by simp [hp, hb]), if_pos (Or.inr hlen)]
    exact setStates_alone (s := s1) hp hf hb hm .damaged
  have counted := mm_countUe p g (markFrame f g s)
  have page : (countUe p g (markFrame f g s)).page p = { s.page p with state := .damaged } := by
    rw [State.page, counted, marked]
    exact s1.page_setPage_same p _
  have behind : pagesOf (countUe p g (markFrame f g s)) f ≠ [] :=
    List.ne_nil_of_mem (mem_pagesOf (p := p) (by simp [page, PageState.backed]) (by simp [page, hf]))
  have waits : damageFrame f p g s = _ :=
    startRetire_waits behind (by rw [counted, marked]; exact hr) (by rw [counted, marked]; exact hd)
  rw [waits]
  refine ⟨?_, ?_, ?_, ?_, ?_⟩
  · change ((countUe p g (markFrame f g s)).page p).state = .damaged
    rw [page]
  · change g ∈ (countUe p g (markFrame f g s)).marksOf ((countUe p g (markFrame f g s)).page p).frame
    rw [page, State.marksOf, counted, marked, hf]
    change g ∈ (s.mm.unreadable.set f ((s.marksOf f).filter (· != g) ++ [g])).getD f []
    simp
  · change (countUe p g (markFrame f g s)).mm.ue = _
    rw [counted, marked]
    rfl
  · exact List.mem_append_right _ (List.mem_singleton_self f)
  · change (countUe p g (markFrame f g s)).mem = _
    rw [mem_countUe, marked]
    rfl

end Frame

/-! ## Rows (R220, R241) -/

section Row
variable {s : State} {r : RowLoc}

/-- A failed row takes a spare of its bank. -/
theorem remapRow_spare (source : Nat) (hr : rowFrame r ∉ s.mm.retiring) (hd : rowFrame r ∉ s.mm.retired)
    (hu : s.mm.sparesUsed.getD (bankKey r) 0 < 8) : (remapRow r source s).mem = s.mem ∧ (remapRow r source s).mm.imp = s.mm.imp
      ∧ (remapRow r source s).mm.sparesUsed.getD (bankKey r) 0 = s.mm.sparesUsed.getD (bankKey r) 0 + 1
      ∧ (remapRow r source s).mm.retiring = s.mm.retiring := by
  unfold remapRow
  dsimp only
  rw [if_neg (by simp [hr, hd]), if_pos hu]
  simp

/-- Without a spare its frame is to be retired. -/
theorem remapRow_noSpare (source : Nat) (hr : rowFrame r ∉ s.mm.retiring) (hd : rowFrame r ∉ s.mm.retired)
    (hu : 8 ≤ s.mm.sparesUsed.getD (bankKey r) 0) (hp : pagesOf s (rowFrame r) ≠ []) :
    (remapRow r source s).mem = s.mem ∧ (remapRow r source s).mm.retiring = s.mm.retiring ++ [rowFrame r] := by
  unfold remapRow
  dsimp only
  rw [if_neg (by simp [hr, hd]), if_neg (Nat.not_lt.2 hu)]
  exact ⟨(startRetire_keeps ..).1, retiring_startRetire hp hr hd⟩

theorem remapRow_keeps (r : RowLoc) (source : Nat) (s : State) : (remapRow r source s).mem = s.mem ∧ (remapRow r source s).mm.ce = s.mm.ce := by
  unfold remapRow
  dsimp only
  split
  · exact ⟨rfl, rfl⟩
  · split
    · simp
    · exact startRetire_keeps ..

end Row

/-! ## Corrected errors (R238, R246) -/

theorem overlapping_keeps (page : Bool) (before s : State) :
    (overlapping page before s).mem = s.mem ∧ (overlapping page before s).mm = s.mm := by
  have stopped : (stopHeld s).mem = s.mem ∧ (stopHeld s).mm = s.mm := by
    unfold stopHeld
    constructor
    · refine foldl_keeps State.mem (fun s c => ?_) _ s
      rfl
    · refine foldl_keeps State.mm (fun s c => ?_) _ s
      rfl
  unfold overlapping
  split
  · exact stopped
  · exact ⟨rfl, rfl⟩

/-- Corrected errors of pages are counted for the pages: the part's counter, its lines and its bytes stay. -/
theorem countPages_keeps (l : List Nat) (s : State) :
    let t := l.foldl (fun s p => s.setPage p { s.page p with cecount := satAdd (s.page p).cecount 1 255 }) s
    t.mem = s.mem ∧ t.mm.ce = s.mm.ce ∧ t.mm.lines = s.mm.lines := by
  refine ⟨?_, ?_, ?_⟩
  · refine foldl_keeps State.mem (fun s p => ?_) l s
    rfl
  · refine foldl_keeps (fun s => s.mm.ce) (fun s p => ?_) l s
    rfl
  · refine foldl_keeps (fun s => s.mm.lines) (fun s p => ?_) l s
    rfl

theorem correctedError_counts (f : Nat) (s : State) (g : Nat) :
    (correctedError f s g).mem = s.mem ∧ (correctedError f s g).mm.ce = satAdd s.mm.ce 1 0xFFFFFFFF := by
  obtain ⟨mem, ce, _⟩ := countPages_keeps (pagesOf s f) (countCe s)
  unfold correctedError
  dsimp only
  split
  · obtain ⟨mem', ce'⟩ := remapRow_keeps (rowOf f g) 3 _
    exact ⟨mem'.trans mem, ce'.trans ce⟩
  · exact ⟨mem, ce⟩

theorem meetCorrected_counts (f : Nat) (s : State) (g : Nat) :
    (meetCorrected f s g).mem = s.mem ∧ (meetCorrected f s g).mm.ce = satAdd s.mm.ce 1 0xFFFFFFFF := by
  obtain ⟨mem, ce⟩ := correctedError_counts f s g
  unfold meetCorrected
  split
  · obtain ⟨mem', mm'⟩ := overlapping_keeps false s (correctedError f s g)
    exact ⟨mem'.trans mem, by rw [mm', ce]⟩
  · exact ⟨mem, ce⟩

/-! ## Store ways (R244) -/

theorem disableWay_spec (set way source : Nat) (s : State) :
    (set, way) ∈ (disableWay set way source s).mm.waysOff ∧ (disableWay set way source s).mem = s.mem := by
  unfold disableWay
  split
  · next h => exact ⟨by simpa using h, rfl⟩
  · dsimp only
    obtain ⟨lines, h⟩ := shrinkSet_eq set (waysOn { s with mm := { s.mm with waysOff := s.mm.waysOff ++ [(set, way)] } } set) 16
      { s with mm := { s.mm with waysOff := s.mm.waysOff ++ [(set, way)] } }
    rw [h]
    simp

/-! ## Bonds (R33) -/

/-- The spares of bonds that are in use, and the bond groups that are off. -/
def State.bonds (s : State) : Tbl Nat × List Nat := (s.boot.sparesUsed, s.boot.groupsOff)

theorem bonds_addDefect (s : State) (kind source action location : Nat) (detail : W128) :
    (addDefect s kind source action location detail).bonds = s.bonds := by
  unfold addDefect
  dsimp only
  split
  · rfl
  · split
    · simp [State.bonds]
    · rfl

section Defect
variable (site : BondSite) (group bond : Nat) (spare : Bool) (source : Nat) (s : State)

theorem bonds_bondDefect : (bondDefect site group bond spare source s).bonds = s.bonds := by
  unfold bondDefect
  split
  · exact bonds_addDefect ..
  · rfl

@[simp] theorem sparesUsed_bondDefect : (bondDefect site group bond spare source s).boot.sparesUsed = s.boot.sparesUsed :=
  congrArg Prod.fst (bonds_bondDefect ..)

@[simp] theorem groupsOff_bondDefect : (bondDefect site group bond spare source s).boot.groupsOff = s.boot.groupsOff :=
  congrArg Prod.snd (bonds_bondDefect ..)

@[simp] theorem mem_bondDefect : (bondDefect site group bond spare source s).mem = s.mem := by
  unfold bondDefect
  split
  · exact mem_addDefect ..
  · rfl

end Defect

section Bond
variable {s : State} {l : BondLoc} (hl : l.group < siteGroups l.site) (hoff : groupKey l.site l.group ∉ s.boot.groupsOff)
include hl hoff

theorem failBond_spare (source : Nat) (hu : s.boot.sparesUsed.getD (groupKey l.site l.group) 0 < 32) :
    (failBond l source s).boot.sparesUsed.getD (groupKey l.site l.group) 0 = s.boot.sparesUsed.getD (groupKey l.site l.group) 0 + 1
      ∧ (failBond l source s).boot.groupsOff = s.boot.groupsOff ∧ (failBond l source s).mem = s.mem := by
  unfold failBond
  dsimp only
  rw [if_neg (by simp [hl, hoff]), if_pos hu]
  simp

theorem failBond_noSpare (source : Nat) (hu : 32 ≤ s.boot.sparesUsed.getD (groupKey l.site l.group) 0) :
    (failBond l source s).boot.groupsOff = s.boot.groupsOff ++ [groupKey l.site l.group] ∧ (failBond l source s).mem = s.mem := by
  unfold failBond disableGroup
  dsimp only
  rw [if_neg (by simp [hl, hoff]), if_neg (Nat.not_lt.2 hu), if_neg (by simp [hoff])]
  simp

end Bond

end Sys2Proof.Machine
end

section
/-! # Migration, and what an error of memory comes to

A chunk's bytes move from the old frame to the new one: the bytes of a canonical memory have distinct keys, so each moved byte is read back where it
was put. A frame behind one page has that page alone in its list, however often, so settling its pages settles that one. -/

namespace Sys2Proof.Tbl

theorem mem_set {α : Type} {t : Tbl α} {k : Nat} {v : α} {x : Nat × α} (h : x ∈ set t k v) : x = (k, v) ∨ x ∈ t := by
  induction t with
  | nil => exact .inl (List.mem_singleton.1 h)
  | cons y t ih =>
    unfold set at h
    split at h
    · exact List.mem_cons.1 h
    · split at h
      · exact (List.mem_cons.1 h).imp_right (List.mem_cons_of_mem _)
      · obtain h | h := List.mem_cons.1 h
        · exact .inr (h ▸ List.mem_cons_self)
        · exact (ih h).imp_right (List.mem_cons_of_mem _)

end Sys2Proof.Tbl

namespace Sys2Proof.Machine

open Sys2Proof

/-! ## The listed bytes of a canonical memory -/

theorem Memory.of_mem {m : List Host.Cell} {lo k : Nat} {v : W8} (w : Memory.wfFrom lo m = true) (h : (k, v) ∈ m) :
    lo ≤ k ∧ v ≠ 0 ∧ Memory.get m k = v := by
  induction m generalizing lo with
  | nil => simp at h
  | cons c t ih =>
    obtain ⟨i, x⟩ := c
    simp only [Memory.wfFrom, Bool.and_eq_true, decide_eq_true_eq, bne_iff_ne] at w
    obtain ⟨⟨hi, hx⟩, ht⟩ := w
    obtain h | h := List.mem_cons.1 h
    · obtain ⟨rfl, rfl⟩ := Prod.mk.inj h
      exact ⟨hi, hx, by simp [Memory.get]⟩
    · obtain ⟨below, nonzero, read⟩ := ih ht h
      have later : i ≠ k := by omega
      have notBelow : ¬k < i := by omega
      exact ⟨by omega, nonzero, by simpa [Memory.get, later, notBelow] using read⟩

theorem Memory.mem_of_get {m : List Host.Cell} {k : Nat} (h : Memory.get m k ≠ 0) : (k, Memory.get m k) ∈ m := by
  induction m with
  | nil => exact absurd rfl h
  | cons c t ih =>
    obtain ⟨i, x⟩ := c
    unfold Memory.get at h ⊢
    split at h
    · next hi => simp [hi]
    · next hi =>
      split at h
      · exact absurd rfl h
      · next hlt =>
        rw [if_neg hi, if_neg hlt]
        exact List.mem_cons_of_mem _ (ih h)

theorem Memory.keys_rise {m : List Host.Cell} {lo : Nat} (w : Memory.wfFrom lo m = true) : m.Pairwise (fun a b => a.1 < b.1) := by
  induction m generalizing lo with
  | nil => exact List.Pairwise.nil
  | cons c t ih =>
    obtain ⟨i, x⟩ := c
    simp only [Memory.wfFrom, Bool.and_eq_true, decide_eq_true_eq] at w
    exact List.Pairwise.cons (fun b hb => (Memory.of_mem w.2 (k := b.1) (v := b.2) hb).1) (ih w.2)

/-- A byte written once reads back as it was written. -/
theorem Memory.get_setAll_of_mem {m : List Host.Cell} {ws : List (Nat × W8)} {b : Nat} {v : W8} (w : Memory.wf m = true)
    (hd : (ws.map (·.1)).Nodup) (h : (b, v) ∈ ws) : Memory.get (Memory.setAll m ws) b = v := by
  obtain ⟨before, after, rfl⟩ := List.append_of_mem h
  have notAfter : b ∉ after.map (·.1) := by
    rw [List.map_append, List.map_cons, List.nodup_append] at hd
    exact (List.nodup_cons.1 hd.2.1).1
  have wb : Memory.wf (Memory.setAll m before) = true := Memory.wf_setAll before w
  have split : Memory.setAll m (before ++ (b, v) :: after) = Memory.setAll (Memory.set (Memory.setAll m before) b v) after := by
    simp [Memory.setAll]
  rw [split, Memory.get_setAll_of_notMem _ _ (Memory.wf_set _ _ wb) notAfter, Memory.get_set _ _ _ wb, if_pos rfl]

/-! ## Copied chunks (R242) -/

/-- The bytes that a range of chunks of frame f brings to frame g. -/
def movedCells (f g lo hi : Nat) (bad : List Nat) (m : List Host.Cell) : List (Nat × W8) :=
  (m.filter (fun c => decide (c.1 / 2 ^ 20 = f) && (decide (lo ≤ c.1 % 2 ^ 20 / 4096) && decide (c.1 % 2 ^ 20 / 4096 < hi))
    && !(bad.contains (c.1 % 2 ^ 20 / 64)))).map (fun c => (g * 2 ^ 20 + c.1 % 2 ^ 20, c.2))

section Copy
variable {f g lo hi : Nat} {bad : List Nat}

theorem mem_copyChunks (s : State) : (copyChunks f g lo hi bad s).mem = Memory.setAll
    (Memory.clear (Memory.clear s.mem (g * 2 ^ 20 + lo * 4096) ((hi - lo) * 4096)) (f * 2 ^ 20 + lo * 4096) ((hi - lo) * 4096))
    (movedCells f g lo hi bad s.mem) := rfl

theorem mem_movedCells {m : List Host.Cell} {b : Nat} {v : W8} : (b, v) ∈ movedCells f g lo hi bad m ↔
    ∃ o < 2 ^ 20, b = g * 2 ^ 20 + o ∧ (f * 2 ^ 20 + o, v) ∈ m ∧ (lo ≤ o / 4096 ∧ o / 4096 < hi) ∧ o / 64 ∉ bad := by
  simp only [movedCells, List.mem_map, List.mem_filter, Bool.and_eq_true, decide_eq_true_eq, Bool.not_eq_true', List.contains_eq_mem,
    decide_eq_false_iff_not, Prod.mk.injEq, Prod.exists]
  constructor
  · rintro ⟨k, x, ⟨listed, ⟨rfl, range⟩, readable⟩, rfl, rfl⟩
    exact ⟨k % 2 ^ 20, by omega, rfl, by rwa [Nat.mul_comm, Nat.div_add_mod], range, readable⟩
  · rintro ⟨o, ho, rfl, listed, range, readable⟩
    have offset : (f * 2 ^ 20 + o) % 2 ^ 20 = o := by omega
    exact ⟨f * 2 ^ 20 + o, v, ⟨listed, ⟨by omega, by rwa [offset]⟩, by rwa [offset]⟩, by rw [offset], rfl⟩

theorem nodup_movedCells {m : List Host.Cell} (w : Memory.wf m = true) : ((movedCells f g lo hi bad m).map (·.1)).Nodup := by
  unfold movedCells
  rw [List.map_map]
  refine List.pairwise_map.2 (((Memory.keys_rise w).filter _).imp_of_mem fun {a b} ha hb hab => ?_)
  simp only [List.mem_filter, Bool.and_eq_true, decide_eq_true_eq] at ha hb
  have sameFrame : a.1 / 2 ^ 20 = b.1 / 2 ^ 20 := ha.2.1.1.trans hb.2.1.1.symm
  simp only [Function.comp_apply]
  omega

variable {s : State} {o : Nat} (w : Memory.wf s.mem = true) (hg : g ≠ f) (ho : o < 2 ^ 20) (hhi : hi ≤ 256)
include w hg ho hhi

/-- A byte of a copied chunk is what the old frame held, an unreadable one zero. -/
theorem get_copyChunks_new (range : lo ≤ o / 4096 ∧ o / 4096 < hi) :
    Memory.get (copyChunks f g lo hi bad s).mem (g * 2 ^ 20 + o) = if o / 64 ∈ bad then 0 else Memory.get s.mem (f * 2 ^ 20 + o) := by
  have wc := Memory.wf_clear (f * 2 ^ 20 + lo * 4096) ((hi - lo) * 4096) (Memory.wf_clear (g * 2 ^ 20 + lo * 4096) ((hi - lo) * 4096) w)
  rw [mem_copyChunks]
  by_cases moved : o / 64 ∉ bad ∧ Memory.get s.mem (f * 2 ^ 20 + o) ≠ 0
  · rw [if_neg moved.1]
    exact Memory.get_setAll_of_mem wc (nodup_movedCells w) (mem_movedCells.2 ⟨o, ho, rfl, Memory.mem_of_get moved.2, range, moved.1⟩)
  · have absent : g * 2 ^ 20 + o ∉ (movedCells f g lo hi bad s.mem).map (·.1) := by
      intro h
      obtain ⟨⟨b, v⟩, hbv, hb⟩ := List.mem_map.1 h
      obtain ⟨o', ho', rfl, listed, _, readable⟩ := mem_movedCells.1 hbv
      have same : o' = o := by simpa using hb
      obtain ⟨_, nonzero, read⟩ := Memory.of_mem w listed
      exact moved ⟨same ▸ readable, by rw [← same, read]; exact nonzero⟩
    have zero : (if o / 64 ∈ bad then 0 else Memory.get s.mem (f * 2 ^ 20 + o)) = 0 := by
      split
      · rfl
      · next hbad => simpa [hbad] using moved
    rw [zero, Memory.get_setAll_of_notMem _ _ wc absent, Memory.get_clear _ _ _ (Memory.wf_clear _ _ w), Memory.get_clear _ _ _ w,
      if_neg (by omega), if_pos (by omega)]

/-- A byte of a chunk that is still to be copied stands in the old frame as before. -/
theorem get_copyChunks_old (range : ¬(lo ≤ o / 4096 ∧ o / 4096 < hi)) :
    Memory.get (copyChunks f g lo hi bad s).mem (f * 2 ^ 20 + o) = Memory.get s.mem (f * 2 ^ 20 + o) := by
  have wc := Memory.wf_clear (f * 2 ^ 20 + lo * 4096) ((hi - lo) * 4096) (Memory.wf_clear (g * 2 ^ 20 + lo * 4096) ((hi - lo) * 4096) w)
  have absent : f * 2 ^ 20 + o ∉ (movedCells f g lo hi bad s.mem).map (·.1) := by
    intro h
    obtain ⟨⟨b, v⟩, hbv, hb⟩ := List.mem_map.1 h
    obtain ⟨o', ho', rfl, -⟩ := mem_movedCells.1 hbv
    simp only at hb
    omega
  rw [mem_copyChunks, Memory.get_setAll_of_notMem _ _ wc absent, Memory.get_clear _ _ _ (Memory.wf_clear _ _ w), Memory.get_clear _ _ _ w,
    if_neg (by omega), if_neg (by omega)]

end Copy

/-! ## A migration from its first chunk (R240, R242) -/

section Migration
variable {s : State} {f g p : Nat}

/-- A page that is settled has its new frame and the state that the marks say, unless it is LOST. -/
theorem page_settlePage {marks : Bool} (h : (s.page p).state ≠ .lost) : ((settlePage g marks s p).page p).frame = g
    ∧ ((settlePage g marks s p).page p).state = if marks then .damaged else .mapped := by
  simp [settlePage, h]

theorem page_settlePages {marks : Bool} {l : List Nat} (h : (s.page p).state ≠ .lost) (hne : l ≠ []) (hl : ∀ x ∈ l, x = p) :
    ((l.foldl (settlePage g marks) s).page p).frame = g
      ∧ ((l.foldl (settlePage g marks) s).page p).state = if marks then .damaged else .mapped := by
  obtain ⟨q, rest, rfl⟩ := List.exists_cons_of_ne_nil hne
  obtain rfl := hl q List.mem_cons_self
  refine List.foldlRecOn (motive := fun s : State => (s.page q).frame = g ∧ (s.page q).state = if marks then .damaged else .mapped) rest _
    (page_settlePage h) fun s hs x hx => ?_
  rw [hl x (List.mem_cons_of_mem _ hx)]
  refine page_settlePage ?_
  rw [hs.2]
  split <;> simp

theorem settlePages_keep {marks : Bool} (l : List Nat) (s : State) : (l.foldl (settlePage g marks) s).mem = s.mem
    ∧ (l.foldl (settlePage g marks) s).mm.retired = s.mm.retired ∧ (l.foldl (settlePage g marks) s).mm.retiring = s.mm.retiring
    ∧ (l.foldl (settlePage g marks) s).mm.reserve = s.mm.reserve :=
  ⟨foldl_keeps State.mem (f := settlePage g marks) (fun _ _ => rfl) l s,
    foldl_keeps (fun s => s.mm.retired) (f := settlePage g marks) (fun _ _ => rfl) l s,
    foldl_keeps (fun s => s.mm.retiring) (f := settlePage g marks) (fun _ _ => rfl) l s,
    foldl_keeps (fun s => s.mm.reserve) (f := settlePage g marks) (fun _ _ => rfl) l s⟩

/-- The end of the migration of a frame that lies behind one page. -/
theorem endMigration_alone (hp : ∀ x ∈ pagesOf s f, x = p) (hne : pagesOf s f ≠ []) (hl : (s.page p).state ≠ .lost) (hd : f ∉ s.mm.retired) :
    ((endMigration f g s).page p).frame = g ∧ ((endMigration f g s).page p).state = (if s.marksOf f = [] then .mapped else .damaged)
      ∧ (endMigration f g s).mm.retired = s.mm.retired ++ [f] ∧ (endMigration f g s).mm.retiring = s.mm.retiring.filter (· != f)
      ∧ (endMigration f g s).mm.reserve = s.mm.reserve.filter (· != f) ∧ (endMigration f g s).mem = s.mem := by
  obtain ⟨frame, state⟩ := page_settlePages (g := g) (marks := !(s.marksOf f).isEmpty) hl hne hp
  obtain ⟨mem, retired, retiring, reserve⟩ := settlePages_keep (g := g) (marks := !(s.marksOf f).isEmpty) (pagesOf s f) s
  unfold endMigration
  dsimp only
  generalize (pagesOf s f).foldl (settlePage g (!(s.marksOf f).isEmpty)) s = u at *
  rw [State.page, mm_retireFrame 3 (by rw [← retired] at hd; exact hd), mem_retireFrame]
  refine ⟨frame, state.trans ?_, ?_, ?_, ?_, mem⟩
  · cases s.marksOf f <;> simp
  · rw [← retired]
  · rw [← retiring]
  · rw [← reserve]

/-- The state in which the first chunk of a migration is copied: page p of frame f is MIGRATING to frame g. -/
def migrationBegun (f g p : Nat) (s : State) : State :=
  ({ s with mm := { s.mm with reserve := s.mm.reserve.filter (· != g), migr := s.mm.migr.set f (g, 0) } } : State).setPage p
    { s.page p with state := .migrating }

theorem startMigration_alone (hp : pagesOf s f = [p]) (hf : (s.page p).frame = f) (hb : (s.page p).state = .damaged)
    (hr : reserveFrame s (f / 131072) = some g) : startMigration f s = migrationBegun f g p s := by
  unfold startMigration
  rw [hr]
  dsimp only
  exact setStates_alone (s := { s with mm := { s.mm with reserve := s.mm.reserve.filter (· != g), migr := s.mm.migr.set f (g, 0) } }) hp hf
    (by simp [State.page] at hb ⊢; simp [hb, PageState.backed]) (by simp [State.page] at hb ⊢; simp [hb]) .migrating

/-- The state after the first n chunks. -/
def chunksCopied (f g p n : Nat) (s : State) : State :=
  let u := migrationBegun f g p s
  copyChunks f g 0 n (s.marksOf f) { u with mm := { u.mm with migr := u.mm.migr.set f (g, n) } }

theorem page_chunksCopied (f g p n : Nat) (s : State) : (chunksCopied f g p n s).page p = { s.page p with state := .migrating } := by
  change (migrationBegun f g p s).page p = _
  unfold migrationBegun
  rw [State.page_setPage_same]

theorem migr_chunksCopied (f g p n : Nat) (s : State) : (chunksCopied f g p n s).mm.migr.find? f = some (g, n) := Tbl.find?_set_same ..

theorem mem_chunksCopied (f g p n : Nat) (s : State) : (chunksCopied f g p n s).mem = (copyChunks f g 0 n (s.marksOf f) s).mem := by
  unfold chunksCopied copyChunks
  rfl

theorem migrateChunks_begun {n : Nat} (hn : n ≤ 256) : migrateChunks f p n [] (migrationBegun f g p s)
    = if n = 256 then endMigration f g (chunksCopied f g p n s) else chunksCopied f g p n s := by
  have found : (migrationBegun f g p s).mm.migr.find? f = some (g, 0) := Tbl.find?_set_same ..
  unfold migrateChunks
  rw [found]
  simp only [Nat.zero_add, Nat.min_eq_left hn, List.filter_nil, List.foldl_nil]
  rfl

/-- However often the page stands in its frame's list, it alone stands there. -/
theorem pagesOf_chunksCopied (hp : pagesOf s f = [p]) (n : Nat) : ∀ x ∈ pagesOf (chunksCopied f g p n s) f, x = p := by
  intro x hx
  obtain ⟨y, hy, rfl⟩ := List.mem_map.1 hx
  obtain ⟨listed, chosen⟩ := List.mem_filter.1 hy
  obtain h | h := Tbl.mem_set listed
  · rw [h]
  · have before : y.1 ∈ pagesOf s f := List.mem_map.2 ⟨y, List.mem_filter.2 ⟨h, chosen⟩, rfl⟩
    rw [hp] at before
    exact List.mem_singleton.1 before

theorem exec_pageMigration {page : BitVec 19} {n : BitVec 9} (hc : s.board.haltedByClock = false) (hs : (s.page page.toNat).state = .damaged)
    (hf : (s.page page.toNat).frame = f) (hp : pagesOf s f = [page.toNat]) (hret : f ∈ s.mm.retiring) (hm : s.mm.migr.find? f = none)
    (hr : reserveFrame s (f / 131072) = some g) :
    exec (.pageMigration page n []) s =
      .next (if f ∈ (migrateChunks f page.toNat n.toNat [] (migrationBegun f g page.toNat s)).mm.retiring
        then migrateChunks f page.toNat n.toNat [] (migrationBegun f g page.toNat s)
        else recoverPages [page.toNat] (migrateChunks f page.toNat n.toNat [] (migrationBegun f g page.toNat s))) := by
  change execPageMigration page n [] s = _
  unfold execPageMigration
  rw [whileClocked_runs hc]
  simp [hs, hf, hp, hret, hm, startMigration_alone hp hf hs hr]

theorem placeOf_bin {o : Nat} (hp : p < 2 ^ 19) (ho : o < 2 ^ 20) : placeOf (p * 2 ^ 20 + o) = .bin p o := by
  have page : (p * 2 ^ 20 + o) / 2 ^ 20 = p := by omega
  have offset : (p * 2 ^ 20 + o) % 2 ^ 20 = o := by omega
  rw [placeOf, if_pos (by omega), page, offset]

/-- A byte of a page stands in the frame that its chunk is in. -/
theorem readByte_of_bin {a o : Nat} (s : State) (h : placeOf a = .bin p o) :
    readByte s a = Memory.get s.mem (frameAt s (s.page p) o * 2 ^ 20 + o) := by
  unfold readByte keyOf
  rw [h]

variable (w : Memory.wf s.mem = true) (hg : g ≠ f)
include w hg

/-- Reading a page whose first n chunks have moved. -/
theorem readByte_chunksCopied {o n : Nat} (hp : p < 2 ^ 19) (ho : o < 2 ^ 20) (hn : n ≤ 256) (hf : (s.page p).frame = f) (hm : s.mm.migr.find? f = none) :
    readByte (chunksCopied f g p n s) (p * 2 ^ 20 + o)
      = if o / 4096 < n ∧ o / 64 ∈ s.badGranules p then 0 else readByte s (p * 2 ^ 20 + o) := by
  have marks : s.badGranules p = s.marksOf f := by rw [State.badGranules, hf]
  have new := get_copyChunks_new (lo := 0) (hi := n) (bad := s.marksOf f) w hg ho hn
  have old := get_copyChunks_old (lo := 0) (hi := n) (bad := s.marksOf f) w hg ho hn
  rw [readByte_of_bin _ (placeOf_bin hp ho), readByte_of_bin _ (placeOf_bin hp ho), mem_chunksCopied, marks]
  simp only [frameAt, page_chunksCopied, hf, migr_chunksCopied, hm]
  by_cases copied : o / 4096 < n
  · simp only [copied, if_true, true_and]
    exact new ⟨Nat.zero_le _, copied⟩
  · simp only [copied, if_false, false_and]
    exact old (fun h => copied h.2)

end Migration

end Sys2Proof.Machine
end

section
/-! # Lost and failing memory, command by command -/

namespace Sys2Proof.Machine

open Sys2Proof

section Clocked
variable {s : State} (hc : s.board.haltedByClock = false)
include hc

/-! ## UNCORRECTABLE_ERROR (R225, R238 to R240) -/

section Found
variable {page : BitVec 19} {r : Reader}

theorem exec_uncorrectableError_granule (g : BitVec 14) (hb : backed s page.toNat = true) :
    exec (.uncorrectableError page (.granule g) r) s
      = .next (overlapping true s (haltReader (damageFrame (s.page page.toNat).frame page.toNat g.toNat s) page.toNat r)) := by
  change execUncorrectableError page (.granule g) r s = _
  unfold execUncorrectableError
  rw [whileClocked_runs hc]
  exact if_pos hb

theorem exec_uncorrectableError_corrected (g : BitVec 14) (hb : backed s page.toNat = true) :
    exec (.uncorrectableError page (.corrected g) r) s = .next (meetCorrected (s.page page.toNat).frame s g.toNat) := by
  change execUncorrectableError page (.corrected g) r s = _
  unfold execUncorrectableError
  rw [whileClocked_runs hc]
  exact if_pos hb

theorem exec_uncorrectableError_entry (second : Bool) :
    exec (.uncorrectableError page (.entry second) r) s = .next (repairEntry second page.toNat s) := whileClocked_runs hc _

omit hc in
theorem mm_repairEntry (second : Bool) (p : Nat) (s : State) : (repairEntry second p s).mm =
    if second then { s.mm with impB := s.mm.impB.set p (s.mm.imp.getD p {}) } else { s.mm with imp := s.mm.imp.set p (s.mm.impB.getD p {}) } := by
  unfold repairEntry
  cases second <;> simp

omit hc in
theorem mem_repairEntry (second : Bool) (p : Nat) (s : State) : (repairEntry second p s).mem = s.mem := by
  unfold repairEntry
  cases second <;> simp

/-- Errors in both copies of an entry halt every loaded context; single-package mode has no pair to leave. -/
theorem exec_uncorrectableError_entryBoth (hp : pairMode s = false) :
    exec (.uncorrectableError page .entryBoth r) s = .next ((allCtxs s).foldl haltCtx s) := by
  have phase : ((allCtxs s).foldl haltCtx s).pair.phase = s.pair.phase := foldl_keeps (fun s => s.pair.phase) phase_haltCtx ..
  have single : pairMode ((allCtxs s).foldl haltCtx s) = false := by rwa [pairMode, phase]
  have halts : spurFault s = (allCtxs s).foldl haltCtx s := if_neg (by simp [single])
  rw [← halts]
  exact whileClocked_runs hc _

end Found

/-! ## PAGE_MIGRATION (R240, R242) -/

section Migration
variable {page : BitVec 19} {f g : Nat} (hs : (s.page page.toNat).state = .damaged)
  (hf : (s.page page.toNat).frame = f) (hp : pagesOf s f = [page.toNat]) (hret : f ∈ s.mm.retiring) (hm : s.mm.migr.find? f = none)
  (hr : reserveFrame s (f / 131072) = some g)
include hs hf hp hret hm hr

theorem exec_pageMigration_part {n : BitVec 9} (hn : n.toNat < 256) :
    exec (.pageMigration page n []) s = .next (chunksCopied f g page.toNat n.toNat s) := by
  have part : migrateChunks f page.toNat n.toNat [] (migrationBegun f g page.toNat s) = chunksCopied f g page.toNat n.toNat s := by
    rw [migrateChunks_begun hn.le, if_neg hn.ne]
  rw [exec_pageMigration hc hs hf hp hret hm hr, part]
  exact congrArg _ (if_pos hret)

theorem exec_pageMigration_whole (w : Memory.wf s.mem = true) (hg : g ≠ f) (hd : f ∉ s.mm.retired) :
    ∃ t, exec (.pageMigration page 256 []) s = .next (recoverPages [page.toNat] t) ∧ (t.page page.toNat).frame = g ∧ f ∈ t.mm.retired
      ∧ f ∉ t.mm.retiring ∧ g ∉ t.mm.reserve ∧ (t.page page.toNat).state = (if s.badGranules page.toNat = [] then .mapped else .damaged)
      ∧ ∀ o < 2 ^ 20, Memory.get t.mem (g * 2 ^ 20 + o) =
          (if o / 64 ∈ s.badGranules page.toNat then 0 else Memory.get s.mem (f * 2 ^ 20 + o)) := by
  have copied := page_chunksCopied f g page.toNat 256 s
  have behind : pagesOf (chunksCopied f g page.toNat 256 s) f ≠ [] :=
    List.ne_nil_of_mem (mem_pagesOf (p := page.toNat) (by simp [copied, PageState.backed]) (by simp [copied, hf]))
  obtain ⟨frame, state, retired, retiring, reserve, mem⟩ := endMigration_alone (g := g)
    (pagesOf_chunksCopied hp 256) behind (by simp [copied]) hd
  have whole : migrateChunks f page.toNat (256 : BitVec 9).toNat [] (migrationBegun f g page.toNat s)
      = endMigration f g (chunksCopied f g page.toNat 256 s) := by
    rw [show (256 : BitVec 9).toNat = 256 from rfl, migrateChunks_begun le_rfl, if_pos rfl]
  have marks : s.badGranules page.toNat = s.marksOf f := by rw [State.badGranules, hf]
  have done : f ∉ (endMigration f g (chunksCopied f g page.toNat 256 s)).mm.retiring := by simp [retiring]
  refine ⟨_, ?_, frame, ?_, done, ?_, ?_, fun o ho => ?_⟩
  · rw [exec_pageMigration hc hs hf hp hret hm hr, whole, if_neg done]
  · simp [retired]
  · rw [reserve]
    change g ∉ (s.mm.reserve.filter (· != g)).filter (· != f)
    simp
  · rw [state, marks]
    rfl
  · rw [mem, mem_chunksCopied, marks]
    exact get_copyChunks_new w hg ho le_rfl ⟨Nat.zero_le _, by omega⟩

end Migration

/-! ## ROW_REMAP and PATROL_READ (R238, R241, R245) -/

theorem exec_rowRemap {row : RowLoc} (hr : rowFrame row ∉ s.mm.retiring) (hd : rowFrame row ∉ s.mm.retired) :
    exec (.rowRemap row none) s = .next (overlapping false s (remapRow row 3 s)) := by
  change execRowRemap row none s = _
  unfold execRowRemap
  rw [whileClocked_runs hc]
  exact if_neg (by simp [hr, hd])

theorem exec_patrolRead (frame : BitVec 19) (corrected : List (BitVec 14)) (uncorrectable : Option (BitVec 14)) :
    exec (.patrolRead frame corrected uncorrectable) s =
      if (pagesOf s frame.toNat).isEmpty then .next s
      else
        let s1 := (corrected.map (·.toNat)).foldl (meetCorrected frame.toNat) s
        .next (uncorrectable.elim s1 fun g => overlapping true s (damageFrame frame.toNat (framePage s1 frame.toNat) g.toNat s1)) := by
  change execPatrolRead frame corrected uncorrectable s = _
  unfold execPatrolRead
  rw [whileClocked_runs hc]
  cases uncorrectable <;> rfl

/-! ## STORE_UNCORRECTABLE (R244) -/

section Store
variable {page : BitVec 19} (g : BitVec 14) (way : Fin 16) (r : Reader) (hb : backed s page.toNat = true)
include hb

/-- The line of a granule of a page. -/
def granuleLine (s : State) (page : BitVec 19) (g : BitVec 14) : Nat := frameAt s (s.page page.toNat) (g.toNat * 64) * 2048 + g.toNat / 8

theorem exec_storeUncorrectable_corrected : ∃ t, exec (.storeUncorrectable page g way .corrected r) s = .next t
    ∧ t.mm.ce = satAdd s.mm.ce 1 0xFFFFFFFF ∧ t.mm.lines = s.mm.lines ∧ t.mem = s.mem := by
  obtain ⟨mem, ce, lines⟩ := countPages_keeps (pagesOf s (s.page page.toNat).frame) (countCe s)
  refine ⟨_, ?_, ce, lines, mem⟩
  change execStoreUncorrectable page g way .corrected r s = _
  unfold execStoreUncorrectable
  rw [whileClocked_runs hc]
  exact if_neg (by simp [hb])

theorem exec_storeUncorrectable_dirty : exec (.storeUncorrectable page g way .dirty r) s
    = .next (overlapping false s (disableWay (storeSet (granuleLine s page g)) way 3 (eraseLine (granuleLine s page g)
      (haltReader (damageFrame (s.page page.toNat).frame page.toNat g.toNat s) page.toNat r)))) := by
  change execStoreUncorrectable page g way .dirty r s = _
  unfold execStoreUncorrectable
  rw [whileClocked_runs hc]
  exact if_neg (by simp [hb])

/-- A clean line that fails is dropped and counted. -/
def cleanDropped (page : BitVec 19) (g : BitVec 14) (s : State) : State :=
  countUe page.toNat g.toNat (eraseLine (granuleLine s page g) s)

/-- The first failure of a way is remembered. -/
def rememberWay (key : Nat) (s : State) : State := { s with mm := { s.mm with waysHit := s.mm.waysHit ++ [key] } }

theorem exec_storeUncorrectable_clean : exec (.storeUncorrectable page g way .clean r) s
    = if s.mm.waysHit.contains (storeSet (granuleLine s page g) * 16 + way.val)
      then .next (overlapping false s (disableWay (storeSet (granuleLine s page g)) way 3 (cleanDropped page g s)))
      else .next (rememberWay (storeSet (granuleLine s page g) * 16 + way.val) (cleanDropped page g s)) := by
  change execStoreUncorrectable page g way .clean r s = _
  unfold execStoreUncorrectable
  rw [whileClocked_runs hc]
  exact if_neg (by simp [hb])

omit hc hb in
theorem cleanDropped_spec : Tbl.find? (cleanDropped page g s).mm.lines (granuleLine s page g) = none
    ∧ (cleanDropped page g s).mm.waysHit = s.mm.waysHit ∧ (cleanDropped page g s).mm.ue = satAdd s.mm.ue 1 65535
    ∧ (cleanDropped page g s).mm.waysOff = s.mm.waysOff ∧ (cleanDropped page g s).mem = s.mem := by
  unfold cleanDropped
  rw [mm_countUe, mem_countUe]
  exact ⟨Tbl.find?_erase_same _ _, rfl, rfl, rfl, rfl⟩

end Store

/-! ## The clauses of the statement, assembled by the kind of error -/

theorem granulesAreMarked (page : BitVec 19) (g : BitVec 14) (r : Reader) (hs : (s.page page.toNat).state = .mapped)
    (hp : pagesOf s (s.page page.toNat).frame = [page.toNat]) (hlen : s.mm.unreadable.length < 256)
    (hr : (s.page page.toNat).frame ∉ s.mm.retiring) (hd : (s.page page.toNat).frame ∉ s.mm.retired) :
    ∃ t, exec (.uncorrectableError page (.granule g) r) s = .next (overlapping true s (haltReader t page.toNat r))
      ∧ (t.page page.toNat).state = .damaged ∧ g.toNat ∈ t.badGranules page.toNat ∧ t.mm.ue = satAdd s.mm.ue 1 65535
      ∧ (s.page page.toNat).frame ∈ t.mm.retiring ∧ t.mem = s.mem := by
  have hb : (s.page page.toNat).state.backed = true := by simp [hs, PageState.backed]
  exact ⟨_, exec_uncorrectableError_granule hc g hb, damageFrame_alone g.toNat hp rfl hb (by simp [hs]) hlen hr hd⟩

theorem entriesAreRepaired (page : BitVec 19) (r : Reader) :
    (∃ t, exec (.uncorrectableError page (.entry false) r) s = .next t ∧ t.page page.toNat = s.mm.impB.getD page.toNat {}
      ∧ t.mm.impB = s.mm.impB ∧ t.mem = s.mem)
    ∧ (∃ t, exec (.uncorrectableError page (.entry true) r) s = .next t ∧ t.mm.impB.getD page.toNat {} = s.page page.toNat
      ∧ t.mm.imp = s.mm.imp ∧ t.mem = s.mem) := by
  refine ⟨⟨_, exec_uncorrectableError_entry hc false, ?_, ?_, mem_repairEntry ..⟩,
    ⟨_, exec_uncorrectableError_entry hc true, ?_, ?_, mem_repairEntry ..⟩⟩
  · simp [State.page, mm_repairEntry]
  · simp [mm_repairEntry]
  · simp [State.page, mm_repairEntry]
  · simp [mm_repairEntry]

theorem storeLinesFail (page : BitVec 19) (g : BitVec 14) (way : Fin 16) (r : Reader) (hb : backed s page.toNat = true) :
    let l := granuleLine s page g
    let key := storeSet l * 16 + way.val
    (key ∉ s.mm.waysHit → ∃ t, exec (.storeUncorrectable page g way .clean r) s = .next t ∧ Tbl.find? t.mm.lines l = none
      ∧ t.mm.waysHit = s.mm.waysHit ++ [key] ∧ t.mm.ue = satAdd s.mm.ue 1 65535 ∧ t.mm.waysOff = s.mm.waysOff ∧ t.mem = s.mem)
    ∧ (key ∈ s.mm.waysHit → ∃ t, exec (.storeUncorrectable page g way .clean r) s = .next (overlapping false s t)
      ∧ (storeSet l, way.val) ∈ t.mm.waysOff ∧ t.mem = s.mem)
    ∧ (∃ t, exec (.storeUncorrectable page g way .dirty r) s = .next (overlapping false s t) ∧ (storeSet l, way.val) ∈ t.mm.waysOff) := by
  obtain ⟨dropped, hit, ue, off, mem⟩ := cleanDropped_spec (s := s) (page := page) g
  refine ⟨fun hk => ⟨rememberWay (storeSet (granuleLine s page g) * 16 + way.val) (cleanDropped page g s), ?_, dropped, ?_, ue, off, mem⟩,
    fun hk => ⟨_, ?_, (disableWay_spec _ _ 3 _).1, (disableWay_spec _ _ 3 _).2.trans mem⟩,
    _, exec_storeUncorrectable_dirty hc g way r hb, (disableWay_spec ..).1⟩
  · rw [exec_storeUncorrectable_clean hc g way r hb, if_neg (by simpa using hk)]
  · rw [← hit]
    rfl
  · rw [exec_storeUncorrectable_clean hc g way r hb, if_pos (by simpa using hk)]

theorem patrolFinds (frame : BitVec 19) : exec (.patrolRead frame [] none) s = .next s
    ∧ (pagesOf s frame.toNat ≠ [] → ∀ g : BitVec 14,
      (∃ t, exec (.patrolRead frame [g] none) s = .next t ∧ t.mm.ce = satAdd s.mm.ce 1 0xFFFFFFFF ∧ t.mem = s.mem)
      ∧ exec (.patrolRead frame [] (some g)) s
        = .next (overlapping true s (damageFrame frame.toNat (framePage s frame.toNat) g.toNat s))) := by
  refine ⟨?_, fun hp g => ⟨?_, ?_⟩⟩
  · rw [exec_patrolRead hc]
    exact ite_self _
  · obtain ⟨mem, ce⟩ := meetCorrected_counts frame.toNat s g.toNat
    refine ⟨_, ?_, ce, mem⟩
    rw [exec_patrolRead hc, if_neg (by simpa using hp)]
    rfl
  · rw [exec_patrolRead hc, if_neg (by simpa using hp)]
    rfl

end Clocked

/-- Settles O46: an error is one update of the unit that it names, and a migration's bytes are read back where the copy put them. -/
theorem memoryFailsAndMoves : Obligations.MemoryFailsAndMoves := by
  intro s hc
  refine ⟨fun page r => ⟨fun g => granulesAreMarked hc page g r, fun g hb => ?_, (entriesAreRepaired hc page r).1, (entriesAreRepaired hc page r).2,
      exec_uncorrectableError_entryBoth hc⟩,
    fun page f g w hs hf hp hret hd hm hr hg => ⟨exec_pageMigration_whole hc hs hf hp hret hm hr w hg hd, fun n hn => ?_⟩,
    fun row hr hd => ⟨fun hu => ⟨_, exec_rowRemap hc hr hd, remapRow_spare 3 hr hd hu⟩,
      fun hu hp => ⟨_, exec_rowRemap hc hr hd, remapRow_noSpare 3 hr hd hu hp⟩⟩,
    fun page g way r hb => ⟨exec_storeUncorrectable_corrected hc g way r hb, storeLinesFail hc page g way r hb⟩,
    patrolFinds hc,
    fun l hl hoff => ⟨fun hu => ⟨_, rfl, failBond_spare hl hoff 3 hu⟩, fun hu => ⟨_, rfl, failBond_noSpare hl hoff 3 hu⟩⟩⟩
  · obtain ⟨mem, ce⟩ := meetCorrected_counts (s.page page.toNat).frame s g.toNat
    exact ⟨_, exec_uncorrectableError_corrected hc g hb, ce, mem⟩
  · have copied := page_chunksCopied f g page.toNat n.toNat s
    refine ⟨_, exec_pageMigration_part hc hs hf hp hret hm hr hn, by rw [copied], by rw [copied]; exact hf,
      fun o ho => readByte_chunksCopied w hg (by omega) ho hn.le hf hm⟩

end Sys2Proof.Machine
end

section
/-! # Element-wise instructions of the vector unit

An instruction whose operands have passed their checks completes: the Quern in which it acts differs from the one in which it starts by
counters and hidden results alone, its destination takes every result, and the cursors of its slots move on. -/

namespace Sys2Proof.Machine

open Sys2Proof

/-! ## What the checks depend on (R114 to R118, R193, R198, R199) -/

section Checks
variable {v u : Quern}

theorem vMode_congr (h : u.defrm = v.defrm) (o : VOp) : vMode u o = vMode v o := by
  unfold vMode Quern.rmode
  rw [h]

theorem vCheck_congr (h : u.org = v.org) (o : VOp) (used unused : List Nat) (sr streamOnly : Bool) :
    vCheck u o used unused sr streamOnly = vCheck v o used unused sr streamOnly := by
  unfold vCheck
  rw [h]

theorem vCountIn_congr (ho : u.org = v.org) (hl : u.vlen = v.vlen) (o : VOp) (f : Fmt) : vCountIn u o f = vCountIn v o f := by
  unfold vCountIn
  rw [ho, hl]

theorem slotFmtOf_congr (h : u.dslots = v.dslots) (slot : Nat) : slotFmtOf u slot = slotFmtOf v slot := by
  unfold slotFmtOf needDesc Quern.dslot
  rw [h]

theorem regWrites_congr (h : u.lanes = v.lanes) (r w : Nat) (els : List (Nat × Nat)) : regWrites u r w els = regWrites v r w els := by
  unfold regWrites
  rw [h]

end Checks

theorem vMode_vBegun (s : State) (q : Nat) (i : Issue) (o : VOp) : vMode ((vBegun s q i).quern q) o = vMode (s.quern q) o :=
  vMode_congr (by rw [quern_vBegun]) o

/-! ## Registers, slots and cursors -/

/-- Cursors and status slots stand beside the registers. -/
@[simp] theorem lanes_advCursors (v : Quern) (slots : List Nat) (n : Nat) : (advCursors v slots n).lanes = v.lanes := by
  unfold advCursors
  generalize (slots.filter isSlot).eraseDups = l
  induction l generalizing v with
  | nil => rfl
  | cons k l ih => exact ih _

@[simp] theorem lanes_setSlot (v : Quern) (n : Nat) (t : StatusSlot) : (v.setSlot n t).lanes = v.lanes := by
  unfold Quern.setSlot
  split <;> rfl

/-- A store sets the lanes that it lists (R121). -/
theorem lanes_vStore (s : State) (q dist : Nat) (lanes : List (Nat × W32)) (bytes : List (Nat × W8)) (mask : Nat → W8) :
    ((vStore s q dist lanes bytes mask).quern q).lanes
      = lanes.foldl (fun (w : Tbl W32) x => Tbl.set w x.1 x.2) (s.quern q).lanes := by
  have stored (v : Quern) : ({ s.setQuern q v with mem := Memory.setAll s.mem bytes } : State).quern q = v := s.quern_setQuern_same q v
  unfold vStore
  simp only [stored]
  split <;> rfl

theorem isSlot_of_isReg {x : Nat} (h : isReg x = true) : isSlot x = false := by
  simp only [isReg, isSlot, Bool.and_eq_true, decide_eq_true_eq, decide_eq_false_iff_not] at h ⊢
  omega

theorem isReg_of_isSlot {x : Nat} (h : isSlot x = true) : isReg x = false := by
  simp only [isReg, isSlot, Bool.and_eq_false_iff, decide_eq_true_eq, decide_eq_false_iff_not] at h ⊢
  omega

theorem wide_cfmtOf (c : Nat) : (cfmtOf c).wide = true := by
  unfold cfmtOf
  repeat' split
  all_goals rfl

/-! ## Results into a destination (R116, R117) -/

/-- A destination that has passed the checks takes every result. -/
theorem VReads.stores {s : State} {q : Nat} {o : VOp} {srcs unused : List Nat} {sr conv : Bool} {n : Nat}
    (h : VReads s q o srcs unused sr conv n) {u : State} (hu : (u.quern q).dslots = (s.quern q).dslots) {conv' : Bool}
    (hconv : isReg o.d = true ∨ conv' = conv) (dist : Nat) (comp : Fmt) (rm : RMode) (sat : Bool) (vals : List Val) (draw : Nat → Nat) :
    ∃ t, vDestConv u q o dist comp conv' rm sat vals draw n = .ok t := by
  unfold vDestConv
  by_cases hr : isReg o.d = true
  · exact ⟨_, if_pos hr⟩
  · obtain ⟨d, k, hm, hraw, hwide⟩ := h.dest.resolve_left hr
    obtain rfl := hconv.resolve_left hr
    have writable : (d.fmt != .raw64 && (conv' || d.fmt.wide)) = true := by simpa [hraw] using hwide
    rw [← vMem_congr hu] at hm
    simp only [hr, hm, writable, need_true, Bind.bind, Except.bind]
    exact ⟨_, rfl⟩

theorem dslots_raised (s : State) (q : Nat) (rs : List (Val × Fl)) : ((raised s q rs).quern q).dslots = (s.quern q).dslots := by
  rw [raised, quern_updQuern_same]
  rfl

/-! ## Exact operations (R75, R116) -/

/-- An element-wise operation is what its destination takes of the rounded results, and then its cursors. -/
theorem vArith_ok {s t : State} {q : Nat} {o : VOp} {srcs unused : List Nat} {f : RMode → List Val → Val × Fl} {comp : Fmt} {n : Nat}
    {vals : List (List Val)} (h : VReads s q o srcs unused false false n) (hc : compFmt (s.quern q) o srcs = .ok comp)
    (hv : srcs.mapM (fun x => vSource s q o comp x n) = .ok vals)
    (ht : vDestConv (raised s q (vResults s q o comp n f vals)) q o 4 comp false (vMode (s.quern q) o) false
      ((vResults s q o comp n f vals).map (·.1)) (fun _ => 0) n = .ok t) :
    vArith q o srcs unused f s = .ok (t.updQuern q (fun v => advCursors v (o.d :: srcs) n)) := by
  unfold raised vResults at ht
  simp only [vArith, h.check, h.count, hc, hv, ht, Bind.bind, Except.bind]

/-- An instruction whose body is an element-wise operation behind its reserved bits completes. -/
theorem arithRuns_of {mk : Fin 128 → Issue → Instr} {op : Opcode} {fields : Issue → VOp} {reserved : Issue → Bool} {srcs : VOp → List Nat}
    {f : RMode → List Val → Val × Fl} (body : Nat → Issue → State → Except Nat State)
    (hexec : ∀ q i s, exec (mk q i) s = startV q op i (body q i) s)
    (hbody : ∀ q i s, reserved i = true → body q i s = vArith q (fields i) (srcs (fields i)) [] f s) :
    ArithRuns mk op fields reserved srcs f := by
  intro s q i comp n vals hs hr hreads hcomp hvals
  rw [← vMode_vBegun s q i]
  obtain ⟨t, ht⟩ := hreads.stores (dslots_raised _ q (vResults (vBegun s q i) q (fields i) comp n f vals)) (.inr rfl) 4 comp
    (vMode ((vBegun s q i).quern q) (fields i)) false ((vResults (vBegun s q i) q (fields i) comp n f vals).map (·.1)) (fun _ => 0)
  refine ⟨t, ht, ?_⟩
  rw [hexec]
  exact startV_ok hs ((hbody q i _ hr).trans (vArith_ok hreads hcomp hvals ht))

/-- The two-source instructions of format VA. -/
theorem arithRuns_vTwo {mk : Fin 128 → Issue → Instr} {op : Opcode} {f : RMode → Val → Val → Val × Fl}
    (hexec : ∀ q i s, exec (mk q i) s = startV q op i (vTwo q i f) s) :
    ArithRuns mk op vaOp (fun i => !(vaOp i).opbit && decide ((vaOp i).subop = 0)) (fun o => [o.a, o.b]) (op2 f) := by
  refine arithRuns_of (fun q i => vTwo q i f) hexec (fun q i s hr => ?_)
  have zero : vaReserved (vaOp i) true true = .ok () := need_of (by simpa using hr) _
  simp only [vTwo, zero, Bind.bind, Except.bind]

theorem arithRuns_vfma : ArithRuns .vfma .vfma vbOp (fun i => decide (fld i 0 7 = 0 ∧ xfld i 35 16 = 0 ∧ xfld i 32 2 = 0))
    (fun o => [o.a, o.b, o.c]) (op3 fmaV) := by
  refine arithRuns_of (fun q i s => vbReserved i >>= fun _ => vArith q (vbOp i) [(vbOp i).a, (vbOp i).b, (vbOp i).c] [] (op3 fmaV) s)
    (fun _ _ _ => rfl) (fun q i s hr => ?_)
  have zero : vbReserved i = .ok () := need_of (by simpa [and_assoc] using hr) _
  simp only [zero, Bind.bind, Except.bind]

/-! ## Special functions (R130 to R132) -/

/-- A special function is what its destination takes of the FP32 results, and then its cursors. -/
theorem vSpecial_ok {s t : State} {q n : Nat} {i : Issue} {opbit : Bool} {f : VOp → Val → Val × Fl} {comp : Fmt} {vals : List Val}
    (hr : vaReserved (vaOp i) (!opbit) true = .ok ()) (h : VReads s q (vaOp i) [(vaOp i).a] [(vaOp i).b] false false n)
    (hc : compFmt (s.quern q) (vaOp i) [(vaOp i).a] = .ok comp) (h64 : comp ≠ .fp64) (hv : vSource s q (vaOp i) comp (vaOp i).a n = .ok vals)
    (ht : vDestConv (raised s q (vals.map (f (vaOp i)))) q (vaOp i) 8 (if isReg (vaOp i).d then comp else .fp32) (isReg (vaOp i).d)
      (vMode (s.quern q) (vaOp i)) false ((vals.map (f (vaOp i))).map (·.1)) (fun _ => 0) n = .ok t) :
    vSpecial q i opbit f s = .ok (t.updQuern q (fun v => advCursors v [(vaOp i).d, (vaOp i).a] n)) := by
  have fits : need (comp != .fp64) 0x1C = .ok () := need_of (by simpa using h64) _
  unfold raised at ht
  simp only [vSpecial, hr, h.check, h.count, hc, fits, hv, Bind.bind, Except.bind]
  cases hd : isReg (vaOp i).d <;> simp only [hd, Bool.false_eq_true, if_true, if_false] at ht ⊢ <;> simp only [ht]

theorem specialRuns_of {mk : Fin 128 → Issue → Instr} {op : Opcode} {opbit : Bool} {f : VOp → Val → Val × Fl}
    (hexec : ∀ q i s, exec (mk q i) s = startV q op i (vSpecial q i opbit f) s) : SpecialRuns mk op opbit f := by
  intro s q i comp n vals hs hr hreads hcomp h64 hvals
  rw [← vMode_vBegun s q i]
  have conv : isReg (vaOp i).d = true ∨ isReg (vaOp i).d = false := by cases isReg (vaOp i).d <;> simp
  obtain ⟨t, ht⟩ := hreads.stores (dslots_raised _ q (vals.map (f (vaOp i)))) conv 8 (if isReg (vaOp i).d then comp else .fp32)
    (vMode ((vBegun s q i).quern q) (vaOp i)) false ((vals.map (f (vaOp i))).map (·.1)) (fun _ => 0)
  refine ⟨t, ht, ?_⟩
  rw [hexec]
  exact startV_ok hs (vSpecial_ok hr hreads hcomp h64 hvals ht)

/-- Settles O5: the exact operations through `vArith`, the special functions through `vSpecial`. -/
theorem vectorArithmetic : Obligations.VectorArithmetic :=
  ⟨arithRuns_vTwo (fun _ _ _ => rfl), arithRuns_vTwo (fun _ _ _ => rfl), arithRuns_vTwo (fun _ _ _ => rfl),
    arithRuns_vTwo (fun _ _ _ => rfl), arithRuns_vfma, specialRuns_of (fun _ _ _ => rfl), specialRuns_of (fun _ _ _ => rfl),
    specialRuns_of (fun _ _ _ => rfl), specialRuns_of (fun _ _ _ => rfl)⟩

/-! ## VSEL (R127) -/

/-- The elements that VSEL copies: source b's bits where the test of source a holds, source c's elsewhere. -/
def selected (o : VOp) (av : List Val) (bb cb : List Nat) (n : Nat) : List (Nat × Nat) :=
  (List.range n).map (fun j => (j, if o.rm = 0 ∨ selTest o.rm (av.getD j valZero) = true then bb.getD j 0 else cb.getD j 0))

/-- The sources that VSEL reads: all three, or b and c where its test always holds. -/
def selUsed (o : VOp) : List Nat := if o.rm = 0 then [o.b, o.c] else [o.a, o.b, o.c]

/-- The state in which a slot has taken VSEL's elements. -/
def selStored (s : State) (q : Nat) (o : VOp) (d : Desc) (els : List (Nat × Nat)) : State :=
  let p := d.putRaw (readByte s) ((s.quern q).slot d.stslot) els
  vStore (s.setQuern q ((s.quern q).setSlot d.stslot (if o.roll then p.slot.roll else p.slot))) q 4 [] p.bytes wholeByte

theorem lanes_selStored (s : State) (q : Nat) (o : VOp) (d : Desc) (els : List (Nat × Nat)) :
    ((selStored s q o d els).quern q).lanes = (s.quern q).lanes := by
  simp [selStored, lanes_vStore]

/-- What VSEL makes of its elements: a register or a slot takes them, and the cursors move on. -/
def selInto (s : State) (q : Nat) (o : VOp) (df : Fmt) (els : List (Nat × Nat)) (n : Nat) : Except Nat State :=
  if isReg o.d then
    .ok ((vStore s q 4 (regWrites (s.quern q) (o.d - 0x40) df.width els) [] wholeByte).updQuern q (fun v => advCursors v (o.d :: selUsed o) n))
  else do
    let (d, k) ← vMem (s.quern q) q o.d n
    .ok ((selStored s q o d (els.map (fun x => (k + x.1, x.2)))).updQuern q (fun v => advCursors v (o.d :: selUsed o) n))

theorem selInto_slot {s : State} {q : Nat} {o : VOp} {d : Desc} {k n : Nat} (hd : isSlot o.d = true)
    (hm : vMem (s.quern q) q o.d n = .ok (d, k)) (df : Fmt) (els : List (Nat × Nat)) : selInto s q o df els n
    = .ok ((selStored s q o d (els.map (fun x => (k + x.1, x.2)))).updQuern q (fun v => advCursors v (o.d :: selUsed o) n)) := by
  simp only [selInto, isReg_of_isSlot hd, hm, Bool.false_eq_true, if_false, Bind.bind, Except.bind]

/-- The checks of VSEL in the state in which it acts, and what it reads there (R127, R198). -/
structure SelReads (s : State) (q : Nat) (i : Issue) (df : Fmt) (av : List Val) (bb cb : List Nat) (n : Nat) : Prop where
  reserved : vbReserved i = .ok ()
  test : (vbOp i).rm ≤ 5
  check : vCheck (s.quern q) { vbOp i with rm := 0 } (selUsed (vbOp i)) (if (vbOp i).rm = 0 then [(vbOp i).a] else []) false false = .ok ()
  format : (if isSlot (vbOp i).d then slotFmtOf (s.quern q) (vbOp i).d else .ok (cfmtOf (vbOp i).cfmt)) = .ok df
  wide : df.wide = true
  count : vCountIn (s.quern q) (vbOp i) df = .ok n
  tested : (vbOp i).rm ≠ 0 → selTested s q (vbOp i) df (vbOp i).a n = .ok av
  whenTrue : selBits s q (vbOp i) df (vbOp i).b n = .ok bb
  whenFalse : selBits s q (vbOp i) df (vbOp i).c n = .ok cb

/-- A VSEL that has passed its checks is what its destination makes of the selected elements. -/
theorem SelReads.vSel_eq {s : State} {q : Nat} {i : Issue} {df : Fmt} {av : List Val} {bb cb : List Nat} {n : Nat}
    (h : SelReads s q i df av bb cb n) : vSel q i s = selInto s q (vbOp i) df (selected (vbOp i) av bb cb n) n := by
  obtain ⟨reserved, test, check, format, wide, count, tested, whenTrue, whenFalse⟩ := h
  unfold selUsed at check
  -- The test decides which sources are read, the kind of the destination where its format stands.
  by_cases h0 : (vbOp i).rm = 0 <;> simp only [h0, if_true, if_false] at check
  all_goals cases hd : isSlot (vbOp i).d <;> simp only [hd, if_true, Bool.false_eq_true, if_false, Except.ok.injEq] at format
  all_goals
    simp [vSel, selInto, selUsed, selected, selStored, selTest, reserved, test, tested, check, hd, format, wide, count, h0, whenTrue,
      whenFalse, Bind.bind, Except.bind]

/-! ## VCVT (R53, R65) -/

theorem vCvt_ok {s t : State} {q n : Nat} {i : Issue} {comp : Fmt} {vals : List Val} (hr : (vaOp i).subop = 0)
    (h : VReads s q (vaOp i) [(vaOp i).a] [(vaOp i).b] true true n) (hc : cvtComp (s.quern q) (vaOp i) = .ok comp)
    (hv : cvtSource s q (vaOp i) comp n = .ok vals)
    (ht : vDestConv s q (vaOp i) 4 comp true (vMode (s.quern q) (vaOp i)) (vaOp i).opbit vals
      (fun e => if vMode (s.quern q) (vaOp i) = .sr then vDraw s q (vaOp i) e else 0) n = .ok t) :
    vCvt q i s = .ok (t.updQuern q (fun v => advCursors v [(vaOp i).d, (vaOp i).a] n)) := by
  have zero : vaReserved (vaOp i) false true = .ok () := need_of (by simpa using hr) _
  simp only [vCvt, zero, h.check, h.count, hc, hv, ht, Bind.bind, Except.bind]

/-- Settles O6: VSEL by the kind of its destination, VCVT through what its destination takes. -/
theorem vectorSelectsAndConverts : Obligations.VectorSelectsAndConverts := by
  intro s q i n
  have dslots : ((vBegun s q i).quern q).dslots = (s.quern q).dslots := by rw [quern_vBegun]
  have org : ((vBegun s q i).quern q).org = (s.quern q).org := by rw [quern_vBegun]
  have vlen : ((vBegun s q i).quern q).vlen = (s.quern q).vlen := by rw [quern_vBegun]
  have lanes : ((vBegun s q i).quern q).lanes = (s.quern q).lanes := by rw [quern_vBegun]
  have status : ((vBegun s q i).quern q).status = (s.quern q).status := by rw [quern_vBegun]
  refine ⟨fun df av bb cb hs hres htest hd hdf hcheck hn hav hb hc => ?_,
    fun df av bb cb d k hs hres htest hd hdf hwide hm hcheck hn hav hb hc => ?_, fun comp vals hs hsub hreads hcomp hvals => ?_⟩
  · subst hdf
    have reads : SelReads (vBegun s q i) q i (cfmtOf (vbOp i).cfmt) av bb cb n :=
      ⟨hres, htest, (vCheck_congr org ..).trans hcheck, if_neg (by simp [isSlot_of_isReg hd]), wide_cfmtOf _,
        (vCountIn_congr org vlen ..).trans hn, hav, hb, hc⟩
    refine ⟨_, startV_ok hs (reads.vSel_eq.trans (if_pos hd)), rfl, ?_⟩
    rw [quern_updQuern_same, lanes_advCursors, lanes_vStore, regWrites_congr lanes, lanes]
    rfl
  · have reads : SelReads (vBegun s q i) q i df av bb cb n :=
      ⟨hres, htest, (vCheck_congr org ..).trans hcheck, (if_pos hd).trans ((slotFmtOf_congr dslots _).trans hdf), hwide,
        (vCountIn_congr org vlen ..).trans hn, hav, hb, hc⟩
    have hm' : vMem ((vBegun s q i).quern q) q (vbOp i).d n = .ok (d, k) := (vMem_congr dslots ..).trans hm
    refine ⟨_, startV_ok hs (reads.vSel_eq.trans (selInto_slot hd hm' ..)), ?_, ?_⟩
    · rw [quern_updQuern_same, lanes_advCursors, lanes_selStored, lanes]
    · have slot : ((vBegun s q i).quern q).slot d.stslot = (s.quern q).slot d.stslot := by rw [Quern.slot, status, Quern.slot]
      have bytes : readByte (vBegun s q i) = readByte s := rfl
      rw [State.updQuern, State.mem_setQuern, selStored, mem_vStore, slot, bytes, selected, List.map_map]
      rfl
  · rw [← vMode_vBegun s q i]
    obtain ⟨t, ht⟩ := hreads.stores rfl (.inr rfl) 4 comp (vMode ((vBegun s q i).quern q) (vaOp i)) (vaOp i).opbit vals
      (fun e => if vMode ((vBegun s q i).quern q) (vaOp i) = .sr then vDraw (vBegun s q i) q (vaOp i) e else 0)
    exact ⟨t, ht, startV_ok hs (vCvt_ok hsub hreads hcomp hvals ht)⟩

end Sys2Proof.Machine
end

section
/-! # Programs that end

A program that completes, the members of a token deadlock, and the merge of a DISPATCH's notices. -/

namespace Sys2Proof.Machine

open Sys2Proof

section Completion
variable {s : State} {q : Fin 128} {c : Fin 32} {d : Nat}

/-- On a running clock an unfenced Quern's program that has nothing left to do sends its notice. -/
theorem exec_programComplete {sl : Slot} (hc : s.board.haltedByClock = false) (hr : (s.quern q).run = some sl)
    (hd : programDone s q = true) (hf : (s.quern q).fenced = false) : exec (.programComplete q) s
    = .next (releaseDue (addNotice ((orphanPrefetches s q).setQuern q (s.quern q).afterProgram) sl.load.ctx sl.load.disp
        (noticeOf q (s.quern q) sl.load))) := by
  change whileClocked s _ = _
  simp [whileClocked_runs hc, hr, hd, hf]

/-! ## Token deadlocks (R172) -/

/-- The Quern of a member that a token deadlock has stopped (R172, R180). -/
def Quern.deadlocked (v : Quern) : Quern :=
  { v with barrier := none, err := some ⟨0x52, waitingStream v, waitingAt v (waitingStream v)⟩ }

theorem exec_tokenDeadlock (hc : s.board.haltedByClock = false) (ho : openMembers s c d ≠ [])
    (hb : ∀ m ∈ openMembers s c d, blockedIdle s m c d = true) (ha : allAtBarrier s c d = false) : exec (.tokenDeadlock c d) s
    = .next ((openMembers s c d).foldl (fun s m => s.updQuern m Quern.deadlocked) s) := by
  change whileClocked s _ = _
  have stuck : (openMembers s c d).all (fun m => blockedIdle s m c d) = true := List.all_eq_true.mpr hb
  rw [whileClocked_runs hc, if_pos (by simp [ho, stuck, ha])]
  rfl

/-- What an update establishes on every Quern holds, behind the update of listed Querns, of each of them. -/
theorem quern_foldl_updQuern {P : Quern → Prop} {f : Quern → Quern} (hf : ∀ v, P (f v)) {m : Nat} (l : List Nat) (s : State)
    (h : m ∈ l ∨ P (s.quern m)) : P ((l.foldl (fun s m => s.updQuern m f) s).quern m) := by
  induction l generalizing s with
  | nil => exact h.resolve_left (List.not_mem_nil)
  | cons a l ih =>
    refine ih _ ?_
    by_cases e : m = a
    · subst e
      exact .inr (by rw [quern_updQuern_same]; exact hf _)
    · change m ∈ l ∨ P ((s.setQuern a (f (s.quern a))).quern m)
      rw [State.quern_setQuern_ne _ _ _ _ e]
      exact h.imp_left (fun hm => (List.mem_cons.mp hm).resolve_left e)

/-! ## Merged completions (R184 to R186) -/

/-- A latch is set in the record of a step alone. -/
theorem setLatch_keeps (x : Ctx) (y : Disp) (m : Merged) : (setLatch x y m).disps = x.disps ∧ (setLatch x y m).merged = x.merged := by
  unfold setLatch
  split
  · split <;> exact ⟨rfl, rfl⟩
  · exact ⟨rfl, rfl⟩

/-- A context whose DISPATCH is closed: it is gone, its merged completion stands, and its latch is set where the merge escalates. -/
def Ctx.closed (x : Ctx) (y : Disp) : Ctx :=
  setLatch { x with disps := x.disps.filter (fun e => e.id ≠ y.id), merged := some (mergeNotices y) } y (mergeNotices y)

theorem Ctx.disps_closed (x : Ctx) (y : Disp) : (x.closed y).disps = x.disps.filter (fun e => e.id ≠ y.id) := (setLatch_keeps ..).1

theorem Ctx.merged_closed (x : Ctx) (y : Disp) : (x.closed y).merged = some (mergeNotices y) := (setLatch_keeps ..).2

theorem exec_mergedCompletion {x : Disp} (hc : s.board.haltedByClock = false)
    (hx : (s.ctx c).disps.find? (fun e => e.id = d) = some x) (hm : mergeable (s.ctx c) x = true) : exec (.mergedCompletion c d) s
    = .next (if (mergeNotices x).status = 0 then lateSignal (s.setCtx c ((s.ctx c).closed x)) c x.no x.idx x.sen x.stok
        else stopMerged (lateSignal (s.setCtx c ((s.ctx c).closed x)) c x.no x.idx x.sen x.stok) c (mergeNotices x).status x.idx
          [(mergeNotices x).index, streamIdx (mergeNotices x).stream]) := by
  change whileClocked s _ = _
  have same : x.id = d := by simpa using List.find?_some hx
  subst same
  simp only [whileClocked_runs hc, hx, hm, if_true, ite_not]
  rfl

end Completion

/-- Settles O15: each command is one branch on a running clock; the members of a deadlock are stopped one by one. -/
theorem programsComplete : Obligations.ProgramsComplete := by
  refine fun s hc => ⟨fun q sl hr hd hf => exec_programComplete hc hr hd hf, fun c d ho hb ha => ?_, fun c d x hx hm => ?_⟩
  · refine ⟨_, exec_tokenDeadlock hc ho hb ha, mem_foldl (fun s m => State.mem_setQuern s m _) _ s, fun m hm => ?_⟩
    exact quern_foldl_updQuern (P := fun v => ∃ e, v.err = some e ∧ e.code = 0x52 ∧ v.barrier = none)
      (fun v => ⟨_, rfl, rfl, rfl⟩) _ s (.inl hm)
  · have same : x.id = d := by simpa using List.find?_some hx
    refine ⟨s.setCtx c ((s.ctx c).closed x), ?_, ?_, exec_mergedCompletion hc hx hm⟩
    · rw [State.ctx_setCtx_same, Ctx.disps_closed, same]
    · rw [State.ctx_setCtx_same, Ctx.merged_closed]

end Sys2Proof.Machine
end

section
/-! # The matrix array

MCFG, MLOAD, MPASS, MDRAIN and MCLR act on the state in which their header wait has been taken, which differs from the one in which
they start by a counter alone. A write-out waits, is a discarded duplicate, or writes. -/

namespace Sys2Proof.Machine

open Sys2Proof

/-- The header wait leaves open whether the current set is still to be written out. -/
theorem setBusy_begun (s : State) (q : Nat) (i : Issue) : ((begun s q i).quern q).setBusy = (s.quern q).setBusy := by
  rw [quern_begun]
  rfl

/-! ## Write-outs (R106, R107, R156) -/

section WriteOut
variable {s : State} {q : Nat} {dr : Drain} {rest : List Drain}

theorem writeOut_waits (h : (s.quern q).drains = dr :: rest)
    (waits : (s.quern q).fenced = true ∨ (fld dr.issue 6 1 = 1 ∧ (s.quern q).wgo.getD (fld dr.issue 12 2) 0 < dr.ordinal)) :
    writeOut q s = s := by
  simp only [writeOut, h]
  obtain fenced | early := waits
  · exact if_pos fenced
  · rw [if_pos early, ite_self]

theorem writeOut_discards (h : (s.quern q).drains = dr :: rest) (free : (s.quern q).fenced = false) (wgb : fld dr.issue 6 1 = 1)
    (late : dr.ordinal < (s.quern q).wgo.getD (fld dr.issue 12 2) 0) :
    writeOut q s = endWriteOut (countDuplicate s q) q dr false := by
  simp [writeOut, h, free, wgb, late, late.le]

/-- The state in which a write-out has stored what it gives. -/
def wroteOut (s : State) (q : Nat) (dr : Drain) (d : Desc) : State :=
  { s.setQuern q (((s.quern q).setSlot d.stslot (writeOutRes s q dr d).slot).raiseFl (writeOutRes s q dr d).fl) with
    mem := Memory.setAll s.mem (writeOutRes s q dr d).bytes }

theorem writeOut_writes {d : Desc} (h : (s.quern q).drains = dr :: rest) (free : (s.quern q).fenced = false)
    (hd : descOf dr.desc = some d) (turn : fld dr.issue 6 1 = 1 → dr.ordinal = (s.quern q).wgo.getD (fld dr.issue 12 2) 0) :
    writeOut q s = endWriteOut (wroteOut s q dr d) q dr (fld dr.issue 6 1 = 1 && fld dr.issue 14 1 = 1) := by
  have notEarly : ¬(fld dr.issue 6 1 = 1 ∧ dr.ordinal > (s.quern q).wgo.getD (fld dr.issue 12 2) 0) := fun ⟨wgb, early⟩ => early.ne' (turn wgb)
  have notLate : ¬(fld dr.issue 6 1 = 1 ∧ dr.ordinal < (s.quern q).wgo.getD (fld dr.issue 12 2) 0) := fun ⟨wgb, late⟩ => late.ne (turn wgb)
  simp only [writeOut, h, free, notEarly, notLate, hd, Bool.false_eq_true, if_false]
  rfl

theorem drains_setSlot (v : Quern) (n : Nat) (t : StatusSlot) : (v.setSlot n t).drains = v.drains := by
  unfold Quern.setSlot
  split <;> rfl

theorem quern_wroteOut (s : State) (q : Nat) (dr : Drain) (d : Desc) : (wroteOut s q dr d).quern q
    = ((s.quern q).setSlot d.stslot (writeOutRes s q dr d).slot).raiseFl (writeOutRes s q dr d).fl :=
  s.quern_setQuern_same q _

theorem drains_wroteOut (s : State) (q : Nat) (dr : Drain) (d : Desc) : ((wroteOut s q dr d).quern q).drains = (s.quern q).drains := by
  rw [quern_wroteOut, Quern.raiseFl, drains_setSlot]

theorem exec_mdrainWriteOut {q : Fin 128} (hc : s.board.haltedByClock = false) : exec (.mdrainWriteOut q) s = .next (writeOut q s) :=
  whileClocked_runs hc _

end WriteOut

/-! ## MDRAIN (R103, R104) -/

/-- The drain of an MDRAIN that passes its checks names its Quern's epoch and scales. -/
theorem drainOf_epoch {s : State} {q : Nat} {i : Issue} {d : Drain} (h : drainOf q i s = .ok d) :
    d.epoch = (s.quern q).epoch ∧ d.scales = (s.quern q).scales := by
  unfold drainOf at h
  obtain ⟨-, -, h⟩ := bind_ok h
  obtain ⟨desc, -, h⟩ := bind_ok h
  obtain ⟨-, -, h⟩ := bind_ok h
  dsimp only at h
  split at h
  · obtain ⟨-, -, h⟩ := bind_ok h
    cases h
    exact ⟨rfl, rfl⟩
  · obtain ⟨-, -, h⟩ := bind_ok h
    obtain ⟨-, -, h⟩ := bind_ok h
    cases h
    exact ⟨rfl, rfl⟩

/-- The state in which an MDRAIN has closed its epoch. -/
def epochClosed (s : State) (q : Nat) (d : Drain) : State :=
  s.updQuern q (fun v => { v with drains := v.drains ++ [d], epoch := v.epoch + 1, scales := none })

theorem exec_mdrain {s : State} {q : Fin 128} {i : Issue} {d : Drain} (hs : Starts s q .m .mdrain i)
    (h : drainOf q i (begun s q i) = .ok d) : exec (.mdrain q i) s = .next (advance (epochClosed (begun s q i) q d) q .m) := by
  change execMdrain q i s = _
  refine startInstr_later hs rfl ?_
  simp only [h, Bind.bind, Except.bind]
  rfl

/-- Settles O3: MDRAIN by the epoch that it closes, its write-out by its three cases. -/
theorem matrixDrainsAndWritesOut : Obligations.MatrixDrainsAndWritesOut := by
  refine fun s q => ⟨fun i d hs hd => ?_, fun dr rest h => ⟨fun waits => ?_, fun hc free wgb late => ?_, fun d hc free hd turn => ?_⟩⟩
  · obtain ⟨epoch, scales⟩ := drainOf_epoch hd
    have closed : (epochClosed (begun s q i) q d).quern q = _ := quern_updQuern_same ..
    rw [quern_begun] at epoch scales closed
    refine ⟨epoch, scales, _, exec_mdrain hs hd, rfl, ?_, ?_, ?_⟩ <;> rw [closed]
  · cases hc : s.board.haltedByClock with
    | true => exact whileClocked_stopped hc _
    | false => rw [exec_mdrainWriteOut hc, writeOut_waits h waits]
  · rw [exec_mdrainWriteOut hc, writeOut_discards h free wgb late]
  · exact ⟨_, by rw [exec_mdrainWriteOut hc, writeOut_writes h free hd turn], rfl, drains_wroteOut ..⟩

/-! ## MCFG (R83, R195) -/

theorem setMode_same {s : State} {q : Nat} {pm : BitVec 2} (h : (s.quern q).pmode = pm) : setMode q pm s = s := if_pos h

theorem setMode_changed {s : State} {q : Nat} {pm : BitVec 2} (h : (s.quern q).pmode ≠ pm) :
    setMode q pm s = clearSet (s.setQuern q { s.quern q with pmode := pm, plane0 := {}, plane1 := {} }) q ((s.quern q).epoch % 2) := if_neg h

theorem pmode_setMode (s : State) (q : Nat) (pm : BitVec 2) : ((setMode q pm s).quern q).pmode = pm := by
  by_cases h : (s.quern q).pmode = pm
  · rw [setMode_same h, h]
  · rw [setMode_changed h, quern_clearSet, State.quern_setQuern_same]

theorem exec_mcfg {s : State} {q : Fin 128} {i : Issue} (hs : Starts s q .m .mcfg i) (drained : (s.quern q).drains = [])
    (top : i.ops >>> 2 = 0) (mode : fld i 0 2 ≠ 3) :
    exec (.mcfg q i) s = .next (ended s (setMode q (BitVec.ofNat 2 (fld i 0 2)) (begun s q i)) q .m i) := by
  change execMcfg q i s = _
  refine startInstr_now hs (by rw [drained]; rfl) ?_
  simp [needTop_of top, mode, Bind.bind, Except.bind]

/-! ## MCLR (R108, R110, R195) -/

/-- The sums held for the current epoch are discarded. -/
def heldDropped (s : State) (q : Nat) : State :=
  s.updQuern q (fun v => { v with held := v.held.filter (fun h => h.epoch ≠ v.epoch) })

theorem quern_heldDropped (s : State) (q : Nat) : (heldDropped s q).quern q
    = { s.quern q with held := (s.quern q).held.filter (fun h => h.epoch ≠ (s.quern q).epoch) } := quern_updQuern_same ..

@[simp] theorem mem_heldDropped (s : State) (q : Nat) : (heldDropped s q).mem = s.mem := rfl

theorem clearEpoch_busy {s : State} {q : Nat} {i : Issue} (h : (s.quern q).setBusy = true) : clearEpoch q i s
    = (heldDropped s q).updQuern q (fun v => { v with
        clears := v.clears ++ [⟨(s.quern q).epoch, ((s.quern q).stream .m).pos, i.sen, i.stok.toNat⟩] }) := if_pos h

theorem clearEpoch_free {s : State} {q : Nat} {i : Issue} (h : (s.quern q).setBusy = false) : clearEpoch q i s
    = clearSet (heldDropped s q) q ((s.quern q).epoch % 2) := if_neg (by simp [h])

theorem exec_mclr {s : State} {q : Fin 128} {i : Issue} (hs : Starts s q .m .mclr i) (top : i.ops = 0) : exec (.mclr q i) s
    = .next (if (s.quern q).setBusy = true then advance (clearEpoch q i (begun s q i)) q .m
        else ended s (clearEpoch q i (begun s q i)) q .m i) := by
  have body : (needTop i 0 >>= fun _ => Except.ok (clearEpoch q i (begun s q i))) = .ok (clearEpoch q i (begun s q i)) := by
    rw [needTop_of (by simp [top])]
    rfl
  change execMclr q i s = _
  unfold execMclr
  cases (s.quern q).setBusy with
  | true => exact startInstr_later hs rfl body
  | false => exact startInstr_now hs rfl body

/-- Settles O1: MCFG by whether it changes the mode, MCLR by whether a write-out still uses the set. -/
theorem matrixModesAndClears : Obligations.MatrixModesAndClears := by
  refine fun s q i wf => ⟨fun hs drained top mode => ⟨_, exec_mcfg hs drained top mode, pmode_setMode .., fun same => ?_, fun changed => ?_⟩,
    fun hs top => ⟨_, exec_mclr hs top, ?_⟩⟩
  · exact setMode_same (by rw [quern_begun, same])
  · rw [setMode_changed (by rwa [quern_begun]), quern_clearSet, State.quern_setQuern_same, quern_begun]
    exact ⟨rfl, rfl, fun a => Memory.get_clear _ _ a wf⟩
  · cases busy : (s.quern q).setBusy with
    | true =>
      rw [clearEpoch_busy ((setBusy_begun s q i).trans busy), quern_updQuern_same, quern_heldDropped, quern_begun]
      exact ⟨rfl, rfl, fun a => (if_neg (by simp)).symm⟩
    | false =>
      rw [clearEpoch_free ((setBusy_begun s q i).trans busy), quern_clearSet, quern_heldDropped, quern_begun]
      exact ⟨rfl, rfl, fun a => by simpa using Memory.get_clear _ _ a wf⟩

/-! ## MLOAD (R84, R196) -/

/-- The state in which an MLOAD has filled the plane that its word names. -/
def planeFilled (s : State) (q : Nat) (i : Issue) (p : Plane) : State :=
  s.updQuern q (fun v => if fld i 6 1 = 0 then { v with plane0 := p } else { v with plane1 := p })

theorem quern_planeFilled (s : State) (q : Nat) (i : Issue) (p : Plane) : (planeFilled s q i p).quern q
    = { s.quern q with
        plane0 := if fld i 6 1 = 0 then p else (s.quern q).plane0
        plane1 := if fld i 6 1 = 0 then (s.quern q).plane1 else p } := by
  rw [planeFilled, quern_updQuern_same]
  split <;> rfl

theorem exec_mload {s : State} {q : Fin 128} {i : Issue} {p : Plane} (hs : Starts s q .m .mload i)
    (h : loadPlane q i (begun s q i) = .ok p) : exec (.mload q i) s = .next (ended s (planeFilled (begun s q i) q i p) q .m i) := by
  change execMload q i s = _
  refine startInstr_now hs rfl ?_
  simp only [h, Bind.bind, Except.bind]
  rfl

/-! ## MPASS (R94, R103, R105) -/

/-- The first pass of an epoch gives it its tensor scales. -/
def scalesTaken (s : State) (q : Nat) (o : PassOut) : State :=
  s.updQuern q (fun v => { v with scales := (match v.scales with | none => some o.pair | x => x) })

theorem quern_scalesTaken (s : State) (q : Nat) (o : PassOut) :
    (scalesTaken s q o).quern q = { s.quern q with scales := some ((s.quern q).scales.getD o.pair) } := by
  rw [scalesTaken, quern_updQuern_same]
  cases (s.quern q).scales <;> rfl

theorem runPass_busy {s : State} {q : Nat} {o : PassOut} (h : (s.quern q).setBusy = true) : runPass q o s
    = (scalesTaken s q o).updQuern q (fun v => { v with held := v.held ++ [⟨(s.quern q).epoch, o.adds⟩] }) := if_pos h

theorem runPass_free {s : State} {q : Nat} {o : PassOut} (h : (s.quern q).setBusy = false) :
    runPass q o s = addSums (scalesTaken s q o) q o.adds := if_neg (by simp [h])

theorem scales_runPass (s : State) (q : Nat) (o : PassOut) :
    ((runPass q o s).quern q).scales = some ((s.quern q).scales.getD o.pair) := by
  cases h : (s.quern q).setBusy with
  | true => rw [runPass_busy h, quern_updQuern_same, quern_scalesTaken]
  | false => rw [runPass_free h, scales_addSums, quern_scalesTaken]

theorem exec_mpass {s : State} {q : Fin 128} {i : Issue} {o : PassOut} (hs : Starts s q .m .mpass i)
    (h : passOf q i (begun s q i) = .ok o) : exec (.mpass q i) s = .next (ended s (runPass q o (begun s q i)) q .m i) := by
  change execMpass q i s = _
  refine startInstr_now hs rfl ?_
  simp only [h, Bind.bind, Except.bind]

/-- Settles O2: MLOAD by the plane that it fills, MPASS by whether its sums are held or added. -/
theorem matrixLoadsAndPasses : Obligations.MatrixLoadsAndPasses := by
  refine fun s q i wf => ⟨fun p hs hp => ⟨_, exec_mload hs hp, rfl, ?_⟩,
    fun o hs ho => ⟨_, exec_mpass hs ho, ?_, fun busy => ?_, fun free a outside => ?_⟩⟩
  · rw [quern_planeFilled, quern_begun]
    exact ⟨rfl, rfl⟩
  · rw [scales_runPass, quern_begun]
  · rw [runPass_busy ((setBusy_begun s q i).trans busy), quern_updQuern_same, quern_scalesTaken, quern_begun]
    exact ⟨rfl, rfl⟩
  · rw [runPass_free ((setBusy_begun s q i).trans free)]
    exact get_addSums q o.adds a _ wf outside

end Sys2Proof.Machine
end

section
/-! # The group adder

The window of a group hangs below the largest exponent of its terms, and the sum is that of the terms floored to the window. So the
sum falls short of the exact one by less than one unit of the window for each term. -/

namespace Sys2Proof.Machine

open Sys2Proof

/-! ## The largest exponent of a group (R91) -/

/-- The exponents of the non-zero terms. -/
def termExps (ts : List (Int × Int)) : List Int := (ts.filter (fun t => t.1 ≠ 0)).map (fun t => log2Scaled t.1.natAbs t.2)

theorem mem_termExps {ts : List (Int × Int)} {e : Int} : e ∈ termExps ts ↔ ∃ t ∈ ts, t.1 ≠ 0 ∧ log2Scaled t.1.natAbs t.2 = e := by
  simp [termExps, and_assoc]

theorem termExps_cons_zero {t : Int × Int} (h : t.1 = 0) (ts : List (Int × Int)) : termExps (t :: ts) = termExps ts := by
  simp [termExps, h]

theorem termExps_cons_ne {t : Int × Int} (h : t.1 ≠ 0) (ts : List (Int × Int)) :
    termExps (t :: ts) = log2Scaled t.1.natAbs t.2 :: termExps ts := by
  simp [termExps, h]

/-- The step by which the group adder looks for the largest exponent. -/
def raiseExp (a : Option Int) (t : Int × Int) : Option Int :=
  if t.1 = 0 then a
  else
    match a with
    | none => some (log2Scaled t.1.natAbs t.2)
    | some x => some (max x (log2Scaled t.1.natAbs t.2))

/-- The search that has found `a` so far ends with the largest exponent there is. -/
theorem foldl_raiseExp (ts : List (Int × Int)) (a : Option Int) : ts.foldl raiseExp a = (a.toList ++ termExps ts).max? := by
  induction ts generalizing a with
  | nil => cases a <;> rfl
  | cons t ts ih =>
    rw [List.foldl_cons, ih]
    by_cases zero : t.1 = 0
    · rw [termExps_cons_zero zero, raiseExp.eq_def, if_pos zero]
    · rw [termExps_cons_ne zero, raiseExp.eq_def, if_neg zero]
      cases a <;> rfl

/-! ## The sum of a group (R91) -/

/-- A term in units of 2^lsb, floored. -/
def floorTo (lsb : Int) (t : Int × Int) : Int :=
  if t.2 ≥ lsb then t.1 * 2 ^ (t.2 - lsb).toNat else t.1 / 2 ^ (lsb - t.2).toNat

/-- The group adder looks for the largest exponent, and sums the terms floored to the window below it. -/
theorem groupSum_eq (ts : List (Int × Int)) :
    groupSum ts =
      match (termExps ts).max? with
      | none => .fin 0 0
      | some em => .fin (ts.map (floorTo (em - 46))).sum (em - 46) := by
  have search : (termExps ts).max? = ts.foldl raiseExp none := (foldl_raiseExp ts none).symm
  simp only [search, List.sum_eq_foldl, List.foldl_map]
  rfl

theorem groupSum_of_max {ts : List (Int × Int)} {emax : Int} (attained : ∃ t ∈ ts, t.1 ≠ 0 ∧ log2Scaled t.1.natAbs t.2 = emax)
    (bound : ∀ t ∈ ts, t.1 ≠ 0 → log2Scaled t.1.natAbs t.2 ≤ emax) :
    groupSum ts = .fin (ts.map (floorTo (emax - 46))).sum (emax - 46) := by
  have largest : (termExps ts).max? = some emax := by
    rw [List.max?_eq_some_iff]
    refine ⟨mem_termExps.2 attained, fun e he => ?_⟩
    obtain ⟨t, ht, h0, rfl⟩ := mem_termExps.1 he
    exact bound t ht h0
  rw [groupSum_eq, largest]

theorem groupSum_zero {ts : List (Int × Int)} (h : ∀ t ∈ ts, t.1 = 0) : groupSum ts = .fin 0 0 := by
  have empty : termExps ts = [] := List.eq_nil_iff_forall_not_mem.2 fun e he => by
    obtain ⟨t, ht, h0, -⟩ := mem_termExps.1 he
    exact h0 (h t ht)
  rw [groupSum_eq, empty]
  rfl

/-! ## What the floor of one term leaves (R92) -/

theorem termVal_div (t : Int × Int) (lsb : Int) : termVal t / 2 ^ lsb = t.1 * 2 ^ (t.2 - lsb) := by
  rw [termVal, zpow_sub₀ two_ne_zero, mul_div_assoc]

/-- The adder's integer floor is the floor of the exact quotient. -/
theorem floorTo_eq (lsb : Int) (t : Int × Int) : floorTo lsb t = ⌊termVal t / 2 ^ lsb⌋ := by
  rw [termVal_div, floorTo]
  split
  · rename_i above
    obtain ⟨k, hk⟩ := Int.eq_ofNat_of_zero_le (sub_nonneg.2 above)
    rw [hk, Int.toNat_natCast, zpow_natCast]
    exact_mod_cast (Int.floor_intCast (R := ℚ) (t.1 * 2 ^ k)).symm
  · rename_i below
    obtain ⟨k, hk⟩ := Int.eq_ofNat_of_zero_le (sub_nonneg.2 (not_le.1 below).le)
    rw [← neg_sub lsb, hk, Int.toNat_natCast, zpow_neg, zpow_natCast, ← div_eq_mul_inv]
    exact_mod_cast (Rat.floor_intCast_div_natCast t.1 (2 ^ k)).symm

/-- A term of a group with the largest exponent e is less than 2^(e + 1) in magnitude. -/
theorem abs_termVal_lt {t : Int × Int} {emax : Int} (h : t.1 ≠ 0 → log2Scaled t.1.natAbs t.2 ≤ emax) : |termVal t| < 2 ^ (emax + 1) := by
  by_cases zero : t.1 = 0
  · rw [termVal, zero, Int.cast_zero, zero_mul, abs_zero]
    positivity
  · have mag : (|t.1| : ℚ) < 2 ^ (Nat.log2 t.1.natAbs + 1) := by
      rw [← Int.cast_abs, Int.abs_eq_natAbs]
      exact_mod_cast Nat.lt_log2_self
    have exps : ((Nat.log2 t.1.natAbs + 1 : ℕ) : ℤ) + t.2 ≤ emax + 1 := by
      have := h zero
      rw [log2Scaled] at this
      omega
    calc |termVal t| = |(t.1 : ℚ)| * 2 ^ t.2 := by rw [termVal, abs_mul, abs_of_pos (by positivity : (0 : ℚ) < 2 ^ t.2)]
      _ < 2 ^ (Nat.log2 t.1.natAbs + 1) * 2 ^ t.2 := by gcongr
      _ = 2 ^ (((Nat.log2 t.1.natAbs + 1 : ℕ) : ℤ) + t.2) := by rw [zpow_add₀ two_ne_zero, zpow_natCast]
      _ ≤ 2 ^ (emax + 1) := zpow_le_zpow_right₀ one_le_two exps

/-- A floored term fits 48 bits with its sign. -/
theorem floorTo_bounds {t : Int × Int} {emax : Int} (h : t.1 ≠ 0 → log2Scaled t.1.natAbs t.2 ≤ emax) :
    -(2 ^ 47) ≤ floorTo (emax - 46) t ∧ floorTo (emax - 46) t ≤ 2 ^ 47 - 1 := by
  have unit : (0 : ℚ) < 2 ^ (emax - 46) := by positivity
  have width : (2 : ℚ) ^ (emax + 1) = 2 ^ 47 * 2 ^ (emax - 46) := by
    rw [← zpow_natCast, ← zpow_add₀ two_ne_zero]
    congr 1
    push_cast
    ring
  obtain ⟨low, high⟩ := abs_lt.1 (abs_termVal_lt h)
  rw [floorTo_eq]
  constructor
  · rw [Int.le_floor, le_div_iff₀ unit]
    push_cast
    linarith
  · rw [Int.le_sub_one_iff, Int.floor_lt, div_lt_iff₀ unit]
    push_cast
    linarith

/-! ## What the floors of a group leave (R92) -/

theorem floorTo_mul_le (lsb : Int) (t : Int × Int) : (floorTo lsb t : ℚ) * 2 ^ lsb ≤ termVal t := by
  rw [floorTo_eq, ← le_div_iff₀ (by positivity)]
  exact Int.floor_le _

/-- A floored term falls short of the term by less than a unit. -/
theorem lt_floorTo_mul_add (lsb : Int) (t : Int × Int) : termVal t < (floorTo lsb t : ℚ) * 2 ^ lsb + 2 ^ lsb := by
  rw [floorTo_eq, ← add_one_mul, ← div_lt_iff₀ (by positivity)]
  exact Int.lt_floor_add_one _

/-- Values at one exponent add as their integers do. -/
theorem termVal_sum (l : List Int) (lsb : Int) : termVal (l.sum, lsb) = (l.map (fun x => termVal (x, lsb))).sum := by
  induction l with
  | nil => simp [termVal]
  | cons x l ih =>
    rw [List.sum_cons, List.map_cons, List.sum_cons, ← ih]
    simp [termVal, add_mul]

/-- The sum of at most 32 floored terms falls short of the exact sum by less than 32 units. -/
theorem sum_sub_floors_lt {ts : List (Int × Int)} (inhabited : ts ≠ []) (few : ts.length ≤ 32) (lsb : Int) :
    0 ≤ (ts.map termVal).sum - termVal ((ts.map (floorTo lsb)).sum, lsb)
      ∧ (ts.map termVal).sum - termVal ((ts.map (floorTo lsb)).sum, lsb) < 2 ^ (lsb + 5) := by
  rw [termVal_sum, List.map_map]
  constructor
  · rw [sub_nonneg]
    exact List.sum_le_sum fun t _ => floorTo_mul_le lsb t
  · have strict := List.sum_lt_sum_of_ne_nil inhabited _ _ (fun t _ => lt_floorTo_mul_add lsb t)
    rw [List.sum_map_add, List.map_const', List.sum_replicate, nsmul_eq_mul] at strict
    have units : (ts.length : ℚ) * 2 ^ lsb ≤ 2 ^ (lsb + 5) := by
      rw [zpow_add₀ two_ne_zero, mul_comm]
      gcongr
      exact_mod_cast few
    exact sub_left_lt_of_lt_add (strict.trans_le (by gcongr; exact le_rfl))

/-- At most 32 floored terms fit the 53-bit adder. -/
theorem sum_floors_bounds {ts : List (Int × Int)} {emax : Int} (few : ts.length ≤ 32)
    (bound : ∀ t ∈ ts, t.1 ≠ 0 → log2Scaled t.1.natAbs t.2 ≤ emax) :
    -(2 ^ 52) ≤ (ts.map (floorTo (emax - 46))).sum ∧ (ts.map (floorTo (emax - 46))).sum < 2 ^ 52 := by
  have low := List.card_nsmul_le_sum (ts.map (floorTo (emax - 46))) (-(2 ^ 47))
    (List.forall_mem_map.2 fun t ht => (floorTo_bounds (bound t ht)).1)
  have high := List.sum_le_card_nsmul (ts.map (floorTo (emax - 46))) (2 ^ 47 - 1)
    (List.forall_mem_map.2 fun t ht => (floorTo_bounds (bound t ht)).2)
  rw [List.length_map, nsmul_eq_mul] at low high
  omega

/-- Settles O4: the sum by the floors of its terms, its error and its width by those of one term. -/
theorem groupTruncation : Obligations.GroupTruncation := by
  refine fun ts few => ⟨groupSum_zero, fun emax attained bound => ?_⟩
  have inhabited : ts ≠ [] := by
    obtain ⟨t, ht, -⟩ := attained
    exact List.ne_nil_of_mem ht
  obtain ⟨above, below⟩ := sum_sub_floors_lt inhabited few (emax - 46)
  refine ⟨_, groupSum_of_max attained bound, ?_, above, ?_, sum_floors_bounds few bound⟩
  · rw [termVal_sum, List.map_map]
    congr 1
    exact List.map_congr_left fun t _ => by rw [Function.comp_apply, floorTo_eq]; rfl
  · rwa [sub_add_eq_add_sub, show emax + 5 - 46 = emax - 41 by ring] at below

end Sys2Proof.Machine
end

section
/-! # Row statistics, draws, grids and norms

VROWSTAT, VRNG, VSRND and VNORM2 are permitted in stream mode alone, where no result is hidden: what one of them checks and reads is the
same in the state in which it starts and in the state in which it acts, and the rest is its body run on operands that pass. -/

namespace Sys2Proof.Machine

open Sys2Proof

/-! ## The state in which an instruction acts (R123, R164) -/

section Begun
variable (s : State) (q : Nat) (i : Issue)

@[simp] theorem vCheck_vBegun (o : VOp) (used unused : List Nat) (sr streamOnly : Bool) :
    vCheck ((vBegun s q i).quern q) o used unused sr streamOnly = vCheck (s.quern q) o used unused sr streamOnly :=
  vCheck_congr (by rw [quern_vBegun]) ..

@[simp] theorem vCount_vBegun (o : VOp) : vCount ((vBegun s q i).quern q) o = vCount (s.quern q) o :=
  vCountIn_congr (by rw [quern_vBegun]) (by rw [quern_vBegun]) ..

@[simp] theorem dslots_vBegun : ((vBegun s q i).quern q).dslots = (s.quern q).dslots := by rw [quern_vBegun]

@[simp] theorem vMem_vBegun (slot n : Nat) : vMem ((vBegun s q i).quern q) q slot n = vMem (s.quern q) q slot n :=
  vMem_congr (dslots_vBegun s q i) ..

@[simp] theorem needDesc_vBegun (slot : Nat) : needDesc ((vBegun s q i).quern q) slot = needDesc (s.quern q) slot :=
  (congrArg (needDesc · slot) (quern_vBegun s q i) :)

@[simp] theorem compFmt_vBegun (o : VOp) (used : List Nat) : compFmt ((vBegun s q i).quern q) o used = compFmt (s.quern q) o used :=
  (congrArg (compFmt · o used) (quern_vBegun s q i) :)

@[simp] theorem normFirst_vBegun (a : Nat) : normFirst ((vBegun s q i).quern q) a = normFirst (s.quern q) a :=
  (congrArg (normFirst · a) (quern_vBegun s q i) :)

@[simp] theorem slot_vBegun (n : Nat) : ((vBegun s q i).quern q).slot n = (s.quern q).slot n :=
  (congrArg (Quern.slot · n) (quern_vBegun s q i) :)

@[simp] theorem ordinal_vBegun : ((vBegun s q i).quern q).ordinal = (s.quern q).ordinal :=
  (congrArg Quern.ordinal (quern_vBegun s q i) :)

@[simp] theorem drawStep_vBegun : ((vBegun s q i).quern q).drawStep = (s.quern q).drawStep :=
  (congrArg Quern.drawStep (quern_vBegun s q i) :)

@[simp] theorem readByte_vBegun : readByte (vBegun s q i) = readByte s := rfl

@[simp] theorem vDraw_vBegun (o : VOp) (e : Nat) : vDraw (vBegun s q i) q o e = vDraw s q o e := by
  simp [vDraw]

end Begun

/-- An instruction runs when its body answers, in the state in which it acts, with a state that satisfies `P`. -/
theorem startV_runs {s : State} {q : Nat} {op : Opcode} {i : Issue} {body : State → Except Nat State} {P : State → Prop}
    (h : Starts s q .v op i) (hb : ∃ t, body (vBegun s q i) = .ok t ∧ P t) :
    ∃ t, startV q op i body s = .next (vEnded s t q i) ∧ P t :=
  hb.imp fun _ ⟨ht, hp⟩ => ⟨startV_ok h ht, hp⟩

/-! ## What passed checks say (R113, R117) -/

@[simp] theorem ok_bind {α β : Type} (a : α) (f : α → Except Nat β) : ((Except.ok a : Except Nat α) >>= f) = f a := rfl

theorem of_need_ok {b : Bool} {code : Nat} {u : Unit} (h : need b code = .ok u) : b = true := by
  cases b
  · cases h
  · rfl

/-- An instruction that register mode does not permit, and whose checks have passed, stands in stream mode and names no register. -/
theorem stream_of_vCheck {v : Quern} {o : VOp} {used unused : List Nat} {sr : Bool} (h : vCheck v o used unused sr true = .ok ()) :
    v.org = false ∧ ∀ x ∈ used, isReg x = false := by
  unfold vCheck at h
  obtain ⟨-, -, h⟩ := bind_ok h
  obtain ⟨-, -, h⟩ := bind_ok h
  obtain ⟨-, -, h⟩ := bind_ok h
  cases horg : v.org <;> simp only [horg, if_true, Bool.false_eq_true, if_false] at h
  · obtain ⟨-, -, h⟩ := bind_ok h
    obtain ⟨-, -, h⟩ := bind_ok h
    have noReg := of_need_ok h
    simp only [List.any_cons, Bool.not_or, Bool.and_eq_true, Bool.not_eq_true', List.any_eq_false] at noReg
    exact ⟨rfl, fun x hx => by simpa using noReg.2 x hx⟩
  · obtain ⟨-, -, h⟩ := bind_ok h
    cases of_need_ok h

theorem needDesc_of_vMem {v : Quern} {q slot n k : Nat} {d : Desc} (h : vMem v q slot n = .ok (d, k)) : needDesc v slot = .ok d := by
  unfold vMem at h
  obtain ⟨_, hd, h⟩ := bind_ok h
  obtain ⟨-, -, h⟩ := bind_ok h
  obtain ⟨-, -, h⟩ := bind_ok h
  cases h
  exact hd

/-! ## What stream mode reads (R119) -/

theorem vByte_of_stream {s : State} {q : Nat} (h : (s.quern q).org = false) : vByte s q = readByte s := by
  funext a
  simp [vByte, h]

theorem vByte_vBegun {s : State} {q : Nat} (h : (s.quern q).org = false) (i : Issue) : vByte (vBegun s q i) q = readByte s :=
  vByte_of_stream (by rw [quern_vBegun, h])

/-- In stream mode nothing is hidden, so the start changes no value of a source that is no register. -/
theorem vSource_vBegun {s : State} {q x : Nat} (h : (s.quern q).org = false) (hx : isReg x = false) (i : Issue) (o : VOp) (comp : Fmt)
    (n : Nat) : vSource (vBegun s q i) q o comp x n = vSource s q o comp x n := by
  simp [vSource, hx, vByte_vBegun h, vByte_of_stream h]

/-! ## Results -/

/-- Two words a row (R133). -/
theorem length_flatMap_pair {α β : Type} (f g : α → β) (l : List α) : (l.flatMap (fun x => [f x, g x])).length = 2 * l.length := by
  simp [mul_comm]

/-- A fold that appends one entry a step, whatever it keeps beside them, lists the entries (R140). -/
theorem fst_foldl_append {α β γ : Type} (f : α → β) (g : List β × γ → α → γ) (l : List α) (acc : List β × γ) :
    (l.foldl (fun acc x => (acc.1 ++ [f x], g acc x)) acc).1 = acc.1 ++ l.map f := by
  induction l generalizing acc with
  | nil => simp
  | cons x l ih => simp [ih]

/-- The cursors of the named slots move on, whatever else the Quern holds (R117). -/
theorem dslots_advCursors (v : Quern) (slots : List Nat) (n : Nat) : (advCursors v slots n).dslots
    = (slots.filter isSlot).eraseDups.foldl
        (fun t k => t.set k { t.getD k {} with cursor := (t.getD k {}).cursor + n }) v.dslots :=
  (List.foldl_hom Quern.dslots fun _ _ => rfl).symm

/-- Settles O8: each body answers once its checks have passed, and the bytes of its store are read off. -/
theorem vectorRowsDrawsAndNorms : Obligations.VectorRowsDrawsAndNorms := by
  intro s q i n
  refine ⟨fun d dd k kd hs hres ha hcheck hsub hd hn hm h64 hwide hrows hdm hfmt => startV_runs (body := vRowstat q i) hs ?rowstat,
    fun d k hs hop hcheck hsub hd hn hm hfmt => startV_runs (body := vRng q i) hs ?rng,
    fun comp vals d k hs hop hsub hcheck hcomp h64 hlo hhi hn hvals hm hwide => startV_runs (body := vSrnd q i) hs ?srnd,
    fun dd hs hsub hd hdd hraw hin => ⟨fun hop hcheck => startV_runs (body := vNorm2 q i) hs ?fold,
      fun comp vals hop hcheck hcomp h64 hn hvals => startV_runs (body := vNorm2 q i) hs ?add⟩⟩
  case rowstat =>
    have org := (stream_of_vCheck hcheck).1
    simp [vRowstat, hres, ha, hcheck, hsub, hd, hn, needDesc_of_vMem hm, hm, bne_iff_ne.mpr h64, hwide, hrows, hdm, hfmt, vByte_vBegun org,
      State.updQuern, length_flatMap_pair, -List.length_flatMap]
  case rng =>
    have fits : (if (vaOp i).subop = 0 then d.fmt == .raw64
        else if (vaOp i).subop = 1 then d.fmt == .fp32 else d.fmt == .fp32 || d.fmt == .bf16 || d.fmt == .fp16) = true := by
      split_ifs at hfmt ⊢ <;> simpa [or_assoc] using hfmt
    simp [vRng, vaReserved, hop, hcheck, hsub, hd, hn, needDesc_of_vMem hm, hm, fits, State.updQuern]
  case srnd =>
    obtain ⟨org, noReg⟩ := stream_of_vCheck hcheck
    have values := (vSource_vBegun org (noReg (vaOp i).a (by simp)) i (vaOp i) comp n).trans hvals
    simp [vSrnd, vaReserved, hop, hsub, hcheck, hcomp, bne_iff_ne.mpr h64, hlo, hhi, hn, values, hm, hwide, vMode_vBegun, State.updQuern,
      fst_foldl_append]
  case fold =>
    have org := (stream_of_vCheck hcheck).1
    simp [vNorm2, vaReserved, hsub, hd, hdd, bne_iff_ne.mpr hraw, hin, hop, hcheck, vByte_vBegun org]
  case add =>
    obtain ⟨org, noReg⟩ := stream_of_vCheck hcheck
    have values := (vSource_vBegun org (noReg (vaOp i).a (by simp)) i (vaOp i) comp n).trans hvals
    simp [vNorm2, vaReserved, hsub, hd, hdd, bne_iff_ne.mpr hraw, hin, hop, hcheck, hcomp, bne_iff_ne.mpr h64, hn, values,
      vByte_vBegun org, State.updQuern, dslots_advCursors, Quern.raiseFl]

end Sys2Proof.Machine
end

section
/-! # The weight update

VUPD is permitted in stream mode alone. Behind its checks stand a control block that must be marked FINAL, the mark NONFINITE that skips the
step, and three stores. A store through one destination slot leaves the descriptor slots, so the next one finds its operand as the checks
found it. -/

namespace Sys2Proof.Machine

open Sys2Proof

/-- A V-stream instruction that starts and fails stops its program. -/
theorem startV_fail {q op i body s code} (h : Starts s q .v op i) (hb : body (vBegun s q i) = .error code) :
    startV q op i body s = .next (failInstr (begun s q i) q .v ((s.quern q).stream .v).pos code) := by
  refine startInstr_fail h rfl ?_
  simp only [vBegun] at hb
  simp only [hb, Bind.bind, Except.bind]

/-! ## A store through a destination slot (R151) -/

@[simp] theorem dslots_setSlot (v : Quern) (n : Nat) (t : StatusSlot) : (v.setSlot n t).dslots = v.dslots := by
  unfold Quern.setSlot
  split <;> rfl

/-- A destination that names its elements takes the words, and the descriptor slots stay. -/
theorem updPut_ok {s : State} {q slot n : Nat} {p : Desc × Nat} (h : vMem (s.quern q) q slot n = .ok p) (roll : Bool) (words : List Nat) :
    ∃ t, updPut q slot n roll words s = .ok t ∧ (t.quern q).dslots = (s.quern q).dslots := by
  simp [updPut, h]

/-- What a list of lookups has found, each of them finds. -/
theorem exists_of_mapM_ok {α β : Type} {f : α → Except Nat β} {l : List α} {r : List β} (h : l.mapM f = .ok r) {x : α} (hx : x ∈ l) :
    ∃ y, f x = .ok y := by
  induction l generalizing r with
  | nil => cases hx
  | cons a l ih =>
    rw [List.mapM_cons] at h
    obtain ⟨y, hy, h⟩ := bind_ok h
    obtain ⟨_, hl, _⟩ := bind_ok h
    rcases List.mem_cons.mp hx with rfl | hx
    · exact ⟨y, hy⟩
    · exact ih hl hx

/-! ## What VUPD reads and writes (R149 to R151, R203) -/

/-- The slots that VUPD names: w, m, v, the gradient, and the three destinations. -/
def updNamed (o : VOp) : List Nat := [o.a, o.a + 1, o.a + 2, o.b, o.d, o.d + 1, o.d + 2]

/-- The checks of VUPD in the state in which it acts, and the operands and the control block that they find. -/
structure UpdReads (s : State) (q : Nat) (o : VOp) (n : Nat) (ops : List (Desc × Nat)) (cb : Desc) : Prop where
  reserved : vaReserved o true false = .ok ()
  check : vCheck (s.quern q) o [o.a, o.b] [] false true = .ok ()
  forms : (decide (o.subop ≤ 2) && isSlot o.a && isSlot o.b && isSlot o.d) = true
  places : (decide (o.a + 2 ≤ 63) && decide (o.d + 2 ≤ 63) && decide (o.b + 1 ≤ 63)) = true
  count : vCount (s.quern q) o = .ok n
  operands : (updNamed o).mapM (fun x => vMem (s.quern q) q x n) = .ok ops
  format : ∀ x ∈ ops, x.1.fmt = .fp32
  control : needDesc (s.quern q) (o.b + 1) = .ok cb
  controlFormat : cb.fmt ≠ .raw64
  controlBytes : rangesIn [((cb.base : Int), 64)] (winBase q) (winBase q + winEnd) = true

/-- The words of w′. -/
def updWeights (s : State) (q : Nat) (o : VOp) (n : Nat) (ops : List (Desc × Nat)) (u : Ucb) : List Nat :=
  (List.range n).map (fun j => enc32 (updOf s q ops n o.subop u j).1.1)

/-- The words of m′ (`which` = 0) or v′ (`which` = 1), a `part` of each element's update: what the rule computes, or a free value of all that
the instruction reads for the element (assumption 9). -/
def updMoments (s : State) (q : Nat) (o : VOp) (n : Nat) (ops : List (Desc × Nat)) (base which : Nat)
    (part : VF × Option Val × Option Val → Option Val) : List Nat :=
  (List.range n).map (fun j =>
    wordOr (o.subop :: which :: rdNat (vByte s q) base 64 :: (ops.take 4).map (fun x => bitsAt (vByte s q) (x.1.bitOf (x.2 + j)) 32))
      (part (updOf s q ops n o.subop (ucbAt (vByte s q) base) j)))

/-- The flags of an update: those of the gradient factor and of every element. -/
def updFlags (s : State) (q : Nat) (o : VOp) (n : Nat) (ops : List (Desc × Nat)) (u : Ucb) : Fl :=
  ((List.range n).map (updOf s q ops n o.subop u)).foldl (fun g r => g ||| r.1.2) (gradientFactor u).2

/-- The cursors of the named slots move on (R117). -/
def updMoved (s : State) (q : Nat) (o : VOp) (n : Nat) : State := s.updQuern q (fun v => advCursors v (updNamed o) n)

/-- The state in which VUPD stores: its flags have been raised. -/
def updFlagged (s : State) (q : Nat) (o : VOp) (n : Nat) (ops : List (Desc × Nat)) (u : Ucb) : State :=
  s.updQuern q (fun v => v.raiseFl (updFlags s q o n ops u))

/-- The three stores of VUPD. -/
def updStores (s : State) (q : Nat) (o : VOp) (n : Nat) (ops : List (Desc × Nat)) (base : Nat) : Except Nat State := do
  let u := ucbAt (vByte s q) base
  let s1 ← updPut q o.d n o.roll (updWeights s q o n ops u) (updFlagged s q o n ops u)
  let s2 ← updPut q (o.d + 1) n o.roll (updMoments s q o n ops base 0 (·.2.1)) s1
  let s3 ← updPut q (o.d + 2) n o.roll (updMoments s q o n ops base 1 (·.2.2)) s2
  .ok (updMoved s3 q o n)

section Reads
variable {s : State} {q n : Nat} {o : VOp} {ops : List (Desc × Nat)} {cb : Desc}

/-- A value that the rule computes is the one whose word is written. -/
theorem updMoments_getElem? {base which j : Nat} {part : VF × Option Val × Option Val → Option Val} {x : Val} (hj : j < n)
    (hx : part (updOf s q ops n o.subop (ucbAt (vByte s q) base) j) = some x) :
    (updMoments s q o n ops base which part)[j]? = some (enc32 x) := by
  simp [updMoments, hj, hx, wordOr]

theorem length_updMoments (base which : Nat) (part : VF × Option Val × Option Val → Option Val) :
    (updMoments s q o n ops base which part).length = n := by
  simp [updMoments]

/-- The state in which the instruction acts passes the checks that the one in which it starts passes. -/
theorem UpdReads.atBegun (h : UpdReads s q o n ops cb) (i : Issue) : UpdReads (vBegun s q i) q o n ops cb where
  reserved := h.reserved
  check := by simpa using h.check
  forms := h.forms
  places := h.places
  count := by simpa using h.count
  operands := by simpa using h.operands
  format := h.format
  control := by simpa using h.control
  controlFormat := h.controlFormat
  controlBytes := h.controlBytes

/-- A VUPD that has passed its checks is what its control block makes of it. -/
theorem UpdReads.vUpd_eq {i : Issue} (h : UpdReads s q (vaOp i) n ops cb) : vUpd q i s = (do
    need (ucbAt (vByte s q) cb.base).final 0x1F
    if (ucbAt (vByte s q) cb.base).nonfinite then .ok (updMoved s q (vaOp i) n) else updStores s q (vaOp i) n ops cb.base) := by
  obtain ⟨reserved, check, forms, places, count, operands, format, control, controlFormat, controlBytes⟩ := h
  have notFp64 : ops.all (fun x => x.1.fmt != .fp64) = true := List.all_eq_true.mpr fun x hx => by simp [format x hx]
  have fp32 : ops.all (fun x => x.1.fmt == .fp32) = true := List.all_eq_true.mpr fun x hx => by simp [format x hx]
  unfold updNamed at operands
  simp only [vUpd, reserved, check, forms, places, count, operands, notFp64, fp32, control, bne_iff_ne.mpr controlFormat, controlBytes,
    need_true, ok_bind, ← List.map_prod_left_eq_zip, List.map_map]
  rfl

/-- The three stores of a VUPD that has passed its checks answer. -/
theorem UpdReads.stores (h : UpdReads s q o n ops cb) : ∃ s1 s2 s3,
    updPut q o.d n o.roll (updWeights s q o n ops (ucbAt (vByte s q) cb.base)) (updFlagged s q o n ops (ucbAt (vByte s q) cb.base)) = .ok s1
    ∧ updPut q (o.d + 1) n o.roll (updMoments s q o n ops cb.base 0 (·.2.1)) s1 = .ok s2
    ∧ updPut q (o.d + 2) n o.roll (updMoments s q o n ops cb.base 1 (·.2.2)) s2 = .ok s3
    ∧ updStores s q o n ops cb.base = .ok (updMoved s3 q o n) := by
  have flagged (u : Ucb) : ((updFlagged s q o n ops u).quern q).dslots = (s.quern q).dslots := by simp [updFlagged, Quern.raiseFl]
  have dest (u : State) (hu : (u.quern q).dslots = (s.quern q).dslots) (x : Nat) (hx : x ∈ updNamed o) (words : List Nat) :
      ∃ t, updPut q x n o.roll words u = .ok t ∧ (t.quern q).dslots = (s.quern q).dslots := by
    obtain ⟨p, hp⟩ := exists_of_mapM_ok h.operands hx
    obtain ⟨t, ht, hslots⟩ := updPut_ok ((vMem_congr hu ..).trans hp) o.roll words
    exact ⟨t, ht, hslots.trans hu⟩
  obtain ⟨s1, put1, slots1⟩ := dest _ (flagged (ucbAt (vByte s q) cb.base)) o.d (by simp [updNamed]) (updWeights s q o n ops _)
  obtain ⟨s2, put2, slots2⟩ := dest s1 slots1 (o.d + 1) (by simp [updNamed]) (updMoments s q o n ops cb.base 0 (·.2.1))
  obtain ⟨s3, put3, -⟩ := dest s2 slots2 (o.d + 2) (by simp [updNamed]) (updMoments s q o n ops cb.base 1 (·.2.2))
  exact ⟨s1, s2, s3, put1, put2, put3, by simp only [updStores, put1, put2, put3, ok_bind]⟩

end Reads

/-- In stream mode the start changes no value that VUPD reads. -/
theorem updOf_vBegun {s : State} {q : Nat} (h : (s.quern q).org = false) (i : Issue) :
    updOf (vBegun s q i) q = updOf s q := by
  unfold updOf updSource
  rw [vByte_vBegun h, vByte_of_stream h]

/-- Settles O9: the body is what the control block makes of it, and each of its stores answers. -/
theorem weightUpdate : Obligations.WeightUpdate := by
  intro s q i n ops cb o b named u hs hres hcheck hsub ha hb hd ha2 hd2 hb1 hn hops hfmt hcb hraw hin
  have reads : UpdReads s q o n ops cb := ⟨hres, hcheck, by simp [*], by simp [*], hn, hops, hfmt, hcb, hraw, hin⟩
  have org : (s.quern q).org = false := (stream_of_vCheck hcheck).1
  have control : u = ucbAt (vByte b q) cb.base := congrArg (ucbAt · cb.base) (vByte_vBegun org i).symm
  have body := (reads.atBegun i).vUpd_eq
  rw [← updOf_vBegun org i, control]
  refine ⟨fun hfin => startV_fail (body := vUpd q i) hs ?_, fun hfin hnon => startV_ok (body := vUpd q i) hs ?_, fun hfin hnon => ?_⟩
  · rw [body, hfin]
    rfl
  · rw [body, hfin, hnon]
    rfl
  · obtain ⟨s1, s2, s3, put1, put2, put3, stores⟩ := (reads.atBegun i).stores
    have run : vUpd q i b = .ok (updMoved s3 q o n) := by
      rw [body, hfin, hnon, ← stores]
      rfl
    exact ⟨s1, s2, s3, _, _, _, put1, put2, put3, length_updMoments .., length_updMoments ..,
      fun j hj x => updMoments_getElem? (part := (·.2.1)) hj, fun j hj x => updMoments_getElem? (part := (·.2.2)) hj,
      startV_ok (body := vUpd q i) hs run⟩

end Sys2Proof.Machine
end

section
/-! # Moves, prefetches, drops and fences

What an access does to the Store's lines reaches no byte, no page and no Quern, so a move writes what it read. Of the instructions of the X
stream XDROP alone can change a byte, where it drops a dirty line. -/

namespace Sys2Proof.Machine

open Sys2Proof

/-! ## The Store's lines (R227, R228, R232) -/

/-- The state without what an access changes at the Store's lines. -/
def State.besideLines (s : State) : State := { s with mm := { s.mm with lines := [], useNo := 0, keepOvf := 0 } }

@[simp] theorem besideLines_shrinkSet (set n k : Nat) (s : State) : (shrinkSet set n k s).besideLines = s.besideLines := by
  obtain ⟨l, h⟩ := shrinkSet_eq set n k s
  rw [h]
  rfl

@[simp] theorem besideLines_setLine (s : State) (l : Nat) (v : StoreLine) : (setLine s l v).besideLines = s.besideLines := by
  unfold setLine
  split
  · rfl
  · split
    · rfl
    · exact besideLines_shrinkSet ..

@[simp] theorem besideLines_pinLine (s : State) (l owner : Nat) : (pinLine s l owner).besideLines = s.besideLines := by
  unfold pinLine
  dsimp only
  split
  · rfl
  · split <;> exact besideLines_setLine ..

@[simp] theorem besideLines_touchLine (s : State) (hint owner l : Nat) : (touchLine s hint owner l).besideLines = s.besideLines := by
  have used (u : State) : (useLine u l).besideLines = u.besideLines := by
    unfold useLine
    split <;> rfl
  rw [touchLine, used]
  unfold hintLine
  split
  · simp
  · split
    · split
      · simp
      · split <;> simp
    · rfl

@[simp] theorem besideLines_touchTensor (s : State) (owner : Nat) (d : Desc) : (touchTensor s owner d).besideLines = s.besideLines :=
  foldl_keeps State.besideLines (fun s l => besideLines_touchLine s d.hint owner l) _ s

@[simp] theorem besideLines_prefetchLine (s : State) (p : Prefetch) (v : Nat) : (prefetchLine s p v).besideLines = s.besideLines := by
  unfold prefetchLine
  dsimp only
  split
  · simp
  · split <;> simp

section SameBeside
variable {s t : State} (h : t.besideLines = s.besideLines)
include h

theorem mem_of_besideLines : t.mem = s.mem := (congrArg State.mem h :)

theorem querns_of_besideLines : t.querns = s.querns := (congrArg State.querns h :)

theorem imp_of_besideLines : t.mm.imp = s.mm.imp := (congrArg (·.mm.imp) h :)

theorem prefetch_of_besideLines : t.mm.prefetch = s.mm.prefetch := (congrArg (·.mm.prefetch) h :)

theorem writeErr_of_besideLines : writeErr t = writeErr s := (congrArg writeErr h :)

theorem uncovered_of_besideLines : uncovered t = uncovered s := (congrArg uncovered h :)

end SameBeside

/-! ## Moves take a tag (R177, R178) -/

theorem moveEnds_congr {v u : Quern} (h : u.dslots = v.dslots) (q : Nat) (i : Issue) : moveEnds q i u = moveEnds q i v := by
  unfold moveEnds needDesc Quern.dslot
  rw [h]

theorem fetchEnds_congr {v u : Quern} (h : u.dslots = v.dslots) (q : Nat) (i : Issue) : fetchEnds q i u = fetchEnds q i v := by
  unfold fetchEnds needDesc Quern.dslot
  rw [h]

/-- The move that an instruction puts in flight. -/
def issuedMove (v : Quern) (i : Issue) (ends : MoveEnd × MoveEnd) (wgb : Option Nat) : Move :=
  { tag := freeTag v, ord := v.xord, src := ends.1, dst := ends.2, last := fld i 16 1 = 1, wgbend := wgb,
    idx := (v.stream .x).pos, sen := i.sen, stok := i.stok.toNat }

theorem moves_issueMove (s : State) (q : Nat) (i : Issue) (ends : MoveEnd × MoveEnd) (wgb : Option Nat) :
    ((issueMove q i ends wgb (begun s q i)).quern q).moves = (s.quern q).moves ++ [issuedMove (s.quern q) i ends wgb] := by
  rw [issueMove, quern_updQuern_same, quern_begun]
  rfl

section Issue
variable {s : State} {q : Fin 128} {i : Issue} {ends : MoveEnd × MoveEnd} (free : (s.quern q).moves.length < 96)
include free

theorem exec_xmove (h : Starts s q .x .xmove i) (he : moveEnds q i (s.quern q) = .ok ends) : exec (.xmove q i) s
    = .next (advance (issueMove q i ends (if fld i 17 1 = 1 then some (fld i 18 2) else none) (begun s q i)) q .x) := by
  have begunEnds : moveEnds q i ((begun s q i).quern q) = .ok ends := (moveEnds_congr (by rw [quern_begun]) q i).trans he
  change execXmove q i s = _
  exact startInstr_later h (decide_eq_true free) (by rw [begunEnds]; rfl)

theorem exec_xfetch (h : Starts s q .x .xfetch i) (he : fetchEnds q i (s.quern q) = .ok ends) : exec (.xfetch q i) s
    = .next (advance (issueMove q i ends none (begun s q i)) q .x) := by
  have begunEnds : fetchEnds q i ((begun s q i).quern q) = .ok ends := (fetchEnds_congr (by rw [quern_begun]) q i).trans he
  change execXfetch q i s = _
  exact startInstr_later h (decide_eq_true free) (by rw [begunEnds]; rfl)

end Issue

/-! ## Moves complete (R205, R206) -/

/-- A write that meets no failing byte stores every byte. -/
theorem writeMem_stores {s : State} {ws : List (Nat × W8)}
    (h : ∀ w ∈ ws, writeErr s false w.1 ≠ some .addr ∧ uncovered s (ws.map (·.1)) w.1 = false) :
    writeMem s ws = (storeData s ws, none) := by
  have noAddr : (ws.map (·.1)).any (fun a => writeErr s false a == some .addr) = false := by
    simpa [List.any_eq_false] using fun a b hw => (h (a, b) hw).1
  have noData : (ws.map (·.1)).any (uncovered s (ws.map (·.1))) = false := by
    simpa only [List.any_eq_false, List.mem_map, forall_exists_index, and_imp, forall_apply_eq_imp_iff₂, Bool.not_eq_true] using
      fun w hw => (h w hw).2
  simp only [writeMem, noAddr, noData, Bool.false_eq_true, if_false]

/-- The Store has seen the accesses of a move (R176, R228). -/
def moveTouched (s : State) (q : Nat) (m : Move) : State := m.tensors.foldl (fun s d => touchTensor s (s.quern q).ctxOf d) s

theorem besideLines_moveTouched (s : State) (q : Nat) (m : Move) : (moveTouched s q m).besideLines = s.besideLines :=
  foldl_keeps State.besideLines (fun s d => besideLines_touchTensor s (s.quern q).ctxOf d) _ s

/-- Between two tensors whose every byte can be read a move delivers the copied bytes. -/
theorem moveOut_tensors {s : State} {q : Nat} {m : Move} {a b : DSlot} {da db : Desc} (hs : m.src = .tensor a) (hd : m.dst = .tensor b)
    (ha : descOf a = some da) (hb : descOf b = some db) (hr : readable s da = (da.count, none)) :
    moveOut s q m = (.mem (copyTensor (readByte s) da db da.count), none) := by
  simp only [moveOut, hs, hd, ha, hb, hr]

/-- A plain move whose bytes can all be written stores them, frees its tag and signals. -/
theorem completeMove_stores {s : State} {q : Nat} {m : Move} {ws : List (Nat × W8)} (hspace : m.tensors.all Desc.inSpace = true)
    (hlast : m.last = false) (hwgb : m.wgbend = none) (hout : moveOut s q m = (.mem ws, none))
    (hw : ∀ w ∈ ws, writeErr s false w.1 ≠ some .addr ∧ uncovered s (ws.map (·.1)) w.1 = false) :
    completeMove q m s = fireFences q (signalIf (endMove (forgetSpecial (storeData (moveTouched s q m) ws) ws) q m.tag)
      q .x m.idx m.sen m.stok) := by
  have beside := besideLines_moveTouched s q m
  have stored : writeMem (moveTouched s q m) ws = (storeData (moveTouched s q m) ws, none) := writeMem_stores (by
    rwa [writeErr_of_besideLines beside, uncovered_of_besideLines beside])
  unfold moveTouched at stored
  simp only [completeMove, hspace, hout, deliver, stored, hlast, wgbendClear, hwgb, moveTouched, Bool.not_true, Bool.false_eq_true, if_false]
  cases m.src.tensor? <;> rfl

theorem exec_moveComplete {s : State} {q : Fin 128} {tag : Nat} {m : Move} (hc : s.board.haltedByClock = false)
    (hm : (s.quern q).moves.find? (fun x => x.tag == tag) = some m) :
    exec (.moveComplete q tag) s = .next (releaseDue (completeMove q m s)) := by
  change execMoveComplete q tag s = _
  rw [execMoveComplete, whileClocked_runs hc, hm]

/-- Settles O10: an issue by the move that it puts in flight, a completion by what the move delivers. -/
theorem movesIssueAndComplete : Obligations.MovesIssueAndComplete := by
  intro s q
  refine ⟨fun i ends h free he => ⟨_, _, exec_xmove free h he, rfl, moves_issueMove .., rfl, rfl, rfl, rfl, rfl, rfl, rfl⟩,
    fun i ends h free he => ⟨_, _, exec_xfetch free h he, rfl, moves_issueMove .., rfl, rfl, rfl, rfl, rfl⟩,
    fun tag m a b da db hc hm hs hd ha hb hina hinb hlast hwgb hr hw => ?_⟩
  have space : m.tensors.all Desc.inSpace = true := by
    simp [Move.tensors, hs, hd, MoveEnd.tensor?, ha, hb, hina, hinb]
  have beside := besideLines_moveTouched s q m
  refine ⟨moveTouched s q m, mem_of_besideLines beside, querns_of_besideLines beside, ?_⟩
  rw [exec_moveComplete hc hm, completeMove_stores space hlast hwgb (moveOut_tensors hs hd ha hb hr) hw]

/-! ## Prefetches (R167, R232) -/

/-- Fewer than n numbers leave one below n free. -/
theorem exists_lt_notMem {l : List Nat} {n : Nat} (h : l.length < n) : ∃ k < n, k ∉ l := by
  by_contra! full
  have := (List.nodup_range.subperm fun k hk => full k (List.mem_range.1 hk)).length_le
  rw [List.length_range] at this
  omega

/-- The lowest free prefetcher of a context. -/
def freePrefetcher (s : State) (c : Nat) : Nat := ((List.range 8).find? (fun n => !((prefetchers s c).any (fun p => p.slot == n)))).getD 0

theorem freePrefetcher_spec {s : State} {c : Nat} (h : (prefetchers s c).length < 8) :
    freePrefetcher s c < 8 ∧ ∀ x ∈ prefetchers s c, x.slot ≠ freePrefetcher s c := by
  unfold freePrefetcher
  cases found : (List.range 8).find? (fun n => !((prefetchers s c).any (fun p => p.slot == n))) with
  | none =>
    obtain ⟨k, hk, hfree⟩ := exists_lt_notMem (l := (prefetchers s c).map (·.slot)) (by simpa using h)
    have taken := List.find?_eq_none.1 found k (List.mem_range.2 hk)
    simp only [Bool.not_eq_true, Bool.not_eq_false', List.any_eq_true, beq_iff_eq] at taken
    exact absurd (List.mem_map.2 taken) hfree
  | some k =>
    have free := List.find?_some found
    simp only [Bool.not_eq_true', List.any_eq_false, beq_iff_eq] at free
    exact ⟨List.mem_range.1 (List.mem_of_find?_eq_some found), free⟩

/-- The prefetch that an XPREF of a range puts to work, in the state in which it acts. -/
def issuedPrefetch (s : State) (q : Nat) (i : Issue) (d : Desc) : Prefetch :=
  { ord := (s.quern q).xord, ctx := (s.quern q).ctxOf, slot := freePrefetcher s (s.quern q).ctxOf, quern := q
    lines := (d.addrs.map (· / 512)).eraseDups, hint := BitVec.ofNat 2 d.hint, sen := i.sen, stok := i.stok.toNat
    idx := ((s.quern q).stream .x).pos }

/-- The prefetch is at work, and the Quern has counted it (R167). -/
def prefetching (s : State) (q : Nat) (p : Prefetch) : State :=
  { s with mm := { s.mm with prefetch := s.mm.prefetch ++ [p] } }.setQuern q { s.quern q with xord := (s.quern q).xord + 1 }

theorem ctxOf_begun (s : State) (q : Nat) (i : Issue) : ((begun s q i).quern q).ctxOf = (s.quern q).ctxOf := by
  rw [quern_begun]
  rfl

/-- The header wait changes nothing that the check of a range reads. -/
theorem binRange_begun (s : State) (q : Nat) (i : Issue) : binRange i (begun s q i) ((begun s q i).quern q) = binRange i s (s.quern q) := by
  unfold binRange needDesc Quern.dslot
  rw [quern_begun]
  rfl

theorem exec_xpref {s : State} {q : Fin 128} {i : Issue} {d : Desc} (h : Starts s q .x .xpref i)
    (free : (prefetchers s (s.quern q).ctxOf).length < 8) (ho : i.ops >>> 6 = 0) (hd : binRange i s (s.quern q) = .ok d) :
    exec (.xpref q i) s = .next (advance (prefetching (begun s q i) q (issuedPrefetch (begun s q i) q i d)) q .x) := by
  change execXpref q i s = _
  refine startInstr_later h (decide_eq_true free) ?_
  simp only [needTop_of ho, binRange_begun, hd, ok_bind]
  rfl

/-- The lines of a prefetch that can be read have been placed. -/
def linesPlaced (s : State) (p : Prefetch) : State := (p.lines.filter (linePlaceable s)).foldl (fun s v => prefetchLine s p v) s

theorem besideLines_linesPlaced (s : State) (p : Prefetch) : (linesPlaced s p).besideLines = s.besideLines :=
  foldl_keeps State.besideLines (fun s v => besideLines_prefetchLine s p v) _ s

/-- A prefetch has ended: its lines are placed, and its prefetcher is free. -/
def prefetched (s : State) (p : Prefetch) : State :=
  { linesPlaced s p with mm := { (linesPlaced s p).mm with
      prefetch := (linesPlaced s p).mm.prefetch.filter (fun x => !(x.ctx == p.ctx && x.slot == p.slot)) } }

theorem prefetch_prefetched (s : State) (p : Prefetch) :
    (prefetched s p).mm.prefetch = s.mm.prefetch.filter (fun x => !(x.ctx == p.ctx && x.slot == p.slot)) := by
  rw [prefetched, prefetch_of_besideLines (besideLines_linesPlaced s p)]

theorem exec_prefetchComplete {s : State} {c : Fin 32} {slot : Fin 8} {p : Prefetch} (hc : s.board.haltedByClock = false)
    (hp : (prefetchers s c).find? (fun p => p.slot == slot.val) = some p) : exec (.prefetchComplete c slot) s
    = .next (fireFences p.quern (signalIf (prefetched s p) p.quern .x p.idx p.sen p.stok)) := by
  change execPrefetchComplete c slot s = _
  rw [execPrefetchComplete, whileClocked_runs hc, hp]
  rfl

/-! ## Drops (R228) -/

/-- What XDROP makes of one line: a pinned line becomes normal, a discardable one goes. -/
def StoreLine.xdropped (v : StoreLine) : Option StoreLine :=
  match v.kind with
  | .normal => some v
  | .pinned => some { v with kind := .normal }
  | .discardable => none

/-- No line that XDROP has left is discardable. -/
theorem kind_of_xdropped {v w : StoreLine} (h : w.xdropped = some v) : v.kind ≠ .discardable := by
  unfold StoreLine.xdropped at h
  cases hk : w.kind <;> simp only [hk, Option.some.injEq, reduceCtorEq] at h <;> subst h
  · simp [hk]
  · simp

/-- XDROP of one line. -/
def xdropLine (s : State) (l : Nat) : State :=
  match s.mm.lines.find? l with
  | some v =>
    if v.kind == .pinned then setLine s l { v with kind := .normal }
    else if v.kind == .discardable then dropLine s l else s
  | none => s

theorem xdropLines_eq (s : State) (ls : List Nat) : xdropLines s ls = ls.foldl xdropLine s := rfl

/-- A line that XDROP has left is left again. -/
theorem bind_xdropped_twice (o : Option StoreLine) : (o.bind StoreLine.xdropped).bind StoreLine.xdropped = o.bind StoreLine.xdropped := by
  cases o with
  | none => rfl
  | some v => cases hk : v.kind <;> simp [StoreLine.xdropped, hk]

theorem setLine_present {s : State} {l : Nat} (h : (Tbl.find? s.mm.lines l).isSome = true) (v : StoreLine) :
    setLine s l v = { s with mm := { s.mm with lines := s.mm.lines.set l v } } := if_pos h

theorem lines_dropLine {s : State} {l : Nat} {v : StoreLine} (h : Tbl.find? s.mm.lines l = some v) :
    (dropLine s l).mm = { s.mm with lines := s.mm.lines.erase l } := by
  unfold dropLine
  rw [h]
  dsimp only
  split
  · split <;> rfl
  · rfl

theorem imp_xdropLine (s : State) (l : Nat) : (xdropLine s l).mm.imp = s.mm.imp := by
  unfold xdropLine
  split
  · next v hv =>
    split
    · exact imp_of_besideLines (besideLines_setLine ..)
    · split
      · rw [lines_dropLine hv]
      · rfl
  · rfl

/-- XDROP of a line reaches that line alone. -/
theorem find?_xdropLine (s : State) (l k : Nat) : Tbl.find? (xdropLine s l).mm.lines k
    = if k = l then (Tbl.find? s.mm.lines l).bind StoreLine.xdropped else Tbl.find? s.mm.lines k := by
  unfold xdropLine
  split
  · next v hv =>
    cases hk : v.kind with
    | normal =>
      by_cases hkl : k = l
      · subst hkl
        simp [hv, StoreLine.xdropped, hk]
      · simp [hkl]
    | pinned =>
      rw [if_pos (by rfl), setLine_present (by rw [hv]; rfl), Tbl.find?_set]
      simp [hv, StoreLine.xdropped, hk]
    | discardable =>
      rw [if_neg (by decide), if_pos (by rfl), lines_dropLine hv]
      by_cases hkl : k = l
      · subst hkl
        simp [hv, StoreLine.xdropped, hk, Tbl.find?_erase_same]
      · simp [hkl, Tbl.find?_erase_ne _ _ _ hkl]
  · next hv =>
    by_cases hkl : k = l
    · subst hkl
      simp [hv]
    · simp [hkl]

theorem find?_xdropLines (s : State) (ls : List Nat) (k : Nat) : Tbl.find? (xdropLines s ls).mm.lines k
    = if k ∈ ls then (Tbl.find? s.mm.lines k).bind StoreLine.xdropped else Tbl.find? s.mm.lines k := by
  rw [xdropLines_eq]
  induction ls generalizing s with
  | nil => rfl
  | cons l ls ih =>
    rw [List.foldl_cons, ih, find?_xdropLine]
    by_cases hkl : k = l
    · subst hkl
      simp [bind_xdropped_twice]
    · simp [hkl]

/-- XDROP of lines none of which is a dirty discardable one changes no byte. -/
theorem mem_xdropLines {s : State} {ls : List Nat}
    (h : ∀ l ∈ ls, ∀ v, Tbl.find? s.mm.lines l = some v → v.kind = .discardable → v.dirty = false) : (xdropLines s ls).mem = s.mem := by
  rw [xdropLines_eq]
  induction ls generalizing s with
  | nil => rfl
  | cons l ls ih =>
    have step : (xdropLine s l).mem = s.mem := by
      unfold xdropLine
      split
      · next v hv =>
        split
        · exact mem_of_besideLines (besideLines_setLine ..)
        · split
          · next hk =>
            simp [dropLine, hv, h l List.mem_cons_self v hv (by simpa using hk)]
          · rfl
      · rfl
    rw [List.foldl_cons, ih, step]
    intro k hk v hv
    rw [find?_xdropLine] at hv
    split at hv
    · obtain ⟨w, -, hw⟩ := Option.bind_eq_some_iff.1 hv
      exact fun hd => absurd hd (kind_of_xdropped hw)
    · exact h k (List.mem_cons_of_mem _ hk) v hv

/-- XDROP has left its lines, and the Quern has counted it (R167). -/
def xdropped (s : State) (q : Nat) (d : Desc) : State :=
  (xdropLines s (linesOf s d.addrs)).setQuern q { s.quern q with xord := (s.quern q).xord + 1 }

theorem exec_xdrop {s : State} {q : Fin 128} {i : Issue} {d : Desc} (h : Starts s q .x .xdrop i) (h6 : fld i 6 10 = 0)
    (h17 : fld i 17 26 = 0) (hd : binRange i s (s.quern q) = .ok d) :
    exec (.xdrop q i) s = .next (ended s (xdropped (begun s q i) q d) q .x i) := by
  change execXdrop q i s = _
  refine startInstr_now h rfl ?_
  simp only [h6, h17, decide_true, Bool.and_self, need_true, binRange_begun, hd, ok_bind]
  rfl

/-! ## Fences (R167) -/

/-- The fence that an XFENCE sets. -/
def issuedFence (s : State) (q : Nat) (i : Issue) : Fence :=
  { ord := (s.quern q).xord, idx := ((s.quern q).stream .x).pos, sen := i.sen, stok := i.stok.toNat }

/-- The state in which a Quern has set a fence. -/
def fencing (s : State) (q : Nat) (i : Issue) : State :=
  (begun s q i).updQuern q (fun v => { v with xord := v.xord + 1, fences := v.fences ++ [issuedFence s q i] })

theorem exec_xfence {s : State} {q : Fin 128} {i : Issue} (h : Starts s q .x .xfence i) (ho : i.ops = 0) :
    exec (.xfence q i) s = .next (fireFences q (advance (fencing s q i) q .x)) := by
  change andThen (startInstr _ _ _ _ _ _ _ _) _ = _
  rw [startInstr_later (t := fencing s q i) h rfl, andThen_next]
  simp only [needTop, ho, fencing, issuedFence, State.updQuern, quern_begun]
  rfl

/-- Settles O11: each instruction by the state that it leaves behind its start, XDROP line by line. -/
theorem prefetchesDropsAndFences : Obligations.PrefetchesDropsAndFences := by
  intro s q i
  refine ⟨fun d h free ho hd => ⟨_, _, exec_xpref h free ho hd, rfl, rfl, rfl, ctxOf_begun s q i, rfl, rfl, rfl, rfl, rfl, ?_⟩,
    fun c slot p hc hp => ⟨_, exec_prefetchComplete hc hp, mem_of_besideLines (t := linesPlaced s p) (besideLines_linesPlaced s p),
      querns_of_besideLines (t := linesPlaced s p) (besideLines_linesPlaced s p), prefetch_prefetched s p⟩,
    fun d h h6 h17 hd => ⟨_, exec_xdrop h h6 h17 hd, ?_, fun l => ?_, mem_xdropLines (s := begun s q i)⟩,
    fun h ho => ⟨_, exec_xfence h ho, rfl, rfl, ?_, ?_⟩⟩
  · rw [← ctxOf_begun s q i] at free ⊢
    exact freePrefetcher_spec (s := begun s q i) free
  · exact foldl_keeps (·.mm.imp) imp_xdropLine _ (begun s q i)
  · change Tbl.find? (xdropLines (begun s q i) (linesOf s d.addrs)).mm.lines l = (Tbl.find? (begun s q i).mm.lines l).bind _
    rw [find?_xdropLines]
    by_cases hl : l ∈ linesOf s d.addrs
    · rw [if_pos hl]
      congr 1
      funext v
      cases hk : v.kind <;> simp [StoreLine.xdropped, hk, hl]
    · simp [hl]
  · rw [fencing, quern_updQuern_same, quern_begun]
  · rw [fencing, quern_updQuern_same, quern_begun]
    rfl

end Sys2Proof.Machine
end

section
/-! # Counters and loops

CWAIT, CSIG, CLOOP and CEND at a Quern's stream and at a stage sequencer, and the end of a stage program. -/

namespace Sys2Proof.Machine

open Sys2Proof

/-! ## Streams and counters of a Quern (R163, R164) -/

@[simp] theorem stream_setStream_same (v : Quern) (st : StreamId) (t : Stream) : (v.setStream st t).stream st = t := Tbl.getD_set_same ..

@[simp] theorem tokens_setStream (v : Quern) (st : StreamId) (t : Stream) : (v.setStream st t).tokens = v.tokens := rfl

@[simp] theorem stream_takeWait (v : Quern) (i : Issue) (st : StreamId) : (v.takeWait i).stream st = v.stream st := by
  rw [takeWait_eq]
  rfl

theorem quern_begun_same (s : State) (q : Nat) (i : Issue) : (begun s q i).quern q = (s.quern q).takeWait i := s.quern_setQuern_same q _

theorem stream_begun (s : State) (q : Nat) (i : Issue) (st : StreamId) : ((begun s q i).quern q).stream st = (s.quern q).stream st := by
  rw [quern_begun_same, stream_takeWait]

/-! ## CWAIT and CSIG at a Quern (R164, R207) -/

/-- A CWAIT has taken its header's wait (R164). -/
def headerTaken (s : State) (q : Nat) (st : StreamId) (i : Issue) : State :=
  s.setQuern q (((s.quern q).takeWait i).setStream st { (s.quern q).stream st with hdrTaken := true })

/-- A CWAIT has taken COUNT of its counter too. -/
def countTaken (s : State) (q : Nat) (st : StreamId) (i : Issue) : State :=
  (headerTaken s q st i).updQuern q (fun v =>
    (v.setToken (fld i 0 5) (v.token (fld i 0 5) - fld i 5 8)).setStream st { v.stream st with hdrTaken := false })

theorem quern_headerTaken (s : State) (q : Nat) (st : StreamId) (i : Issue) : (headerTaken s q st i).quern q
    = ((s.quern q).takeWait i).setStream st { (s.quern q).stream st with hdrTaken := true } := s.quern_setQuern_same q _

theorem tokens_countTaken (s : State) (q : Nat) (st : StreamId) (i : Issue) : ((countTaken s q st i).quern q).tokens
    = ((s.quern q).takeWait i).tokens.set (fld i 0 5) (((s.quern q).takeWait i).token (fld i 0 5) - fld i 5 8) := by
  rw [countTaken, quern_updQuern_same, quern_headerTaken]
  rfl

section Quern
variable {s : State} {q : Fin 128} {st : StreamId} {i : Issue}

/-- A CWAIT whose header wait is satisfied takes COUNT, or waits for it with the header's wait taken. -/
theorem exec_cwait (h : Starts s q st .cwait i) (hc : ctrChecks i false = .ok ()) (ht : ((s.quern q).stream st).hdrTaken = false) :
    exec (.cwait (.quern q st) i) s = if ((s.quern q).takeWait i).token (fld i 0 5) < fld i 5 8
      then .next (markWaiting (headerTaken s q st i) q st (fld i 0 5) (fld i 5 8)) else .next (ended s (countTaken s q st i) q st i) := by
  obtain ⟨clock, ready, wait⟩ := h
  change Host.Outcome.next (quernCwait q st i s) = _
  simp only [quernCwait, clock, ready, wait, ht, hc, Bool.not_true, Bool.or_self, Bool.or_true, Bool.false_eq_true, if_false]
  exact apply_ite ..

/-- A CSIG has added COUNT to its counter. -/
def countAdded (s : State) (q : Nat) (i : Issue) : State :=
  s.setQuern q ((s.quern q).setToken (fld i 0 5) ((s.quern q).token (fld i 0 5) + fld i 5 8))

theorem exec_csig (h : Starts s q st .csig i) (hc : ctrChecks i false = .ok ())
    (room : ((s.quern q).takeWait i).token (fld i 0 5) + fld i 5 8 ≤ 0xFFFF) :
    exec (.csig (.quern q st) i) s = .next (ended s (countAdded (begun s q i) q i) q st i) := by
  rw [← quern_begun_same] at room
  change execCsig (.quern q st) i s = _
  simp only [execCsig]
  refine startInstr_now h rfl ?_
  simp only [hc, ok_bind, decide_eq_true room, need_true]
  rfl

/-! ## CLOOP and CEND at a Quern (R168, R216) -/

/-- The loop that a CLOOP opens. -/
def openedLoop (v : Quern) (st : StreamId) (i : Issue) : Loop :=
  { start := (v.stream st).pos + 1, left := fld i 0 16 - 1, mask := i.ext.getD 0
    saved := (maskSlots (i.ext.getD 0)).map (fun n => (n, (v.dslot n).bits)) }

/-- A stream whose loops have changed. -/
def withLoops (s : State) (q : Nat) (st : StreamId) (v : Quern) (loops : List Loop) : State :=
  s.setQuern q (v.setStream st { (s.quern q).stream st with loops := loops })

theorem stream_withLoops (s : State) (q : Nat) (st : StreamId) (v : Quern) (loops : List Loop) :
    ((withLoops s q st v loops).quern q).stream st = { (s.quern q).stream st with loops := loops } := by
  simp [withLoops]

theorem exec_cloop (h : Starts s q st .cloop i) (ht : tripChecks i = .ok ()) : exec (.cloop (.quern q st) i) s
    = .next (ended s (withLoops (begun s q i) q st ((begun s q i).quern q)
        (openedLoop ((begun s q i).quern q) st i :: (((begun s q i).quern q).stream st).loops)) q st i) := by
  change execCloop (.quern q st) i s = _
  simp only [execCloop]
  refine startInstr_now h rfl ?_
  simp only [ht, ok_bind]
  rfl

/-- A stream goes on at a loop's first instruction, with its slots advanced. -/
def iterated (s : State) (q : Nat) (st : StreamId) (v : Quern) (l : Loop) (rest : List Loop) : State :=
  s.setQuern q (v.setStream st { (s.quern q).stream st with loops := { l with left := l.left - 1 } :: rest, pos := l.start - 1 })

section End
variable {l : Loop} {rest : List Loop} (h : Starts s q st .cend i) (ho : i.ops = 0) (hl : ((s.quern q).stream st).loops = l :: rest)
include h ho hl

/-- CEND of the last iteration closes the loop. -/
theorem exec_cend_last (last : l.left = 0) : exec (.cend (.quern q st) i) s
    = .next (ended s (withLoops (begun s q i) q st (restoreSlots ((begun s q i).quern q) l) rest) q st i) := by
  rw [← stream_begun s q i] at hl
  change execCend (.quern q st) i s = _
  simp only [execCend]
  refine startInstr_now h rfl ?_
  simp only [needTop, ho, BitVec.ushiftRight_zero, BEq.rfl, need_true, ok_bind, quernCend, hl, last, if_true]
  rfl

/-- CEND of another iteration advances the slots of the loop's mask. -/
theorem exec_cend_again {v : Quern} (again : l.left ≠ 0) (hv : advanceSlots ((begun s q i).quern q) (maskSlots l.mask) = .ok v) :
    exec (.cend (.quern q st) i) s = .next (ended s (iterated (begun s q i) q st v l rest) q st i) := by
  rw [← stream_begun s q i] at hl
  change execCend (.quern q st) i s = _
  simp only [execCend]
  refine startInstr_now h rfl ?_
  simp only [needTop, ho, BitVec.ushiftRight_zero, BEq.rfl, need_true, ok_bind, quernCend, hl, again, if_false, hv]
  rfl

end End
end Quern

/-- Settles O12: CWAIT by whether its counter holds COUNT, CEND by whether an iteration is left. -/
theorem quernCountersAndLoops : Obligations.QuernCountersAndLoops := by
  refine ⟨fun s q st i hc => ⟨fun h ht => ⟨fun lacks => ?_, fun holds => ?_⟩, fun h room => ?_⟩, fun s q st i => ⟨fun h ht => ?_,
    fun l rest h ho hl => ⟨fun last => ?_, fun v again hv => ?_⟩⟩⟩
  · refine ⟨_, (exec_cwait h hc ht).trans (if_pos lacks), rfl, ?_, ?_⟩
    · rw [quern_headerTaken, tokens_setStream]
    · rw [quern_headerTaken, stream_setStream_same]
  · exact ⟨_, (exec_cwait h hc ht).trans (if_neg (by omega)), rfl, tokens_countTaken ..⟩
  · refine ⟨_, exec_csig h hc room, rfl, ?_⟩
    rw [countAdded, State.quern_setQuern_same, quern_begun_same]
    rfl
  · refine ⟨_, openedLoop ((begun s q i).quern q) st i, exec_cloop h ht, rfl, ?_, ?_, rfl, rfl⟩
    · rw [stream_withLoops, stream_begun]
    · rw [openedLoop, stream_begun]
  · refine ⟨_, exec_cend_last h ho hl last, rfl, ?_, ?_⟩
    · rw [stream_withLoops]
    · rw [stream_withLoops, stream_begun]
  · refine ⟨_, exec_cend_again h ho hl again hv, rfl, ?_, ?_, ?_⟩ <;> rw [iterated, State.quern_setQuern_same]
    · rfl
    · rw [stream_setStream_same]
    · rw [stream_setStream_same]


/-! ## Stage programs (R181, R208) -/

@[simp] theorem ctx_updCtx_same (s : State) (c : Nat) (f : Ctx → Ctx) : (s.updCtx c f).ctx c = f (s.ctx c) := s.ctx_setCtx_same c _

/-- The context of an instruction that acts: its header wait has been taken, and it is counted as issued. -/
theorem ctx_stageBegun (s : State) (c : Nat) (i : Issue) : (stageBegun s c i).ctx c = { s.ctx c with
    tokens := if i.wen then (s.ctx c).tokens.set i.wtok.toNat ((s.ctx c).token i.wtok.toNat - 1) else (s.ctx c).tokens
    issued := (s.ctx c).issued + 1 } := by
  rw [stageBegun, State.ctx_setCtx_same, Ctx.takeWait]
  cases i.wen <;> rfl

/-- A CWAIT of a stage program has taken its header's wait and COUNT of its counter. It is not counted as issued. -/
def stageCountTaken (s : State) (c : Nat) (i : Issue) : State :=
  (s.setCtx c { (s.ctx c).takeWait i with seqr := { (s.ctx c).seqr with hdrTaken := true } }).updCtx c
    (fun x => x.setToken (fld i 0 5) (x.token (fld i 0 5) - fld i 5 8))

theorem tokens_stageCountTaken (s : State) (c : Nat) (i : Issue) : ((stageCountTaken s c i).ctx c).tokens
    = ((stageBegun s c i).ctx c).tokens.set (fld i 0 5) (((stageBegun s c i).ctx c).token (fld i 0 5) - fld i 5 8) := by
  rw [stageCountTaken, ctx_updCtx_same, State.ctx_setCtx_same, stageBegun, State.ctx_setCtx_same]
  rfl

section Stage
variable {s : State} {c : Fin 32} {i : Issue}

theorem exec_stageCwait (h : StageStarts s c .cwait i false) (hc : ctrChecks i true = .ok ()) (ht : (s.ctx c).seqr.hdrTaken = false)
    (holds : fld i 5 8 ≤ ((stageBegun s c i).ctx c).token (fld i 0 5)) :
    exec (.cwait (.stage c) i) s = .next (stageEnded s (stageCountTaken s c i) c i .now) := by
  obtain ⟨ready, wait, wtok, stok⟩ := h
  have wtokOk : (i.wen && decide (i.wtok.toNat > 15)) = false := by simpa using wtok
  have stokOk : (i.sen && decide (i.stok.toNat > 15)) = false := by simpa using stok
  have enough : ¬ ((s.ctx c).takeWait i).token (fld i 0 5) < fld i 5 8 := by
    rw [stageBegun, State.ctx_setCtx_same] at holds
    exact Nat.not_lt.2 holds
  change Host.Outcome.next (stageCwait c i s) = _
  simp only [stageCwait, ready, wait, wtokOk, stokOk, ht, hc, enough, Bool.not_true, Bool.or_true, Bool.false_eq_true, if_false]
  rfl

theorem exec_stageCsig (h : StageStarts s c .csig i false) (hc : ctrChecks i true = .ok ())
    (room : ((stageBegun s c i).ctx c).token (fld i 0 5) + fld i 5 8 ≤ 0xFFFF) : exec (.csig (.stage c) i) s
    = .next (stageEnded s ((stageBegun s c i).setCtx c (((stageBegun s c i).ctx c).setToken (fld i 0 5)
        (((stageBegun s c i).ctx c).token (fld i 0 5) + fld i 5 8))) c i .now) := by
  change execCsig (.stage c) i s = _
  simp only [execCsig]
  exact startStage_ok h rfl (by simp only [hc, ok_bind, decide_eq_true room, need_true])

/-- A stage program's loop has been opened. -/
def stageLooped (s : State) (c : Nat) (i : Issue) : State :=
  s.updCtx c (fun x => { x with seqr := { x.seqr with
    loops := { start := x.seqr.pos + 1, left := fld i 0 16 - 1, mask := 0, saved := [] } :: x.seqr.loops } })

theorem exec_stageCloop (h : StageStarts s c .cloop i false) (ht : tripChecks i = .ok ()) :
    exec (.cloop (.stage c) i) s = .next (stageEnded s (stageLooped (stageBegun s c i) c i) c i .now) := by
  change execCloop (.stage c) i s = _
  simp only [execCloop]
  exact startStage_ok h rfl (by rw [ht]; rfl)

theorem exec_stageCend (h : StageStarts s c .cend i false) (ho : i.ops = 0) :
    exec (.cend (.stage c) i) s = .next (stageEnded s (stageCend c (stageBegun s c i)) c i .now) := by
  change execCend (.stage c) i s = _
  simp only [execCend]
  exact startStage_ok h rfl (by rw [needTop_of (by simp [ho])]; rfl)

/-- What CEND makes of the innermost loop: it closes it, or goes on at its first instruction. -/
theorem seqr_stageCend {l : Loop} {rest : List Loop} (hl : (s.ctx c).seqr.loops = l :: rest) : ((stageCend c s).ctx c).seqr
    = if l.left = 0 then { (s.ctx c).seqr with loops := rest }
      else { (s.ctx c).seqr with loops := { l with left := l.left - 1 } :: rest, pos := l.start - 1 } := by
  rw [stageCend, ctx_updCtx_same]
  simp only [hl]
  split <;> rfl

/-- A context's sequence has ended. -/
def sequenceEnded (s : State) (c : Nat) : State := s.updCtx c (fun x => { x with state := .ended, seqr := { x.seqr with ended := true } })

theorem exec_stageProgramChalt (h : StageStarts s c .chalt i true) (ho : i.ops = 0) :
    exec (.stageProgramChalt c i) s = .next (stageEnded s (sequenceEnded (stageBegun s c i) c) c i .now) := by
  change execStageProgramChalt c i s = _
  exact startStage_ok h rfl (by rw [needTop_of (by simp [ho])]; rfl)

end Stage

/-- Settles O16: each instruction by the context that it leaves behind its start. -/
theorem stageControl : Obligations.StageControl := by
  refine fun s c i => ⟨fun x hx h hc ht holds => ?_, fun x hx h hc room => ?_, fun h ht => ⟨_, exec_stageCloop h ht, ?_⟩,
    fun l rest h ho hl => ⟨_, exec_stageCend h ho, fun last => ?_, fun again => ?_⟩,
    fun h ho => ⟨_, exec_stageProgramChalt h ho, ?_, ?_, rfl, rfl⟩⟩
  · subst hx
    exact ⟨_, exec_stageCwait h hc ht holds, tokens_stageCountTaken ..⟩
  · subst hx
    exact exec_stageCsig h hc room
  · rw [stageLooped, ctx_updCtx_same, ctx_stageBegun]
  · rw [seqr_stageCend (l := l) (rest := rest) (by rw [ctx_stageBegun, hl]), if_pos last, ctx_stageBegun]
    exact ⟨rfl, rfl⟩
  · rw [seqr_stageCend (l := l) (rest := rest) (by rw [ctx_stageBegun, hl]), if_neg again]
    exact ⟨rfl, rfl⟩
  · rw [sequenceEnded, ctx_updCtx_same]
  · rw [sequenceEnded, ctx_updCtx_same]

/-! ## DISPATCH (R183, R209, R211) -/

/-- The entry that a DISPATCH names: none with NOENTRY. -/
def dispatchEntry (s : State) (c : Nat) (i : Issue) : Option Nat := if fld i 3 1 = 1 then none else hregEntry s c (fld i 0 3)

/-- The DISPATCH that an instruction opens for the members of its group, in the state in which it acts. -/
def openedDisp (s : State) (c : Nat) (i : Issue) (members : List Nat) : Disp :=
  { id := (s.ctx c).nextDisp, group := fld i 4 3, members := members, notices := [], entry := dispatchEntry s c i
    step := dispatchStep s c (dispatchEntry s c i), latch := if fld i 9 1 = 1 then some (fld i 11 5) else none
    idx := (s.ctx c).seqr.pos, sen := i.sen, stok := i.stok.toNat, no := (s.ctx c).issued, issue := i }

/-- The context of a DISPATCH: the register has been read, and the DISPATCH is outstanding. -/
def dispatching (x : Ctx) (i : Issue) (d : Disp) : Ctx :=
  { (if fld i 3 1 = 1 then x else markRead x (fld i 0 3)) with disps := x.disps ++ [d], nextDisp := x.nextDisp + 1 }

/-- The state that a DISPATCH leaves: it waits for what its word names. -/
def dispatched (s : State) (c : Nat) (i : Issue) (d : Disp) : State :=
  defer (s.setCtx c (dispatching (s.ctx c) i d)) c .dispatch i d.entry d.id d.step

/-- Reading a register changes the entry registers alone. -/
theorem markRead_eq (x : Ctx) (k : Nat) : ∃ l, markRead x k = { x with hregs := l } := by
  unfold markRead
  split
  · exact ⟨_, rfl⟩
  · exact ⟨x.hregs, rfl⟩

theorem dispatching_eq (x : Ctx) (i : Issue) (d : Disp) : ∃ l, dispatching x i d
    = { x with hregs := l, disps := x.disps ++ [d], nextDisp := x.nextDisp + 1 } := by
  obtain ⟨l, hl⟩ := markRead_eq x (fld i 0 3)
  unfold dispatching
  split
  · exact ⟨x.hregs, rfl⟩
  · exact ⟨l, by rw [hl]⟩

/-- The header wait changes no entry register. -/
theorem dispatchEntry_stageBegun (s : State) (c : Nat) (i : Issue) : dispatchEntry (stageBegun s c i) c i = dispatchEntry s c i := by
  unfold dispatchEntry hregEntry
  rw [ctx_stageBegun]
  rfl

theorem exec_dispatch {s : State} {c : Fin 32} {i : Issue} {ms : List Nat} (h : StageStarts s c .dispatch i true) (ho : i.ops >>> 16 = 0)
    (h48 : xfld i 48 16 = 0) (h0 : xfld i 0 6 = 0) (hg : (s.ctx c).groups[fld i 4 3]? = some ms) (hne : ms ≠ [])
    (hlatch : fld i 3 1 = 1 → (fld i 9 1 = 1 ∨ fld i 10 1 = 1) → fld i 7 1 = 1)
    (he : fld i 3 1 = 1 ∨ (hregEntry s c (fld i 0 3)).isSome = true) : exec (.dispatch c i) s
    = .next (settle (stageEnded s (dispatched (stageBegun s c i) c i (openedDisp (stageBegun s c i) c i ms)) c i .never)) := by
  have entry : (decide (fld i 3 1 = 1) || (dispatchEntry (stageBegun s c i) c i).isSome) = true := by
    rw [dispatchEntry_stageBegun, dispatchEntry]
    by_cases hn : fld i 3 1 = 1
    · simp [hn]
    · simpa [hn] using he
  have group : ((stageBegun s c i).ctx c).groups[fld i 4 3]? = some ms := by rw [ctx_stageBegun, hg]
  have latch : (!((decide (fld i 9 1 = 1) || decide (fld i 10 1 = 1)) && decide (fld i 3 1 = 1) && decide (fld i 7 1 = 0))) = true := by
    by_cases hn : fld i 3 1 = 1
    · by_cases hl : fld i 9 1 = 1 ∨ fld i 10 1 = 1
      · simp [hlatch hn hl]
      · simp [not_or.1 hl]
    · simp [hn]
  have members : (!ms.isEmpty) = true := by simpa using hne
  change execDispatch c i s = _
  refine stageInstr_ok h rfl ?_
  unfold dispatchEntry at entry
  simp only [needTop_of ho, h48, h0, decide_true, entry, group, Option.getD_some, members, latch, need_true, ok_bind]
  obtain ⟨l, hl⟩ := markRead_eq ((stageBegun s c i).ctx c) (fld i 0 3)
  unfold dispatched dispatching openedDisp dispatchEntry
  split
  · rfl
  · rw [hl]

/-- What waits of a DISPATCH: its entry and its step, until its word's conditions hold. -/
def waiting (s : State) (c : Nat) (i : Issue) (d : Disp) : Deferred :=
  { op := .dispatch, no := (s.ctx c).issued, idx := (s.ctx c).seqr.pos, issue := i, entry := d.entry, disp := d.id, step := d.step }

/-- The context of a DISPATCH that waits. -/
theorem ctx_dispatched (s : State) (c : Nat) (i : Issue) (d : Disp) : ∃ l, (dispatched s c i d).ctx c
    = { s.ctx c with hregs := l, disps := (s.ctx c).disps ++ [d], nextDisp := (s.ctx c).nextDisp + 1
                     deferred := (s.ctx c).deferred ++ [waiting s c i d] } := by
  obtain ⟨l, hl⟩ := dispatching_eq (s.ctx c) i d
  exact ⟨l, by rw [dispatched, defer, ctx_updCtx_same, State.ctx_setCtx_same, hl]; rfl⟩

/-- Settles O18: the checks pass, and the DISPATCH is what `dispatched` leaves. -/
theorem dispatchIssues : Obligations.DispatchIssues := by
  intro s c i ms h ho h48 h0 hg hne hlatch he
  obtain ⟨l, after⟩ := ctx_dispatched (stageBegun s c i) c i (openedDisp (stageBegun s c i) c i ms)
  rw [ctx_stageBegun] at after
  refine ⟨_, _, _, exec_dispatch h ho h48 h0 hg hne hlatch he, by rw [after], ?_, rfl, rfl, rfl,
    dispatchEntry_stageBegun s c i, rfl, by rw [after], by rw [after], rfl, rfl, rfl, rfl⟩
  rw [openedDisp, ctx_stageBegun]

end Sys2Proof.Machine
end


section
/-! # What stays of the other Querns

An instruction of a stream changes its own Quern and, where its program stops with an error, the members of its dispatch group. Every part
of an instruction's effect is shown to leave the other Querns, and the start and the signal to reach them only through that error. -/

namespace Sys2Proof.Machine

open Sys2Proof

/-! ## The other Querns of a state -/

/-- The Querns of a state but one. -/
def State.others (s : State) (q : Nat) : Nat → Quern := fun p => if p = q then {} else s.quern p

theorem quern_of_others {s t : State} {q p : Nat} (h : t.others q = s.others q) (hp : p ≠ q) : t.quern p = s.quern p := by
  simpa [State.others, hp] using congrFun h p

theorem others_of_querns {s t : State} {q : Nat} (h : t.querns = s.querns) : t.others q = s.others q := by
  unfold State.others State.quern
  rw [h]

@[simp] theorem others_setQuern (s : State) (q : Nat) (v : Quern) : (s.setQuern q v).others q = s.others q := by
  funext p
  unfold State.others
  split
  · rfl
  · next hp => exact s.quern_setQuern_ne q p v hp

@[simp] theorem others_updQuern (s : State) (q : Nat) (f : Quern → Quern) : (s.updQuern q f).others q = s.others q := others_setQuern ..

@[simp] theorem others_update (s : State) (q : Nat) {freeCtr mem mm pwr} :
    ({ s with freeCtr, mem, mm, pwr } : State).others q = s.others q := rfl

theorem others_foldl {α : Type} {q : Nat} {f : State → α → State} (h : ∀ s x, (f s x).others q = s.others q) (l : List α) (s : State) :
    (l.foldl f s).others q = s.others q := foldl_keeps (State.others · q) h l s

/-! ## Errors, signals and the advance (R166, R171, R180) -/

/-- From one state to another nothing reaches a Quern but `q`, unless `q` stops with an error, which it has then not done before. -/
structure KeepsOthers (q : Nat) (s t : State) : Prop where
  of_running : (t.quern q).err = none → (s.quern q).err = none ∧ t.others q = s.others q

theorem KeepsOthers.of_querns {q : Nat} {s t : State} (h : t.querns = s.querns) : KeepsOthers q s t :=
  ⟨fun running => ⟨by rwa [State.quern, h] at running, others_of_querns h⟩⟩

theorem KeepsOthers.refl (q : Nat) (s : State) : KeepsOthers q s s := .of_querns rfl

theorem KeepsOthers.trans {q : Nat} {s t u : State} (hs : KeepsOthers q s t) (ht : KeepsOthers q t u) : KeepsOthers q s u where
  of_running h :=
    have ⟨running, same⟩ := ht.of_running h
    have ⟨before, still⟩ := hs.of_running running
    ⟨before, same.trans still⟩

theorem keepsOthers_setQuern (s : State) (q : Nat) {v : Quern} (h : v.err = (s.quern q).err) : KeepsOthers q s (s.setQuern q v) where
  of_running running := ⟨by rwa [State.quern_setQuern_same, h] at running, others_setQuern ..⟩

theorem keepsOthers_foldl {α : Type} {q : Nat} {f : State → α → State} (h : ∀ s x, KeepsOthers q s (f s x)) (l : List α) (s : State) :
    KeepsOthers q s (l.foldl f s) := by
  induction l generalizing s with
  | nil => exact .refl q s
  | cons x l ih => exact (h s x).trans (ih _)

@[simp] theorem err_setStream (v : Quern) (st : StreamId) (t : Stream) : (v.setStream st t).err = v.err := by cases st <;> rfl

theorem quern_groupStop_ne {m q : Nat} (h : q ≠ m) (s : State) (c d : Nat) : (groupStop s c d m).quern q = s.quern q := by
  unfold groupStop
  dsimp only
  split
  · exact s.quern_setQuern_ne m q _ h
  · split
    · split
      · exact s.quern_setQuern_ne m q _ h
      · rfl
    · rfl

/-- A member that fails stops the others of its group, and not itself. -/
theorem quern_stopOthers (s : State) (c d q : Nat) : (stopOthers s c d q).quern q = s.quern q := by
  unfold stopOthers
  generalize dispMembers s c d = l
  induction l generalizing s with
  | nil => rfl
  | cons m l ih =>
    by_cases h : m = q
    · simpa [h] using ih s
    · rw [List.filter_cons_of_pos (by simpa using h), List.foldl_cons, ih, quern_groupStop_ne (Ne.symm h)]

/-- A Quern that fails stands with an error. -/
theorem keepsOthers_failAt (s : State) (q : Nat) (st : StreamId) (idx code : Nat) : KeepsOthers q s (failAt s q st idx code) := by
  unfold failAt
  dsimp only
  split
  · refine ⟨fun running => ?_⟩
    rw [quern_stopOthers, State.quern_setQuern_same] at running
    cases running
  · exact .refl q s

theorem querns_addressError (s : State) (c : Nat) : (addressError s c).querns = s.querns := by
  unfold addressError
  dsimp only
  split <;> simp

theorem keepsOthers_failInstr (s : State) (q : Nat) (st : StreamId) (idx code : Nat) : KeepsOthers q s (failInstr s q st idx code) := by
  have failed := keepsOthers_failAt s q st idx code
  unfold failInstr
  dsimp only
  split
  · split
    · exact failed.trans (.of_querns (querns_addressError ..))
    · exact failed
  · exact failed

theorem keepsOthers_signalIf (s : State) (q : Nat) (st : StreamId) (idx : Nat) (sen : Bool) (tok : Nat) :
    KeepsOthers q s (signalIf s q st idx sen tok) := by
  unfold signalIf signalBy
  dsimp only
  split
  · split
    · exact .refl q s
    · split
      · exact keepsOthers_failAt ..
      · exact keepsOthers_setQuern s q rfl
  · exact .refl q s

theorem keepsOthers_advance (s : State) (q : Nat) (st : StreamId) : KeepsOthers q s (advance s q st) :=
  keepsOthers_setQuern s q (err_setStream (s.quern q) st _)

theorem keepsOthers_markWaiting (s : State) (q : Nat) (st : StreamId) (tok n : Nat) : KeepsOthers q s (markWaiting s q st tok n) :=
  keepsOthers_setQuern s q (err_setStream (s.quern q) st _)

theorem keepsOthers_fireFences (s : State) (q : Nat) : KeepsOthers q s (fireFences q s) := by
  unfold fireFences
  refine .trans ?_ (keepsOthers_foldl (fun s (f : Fence) => keepsOthers_signalIf s q .x f.idx f.sen f.stok) _ _)
  exact keepsOthers_setQuern s q rfl

/-! ## The start of an instruction (R163) -/

/-- The outcome is a next state; where Quern `q` has no error in it, the other Querns are as they were. -/
def StaysLocal (q : Nat) (s : State) (r : Res) : Prop := ∃ t, r = .next t ∧ ((t.quern q).err = none → t.others q = s.others q)

theorem KeepsOthers.staysLocal {q : Nat} {s t : State} (h : KeepsOthers q s t) : StaysLocal q s (.next t) :=
  ⟨t, rfl, fun running => (h.of_running running).2⟩

/-- What starts from a state with the same other Querns. -/
theorem KeepsOthers.staysLocal_of_others {q : Nat} {s u t : State} (hu : u.others q = s.others q) (h : KeepsOthers q u t) :
    StaysLocal q s (.next t) :=
  ⟨t, rfl, fun running => (h.of_running running).2.trans hu⟩

theorem staysLocal_startInstr {q : Nat} {body : State → Except Nat State}
    (hbody : ∀ s g, s.others q = g → Yields (fun t => t.others q = g) (body s))
    (s : State) (st : StreamId) (op : Opcode) (i : Issue) (now : Bool) (ready : Quern → Bool) :
    StaysLocal q s (startInstr q st op i now ready body s) := by
  have begun := hbody (s.setQuern q ((s.quern q).takeWait i)) _ (others_setQuern ..)
  unfold startInstr
  dsimp only
  split
  · exact (KeepsOthers.refl q s).staysLocal
  split
  · exact (keepsOthers_markWaiting ..).staysLocal
  split
  · exact (KeepsOthers.refl q s).staysLocal
  split
  · exact (keepsOthers_failInstr ..).staysLocal_of_others (others_setQuern ..)
  · next h => exact ((keepsOthers_advance ..).trans (keepsOthers_signalIf ..)).staysLocal_of_others (begun.of_ok h)

theorem staysLocal_startV {q : Nat} {body : State → Except Nat State}
    (hbody : ∀ s g, s.others q = g → Yields (fun t => t.others q = g) (body s))
    (s : State) (op : Opcode) (i : Issue) : StaysLocal q s (startV q op i body s) := by
  refine staysLocal_startInstr (fun s g h => ?_) ..
  refine Yields.bind (hbody _ g (by simpa using h)) (fun u hu => ?_)
  simpa using hu

theorem StaysLocal.andThen {q : Nat} {s : State} {r : Res} {f : State → State} (h : StaysLocal q s r) (hf : ∀ s, KeepsOthers q s (f s)) :
    StaysLocal q s (andThen r f) := by
  obtain ⟨t, rfl, ht⟩ := h
  exact ⟨f t, rfl, fun running => have ⟨before, same⟩ := (hf t).of_running running; same.trans (ht before)⟩

/-- Dropping a line reaches memory and the Store. -/
theorem others_dropLine (s : State) (q l : Nat) : (dropLine s l).others q = s.others q := by
  unfold dropLine
  split
  · rfl
  · dsimp only
    split
    · split <;> rfl
    · rfl

/-! ## V-stream instructions -/

section Bodies
variable {s : State} {q : Nat} {g : Nat → Quern} (h : s.others q = g)
include h

theorem others_vStore (dist lanes bytes mask) : (vStore s q dist lanes bytes mask).others q = g := by
  rw [← h]
  exact others_setQuern ..

theorem others_vDestConv (o dist comp conv rm sat vals draw n) :
    Yields (fun t => t.others q = g) (vDestConv s q o dist comp conv rm sat vals draw n) := by
  simp [vDestConv, others_vStore, h]

theorem others_vArith (o srcs unused op) : Yields (fun t => t.others q = g) (vArith q o srcs unused op s) := by
  simp [vArith, others_vDestConv, h]

theorem others_vTwo (i f) : Yields (fun t => t.others q = g) (vTwo q i f s) := by
  simp [vTwo, others_vArith, h]

theorem others_vSel (i) : Yields (fun t => t.others q = g) (vSel q i s) := by
  simp [vSel, others_vStore, h]

theorem others_vCvt (i) : Yields (fun t => t.others q = g) (vCvt q i s) := by
  simp [vCvt, others_vDestConv, h]

theorem others_vSpecial (i opbit f) : Yields (fun t => t.others q = g) (vSpecial q i opbit f s) := by
  simp [vSpecial, others_vDestConv, h]

theorem others_vRowstat (i) : Yields (fun t => t.others q = g) (vRowstat q i s) := by
  simp [vRowstat, others_vStore, h]

theorem others_vRng (i) : Yields (fun t => t.others q = g) (vRng q i s) := by
  simp [vRng, others_vStore, h]

theorem others_vSrnd (i) : Yields (fun t => t.others q = g) (vSrnd q i s) := by
  simp [vSrnd, others_vStore, h]

theorem others_vNorm2 (i) : Yields (fun t => t.others q = g) (vNorm2 q i s) := by
  simp [vNorm2, others_vStore, h]

theorem others_updPut (slot n roll words) : Yields (fun t => t.others q = g) (updPut q slot n roll words s) := by
  simp [updPut, others_vStore, h]

theorem others_vUpd (i) : Yields (fun t => t.others q = g) (vUpd q i s) := by
  unfold vUpd
  dsimp only
  iterate 12 refine (yields_bind ..).2 (yields_of_forall (fun _ => ?_) _)
  split
  · simpa using h
  refine Yields.bind (others_updPut (g := g) (by simpa using h) ..) (fun s1 h1 => ?_)
  refine Yields.bind (others_updPut h1 ..) (fun s2 h2 => ?_)
  refine Yields.bind (others_updPut h2 ..) (fun s3 h3 => ?_)
  simpa using h3

/-! ## M-stream, X-stream and C-stream instructions -/

theorem others_clearSet (k) : (clearSet s q k).others q = g := by
  simp [clearSet, h]

theorem others_setMode (pm) : (setMode q pm s).others q = g := by
  unfold setMode
  dsimp only
  split
  · exact h
  · exact others_clearSet (by simpa using h) _

theorem others_clearEpoch (i) : (clearEpoch q i s).others q = g := by
  unfold clearEpoch
  dsimp only
  split
  · simpa using h
  · exact others_clearSet (by simpa using h) _

theorem others_addSums (adds) : (addSums s q adds).others q = g := by
  rw [← h]
  refine others_foldl (fun s x => ?_) _ _
  dsimp only
  split
  · rfl
  · split <;> exact others_setQuern s q _

theorem others_runPass (o) : (runPass q o s).others q = g := by
  unfold runPass
  dsimp only
  split
  · simpa using h
  · exact others_addSums (by simpa using h) _

theorem others_xdropLines (ls) : (xdropLines s ls).others q = g := by
  rw [← h]
  refine others_foldl (f := xdropLine) (fun s l => ?_) _ _
  unfold xdropLine
  split
  · split
    · exact others_of_querns (querns_of_besideLines (besideLines_setLine ..))
    · split
      · exact others_dropLine s q l
      · rfl
  · rfl

theorem others_quernCend (st) : Yields (fun t => t.others q = g) (quernCend q st s) := by
  unfold quernCend
  dsimp only
  split
  · exact h
  · split <;> simp [h]

end Bodies

theorem staysLocal_quernCwait (s : State) (q : Nat) (st : StreamId) (i : Issue) : StaysLocal q s (.next (quernCwait q st i s)) := by
  unfold quernCwait
  dsimp only
  split
  · exact (KeepsOthers.refl q s).staysLocal
  split
  · exact (keepsOthers_markWaiting ..).staysLocal
  generalize (if ((s.quern q).stream st).hdrTaken = true then s.quern q else (s.quern q).takeWait i) = v
  split
  · exact (keepsOthers_failInstr ..).staysLocal_of_others (others_setQuern ..)
  split
  · exact (keepsOthers_markWaiting ..).staysLocal_of_others (others_setQuern ..)
  · exact ((keepsOthers_advance ..).trans (keepsOthers_signalIf ..)).staysLocal_of_others (by simp)

section Instructions
variable (s : State) (q : Fin 128) (i : Issue)

theorem staysLocal_execMcfg : StaysLocal q s (execMcfg q i s) := by
  refine staysLocal_startInstr (fun s g h => ?_) ..
  simp [others_setMode, h]

theorem staysLocal_execMload : StaysLocal q s (execMload q i s) := by
  refine staysLocal_startInstr (fun s g h => ?_) ..
  simp [h]

theorem staysLocal_execMpass : StaysLocal q s (execMpass q i s) := by
  refine staysLocal_startInstr (fun s g h => ?_) ..
  simp [others_runPass, h]

theorem staysLocal_execMdrain : StaysLocal q s (execMdrain q i s) := by
  refine staysLocal_startInstr (fun s g h => ?_) ..
  simp [h]

theorem staysLocal_execMclr : StaysLocal q s (execMclr q i s) := by
  refine staysLocal_startInstr (fun s g h => ?_) ..
  simp [others_clearEpoch, h]

theorem staysLocal_execXmove : StaysLocal q s (execXmove q i s) := by
  refine staysLocal_startInstr (fun s g h => ?_) ..
  simp [issueMove, h]

theorem staysLocal_execXfetch : StaysLocal q s (execXfetch q i s) := by
  refine staysLocal_startInstr (fun s g h => ?_) ..
  simp [issueMove, h]

theorem staysLocal_execXpref : StaysLocal q s (execXpref q i s) := by
  refine staysLocal_startInstr (fun s g h => ?_) ..
  simp [h]

theorem staysLocal_execXdrop : StaysLocal q s (execXdrop q i s) := by
  refine staysLocal_startInstr (fun s g h => ?_) ..
  simp [others_xdropLines, h]

theorem staysLocal_execCphase : StaysLocal q s (execCphase q i s) := by
  refine staysLocal_startInstr (fun s g h => ?_) ..
  simp [State.updStone, State.setStone, h]

theorem staysLocal_execChalt : StaysLocal q s (execChalt q i s) := by
  refine staysLocal_startInstr (fun s g h => ?_) ..
  simp [h]

theorem staysLocal_execXfence : StaysLocal q s (execXfence q i s) := by
  refine StaysLocal.andThen (staysLocal_startInstr (fun s g h => ?_) ..) (keepsOthers_fireFences · q)
  simp [h]

theorem staysLocal_execVfma : StaysLocal q s (execVfma q i s) := by
  refine staysLocal_startV (fun s g h => ?_) ..
  simp [others_vArith, h]

theorem staysLocal_execVsetvl : StaysLocal q s (execVsetvl q i s) := by
  refine staysLocal_startV (fun s g h => ?_) ..
  simp [h]

theorem staysLocal_execVmode : StaysLocal q s (execVmode q i s) := by
  refine staysLocal_startV (fun s g h => ?_) ..
  simp [h]

theorem staysLocal_execCsig (st : StreamId) : StaysLocal q s (execCsig (.quern q st) i s) := by
  dsimp only [execCsig]
  refine staysLocal_startInstr (fun s g h => ?_) ..
  simp [h]

theorem staysLocal_execCloop (st : StreamId) : StaysLocal q s (execCloop (.quern q st) i s) := by
  dsimp only [execCloop]
  refine staysLocal_startInstr (fun s g h => ?_) ..
  simp [h]

theorem staysLocal_execCend (st : StreamId) : StaysLocal q s (execCend (.quern q st) i s) := by
  dsimp only [execCend]
  refine staysLocal_startInstr (fun s g h => ?_) ..
  simp [others_quernCend, h]

end Instructions

/-- An instruction of a Quern's stream, CBAR apart, leaves the other Querns, or its program stops with an error. -/
theorem staysLocal_issuer {c : Instr} {q : Nat} (h : issuer c = some q) (s : State) : StaysLocal q s (exec c s) := by
  unfold issuer at h
  split at h <;> cases h
  next q i => exact staysLocal_execMcfg s q i
  next q i => exact staysLocal_execMload s q i
  next q i => exact staysLocal_execMpass s q i
  next q i => exact staysLocal_execMdrain s q i
  next q i => exact staysLocal_execMclr s q i
  next q i => exact staysLocal_startV (fun _ _ h => others_vTwo h ..) s .vadd i
  next q i => exact staysLocal_startV (fun _ _ h => others_vTwo h ..) s .vmul i
  next q i => exact staysLocal_execVfma s q i
  next q i => exact staysLocal_startV (fun _ _ h => others_vTwo h ..) s .vmax i
  next q i => exact staysLocal_startV (fun _ _ h => others_vTwo h ..) s .vmin i
  next q i => exact staysLocal_startV (fun _ _ h => others_vSel h ..) s .vsel i
  next q i => exact staysLocal_startV (fun _ _ h => others_vCvt h ..) s .vcvt i
  next q i => exact staysLocal_startV (fun _ _ h => others_vSpecial h ..) s .vexp i
  next q i => exact staysLocal_startV (fun _ _ h => others_vSpecial h ..) s .vlog i
  next q i => exact staysLocal_startV (fun _ _ h => others_vSpecial h ..) s .vrcp i
  next q i => exact staysLocal_startV (fun _ _ h => others_vSpecial h ..) s .vrsq i
  next q i => exact staysLocal_startV (fun _ _ h => others_vRowstat h ..) s .vrowstat i
  next q i => exact staysLocal_startV (fun _ _ h => others_vRng h ..) s .vrng i
  next q i => exact staysLocal_startV (fun _ _ h => others_vSrnd h ..) s .vsrnd i
  next q i => exact staysLocal_startV (fun _ _ h => others_vNorm2 h ..) s .vnorm2 i
  next q i => exact staysLocal_startV (fun _ _ h => others_vUpd h ..) s .vupd i
  next q i => exact staysLocal_execVsetvl s q i
  next q i => exact staysLocal_execVmode s q i
  next q i => exact staysLocal_execXmove s q i
  next q i => exact staysLocal_execXfetch s q i
  next q i => exact staysLocal_execXpref s q i
  next q i => exact staysLocal_execXdrop s q i
  next q i => exact staysLocal_execXfence s q i
  next q i => exact staysLocal_execCphase s q i
  next q i => exact staysLocal_execChalt s q i
  next q st i => exact staysLocal_quernCwait s q st i
  next q st i => exact staysLocal_execCsig s q i st
  next q st i => exact staysLocal_execCloop s q i st
  next q st i => exact staysLocal_execCend s q i st

end Sys2Proof.Machine
end


section
/-! # The bytes of a V-stream instruction

What a V-stream instruction stores to is named by its destination alone (R117, R127, R133, R147, R151): every other byte keeps its value,
whether the instruction completes, stops, waits or may not start. Each proof follows a body's checks in their order and names those that its
store depends on. -/

namespace Sys2Proof.Machine

open Sys2Proof

theorem yields_of_ok {ε α : Type} {P : α → Prop} {x : Except ε α} (h : ∀ a, x = .ok a → P a) : Yields P x := by
  cases x with
  | ok a => exact h a rfl
  | error e => trivial

/-- What a sequence of checks answers: its first part has answered, and the rest answers in turn. -/
theorem yields_next {ε α β : Type} {P : β → Prop} {x : Except ε α} {f : α → Except ε β} (h : ∀ a, x = .ok a → Yields P (f a)) :
    Yields P (x >>= f) := (yields_bind ..).2 (yields_of_ok h)

/-- The same where the first part has two forms. -/
theorem yields_next_ite {ε α β : Type} {P : β → Prop} {c : Prop} [Decidable c] {x y : Except ε α} {f : α → Except ε β}
    (h : ∀ a, (if c then x else y) = .ok a → Yields P (f a)) : Yields P (if c then x >>= f else y >>= f) := by
  rw [← apply_ite (· >>= f)]
  exact yields_next h

theorem mem_raised (s : State) (q : Nat) (rs : List (Val × Fl)) : (raised s q rs).mem = s.mem := rfl

/-! ## Destinations -/

/-- What an instruction's encoding checks say of its destination: no SCALAR and no constant, and a slot where register mode is refused. -/
theorem dest_of_vCheck {v : Quern} {o : VOp} {used unused : List Nat} {sr streamOnly : Bool} (h : vCheck v o used unused sr streamOnly = .ok ()) :
    o.d < 0x60 ∧ (streamOnly = true → isReg o.d = false) := by
  unfold vCheck at h
  obtain ⟨_, spec, h⟩ := bind_ok h
  obtain ⟨-, -, h⟩ := bind_ok h
  obtain ⟨-, -, h⟩ := bind_ok h
  have spec := of_need_ok spec
  rw [Bool.and_eq_true, decide_eq_true_eq] at spec
  refine ⟨spec.2, fun only => ?_⟩
  split at h
  · obtain ⟨-, -, h⟩ := bind_ok h
    have refused := of_need_ok h
    simp [only] at refused
  · obtain ⟨-, -, h⟩ := bind_ok h
    obtain ⟨-, -, h⟩ := bind_ok h
    have noReg := of_need_ok h
    simp only [List.any_cons, Bool.not_or, Bool.and_eq_true, Bool.not_eq_true'] at noReg
    exact noReg.1

theorem isSlot_of_not_isReg {x : Nat} (hx : x < 0x60) (h : isReg x = false) : isSlot x = true := by
  simp only [isReg, isSlot, Bool.and_eq_false_iff, decide_eq_false_iff_not, decide_eq_true_eq] at h ⊢
  omega

theorem vDestBytes_of_count {s : State} {q n : Nat} {o : VOp} (hn : vCount (s.quern q) o = .ok n) :
    vDestBytes s q o = if isReg o.d then [] else slotBytesOf s q o.d n := by
  rw [vDestBytes, hn]

/-- VSEL's destination, where it is a slot, counts its elements in its own format. -/
theorem selBytes_of_mem {s : State} {q n k : Nat} {o : VOp} {df : Fmt} {d : Desc} (hd : isSlot o.d = true) (hf : slotFmtOf (s.quern q) o.d = .ok df)
    (hn : vCountIn (s.quern q) o df = .ok n) (hm : vMem (s.quern q) q o.d n = .ok (d, k)) : selBytes s q o = slotBytesOf s q o.d n := by
  have named := needDesc_of_vMem hm
  obtain rfl : d.fmt = df := by simpa [slotFmtOf, named] using hf
  simp [selBytes, isReg_of_isSlot hd, named, hn]

/-- The bytes of a norm record's lanes and flags. -/
theorem normWrites_addr {rd : Nat → W8} {base e0 : Nat} {vals : List Val} {b : Nat} (h : b ∈ (normWrites rd base e0 vals).1.map (·.1)) :
    b ∈ rangeAddrs [((base : Int), 512), ((base : Int) + 520, 4)] := by
  unfold normWrites at h
  simp only [List.map_append, List.map_flatMap, List.mem_append, List.mem_flatMap, List.mem_range] at h
  rcases h with ⟨l, hl, h⟩ | h
  · have inside := mem_cellsAt h
    rw [length_leBytes] at inside
    exact mem_rangeAddrs (r := ((base : Int), 512)) (by simp) (by simp) (by simp; omega) (by simp; omega)
  · have inside := mem_cellsAt h
    rw [length_leBytes] at inside
    exact mem_rangeAddrs (r := ((base : Int) + 520, 4)) (by simp) (by simp; omega) (by simp; omega) (by simp; omega)

/-! ## Stores -/

/-- The state that an effect answers has byte `a` as it was in `s`. -/
abbrev LeavesByte (a : Nat) (s : State) (x : Except Nat State) : Prop := Yields (fun t => Memory.get t.mem a = Memory.get s.mem a) x

section Frame
variable {s : State} {q : Nat} {a : Nat} (w : Memory.wf s.mem = true)
include w

/-- A store into other bytes than `a` leaves the byte. -/
theorem get_vStore {bytes : List (Nat × W8)} (h : a ∉ bytes.map (·.1)) (v : Quern) (dist : Nat) (lanes : List (Nat × W32))
    (mask : Nat → W8) : Memory.get (vStore (s.setQuern q v) q dist lanes bytes mask).mem a = Memory.get s.mem a := by
  rw [mem_vStore]
  exact Memory.get_setAll_of_notMem _ _ w h

/-- The same for a body that ends with the store and the advance of its cursors. -/
theorem leavesByte_vStore {bytes : List (Nat × W8)} (h : a ∉ bytes.map (·.1)) (v : Quern) (dist : Nat) (lanes : List (Nat × W32))
    (mask : Nat → W8) (f : Quern → Quern) :
    LeavesByte a s (.ok ((vStore (s.setQuern q v) q dist lanes bytes mask).updQuern q f)) := get_vStore w h v dist lanes mask

/-- A result in the computation format reaches the bytes of the destination that `vDestBytes` names. -/
theorem leavesByte_vDestConv {u : State} {o : VOp} {n : Nat} (hu : u.mem = s.mem) (hd : (u.quern q).dslots = (s.quern q).dslots)
    (hn : vCount (s.quern q) o = .ok n) (ha : a ∉ vDestBytes s q o) (dist comp conv rm sat vals draw) :
    LeavesByte a s (vDestConv u q o dist comp conv rm sat vals draw n) := by
  refine yields_of_ok fun t ht => ?_
  rw [← hu] at w ⊢
  refine vDestConv_frame w ht (fun hb => ha ?_)
  rwa [vDestBytes_of_count hn, ← slotBytesOf_congr hd]

theorem leavesByte_vArith {o : VOp} (ha : a ∉ vDestBytes s q o) (srcs unused : List Nat) (op : RMode → List Val → Val × Fl) :
    LeavesByte a s (vArith q o srcs unused op s) := by
  refine yields_next fun _ _ => yields_next fun comp _ => yields_next fun n hn => yields_next fun vals _ => ?_
  exact Yields.bind (leavesByte_vDestConv w (mem_raised ..) (dslots_raised ..) hn ha ..) fun t ht => ht

theorem leavesByte_vTwo {i : Issue} (ha : a ∉ vDestBytes s q (vaOp i)) (f : RMode → Val → Val → Val × Fl) :
    LeavesByte a s (vTwo q i f s) := yields_next fun _ _ => leavesByte_vArith w ha ..

theorem leavesByte_vCvt {i : Issue} (ha : a ∉ vDestBytes s q (vaOp i)) : LeavesByte a s (vCvt q i s) := by
  refine yields_next fun _ _ => yields_next fun _ _ => yields_next fun n hn => yields_next fun comp _ => yields_next fun vals _ => ?_
  exact Yields.bind (leavesByte_vDestConv w rfl rfl hn ha ..) fun t ht => ht

theorem leavesByte_vSpecial {i : Issue} (ha : a ∉ vDestBytes s q (vaOp i)) (opbit : Bool) (f : VOp → Val → Val × Fl) :
    LeavesByte a s (vSpecial q i opbit f s) := by
  refine yields_next fun _ _ => yields_next fun _ _ => yields_next fun comp _ => yields_next fun _ _ => yields_next fun n hn =>
    yields_next fun vals _ => ?_
  dsimp only
  split
  · exact Yields.bind (leavesByte_vDestConv w (mem_raised ..) (dslots_raised ..) hn ha ..) fun t ht => ht
  · exact Yields.bind (leavesByte_vDestConv w (mem_raised ..) (dslots_raised ..) hn ha ..) fun t ht => ht

/-- What VSEL selects, a register takes, or the slot whose elements `selBytes` counts. -/
theorem leavesByte_selInto {o : VOp} {df : Fmt} {n : Nat} (hd : o.d < 0x60)
    (hf : (if isSlot o.d then slotFmtOf (s.quern q) o.d else .ok (cfmtOf o.cfmt)) = .ok df)
    (hn : vCountIn (s.quern q) o df = .ok n) (ha : a ∉ selBytes s q o) (f : Nat → Nat) :
    LeavesByte a s (selInto s q o df ((List.range n).map (fun j => (j, f j))) n) := by
  unfold selInto
  split
  · rfl
  · next hr =>
    have slot : isSlot o.d = true := isSlot_of_not_isReg hd (by simpa using hr)
    rw [if_pos slot] at hf
    refine yields_next fun (d, k) hm => ?_
    rw [selBytes_of_mem slot hf hn hm] at ha
    dsimp only
    refine leavesByte_vStore w (fun hb => ha (putRaw_mem_slotBytes hm ?_ hb)) ..
    simp

theorem leavesByte_vSel {i : Issue} (ha : a ∉ selBytes s q (vbOp i)) : LeavesByte a s (vSel q i s) := by
  refine yields_next fun _ _ => yields_next fun _ _ => yields_next fun _ hcheck => yields_next_ite fun df hf => yields_next fun _ _ =>
    yields_next fun n hn => yields_next_ite fun av _ => yields_next fun bb _ => yields_next fun cb _ => ?_
  exact leavesByte_selInto w (o := vbOp i) (dest_of_vCheck hcheck).1 hf hn ha
    fun j => if selTest (vbOp i).rm (av.getD j valZero) then bb.getD j 0 else cb.getD j 0

theorem leavesByte_vRng {i : Issue} (ha : a ∉ vDestBytes s q (vaOp i)) : LeavesByte a s (vRng q i s) := by
  refine yields_next fun _ _ => yields_next fun _ hcheck => yields_next fun _ _ => yields_next fun n hn => yields_next fun _ _ =>
    yields_next fun _ _ => yields_next fun (d, k) hm => ?_
  rw [vDestBytes_of_count hn, (dest_of_vCheck hcheck).2 rfl] at ha
  refine leavesByte_vStore w (fun hb => ha (putRaw_mem_slotBytes hm ?_ hb)) ..
  simp

theorem leavesByte_vSrnd {i : Issue} (ha : a ∉ vDestBytes s q (vaOp i)) : LeavesByte a s (vSrnd q i s) := by
  refine yields_next fun _ _ => yields_next fun _ hcheck => yields_next fun _ _ => yields_next fun _ _ => yields_next fun _ _ =>
    yields_next fun n hn => yields_next fun vals _ => yields_next fun (d, k) hm => yields_next fun _ _ => ?_
  rw [vDestBytes_of_count hn, (dest_of_vCheck hcheck).2 rfl] at ha
  refine leavesByte_vStore w (fun hb => ha ?_) ..
  obtain ⟨y, hy, h1, h2⟩ := packBits_addr hb
  rw [fst_foldl_append] at hy
  simp only [List.nil_append, List.mem_map] at hy
  obtain ⟨x, hx, rfl⟩ := hy
  exact elem_mem_slotBytes hm (by simpa using (List.of_mem_zip hx).1) h1 h2

theorem leavesByte_vRowstat {i : Issue} (ha : a ∉ rowBytes s q (vaOp i)) : LeavesByte a s (vRowstat q i s) := by
  refine yields_next fun _ _ => yields_next fun _ _ => yields_next fun _ _ => yields_next fun _ _ => yields_next fun n hn =>
    yields_next fun da hda => yields_next fun _ _ => yields_next fun _ _ => yields_next fun _ _ => yields_next fun (d, k) _ =>
    yields_next fun (dd, kd) hm => yields_next fun _ _ => ?_
  rw [rowBytes, hn, hda] at ha
  refine leavesByte_vStore w (fun hb => ha (putConv_mem_slotBytes hm ?_ hb)) ..
  simp only [List.mem_map]
  rintro x ⟨y, hy, rfl⟩
  have inside := (List.of_mem_zip hy).1
  rw [List.mem_range, length_flatMap_pair, List.length_map, List.length_range] at inside
  exact ⟨y.1, inside, rfl⟩

theorem leavesByte_vNorm2 {i : Issue} (ha : a ∉ normBytes s q (vaOp i)) : LeavesByte a s (vNorm2 q i s) := by
  refine yields_next fun _ _ => yields_next fun _ _ => yields_next fun _ _ => yields_next fun dd hdd => yields_next fun _ _ =>
    yields_next fun _ _ => ?_
  rw [normBytes, hdd] at ha
  dsimp only at ha ⊢
  split
  · next fold =>
    rw [if_pos fold] at ha
    rw [yields_ok]
    refine get_vStore w (fun hb => ha ?_) ..
    have inside := mem_cellsAt hb
    rw [length_leBytes] at inside
    exact mem_rangeAddrs (r := ((dd.base : Int) + 512, 8)) (by simp) (by simp; omega) (by simp; omega) (by simp; omega)
  · next fold =>
    rw [if_neg fold] at ha
    refine yields_next fun _ _ => yields_next fun _ _ => yields_next fun _ _ => yields_next fun _ _ => ?_
    exact leavesByte_vStore w (fun hb => ha (normWrites_addr hb)) ..

end Frame

/-! ## VUPD stores three times (R151) -/

/-- A state that keeps byte `a` and the descriptor slots of Quern `q`, between the stores of one instruction. -/
structure KeepsByte (q a : Nat) (s t : State) : Prop where
  wf : Memory.wf t.mem = true
  dslots : (t.quern q).dslots = (s.quern q).dslots
  byte : Memory.get t.mem a = Memory.get s.mem a

theorem KeepsByte.updPut {s u : State} {q a slot n : Nat} (h : KeepsByte q a s u) (ha : a ∉ slotBytesOf s q slot n) (roll : Bool)
    (words : List Nat) : Yields (KeepsByte q a s) (updPut q slot n roll words u) := by
  obtain ⟨w, same, byte⟩ := h
  rw [← slotBytesOf_congr same] at ha
  refine yields_next fun (d, k) hm => ⟨Memory.wf_setAll _ w, ?_, (get_vStore w (fun hb => ha (putRaw_mem_slotBytes hm ?_ hb)) ..).trans byte⟩
  · simpa using same
  · simp only [List.mem_map]
    rintro x ⟨y, hy, rfl⟩
    exact ⟨y.1, by simpa using (List.of_mem_zip hy).1, rfl⟩

theorem leavesByte_vUpd {s : State} {q a : Nat} (w : Memory.wf s.mem = true) {i : Issue} (ha : a ∉ updBytes s q (vaOp i)) :
    LeavesByte a s (vUpd q i s) := by
  refine yields_next fun _ _ => yields_next fun _ _ => yields_next fun _ _ => yields_next fun _ _ => yields_next fun n hn =>
    yields_next fun ops _ => yields_next fun _ _ => yields_next fun _ _ => yields_next fun cb _ => yields_next fun _ _ =>
    yields_next fun _ _ => yields_next fun _ _ => ?_
  rw [updBytes, hn] at ha
  simp only [List.mem_append, not_or] at ha
  obtain ⟨⟨weights, first⟩, second⟩ := ha
  have raisedFl (f : Fl) : KeepsByte q a s (s.updQuern q fun v => v.raiseFl f) :=
    ⟨w, by rw [quern_updQuern_same]; rfl, rfl⟩
  dsimp only
  split
  · rfl
  · refine Yields.bind ((raisedFl _).updPut weights ..) fun s1 h1 => Yields.bind (h1.updPut first ..) fun s2 h2 =>
      Yields.bind (h2.updPut second ..) fun s3 h3 => h3.byte

/-! ## The V stream (R119) -/

/-- An instruction of the V stream whose effect leaves a byte leaves it. -/
theorem get_startV {s t : State} {q : Nat} {op : Opcode} {i : Issue} {body : State → Except Nat State} {a : Nat}
    (h : startV q op i body s = .next t) (hb : LeavesByte a s (body (vBegun s q i))) :
    Memory.get t.mem a = Memory.get s.mem a := startV_frame h fun _ hu => hb.of_ok hu

theorem get_vStream {s t : State} {q : Fin 128} {i : Issue} {a : Nat} (w : Memory.wf s.mem = true) {c : Instr} (hc : c ∈ vStream q i)
    (h : exec c s = .next t) (ha : a ∉ vStored s q c) : Memory.get t.mem a = Memory.get s.mem a := by
  have w' : Memory.wf (vBegun s q i).mem = true := w
  simp only [vStream, List.mem_cons, List.not_mem_nil, or_false] at hc
  rcases hc with rfl | rfl | rfl | rfl | rfl | rfl | rfl | rfl | rfl | rfl | rfl | rfl | rfl | rfl | rfl | rfl | rfl | rfl
  · exact get_startV (op := .vadd) h (leavesByte_vTwo w' ha _)
  · exact get_startV (op := .vmul) h (leavesByte_vTwo w' ha _)
  · unfold exec execVfma at h
    exact get_startV h (yields_next fun _ _ => leavesByte_vArith w' ha ..)
  · exact get_startV (op := .vmax) h (leavesByte_vTwo w' ha _)
  · exact get_startV (op := .vmin) h (leavesByte_vTwo w' ha _)
  · exact get_startV (op := .vsel) h (leavesByte_vSel w' ha)
  · exact get_startV (op := .vcvt) h (leavesByte_vCvt w' ha)
  · exact get_startV (op := .vexp) h (leavesByte_vSpecial w' ha ..)
  · exact get_startV (op := .vlog) h (leavesByte_vSpecial w' ha ..)
  · exact get_startV (op := .vrcp) h (leavesByte_vSpecial w' ha ..)
  · exact get_startV (op := .vrsq) h (leavesByte_vSpecial w' ha ..)
  · exact get_startV (op := .vrowstat) h (leavesByte_vRowstat w' ha)
  · exact get_startV (op := .vrng) h (leavesByte_vRng w' ha)
  · exact get_startV (op := .vsrnd) h (leavesByte_vSrnd w' ha)
  · exact get_startV (op := .vnorm2) h (leavesByte_vNorm2 w' ha)
  · exact get_startV (op := .vupd) h (leavesByte_vUpd w' ha)
  · unfold exec execVsetvl at h
    exact get_startV h (yields_next fun _ _ => yields_next fun _ _ => rfl)
  · unfold exec execVmode at h
    exact get_startV h (yields_next fun _ _ => yields_next fun _ _ => rfl)

/-- Settles O55: the start and the signal reach other Querns only through an error, and each body stores to its destination alone. -/
theorem streamsStayLocal : Obligations.StreamsStayLocal := by
  refine ⟨fun c s t q p hc h running hp => ?_, fun s t q i w c hc h a ha => get_vStream w hc h ha⟩
  obtain ⟨u, hu, same⟩ := staysLocal_issuer hc s
  obtain rfl : u = t := by simpa [hu] using h
  exact quern_of_others (same running) hp

end Sys2Proof.Machine
end


section
/-! # Words of instructions

An instruction's word holds its fields and whether an extension word follows, and no two operations share a stream code and an opcode
(R187 to R191). -/

namespace Sys2Proof

/-! ## Operations and their codes (R191) -/

theorem opcodeOf_code (op : Opcode) : opcodeOf op.code.1 op.code.2 = some op := by cases op <;> rfl

theorem code_of_opcodeOf {stream code : Nat} {op : Opcode} (h : opcodeOf stream code = some op) : op.code = (stream, code) := by
  unfold opcodeOf at h
  split at h <;> cases h <;> rfl

theorem code_fits (op : Opcode) : op.code.1 < 2 ^ 2 ∧ op.code.2 < 2 ^ 6 := by cases op <;> decide

/-! ## The fields of a word (R188) -/

/-- The word of an opcode, a stream code, the fields of an issue, and the bit that announces an extension word. -/
def wordOf (code : BitVec 6) (stream : BitVec 2) (i : Issue) (ext : Bool) : BitVec (6 + 2 + 5 + 1 + 5 + 1 + 1 + 43) :=
  code ++ stream ++ i.wtok ++ BitVec.ofBool i.wen ++ i.stok ++ BitVec.ofBool i.sen ++ BitVec.ofBool ext ++ i.ops

/-- The operation that a word names. -/
def opOf (w : W64) : Option Opcode := opcodeOf (w.extractLsb' 56 2).toNat (w.extractLsb' 58 6).toNat

/-- The issue that a word gives, with an extension word or without. -/
def issueOf (w : W64) (ext : Option W64) : Issue :=
  { wtok := w.extractLsb' 51 5, wen := w.getLsbD 50, stok := w.extractLsb' 45 5, sen := w.getLsbD 44, ops := w.extractLsb' 0 43, ext := ext }

theorem encodeWord_eq (x : SeqInstr) :
    encodeWord x = wordOf (BitVec.ofNat 6 x.op.code.2) (BitVec.ofNat 2 x.op.code.1) x.issue x.issue.ext.isSome := rfl

section Fields
variable (code : BitVec 6) (stream : BitVec 2) (i : Issue) (ext : Bool)

theorem code_wordOf : (wordOf code stream i ext).extractLsb' 58 6 = code := by
  unfold wordOf
  grind [BitVec.extractLsb'_append_eq_of_le]

theorem stream_wordOf : (wordOf code stream i ext).extractLsb' 56 2 = stream := by
  unfold wordOf
  grind [BitVec.extractLsb'_append_eq_of_le, BitVec.extractLsb'_append_eq_right]

theorem ext_wordOf : (wordOf code stream i ext).getLsbD 43 = ext := by
  unfold wordOf
  grind

theorem issueOf_wordOf : issueOf (wordOf code stream i ext) i.ext = i := by
  obtain ⟨wtok, wen, stok, sen, ops, e⟩ := i
  unfold issueOf wordOf
  congr 1 <;> grind [BitVec.extractLsb'_append_eq_of_le, BitVec.extractLsb'_append_eq_right]

end Fields

theorem ofBool_getLsbD {n : Nat} (w : BitVec n) (k : Nat) : BitVec.ofBool (w.getLsbD k) = w.extractLsb' k 1 := by
  ext j hj
  simp [show j = 0 by omega]

/-- A word is the word of its fields. -/
theorem wordOf_fields (w : W64) (e : Option W64) : wordOf (w.extractLsb' 58 6) (w.extractLsb' 56 2) (issueOf w e) (w.getLsbD 43) = w := by
  simp only [wordOf, issueOf, ofBool_getLsbD, BitVec.extractLsb'_append_extractLsb'_eq_extractLsb', BitVec.extractLsb'_eq_self]

theorem opOf_encodeWord (x : SeqInstr) : opOf (encodeWord x) = some x.op := by
  have ⟨stream, code⟩ := code_fits x.op
  rw [opOf, encodeWord_eq, stream_wordOf, code_wordOf, BitVec.toNat_ofNat, BitVec.toNat_ofNat, Nat.mod_eq_of_lt stream,
    Nat.mod_eq_of_lt code, opcodeOf_code]

theorem codes_of_opOf {w : W64} {op : Opcode} (h : opOf w = some op) :
    BitVec.ofNat 6 op.code.2 = w.extractLsb' 58 6 ∧ BitVec.ofNat 2 op.code.1 = w.extractLsb' 56 2 := by
  rw [code_of_opcodeOf h]
  exact ⟨BitVec.ofNat_toNat .., BitVec.ofNat_toNat ..⟩

/-- A word is an instruction's when it names its operation, gives its issue, and announces an extension word where it has one. -/
theorem eq_encodeWord_iff (w : W64) (x : SeqInstr) :
    w = encodeWord x ↔ opOf w = some x.op ∧ issueOf w x.issue.ext = x.issue ∧ w.getLsbD 43 = x.issue.ext.isSome := by
  constructor
  · rintro rfl
    exact ⟨opOf_encodeWord x, issueOf_wordOf .., ext_wordOf ..⟩
  · rintro ⟨op, issue, ext⟩
    obtain ⟨code, stream⟩ := codes_of_opOf op
    rw [encodeWord_eq, code, stream, ← ext]
    conv_rhs => rw [← issue]
    exact (wordOf_fields w _).symm

/-! ## Decoding (R187, R191) -/

theorem decodeWords_cons {w : W64} {op : Opcode} {ext : Option W64} (hop : opOf w = some op) (hext : w.getLsbD 43 = ext.isSome)
    (rest : List W64) : decodeWords (w :: (ext.toList ++ rest)) = some (⟨op, issueOf w ext⟩, rest) := by
  unfold opOf at hop
  unfold decodeWords
  cases ext <;> simp only [hop, hext, Option.isSome, Option.toList, if_true, if_false, Bool.false_eq_true] <;> rfl

/-- What decodes is a word that names an operation, with an extension word behind it where it announces one. -/
theorem exists_of_decodeWords {l rest : List W64} {x : SeqInstr} (h : decodeWords l = some (x, rest)) : ∃ w, l = w :: (x.issue.ext.toList ++ rest)
    ∧ opOf w = some x.op ∧ issueOf w x.issue.ext = x.issue ∧ w.getLsbD 43 = x.issue.ext.isSome := by
  unfold decodeWords at h
  split at h
  · cases h
  · next w l =>
    split at h
    · cases h
    · next op hop =>
      cases ext : w.getLsbD 43 <;> simp only [ext, if_true, if_false, Bool.false_eq_true] at h
      · cases h
        exact ⟨w, rfl, hop, rfl, ext⟩
      · cases l with
        | nil => cases h
        | cons e l =>
          cases h
          exact ⟨w, rfl, hop, rfl, ext⟩

theorem encodeWords_eq (x : SeqInstr) : encodeWords x = encodeWord x :: x.issue.ext.toList := by
  unfold encodeWords
  cases x.issue.ext <;> rfl

/-- A list decodes to an instruction and what lies behind it exactly when it begins with the instruction's words. -/
theorem decodeWords_iff (l rest : List W64) (x : SeqInstr) : decodeWords l = some (x, rest) ↔ l = encodeWords x ++ rest := by
  rw [encodeWords_eq]
  constructor
  · intro h
    obtain ⟨w, rfl, fields⟩ := exists_of_decodeWords h
    rw [(eq_encodeWord_iff w x).2 fields]
    rfl
  · rintro rfl
    obtain ⟨op, issue, ext⟩ := (eq_encodeWord_iff _ x).1 rfl
    exact (decodeWords_cons op ext rest).trans (by rw [issue])

/-- Settles O58: the words hold every field, and the fields make up the words. -/
theorem encodingsRoundTrip : Obligations.EncodingsRoundTrip :=
  ⟨fun x rest => (decodeWords_iff _ rest x).2 rfl, fun x l rest => (decodeWords_iff l rest x).1⟩

end Sys2Proof
end


section
/-! # The vector length and the mode

VSETVL and VMODE by what they leave of their Quern, and the codes of reserved bits (R114, R125, R204). -/

namespace Sys2Proof.Machine

open Sys2Proof

theorem needTop_ne {i : Issue} {lo : Nat} (h : i.ops >>> lo ≠ 0) : needTop i lo = .error 0x20 := by
  rw [needTop, beq_eq_false_iff_ne.2 h, need_false]

@[simp] theorem error_bind {α β : Type} (code : Nat) (f : α → Except Nat β) : ((Except.error code : Except Nat α) >>= f) = .error code := rfl

section
variable {s : State} {q : Fin 128} {i : Issue}

/-! ## VSETVL (R125) -/

theorem exec_vsetvl (h : Starts s q .v .vsetvl i) (ho : i.ops >>> 16 = 0) (hl : fld i 0 16 ≤ vlMax (s.quern q).org) :
    exec (.vsetvl q i) s = .next (vEnded s ((vBegun s q i).updQuern q (fun v => { v with vlen := fld i 0 16 })) q i) := by
  have within : fld i 0 16 ≤ vlMax ((vBegun s q i).quern q).org := by rwa [quern_vBegun]
  change execVsetvl q i s = _
  exact startV_ok h (by simp only [needTop_of ho, decide_eq_true within, need_true, ok_bind])

theorem exec_vsetvl_reserved (h : Starts s q .v .vsetvl i) (ho : i.ops >>> 16 ≠ 0) :
    exec (.vsetvl q i) s = .next (failInstr (begun s q i) q .v ((s.quern q).stream .v).pos 0x20) := by
  change execVsetvl q i s = _
  exact startV_fail h (by rw [needTop_ne ho, error_bind])

/-! ## VMODE (R114) -/

/-- Setting the organisation that stands changes the rounding mode alone. -/
theorem setOrg_of_eq {v : Quern} {org : Bool} (h : v.org = org) (defrm : BitVec 3) : setOrg org defrm v = { v with defrm := defrm } := by
  simp [setOrg, h]

/-- Setting another organisation clears the registers and sets the length to its maximum. -/
theorem setOrg_of_ne {v : Quern} {org : Bool} (h : v.org ≠ org) (defrm : BitVec 3) : setOrg org defrm v
    = { v with defrm := defrm, org := org, lanes := [], vlen := vlMax org, vpend := v.vpend.map (fun p => { p with lanes := [] }) } := by
  simp [setOrg, h]

/-- The state in which VMODE has set the organisation and the rounding mode. -/
def modeSet (s : State) (q : Nat) (i : Issue) : State := s.updQuern q (setOrg (fld i 0 1 = 1) (BitVec.ofNat 3 (fld i 1 3)))

theorem exec_vmode (h : Starts s q .v .vmode i) (ho : i.ops >>> 4 = 0) (hr : fld i 1 3 ≤ 4) :
    exec (.vmode q i) s = .next (vEnded s (modeSet (vBegun s q i) q i) q i) := by
  change execVmode q i s = _
  exact startV_ok h (by simp only [needTop_of ho, decide_eq_true hr, need_true, ok_bind, modeSet])

theorem exec_vmode_reserved (h : Starts s q .v .vmode i) (ho : i.ops >>> 4 ≠ 0) :
    exec (.vmode q i) s = .next (failInstr (begun s q i) q .v ((s.quern q).stream .v).pos 0x20) := by
  change execVmode q i s = _
  exact startV_fail h (by rw [needTop_ne ho, error_bind])

theorem exec_vmode_reservedMode (h : Starts s q .v .vmode i) (ho : i.ops >>> 4 = 0) (hr : 5 ≤ fld i 1 3) :
    exec (.vmode q i) s = .next (failInstr (begun s q i) q .v ((s.quern q).stream .v).pos 0x22) := by
  have reserved : need (fld i 1 3 ≤ 4) 0x22 = .error 0x22 := by rw [decide_eq_false (by omega), need_false]
  change execVmode q i s = _
  exact startV_fail h (by rw [needTop_of ho, ok_bind, reserved, error_bind])

end

/-- Settles O7: VMODE by whether the organisation changes, refusals by the first check that fails. -/
theorem vectorLengthAndMode : Obligations.VectorLengthAndMode := by
  intro s q i
  refine ⟨fun h => ⟨fun ho hl => ⟨_, exec_vsetvl h ho hl, ?_⟩, exec_vsetvl_reserved h⟩,
    fun h => ⟨fun ho hr => ⟨_, exec_vmode h ho hr, ?_⟩, exec_vmode_reserved h, exec_vmode_reservedMode h⟩⟩
  · rw [quern_updQuern_same, quern_vBegun]
    exact ⟨rfl, rfl, rfl, rfl⟩
  · have org : ((vBegun s q i).quern q).org = (s.quern q).org := by rw [quern_vBegun]
    rw [modeSet, quern_updQuern_same]
    by_cases same : (s.quern q).org = decide (fld i 0 1 = 1)
    · rw [setOrg_of_eq (org.trans same)]
      exact ⟨org.trans same, rfl, rfl, fun _ => by rw [quern_vBegun]; exact ⟨rfl, rfl⟩, fun h => absurd same h⟩
    · rw [setOrg_of_ne (org ▸ same)]
      exact ⟨rfl, rfl, rfl, fun h => absurd h same, fun _ => ⟨rfl, rfl⟩⟩

end Sys2Proof.Machine
end


section
/-! # What pages and the journal leave as it was

Page lists are linked in the Imposition table alone; a journal record reaches the pair's state and the Races alone (R224, R401). -/

namespace Sys2Proof.Machine

open Sys2Proof

/-! ## Pages (R224, R281) -/

/-- A state but for its memory map. -/
def State.besideMap (s : State) : State := { s with mm := {} }

@[simp] theorem besideMap_setPage (s : State) (p : Nat) (e : ImpEnt) : (s.setPage p e).besideMap = s.besideMap := rfl

@[simp] theorem besideMap_chainPages (s : State) (tail : Option Nat) (l : List Nat) : (chainPages tail l s).besideMap = s.besideMap := by
  induction l generalizing s with
  | nil => rfl
  | cons p l ih => exact (ih _).trans (besideMap_setPage s p _)

@[simp] theorem besideMap_aliasPages (s : State) (owner base n : Nat) (pages : List Nat) :
    (aliasPages s owner base n pages).besideMap = s.besideMap := by
  refine foldl_keeps State.besideMap (fun s i => ?_) _ s
  split <;> rfl

@[simp] theorem besideMap_setWindow (s : State) (sh : Nat) (new : List Nat) : (setWindow s sh new).besideMap = s.besideMap := by
  simp [setWindow]

section SameBesideMap
variable {s t : State} (h : t.besideMap = s.besideMap)
include h

theorem ctx_of_besideMap (c : Nat) : t.ctx c = s.ctx c := (congrArg (State.ctx · c) h :)
theorem hopper_of_besideMap (n : Nat) : t.hopper n = s.hopper n := (congrArg (State.hopper · n) h :)
theorem shard_of_besideMap (sh : Nat) : t.shard sh = s.shard sh := (congrArg (State.shard · sh) h :)
theorem ed_of_besideMap (e : Nat) : t.ed e = s.ed e := (congrArg (State.ed · e) h :)

end SameBesideMap

/-- A free list that holds the pages gives its first ones, and nothing but the list and the map changes. -/
theorem takePages_of_le {s : State} {c n : Nat} (h : n ≤ (s.ctx c).free.length) (shared : Bool) :
    ∃ t, takePages s c n shared = some ((s.ctx c).free.take n, t)
      ∧ t.besideMap = (s.updCtx c (fun x => { x with free := (s.ctx c).free.drop n })).besideMap := by
  refine ⟨_, if_neg (Nat.not_lt.2 h), ?_⟩
  exact (foldl_keeps State.besideMap (fun s p => besideMap_setPage s p _) _ _).trans (besideMap_chainPages ..)

/-! ## The journal (R401 to R403) -/

theorem journal_eq (s : State) (sub : Nat) (body : List Nat) (bytes : List W8) :
    ∃ pair races, journal s sub body bytes = { s with pair := pair, races := races } := by
  unfold journal
  split
  · dsimp only
    split
    · exact ⟨_, _, rfl⟩
    · exact ⟨_, s.races, rfl⟩
  · exact ⟨s.pair, s.races, rfl⟩

theorem journalFor_eq (s : State) (c sub : Nat) (body : List Nat) :
    ∃ pair races, journalFor s c sub body = { s with pair := pair, races := races } := by
  unfold journalFor
  split
  · exact ⟨s.pair, s.races, rfl⟩
  · exact journal_eq ..

@[simp] theorem flume_at_journalFor (s : State) (c sub : Nat) (body : List Nat) (f : Nat) :
    (journalFor s c sub body).flume f = s.flume f := by
  obtain ⟨_, _, h⟩ := journalFor_eq s c sub body
  rw [h]
  rfl

@[simp] theorem entry_at_journalFor (s : State) (c sub : Nat) (body : List Nat) (e : Nat) :
    (journalFor s c sub body).entry? e = s.entry? e := by
  obtain ⟨_, _, h⟩ := journalFor_eq s c sub body
  rw [h]
  rfl

end Sys2Proof.Machine
end

section
/-! # Entries are popped and pushed

HPOP, HPUSH and HRCPT: the entry that they find, and what they leave of it (R255 to R258, R265). -/

namespace Sys2Proof.Machine

open Sys2Proof

/-! ## HPOP (R255, R256) -/

theorem hregUnread_stageBegun (s : State) (c : Nat) (i : Issue) (k : Nat) :
    hregUnread ((stageBegun s c i).ctx c) k = hregUnread (s.ctx c) k := by
  rw [ctx_stageBegun]
  rfl

section Pop
variable {s : State} {c h id : Nat} {e : Entry} (hc : popCandidate s h = some (id, e)) (room : areaNeed s h e ≤ (s.ctx c).free.length)
include hc room

theorem popReady_of : popReady c h s = true := by simp [popReady, hc, room]

/-- An HPOP that has its pages is not delayed. -/
theorem stallHpop_of : stallHpop c h s = s := by simp [stallHpop, popReady_of hc room]

/-- What a pop leaves of the entry, its register and its Hopper. -/
theorem popEntry_spec (k : Nat) (x : Ctx) :
    (popEntry c h k x s).entry? id
        = some { e with state := .taken, outPages := e.outPages ++ (s.ctx c).free.take (areaNeed s h e) }
      ∧ ((popEntry c h k x s).ctx c).hregs.getD k none = some { entry := id, read := false }
      ∧ (popEntry c h k x s).hopper h = if (s.hopper h).ordered then nextOrder (s.hopper h) else s.hopper h := by
  obtain ⟨t, ht, beside⟩ := takePages_of_le room false
  have hopper : t.hopper h = s.hopper h := hopper_of_besideMap beside h
  simp only [popEntry, hc, ht, hopper, ctx_updCtx_same, Tbl.getD_set_same, true_and, State.hopper_at_setEntry]
  split
  · exact ⟨State.entry_setEntry_same .., State.hopper_setHopper_same ..⟩
  · exact ⟨State.entry_setEntry_same .., hopper⟩

end Pop

theorem exec_hpop {s : State} {c : Fin 32} {i : Issue} {id : Nat} {e : Entry} (h : StageStarts s c .hpop i true) (ho : i.ops >>> 4 = 0)
    (unread : hregUnread (s.ctx c) (fld i 0 3) = false) (hc : popCandidate s (2 * c + fld i 3 1) = some (id, e))
    (room : areaNeed s (2 * c + fld i 3 1) e ≤ (s.ctx c).free.length) : exec (.hpop c i) s
    = .next (settle (stageEnded s (popEntry c (2 * c + fld i 3 1) (fld i 0 3) { s.ctx c with hpopStalled := false } (stageBegun s c i)) c i
        .now)) := by
  change execHpop c i s = _
  simp only [execHpop, stallHpop_of hc room, ite_self]
  refine stageInstr_ok h (by simp [popReady_of hc room]) ?_
  simp only [needTop_of ho, hregUnread_stageBegun, unread, Bool.not_false, need_true, ok_bind]

/-! ## HPUSH (R258, R265) -/

theorem hregEntry_stageBegun (s : State) (c : Nat) (i : Issue) (k : Nat) : hregEntry (stageBegun s c i) c k = hregEntry s c k := by
  unfold hregEntry
  rw [ctx_stageBegun]
  rfl

/-- The state in which an HPUSH acts: its entry register has been read (R211). -/
def registerRead (s : State) (c : Nat) (i : Issue) : State := (stageBegun s c i).setCtx c (markRead ((stageBegun s c i).ctx c) (fld i 0 3))

/-- An output takes its Flume's next sequence number, and its entry is DONE; on a SINK it is receipted (R258, R265). -/
def numbered (s : State) (f h : Nat) (e : Entry) : State :=
  (s.setFlume f { s.flume f with seq := (s.flume f).seq + 1 }).setEntry h
    { e with state := .done, pushed := true, hpushed := true, outFlume := f, outSeq := (s.flume f).seq + 1
             rcpt := e.rcpt || decide ((s.flume f).kind = 3) }

/-- The twin is told the number of an output (R401). -/
def numberJournaled (s : State) (f seq : Nat) (e : Entry) : State := journalFor s (e.hopper / 2) 3 [e.flume, e.seq, f, seq]

/-- An output without a number takes one, and enters the transmit queue where its Flume is no SINK. -/
theorem pushEntry_of {s : State} {f h : Nat} {e : Entry} (he : s.entry? h = some e) (taken : e.state = .taken) (fresh : e.pushed = false) :
    pushEntry f h s = if (s.flume f).kind = 3 then numberJournaled (numbered s f h e) f ((s.flume f).seq + 1) e
      else hold (numberJournaled (numbered s f h e) f ((s.flume f).seq + 1) e)
        (.txEnter f { kind := .mb h, seq := (s.flume f).seq + 1 }) := by
  simp only [pushEntry, he, taken, fresh, ne_eq, not_true_eq_false, if_false, Bool.false_eq_true]
  rfl

/-- What a push of an output without a number leaves: the number and the entry stand in a state `u`, which the queue follows. -/
theorem pushEntry_spec {s : State} {f h : Nat} {e : Entry} (he : s.entry? h = some e) (taken : e.state = .taken) (fresh : e.pushed = false) :
    ∃ u, (u.flume f).seq = (s.flume f).seq + 1
      ∧ u.entry? h = some { e with
          state := .done, pushed := true, hpushed := true, outFlume := f, outSeq := (s.flume f).seq + 1
          rcpt := e.rcpt || decide ((s.flume f).kind = 3) }
      ∧ pushEntry f h s = if (s.flume f).kind = 3 then u
          else hold (numberJournaled u f ((s.flume f).seq + 1) e) (.txEnter f { kind := .mb h, seq := (s.flume f).seq + 1 }) := by
  have seq : ((numbered s f h e).flume f).seq = (s.flume f).seq + 1 := by simp [numbered]
  rw [pushEntry_of he taken fresh]
  by_cases sink : (s.flume f).kind = 3
  · refine ⟨numberJournaled (numbered s f h e) f ((s.flume f).seq + 1) e, ?_, ?_, by simp only [if_pos sink]⟩
    · rw [numberJournaled, flume_at_journalFor, seq]
    · rw [numberJournaled, entry_at_journalFor, numbered, State.entry_setEntry_same]
  · exact ⟨numbered s f h e, seq, State.entry_setEntry_same .., by simp only [if_neg sink]⟩

theorem exec_hpush {s : State} {c : Fin 32} {i : Issue} {h : Nat} (hs : StageStarts s c .hpush i false) (ho : i.ops >>> 13 = 0)
    (hr : hregEntry s c (fld i 0 3) = some h) (ok : pushOk s c (fld i 3 10) = true)
    (room : pushRoom s (fld i 3 10) = true) {t : State} (ht : t = recopyLocal h (pushEntry (fld i 3 10) h (registerRead s c i))) :
    exec (.hpush c i) s = .next (settle
      (if (heldTx t (fld i 3 10)).any (fun x => x.kind == .mb h) = true then
        stageEnded s (hold t (.signal c ((s.ctx c).issued + 1) (s.ctx c).seqr.pos i.sen i.stok.toNat)) c i .never
      else stageEnded s t c i .now)) := by
  subst ht
  have register : hregEntry (stageBegun s c i) c (fld i 0 3) = some h := by rw [hregEntry_stageBegun, hr]
  have allowed : pushOk (stageBegun s c i) c (fld i 3 10) = true := ok
  have issued : ((stageBegun s c i).ctx c).issued = (s.ctx c).issued + 1 := by rw [ctx_stageBegun]
  have pos : ((stageBegun s c i).ctx c).seqr.pos = (s.ctx c).seqr.pos := by rw [ctx_stageBegun]
  change execHpush c i s = _
  unfold execHpush registerRead
  split <;> rename_i held
  · refine stageInstr_ok hs (by simp [room]) ?_
    simp only [needTop_of ho, register, allowed, Bool.or_true, need_true, ok_bind, held, if_true, issued, pos]
  · refine stageInstr_ok hs (by simp [room]) ?_
    simp only [needTop_of ho, register, allowed, Bool.or_true, need_true, ok_bind, held, if_false, Bool.false_eq_true]

/-! ## HRCPT -/

theorem exec_hrcpt {s : State} {c : Fin 32} {i : Issue} {h : Nat} {e : Entry} (hs : StageStarts s c .hrcpt i false) (ho : i.ops >>> 3 = 0)
    (hr : hregEntry s c (fld i 0 3) = some h) (he : s.entry? h = some e) (pushed : e.hpushed = true) :
    exec (.hrcpt c i) s = .next (settle (stageEnded s (stageBegun s c i) c i (.later (.rcpt h)))) := by
  have register : hregEntry (stageBegun s c i) c (fld i 0 3) = some h := by rw [hregEntry_stageBegun, hr]
  have entry : (stageBegun s c i).entry? h = some e := he
  change execHrcpt c i s = _
  exact stageInstr_ok hs rfl (by simp only [needTop_of ho, register, entry, pushed, need_true, ok_bind])

/-- Settles O17: a pop by what it leaves of the entry, a push by the state in which the output has its number. -/
theorem entriesPopAndPush : Obligations.EntriesPopAndPush := by
  refine fun s c i => ⟨fun id e h ho unread hc room => ?_, fun h e hs ho hr he taken fresh ok room => ?_,
    fun h e hs ho hr he pushed => exec_hrcpt hs ho hr he pushed⟩
  · have free : ((stageBegun s c i).ctx c).free = (s.ctx c).free := by rw [ctx_stageBegun]
    have spec := popEntry_spec (s := stageBegun s c i) (c := c) hc (by rwa [free]) (fld i 0 3) { s.ctx c with hpopStalled := false }
    rw [free] at spec
    exact ⟨_, exec_hpop h ho unread hc room, spec⟩
  · obtain ⟨u, seq, entry, push⟩ := pushEntry_spec (s := registerRead s c i) (f := fld i 3 10) he taken fresh
    exact ⟨_, u, _, exec_hpush hs ho hr ok room rfl, seq, entry, push, rfl⟩

end Sys2Proof.Machine
end


section
/-! # Editions and tokens

The Edition instructions and STEPTOKEN in the states that R211 permits (R276 to R291). -/

namespace Sys2Proof.Machine

open Sys2Proof

section Issue
variable {s : State} {c : Fin 32} {i : Issue}

/-! ## EDOPEN and EDPEND wait (R280, R282, R288) -/

/-- The checks on a shard's state read nothing that the start of an instruction changes but the context's list of shards. -/
theorem shardOk_stageBegun (s : State) (c : Nat) (i : Issue) (sh : Nat) : shardOk (stageBegun s c i) c sh = shardOk s c sh := by
  unfold shardOk updatedShards
  rw [ctx_stageBegun]
  rfl

theorem exec_edopen (h : StageStarts s c .edopen i false) (ho : i.ops >>> 13 = 0) (hx : xfld i 32 32 = 0)
    (listed : shardOk s c (fld i 0 13) = true) (opens : openOk s (fld i 0 13) (xfld i 0 32) = true)
    (alone : ∀ d ∈ (s.ctx c).deferred, d.op ≠ .edopen) (room : usedEds s c < (s.ctx c).alloc) : exec (.edopen c i) s
    = .next (settle (stageEnded s (defer (stageBegun s c i) c .edopen i none 0 (BitVec.ofNat 32 (xfld i 0 32))) c i .never)) := by
  have noneWaits : (s.ctx c).deferred.any (fun d => d.op == .edopen && fld d.issue 0 13 == fld i 0 13) = false := by
    simpa using fun d hd hop => absurd hop (alone d hd)
  have noneCounts : (s.ctx c).deferred.filter (fun d => d.op == .edopen) = [] := by simpa using alone
  have begunOpens : openOk (stageBegun s c i) (fld i 0 13) (xfld i 0 32) = true := opens
  have begunUsed : usedEds (stageBegun s c i) c = usedEds s c := rfl
  change execEdopen c i s = _
  refine stageInstr_ok h rfl ?_
  simp only [needTop_of ho, hx, shardOk_stageBegun, listed, begunOpens, begunUsed]
  simp only [ctx_stageBegun, noneWaits, noneCounts, room, List.length_nil, Nat.add_zero, decide_true, Bool.not_false, Bool.and_self, need_true,
    ok_bind]

theorem exec_edpend (h : StageStarts s c .edpend i false) (ho : i.ops >>> 13 = 0) (listed : shardOk s c (fld i 0 13) = true)
    (filling : (fillingOf s (fld i 0 13)).isSome = true) : exec (.edpend c i) s
    = .next (settle (stageEnded s (defer (stageBegun s c i) c .edpend i none 0 0) c i .never)) := by
  have begunFilling : (fillingOf (stageBegun s c i) (fld i 0 13)).isSome = true := filling
  change execEdpend c i s = _
  refine stageInstr_ok h rfl ?_
  simp only [needTop_of ho, shardOk_stageBegun, listed, begunFilling, Bool.and_self, need_true, ok_bind]

/-! ## EDCOMMIT and EDRETIRE (R288, R289) -/

theorem exec_edcommit (h : StageStarts s c .edcommit i false) (ho : i.ops >>> 13 = 0) (listed : shardOk s c (fld i 0 13) = true)
    (pending : (s.shard (fld i 0 13)).settled.isSome = true ∨ (edsOf s (fld i 0 13)).any (fun x => x.2.state == .pending) = true) :
    exec (.edcommit c i) s = .next (settle (stageEnded s (requestCommit (stageBegun s c i) (fld i 0 13)) c i
      (.later (.commit (fld i 0 13) (((s.shard (fld i 0 13)).opened).getD 0))))) := by
  have begunPending : (((stageBegun s c i).shard (fld i 0 13)).settled.isSome
      || (edsOf (stageBegun s c i) (fld i 0 13)).any (fun x => x.2.state == .pending)) = true := Bool.or_eq_true_iff.2 pending
  change execEdcommit c i s = _
  refine stageInstr_ok h rfl ?_
  simp only [needTop_of ho, shardOk_stageBegun, listed, begunPending, Bool.and_self, need_true, ok_bind]
  rfl

theorem exec_edretire (h : StageStarts s c .edretire i false) (ho : i.ops >>> 13 = 0) (listed : shardOk s c (fld i 0 13) = true) :
    exec (.edretire c i) s = .next (settle (stageEnded s ((retireList s (fld i 0 13)).foldl
      (fun s e => journalEd (s.setEd e { s.ed e with state := .retiring }) e) (stageBegun s c i)) c i
      (.later (.retire (retireList s (fld i 0 13)))))) := by
  change execEdretire c i s = _
  refine stageInstr_ok h rfl ?_
  simp only [needTop_of ho, shardOk_stageBegun, listed, need_true, ok_bind]
  rfl

/-! ## STEPTOKEN (R266, R290) -/

theorem exec_steptoken (h : StageStarts s c .steptoken i false) (ho : i.ops >>> 32 = 0) : exec (.steptoken c i) s
    = .next (settle (stageEnded s ((s.ctx c).peers.foldl (fun s p => enterTurn s p.out { kind := .token (fld i 0 32), seq := 0 })
        ((stageBegun s c i).updCtx c (fun x => x.setStep (fld i 0 32) { x.step (fld i 0 32) with tokenIssued := true }))) c i
        (.later (.tokens (fld i 0 32))))) := by
  have peers : ((stageBegun s c i).ctx c).peers = (s.ctx c).peers := by rw [ctx_stageBegun]
  change execSteptoken c i s = _
  exact stageInstr_ok h rfl (by simp only [needTop_of ho, ok_bind, peers])

end Issue

/-! ## An Edition opens (R280 to R282) -/

/-- An Edition on the pages `l` stands in the lowest free entry, its shard is opened for the step, and the window shows it. -/
def editionOpened (s u : State) (c : Nat) (d : Deferred) (l : List Nat) : State :=
  setWindow ((u.setEd (freeEd u) { state := .filling, shard := fld d.issue 0 13, owner := c, number := d.step.toNat, pages := l }).setShard
    (fld d.issue 0 13) { s.shard (fld d.issue 0 13) with opened := some d.step.toNat }) (fld d.issue 0 13) l

theorem wakeEdopen_of {s u : State} {c : Nat} {d : Deferred} {l : List Nat}
    (hp : takePages s c (s.shard (fld d.issue 0 13)).span true = some (l, u)) : wakeEdopen c d s
    = some (holdSignal (journalEd (journalPages l.length l (editionOpened s u c d l)) (freeEd u)) c d) := by
  simp only [wakeEdopen, hp, editionOpened]

theorem ed_editionOpened (s u : State) (c : Nat) (d : Deferred) (l : List Nat) : (editionOpened s u c d l).ed (freeEd u)
    = { state := .filling, shard := fld d.issue 0 13, owner := c, number := d.step.toNat, pages := l } :=
  (ed_of_besideMap (besideMap_setWindow ..) _).trans (State.ed_setEd_same ..)

theorem opened_editionOpened (s u : State) (c : Nat) (d : Deferred) (l : List Nat) :
    ((editionOpened s u c d l).shard (fld d.issue 0 13)).opened = some d.step.toNat := by
  rw [editionOpened, shard_of_besideMap (besideMap_setWindow ..), State.shard_setShard_same]

/-- Settles O19: each instruction passes its checks in the state in which it acts; an Edition opens in the entry that was free. -/
theorem editionsAndTokens : Obligations.EditionsAndTokens :=
  fun s c _ => ⟨exec_edopen, fun d l u _ hp => ⟨_, _, wakeEdopen_of hp, rfl, ed_editionOpened s u c d l, opened_editionOpened s u c d l⟩,
    exec_edpend, exec_edcommit, exec_edretire, exec_steptoken⟩

end Sys2Proof.Machine
end


section
/-! # Reductions are issued

BSCALE and BRED, and what an issue leaves of its step, of RSTEP and of the Galley (R297 to R299, R307, R308). -/

namespace Sys2Proof.Machine

open Sys2Proof

/-! ## What an issue leaves (R299, R319, R401) -/

/-- A context in whose step another reduction has been issued; a marked last one moves RSTEP on. -/
def Ctx.issuedRed (x : Ctx) (last : Bool) : Ctx :=
  { x.setStep x.rstep { x.step x.rstep with issued := (x.step x.rstep).issued + 1, lastIssued := (x.step x.rstep).lastIssued || last } with
    rstep := if last then x.rstep + 1 else x.rstep }

/-- The bucket of a reduction that is issued in the step that RSTEP holds. -/
def issuedBucket (s : State) (c : Nat) (i : Issue) (kind : RedKind) (w : List W64) : Bucket :=
  { bid := s.galley.nextBid, ctx := c, btag := fld i 0 12, step := (s.ctx c).rstep, idx := (s.ctx c).seqr.pos, kind := kind, desc := bdescOf w
    held := true }

/-- The Galley has a bucket more, and its links. -/
def bucketAdded (s : State) (b : Bucket) : State :=
  { s with galley := { s.galley with
    nextBid := s.galley.nextBid + 1, buckets := s.galley.buckets ++ [b], links := s.galley.links.set b.btag b.desc.links } }

theorem issueRed_eq (c : Nat) (i : Issue) (kind : RedKind) (last : Bool) (w : List W64) (s : State) : issueRed c i kind last w s
    = hold (journalStep (bucketAdded (s.setCtx c ((s.ctx c).issuedRed last)) (issuedBucket s c i kind w)) c (s.ctx c).rstep
        [fld i 0 12, 0, (s.ctx c).rstep]) (.redStart s.galley.nextBid) := by
  cases last <;> rfl

/-- A reduction that begins, or waits for the twin, changes the pair's state and the buckets alone. -/
theorem hold_redStart_eq (s : State) (b : Nat) :
    ∃ pair buckets, hold s (.redStart b) = { s with pair := pair, galley := { s.galley with buckets := buckets } } := by
  unfold hold
  split
  · exact ⟨_, s.galley.buckets, rfl⟩
  · exact ⟨s.pair, _, rfl⟩

/-- An issue changes its context as `Ctx.issuedRed` says and takes the next bucket number. -/
theorem issueRed_spec (c : Nat) (i : Issue) (kind : RedKind) (last : Bool) (w : List W64) (s : State) :
    (issueRed c i kind last w s).ctx c = (s.ctx c).issuedRed last
      ∧ (issueRed c i kind last w s).galley.nextBid = s.galley.nextBid + 1 := by
  rw [issueRed_eq, journalStep]
  obtain ⟨_, _, held⟩ := hold_redStart_eq (journalFor _ c 6 _) s.galley.nextBid
  obtain ⟨_, _, journaled⟩ := journalFor_eq (bucketAdded (s.setCtx c ((s.ctx c).issuedRed last)) (issuedBucket s c i kind w)) c 6 _
  rw [held, journaled]
  exact ⟨State.ctx_setCtx_same .., rfl⟩

theorem issued_issuedRed (x : Ctx) (last : Bool) : ((x.issuedRed last).step x.rstep).issued = (x.step x.rstep).issued + 1 :=
  congrArg StepInfo.issued (Tbl.getD_set_same ..)

/-! ## The issue (R298, R299) -/

section Issue
variable {s : State} {c : Fin 32} {i : Issue} (above : (s.ctx c).tagBase ≤ fld i 0 12)
  (below : fld i 0 12 < (s.ctx c).tagBase + (s.ctx c).tagCount) (aligned : xfld i 0 48 % 64 = 0) (inside : xfld i 0 48 + 128 ≤ 2 ^ 39)
  (readable : rangeErr (readErr s) (xfld i 0 48) 128 = none)
include above below aligned inside readable

/-- With a tag of the context and a well-formed descriptor in readable Bin space the reduction is issued. -/
theorem issueBody_of {scheds : Nat → List Nat}
    (ok : bdescOk s c (readWords s (xfld i 0 48) 16) (scheds (wfld (readWords s (xfld i 0 48) 16) 6 48 2)) = true) (kind : RedKind) (last : Bool) :
    issueBody c i scheds kind last (stageBegun s c i) = .ok (issueRed c i kind last (readWords s (xfld i 0 48) 16) (stageBegun s c i),
      .later (.red s.galley.nextBid)) := by
  have begunReadable : rangeErr (readErr (stageBegun s c i)) (xfld i 0 48) 128 = none := readable
  have begunWords : readWords (stageBegun s c i) (xfld i 0 48) 16 = readWords s (xfld i 0 48) 16 := rfl
  have begunOk : bdescOk (stageBegun s c i) c (readWords s (xfld i 0 48) 16) (scheds (wfld (readWords s (xfld i 0 48) 16) 6 48 2)) = true := ok
  have tag : (decide (((stageBegun s c i).ctx c).tagBase ≤ fld i 0 12)
      && decide (fld i 0 12 < ((stageBegun s c i).ctx c).tagBase + ((stageBegun s c i).ctx c).tagCount) && xfld i 0 48 % 64 == 0) = true := by
    rw [ctx_stageBegun]
    simp [above, below, aligned]
  simp only [issueBody, tag, need_true, ok_bind, if_neg (Nat.not_lt.2 inside), begunReadable, begunWords, begunOk]
  rfl

theorem exec_bscale (h : StageStarts s c .bscale i false) (hx : xfld i 48 16 = 0) (ho : i.ops >>> 16 = 0)
    (ok : bdescOk s c (readWords s (xfld i 0 48) 16) [wfld (readWords s (xfld i 0 48) 16) 6 48 2] = true) : exec (.bscale c i) s
    = .next (afterIssue c (stageEnded s (issueRed c i (.bscale (fld i 12 1 = 1) (fld i 13 3)) false (readWords s (xfld i 0 48) 16)
        (stageBegun s c i)) c i (.later (.red s.galley.nextBid)))) := by
  change execBscale c i s = _
  rw [execBscale, startStage_ok h rfl, andThen_next]
  simp only [needTop_of ho, hx, decide_true, need_true, ok_bind]
  exact issueBody_of above below aligned inside readable (scheds := fun sc => [sc]) ok _ _

theorem exec_bred (h : StageStarts s c .bred i false) (hx : xfld i 48 16 = 0) (ho : i.ops >>> 15 = 0) (sched : fld i 13 2 ≠ 3)
    (ok : bdescOk s c (readWords s (xfld i 0 48) 16) [wfld (readWords s (xfld i 0 48) 16) 6 48 2, fld i 13 2] = true) : exec (.bred c i) s
    = .next (afterIssue c (stageEnded s (issueRed c i (.bred (BitVec.ofNat 2 (fld i 13 2))) (fld i 12 1 = 1) (readWords s (xfld i 0 48) 16)
        (stageBegun s c i)) c i (.later (.red s.galley.nextBid)))) := by
  change execBred c i s = _
  rw [execBred, startStage_ok h rfl, andThen_next]
  simp only [needTop_of ho, hx, decide_true, need_true, ok_bind, decide_eq_true sched]
  exact issueBody_of above below aligned inside readable (scheds := fun sc => [sc, fld i 13 2]) ok _ _

end Issue

/-- Settles O20: the checks pass, and an issue counts in the step that RSTEP holds. -/
theorem reductionsIssue : Obligations.ReductionsIssue := by
  intro s c i a w hx above below aligned inside readable
  refine ⟨fun h ho ok => exec_bscale above below aligned inside readable h hx ho ok,
    fun h ho sched ok => exec_bred above below aligned inside readable h hx ho sched ok, fun kind last => ?_⟩
  obtain ⟨ctx, bid⟩ := issueRed_spec c i kind last w s
  rw [ctx]
  exact ⟨rfl, issued_issuedRed _ last, bid⟩

end Sys2Proof.Machine
end

section
/-! # The form of the bytes under operations, programs and accesses to memory

`Memory.wf` holds of what `Memory.set`, `Memory.setAll` and `Memory.clear` leave, and a state's bytes change through them or are dropped
whole. One lemma for each function of the model says that it keeps `State.Inv`: `inv_f` where `f` answers a state, `resInv_f` where it
answers an outcome, `optInv_f` and `yields_f_of` where there may be none or an error in its place. Each follows its function, caller after
callee. -/

namespace Sys2Proof.Machine

open Sys2Proof

/-! ## States, outcomes and answers whose bytes stand in their form -/

variable {s t : State}

/-- The form speaks of the bytes alone. -/
theorem inv_mk {part freeCtr timeNs mem mm querns ctxs hoppers pool nextEntry flumes eds shards galley races racePorts hosts sec
    mil boot pwr pair board grantStalls ipWait cookieSecret cookiePrev cookieEpoch stepEventBase stepEventLow out pending}
    (h : Memory.wf mem = true) :
    (State.mk part freeCtr timeNs mem mm querns ctxs hoppers pool nextEntry flumes eds shards galley races racePorts hosts sec
      mil boot pwr pair board grantStalls ipWait cookieSecret cookiePrev cookieEpoch stepEventBase stepEventLow out pending).Inv := h

theorem inv_ite {c : Prop} [Decidable c] (hs : s.Inv) (ht : t.Inv) : (if c then s else t).Inv := by
  split
  · exact hs
  · exact ht

theorem inv_ite_fst {α : Type} {c : Prop} [Decidable c] {x y : State × α} (hx : x.1.Inv) (hy : y.1.Inv) :
    (if c then x else y).1.Inv := by
  split
  · exact hx
  · exact hy

theorem inv_foldl {α : Type*} {f : State → α → State} {l : List α} (hf : ∀ s x, s.Inv → (f s x).Inv) (h : s.Inv) :
    (l.foldl f s).Inv := by
  induction l generalizing s with
  | nil => exact h
  | cons x l ih => exact ih (hf s x h)

theorem inv_foldl_fst {α β : Type} {f : State × β → α → State × β} {l : List α} {x : State × β}
    (hf : ∀ x a, x.1.Inv → (f x a).1.Inv) (h : x.1.Inv) : (l.foldl f x).1.Inv := by
  induction l generalizing x with
  | nil => exact h
  | cons a l ih => exact ih (hf x a h)

theorem inv_of_fst {α : Type} {x : State × α} {a : α} (e : x = (t, a)) (h : x.1.Inv) : t.Inv := by
  rwa [e] at h

theorem inv_of_eq {α : Type} {f : α → State} {x y : α} (e : x = y) (h : (f x).Inv) : (f y).Inv := e ▸ h

/-- Whatever state an outcome is, its bytes stand in their form. -/
def ResInv (r : Res) : Prop := ∀ t, r = .next t → t.Inv

theorem resInv_next (h : s.Inv) : ResInv (.next s) := by
  rintro t ⟨⟩
  exact h

theorem resInv_ite {c : Prop} [Decidable c] {q r : Res} (hq : ResInv q) (hr : ResInv r) : ResInv (if c then q else r) := by
  split
  · exact hq
  · exact hr

theorem resInv_whileClocked {r : Res} (h : s.Inv) (hr : ResInv r) : ResInv (whileClocked s r) := resInv_ite (resInv_next h) hr

theorem resInv_andThen {r : Res} {f : State → State} (hr : ResInv r) (hf : ∀ s, s.Inv → (f s).Inv) : ResInv (andThen r f) := by
  cases r with
  | next u => exact resInv_next (hf u (hr u rfl))
  | fault _ => rintro t ⟨⟩
  | refused _ => rintro t ⟨⟩

/-- Whatever state there is, its bytes stand in their form. -/
def OptInv (o : Option State) : Prop := ∀ t ∈ o, t.Inv

theorem inv_of_some {o : Option State} (e : o = some t) (h : OptInv o) : t.Inv := h t e

theorem optInv_none : OptInv none := by
  rintro t ⟨⟩

theorem optInv_some (h : s.Inv) : OptInv (some s) := by
  rintro t ⟨⟩
  exact h

theorem optInv_ite {c : Prop} [Decidable c] {x y : Option State} (hx : OptInv x) (hy : OptInv y) : OptInv (if c then x else y) := by
  split
  · exact hx
  · exact hy

theorem inv_elim {α : Type} {f : α → State} {o : Option α} (hf : ∀ a, (f a).Inv) (h : s.Inv) : (o.elim s f).Inv := by
  cases o with
  | none => exact h
  | some a => exact hf a

section Yields
variable {ε α β : Type} {Q : α → Prop} {R : β → Prop}

theorem yields_ok_of {a : α} (h : Q a) : Yields (ε := ε) Q (.ok a) := h

theorem yields_error_of {e : ε} : Yields Q (.error e) := trivial

theorem yields_ite_of {c : Prop} [Decidable c] {x y : Except ε α} (hx : Yields Q x) (hy : Yields Q y) :
    Yields Q (if c then x else y) := by
  split
  · exact hx
  · exact hy

theorem yields_bind_of {x : Except ε α} {f : α → Except ε β} (h : ∀ a, Yields R (f a)) : Yields R (x >>= f) := by
  cases x with
  | ok a => exact h a
  | error e => trivial

end Yields

theorem inv_of_ok {ε : Type} {x : Except ε State} (h : Yields State.Inv x) (e : x = .ok s) : s.Inv := h.of_ok e

theorem inv_stateOr_ite {c : Prop} [Decidable c] {a b : Answer} (ha : (a.stateOr s).Inv) (hb : (b.stateOr s).Inv) :
    ((if c then a else b).stateOr s).Inv := by
  split
  · exact ha
  · exact hb

theorem inv_state_ite {c : Prop} [Decidable c] {a b : Reply} (ha : a.state.Inv) (hb : b.state.Inv) : (if c then a else b).state.Inv := by
  split
  · exact ha
  · exact hb

/-! ## Ops (`Machine/Ops`) -/

theorem inv_clockTick (h : s.Inv) : (clockTick s).Inv := inv_mk h

theorem inv_setQuern {q v} (h : s.Inv) : (State.setQuern s q v).Inv := inv_mk h

theorem inv_updQuern {q f} (h : s.Inv) : (State.updQuern s q f).Inv := inv_setQuern h

theorem inv_setCtx {c v} (h : s.Inv) : (State.setCtx s c v).Inv := inv_mk h

theorem inv_updCtx {c f} (h : s.Inv) : (State.updCtx s c f).Inv := inv_setCtx h

theorem inv_setHopper {w v} (h : s.Inv) : (State.setHopper s w v).Inv := inv_mk h

theorem inv_setEntry {e v} (h : s.Inv) : (State.setEntry s e v).Inv := inv_mk h

theorem inv_updEntry {e f} (h : s.Inv) : (State.updEntry s e f).Inv := by
  unfold State.updEntry
  split
  · exact inv_setEntry h
  · exact h

theorem inv_setFlume {f v} (h : s.Inv) : (State.setFlume s f v).Inv := inv_mk h

theorem inv_updFlume {f g} (h : s.Inv) : (State.updFlume s f g).Inv := inv_setFlume h

theorem inv_setEd {e v} (h : s.Inv) : (State.setEd s e v).Inv := inv_mk h

theorem inv_setShard {i v} (h : s.Inv) : (State.setShard s i v).Inv := inv_mk h

theorem inv_setRace {r v} (h : s.Inv) : (State.setRace s r v).Inv := inv_mk h

theorem inv_updRace {r f} (h : s.Inv) : (State.updRace s r f).Inv := inv_setRace h

theorem inv_setRacePort {a v} (h : s.Inv) : (State.setRacePort s a v).Inv := inv_mk h

theorem inv_setHost {a v} (h : s.Inv) : (State.setHost s a v).Inv := inv_mk h

theorem inv_updHost {a f} (h : s.Inv) : (State.updHost s a f).Inv := inv_setHost h

theorem inv_setSession {a n v} (h : s.Inv) : (State.setSession s a n v).Inv := inv_updHost h

theorem inv_setStone {n v} (h : s.Inv) : (State.setStone s n v).Inv := inv_mk h

theorem inv_updStone {n f} (h : s.Inv) : (State.updStone s n f).Inv := inv_setStone h

theorem inv_emit {o} (h : s.Inv) : (State.emit s o).Inv := inv_mk h

theorem inv_flashWrite (h : s.Inv) : (flashWrite s).Inv := inv_emit (inv_emit h)

theorem inv_nextFree (h : s.Inv) : (State.nextFree s).Inv := inv_mk h

theorem inv_enqueueSession {a n cls f} (h : s.Inv) : (enqueueSession s a n cls f).Inv := inv_setSession h

theorem inv_toSubscribers {f} (h : s.Inv) : (toSubscribers s f).Inv := inv_foldl (fun _ _ => inv_enqueueSession) h

theorem inv_recordEvent {code scope id detail} (h : s.Inv) : (recordEvent s code scope id detail).Inv :=
  inv_ite (inv_toSubscribers (inv_mk h)) (inv_mk h)

theorem inv_logEvent {code scope id detail} (h : s.Inv) : (logEvent s code scope id detail).Inv :=
  inv_ite (inv_recordEvent (inv_recordEvent h)) (inv_recordEvent h)

theorem inv_addDefect {kind source action location detail} (h : s.Inv) : (addDefect s kind source action location detail).Inv :=
  inv_ite (inv_mk h) (inv_ite (inv_logEvent (inv_mk (inv_flashWrite h))) (inv_mk (inv_flashWrite h)))

theorem inv_setPage {a e} (h : s.Inv) : (State.setPage s a e).Inv := inv_mk h

theorem inv_eraseLine {l} (h : s.Inv) : (eraseLine l s).Inv := inv_mk h

theorem inv_shrinkSet {set n k} (h : s.Inv) : (shrinkSet set n k s).Inv := by
  induction k generalizing s with
  | zero => exact h
  | succ fuel ih =>
    unfold shrinkSet
    refine inv_ite h ?_
    split
    · exact ih (inv_eraseLine h)
    · exact h

theorem inv_setLine {l v} (h : s.Inv) : (setLine s l v).Inv := inv_ite (inv_mk h) (inv_ite h (inv_mk (inv_shrinkSet h)))

theorem inv_useLine {l} (h : s.Inv) : (useLine s l).Inv := by
  unfold useLine
  split
  · exact inv_mk h
  · exact h

theorem inv_dropLine {l} (h : s.Inv) : (dropLine s l).Inv := by
  unfold dropLine
  split
  · exact h
  · exact inv_ite (inv_ite (inv_nextFree (inv_mk h)) (inv_mk (Memory.wf_setAll _ (Memory.wf_clear _ _ (inv_nextFree (inv_mk h))))))
        (inv_mk h)

theorem inv_pinLine {l owner} (h : s.Inv) : (pinLine s l owner).Inv := inv_ite h (inv_ite (inv_setLine h) (inv_mk (inv_setLine h)))

theorem inv_hintLine {hint owner l} (h : s.Inv) : (hintLine s hint owner l).Inv := by
  unfold hintLine
  refine inv_ite (inv_pinLine h) (inv_ite ?_ h)
  split
  · exact inv_setLine h
  · exact inv_ite (inv_setLine h) h

theorem inv_touchLine {hint owner l} (h : s.Inv) : (touchLine s hint owner l).Inv := inv_useLine (inv_hintLine h)

theorem inv_dirtyLine {l} (h : s.Inv) : (dirtyLine s l).Inv := by
  unfold dirtyLine
  split
  · exact inv_useLine (inv_ite h (inv_setLine h))
  · exact h

theorem inv_lastLines {ls} (h : s.Inv) : (lastLines s ls).Inv := by
  unfold lastLines
  refine inv_foldl (fun _ _ h => ?_) h
  split
  · exact inv_ite (inv_dropLine h) h
  · exact h

theorem inv_xdropLines {ls} (h : s.Inv) : (xdropLines s ls).Inv := by
  unfold xdropLines
  refine inv_foldl (fun _ _ h => ?_) h
  split
  · exact inv_ite (inv_setLine h) (inv_ite (inv_dropLine h) h)
  · exact h

theorem inv_releasePins {a} (h : s.Inv) : (releasePins s a).Inv := inv_mk h

theorem inv_dropFrameLines {frame} (h : s.Inv) : (dropFrameLines s frame).Inv := inv_mk h

theorem inv_clearMark {f g} (h : s.Inv) : (clearMark s f g).Inv :=
  inv_ite (inv_ite (inv_foldl (fun _ _ => inv_setPage) (inv_mk h)) (inv_mk h)) h

theorem inv_noteUnits {as} (h : s.Inv) : (noteUnits s as).Inv := inv_ite (inv_mk h) h

theorem inv_storeBytes {ws} (h : s.Inv) : (storeBytes s ws).Inv :=
  inv_foldl (fun _ _ => inv_logEvent) (inv_noteUnits (inv_foldl (fun _ _ => inv_clearMark)
    (inv_mk (Memory.wf_setAll _ (inv_foldl (fun _ _ => inv_dirtyLine) h)))))

theorem inv_markData {as} (h : s.Inv) : (markData s as).Inv := inv_mk h

theorem inv_clearData {as} (h : s.Inv) : (clearData s as).Inv := inv_mk h

theorem inv_storeData {ws} (h : s.Inv) : (storeData s ws).Inv := inv_storeBytes (inv_markData h)

theorem inv_writeMem {ws} (h : s.Inv) : (writeMem s ws).1.Inv :=
  inv_ite_fst h (inv_ite_fst (inv_storeData h) (inv_storeData h))

/-! ## Programs (`Machine/Program`) -/

theorem inv_addNotice {c d n} (h : s.Inv) : (addNotice s c d n).Inv := inv_updCtx h

theorem inv_groupStop {c d q} (h : s.Inv) : (groupStop s c d q).Inv := by
  unfold groupStop
  dsimp only
  split
  · exact inv_addNotice (inv_setQuern h)
  · split
    · exact inv_ite (inv_setQuern h) h
    · exact h

theorem inv_stopOthers {c d q} (h : s.Inv) : (stopOthers s c d q).Inv := inv_foldl (fun _ _ => inv_groupStop) h

theorem inv_failAt {q st idx code} (h : s.Inv) : (failAt s q st idx code).Inv := by
  unfold failAt
  dsimp only
  split
  · exact inv_stopOthers (inv_setQuern h)
  · exact h

theorem inv_signalBy {q st idx tok n} (h : s.Inv) : (signalBy s q st idx tok n).Inv := inv_ite h (inv_ite (inv_failAt h) (inv_setQuern h))

theorem inv_signalIf {q st idx sen tok} (h : s.Inv) : (signalIf s q st idx sen tok).Inv := inv_ite (inv_signalBy h) h

theorem inv_advance {q st} (h : s.Inv) : (advance s q st).Inv := inv_updQuern h

theorem inv_markWaiting {q st tok n} (h : s.Inv) : (markWaiting s q st tok n).Inv := inv_updQuern h

theorem inv_addressError {c} (h : s.Inv) : (addressError s c).Inv := inv_logEvent (inv_ite h (inv_setCtx h))

theorem inv_failInstr {q st idx code} (h : s.Inv) : (failInstr s q st idx code).Inv := by
  unfold failInstr
  split
  · exact inv_ite (inv_addressError (inv_failAt h)) (inv_failAt h)
  · exact inv_failAt h

theorem resInv_startInstr {q st op i now ready} {body : State → Except Nat State} (hb : ∀ s, s.Inv → Yields State.Inv (body s))
    (h : s.Inv) : ResInv (startInstr q st op i now ready body s) := by
  unfold startInstr
  refine resInv_ite (resInv_next h) (resInv_ite (resInv_next h) (resInv_ite (resInv_next h) ?_))
  dsimp only
  split
  · exact resInv_next (inv_failInstr (inv_setQuern h))
  · next e => exact resInv_next (inv_signalIf (inv_advance (inv_of_ok (hb _ (inv_setQuern h)) e)))

/-! ## Copies (`Machine/Copy`) -/

theorem inv_forgetSpecial {ws} (h : s.Inv) : (forgetSpecial s ws).Inv := by
  unfold forgetSpecial
  refine inv_foldl (fun _ _ h => ?_) h
  split
  · exact inv_ite (inv_updQuern h) h
  · exact h

theorem inv_deliver {q o} (h : s.Inv) : (deliver s q o).1.Inv := by
  cases o with
  | mem ws =>
    simp only [deliver]
    split
    · next e => exact inv_forgetSpecial (inv_of_fst e (inv_writeMem h))
    · exact inv_writeMem h
  | status n v => exact inv_updQuern h
  | desc n d => exact inv_updQuern h

theorem inv_touchTensor {owner d} (h : s.Inv) : (touchTensor s owner d).Inv := inv_foldl (fun _ _ => inv_touchLine) h

theorem inv_cancelMove {q m} (h : s.Inv) : (cancelMove s q m).Inv := by
  unfold cancelMove
  split
  · exact inv_nextFree h
  · exact inv_writeMem (inv_nextFree h)
  · exact inv_ite (inv_deliver (inv_nextFree h)) (inv_nextFree h)

theorem inv_cancelMoves {q} (h : s.Inv) : (cancelMoves s q).Inv := inv_updQuern (inv_foldl (fun _ _ => inv_cancelMove) h)

/-! ## Frames (`Machine/Frames`) -/

theorem inv_setStates {f st} (h : s.Inv) : (setStates f st s).Inv := inv_foldl (fun _ _ => inv_setPage) h

theorem inv_markFrame {f g} (h : s.Inv) : (markFrame f g s).Inv := inv_ite h (inv_ite (inv_setStates (inv_mk h)) (inv_setStates h))

theorem inv_countUe {a g} (h : s.Inv) : (countUe a g s).Inv := inv_logEvent (inv_mk h)

theorem inv_retireFrame {f source} (h : s.Inv) : (retireFrame f source s).Inv := inv_ite h (inv_logEvent (inv_addDefect (inv_mk h)))

theorem inv_startRetire {f} (h : s.Inv) : (startRetire f s).Inv := inv_ite (inv_retireFrame h) (inv_ite h (inv_mk h))

theorem inv_damageFrame {f a g} (h : s.Inv) : (damageFrame f a g s).Inv := inv_startRetire (inv_countUe (inv_markFrame h))

theorem inv_remapRow {r source} (h : s.Inv) : (remapRow r source s).Inv :=
  inv_ite h (inv_ite (inv_logEvent (inv_addDefect (inv_mk h))) (inv_startRetire (inv_mk h)))

theorem inv_countCe (h : s.Inv) : (countCe s).Inv := inv_mk h

theorem inv_correctedError {f g} (h : s.Inv) : (correctedError f s g).Inv :=
  inv_ite (inv_remapRow (inv_mk (inv_foldl (fun _ _ => inv_setPage) (inv_countCe h))))
    (inv_mk (inv_foldl (fun _ _ => inv_setPage) (inv_countCe h)))

theorem inv_unback {a} (h : s.Inv) : (unback s a).Inv := inv_logEvent (inv_setPage h)

theorem inv_copyChunks {f g lo hi bad} (h : s.Inv) : (copyChunks f g lo hi bad s).Inv :=
  inv_mk (Memory.wf_setAll _ (Memory.wf_clear _ _ (Memory.wf_clear _ _ h)))

theorem inv_settlePage {g marks a} (h : s.Inv) : (settlePage g marks s a).Inv := inv_setPage h

theorem inv_endMigration {f g} (h : s.Inv) : (endMigration f g s).Inv :=
  inv_retireFrame (inv_mk (inv_foldl (fun _ _ => inv_settlePage) h))

theorem inv_migrateChunks {f a n found} (h : s.Inv) : (migrateChunks f a n found s).Inv := by
  unfold migrateChunks
  split
  · exact h
  · exact inv_ite (inv_endMigration (inv_copyChunks (inv_mk (inv_foldl (fun _ _ h => inv_countUe (inv_markFrame h)) h))))
        (inv_copyChunks (inv_mk (inv_foldl (fun _ _ h => inv_countUe (inv_markFrame h)) h)))

theorem inv_startMigration {f} (h : s.Inv) : (startMigration f s).Inv := by
  unfold startMigration
  split
  · exact inv_retireFrame (inv_foldl (fun _ _ => inv_unback) (inv_dropFrameLines (inv_mk (Memory.wf_clear _ _ h))))
  · exact inv_setStates (inv_mk h)

theorem inv_disableWay {set way source} (h : s.Inv) : (disableWay set way source s).Inv :=
  inv_ite h (inv_logEvent (inv_addDefect (inv_shrinkSet (inv_mk h))))

theorem inv_repairEntry {second a} (h : s.Inv) : (repairEntry second a s).Inv := inv_logEvent (inv_ite (inv_mk h) (inv_mk h))

end Sys2Proof.Machine
end

section
/-! # The form of the bytes under contexts, moves and control -/

namespace Sys2Proof.Machine

open Sys2Proof

variable {s t : State}

/-! ## Contexts (`Machine/Context`) -/

theorem inv_chainPages {tail l} (h : s.Inv) : (chainPages tail l s).Inv := by
  induction l generalizing s with
  | nil => exact h
  | cons x l ih => exact ih (inv_setPage h)

theorem inv_takePages {c n shared l} (e : takePages s c n shared = some (l, t)) (h : s.Inv) : t.Inv := by
  unfold takePages at e
  dsimp only at e
  split at e <;> cases e
  exact inv_foldl (fun _ _ => inv_setPage) (inv_chainPages (inv_updCtx h))

theorem inv_returnPages {c l} (h : s.Inv) : (returnPages s c l).Inv := inv_updCtx (inv_chainPages (inv_foldl (fun _ _ => inv_setPage) h))

theorem inv_revertEntries {w a} (h : s.Inv) : (revertEntries s w a).Inv := inv_ite (inv_setHopper (inv_mk h)) (inv_mk h)

theorem inv_dropRefs {refs} (h : s.Inv) : (dropRefs s refs).Inv := inv_foldl (fun _ _ => inv_setEd) h

theorem inv_releaseEntry {w} (h : s.Inv) : (releaseEntry s w).Inv := by
  unfold releaseEntry
  split
  · exact h
  · exact inv_mk (inv_dropRefs (inv_returnPages h))

theorem inv_reportError {c code idx detail} (h : s.Inv) : (reportError s c code idx detail).Inv := inv_logEvent h

theorem inv_stopCtx {c code idx detail} (h : s.Inv) : (stopCtx s c code idx detail).Inv := inv_ite h (inv_reportError (inv_setCtx h))

theorem inv_stopMerged {c code idx detail} (h : s.Inv) : (stopMerged s c code idx detail).Inv :=
  inv_ite (inv_reportError h) (inv_stopCtx h)

theorem inv_abandonOn {c q} (h : s.Inv) : (abandonOn s c q).Inv := by
  unfold abandonOn
  dsimp only
  split
  · exact inv_updQuern h
  · exact inv_ite (inv_mk (Memory.wf_clear _ _ (inv_updQuern (inv_foldl (fun _ _ => inv_cancelMove) (inv_updQuern h))))) (inv_updQuern h)

theorem inv_freshQuern {q} (h : s.Inv) : (freshQuern s q).Inv := inv_mk (Memory.wf_clear _ _ h)

theorem inv_loadQuerns {c groups} (h : s.Inv) : (loadQuerns s c groups).Inv := inv_foldl (fun _ _ h => inv_ite h (inv_freshQuern h)) h

theorem inv_resetOrder {wgo} (h : s.Inv) : (resetOrder s wgo).Inv := inv_foldl (fun _ _ => inv_updQuern) h

theorem inv_haltCtx {c} (h : s.Inv) : (haltCtx s c).Inv :=
  inv_ite (inv_revertEntries (inv_revertEntries (inv_foldl (fun _ _ => inv_abandonOn) (inv_setCtx h)))) h

theorem inv_returnSeq {c} (h : s.Inv) : (returnSeq s c).Inv := by
  unfold returnSeq
  dsimp only
  split
  · exact h
  · exact inv_mk (inv_setCtx h)

theorem inv_haltFor {cause c} (h : s.Inv) : (haltFor cause s c).Inv := inv_ite h (inv_haltCtx (inv_ite h (inv_mk h)))

theorem inv_stopHeld (h : s.Inv) : (stopHeld s).Inv := inv_mk (inv_foldl (fun _ _ => inv_updCtx) h)

theorem inv_overlapping {page before} (h : s.Inv) : (overlapping page before s).Inv := inv_ite (inv_stopHeld h) h

theorem inv_haltData {c as} (h : s.Inv) : (haltData s c as).Inv := by
  unfold haltData
  split
  · exact inv_ite (inv_stopHeld (inv_haltFor h)) (inv_haltFor h)
  · exact inv_haltCtx h

theorem inv_drainCtx {c} (h : s.Inv) : (drainCtx s c).Inv := inv_ite (inv_setCtx h) h

theorem inv_resumeCtx {c} (h : s.Inv) : (resumeCtx s c).Inv := inv_ite (inv_updCtx (inv_returnSeq h)) (inv_ite (inv_setCtx h) h)

theorem inv_stageSignalBy {c idx tok n} (h : s.Inv) : (stageSignalBy s c idx tok n).Inv := inv_ite (inv_stopCtx h) (inv_setCtx h)

theorem inv_stageSignal {c idx sen tok} (h : s.Inv) : (stageSignal s c idx sen tok).Inv := inv_ite (inv_stageSignalBy h) h

theorem inv_lateSignal {c no idx sen tok} (h : s.Inv) : (lateSignal s c no idx sen tok).Inv :=
  inv_ite (inv_stageSignalBy (inv_updCtx h)) h

theorem inv_finalizeStep {c n} (h : s.Inv) : (finalizeStep s c n).Inv :=
  inv_ite (inv_ite (inv_logEvent (inv_logEvent (inv_setCtx h))) (inv_logEvent (inv_setCtx h))) (inv_setCtx h)

theorem inv_finalizeIfDone {c n} (h : s.Inv) : (finalizeIfDone s c n).Inv := inv_ite (inv_finalizeStep h) h

theorem inv_stepEvent (h : s.Inv) : (stepEvent s).Inv := by
  unfold stepEvent
  split
  · exact h
  · exact inv_ite h (inv_ite (inv_toSubscribers (inv_mk (inv_nextFree h))) (inv_mk (inv_nextFree h)))

theorem inv_releaseClosed (h : s.Inv) : (releaseClosed s).Inv := inv_foldl (fun _ _ => inv_releaseEntry) h

theorem inv_releaseDue (h : s.Inv) : (releaseDue s).Inv := inv_ite (inv_mk h) (inv_releaseClosed h)

theorem inv_closeStep {c n} (h : s.Inv) : (closeStep c n s).Inv := inv_ite (inv_stepEvent (inv_setCtx h)) h

theorem inv_settleTo {sh n commit} (h : s.Inv) : (settleTo s sh n commit).Inv := by
  unfold settleTo
  dsimp only
  split
  · exact inv_setShard h
  · exact inv_setShard h

theorem inv_freeEdition {e} (h : s.Inv) : (freeEdition s e).Inv := inv_updCtx (inv_setEd (inv_returnPages h))

theorem inv_freeRetiring {e} (h : s.Inv) : (freeRetiring s e).Inv := by
  unfold freeRetiring
  refine inv_ite ?_ h
  split
  · exact inv_ite (inv_freeEdition h) h
  · exact h

theorem inv_commitEdition {e} (h : s.Inv) : (commitEdition s e).Inv := inv_ite (inv_settleTo (inv_setEd h)) h

theorem inv_firePends {c} (h : s.Inv) : (firePends c s).Inv := by
  unfold firePends
  refine inv_foldl (fun _ _ h => inv_lateSignal ?_) (inv_setCtx h)
  split
  · exact inv_updCtx h
  · exact h

/-! ## Moves (`Machine/Move`) -/

theorem inv_issueMove {q i ends wgb} (h : s.Inv) : (issueMove q i ends wgb s).Inv := inv_updQuern h

@[simp] theorem resInv_execXmove {q i} (h : s.Inv) : ResInv (execXmove q i s) :=
  resInv_startInstr (fun _ h => yields_bind_of (fun _ => yields_ok_of (inv_issueMove h))) h

@[simp] theorem resInv_execXfetch {q i} (h : s.Inv) : ResInv (execXfetch q i s) :=
  resInv_startInstr (fun _ h => yields_bind_of (fun _ => yields_ok_of (inv_issueMove h))) h

theorem inv_fireFences {q} (h : s.Inv) : (fireFences q s).Inv := inv_foldl (fun _ _ => inv_signalIf) (inv_setQuern h)

@[simp] theorem resInv_execXfence {q i} (h : s.Inv) : ResInv (execXfence q i s) :=
  resInv_andThen (resInv_startInstr (fun _ h => yields_bind_of (fun _ => yields_ok_of (inv_updQuern h))) h) (fun _ => inv_fireFences)

@[simp] theorem resInv_execXpref {q i} (h : s.Inv) : ResInv (execXpref q i s) :=
  resInv_startInstr (fun _ h => yields_bind_of (fun _ => yields_bind_of (fun _ => yields_ok_of (inv_setQuern (inv_mk h))))) h

@[simp] theorem resInv_execXdrop {q i} (h : s.Inv) : ResInv (execXdrop q i s) :=
  resInv_startInstr (fun _ h => yields_bind_of (fun _ => yields_bind_of (fun _ => yields_ok_of (inv_setQuern (inv_xdropLines h))))) h

theorem inv_endMove {q tag} (h : s.Inv) : (endMove s q tag).Inv := inv_updQuern h

theorem inv_wgbendClear {q m} (h : s.Inv) : (wgbendClear s q m).Inv := by
  unfold wgbendClear
  split
  · exact inv_updQuern (inv_mk (Memory.wf_setAll _ h))
  · exact h

theorem inv_moveFails {q m e} (h : s.Inv) : (moveFails s q m e).Inv := by
  unfold moveFails
  split
  · exact inv_failInstr (inv_endMove h)
  · exact inv_haltData (inv_endMove h)

theorem inv_completeMove {q m} (h : s.Inv) : (completeMove q m s).Inv := by
  have delivered {o} : (deliver (m.tensors.foldl (fun s d => touchTensor s (s.quern q).ctxOf d) s) q o).1.Inv :=
    inv_deliver (inv_foldl (fun _ _ => inv_touchTensor) h)
  unfold completeMove
  dsimp only
  refine inv_ite (inv_moveFails h) ?_
  split
  · exact inv_moveFails h
  · exact inv_moveFails (inv_deliver h)
  split
  · exact inv_moveFails h
  · next e => exact inv_moveFails (inv_of_fst e delivered)
  · next e =>
    have ended := inv_of_fst e delivered
    refine inv_fireFences (inv_signalIf (inv_endMove (inv_wgbendClear ?_)))
    split
    · exact inv_lastLines ended
    · exact ended

@[simp] theorem resInv_execMoveComplete {q tag} (h : s.Inv) : ResInv (execMoveComplete q tag s) := by
  unfold execMoveComplete
  refine resInv_whileClocked h ?_
  split
  · exact resInv_next (inv_releaseDue (inv_completeMove h))
  · exact resInv_next h

theorem inv_prefetchLine {a v} (h : s.Inv) : (prefetchLine s a v).Inv := inv_ite (inv_touchLine h) (inv_ite h (inv_setLine h))

@[simp] theorem resInv_execPrefetchComplete {c slot} (h : s.Inv) : ResInv (execPrefetchComplete c slot s) := by
  unfold execPrefetchComplete
  refine resInv_whileClocked h ?_
  split
  · exact resInv_next h
  · exact resInv_next (inv_fireFences (inv_signalIf (inv_mk (inv_foldl (fun _ _ => inv_prefetchLine) h))))

/-! ## Control (`Machine/Control`) -/

theorem inv_stageAdvance {c} (h : s.Inv) : (stageAdvance s c).Inv := inv_updCtx h

theorem inv_stageWaiting {c tok n} (h : s.Inv) : (stageWaiting s c tok n).Inv := inv_updCtx h

theorem inv_stageSig {c idx i k} (h : s.Inv) : (stageSig s c idx i k).Inv := by
  unfold stageSig
  split
  · exact inv_stageSignal h
  · exact inv_updCtx h
  · exact h

theorem resInv_startStage {c op i held enabled} {body : State → Except Nat (State × SigWhen)}
    (hb : ∀ s, s.Inv → Yields (fun r => r.1.Inv) (body s)) (h : s.Inv) : ResInv (startStage c op i held enabled body s) := by
  unfold startStage
  dsimp only
  refine resInv_ite (resInv_next h) (resInv_ite (resInv_next (inv_stopCtx h)) (resInv_ite (resInv_next (inv_stageWaiting h)) ?_))
  refine resInv_ite (resInv_next h) (resInv_ite (resInv_next (inv_stopCtx (inv_setCtx h))) ?_)
  split
  · exact resInv_next (inv_stopCtx (inv_setCtx h))
  · next e => exact resInv_next (inv_stageSig (inv_stageAdvance ((hb _ (inv_setCtx h)).of_ok e)))

theorem inv_quernCwait {q st i} (h : s.Inv) : (quernCwait q st i s).Inv := by
  unfold quernCwait
  dsimp only
  refine inv_ite h (inv_ite (inv_markWaiting h) ?_)
  split
  · exact inv_failInstr (inv_setQuern h)
  · exact inv_ite (inv_markWaiting (inv_setQuern h)) (inv_signalIf (inv_advance (inv_updQuern (inv_setQuern h))))

theorem inv_stageCwait {c i} (h : s.Inv) : (stageCwait c i s).Inv := by
  unfold stageCwait
  dsimp only
  refine inv_ite h (inv_ite (inv_stopCtx h) (inv_ite (inv_stageWaiting h) ?_))
  split
  · exact inv_stopCtx (inv_setCtx h)
  · exact inv_stopCtx (inv_setCtx h)
  · exact inv_ite (inv_stageWaiting (inv_setCtx h)) (inv_stageSignal (inv_stageAdvance (inv_updCtx (inv_setCtx h))))

@[simp] theorem resInv_execCwait {u i} (h : s.Inv) : ResInv (execCwait u i s) := by
  unfold execCwait
  split
  · exact resInv_next (inv_quernCwait h)
  · exact resInv_next (inv_stageCwait h)

@[simp] theorem resInv_execCsig {u i} (h : s.Inv) : ResInv (execCsig u i s) := by
  unfold execCsig
  split
  · exact resInv_startInstr (fun _ h => yields_bind_of (fun _ => yields_bind_of (fun _ => yields_ok_of (inv_setQuern h)))) h
  · exact resInv_startStage (fun _ h => yields_bind_of (fun _ => yields_bind_of (fun _ => yields_ok_of (inv_setCtx h)))) h

@[simp] theorem resInv_execCloop {u i} (h : s.Inv) : ResInv (execCloop u i s) := by
  unfold execCloop
  split
  · exact resInv_startInstr (fun _ h => yields_bind_of (fun _ => yields_ok_of (inv_setQuern h))) h
  · exact resInv_startStage (fun _ h => yields_bind_of (fun _ => yields_ok_of (inv_updCtx h))) h

theorem yields_quernCend_of {q st} (h : s.Inv) : Yields State.Inv (quernCend q st s) := by
  unfold quernCend
  dsimp only
  split
  · exact yields_ok_of h
  · exact yields_ite_of (yields_ok_of (inv_setQuern h)) (yields_bind_of (fun _ => yields_ok_of (inv_setQuern h)))

theorem inv_stageCend {c} (h : s.Inv) : (stageCend c s).Inv := inv_updCtx h

@[simp] theorem resInv_execCend {u i} (h : s.Inv) : ResInv (execCend u i s) := by
  cases u with
  | quern q st =>
    dsimp only [execCend]
    exact resInv_startInstr (fun _ h => yields_bind_of (fun _ => yields_quernCend_of h)) h
  | stage c =>
    dsimp only [execCend]
    exact resInv_startStage (fun _ h => yields_bind_of (fun _ => yields_ok_of (inv_stageCend h))) h

@[simp] theorem resInv_execCphase {q i} (h : s.Inv) : ResInv (execCphase q i s) :=
  resInv_startInstr (fun _ h => yields_bind_of (fun _ => yields_ok_of (inv_updStone h))) h

theorem inv_releaseBarrier {c d} (h : s.Inv) : (releaseBarrier s c d).Inv := by
  unfold releaseBarrier
  dsimp only
  refine inv_ite h (inv_ite (inv_foldl (fun _ _ h => ?_) h) (inv_foldl (fun _ _ => inv_updQuern) h))
  split
  · exact inv_signalIf (inv_setQuern h)
  · exact h

@[simp] theorem resInv_execCbar {q i} (h : s.Inv) : ResInv (execCbar q i s) := by
  unfold execCbar
  refine resInv_andThen (resInv_startInstr (fun _ h => yields_bind_of (fun _ => yields_ok_of (inv_updQuern h))) h) (fun _ h => ?_)
  split
  · exact inv_ite (inv_releaseBarrier h) h
  · exact h

@[simp] theorem resInv_execBarrierRelease {c disp} (h : s.Inv) : ResInv (execBarrierRelease c disp s) :=
  resInv_whileClocked h (resInv_next (inv_releaseBarrier h))

@[simp] theorem resInv_execChalt {q i} (h : s.Inv) : ResInv (execChalt q i s) :=
  resInv_startInstr (fun _ h => yields_bind_of (fun _ => yields_ok_of h)) h

@[simp] theorem resInv_execStageProgramChalt {c i} (h : s.Inv) : ResInv (execStageProgramChalt c i s) :=
  resInv_startStage (fun _ h => yields_bind_of (fun _ => yields_ok_of (inv_updCtx h))) h

theorem inv_orphanPrefetches {q} (h : s.Inv) : (orphanPrefetches s q).Inv := inv_mk h

@[simp] theorem resInv_execProgramComplete {q} (h : s.Inv) : ResInv (execProgramComplete q s) := by
  unfold execProgramComplete
  dsimp only
  refine resInv_whileClocked h ?_
  split
  · exact resInv_next h
  · exact resInv_ite (resInv_next (inv_releaseDue (inv_addNotice (inv_setQuern (inv_orphanPrefetches h))))) (resInv_next h)

@[simp] theorem resInv_execTokenDeadlock {c disp} (h : s.Inv) : ResInv (execTokenDeadlock c disp s) :=
  resInv_whileClocked h (resInv_ite (resInv_next (inv_foldl (fun _ _ => inv_updQuern) h)) (resInv_next h))

@[simp] theorem resInv_execMergedCompletion {c disp} (h : s.Inv) : ResInv (execMergedCompletion c disp s) := by
  unfold execMergedCompletion
  dsimp only
  refine resInv_whileClocked h ?_
  split
  · exact resInv_next h
  · exact resInv_ite (resInv_next (inv_ite (inv_stopMerged (inv_lateSignal (inv_setCtx h))) (inv_lateSignal (inv_setCtx h))))
        (resInv_next h)

end Sys2Proof.Machine
end

section
/-! # The form of the bytes under images, links and stage programs -/

namespace Sys2Proof.Machine

open Sys2Proof

variable {s t : State}

/-! ## Images (`Machine/Image`) -/

theorem inv_failLoad {q code l} (h : s.Inv) : (failLoad s q code l).Inv := inv_stopOthers (inv_addNotice h)

theorem inv_loadImage {q} (h : s.Inv) : (loadImage q s).Inv := by
  unfold loadImage
  dsimp only
  split
  · split
    · exact inv_failLoad (inv_setQuern h)
    · exact inv_haltData h
    · refine inv_ite (inv_failLoad (inv_setQuern h)) ?_
      split
      · exact inv_failLoad (inv_setQuern h)
      · exact inv_setQuern h
  · exact h

@[simp] theorem resInv_execImageLoad {q} (h : s.Inv) : ResInv (execImageLoad q s) :=
  resInv_whileClocked h (resInv_ite (resInv_next h) (resInv_next (inv_loadImage h)))

theorem inv_startProgram {q sl} (h : s.Inv) : (startProgram q sl s).Inv := inv_mk (Memory.wf_setAll _ (inv_setQuern h))

@[simp] theorem resInv_execProgramStart {q} (h : s.Inv) : ResInv (execProgramStart q s) := by
  unfold execProgramStart
  dsimp only
  refine resInv_whileClocked h ?_
  split
  · exact resInv_ite (resInv_next h) (resInv_next (inv_startProgram h))
  · exact resInv_next h

/-! ## Links (`Machine/Link`) -/

theorem inv_haltSender {seg fr} (h : s.Inv) : (haltSender seg s fr).Inv := by
  unfold haltSender
  split
  · exact inv_ite h (inv_haltData h)
  · exact h

theorem inv_queueRace {r fr} (h : s.Inv) : (queueRace s r fr).Inv := inv_updRace h

theorem inv_sendIp {a dst o} (h : s.Inv) : (sendIp s a dst o).Inv := by
  unfold sendIp
  split
  · exact inv_ite h (inv_updHost h)
  · exact inv_ite (inv_emit h) (inv_ite (inv_mk h) (inv_emit (inv_mk h)))

theorem inv_emitPacket {a n psn fr} (h : s.Inv) : (emitPacket s a n psn fr).Inv := inv_sendIp (inv_setSession (inv_mk h))

theorem inv_sessionSend {x n lim k} (h : s.Inv) : (sessionSend x n lim k s).Inv := by
  induction k generalizing s with
  | zero => exact h
  | succ fuel ih =>
    unfold sessionSend
    dsimp only
    refine inv_ite h ?_
    split
    · exact h
    · exact inv_ite (inv_haltSender h) (ih (inv_emitPacket (inv_setSession h)))

theorem inv_sessionPump {a n} (h : s.Inv) : (sessionPump s a n).Inv := inv_sessionSend h

theorem inv_queueSession {a n fr} (h : s.Inv) : (queueSession s a n fr).Inv := inv_sessionPump (inv_enqueueSession h)

theorem inv_pumpSessions (h : s.Inv) : (pumpSessions s).Inv :=
  inv_foldl (fun _ _ h => inv_foldl (fun _ _ h => inv_foldl (fun _ _ => inv_sessionSend) h) h) h

theorem inv_sendGuest {fr} (h : s.Inv) : (sendGuest s fr).Inv := by
  unfold sendGuest
  split
  · exact inv_ite (inv_emit h) h
  · exact h

theorem inv_sendOn {c fr} (h : s.Inv) : (sendOn s c fr).Inv := by
  unfold sendOn
  split
  · exact inv_queueRace h
  · exact inv_queueSession h
  · exact inv_sendGuest h

theorem inv_losePaths {c} (h : s.Inv) : (losePaths c s).Inv := inv_mk h

theorem inv_pumpOne {f} (h : s.Inv) : (pumpOne f s).1.Inv := by
  unfold pumpOne
  dsimp only
  split
  · refine inv_ite_fst h ?_
    split
    · refine inv_ite_fst (inv_elim (fun _ => inv_haltSender h) h) ?_
      split
      · exact inv_foldl (fun _ _ => inv_sendOn) (inv_setFlume h)
      · exact inv_ite_fst h (inv_foldl (fun _ _ => inv_sendOn) (inv_updEntry (inv_setFlume h)))
      · exact h
    · exact inv_ite_fst h (inv_sendOn (inv_setFlume h))
    · exact inv_ite_fst h (inv_sendOn (inv_setFlume h))
  · exact h

theorem inv_pumpMany {f k} (h : s.Inv) : (pumpMany f k s).Inv := by
  induction k generalizing s with
  | zero => exact h
  | succ k ih =>
    unfold pumpMany
    split
    · next e => exact ih (inv_of_fst e (inv_pumpOne h))
    · next e => exact inv_of_fst e (inv_pumpOne h)

theorem inv_pump {f} (h : s.Inv) : (pump f s).Inv := inv_pumpMany h

theorem inv_receiptAt {f seq step what} (h : s.Inv) : (receiptAt f seq step what s).Inv :=
  inv_ite (inv_mk (inv_setFlume h)) (inv_setFlume h)

theorem inv_grantAt {f no} (h : s.Inv) : (grantAt f no s).Inv :=
  inv_ite h (inv_ite (inv_ite h (inv_pump (inv_setFlume h))) (inv_ite h (inv_pump (inv_setFlume h))))

theorem inv_localFrame {k} (h : s.Inv) : (localFrame s k).Inv := by
  unfold localFrame
  split
  · exact inv_grantAt h
  · exact inv_receiptAt h
  · exact inv_mk h
  · exact inv_mk h
  · exact h

theorem inv_sendFlume {f fr} (h : s.Inv) : (sendFlume s f fr).Inv := by
  unfold sendFlume
  split
  · exact inv_ite (inv_sendGuest h) (inv_localFrame h)
  · exact inv_ite h (inv_sendOn h)
  · exact h

theorem inv_enterTx {f t2} (h : s.Inv) : (enterTx s f t2).Inv := inv_pump (inv_updFlume h)

theorem inv_sendTwin {sub body bytes} (h : s.Inv) : (sendTwin s sub body bytes).Inv := by
  unfold sendTwin
  split
  · exact inv_queueRace h
  · exact h

theorem inv_journal {sub body bytes} (h : s.Inv) : (journal s sub body bytes).Inv := by
  unfold journal
  refine inv_ite ?_ h
  split
  · exact inv_queueRace (inv_mk h)
  · exact inv_mk h

theorem inv_journalFor {c sub body} (h : s.Inv) : (journalFor s c sub body).Inv := inv_ite h (inv_journal h)

theorem inv_flushUnits (h : s.Inv) : (flushUnits s).Inv := inv_foldl (fun _ _ => inv_journal) (inv_mk h)

theorem inv_journalPages {k l} (h : s.Inv) : (journalPages k l s).Inv := by
  induction k generalizing s l with
  | zero => exact h
  | succ k ih =>
    unfold journalPages
    exact inv_ite h (ih (inv_journal h))

theorem inv_journalEd {e} (h : s.Inv) : (journalEd s e).Inv := inv_journalFor h

theorem inv_journalFreed {v} (h : s.Inv) : (journalFreed s v).Inv := inv_journalFor h

theorem inv_journalStep {c n recs} (h : s.Inv) : (journalStep s c n recs).Inv := inv_journalFor h

theorem inv_journalFlume {f} (h : s.Inv) : (journalFlume s f).Inv := inv_journalFor h

theorem inv_journalPeer {c j} (h : s.Inv) : (journalPeer s c j).Inv := by
  unfold journalPeer
  split
  · exact inv_journalFor h
  · exact h

theorem inv_enterTurn {f t2} (h : s.Inv) : (enterTurn s f t2).Inv := inv_ite (inv_enterTx h) (inv_mk h)

theorem inv_sendNotice {c n} (h : s.Inv) : (sendNotice s c n).Inv := inv_foldl (fun _ _ => inv_enterTurn) h

theorem inv_respondNow {a n f} (h : s.Inv) : (respondNow s a n f).Inv := inv_ite h (inv_queueSession (inv_setSession h))

theorem inv_perform {k} (h : s.Inv) : (perform s k).Inv := by
  unfold perform
  split
  · exact inv_updEntry h
  · exact inv_enterTx h
  · exact inv_sendFlume h
  · exact inv_lateSignal h
  · exact inv_respondNow h
  · exact inv_sendNotice h
  · exact inv_mk h
  · exact inv_ite (inv_lateSignal (inv_mk h)) h
  · exact inv_releaseClosed h

theorem inv_hold {a} (h : s.Inv) : (hold s a).Inv := inv_ite (inv_mk h) (inv_perform h)

theorem inv_noticeStep {c n} (h : s.Inv) : (noticeStep c n s).Inv := inv_ite (inv_hold (inv_setCtx h)) h

/-! ## Stage programs (`Machine/Stage`) -/

theorem inv_aliasPages {owner base n pages} (h : s.Inv) : (aliasPages s owner base n pages).Inv := by
  unfold aliasPages
  refine inv_foldl (fun _ _ h => ?_) h
  split
  · exact inv_setPage h
  · exact inv_setPage h

theorem inv_setWindow {sh new} (h : s.Inv) : (setWindow s sh new).Inv := inv_aliasPages (inv_aliasPages h)

theorem inv_holdSignal {c d} (h : s.Inv) : (holdSignal s c d).Inv := inv_hold h

theorem optInv_wakeEdopen {c d} (h : s.Inv) : OptInv (wakeEdopen c d s) := by
  unfold wakeEdopen
  dsimp only
  split
  · exact optInv_none
  · next e => exact optInv_some (inv_holdSignal (inv_journalEd (inv_journalPages
        (inv_setWindow (inv_setShard (inv_setEd (inv_takePages e h)))))))

theorem optInv_wakeEdpend {c d} (h : s.Inv) : OptInv (wakeEdpend c d s) := by
  unfold wakeEdpend
  dsimp only
  split
  · exact optInv_some h
  · exact optInv_ite optInv_none (optInv_some (inv_holdSignal (inv_ite (inv_journalFreed
        (inv_settleTo (inv_freeEdition (inv_flushUnits h)))) (inv_journalEd (inv_setEd (inv_flushUnits h))))))

theorem inv_addRefs {w l} (h : s.Inv) : (addRefs s w l).Inv := by
  unfold addRefs
  split
  · exact inv_ite (inv_foldl (fun _ _ => inv_setEd) (inv_setEntry h)) h
  · exact h

theorem optInv_wakeDispatch {c d} (h : s.Inv) : OptInv (wakeDispatch c d s) := by
  unfold wakeDispatch
  dsimp only
  refine optInv_ite optInv_none ?_
  split
  · refine optInv_some (inv_foldl (fun _ _ => inv_updQuern) (inv_updCtx ?_))
    split
    · exact inv_addRefs h
    · exact h
  · exact optInv_some (inv_stopCtx (inv_updCtx h))

theorem inv_wakeOne {c d} (h : s.Inv) : (wakeOne c d s).Inv := by
  unfold wakeOne
  dsimp only
  split
  · next e =>
    refine inv_mk (inv_of_some e ?_)
    split
    · exact optInv_wakeEdopen h
    · exact optInv_wakeEdpend h
    · exact optInv_wakeDispatch h
  · exact h

theorem inv_wakeCtx {c} (h : s.Inv) : (wakeCtx c s).Inv := inv_foldl (fun _ _ h => inv_ite (inv_wakeOne h) h) h

theorem inv_commitAll {c} (h : s.Inv) : (commitAll c s).Inv :=
  inv_foldl (fun _ _ h => inv_ite (inv_ite (inv_journalEd (inv_commitEdition h)) (inv_commitEdition h)) h) h

theorem inv_freeAll {c} (h : s.Inv) : (freeAll c s).Inv :=
  inv_foldl (fun _ _ h => inv_ite (inv_ite (inv_journalFreed (inv_freeRetiring h)) (inv_freeRetiring h)) h) h

theorem inv_closeAll {c} (h : s.Inv) : (closeAll c s).Inv :=
  inv_foldl (fun _ _ h => inv_ite (inv_journalStep (inv_closeStep h)) (inv_closeStep h)) h

theorem inv_settleCtx {c} (h : s.Inv) : (settleCtx s c).Inv := by
  unfold settleCtx
  extract_lets s1 s2 s3 s4 s5
  have h4 : s4.Inv := inv_closeAll (inv_wakeCtx (inv_foldl (fun _ _ => inv_noticeStep) (inv_commitAll h)))
  have h5 : s5.Inv := inv_ite (inv_hold h4) h4
  exact inv_firePends (inv_freeAll h5)

theorem inv_settleRound (h : s.Inv) : (settleRound s).Inv := inv_foldl (fun _ _ => inv_settleCtx) h

theorem inv_settle (h : s.Inv) : (settle s).Inv := inv_settleRound (inv_settleRound (inv_settleRound h))

theorem resInv_stageInstr {c op i held enabled} {body : State → Except Nat (State × SigWhen)}
    (hb : ∀ s, s.Inv → Yields (fun r => r.1.Inv) (body s)) (h : s.Inv) : ResInv (stageInstr c op i held enabled body s) :=
  resInv_andThen (resInv_startStage hb h) (fun _ => inv_settle)

theorem inv_defer {c op i entry disp step} (h : s.Inv) : (defer s c op i entry disp step).Inv := inv_updCtx h

theorem inv_popEntry {c w k x} (h : s.Inv) : (popEntry c w k x s).Inv := by
  unfold popEntry
  split
  · exact h
  · split
    · exact h
    · next e => exact inv_updCtx (inv_ite (inv_setHopper (inv_setEntry (inv_takePages e h))) (inv_setEntry (inv_takePages e h)))

theorem inv_stallHpop {c w} (h : s.Inv) : (stallHpop c w s).Inv := inv_ite (inv_updCtx (inv_mk h)) h

@[simp] theorem resInv_execHpop {c i} (h : s.Inv) : ResInv (execHpop c i s) :=
  resInv_stageInstr (fun _ h => yields_bind_of (fun _ => yields_bind_of (fun _ => yields_ok_of (inv_popEntry h))))
    (inv_ite (inv_stallHpop h) h)

@[simp] theorem resInv_execDispatch {c i} (h : s.Inv) : ResInv (execDispatch c i s) :=
  resInv_stageInstr (fun _ h => yields_bind_of (fun _ => yields_bind_of (fun _ => yields_bind_of
    (fun _ => yields_bind_of (fun _ => yields_bind_of (fun _ => yields_bind_of (fun _ => yields_ok_of (inv_defer (inv_setCtx h))))))))) h

theorem inv_reenterTx {f w seq} (h : s.Inv) : (reenterTx f w seq s).Inv := inv_ite h (inv_pump (inv_updFlume h))

theorem inv_pushEntry {f w} (h : s.Inv) : (pushEntry f w s).Inv := by
  unfold pushEntry
  split
  · exact h
  · exact inv_ite h (inv_ite (inv_ite (inv_setEntry h) (inv_ite (inv_updEntry (inv_setEntry h)) (inv_reenterTx (inv_setEntry h))))
        (inv_ite (inv_journalFor (inv_setEntry (inv_setFlume h))) (inv_hold (inv_journalFor (inv_setEntry (inv_setFlume h))))))

theorem inv_copyLocal {k e} (h : s.Inv) : (copyLocal s k e).Inv := by
  unfold copyLocal
  split
  · exact inv_ite (inv_setEntry h) (inv_writeMem (inv_setEntry h))
  · exact inv_setEntry h

theorem inv_recopyLocal {w} (h : s.Inv) : (recopyLocal w s).Inv := by
  unfold recopyLocal
  split
  · refine inv_ite ?_ h
    split
    · exact inv_ite (inv_copyLocal h) h
    · exact h
  · exact h

@[simp] theorem resInv_execHpush {c i} (h : s.Inv) : ResInv (execHpush c i s) := by
  unfold execHpush
  refine resInv_stageInstr (fun _ h => yields_bind_of (fun _ => ?_)) h
  split
  · exact yields_bind_of (fun _ => yields_ok_of (inv_ite_fst (inv_hold (inv_recopyLocal (inv_pushEntry (inv_setCtx h))))
        (inv_recopyLocal (inv_pushEntry (inv_setCtx h)))))
  · exact yields_error_of

@[simp] theorem resInv_execHrcpt {c i} (h : s.Inv) : ResInv (execHrcpt c i s) := by
  unfold execHrcpt
  refine resInv_stageInstr (fun _ h => yields_bind_of (fun _ => ?_)) h
  split
  · exact yields_bind_of (fun _ => yields_ok_of h)
  · exact yields_error_of

@[simp] theorem resInv_execEdopen {c i} (h : s.Inv) : ResInv (execEdopen c i s) :=
  resInv_stageInstr (fun _ h => yields_bind_of (fun _ => yields_bind_of (fun _ => yields_bind_of
    (fun _ => yields_bind_of (fun _ => yields_ok_of (inv_defer h)))))) h

@[simp] theorem resInv_execEdpend {c i} (h : s.Inv) : ResInv (execEdpend c i s) :=
  resInv_stageInstr (fun _ h => yields_bind_of (fun _ => yields_bind_of (fun _ => yields_ok_of (inv_defer h)))) h

theorem inv_requestCommit {sh} (h : s.Inv) : (requestCommit s sh).Inv := by
  unfold requestCommit
  split
  · exact inv_setEd h
  · exact h

@[simp] theorem resInv_execEdcommit {c i} (h : s.Inv) : ResInv (execEdcommit c i s) :=
  resInv_stageInstr (fun _ h => yields_bind_of (fun _ => yields_bind_of (fun _ => yields_ok_of (inv_requestCommit h)))) h

@[simp] theorem resInv_execEdretire {c i} (h : s.Inv) : ResInv (execEdretire c i s) :=
  resInv_stageInstr (fun _ h => yields_bind_of (fun _ => yields_bind_of (fun _ => yields_ok_of
    (inv_foldl (fun _ _ h => inv_journalEd (inv_setEd h)) h)))) h

@[simp] theorem resInv_execSteptoken {c i} (h : s.Inv) : ResInv (execSteptoken c i s) :=
  resInv_stageInstr (fun _ h => yields_bind_of (fun _ => yields_ok_of (inv_foldl (fun _ _ => inv_enterTurn) (inv_updCtx h)))) h

end Sys2Proof.Machine
end

section
/-! # The form of the bytes under the wire and the Galley -/

namespace Sys2Proof.Machine

open Sys2Proof

variable {s t : State}

/-! ## Wire (`Machine/Wire`) -/

theorem inv_emitNumbered {r lsn fr} (h : s.Inv) : (emitNumbered s r lsn fr).Inv := inv_emit (inv_setRace (inv_mk h))

theorem inv_emitRace {r fr} (h : s.Inv) : (emitRace s r fr).Inv := inv_emitNumbered (inv_setRace h)

theorem inv_emitPlain {r fr} (h : s.Inv) : (emitPlain s r fr).Inv := inv_emit (inv_mk h)

theorem inv_dropAt {a} (h : s.Inv) : (dropAt s a).Inv := inv_updHost h

theorem inv_authFailAt {a} (h : s.Inv) : (authFailAt s a).Inv := inv_updHost h

theorem inv_countDropped {k} (h : s.Inv) : (countDropped s k).Inv := by
  unfold countDropped
  split
  · exact inv_updRace h
  · exact inv_updHost h
  · exact h

theorem inv_dropFrame {via detail} (h : s.Inv) : (dropFrame s via detail).Inv := inv_logEvent (inv_countDropped h)

theorem inv_leaveAttested {r} (h : s.Inv) : (leaveAttested s r).Inv := inv_ite (inv_losePaths h) h

theorem inv_moveJournal {r} (h : s.Inv) : (moveJournal r s).Inv := by
  unfold moveJournal
  split
  · exact inv_ite (inv_foldl (fun _ _ => inv_queueRace) h) h
  · exact h

theorem inv_toLinked {r} (h : s.Inv) : (toLinked s r).Inv := inv_moveJournal (inv_updRace (inv_leaveAttested h))

theorem inv_tagFailure {r} (h : s.Inv) : (tagFailure s r).Inv :=
  inv_ite (inv_logEvent (inv_updRace (inv_toLinked (inv_emitRace (inv_setRace h))))) (inv_setRace h)

theorem inv_raceAckDue {r} (h : s.Inv) : (raceAckDue s r).Inv := inv_ite (inv_queueRace (inv_setRace h)) h

theorem inv_sessionAckDue {a n} (h : s.Inv) : (sessionAckDue s a n).Inv := inv_ite (inv_queueSession (inv_setSession h)) h

theorem inv_seeCtr {w} (h : s.Inv) : (seeCtr s w).Inv := inv_mk h

theorem inv_receiveRace {r w c} (h : s.Inv) : (receiveRace r w c s).1.Inv := by
  rw [show receiveRace = _ by delta receiveRace; rfl]
  obtain ⟨take, htake⟩ := asVariable RxLink.take
  obtain ⟨acked, hacked⟩ := asVariable Race.acked
  rw [← htake, ← hacked]
  dsimp only
  refine inv_ite_fst h (inv_ite_fst (inv_countDropped h) (inv_ite_fst (inv_tagFailure h) (inv_ite_fst (inv_setRace h) ?_)))
  split
  · exact inv_raceAckDue (inv_setRace (inv_seeCtr h))
  · refine inv_raceAckDue ?_
    split
    · exact inv_queueRace (inv_setRace (inv_seeCtr h))
    · exact inv_setRace (inv_seeCtr h)
  · exact inv_raceAckDue (inv_setRace (inv_seeCtr h))

theorem inv_receiveHost {a n w c} (h : s.Inv) : (receiveHost a n w c s).1.Inv := by
  rw [show receiveHost = _ by delta receiveHost; rfl]
  obtain ⟨take, htake⟩ := asVariable RxLink.take
  obtain ⟨acked, hacked⟩ := asVariable Session.acked_
  rw [← htake, ← hacked]
  have seen {x} : ((seeCtr s w).setSession a n x).Inv := inv_setSession (inv_seeCtr h)
  dsimp only
  split
  · exact h
  split
  · exact inv_dropAt h
  split
  · exact inv_authFailAt h
  split
  · exact inv_dropAt h
  split
  · exact inv_sessionPump (inv_sessionAckDue seen)
  · refine inv_sessionPump (inv_sessionAckDue ?_)
    split
    · exact inv_queueSession seen
    · exact seen
  · exact inv_sessionPump (inv_sessionAckDue seen)

theorem inv_receive {w c} (h : s.Inv) : (receive w c s).1.Inv := by
  unfold receive
  split
  · exact inv_receiveRace h
  · exact inv_receiveHost h
  · exact h

theorem inv_takeKept {via c} (e : takeKept via s = some (c, t)) (h : s.Inv) : t.Inv := by
  cases via with
  | race r =>
    unfold takeKept at e
    dsimp only at e
    split at e
    · obtain ⟨y, -, e⟩ := Option.map_eq_some_iff.1 e
      cases e
      exact inv_setRace h
    · cases e
  | host p n =>
    unfold takeKept at e
    dsimp only at e
    split at e
    · obtain ⟨y, -, e⟩ := Option.map_eq_some_iff.1 e
      cases e
      exact inv_setSession h
    · cases e
  | fabric => cases e

theorem inv_setFlumeState {f st} (h : s.Inv) : (setFlumeState s f st).Inv := inv_ite h (inv_journalFlume (inv_logEvent (inv_updFlume h)))

theorem inv_abandonRx {f} (h : s.Inv) : (abandonRx s f).Inv := inv_updFlume h

theorem inv_resendAsks {f} (h : s.Inv) : (resendAsks f s).Inv := by
  unfold resendAsks
  dsimp only
  split
  · exact inv_sendFlume (inv_foldl (fun _ _ => inv_sendFlume) h)
  · exact inv_foldl (fun _ _ => inv_sendFlume) h

theorem inv_resendFlume {f} (h : s.Inv) : (resendFlume f s).Inv :=
  inv_ite (inv_resendAsks (inv_foldl (fun _ _ => inv_sendFlume) h)) (inv_pump (inv_setFlume h))

/-! ## The Galley (`Machine/Galley`) -/

theorem inv_setBucket {b} (h : s.Inv) : (State.setBucket s b).Inv := inv_mk h

theorem inv_updBucket {bid f} (h : s.Inv) : (State.updBucket s bid f).Inv := by
  unfold State.updBucket
  split
  · exact inv_setBucket h
  · exact h

theorem inv_dropBucket {bid} (h : s.Inv) : (dropBucket s bid).Inv := inv_mk h

theorem inv_emitUnit {b link hop u} (h : s.Inv) : (emitUnit b link hop u s).Inv := inv_sendFlume h

theorem inv_sendQueue {b l blocked} (h : s.Inv) : (sendQueue s b l blocked).1.Inv := by
  induction l generalizing s b blocked with
  | nil => exact h
  | cons x l ih =>
    unfold sendQueue
    dsimp only
    split
    · exact ih h
    split
    · exact ih (inv_emitUnit h)
    split
    · exact ih (inv_emitUnit h)
    · exact ih h

theorem inv_pumpRed {bid} (h : s.Inv) : (pumpRed bid s).Inv := by
  unfold pumpRed
  split
  · exact inv_setBucket (inv_sendQueue h)
  · exact h

theorem inv_sendAck {out id credit n} (h : s.Inv) : (sendAck s out id credit n).Inv := inv_sendFlume h

theorem inv_giveCredit {link hop chunk n x} (h : x.1.Inv) : (giveCredit link hop chunk n x).1.Inv := inv_ite_fst h (inv_sendAck h)

theorem inv_takeEarly {b} (h : s.Inv) : (takeEarly s b).1.Inv := h

theorem yields_startRound_of {b} (h : s.Inv) : Yields State.Inv (startRound b s) := by
  unfold startRound
  split
  · exact yields_error_of
  dsimp only
  split
  · exact yields_ok_of (inv_setBucket h)
  · exact yields_ok_of (inv_pumpRed (inv_setBucket (inv_foldl_fst (fun _ _ => inv_giveCredit) (inv_takeEarly h))))

theorem inv_redFails {b e} (h : s.Inv) : (redFails b e s).Inv := by
  unfold redFails
  split
  · exact inv_addressError (inv_dropBucket h)
  · exact inv_haltData h

theorem inv_redSignal {c bid} (h : s.Inv) : (redSignal c bid s).Inv := by
  unfold redSignal
  dsimp only
  split
  · exact inv_hold (inv_setCtx h)
  · exact inv_hold h

theorem inv_finishRed {b nf} (h : s.Inv) : (finishRed b nf s).Inv := by
  unfold finishRed
  extract_lets s0 src s1 s2 was s3 s4
  have h0 : s0.Inv := inv_updBucket (inv_flushUnits h)
  have h1 : s1.Inv := by
    unfold s1
    split
    · exact inv_mk h0
    · exact h0
  have h3 : s3.Inv := inv_finalizeIfDone (inv_updCtx h1)
  exact inv_redSignal (inv_ite (inv_journalStep h3) h3)

theorem inv_startOrFail {b : Bucket} (h : s.Inv) : (match startRound b s with | .ok t => t | .error e => redFails b e s).Inv := by
  split
  · next e => exact inv_of_ok (yields_startRound_of h) e
  · exact inv_redFails h

theorem inv_beginRed {b} (h : s.Inv) : (beginRed b s).Inv := by
  unfold beginRed
  dsimp only
  split
  · exact inv_startOrFail (inv_setBucket (inv_ite (inv_mk h) h))
  split
  · exact inv_redFails h
  split
  · exact inv_startOrFail (inv_setBucket (inv_mk h))
  · exact inv_startOrFail (inv_setBucket h)

theorem optInv_carryScale {b n} (h : s.Inv) : OptInv (carryScale b n s) := by
  unfold carryScale
  split
  · exact optInv_some (inv_redFails h)
  · refine optInv_ite optInv_none ?_
    split
    · next e => exact optInv_some (inv_finishRed (inv_of_fst e (inv_writeMem h)))
    · exact optInv_some (inv_redFails h)
    · next e => exact optInv_some (inv_redFails (inv_of_fst e (inv_writeMem h)))

theorem inv_tryBegin {bid x} (h : x.1.Inv) : (tryBegin bid x).1.Inv := by
  obtain ⟨s, blocked⟩ := x
  unfold tryBegin
  dsimp only
  split
  · exact h
  refine inv_ite_fst h (inv_ite_fst (inv_finishRed h) (inv_ite_fst h ?_))
  split
  · next e =>
    split at e
    · exact inv_of_some e (optInv_carryScale h)
    · cases e
  · exact inv_ite_fst h (inv_beginRed (inv_setBucket h))

theorem inv_retryRound {bid} (h : s.Inv) : (retryRound bid s).Inv := by
  unfold retryRound
  split
  · exact inv_ite h (inv_ite (inv_startOrFail h) (inv_ite (inv_beginRed h) h))
  · exact h

theorem inv_wakeReds {c} (h : s.Inv) : (wakeReds c s).Inv :=
  inv_foldl_fst (fun _ _ => inv_tryBegin) (inv_foldl (fun _ _ => inv_retryRound) h)

theorem inv_issueRed {c i kind lastred w} (h : s.Inv) : (issueRed c i kind lastred w s).Inv :=
  inv_hold (inv_journalStep (inv_mk (inv_setCtx h)))

theorem yields_issueBody_of {c i scheds kind lastred} (h : s.Inv) :
    Yields (fun r => r.1.Inv) (issueBody c i scheds kind lastred s) := by
  unfold issueBody
  refine yields_bind_of (fun _ => ?_)
  split
  · exact yields_ok_of (inv_addressError h)
  · exact yields_ok_of (inv_haltData h)
  · exact yields_bind_of (fun _ => yields_ok_of (inv_issueRed h))

theorem inv_afterIssue {c} (h : s.Inv) : (afterIssue c s).Inv := inv_settle (inv_wakeReds h)

@[simp] theorem resInv_execBscale {c i} (h : s.Inv) : ResInv (execBscale c i s) :=
  resInv_andThen (resInv_startStage (fun _ h => yields_bind_of (fun _ => yields_bind_of (fun _ => yields_issueBody_of h))) h)
    (fun _ => inv_afterIssue)

@[simp] theorem resInv_execBred {c i} (h : s.Inv) : ResInv (execBred c i s) :=
  resInv_andThen (resInv_startStage (fun _ h => yields_bind_of (fun _ => yields_bind_of
    (fun _ => yields_bind_of (fun _ => yields_issueBody_of h)))) h) (fun _ => inv_afterIssue)

theorem inv_redMismatch {b field} (h : s.Inv) : (redMismatch b field s).Inv := inv_stopCtx (inv_mk (inv_logEvent (inv_dropBucket h)))

theorem inv_beginSecond {x} (h : x.1.Inv) : (beginSecond x).1.Inv := by
  unfold beginSecond
  dsimp only
  split
  · exact inv_foldl_fst (fun _ _ => inv_giveCredit) h
  · exact h

theorem inv_freeHolding {x} (h : x.1.Inv) : (freeHolding x).1.Inv := inv_foldl_fst (fun _ _ => inv_giveCredit) h

theorem inv_loseLine {b chunk} (h : s.Inv) : (loseLine b chunk s).Inv := by
  unfold loseLine
  split
  · exact inv_mk h
  · exact h

theorem inv_acceptUnit {b link id hdr lines err} (h : s.Inv) : (acceptUnit b link id hdr lines err s).Inv := by
  unfold acceptUnit
  extract_lets hop u ch b1 lineLost lost src hd s1 b2
  have h1 : s1.Inv := by
    unfold s1
    cases err with
    | none => exact h
    | corrected => exact inv_countCe h
    | lost => exact inv_overlapping (inv_loseLine h)
  split
  next s2 b3 e =>
  have h2 : s2.Inv := inv_of_fst e (inv_ite_fst (inv_freeHolding (inv_sendAck h1)) h1)
  split
  next e => exact inv_pumpRed (inv_setBucket (inv_of_fst e (inv_beginSecond h2)))

theorem inv_redArrives {w id hdr a nb lines err} (h : s.Inv) : (redArrives w id hdr a nb lines err s).Inv := by
  unfold redArrives
  dsimp only
  refine inv_ite ?_ ?_
  · split
    · exact inv_sendAck h
    · exact inv_dropFrame h
  · split
    · refine inv_ite ?_ (inv_dropFrame h)
      split
      · exact inv_sendAck h
      · exact inv_dropFrame h
    · refine inv_ite ?_ (inv_ite (inv_dropFrame h) ?_)
      · split
        · exact inv_sendAck h
        · exact inv_dropFrame h
      · split
        · exact inv_redMismatch h
        · split
          · exact inv_dropFrame h
          · exact inv_ite (inv_ite (inv_sendAck h) h) (inv_ite (inv_acceptUnit h) (inv_dropFrame h))

theorem optInv_takeLocal {x} (h : s.Inv) : OptInv (takeLocal s x) := optInv_ite (optInv_some (inv_mk h)) optInv_none

theorem inv_ackArrives {b ch} (h : s.Inv) : (ackArrives b ch s).Inv := by
  unfold ackArrives
  dsimp only
  exact inv_pumpRed (inv_setBucket (inv_beginSecond (inv_freeHolding h)))

theorem inv_redackArrives {w id credit n} (h : s.Inv) : (redackArrives w id credit n s).Inv := by
  unfold redackArrives
  refine inv_ite (inv_dropFrame h) ?_
  split
  · exact inv_ite (inv_mk h) (inv_dropFrame h)
  · refine inv_ite (inv_dropFrame h) (inv_ite (inv_dropFrame h) (inv_ite (inv_redMismatch h)
        (inv_ite (inv_ite (inv_mk h) (inv_dropFrame h)) (inv_ite (inv_redMismatch h) (inv_ite ?_ ?_)))))
    · split
      · exact inv_pumpRed (inv_setBucket h)
      · exact inv_dropFrame h
    · split
      · exact inv_ackArrives h
      · exact inv_dropFrame h

theorem inv_resendReds {f} (h : s.Inv) : (resendReds f s).Inv := by
  refine inv_foldl (fun s b h => ?_) h
  exact inv_foldl (fun _ _ => inv_foldl (fun _ _ h => inv_ite h (inv_emitUnit h))) (inv_foldl (fun _ _ => inv_sendAck) h)

theorem inv_nextRound {b} (h : s.Inv) : (nextRound b s).Inv := inv_startOrFail (inv_setBucket h)

theorem inv_countRepeat (h : s.Inv) : (countRepeat s).Inv := inv_mk h

theorem inv_scaleDone {b} (h : s.Inv) : (scaleDone b s).Inv := by
  unfold scaleDone
  dsimp only
  refine inv_ite (inv_nextRound (inv_countRepeat h)) ?_
  split
  · split
    · next e => exact inv_finishRed (inv_of_fst e (inv_writeMem h))
    · exact inv_redFails h
    · next e => exact inv_redFails (inv_of_fst e (inv_writeMem h))
  · exact inv_nextRound h

theorem inv_dataDone {b} (h : s.Inv) : (dataDone b s).Inv :=
  inv_ite (inv_ite (inv_nextRound (inv_mk h)) (inv_nextRound (inv_mk h))) (inv_ite (inv_nextRound (inv_countRepeat h)) (inv_setBucket h))

@[simp] theorem resInv_execRoundComplete {c btag} (h : s.Inv) : ResInv (execRoundComplete c btag s) := by
  unfold execRoundComplete
  refine resInv_whileClocked h ?_
  split
  · exact resInv_next h
  · exact resInv_ite (resInv_next h) (resInv_next (inv_settle (inv_wakeReds (inv_ite (inv_scaleDone h) (inv_dataDone h)))))

theorem inv_completeBucket {b} (h : s.Inv) : (completeBucket b s).Inv := by
  unfold completeBucket
  split
  · exact inv_redFails h
  · next e => exact inv_redFails (inv_of_fst e (inv_writeMem h))
  · next e =>
    have written := inv_of_fst e (inv_writeMem h)
    dsimp only
    refine inv_finishRed (inv_journalStep (inv_flushUnits ?_))
    split
    · exact inv_updCtx written
    · exact inv_logEvent (inv_mk written)

@[simp] theorem resInv_execBucketComplete {c btag} (h : s.Inv) : ResInv (execBucketComplete c btag s) := by
  unfold execBucketComplete
  refine resInv_whileClocked h ?_
  split
  · exact resInv_next h
  · exact resInv_ite (resInv_next (inv_settle (inv_wakeReds (inv_completeBucket h)))) (resInv_next h)

@[simp] theorem resInv_execGalleyStall {c btag} (h : s.Inv) : ResInv (execGalleyStall c btag s) := by
  unfold execGalleyStall
  refine resInv_whileClocked h ?_
  split
  · exact resInv_next h
  · exact resInv_next (inv_logEvent (inv_mk h))

theorem inv_lowerQuota (h : s.Inv) : (lowerQuota s).Inv := by
  unfold lowerQuota
  refine inv_ite h ?_
  split
  · exact inv_updCtx h
  · split
    · exact inv_logEvent (inv_mk (inv_updCtx h))
    · exact h

@[simp] theorem resInv_execFormeDisable {forme} (h : s.Inv) : ResInv (execFormeDisable forme s) :=
  resInv_whileClocked h (resInv_ite (resInv_next h) (resInv_next (inv_overlapping
    (inv_lowerQuota (inv_addDefect (inv_logEvent (inv_mk h)))))))

end Sys2Proof.Machine
end

section
/-! # The form of the bytes under the Flumes and the Races -/

namespace Sys2Proof.Machine

open Sys2Proof

variable {s t : State}

/-! ## Flumes (`Machine/Flume`) -/

theorem inv_releaseGrant {e} (h : s.Inv) : (releaseGrant s e).Inv := inv_releaseEntry h

theorem inv_enterClosed {f} (h : s.Inv) : (enterClosed s f).Inv :=
  inv_setFlumeState (inv_updFlume (inv_foldl (fun _ _ => inv_releaseGrant) h))

theorem inv_sendClose {f} (h : s.Inv) : (sendClose s f).Inv :=
  inv_ite (inv_enterClosed (inv_enterClosed h)) (inv_ite (inv_enterClosed h) (inv_hold (inv_enterClosed h)))

theorem inv_closings (h : s.Inv) : (closings s).Inv := inv_foldl (fun _ _ h => inv_ite (inv_sendClose h) h) h

theorem inv_afterFlume (h : s.Inv) : (afterFlume s).Inv := inv_settle (inv_closings h)

theorem inv_onFlume {act : State → State} (hact : ∀ s, s.Inv → (act s).Inv) {w typ detail} (h : s.Inv) :
    (onFlume w typ detail act s).Inv := inv_ite (inv_afterFlume (hact _ h)) (inv_dropFrame h)

theorem inv_issueGrant {f} (h : s.Inv) : (issueGrant f s).Inv := by
  rw [show issueGrant = _ by delta issueGrant; rfl]
  extract_lets x
  split
  · exact h
  · next e => exact inv_hold (inv_setFlume (inv_mk (inv_takePages e h)))

@[simp] theorem resInv_execGrantIssue {f} (h : s.Inv) : ResInv (execGrantIssue f s) :=
  resInv_whileClocked h (resInv_ite (resInv_next h) (resInv_ite (resInv_next (inv_issueGrant h))
    (resInv_ite (resInv_next h) (resInv_next (inv_setFlume (inv_mk h))))))

theorem inv_grantActs {w grantNo} (h : s.Inv) : (grantActs w grantNo s).Inv := inv_onFlume (fun _ h => inv_ite h (inv_grantAt h)) h

theorem inv_journalAccepted {f e} (h : s.Inv) : (journalAccepted s f e).Inv := by
  unfold journalAccepted
  split
  · exact h
  · exact inv_ite h (inv_journalFor (inv_journalPages (inv_foldl (fun _ _ => inv_journal) h)))

theorem inv_acceptEntry {f e seq step mbid edition} (h : s.Inv) : (acceptEntry f e seq step mbid edition s).Inv := by
  unfold acceptEntry
  split
  · exact h
  · exact inv_hold (inv_hold (inv_journalAccepted (inv_setFlume (inv_setHopper (inv_setEntry (inv_returnPages h))))))

theorem inv_acceptRx {f} (h : s.Inv) : (acceptRx f s).Inv := by
  unfold acceptRx
  split
  · exact inv_ite (inv_acceptEntry h) h
  · exact h

theorem inv_duplicateMb {f seq} (h : s.Inv) : (duplicateMb f seq s).Inv := by
  unfold duplicateMb
  split
  · exact inv_ite (inv_setFlume h) (inv_sendFlume (inv_setFlume h))
  · exact inv_sendFlume (inv_setFlume h)

theorem inv_mbArrives {via f seq step grantNo mbid edition len} (h : s.Inv) :
    (mbArrives via f seq step grantNo mbid edition len s).Inv := by
  unfold mbArrives
  refine inv_ite h (inv_ite ?_ (inv_ite (inv_logEvent h) ?_))
  · split
    · exact inv_ite (inv_setFlume h) (inv_duplicateMb h)
    · exact inv_duplicateMb h
  · split
    · exact inv_dropFrame h
    · exact inv_ite (inv_dropFrame h) (inv_setFlume h)

theorem inv_mbhdrActs {w seq step grantNo mbid edition len} (h : s.Inv) : (mbhdrActs w seq step grantNo mbid edition len s).Inv :=
  inv_onFlume (fun _ h => inv_mbArrives (inv_acceptRx h)) h

theorem inv_dataArrives {f seq seg size last bytes} (h : s.Inv) : (dataArrives f seq seg size last bytes s).Inv := by
  unfold dataArrives
  dsimp only
  split
  · exact h
  · refine inv_ite h ?_
    split
    · exact h
    · exact inv_ite (inv_sendFlume (inv_setFlume (inv_setEntry (inv_writeMem h)))) (inv_setFlume (inv_writeMem h))

theorem inv_dataActs {w seq last seg bytes} (h : s.Inv) : (dataActs w seq last seg bytes s).Inv :=
  inv_onFlume (fun _ => inv_dataArrives) h

theorem inv_takeItem {g grant} (h : s.Inv) : (takeItem s g grant).Inv := inv_updFlume h

theorem inv_localMb {f} (h : s.Inv) : (localMb f s).Inv := by
  unfold localMb
  dsimp only
  split
  · refine inv_ite (inv_duplicateMb (inv_takeItem h)) (inv_ite h ?_)
    split
    · split
      · exact inv_ite (inv_haltData h) (inv_acceptEntry (inv_takeItem (inv_writeMem h)))
      · exact h
    · exact h
  · exact h

@[simp] theorem resInv_execAcceptance {f} (h : s.Inv) : ResInv (execAcceptance f s) :=
  resInv_whileClocked h (resInv_ite (resInv_next h) (resInv_ite (resInv_ite (resInv_next (inv_afterFlume (inv_localMb h)))
    (resInv_next h)) (resInv_next (inv_afterFlume (inv_acceptRx h)))))

theorem inv_receiptActs {w seq step what} (h : s.Inv) : (receiptActs w seq step what s).Inv :=
  inv_onFlume (fun _ h => inv_ite h (inv_receiptAt h)) h

theorem inv_recallAtOut {f seq step} (h : s.Inv) : (recallAtOut f seq step s).Inv := by
  unfold recallAtOut
  split
  · split
    · exact inv_ite h (inv_foldl (fun _ _ => inv_sendOn) h)
    · exact h
  · exact inv_sendFlume h

theorem inv_recallAtIn {f seq} (h : s.Inv) : (recallAtIn f seq s).Inv := by
  unfold recallAtIn
  split
  · exact inv_ite (inv_setEntry h) h
  · exact h

theorem inv_recallActs {w seq step} (h : s.Inv) : (recallActs w seq step s).Inv :=
  inv_onFlume (fun _ h => inv_ite h (inv_ite (inv_recallAtIn h) (inv_recallAtOut h))) h

theorem inv_recordPeer {c j n token} (h : s.Inv) : (recordPeer s c j n token).Inv := by
  unfold recordPeer
  split
  · exact h
  · exact inv_ite h (inv_journalPeer (inv_updCtx h))

theorem inv_tokenArrives {f n token} (h : s.Inv) : (tokenArrives f n token s).Inv := by
  unfold tokenArrives
  refine inv_ite h (inv_hold ?_)
  split
  · exact inv_recordPeer h
  · exact h

theorem inv_localToken {f n token} (h : s.Inv) : (localToken f n token s).Inv := by
  unfold localToken
  dsimp only
  split
  · exact inv_ite (inv_tokenArrives (inv_takeItem h)) h
  · exact h

theorem inv_tokenActs {w step} (h : s.Inv) : (tokenActs w step s).Inv :=
  inv_onFlume (fun _ h => inv_ite (inv_localToken h) (inv_tokenArrives h)) h

theorem inv_noticeActs {w step} (h : s.Inv) : (noticeActs w step s).Inv :=
  inv_onFlume (fun _ h => inv_ite (inv_localToken h) (inv_tokenArrives h)) h

theorem inv_enterOpen {f} (h : s.Inv) : (enterOpen f s).Inv := inv_pump (inv_setFlumeState (inv_updFlume h))

theorem inv_refuseOpen {f field} (h : s.Inv) : (refuseOpen f field s).Inv := inv_logEvent (inv_setFlumeState h)

theorem inv_offerArrives {via f from_ member dir len4k} (h : s.Inv) : (offerArrives via f from_ member dir len4k s).Inv := by
  unfold offerArrives
  refine inv_ite ?_ (inv_ite (inv_sendFlume h) h)
  split
  · exact inv_hold (inv_enterOpen h)
  · exact inv_refuseOpen (inv_sendOn h)

theorem inv_openActs {w dir len4k} (h : s.Inv) : (openActs w dir len4k s).Inv := inv_onFlume (fun _ h => inv_ite h (inv_offerArrives h)) h

theorem inv_openackActs {w result} (h : s.Inv) : (openackActs w result s).Inv :=
  inv_onFlume (fun _ h => inv_ite h (inv_ite (inv_enterOpen h) (inv_refuseOpen h))) h

theorem inv_openLocal {f} (h : s.Inv) : (openLocal f s).Inv :=
  inv_ite h (inv_ite (inv_enterOpen (inv_enterOpen h)) (inv_refuseOpen (inv_refuseOpen h)))

theorem inv_wakePath {f} (h : s.Inv) : (wakePath f s).Inv := by
  unfold wakePath
  refine inv_ite h ?_
  split
  · exact h
  · exact inv_ite (inv_sendFlume (inv_setFlume h)) (inv_resendReds (inv_resendFlume
        (inv_ite (inv_setFlumeState (inv_setFlume h)) (inv_setFlume h))))

theorem inv_wakePaths (h : s.Inv) : (wakePaths s).Inv := inv_foldl (fun _ _ h => inv_pump (inv_wakePath h)) h

theorem inv_startOpen {f} (h : s.Inv) : (startOpen f s).Inv := by
  unfold startOpen
  split
  · exact inv_enterOpen (inv_updFlume h)
  · exact inv_ite (inv_sendGuest (inv_setFlumeState (inv_updFlume (inv_updFlume h))))
        (inv_openLocal (inv_setFlumeState (inv_updFlume (inv_updFlume h))))
  · exact inv_wakePath (inv_setFlumeState (inv_updFlume h))

theorem inv_abandonTx {f} (h : s.Inv) : (abandonTx f s).Inv := inv_updFlume (inv_foldl (fun _ _ h => inv_logEvent (inv_setEntry h)) h)

theorem inv_askClose {f forced} (h : s.Inv) : (askClose f forced s).Inv := inv_sendFlume h

theorem inv_startClose {f forced} (h : s.Inv) : (startClose f forced s).Inv :=
  inv_ite h (inv_ite (inv_enterClosed h) (inv_ite (inv_ite (inv_ite (inv_abandonTx (inv_setFlumeState (inv_updFlume h)))
    (inv_setFlumeState (inv_updFlume h))) (inv_ite (inv_enterClosed h) (inv_askClose (inv_setFlume h))))
    (inv_ite (inv_abandonTx (inv_setFlumeState (inv_setFlume h))) (inv_setFlumeState (inv_setFlume h)))))

theorem inv_closeActs {w forced firstUnused} (h : s.Inv) : (closeActs w forced firstUnused s).Inv :=
  inv_onFlume (fun _ h => inv_ite h (inv_ite (inv_enterClosed (inv_updFlume (inv_foldl (fun _ _ => inv_releaseGrant) h)))
    (inv_startClose h))) h

@[simp] theorem resInv_execFlumeBreak {f} (h : s.Inv) : ResInv (execFlumeBreak f s) :=
  resInv_whileClocked h (resInv_ite (resInv_next (inv_setFlumeState (inv_updFlume (inv_abandonRx h)))) (resInv_next h))

theorem inv_leavePath {f} (h : s.Inv) : (leavePath f s).Inv := by
  unfold leavePath
  split
  · exact inv_pump (inv_wakePath (inv_updFlume (inv_abandonRx h)))
  · exact inv_ite (inv_setFlumeState (inv_updFlume (inv_abandonRx h))) (inv_updFlume (inv_abandonRx h))

@[simp] theorem resInv_execPathFail {f} (h : s.Inv) : ResInv (execPathFail f s) :=
  resInv_whileClocked h (resInv_ite (resInv_next (inv_afterFlume (inv_leavePath h))) (resInv_next h))

@[simp] theorem resInv_execDrainComplete {c} (h : s.Inv) : ResInv (execDrainComplete c s) :=
  resInv_whileClocked h (resInv_ite (resInv_next (inv_settle (inv_setCtx h))) (resInv_next h))

/-! ## Races (`Machine/Race`) -/

theorem inv_noteLane {r action} (h : s.Inv) : (noteLane s r action).Inv := inv_addDefect (inv_logEvent h)

theorem inv_endRace {r st} (h : s.Inv) : (endRace s r st).Inv := inv_moveJournal (inv_updRace (inv_leaveAttested h))

theorem inv_failRace {r} (h : s.Inv) : (failRace s r).Inv := inv_noteLane (inv_logEvent (inv_endRace h))

theorem inv_takeLanes {r set} (h : s.Inv) : (takeLanes r set s).Inv :=
  inv_ite (inv_noteLane (inv_ite (inv_noteLane (inv_setRace h)) (inv_setRace h))) (inv_ite (inv_noteLane (inv_setRace h)) (inv_setRace h))

theorem inv_markBad {r l} (h : s.Inv) : (markBad s r l).Inv := inv_ite h (inv_updRace (inv_setRacePort h))

theorem inv_wakeLanes {r l} (h : s.Inv) : (wakeLanes s r l).Inv := inv_setRacePort h

theorem inv_countRetrain {r} (h : s.Inv) : (countRetrain s r).Inv := inv_addDefect (inv_logEvent (inv_setRacePort h))

theorem inv_freshTraining {r} (h : s.Inv) : (freshTraining s r).Inv := inv_setRacePort (inv_endRace h)

theorem inv_enterRetraining {r} (h : s.Inv) : (enterRetraining s r).Inv := inv_updRace h

theorem inv_retrainRace {r} (h : s.Inv) : (retrainRace s r).Inv :=
  inv_ite (inv_updRace (inv_enterRetraining (inv_wakeLanes h))) (inv_freshTraining h)

@[simp] theorem resInv_execRaceTraining {r e} (h : s.Inv) : ResInv (execRaceTraining r e s) := by
  unfold execRaceTraining
  dsimp only
  refine resInv_whileClocked h (resInv_ite (resInv_next h) ?_)
  split
  · exact resInv_next (inv_freshTraining h)
  · split
    · exact resInv_next (inv_updRace (inv_takeLanes (inv_markBad (inv_updRace h))))
    · exact resInv_next (inv_failRace (inv_markBad (inv_updRace h)))
  · exact resInv_next h

@[simp] theorem resInv_execTrainingTimeout {r} (h : s.Inv) : ResInv (execTrainingTimeout r s) :=
  resInv_whileClocked h (resInv_ite (resInv_next (inv_failRace h)) (resInv_next h))

theorem inv_noteErrors {r errors} (h : s.Inv) : (noteErrors s r errors).Inv := inv_setRacePort h

theorem inv_freshChallenge {r} (h : s.Inv) : (freshChallenge s r).Inv := inv_updRace (inv_nextFree h)

theorem inv_enterHello {r} (h : s.Inv) : (enterHello s r).Inv := inv_updRace (inv_freshChallenge h)

@[simp] theorem resInv_execQualification {r errors} (h : s.Inv) : ResInv (execQualification r errors s) :=
  resInv_whileClocked h (resInv_ite (resInv_next h) (resInv_ite (resInv_next (inv_enterHello (inv_markBad (inv_noteErrors h))))
    (resInv_next (inv_updRace (inv_markBad (inv_noteErrors h))))))

@[simp] theorem resInv_execHelloSend {r} (h : s.Inv) : ResInv (execHelloSend r s) :=
  resInv_whileClocked h (resInv_ite (resInv_next (inv_emitPlain h)) (resInv_next h))

theorem inv_sendBody {r} (h : s.Inv) : (sendBody s r).Inv := inv_emitPlain (inv_emitPlain h)

theorem inv_tryAttest {r} (h : s.Inv) : (tryAttest s r).Inv :=
  inv_ite h (inv_ite (inv_sendBody (inv_setRace h)) (inv_ite (inv_sendBody (inv_setRace h)) h))

@[simp] theorem resInv_execHello {r m} (h : s.Inv) : ResInv (execHello r m s) :=
  resInv_whileClocked h (resInv_ite (resInv_next h) (resInv_ite (resInv_next h)
    (resInv_ite (resInv_next (inv_failRace h)) (resInv_next (inv_tryAttest (inv_setRace h))))))

theorem inv_resendJournal {r} (h : s.Inv) : (resendJournal s r).Inv := inv_ite (inv_foldl (fun _ _ => inv_queueRace) h) h

theorem inv_announce {r} (h : s.Inv) : (announce s r).Inv := inv_queueRace h

theorem inv_rejoin {r} (h : s.Inv) : (rejoin s r).Inv := inv_ite (inv_mk h) h

theorem inv_firstSealed {r} (h : s.Inv) : (firstSealed s r).Inv := inv_queueRace h

theorem inv_enterAttested {r} (h : s.Inv) : (enterAttested s r).Inv := by
  unfold enterAttested
  extract_lets x s0 src1 s1 z y s2 s3
  have h1 : s1.Inv := by
    unfold s1
    split
    · exact inv_nextFree h
    · exact inv_mk (inv_nextFree h)
  have h2 : s2.Inv := inv_firstSealed (inv_setRace h1)
  have h3 : s3.Inv := inv_ite h2 (inv_resendJournal h2)
  exact inv_wakePaths (inv_rejoin (inv_ite (inv_announce h3) h3))

theorem inv_pumpRaceFlumes {r} (h : s.Inv) : (pumpRaceFlumes s r).Inv := by
  unfold pumpRaceFlumes
  refine inv_foldl (fun _ _ h => ?_) h
  split
  · exact inv_ite (inv_pump h) h
  · exact h

theorem inv_resumeFrames {r} (h : s.Inv) : (resumeFrames s r).Inv := inv_pumpRaceFlumes (inv_updRace h)

theorem inv_endRecovery {r} (h : s.Inv) : (endRecovery s r).Inv :=
  inv_pumpRaceFlumes (inv_ite (inv_emitRace (inv_updRace h)) (inv_queueRace (inv_updRace h)))

theorem inv_attestFails {r code} (h : s.Inv) : (attestFails s r code).Inv :=
  inv_ite (inv_failRace (inv_logEvent h)) (inv_logEvent (inv_updRace (inv_toLinked h)))

theorem inv_attestPasses {r} (h : s.Inv) : (attestPasses s r).Inv :=
  inv_ite (inv_enterAttested h) (inv_ite (inv_endRecovery h) (inv_failRace h))

theorem inv_attestStep {r} (h : s.Inv) : (attestStep s r).Inv := by
  unfold attestStep
  dsimp only
  split
  · exact inv_attestPasses h
  · exact inv_attestFails h
  · exact h
  · exact inv_attestFails h
  · exact inv_attestFails h
  · exact h

theorem inv_verifyBody {r a} (h : s.Inv) : (verifyBody r a s).Inv := inv_attestStep (inv_emitPlain (inv_updRace h))

@[simp] theorem resInv_execAttest {r a} (h : s.Inv) : ResInv (execAttest r a s) := by
  unfold execAttest
  refine resInv_whileClocked h (resInv_ite (resInv_next h) ?_)
  split
  · exact resInv_ite (resInv_next h) (resInv_ite (resInv_next (inv_afterFlume (inv_verifyBody h))) (resInv_next (inv_setRace h)))
  · exact resInv_ite (resInv_next h) (resInv_next (inv_afterFlume (inv_attestStep (inv_setRace h))))

@[simp] theorem resInv_execAttestRetry {r} (h : s.Inv) : ResInv (execAttestRetry r s) :=
  resInv_whileClocked h (resInv_next (inv_tryAttest (inv_updRace h)))

@[simp] theorem resInv_execFailedRetry {r} (h : s.Inv) : ResInv (execFailedRetry r s) :=
  resInv_whileClocked h (resInv_ite (resInv_next (inv_countRetrain (inv_freshTraining h))) (resInv_next h))

@[simp] theorem resInv_execLinkAckTimer {r} (h : s.Inv) : ResInv (execLinkAckTimer r s) :=
  resInv_whileClocked h (resInv_ite (resInv_next (inv_emitRace h)) (resInv_next h))

theorem inv_nackActs {r base missing} (h : s.Inv) : (nackActs r base missing s).Inv := inv_setRace h

@[simp] theorem resInv_execRetransmissionTimeout {r} (h : s.Inv) : ResInv (execRetransmissionTimeout r s) := by
  unfold execRetransmissionTimeout
  dsimp only
  refine resInv_whileClocked h ?_
  split
  · exact resInv_next (inv_ite (inv_enterRetraining (inv_setRace h)) (inv_setRace h))
  · exact resInv_next h

@[simp] theorem resInv_execFrameTransmit {r} (h : s.Inv) : ResInv (execFrameTransmit r s) := by
  unfold execFrameTransmit
  extract_lets x again s1
  have h1 : s1.Inv := inv_foldl (fun _ _ => inv_haltSender) h
  refine resInv_ite (resInv_next h) ?_
  split
  · split
    · exact resInv_next (inv_emitNumbered (inv_setRace h1))
    · exact resInv_next h1
  · refine resInv_next ?_
    split
    · exact inv_pump (inv_emitRace (inv_setRace h1))
    · exact inv_emitRace (inv_setRace h1)
  · exact resInv_next h1

@[simp] theorem resInv_execLaneFailure {r lane} (h : s.Inv) : ResInv (execLaneFailure r lane s) :=
  resInv_whileClocked h (resInv_ite (resInv_next h) (resInv_next (inv_ite (inv_enterRetraining (inv_noteLane (inv_markBad h)))
    (inv_noteLane (inv_markBad h)))))

@[simp] theorem resInv_execRetrainRecovery {r good errors} (h : s.Inv) : ResInv (execRetrainRecovery r good errors s) := by
  unfold execRetrainRecovery
  dsimp only
  refine resInv_whileClocked h (resInv_ite (resInv_next h) ?_)
  split
  · exact resInv_next (inv_failRace (inv_markBad (inv_wakeLanes h)))
  · exact resInv_ite (resInv_next (inv_failRace (inv_markBad (inv_countRetrain
        (inv_noteErrors (inv_takeLanes (inv_markBad (inv_wakeLanes h))))))))
        (resInv_next (inv_updRace (inv_freshChallenge (inv_markBad (inv_countRetrain
        (inv_noteErrors (inv_takeLanes (inv_markBad (inv_wakeLanes h)))))))))

end Sys2Proof.Machine
end

section
/-! # The form of the bytes under host ports, the twin and job requests -/

namespace Sys2Proof.Machine

open Sys2Proof

variable {s t : State}

/-! ## Host ports (`Machine/HostPort`) -/

theorem resInv_hearPacket {act : State → State} (hact : ∀ s, s.Inv → (act s).Inv) {k groups d} (h : s.Inv) :
    ResInv (hearPacket k groups d s act) :=
  resInv_ite (resInv_next h) (resInv_ite (resInv_next (inv_dropAt h)) (resInv_ite (resInv_next h) (resInv_next (hact _ h))))

theorem inv_rateReply {a dst o} (h : s.Inv) : (rateReply s a dst o).Inv := inv_ite (inv_setHost h) (inv_sendIp (inv_setHost h))

@[simp] theorem resInv_execDiscover {a d} (h : s.Inv) : ResInv (execDiscover a d s) :=
  resInv_hearPacket (fun _ h => inv_ite h (inv_ite (inv_rateReply h) (inv_rateReply (inv_nextFree h)))) h

theorem inv_giveCookie {a d} (h : s.Inv) : (giveCookie s a d).Inv := inv_rateReply h

@[simp] theorem resInv_execSopenFirstForm {a d} (h : s.Inv) : ResInv (execSopenFirstForm a d s) :=
  resInv_hearPacket (fun _ h => inv_ite h (inv_giveCookie h)) h

theorem inv_freeSession {a n} (h : s.Inv) : (freeSession s a n).Inv := inv_losePaths (inv_updHost h)

theorem inv_breakSession {a n} (h : s.Inv) : (breakSession a n s).Inv := inv_losePaths (inv_setSession h)

theorem optInv_sopenFails {a w} (h : s.Inv) : OptInv (sopenFails s a w) :=
  optInv_ite (optInv_some (inv_dropAt h)) (optInv_ite (optInv_some (inv_authFailAt h))
    (optInv_ite (optInv_some (inv_dropAt h)) optInv_none))

theorem inv_sopenRefusal {a w jobId replaces} (h : s.Inv) : (sopenRefusal s a w jobId replaces).2.Inv := by
  unfold sopenRefusal
  dsimp only
  split
  · exact h
  · split
    · next e => exact inv_of_some e (optInv_sopenFails h)
    · split
      · exact h
      · split
        · split
          · exact h
          · split
            · exact h
            · exact h
        · split
          · exact h
          · split
            · exact h
            · exact h

theorem inv_openSession {a w segsize window} (h : s.Inv) : (openSession s a w segsize window).Inv :=
  inv_sendIp (inv_mk (inv_seeCtr (inv_mk (inv_setHost h))))

@[simp] theorem resInv_execSopenSecondForm {k w cookie jobId segsize window replaces} (h : s.Inv) :
    ResInv (execSopenSecondForm k w cookie jobId segsize window replaces s) := by
  unfold execSopenSecondForm
  refine resInv_ite (resInv_next h) (resInv_ite (resInv_next (inv_dropAt h)) (resInv_ite (resInv_next h) ?_))
  refine resInv_ite (resInv_next (inv_giveCookie h)) ?_
  split
  · next e =>
    have h1 := inv_of_eq (f := Prod.snd) e (inv_sopenRefusal h)
    exact resInv_ite (resInv_next (inv_dropAt h1)) (resInv_next (inv_afterFlume
        (inv_wakePaths (inv_openSession (inv_ite (inv_freeSession h1) h1)))))
  · next e => exact resInv_next (inv_rateReply (inv_of_eq (f := Prod.snd) e (inv_sopenRefusal h)))

@[simp] theorem resInv_execCookieEpoch (h : s.Inv) : ResInv (execCookieEpoch s) := resInv_next (inv_mk (inv_nextFree h))

theorem inv_halve {a n} (h : s.Inv) : (halve s a n).Inv := inv_ite h (inv_setSession h)

theorem inv_ackActs {a n ceCount} (h : s.Inv) : (ackActs a n ceCount s).Inv := inv_sessionPump (inv_setSession (inv_ite (inv_halve h) h))

theorem inv_resendPacket {a n u} (h : s.Inv) : (resendPacket a n s u).Inv := inv_ite (inv_haltSender h) (inv_emitPacket (inv_updHost h))

theorem inv_sessionNackActs {a n base missing} (h : s.Inv) : (sessionNackActs a n base missing s).Inv :=
  inv_foldl (fun _ _ => inv_resendPacket) (inv_halve h)

@[simp] theorem resInv_execSessionAckTimer {a session} (h : s.Inv) : ResInv (execSessionAckTimer a session s) :=
  resInv_whileClocked h (resInv_ite (resInv_next (inv_queueSession h)) (resInv_next h))

@[simp] theorem resInv_execSessionRetransmissionTimeout {a session} (h : s.Inv) :
    ResInv (execSessionRetransmissionTimeout a session s) := by
  unfold execSessionRetransmissionTimeout
  dsimp only
  refine resInv_whileClocked h ?_
  split
  · exact resInv_next (inv_ite (inv_breakSession (inv_setSession h)) (inv_halve (inv_resendPacket (inv_setSession h))))
  · exact resInv_next h

theorem inv_scloseActs {a n} (h : s.Inv) : (scloseActs a n s).Inv := inv_freeSession (inv_emitPacket (inv_setSession h))

theorem inv_scloseBroken {a n w} (h : s.Inv) : (scloseBroken a n w s).Inv :=
  inv_ite h (inv_ite (inv_dropAt h) (inv_ite (inv_authFailAt h) (inv_ite (inv_dropAt h)
    (inv_scloseActs (inv_setSession (inv_seeCtr h))))))

@[simp] theorem resInv_execHostPortLinkLoss {a} (h : s.Inv) : ResInv (execHostPortLinkLoss a s) :=
  resInv_next (inv_foldl (fun _ _ => inv_breakSession) (inv_updHost h))

@[simp] theorem resInv_execHostPortLinkUp {a rate} (h : s.Inv) : ResInv (execHostPortLinkUp a rate s) :=
  resInv_whileClocked h (resInv_ite (resInv_next (inv_setHost h)) (resInv_next h))

@[simp] theorem resInv_execNeighbourSolicitation {port target v4 tags} (h : s.Inv) :
    ResInv (execNeighbourSolicitation port target v4 tags s) :=
  resInv_ite (resInv_next h) (resInv_ite (resInv_next (inv_emit h)) (resInv_next (inv_ite h (inv_dropAt h))))

@[simp] theorem resInv_execNeighbourResolution {port addr mac} (h : s.Inv) : ResInv (execNeighbourResolution port addr mac s) :=
  resInv_ite (resInv_next h) (resInv_next (inv_mk (inv_ite (inv_mk h) (inv_updHost h))))

/-! ## The twin (`Machine/Twin`) -/

theorem inv_leaveFreeList {a} (h : s.Inv) : (leaveFreeList s a).Inv := inv_ite (inv_updCtx (inv_chainPages h)) h

theorem inv_applyImp {r} (h : s.Inv) : (applyImp s r).Inv := inv_setPage (inv_leaveFreeList h)

theorem inv_setTwinFlume {f v} (h : s.Inv) : (State.setTwinFlume s f v).Inv := inv_mk h

theorem inv_applyEntry {c bwd e nextGrant} (h : s.Inv) : (applyEntry c bwd e nextGrant s).Inv :=
  inv_setHopper (inv_setTwinFlume (inv_mk h))

theorem inv_applyPush {f seq outF outSeq} (h : s.Inv) : (applyPush f seq outF outSeq s).Inv := by
  unfold applyPush
  refine inv_setTwinFlume ?_
  split
  · exact inv_setEntry h
  · exact h

theorem inv_applyEd {sh state num head n settled} (h : s.Inv) : (applyEd sh state num head n settled s).Inv := by
  unfold applyEd
  refine inv_ite (inv_ite ?_ (inv_setEd h)) (inv_setShard (inv_ite ?_ (inv_setEd h)))
  · split
    · exact inv_setEd (inv_foldl (fun _ _ => inv_setPage) h)
    · exact h
  · split
    · exact inv_setEd (inv_foldl (fun _ _ => inv_setPage) h)
    · exact h

theorem inv_applyStepRec {c r} (h : s.Inv) : (applyStepRec c s r).Inv := inv_ite (inv_updCtx (inv_mk h)) (inv_ite h (inv_mk h))

theorem inv_applyStep {c n lscale final nonfinite closed rstep recs} (h : s.Inv) :
    (applyStep c n lscale final nonfinite closed rstep recs s).Inv :=
  inv_foldl (fun _ _ => inv_applyStepRec) (inv_updCtx h)

theorem inv_applyPeer {c j token notice} (h : s.Inv) : (applyPeer c j token notice s).Inv := by
  unfold applyPeer
  split
  · exact h
  · exact inv_updCtx h

theorem inv_applyRecord {c} (e : applyRecord s c = .done t) (h : s.Inv) : t.Inv := by
  cases c <;> simp only [applyRecord, onMirror, reduceCtorEq] at e
  case jwrite => split at e <;> cases e; exact inv_storeBytes h
  case jimp => split at e <;> cases e; exact inv_foldl (fun _ _ => inv_applyImp) h
  case jentry =>
    split at e
    · split at e <;> cases e
      exact inv_applyEntry h
    · cases e
  case jpush => cases e; exact inv_applyPush h
  case jflume => split at e <;> cases e; exact inv_mk h
  case jed =>
    split at e
    · cases e
    split at e
    · cases e
      exact inv_applyEd h
    split at e <;> cases e
    exact inv_applyEd h
  case jstep => split at e <;> cases e; exact inv_applyStep h
  case jpeer => split at e <;> cases e; exact inv_applyPeer h

theorem inv_sendJack (h : s.Inv) : (sendJack s).Inv := inv_ite h (inv_sendTwin (inv_mk h))

theorem inv_countApplied (h : s.Inv) : (countApplied s).Inv := inv_ite (inv_sendJack (inv_mk h)) (inv_mk h)

theorem inv_applyNext {fresh} (h : s.Inv) : (applyNext fresh s).1.Inv := by
  unfold applyNext
  dsimp only
  split
  · exact h
  split
  · exact h
  split
  · next e =>
    have h1 := inv_applyRecord e h
    exact inv_countApplied (inv_mk h1)
  · exact inv_ite (inv_logEvent h) h
  · exact inv_logEvent (inv_mk h)

theorem inv_applyMany {fresh k} (h : s.Inv) : (applyMany fresh k s).Inv := by
  induction k generalizing s with
  | zero => exact h
  | succ k ih =>
    unfold applyMany
    split
    · next e => exact ih (inv_of_fst e (inv_applyNext h))
    · next e => exact inv_of_fst e (inv_applyNext h)

theorem inv_applyEarly {fresh} (h : s.Inv) : (applyEarly fresh s).Inv := inv_applyMany h

theorem inv_onTwin {act : State → State} (hact : ∀ s, s.Inv → (act s).Inv) {w} (h : s.Inv) : (onTwin w act s).Inv := by
  unfold onTwin
  split
  · exact inv_ite (hact _ h) (inv_dropFrame h)
  · exact inv_dropFrame h

theorem inv_journalActs {t2 i} (h : s.Inv) : (journalActs t2 i s).Inv :=
  inv_onTwin (fun _ h => inv_ite h (inv_ite (inv_logEvent (inv_mk h)) (inv_ite (inv_mk h)
    (inv_ite h (inv_settle (inv_applyEarly (inv_mk h))))))) h

theorem inv_wakeAllRounds (h : s.Inv) : (wakeAllRounds s).Inv :=
  inv_foldl (fun _ _ => inv_wakeReds) (inv_foldl (fun _ _ => inv_retryRound) h)

theorem inv_release {n} (h : s.Inv) : (release n s).Inv :=
  inv_afterFlume (inv_wakeAllRounds (inv_foldl (fun _ _ => inv_perform) (inv_mk h)))

theorem inv_jackActs {t2 ackJsn} (h : s.Inv) : (jackActs t2 ackJsn s).Inv := inv_onTwin (fun _ h => inv_ite h (inv_release (inv_mk h))) h

@[simp] theorem resInv_execJournalAckTimer (h : s.Inv) : ResInv (execJournalAckTimer s) :=
  resInv_whileClocked h (resInv_ite (resInv_next (inv_sendJack h)) (resInv_next h))

theorem inv_rebuildGrants {f l} (h : s.Inv) : (rebuildGrants f l s).Inv := by
  have htake := @inv_takePages
  delta rebuildGrants rebuildGrants._f
  obtain ⟨take, e⟩ := asVariable takePages
  rw [← e] at htake ⊢
  induction l generalizing s with
  | nil => exact h
  | cons n rest ih =>
    dsimp only [List.brecOn, List.rec]
    split
    · exact h
    · next e => exact ih (inv_updFlume (inv_mk (htake e h)))

theorem inv_rebuildFlume {f} (h : s.Inv) : (rebuildFlume s f).Inv := inv_ite (inv_rebuildGrants (inv_updFlume h)) (inv_updFlume h)

theorem inv_buildCtx {c} (h : s.Inv) : (buildCtx s c).Inv := by
  unfold buildCtx
  extract_lets n s1 filling s2 s3 free s4 order s5
  have h2 : s2.Inv := inv_foldl (fun _ _ h => inv_setEd (inv_foldl (fun _ _ => inv_setPage) h)) (inv_mk h)
  have h4 : s4.Inv := inv_updCtx (inv_chainPages (inv_foldl (fun _ _ => inv_setWindow) h2))
  have ordered {s k} (h : s.Inv) : (order s k).Inv := inv_ite (inv_setHopper h) h
  exact inv_foldl (fun _ _ => inv_rebuildFlume) (ordered (ordered h4))

theorem inv_takeOver (h : s.Inv) : (takeOver s).Inv := by
  unfold takeOver
  extract_lets b inc src1 src2 s1 s2 cs s3 s4 s5 incomplete src3 s6 src4 s7
  have h3 : s3.Inv := inv_foldl (fun _ _ => inv_buildCtx) (inv_release (inv_mk h))
  have h5 : s5.Inv := inv_foldl (fun _ _ => inv_announce) (inv_foldl (fun _ _ h => inv_ite h (inv_updCtx h)) h3)
  have h6 : s6.Inv := inv_logEvent (inv_mk h5)
  have h7 : s7.Inv := inv_ite (inv_mk h6) (inv_foldl (fun _ _ => inv_resumeCtx) h6)
  exact inv_ite h (inv_ite (inv_logEvent h) (inv_pumpSessions (inv_afterFlume (inv_wakeAllRounds (inv_wakePaths h7)))))

theorem inv_leaveActs {t2} (h : s.Inv) : (leaveActs t2 s).Inv := inv_onTwin (fun _ => inv_takeOver) h

theorem inv_fence (h : s.Inv) : (fence s).Inv := inv_logEvent (inv_mk (inv_foldl (fun _ _ => inv_haltCtx) h))

theorem inv_movePaths {b r} (h : s.Inv) : (movePaths s b r).Inv := by
  unfold movePaths
  refine inv_foldl (fun _ _ h => ?_) h
  split
  · exact inv_ite h (inv_wakePath (inv_updFlume (inv_abandonRx h)))
  · exact inv_wakePath h

theorem inv_assumeAt {r b inc} (h : s.Inv) : (assumeAt r b inc s).Inv := inv_afterFlume (inv_movePaths (inv_updRace (inv_mk h)))

theorem inv_assumeActs {t2 member incNew} (h : s.Inv) : (assumeActs t2 member incNew s).Inv := by
  unfold assumeActs
  split
  · exact inv_ite (inv_ite (inv_fence h) (inv_assumeAt h)) (inv_dropFrame h)
  · exact inv_dropFrame h

@[simp] theorem resInv_execPairHoldTimeout (h : s.Inv) : ResInv (execPairHoldTimeout s) :=
  resInv_whileClocked h (resInv_ite (resInv_next h) (resInv_ite (resInv_next (inv_takeOver (inv_logEvent (inv_mk h))))
    (resInv_next (inv_logEvent (inv_mk h)))))

theorem inv_leavePair {reason} (h : s.Inv) : (leavePair reason s).Inv :=
  inv_settle (inv_mk (inv_foldl (fun _ _ => inv_haltCtx) (inv_sendTwin h)))

theorem inv_rfetchActs {t2 vpage unit mirror} (h : s.Inv) : (rfetchActs t2 vpage unit mirror s).Inv :=
  inv_onTwin (fun _ => inv_sendTwin) h

/-! ## Jobs (`Machine/Job`) -/

theorem inv_refuse {status detail} (h : s.Inv) : ((refuse s status detail).stateOr s).Inv := h

theorem inv_loadShard {c a} (h : s.Inv) : (loadShard c s a).Inv := by
  unfold loadShard
  refine inv_ite ?_ (inv_setShard h)
  split
  · exact inv_setShard h
  · next e => exact inv_journalEd (inv_journalPages (inv_setEd (inv_takePages e (inv_setShard h))))

theorem inv_loadCtx {m prog} (h : s.Inv) : (loadCtx m prog s).Inv :=
  inv_releasePins (inv_foldl (fun _ _ => inv_loadShard) (inv_resetOrder (inv_loadQuerns (inv_setHopper (inv_setHopper (inv_setCtx h))))))

theorem inv_loadActs {msg} (h : s.Inv) : ((loadActs msg s).stateOr s).Inv := by
  unfold loadActs
  split
  · exact h
  · split
    · exact h
    · exact inv_settle (inv_loadCtx h)

theorem inv_endBuckets {c a} (h : s.Inv) : (endBuckets s c a).Inv := inv_foldl (fun _ _ h => inv_updCtx (inv_dropBucket h)) h

theorem inv_wakeAllReds (h : s.Inv) : (wakeAllReds s).Inv := inv_foldl (fun _ _ => inv_wakeReds) h

theorem inv_recountFrom {c n} (h : s.Inv) : (recountFrom s c n).Inv := inv_updCtx h

theorem inv_reloadCtx {c groups wgo prog} (h : s.Inv) : (reloadCtx c groups wgo prog s).Inv :=
  inv_updCtx (inv_releasePins (inv_revertEntries (inv_revertEntries (inv_resetOrder
    (inv_loadQuerns (inv_foldl (fun _ _ => inv_abandonOn) h))))))

theorem inv_reloadActs {msg} (h : s.Inv) : ((reloadActs msg s).stateOr s).Inv := by
  unfold reloadActs
  refine inv_stateOr_ite h (inv_stateOr_ite h (inv_stateOr_ite h (inv_stateOr_ite h (inv_stateOr_ite h ?_))))
  split
  · exact h
  · exact inv_settle (inv_reloadCtx h)

theorem inv_unloadShard {n} (h : s.Inv) : (unloadShard s n).Inv := inv_mk (inv_ite h (inv_aliasPages h))

theorem inv_unloadCtx {c} (h : s.Inv) : (unloadCtx c s).Inv :=
  inv_setHopper (inv_setHopper (inv_setCtx (inv_foldl (fun _ _ => inv_unloadShard)
    (inv_foldl (fun _ _ => inv_freeEdition) (inv_foldl (fun _ _ h => inv_releaseEntry (inv_ite h (inv_logEvent h)))
    (inv_mk (inv_foldl (fun _ _ => inv_abandonOn) h)))))))

theorem inv_unloadActs {c} (h : s.Inv) : ((unloadActs c s).stateOr s).Inv := by
  unfold unloadActs
  refine inv_stateOr_ite h ?_
  split
  · exact h
  · rw [Answer.stateOr_done]
    exact inv_settle (inv_wakeAllReds (inv_unloadCtx h))

theorem inv_appendFree {c l} (h : s.Inv) : (appendFree s c l).Inv := by
  unfold appendFree
  refine inv_updCtx ?_
  split
  · exact inv_setPage (inv_chainPages h)
  · exact inv_chainPages h

theorem inv_mapPages {first frames owner shared wp} (h : s.Inv) : (mapPages s first frames owner shared wp).Inv :=
  inv_ite (inv_foldl (fun _ _ => inv_setPage) h) (inv_appendFree (inv_foldl (fun _ _ => inv_setPage) h))

theorem inv_mapActs {first count owner shared wp bin} (h : s.Inv) : ((mapActs first count owner shared wp bin s).stateOr s).Inv := by
  unfold mapActs
  refine inv_stateOr_ite h (inv_stateOr_ite h ?_)
  split
  · exact h
  · refine inv_stateOr_ite h ?_
    split
    · exact h
    · exact inv_settle (inv_wakeAllReds (inv_applyEarly (inv_mapPages h)))

theorem inv_freeFrame {f} (h : s.Inv) : (freeFrame s f).Inv := by
  unfold freeFrame
  refine inv_ite (inv_retireFrame h) (inv_ite (inv_mk h) ?_)
  split
  · exact inv_setPage h
  · exact h

theorem inv_dropFrame_ {f} (h : s.Inv) : (dropFrame_ s f).Inv := inv_foldl (fun _ _ => inv_dropLine) h

theorem inv_releaseFrames {f} (h : s.Inv) : (releaseFrames f s).Inv := by
  unfold releaseFrames
  split
  · exact inv_freeFrame (inv_dropFrame_ (inv_freeFrame (inv_mk (inv_dropFrame_ h))))
  · exact inv_freeFrame (inv_mk (inv_dropFrame_ h))

theorem inv_unmapPage {a} (h : s.Inv) : (unmapPage s a).Inv :=
  inv_ite (inv_setPage (inv_leaveFreeList h)) (inv_releaseFrames (inv_setPage (inv_leaveFreeList h)))

theorem inv_unmapActs {first count} (h : s.Inv) : ((unmapActs first count s).stateOr s).Inv :=
  inv_stateOr_ite h (inv_stateOr_ite h (inv_stateOr_ite h (inv_foldl (fun _ _ => inv_unmapPage) h)))

theorem inv_putActs {addr bytes} (h : s.Inv) : ((putActs addr bytes s).stateOr s).Inv := by
  unfold putActs
  dsimp only
  refine inv_stateOr_ite h (inv_stateOr_ite h ?_)
  split
  · exact inv_flushUnits (inv_storeBytes (inv_clearData h))
  · exact inv_flushUnits (inv_storeBytes (inv_clearData h))

theorem inv_fopenActs {f} (h : s.Inv) : ((fopenActs f s).stateOr s).Inv := by
  unfold fopenActs
  split
  · exact h
  · exact inv_afterFlume (inv_startOpen h)

theorem inv_fcloseActs {f forced} (h : s.Inv) : ((fcloseActs f forced s).stateOr s).Inv :=
  inv_stateOr_ite h (inv_afterFlume (inv_startClose h))

theorem inv_rewindHopper {w n} (h : s.Inv) : (rewindHopper w n s).Inv := inv_ite (inv_setHopper (inv_mk h)) (inv_mk h)

theorem inv_rewindStep {c n fwd bwd} (h : s.Inv) : (rewindStep c n fwd bwd s).Inv :=
  inv_recountFrom (inv_updCtx (inv_ite (inv_rewindHopper (inv_ite (inv_rewindHopper h) h)) (inv_ite (inv_rewindHopper h) h)))

theorem inv_rewindActs {c step fwd bwd} (h : s.Inv) : ((rewindActs c step fwd bwd s).stateOr s).Inv :=
  inv_stateOr_ite h (inv_settle (inv_wakeAllReds (inv_rewindStep (inv_endBuckets h))))

theorem inv_abandonShard {sh} (h : s.Inv) : (abandonShard s sh).Inv := inv_foldl (fun _ _ h => inv_journalFreed (inv_freeEdition h)) h

theorem inv_abandonActs {c} (h : s.Inv) : ((abandonActs c s).stateOr s).Inv :=
  inv_stateOr_ite h (inv_settle (inv_foldl (fun _ _ => inv_abandonShard) h))

theorem inv_forgetEds {es} (h : s.Inv) : (forgetEds s es).Inv := inv_foldl (fun _ _ h => inv_ite (inv_setEntry (inv_dropRefs h)) h) h

theorem inv_rollShard {t2 sh} (h : s.Inv) : (rollShard t2 s sh).Inv :=
  inv_foldl (fun _ _ => inv_journalEd) (inv_setShard (inv_foldl (fun _ _ => inv_setEd)
    (inv_foldl (fun _ _ h => inv_journalFreed (inv_freeEdition h)) (inv_forgetEds h))))

theorem inv_rollbackActs {c step} (h : s.Inv) : ((rollbackActs c step s).stateOr s).Inv := by
  unfold rollbackActs
  refine inv_stateOr_ite h ?_
  split
  · exact h
  · exact inv_settle (inv_wakeAllReds (inv_recountFrom (inv_updCtx (inv_foldl (fun _ _ => inv_rollShard) (inv_endBuckets h)))))

theorem inv_jobSubscribeActs {a n on} (h : s.Inv) : ((jobSubscribeActs a n on s).stateOr s).Inv := inv_setSession h

end Sys2Proof.Machine
end

section
/-! # The form of the bytes under power, registers and signed requests -/

namespace Sys2Proof.Machine

open Sys2Proof

variable {s t : State}

/-! ## Power (`Machine/Power`) -/

theorem inv_setCode {n code} (h : s.Inv) : (setCode n code s).Inv := inv_ite h (inv_emit (inv_updStone h))

theorem inv_pacedNow (h : s.Inv) : (pacedNow s).Inv := inv_ite h (inv_ite (inv_logEvent (inv_mk h)) (inv_mk h))

theorem inv_applyTarget {t2} (h : s.Inv) : (applyTarget t2 s).Inv := inv_pacedNow (inv_mk (inv_foldl (fun _ _ => inv_setCode) h))

theorem inv_learn {n powerW} (h : s.Inv) : (learn n powerW s).Inv := inv_updStone h

theorem inv_logHot (h : s.Inv) : (logHot s).Inv := inv_foldl (fun _ _ => inv_logEvent) h

@[simp] theorem resInv_execControllerPeriod {fixedW stoneW} (h : s.Inv) : ResInv (execControllerPeriod fixedW stoneW s) :=
  resInv_ite (resInv_next (inv_mk (inv_foldl (fun _ _ => inv_learn) (inv_ite (inv_logHot h) h))))
    (resInv_next (inv_applyTarget (inv_mk (inv_foldl (fun _ _ => inv_learn) (inv_ite (inv_logHot h) h)))))

@[simp] theorem resInv_execRegulatorReading {avg2msW} (h : s.Inv) : ResInv (execRegulatorReading avg2msW s) :=
  resInv_ite (resInv_next (inv_applyTarget (inv_mk h))) (resInv_next h)

theorem inv_setThrottle {n k} (h : s.Inv) : (setThrottle n k s).Inv := inv_updStone h

@[simp] theorem resInv_execThrottleEstimate {estW} (h : s.Inv) : ResInv (execThrottleEstimate estW s) :=
  resInv_ite (resInv_next (inv_pacedNow (inv_foldl (fun _ _ h => inv_setThrottle (inv_nextFree h)) (inv_mk h))))
    (resInv_ite (resInv_next (inv_pacedNow (inv_foldl (fun _ _ => inv_setThrottle) (inv_mk h)))) (resInv_next (inv_mk h)))

@[simp] theorem resInv_execEstimatorFault {estW measW} (h : s.Inv) : ResInv (execEstimatorFault estW measW s) :=
  resInv_ite (resInv_next (inv_mk h)) (resInv_next (inv_foldl (fun _ _ => inv_setCode) (inv_logEvent (inv_mk h))))

theorem inv_holdCtx {cause c} (h : s.Inv) : (holdCtx cause s c).Inv := inv_drainCtx (inv_ite h (inv_mk h))

theorem inv_releaseCause {cause} (h : s.Inv) : (releaseCause cause s).Inv :=
  inv_foldl (fun _ _ h => inv_ite h (inv_resumeCtx h)) (inv_mk h)

theorem inv_drainSensor {cause scope id t2 limit cs} (h : s.Inv) : (drainSensor cause scope id t2 limit cs s).Inv :=
  inv_ite (inv_ite (inv_foldl (fun _ _ => inv_holdCtx) h) (inv_logEvent (inv_foldl (fun _ _ => inv_holdCtx) h)))
    (inv_ite (inv_logEvent (inv_releaseCause h)) h)

theorem inv_stoneSample {n t2} (h : s.Inv) : (stoneSample n t2 s).Inv :=
  inv_drainSensor (inv_ite (inv_logEvent (inv_updStone h)) (inv_updStone h))

theorem inv_binSample {b t2} (h : s.Inv) : (binSample b t2 s).Inv := inv_drainSensor (inv_ite (inv_logEvent (inv_mk h)) (inv_mk h))

@[simp] theorem resInv_execTemperatureSample {stones spur bins} (h : s.Inv) : ResInv (execTemperatureSample stones spur bins s) :=
  resInv_next (inv_pacedNow (inv_settle (inv_foldl (fun _ _ => inv_binSample)
    (inv_drainSensor (inv_mk (inv_foldl (fun _ _ => inv_stoneSample) h))))))

@[simp] theorem resInv_execDelaySettingChange {n row} (h : s.Inv) : ResInv (execDelaySettingChange n row s) :=
  resInv_ite (resInv_next (inv_updStone h)) (resInv_next h)

@[simp] theorem resInv_execAgeingSample {n row marginLow tsRefNew} (h : s.Inv) : ResInv (execAgeingSample n row marginLow tsRefNew s) :=
  resInv_ite (resInv_next h) (resInv_next (inv_setStone (inv_flashWrite h)))

@[simp] theorem resInv_execEnergyEvent (h : s.Inv) : ResInv (execEnergyEvent s) :=
  resInv_ite (resInv_next (inv_pumpSessions (inv_toSubscribers h))) (resInv_next h)

/-! ## Registers (`Machine/Regs`) -/

theorem inv_clearFlm {o} (h : s.Inv) : (clearFlm s o).Inv := by
  unfold clearFlm
  split
  · exact inv_updFlume h
  · exact h

theorem inv_clearRace {o} (h : s.Inv) : (clearRace s o).Inv := by
  unfold clearRace
  split
  · exact inv_updRace h
  · exact inv_setRacePort h
  · exact h

theorem inv_clearRc {off} (h : s.Inv) : (clearRc s off).Inv := by
  unfold clearRc
  refine inv_ite h ?_
  split
  · exact inv_mk h
  · exact inv_mk h
  · exact inv_clearFlm h
  · exact inv_ite (inv_mk h) (inv_mk h)
  · exact inv_clearRace h
  · split
    · exact inv_updHost h
    · exact h
  · exact inv_mk h
  · exact inv_mk h
  · exact inv_mk h
  · exact inv_ite (inv_mk h) (inv_ite (inv_mk h) (inv_mk h))
  · exact h

theorem inv_logIgnored {off} (h : s.Inv) : (logIgnored s off).Inv := inv_logEvent h

theorem optInv_writeCap {new} (h : s.Inv) : OptInv (writeCap new s) := optInv_ite (optInv_some (inv_logEvent (inv_mk h))) optInv_none

theorem inv_setPace {on} (h : s.Inv) : (setPace on s).Inv := inv_pacedNow (inv_mk h)

theorem inv_clearEst (h : s.Inv) : (clearEst s).Inv := inv_mk h

theorem optInv_writePwr {o value mask} (h : s.Inv) : OptInv (writePwr o value mask s) :=
  optInv_ite (optInv_ite (optInv_writeCap h) (optInv_some h)) (optInv_ite (optInv_some
    (inv_ite (inv_clearEst (inv_ite (inv_setPace h) h)) (inv_ite (inv_setPace h) h))) (optInv_some h))

theorem optInv_writeFlm {off o value mask} (h : s.Inv) : OptInv (writeFlm off o value mask s) := by
  unfold writeFlm
  split
  · exact optInv_ite (optInv_some (inv_setFlume h)) optInv_none
  · exact optInv_ite optInv_none (optInv_some (inv_afterFlume (inv_ite (inv_leavePath (inv_setFlume (inv_ite (inv_logIgnored h) h)))
        (inv_pump (inv_wakePath (inv_setFlume (inv_ite (inv_logIgnored h) h)))))))
  · exact optInv_some h

theorem optInv_writeLscale {o value mask} (h : s.Inv) : OptInv (writeLscale o value mask s) :=
  optInv_ite optInv_none (optInv_some (inv_updCtx h))

theorem inv_retrainPort {a} (h : s.Inv) : (retrainPort a s).Inv :=
  inv_foldl (fun _ _ h => inv_ite (inv_countRetrain (inv_retrainRace h)) h) h

theorem inv_writeRaceCfg {a off value mask} (h : s.Inv) : (writeRaceCfg a off value mask s).Inv :=
  inv_ite (inv_retrainPort (inv_ite (inv_setRacePort (inv_ite h (inv_logIgnored h)))
    (inv_foldl (fun _ _ => inv_endRace) (inv_setRacePort (inv_ite h (inv_logIgnored h))))))
    (inv_ite (inv_setRacePort (inv_ite h (inv_logIgnored h))) (inv_foldl (fun _ _ => inv_endRace)
    (inv_setRacePort (inv_ite h (inv_logIgnored h)))))

theorem optInv_writeEth {o value mask} (h : s.Inv) : OptInv (writeEth o value mask s) := by
  unfold writeEth
  split
  · exact optInv_ite optInv_none (optInv_some (inv_updHost h))
  · exact optInv_ite optInv_none (optInv_some (inv_updHost h))
  · exact optInv_ite optInv_none (optInv_some (inv_updHost h))
  · exact optInv_ite optInv_none (optInv_some (inv_updHost h))
  · split
    · exact optInv_ite optInv_none (optInv_some (inv_updHost h))
    · exact optInv_ite optInv_none (optInv_some (inv_updHost h))
    · exact optInv_ite optInv_none (optInv_some (inv_updHost h))
    · exact optInv_ite optInv_none (optInv_some (inv_updHost h))
    · exact optInv_some h

theorem inv_frisketViolation {detail} (h : s.Inv) : (frisketViolation s detail).Inv := inv_logEvent (inv_mk h)

theorem inv_writeArb {off value mask} (h : s.Inv) : (writeArb off value mask s).Inv := inv_mk (inv_ite h (inv_logIgnored h))

theorem inv_writePairCfg {off value mask} (h : s.Inv) : (writePairCfg off value mask s).Inv := inv_mk (inv_ite (inv_logIgnored h) h)

theorem inv_pairCommand {takeover leave} (h : s.Inv) : (pairCommand takeover leave s).Inv :=
  inv_ite (inv_leavePair (inv_ite (inv_takeOver h) h)) (inv_ite (inv_takeOver h) h)

theorem optInv_writePair {o value mask} (h : s.Inv) : OptInv (writePair o value mask s) :=
  optInv_ite optInv_none (optInv_some (inv_ite (inv_pairCommand (inv_ite (inv_logIgnored
    (inv_ite (inv_ite (inv_logIgnored h) (inv_writePairCfg h)) h)) (inv_ite (inv_ite (inv_logIgnored h) (inv_writePairCfg h)) h)))
    (inv_ite (inv_logIgnored (inv_ite (inv_ite (inv_logIgnored h) (inv_writePairCfg h)) h))
    (inv_ite (inv_ite (inv_logIgnored h) (inv_writePairCfg h)) h))))

theorem optInv_writeMil {off o value mask} (h : s.Inv) : OptInv (writeMil off o value mask s) :=
  optInv_ite (optInv_some (inv_mk (inv_flashWrite h))) (optInv_ite (optInv_some (inv_mk (inv_flashWrite h)))
    (optInv_ite (optInv_some (inv_mk (inv_flashWrite h))) (optInv_ite (optInv_some (inv_mk (inv_flashWrite h)))
    (optInv_ite (optInv_some (inv_mk (inv_flashWrite h))) (optInv_ite (optInv_some (inv_mk (inv_flashWrite h)))
    (optInv_ite (optInv_some (inv_mk (inv_flashWrite h))) (optInv_ite (optInv_writePair h) (optInv_some h))))))))

theorem optInv_writeBlock {off value mask miller} (h : s.Inv) : OptInv (writeBlock off value mask miller s) := by
  unfold writeBlock
  dsimp only
  split
  · exact optInv_ite (optInv_writePwr h) optInv_none
  · exact optInv_ite optInv_none (optInv_some h)
  · exact optInv_writeFlm h
  · split
    · exact optInv_writeLscale h
    · exact optInv_some h
  · exact optInv_ite (optInv_ite optInv_none (optInv_some (inv_mk h))) (optInv_some h)
  · split
    · exact optInv_ite (optInv_some (inv_writeRaceCfg h)) optInv_none
    · exact optInv_some h
  · exact optInv_ite (optInv_ite (optInv_writeEth h) optInv_none) (optInv_some h)
  · exact optInv_ite (optInv_some h) (optInv_some (inv_frisketViolation h))
  · exact optInv_ite (optInv_some (inv_writeArb h)) (optInv_ite (optInv_some (inv_mk h)) (optInv_some h))
  · exact optInv_ite (optInv_writeMil h) optInv_none
  · exact optInv_some h

theorem inv_writeReg {off value mask miller} (h : s.Inv) : (writeReg off value mask miller s).state.Inv := by
  unfold writeReg
  split
  · exact inv_logIgnored h
  split
  · next e => exact inv_of_some e (optInv_writeBlock h)
  · exact inv_logIgnored h

@[simp] theorem resInv_execRcRegisterRead {off} (h : s.Inv) : ResInv (execRcRegisterRead off s) := resInv_next (inv_clearRc h)

@[simp] theorem resInv_execRegisterWrite {off value mask fromMiller} (h : s.Inv) :
    ResInv (execRegisterWrite off value mask fromMiller s) :=
  resInv_next (inv_writeReg h)

@[simp] theorem resInv_execEdLscaleWrite {c value mask} (h : s.Inv) :
    ResInv (execEdLscaleWrite c value mask s) := resInv_next (inv_writeReg h)

theorem inv_refuseBlock {off} (h : s.Inv) : ((refuseBlock s off).stateOr s).Inv := inv_frisketViolation h

theorem inv_jobRegreadActs {off} (h : s.Inv) : ((jobRegreadActs off s).stateOr s).Inv := by
  unfold jobRegreadActs
  refine inv_stateOr_ite (inv_refuseBlock h) ?_
  split
  · exact h
  · exact inv_stateOr_ite (inv_clearRc h) h

theorem inv_jobRegwriteActs {off value} (h : s.Inv) : ((jobRegwriteActs off value s).stateOr s).Inv := by
  unfold jobRegwriteActs
  refine inv_stateOr_ite (inv_refuseBlock h) ?_
  split
  · next e => exact inv_of_eq (f := Wrote.state) e (inv_writeReg h)
  · next e => exact inv_of_eq (f := Wrote.state) e (inv_writeReg h)
  · next e => exact inv_of_eq (f := Wrote.state) e (inv_writeReg h)

/-! ## Requests (`Machine/Request`) -/

theorem inv_bucketReply {dst o} (h : s.Inv) : (bucketReply s dst o).Inv := inv_ite (inv_mk h) (inv_sendIp (inv_mk h))

theorem inv_storeReply {m o} (h : s.Inv) : (storeReply m o s).Inv := inv_mk h

theorem inv_signedReply {m o} (h : s.Inv) : (signedReply m o s).Inv := inv_sendIp (inv_storeReply h)

theorem inv_refuseRequest {m op status} (h : s.Inv) : (refuseRequest m op status s).Inv := inv_bucketReply (inv_logEvent (inv_mk h))

theorem inv_countReplay (h : s.Inv) : (countReplay s).Inv := inv_mk h

theorem inv_takeRequest {m} (h : s.Inv) : (takeRequest m s).Inv := inv_storeReply (inv_mk h)

theorem resInv_milRequest {onRefuse : State → State} {act : State → Reply} {m op who early}
    (hrefuse : ∀ s, s.Inv → (onRefuse s).Inv) (hact : ∀ s, s.Inv → (act s).state.Inv) (h : s.Inv) :
    ResInv (milRequest m op who early onRefuse act s) := by
  unfold milRequest
  dsimp only
  refine resInv_ite (resInv_next h) (resInv_ite (resInv_next (inv_bucketReply h)) (resInv_ite (resInv_next (inv_countReplay h)) ?_))
  refine resInv_ite (resInv_next (inv_refuseRequest (hrefuse _ h))) (resInv_ite (resInv_next (inv_refuseRequest (hrefuse _ h))) ?_)
  refine resInv_ite (resInv_next (inv_countReplay h)) (resInv_ite (resInv_next (inv_sendIp h)) ?_)
  refine resInv_ite (resInv_next (inv_signedReply (inv_takeRequest h))) ?_
  have ha := hact _ (inv_takeRequest (m := m) h)
  split
  · next e => exact resInv_next (inv_signedReply (inv_of_eq (f := Reply.state) e ha))
  · next e => exact resInv_next (inv_signedReply (inv_of_eq (f := Reply.state) e ha))
  · next e => exact resInv_next (inv_of_eq (f := Reply.state) e ha)

theorem resInv_plainRequest {act : State → Reply} {m op who early} (hact : ∀ s, s.Inv → (act s).state.Inv) (h : s.Inv) :
    ResInv (plainRequest m op who early act s) := resInv_milRequest (fun _ h => h) hact h

@[simp] theorem resInv_execMillerHello {m} (h : s.Inv) : ResInv (execMillerHello m s) :=
  resInv_ite (resInv_next h) (resInv_ite (resInv_next (inv_bucketReply h)) (resInv_next (inv_bucketReply h)))

theorem inv_readRegs {k off} (h : s.Inv) : (readRegs k off s).2.Inv := by
  induction k generalizing s off with
  | zero => exact h
  | succ k ih => exact ih (inv_clearRc h)

@[simp] theorem resInv_execRegread {m off count} (h : s.Inv) : ResInv (execRegread m off count s) :=
  resInv_plainRequest (fun _ h => inv_state_ite h (inv_state_ite h (inv_readRegs h))) h

theorem inv_wroteReply {w : Wrote} (h : w.state.Inv) : (wroteReply w).state.Inv := by
  cases w with
  | done | ignored | reserved => exact h

theorem resInv_regwrite {m off value mask early} (h : s.Inv) : ResInv (regwrite m off value mask early s) :=
  resInv_plainRequest (fun _ h => inv_wroteReply (inv_writeReg h)) h

@[simp] theorem resInv_execRegwrite {m off value mask} (h : s.Inv) : ResInv (execRegwrite m off value mask s) := resInv_regwrite h

@[simp] theorem resInv_execCapWWrite {m value mask} (h : s.Inv) : ResInv (execCapWWrite m value mask s) := resInv_regwrite h

@[simp] theorem resInv_execPaceEnWrite {m on} (h : s.Inv) : ResInv (execPaceEnWrite m on s) := resInv_regwrite h

@[simp] theorem resInv_execEstClear {m} (h : s.Inv) : ResInv (execEstClear m s) := resInv_regwrite h

@[simp] theorem resInv_execRetrain {m port} (h : s.Inv) : ResInv (execRetrain m port s) := resInv_regwrite h

@[simp] theorem resInv_execTakeover {m} (h : s.Inv) : ResInv (execTakeover m s) := resInv_regwrite h

@[simp] theorem resInv_execLeave {m} (h : s.Inv) : ResInv (execLeave m s) := resInv_regwrite h

@[simp] theorem resInv_execEvread {m flash first} (h : s.Inv) : ResInv (execEvread m flash first s) :=
  resInv_plainRequest (fun _ h => inv_ite h (inv_mk h)) h

@[simp] theorem resInv_execDefread {m first} (h : s.Inv) : ResInv (execDefread m first s) := resInv_plainRequest (fun _ h => h) h

@[simp] theorem resInv_execSubscribe {m minSeverity periodMs offsets} (h : s.Inv) :
    ResInv (execSubscribe m minSeverity periodMs offsets s) := by
  unfold execSubscribe
  refine resInv_plainRequest (fun _ h => inv_state_ite h (inv_state_ite h ?_)) h
  split
  · exact h
  · exact inv_mk h

@[simp] theorem resInv_execTelemetryPush {k} (h : s.Inv) : ResInv (execTelemetryPush k s) := by
  unfold execTelemetryPush
  split
  · exact resInv_next h
  · exact resInv_ite (resInv_next h) (resInv_ite (resInv_next (inv_mk h)) (resInv_next (inv_sendIp h)))

@[simp] theorem resInv_execSubscriptionLapse {k} (h : s.Inv) : ResInv (execSubscriptionLapse k s) := resInv_next (inv_mk h)

@[simp] theorem resInv_execContinuationPart {net op reqSeq split total offset len hashOk} (h : s.Inv) :
    ResInv (execContinuationPart net op reqSeq split total offset len hashOk s) := by
  unfold execContinuationPart
  refine resInv_ite (resInv_next h) ?_
  split
  · exact resInv_next (inv_ite (inv_bucketReply h) h)
  · exact resInv_next (inv_ite (inv_bucketReply (inv_mk h)) (inv_mk h))

@[simp] theorem resInv_execAssemblyTimeout {k} (h : s.Inv) : ResInv (execAssemblyTimeout k s) := resInv_next (inv_mk h)

@[simp] theorem resInv_execManagementLinkLoss {up} (h : s.Inv) : ResInv (execManagementLinkLoss up s) := resInv_next (inv_mk h)

@[simp] theorem resInv_execPtpMessage {domain timeNs lock} (h : s.Inv) : ResInv (execPtpMessage domain timeNs lock s) :=
  resInv_ite (resInv_next (inv_mk h)) (resInv_next h)

@[simp] theorem resInv_execQuiesce {m mask} (h : s.Inv) : ResInv (execQuiesce m mask s) :=
  resInv_plainRequest (fun _ h => inv_foldl (fun _ _ => inv_holdCtx) h) h

theorem inv_resumeHeld {c} (h : s.Inv) : (resumeHeld s c).Inv := inv_ite (inv_mk h) (inv_resumeCtx (inv_mk h))

@[simp] theorem resInv_execResume {m mask} (h : s.Inv) : ResInv (execResume m mask s) :=
  resInv_plainRequest (fun _ h => inv_settle (inv_wakeAllRounds (inv_mk (inv_foldl (fun _ _ => inv_resumeHeld) h)))) h

end Sys2Proof.Machine
end

section
/-! # The form of the bytes under faults, security and firmware -/

namespace Sys2Proof.Machine

open Sys2Proof

variable {s t : State}

/-! ## Faults (`Machine/Faults`) -/

theorem inv_setPhys {n ok} (h : s.Inv) : (setPhys n ok s).Inv := inv_mk h

theorem inv_disablePhys {n i source} (h : s.Inv) : (disablePhys n i source s).Inv := inv_addDefect (inv_setPhys h)

theorem inv_mapQuerns {n} (h : s.Inv) : (mapQuerns n s).Inv := inv_mk h

theorem inv_loadQuern {q} (h : s.Inv) : (loadQuern s q).Inv := inv_mk (Memory.wf_clear _ _ h)

theorem inv_forgetCause {cause} (h : s.Inv) : (forgetCause cause s).Inv := inv_mk h

theorem inv_rewindOpen {both c} (h : s.Inv) : (rewindOpen both s c).Inv := inv_foldl (fun _ _ => inv_rewindStep) h

theorem inv_recoverCause {both cause} (h : s.Inv) : (recoverCause both cause s).Inv :=
  inv_releaseCause (inv_foldl (fun _ _ => inv_rewindOpen) h)

theorem inv_fenceStone {n} (h : s.Inv) : (fenceStone n s).Inv :=
  inv_foldl (fun _ _ h => inv_updQuern (inv_cancelMoves h)) (inv_foldl (fun _ _ => inv_haltFor) (inv_updStone h))

theorem inv_stopStone {n why} (h : s.Inv) : (stopStone n why s).Inv := inv_ite h (inv_overlapping (inv_logEvent (inv_fenceStone h)))

theorem inv_answerStone {n status} (h : s.Inv) : (answerStone n status s).Inv := by
  unfold answerStone
  split
  · exact h
  · exact inv_signedReply (inv_mk h)

theorem inv_degradedLeaves (h : s.Inv) : (degradedLeaves s).Inv := inv_ite (inv_leavePair h) h

theorem inv_degradeStone {n source} (h : s.Inv) : (degradeStone n source s).Inv :=
  inv_degradedLeaves (inv_foldl (fun _ _ => inv_forgetCause) (inv_forgetCause (inv_logEvent (inv_addDefect (inv_mk h)))))

@[simp] theorem resInv_execStoneProbe {n answered} (h : s.Inv) : ResInv (execStoneProbe n answered s) :=
  resInv_whileClocked h (resInv_ite (resInv_next h) (resInv_ite (resInv_next (inv_setStone h))
    (resInv_ite (resInv_next (inv_setStone h)) (resInv_next (inv_stopStone h)))))

@[simp] theorem resInv_execStonereset {m stone} (h : s.Inv) : ResInv (execStonereset m stone s) :=
  resInv_plainRequest (fun _ h => inv_state_ite h (inv_mk (inv_stopStone h))) h

theorem inv_restartUnion {n pass} (h : s.Inv) : (restartUnion n pass s).Inv := inv_foldl (fun _ _ h => inv_ite h (inv_disablePhys h)) h

@[simp] theorem resInv_execStoneRecovery {n o} (h : s.Inv) : ResInv (execStoneRecovery n o s) :=
  resInv_whileClocked h (resInv_ite (resInv_next h) (resInv_ite (resInv_next
    (inv_answerStone (inv_degradeStone (inv_ite (inv_restartUnion h) h)))) (resInv_next
    (inv_answerStone (inv_settle (inv_wakeAllReds (inv_foldl (fun _ _ => inv_recoverCause)
    (inv_recoverCause (inv_updStone (inv_foldl (fun _ _ => inv_loadQuern) (inv_mapQuerns (inv_ite (inv_restartUnion h) h))))))))))))

theorem inv_fenceQuern {q phys} (h : s.Inv) : (fenceQuern q phys s).Inv :=
  inv_overlapping (inv_disablePhys (inv_cancelMoves (inv_foldl (fun _ _ => inv_haltFor) (inv_updQuern h))))

theorem inv_substitute {q old i} (h : s.Inv) : (substitute q old i s).Inv :=
  inv_settle (inv_wakeAllReds (inv_recoverCause (inv_logEvent (inv_loadQuern (inv_mk h)))))

theorem inv_noSpare {n} (h : s.Inv) : (noSpare n s).Inv := inv_degradeStone (inv_fenceStone h)

@[simp] theorem resInv_execQuernFault {q o} (h : s.Inv) : ResInv (execQuernFault q o s) := by
  unfold execQuernFault
  dsimp only
  refine resInv_whileClocked h ?_
  split
  · exact resInv_next h
  · refine resInv_ite (resInv_next h) (resInv_ite (resInv_next (inv_countCe h)) ?_)
    split
    · exact resInv_next (inv_noSpare (inv_ite h (inv_fenceQuern h)))
    · exact resInv_ite (resInv_next (inv_substitute (inv_ite h (inv_fenceQuern h))))
          (resInv_next (inv_ite (inv_noSpare (inv_disablePhys (inv_ite h (inv_fenceQuern h))))
          (inv_disablePhys (inv_ite h (inv_fenceQuern h)))))

theorem inv_meetCorrected {f g} (h : s.Inv) : (meetCorrected f s g).Inv :=
  inv_ite (inv_overlapping (inv_correctedError h)) (inv_correctedError h)

theorem inv_haltReader {a r} (h : s.Inv) : (haltReader s a r).Inv := by
  unfold haltReader
  split
  · exact inv_haltFor h
  · exact h

theorem inv_spurFault (h : s.Inv) : (spurFault s).Inv :=
  inv_ite (inv_leavePair (inv_foldl (fun _ _ => inv_haltCtx) h)) (inv_foldl (fun _ _ => inv_haltCtx) h)

@[simp] theorem resInv_execUncorrectableError {page found reader} (h : s.Inv) : ResInv (execUncorrectableError page found reader s) := by
  unfold execUncorrectableError
  refine resInv_whileClocked h ?_
  split
  · exact resInv_ite (resInv_next (inv_overlapping (inv_haltReader (inv_damageFrame h)))) (resInv_next h)
  · exact resInv_ite (resInv_next (inv_meetCorrected h)) (resInv_next h)
  · exact resInv_next (inv_repairEntry h)
  · exact resInv_next (inv_spurFault h)

theorem inv_recallEntry {k} (h : s.Inv) : (recallEntry s k).Inv := by
  unfold recallEntry
  split
  · exact h
  · exact inv_ite (inv_copyLocal h) (inv_sendFlume (inv_setEntry h))

theorem inv_rewindEntry {page k} (h : s.Inv) : (rewindEntry page s k).Inv := by
  unfold rewindEntry
  split
  · exact h
  · exact inv_ite (inv_rewindStep (inv_ite (inv_haltFor h) h)) (inv_ite (inv_haltFor h) h)

theorem inv_fetchUnits {a} (h : s.Inv) : (fetchUnits s a).Inv := inv_foldl (fun _ _ h => inv_ite (inv_sendTwin h) (inv_sendTwin h)) h

theorem inv_recoverPages {ps} (h : s.Inv) : (recoverPages ps s).Inv :=
  inv_ite (inv_settle (inv_wakeAllReds (inv_foldl (fun _ _ => inv_releaseCause)
    (inv_foldl (fun _ _ => inv_rewindEntry) (inv_foldl (fun _ _ => inv_recallEntry) h)))))
    (inv_ite (inv_foldl (fun _ _ => inv_fetchUnits) (inv_foldl (fun _ _ => inv_rewindEntry) (inv_foldl (fun _ _ => inv_recallEntry) h)))
    (inv_foldl (fun _ _ => inv_forgetCause) (inv_foldl (fun _ _ => inv_rewindEntry) (inv_foldl (fun _ _ => inv_recallEntry) h))))

@[simp] theorem resInv_execPageMigration {page chunks unreadable} (h : s.Inv) : ResInv (execPageMigration page chunks unreadable s) :=
  resInv_whileClocked h (resInv_ite (resInv_next h) (resInv_ite (resInv_next
    (inv_ite (inv_migrateChunks (inv_ite h (inv_startMigration h))) (inv_recoverPages
    (inv_migrateChunks (inv_ite h (inv_startMigration h)))))) (resInv_ite (resInv_next h) (resInv_next (inv_recoverPages h)))))

theorem inv_rdataActs {t2 vpage unit mirror bad bytes} (h : s.Inv) : (rdataActs t2 vpage unit mirror bad bytes s).Inv :=
  inv_onTwin (fun _ h => inv_ite h (inv_ite (inv_foldl (fun _ _ => inv_forgetCause) h)
    (inv_ite h (inv_ite (inv_settle (inv_wakeAllReds (inv_foldl (fun _ _ => inv_releaseCause) (inv_storeBytes h))))
    (inv_storeBytes h))))) h

@[simp] theorem resInv_execRowRemap {row uncorrectable} (h : s.Inv) : ResInv (execRowRemap row uncorrectable s) := by
  unfold execRowRemap
  refine resInv_whileClocked h (resInv_ite (resInv_next h) ?_)
  split
  · exact resInv_next (inv_overlapping (inv_ite (inv_remapRow h) (inv_damageFrame (inv_remapRow h))))
  · exact resInv_next (inv_overlapping (inv_remapRow h))

@[simp] theorem resInv_execPatrolRead {frame corrected uncorrectable} (h : s.Inv) :
    ResInv (execPatrolRead frame corrected uncorrectable s) := by
  unfold execPatrolRead
  refine resInv_whileClocked h (resInv_ite (resInv_next h) ?_)
  split
  · exact resInv_next (inv_overlapping (inv_damageFrame (inv_foldl (fun _ _ => inv_meetCorrected) h)))
  · exact resInv_next (inv_foldl (fun _ _ => inv_meetCorrected) h)

@[simp] theorem resInv_execStoreUncorrectable {page granule way line reader} (h : s.Inv) :
    ResInv (execStoreUncorrectable page granule way line reader s) := by
  unfold execStoreUncorrectable
  refine resInv_whileClocked h (resInv_ite (resInv_next h) ?_)
  split
  · exact resInv_next (inv_foldl (fun _ _ => inv_setPage) (inv_countCe h))
  · exact resInv_next (inv_overlapping (inv_disableWay (inv_eraseLine (inv_haltReader (inv_damageFrame h)))))
  · exact resInv_ite (resInv_next (inv_overlapping (inv_disableWay (inv_countUe (inv_eraseLine h)))))
        (resInv_next (inv_mk (inv_countUe (inv_eraseLine h))))

theorem inv_bondDefect {site group bond spare source} (h : s.Inv) : (bondDefect site group bond spare source s).Inv := by
  unfold bondDefect
  split
  · exact inv_addDefect h
  · exact h

theorem inv_degradeBin {b} (h : s.Inv) : (degradeBin b s).Inv := inv_ite h (inv_degradedLeaves (inv_logEvent (inv_mk h)))

theorem inv_degradeGuest (h : s.Inv) : (degradeGuest s).Inv := inv_ite h (inv_logEvent (inv_mk h))

theorem inv_bondConsequence {site} (h : s.Inv) : (bondConsequence site s).Inv := by
  unfold bondConsequence
  split
  · exact inv_ite (inv_degradeStone (inv_stopStone h)) h
  · exact inv_ite (inv_degradeBin h) h
  · exact inv_ite (inv_degradeGuest h) h

theorem inv_disableGroup {site group source} (h : s.Inv) : (disableGroup site group source s).Inv :=
  inv_ite h (inv_logEvent (inv_bondDefect (inv_mk h)))

theorem inv_failBond {l source} (h : s.Inv) : (failBond l source s).Inv :=
  inv_ite h (inv_ite (inv_logEvent (inv_bondDefect (inv_mk h))) (inv_disableGroup h))

@[simp] theorem resInv_execBondFailure {l} (h : s.Inv) :
    ResInv (execBondFailure l s) := resInv_next (inv_bondConsequence (inv_failBond h))

@[simp] theorem resInv_execReferenceClockLoss {refclk} (h : s.Inv) : ResInv (execReferenceClockLoss refclk s) :=
  resInv_ite (resInv_next (inv_mk h)) (resInv_next (inv_foldl (fun _ _ => inv_cancelMoves)
    (inv_foldl (fun _ _ => inv_haltFor) (inv_logEvent (inv_mk h)))))

theorem inv_retrainAll (h : s.Inv) : (retrainAll s).Inv := inv_foldl (fun _ _ h => inv_ite (inv_retrainRace h) h) h

theorem inv_loseBins (h : s.Inv) : (loseBins s).Inv := inv_mk h

@[simp] theorem resInv_execReferenceClockResume {within60s binLapse} (h : s.Inv) :
    ResInv (execReferenceClockResume within60s binLapse s) :=
  resInv_ite (resInv_next (inv_mk h)) (resInv_ite (resInv_next (inv_settle (inv_wakeAllReds
    (inv_logEvent (inv_recoverCause (inv_retrainAll (inv_mk h))))))) (resInv_next
    (inv_ite (inv_leavePair (inv_forgetCause (inv_logEvent (inv_loseBins (inv_retrainAll (inv_mk h))))))
    (inv_forgetCause (inv_logEvent (inv_loseBins (inv_retrainAll (inv_mk h))))))))

theorem inv_freshMiller (h : s.Inv) : (freshMiller s).Inv := inv_mk (inv_nextFree h)

theorem inv_abortRecal (h : s.Inv) : (abortRecal s).Inv := inv_ite (inv_mk h) h

@[simp] theorem resInv_execMillerWatchdogReset {within60s} (h : s.Inv) : ResInv (execMillerWatchdogReset within60s s) :=
  resInv_ite (resInv_next h) (resInv_ite (resInv_next (inv_foldl (fun _ _ => inv_haltFor)
    (inv_logEvent (inv_mk (inv_abortRecal (inv_freshMiller (inv_mk h))))))) (resInv_next
    (inv_settle (inv_foldl (fun _ _ h => inv_resumeCtx (inv_drainCtx h)) (inv_logEvent
    (inv_mk (inv_abortRecal (inv_freshMiller (inv_mk h)))))))))

/-! ## Security (`Machine/Security`) -/

theorem inv_issueColophon (h : s.Inv) : (issueColophon s).Inv := inv_mk h

theorem inv_whenEngine {act : State → Reply} (hact : ∀ s, s.Inv → (act s).state.Inv) (h : s.Inv) : (whenEngine act s).state.Inv := by
  unfold whenEngine
  split
  · exact h
  · exact hact s h

@[simp] theorem resInv_execColophon {m nonce} (h : s.Inv) : ResInv (execColophon m nonce s) :=
  resInv_ite (resInv_ite (resInv_next h) (resInv_ite (resInv_next (inv_bucketReply h))
    (resInv_ite (resInv_next (inv_bucketReply h)) (resInv_next (inv_bucketReply (inv_mk h))))))
    (resInv_plainRequest (fun _ h => inv_whenEngine (fun _ => inv_mk) h) h)

theorem inv_dropKeys {old new} (h : s.Inv) : (dropKeys old new s).Inv := inv_mk h

theorem inv_applyFrisket {f} (h : s.Inv) : (applyFrisket f s).Inv :=
  inv_issueColophon (inv_logEvent (inv_dropKeys (inv_mk (inv_flashWrite h))))

@[simp] theorem resInv_execFrisket {m rec reservedZero} (h : s.Inv) : ResInv (execFrisket m rec reservedZero s) := by
  refine resInv_milRequest (fun _ => inv_frisketViolation) (fun s h => ?_) h
  split
  · exact inv_state_ite (inv_applyFrisket h) (inv_mk (inv_flashWrite h))
  · exact inv_frisketViolation h

theorem inv_admitRefused {step} (h : s.Inv) : (admitRefused step s).Inv := inv_logEvent (inv_mk h)

theorem inv_renewReserve (h : s.Inv) : (renewReserve s).Inv := inv_mk h

theorem inv_admitJob {b} (h : s.Inv) : (admitJob b s).Inv := by
  unfold admitJob
  extract_lets s1 src1 src2 src3 s2 s3
  have h1 : s1.Inv := by
    unfold s1
    split
    · exact inv_mk (inv_applyFrisket h)
    · exact inv_mk h
  exact inv_foldl (fun _ _ => inv_tryAttest) (inv_issueColophon (inv_logEvent (inv_renewReserve (inv_mk (inv_flashWrite h1)))))

theorem inv_tryAdmit {m b} (h : s.Inv) : (tryAdmit m b s).1.Inv := by
  unfold tryAdmit
  split
  · split
    · exact inv_admitRefused h
    · exact h
  split
  · exact inv_admitRefused h
  split
  · exact inv_admitRefused h
  split
  · exact inv_admitRefused h
  · dsimp only
    exact inv_admitJob h

@[simp] theorem resInv_execAdmission {m b} (h : s.Inv) : ResInv (execAdmission m b s) := by
  refine resInv_milRequest (fun _ => inv_admitRefused) (fun s h => ?_) h
  refine inv_whenEngine (fun s h => ?_) h
  split
  · next e => exact inv_of_fst e (inv_tryAdmit h)
  · next e => exact inv_of_fst e (inv_tryAdmit h)

theorem inv_admitHeld (h : s.Inv) : (admitHeld s).Inv := by
  unfold admitHeld
  split
  · exact h
  · split
    · next e => exact inv_signedReply (inv_of_fst e (inv_tryAdmit (inv_mk h)))
    · next e => exact inv_of_fst e (inv_tryAdmit (inv_mk h))

theorem inv_freeSessions (h : s.Inv) : (freeSessions s).Inv := inv_foldl (fun _ _ => inv_updHost) h

theorem inv_endJob (h : s.Inv) : (endJob s).Inv := by
  unfold endJob
  extract_lets cs s1 s2 s3 s4
  have h1 : s1.Inv := inv_foldl (fun _ _ => inv_unloadCtx) (inv_foldl (fun _ _ => inv_haltCtx) h)
  have h3 : s3.Inv := inv_foldl (fun _ _ h => inv_ite (inv_toLinked (inv_emitRace h)) h) (inv_pumpSessions (inv_logEvent h1))
  have h4 : s4.Inv := inv_freeSessions h3
  exact inv_ite (inv_emit (inv_mk h4)) (inv_mk h4)

@[simp] theorem resInv_execEndJob {m} (h : s.Inv) : ResInv (execEndJob m s) := by
  unfold execEndJob
  refine resInv_plainRequest (fun _ h => inv_whenEngine (fun s h => ?_) h) h
  split
  · dsimp only [Reply.state]
    exact inv_endJob h
  · exact h

@[simp] theorem resInv_execGuestScrubConfirm {confirmed} (h : s.Inv) : ResInv (execGuestScrubConfirm confirmed s) :=
  resInv_ite (resInv_next h) (resInv_next (inv_ite (inv_mk h) (inv_logEvent (inv_mk h))))

theorem inv_scrubbed : (scrubbed s).Inv := inv_mk rfl

theorem inv_failPhys {n i source} (h : s.Inv) : (failPhys n i source s).Inv := by
  unfold failPhys
  dsimp only
  refine inv_ite h ?_
  split
  · exact inv_disablePhys h
  · exact inv_mk (inv_disablePhys h)
  · exact inv_degradeStone (inv_disablePhys h)

theorem inv_failForme {source f} (h : s.Inv) : (failForme source s f).Inv := inv_ite h (inv_addDefect (inv_logEvent (inv_mk h)))

@[simp] theorem resInv_execScrub {badFrames badQuerns badWays badFormes durationUs} (h : s.Inv) :
    ResInv (execScrub badFrames badQuerns badWays badFormes durationUs s) := by
  unfold execScrub
  refine resInv_whileClocked h ?_
  extract_lets up frames fails s1 s2 s3 s4 rec_ src1 src2 src3 s5
  have h2 : s2.Inv := inv_foldl (fun _ _ => inv_retireFrame) (inv_foldl (fun _ _ => inv_retireFrame) inv_scrubbed)
  have h4 : s4.Inv := inv_foldl (fun _ _ => inv_failForme) (inv_foldl (fun _ _ => inv_disableWay) (inv_foldl (fun _ _ => inv_failPhys) h2))
  exact resInv_ite (resInv_next (inv_admitHeld (inv_logEvent (inv_issueColophon (inv_mk (inv_flashWrite (inv_nextFree h4)))))))
    (resInv_next h)

theorem inv_guestDeny {a} (h : s.Inv) : (guestDeny a s).Inv := inv_emit (inv_logEvent (inv_mk h))

@[simp] theorem resInv_execGuestAccess {write addr bytes} (h : s.Inv) : ResInv (execGuestAccess write addr bytes s) :=
  resInv_whileClocked h (resInv_ite (resInv_next h) (resInv_ite (resInv_next (inv_guestDeny h))
    (resInv_ite (resInv_ite (resInv_next (inv_guestDeny h)) (resInv_next (inv_emit (inv_writeMem h))))
    (resInv_ite (resInv_next (inv_guestDeny h)) (resInv_next (inv_emit h))))))

/-! ## Firmware (`Machine/Firmware`) -/

theorem inv_logVerified {img k} (h : s.Inv) : (logVerified s img k).Inv := inv_logEvent h

theorem inv_stageBlock {a b bytes} (h : s.Inv) : (stageBlock a b bytes s).Inv :=
  inv_ite (inv_logVerified (inv_mk (inv_flashWrite h))) (inv_mk (inv_flashWrite h))

@[simp] theorem resInv_execFwdata {a d imageId block blocks blockOk busy bytes img} (h : s.Inv) :
    ResInv (execFwdata a d imageId block blocks blockOk busy bytes img s) := by
  unfold execFwdata
  refine resInv_hearPacket (fun _ h => inv_ite h ?_) h
  split
  · exact h
  · exact inv_ite h (inv_stageBlock h)

@[simp] theorem resInv_execFirmwareStagingIdle (h : s.Inv) : ResInv (execFirmwareStagingIdle s) := by
  unfold execFirmwareStagingIdle
  split
  · exact resInv_next (inv_mk h)
  · exact resInv_next h

@[simp] theorem resInv_execFwstatus {a d imageId} (h : s.Inv) : ResInv (execFwstatus a d imageId s) := by
  unfold execFwstatus
  refine resInv_hearPacket (fun _ h => inv_ite h ?_) h
  split
  · exact h
  · refine inv_ite h ?_
    split
    · exact inv_rateReply h
    · exact inv_updHost h

@[simp] theorem resInv_execFwrepair {a} (h : s.Inv) : ResInv (execFwrepair a s) := by
  unfold execFwrepair
  dsimp only
  refine resInv_whileClocked h ?_
  split
  · split
    · exact resInv_next (inv_rateReply (inv_updHost h))
    · exact resInv_next (inv_updHost h)
    · exact resInv_next (inv_rateReply (inv_updHost h))
  · exact resInv_next (inv_updHost h)
  · exact resInv_next h

@[simp] theorem resInv_execFwstage {m img} (h : s.Inv) : ResInv (execFwstage m img s) :=
  resInv_plainRequest (fun _ h => inv_state_ite h (inv_logVerified (inv_mk (inv_flashWrite h)))) h

@[simp] theorem resInv_execFwactivate {m kind} (h : s.Inv) : ResInv (execFwactivate m kind s) := by
  unfold execFwactivate
  refine resInv_plainRequest (fun _ h => inv_state_ite h ?_) h
  split
  · exact h
  · exact inv_state_ite h (inv_mk (inv_flashWrite h))

end Sys2Proof.Machine
end

section
/-! # The form of the bytes under bring-up and delivery -/

namespace Sys2Proof.Machine

open Sys2Proof

variable {s t : State}

/-! ## Bring-up (`Machine/BringUp`) -/

theorem inv_resetDies : (resetDies s).Inv := inv_renewReserve (inv_mk rfl)

theorem inv_losePower {why} : (losePower why s).Inv := inv_logEvent inv_resetDies

theorem inv_powerUp (h : s.Inv) : (powerUp s).Inv := inv_mk h

@[simp] theorem resInv_execPwrgoodAssert (h : s.Inv) : ResInv (execPwrgoodAssert s) :=
  resInv_ite (resInv_next h) (resInv_next (inv_powerUp (inv_mk h)))

@[simp] theorem resInv_execPwrgoodDeassert (h : s.Inv) : ResInv (execPwrgoodDeassert s) :=
  resInv_ite (resInv_next h) (resInv_next (inv_mk inv_losePower))

theorem inv_failBringUp {k} (h : s.Inv) : (failBringUp k s).Inv := inv_logEvent (inv_mk h)

theorem inv_bootImage {valid kind} (h : s.Inv) : (bootImage valid s kind).Inv := by
  unfold bootImage
  dsimp only
  split
  · exact inv_mk h
  · exact inv_ite (inv_issueColophon (inv_logEvent (inv_mk h))) (inv_mk h)

theorem inv_openFlash {modes} (h : s.Inv) : (openFlash modes s).Inv := inv_flashWrite (inv_mk (inv_emit (inv_ite (inv_emit h) h)))

theorem inv_commitStone {a n} (h : s.Inv) : (commitStone a s n).Inv := inv_updStone h

theorem inv_writeCal {a} (h : s.Inv) : (writeCal a s).Inv := inv_mk (inv_foldl (fun _ _ => inv_commitStone) (inv_flashWrite h))

theorem inv_completeCal (h : s.Inv) : (completeCal s).Inv := by
  unfold completeCal
  split
  · exact inv_writeCal h
  · exact h

theorem inv_dropRecords {bad} (h : s.Inv) : (dropRecords bad s).Inv := inv_foldl (fun _ _ => inv_logEvent) (inv_mk h)

@[simp] theorem resInv_execMillerBoot {valid calCrcOk calSerialOk modes badRecords} (h : s.Inv) :
    ResInv (execMillerBoot valid calCrcOk calSerialOk modes badRecords s) := by
  unfold execMillerBoot
  extract_lets s0 s1
  have h1 : s1.Inv := inv_foldl (fun _ _ => inv_bootImage) (inv_dropRecords (inv_freshMiller (inv_openFlash h)))
  have h2 := inv_completeCal h1
  exact resInv_ite (resInv_next h) (resInv_ite (resInv_next (inv_mk h1)) (resInv_next (inv_ite (inv_logEvent (inv_mk h2)) (inv_mk h2))))

theorem inv_contradiction {kind loc} (h : s.Inv) : (contradiction kind loc s).Inv := inv_logEvent (inv_mk h)

theorem inv_hidePort {k} (h : s.Inv) : (hidePort s k).Inv := inv_ite (inv_updHost h) (inv_setRacePort h)

theorem inv_hideUnit {kind k} (h : s.Inv) : (hideUnit kind s k).Inv := by
  unfold hideUnit
  split
  · exact inv_mk h
  · exact inv_mk h
  · exact inv_hidePort h

theorem inv_failUnit {kind k} (h : s.Inv) : (failUnit kind s k).Inv := by
  unfold failUnit
  split
  · exact inv_disableWay h
  · exact inv_failForme h
  · exact inv_addDefect (inv_hidePort h)

theorem inv_unionUnits {kind bad} (h : s.Inv) : (unionUnits kind bad s).Inv :=
  inv_foldl (fun _ _ h => inv_contradiction (inv_failUnit h)) (inv_foldl (fun _ _ h => inv_ite (inv_hideUnit h)
    (inv_contradiction (inv_hideUnit h))) h)

@[simp] theorem resInv_execSpurSelfTest {refPresent fatal badWays badFormes badRacePorts badHostPorts} (h : s.Inv) :
    ResInv (execSpurSelfTest refPresent fatal badWays badFormes badRacePorts badHostPorts s) :=
  resInv_ite (resInv_next h) (resInv_ite (resInv_next (inv_ite (inv_mk h) (inv_logEvent (inv_mk h))))
    (resInv_ite (resInv_next (inv_failBringUp (inv_unionUnits (inv_unionUnits (inv_unionUnits (inv_mk h))))))
    (resInv_next (inv_mk (inv_nextFree (inv_unionUnits (inv_unionUnits (inv_unionUnits (inv_mk h)))))))))

theorem inv_testRow {r} (h : s.Inv) : (testRow s r).Inv := inv_ite (inv_remapRow h) (inv_retireFrame h)

@[simp] theorem resInv_execBinTest {b badRows badGroups} (h : s.Inv) : ResInv (execBinTest b badRows badGroups s) := by
  unfold execBinTest
  extract_lets src1 s1 s2 s3
  have h2 : s2.Inv := inv_foldl (fun _ _ => inv_disableGroup) (inv_mk (Memory.wf_clear _ _ h))
  have h3 : s3.Inv := inv_bondConsequence (inv_foldl (fun _ _ => inv_testRow) h2)
  exact resInv_ite (resInv_next h) (resInv_ite (resInv_next h3) (resInv_ite (resInv_next (inv_failBringUp h3)) (resInv_next (inv_mk h3))))

theorem inv_unionQuern {n pass i} (h : s.Inv) : (unionQuern n pass s i).Inv :=
  inv_ite (inv_ite (inv_contradiction h) h) (inv_ite (inv_setPhys h) (inv_contradiction (inv_addDefect h)))

theorem inv_raiseStone {n} (h : s.Inv) : (raiseStone n s).Inv := inv_setCode (inv_ite h (inv_emit (inv_mk h)))

@[simp] theorem resInv_execStoneStartTest {n t2} (h : s.Inv) : ResInv (execStoneStartTest n t2 s) := by
  unfold execStoneStartTest
  extract_lets listed src1 s1 s2 s3 bad src2 off s4
  have h2 : s2.Inv := inv_foldl (fun _ _ => inv_disableGroup) (inv_raiseStone (inv_mk h))
  have h3 : s3.Inv := inv_ite (inv_foldl (fun _ _ => inv_unionQuern) (inv_setPhys h2)) h2
  have hoff : off.Inv := inv_mk h3
  have h4 : s4.Inv := inv_ite (inv_ite hoff (inv_contradiction hoff)) (inv_ite (inv_degradeStone h3) (inv_mapQuerns h3))
  exact resInv_ite (resInv_next h) (resInv_next (inv_ite h4 (inv_mk h4)))

@[simp] theorem resInv_execFirmwareBroadcast (h : s.Inv) : ResInv (execFirmwareBroadcast s) :=
  resInv_ite (resInv_next h) (resInv_ite (resInv_next (inv_failBringUp h)) (resInv_next (inv_mk h)))

theorem inv_failBroadcast {q} (h : s.Inv) : (failBroadcast s q).Inv := inv_failPhys (inv_logEvent h)

theorem inv_loadAll (h : s.Inv) : (loadAll s).Inv := inv_foldl (fun _ _ => inv_loadQuern) h

@[simp] theorem resInv_execBroadcastRepair {incomplete} (h : s.Inv) : ResInv (execBroadcastRepair incomplete s) :=
  resInv_ite (resInv_next h) (resInv_next (inv_mk (inv_loadAll (inv_foldl (fun _ _ => inv_failBroadcast) h))))

@[simp] theorem resInv_execLinkQualification {bad} (h : s.Inv) : ResInv (execLinkQualification bad s) :=
  resInv_ite (resInv_next h) (resInv_next (inv_mk (inv_foldl (fun _ _ h => inv_bondConsequence (inv_failBond h)) h)))

@[simp] theorem resInv_execReady {ms} (h : s.Inv) : ResInv (execReady ms s) :=
  resInv_ite (resInv_next h) (resInv_ite (resInv_next (inv_failBringUp h)) (resInv_next (inv_logEvent (inv_issueColophon (inv_mk h)))))

@[simp] theorem resInv_execRestart {m} (h : s.Inv) : ResInv (execRestart m s) :=
  resInv_plainRequest (fun _ h => inv_state_ite h (inv_powerUp inv_losePower)) h

@[simp] theorem resInv_execRecal {m serial} (h : s.Inv) : ResInv (execRecal m serial s) :=
  resInv_plainRequest (fun _ h => inv_state_ite h (inv_state_ite h (inv_state_ite h (inv_state_ite h (inv_state_ite h (inv_mk h)))))) h

theorem inv_failCal {a} (h : s.Inv) : (failCal a s).Inv := inv_mk h

@[simp] theorem resInv_execRecalDone {phase pass cal} (h : s.Inv) : ResInv (execRecalDone phase pass cal s) := by
  unfold execRecalDone
  refine resInv_ite (resInv_next h) (resInv_ite (resInv_next (inv_ite (inv_mk h) h)) ?_)
  split
  · exact resInv_ite (resInv_next h) (resInv_next (inv_mk (inv_writeCal h)))
  · exact resInv_ite (resInv_next (inv_mk (inv_flashWrite h))) (resInv_next (inv_failCal h))

@[simp] theorem resInv_execRecalabort {m} (h : s.Inv) : ResInv (execRecalabort m s) :=
  resInv_plainRequest (fun _ h => inv_state_ite (inv_abortRecal h) h) h

/-! ## Delivery (`Machine/Deliver`) -/

theorem inv_respond {a n held f} (h : s.Inv) : (respond a n held f s).Inv := inv_ite (inv_hold (inv_setSession h)) (inv_respondNow h)

theorem inv_jobOp {c : Instr} {r : JobHdr × Nat × Bool × (State → Answer)} (e : jobOp c = some r) (h : s.Inv) :
    ((r.2.2.2 s).stateOr s).Inv := by
  unfold jobOp at e
  split at e <;> cases e
  · next p =>
    dsimp only
    cases p.final with
    | none => exact inv_refuse h
    | some _ => exact inv_loadActs h
  · exact inv_unloadActs h
  · exact inv_reloadActs h
  · exact inv_mapActs h
  · exact inv_unmapActs h
  · exact inv_putActs h
  · exact inv_jobRegreadActs h
  · exact inv_jobRegwriteActs h
  · exact inv_fopenActs h
  · exact inv_fcloseActs h
  · exact inv_rewindActs h
  · exact inv_abandonActs h
  · exact inv_rollbackActs h
  · exact inv_jobSubscribeActs h

theorem optInv_runFirst {a n} (h : s.Inv) : OptInv (runFirst a n s) := by
  unfold runFirst
  dsimp only
  split
  · exact optInv_none
  split
  · exact optInv_none
  next j op held act e =>
  obtain ⟨c, -, hc⟩ := Option.bind_eq_some_iff.1 e
  have ha := inv_jobOp hc h
  split
  · exact optInv_none
  next e =>
  exact optInv_some (inv_respond (inv_of_eq (f := Answer.stateOr s) e ha))

theorem inv_runRequests {k n fuel} (h : s.Inv) : (runRequests k n fuel s).Inv := by
  induction fuel generalizing s with
  | zero => exact h
  | succ fuel ih =>
    unfold runRequests
    split
    · next e => exact ih (optInv_runFirst h _ e)
    · exact h

theorem inv_runSession {a n} (h : s.Inv) : (runSession a n s).Inv := inv_runRequests h

theorem inv_runSessions (h : s.Inv) : (runSessions s).Inv :=
  inv_ite h (inv_foldl (fun _ _ h => inv_foldl (fun _ _ => inv_runSession) h) h)

theorem inv_joinRequests {j c} (h : s.Inv) : (joinRequests j c s).Inv := inv_ite (inv_queueSession h) (inv_runSession (inv_setSession h))

theorem inv_loadPart {j q} (h : s.Inv) : (loadPart j q s).Inv := by
  unfold loadPart
  dsimp only
  split
  · exact inv_ite (inv_setSession h) h
  · refine inv_ite (inv_joinRequests (inv_setSession h)) ?_
    split
    · exact inv_joinRequests (inv_setSession h)
    · exact inv_ite (inv_joinRequests (inv_setSession h)) (inv_setSession h)

theorem inv_deliverFrame {c} (h : s.Inv) : (deliverFrame c s).Inv := by
  unfold deliverFrame
  split
  · exact inv_mbhdrActs h
  · exact inv_dataActs h
  · exact inv_grantActs h
  · exact inv_receiptActs h
  · exact inv_recallActs h
  · exact inv_openActs h
  · exact inv_openackActs h
  · exact inv_closeActs h
  · exact inv_tokenActs h
  · exact inv_noticeActs h
  · exact inv_settle (inv_redArrives h)
  · exact inv_redackArrives h
  · exact inv_nackActs h
  · exact inv_resumeFrames h
  · exact inv_toLinked h
  · split
    · exact inv_ackActs h
    · exact h
  · split
    · exact inv_sessionNackActs h
    · exact h
  · split
    · exact inv_scloseActs h
    · exact h
  · exact inv_loadPart h
  iterate 13
    · exact inv_joinRequests h
  iterate 8
    · exact inv_journalActs h
  · exact inv_runSessions (inv_jackActs h)
  · exact inv_runSessions (inv_leaveActs h)
  · exact inv_assumeActs h
  · exact inv_rfetchActs h
  · exact inv_rdataActs h
  · exact h

theorem inv_deliverKept {via k} (h : s.Inv) : (deliverKept via k s).Inv := by
  induction k generalizing s with
  | zero => exact h
  | succ k ih =>
    unfold deliverKept
    split
    · next e => exact ih (inv_deliverFrame (inv_takeKept e h))
    · exact h

theorem resInv_arrive {w c} (h : s.Inv) : ResInv (arrive w c s) := by
  unfold arrive
  split
  · next e => exact resInv_next (inv_deliverKept (inv_deliverFrame (inv_of_fst e (inv_receive h))))
  · next e => exact resInv_next (inv_of_fst e (inv_receive h))

theorem resInv_onRace {r w c} (h : s.Inv) : ResInv (onRace r w c s) := resInv_ite (resInv_arrive h) (resInv_next h)

theorem resInv_onHost {w c} (h : s.Inv) : ResInv (onHost w c s) := by
  unfold onHost
  split
  · exact resInv_arrive h
  · exact resInv_next h

@[simp] theorem resInv_execMbhdr {w seq step grantNo mbid edition len} (h : s.Inv) :
    ResInv (execMbhdr w seq step grantNo mbid edition len s) :=
  resInv_ite (resInv_next h) (resInv_arrive h)

@[simp] theorem resInv_execData {w seq last seg bytes} (h : s.Inv) : ResInv (execData w seq last seg bytes s) :=
  resInv_ite (resInv_next h) (resInv_arrive h)

@[simp] theorem resInv_execGrant {w grantNo} (h : s.Inv) : ResInv (execGrant w grantNo s) := resInv_arrive h

@[simp] theorem resInv_execReceipt {w seq step what} (h : s.Inv) : ResInv (execReceipt w seq step what s) := resInv_arrive h

@[simp] theorem resInv_execRecallMb {w seq step} (h : s.Inv) : ResInv (execRecallMb w seq step s) := resInv_arrive h

@[simp] theorem resInv_execOpenFlume {w dir len4k} (h : s.Inv) : ResInv (execOpenFlume w dir len4k s) := resInv_arrive h

@[simp] theorem resInv_execOpenack {w dir len4k result} (h : s.Inv) : ResInv (execOpenack w dir len4k result s) := resInv_arrive h

@[simp] theorem resInv_execClose {w forced lastIssued firstUnused} (h : s.Inv) : ResInv (execClose w forced lastIssued firstUnused s) :=
  resInv_arrive h

@[simp] theorem resInv_execToken {w step} (h : s.Inv) : ResInv (execToken w step s) := resInv_arrive h

@[simp] theorem resInv_execNotice {w step} (h : s.Inv) : ResInv (execNotice w step s) := resInv_arrive h

@[simp] theorem resInv_execRed {w id blockHdr a nb lines err} (h : s.Inv) : ResInv (execRed w id blockHdr a nb lines err s) := by
  unfold execRed
  split
  · refine resInv_whileClocked h ?_
    split
    · next e => exact resInv_next (inv_deliverFrame (inv_of_some e (optInv_takeLocal h)))
    · exact resInv_next h
  · exact resInv_arrive h

@[simp] theorem resInv_execRedack {w id credit formes} (h : s.Inv) : ResInv (execRedack w id credit formes s) := by
  unfold execRedack
  split
  · refine resInv_whileClocked h ?_
    split
    · next e => exact resInv_next (inv_deliverFrame (inv_of_some e (optInv_takeLocal h)))
    · exact resInv_next h
  · exact resInv_arrive h

@[simp] theorem resInv_execLinkAck {r w} (h : s.Inv) : ResInv (execLinkAck r w s) := resInv_onRace h

@[simp] theorem resInv_execLinkNack {r w base missing} (h : s.Inv) : ResInv (execLinkNack r w base missing s) := resInv_onRace h

@[simp] theorem resInv_execLinkResume {r w} (h : s.Inv) : ResInv (execLinkResume r w s) := resInv_onRace h

@[simp] theorem resInv_execLinkWithdraw {r w} (h : s.Inv) : ResInv (execLinkWithdraw r w s) := resInv_onRace h

@[simp] theorem resInv_execAck {w ceCount} (h : s.Inv) : ResInv (execAck w ceCount s) := resInv_onHost h

@[simp] theorem resInv_execNack {w base missing} (h : s.Inv) : ResInv (execNack w base missing s) := resInv_onHost h

@[simp] theorem resInv_execSclose {w} (h : s.Inv) : ResInv (execSclose w s) := by
  unfold execSclose
  split
  · exact resInv_ite (resInv_next (inv_scloseBroken h)) (resInv_arrive h)
  · exact resInv_next h

@[simp] theorem resInv_execLoad {j part} (h : s.Inv) : ResInv (execLoad j part s) := resInv_onHost h

@[simp] theorem resInv_execUnload {j c} (h : s.Inv) : ResInv (execUnload j c s) := resInv_onHost h

@[simp] theorem resInv_execReload {j msg} (h : s.Inv) : ResInv (execReload j msg s) := resInv_onHost h

@[simp] theorem resInv_execMap {j first count owner shared wp bin} (h : s.Inv) : ResInv (execMap j first count owner shared wp bin s) :=
  resInv_onHost h

@[simp] theorem resInv_execUnmap {j first count} (h : s.Inv) : ResInv (execUnmap j first count s) := resInv_onHost h

@[simp] theorem resInv_execPut {j addr bytes} (h : s.Inv) : ResInv (execPut j addr bytes s) := resInv_onHost h

@[simp] theorem resInv_execJobRegread {j off} (h : s.Inv) : ResInv (execJobRegread j off s) := resInv_onHost h

@[simp] theorem resInv_execJobRegwrite {j off value} (h : s.Inv) : ResInv (execJobRegwrite j off value s) := resInv_onHost h

@[simp] theorem resInv_execFopen {j f} (h : s.Inv) : ResInv (execFopen j f s) := resInv_onHost h

@[simp] theorem resInv_execFclose {j f forced} (h : s.Inv) : ResInv (execFclose j f forced s) := resInv_onHost h

@[simp] theorem resInv_execRewind {j c step fwd bwd} (h : s.Inv) : ResInv (execRewind j c step fwd bwd s) := resInv_onHost h

@[simp] theorem resInv_execAbandon {j c} (h : s.Inv) : ResInv (execAbandon j c s) := resInv_onHost h

@[simp] theorem resInv_execRollback {j c step} (h : s.Inv) : ResInv (execRollback j c step s) := resInv_onHost h

@[simp] theorem resInv_execJobSubscribe {j on} (h : s.Inv) : ResInv (execJobSubscribe j on s) := resInv_onHost h

@[simp] theorem resInv_execJwrite {t2 vpage unit bytes} (h : s.Inv) : ResInv (execJwrite t2 vpage unit bytes s) := resInv_arrive h

@[simp] theorem resInv_execJimp {t2 recs} (h : s.Inv) : ResInv (execJimp t2 recs s) := resInv_arrive h

@[simp] theorem resInv_execJentry {t2 ctx bwd e nextGrant} (h : s.Inv) : ResInv (execJentry t2 ctx bwd e nextGrant s) := resInv_arrive h

@[simp] theorem resInv_execJpush {t2 flume seq outFlume outSeq} (h : s.Inv) :
    ResInv (execJpush t2 flume seq outFlume outSeq s) := resInv_arrive h

@[simp] theorem resInv_execJflume {t2 flume seq issued used state} (h : s.Inv) : ResInv (execJflume t2 flume seq issued used state s) :=
  resInv_arrive h

@[simp] theorem resInv_execJed {t2 shard state number refcount head pages settled} (h : s.Inv) :
    ResInv (execJed t2 shard state number refcount head pages settled s) :=
  resInv_arrive h

@[simp] theorem resInv_execJstep {t2 ctx step lscale final nonfinite closed rstep recs} (h : s.Inv) :
    ResInv (execJstep t2 ctx step lscale final nonfinite closed rstep recs s) :=
  resInv_arrive h

@[simp] theorem resInv_execJpeer {t2 ctx peer lastToken lastNotice} (h : s.Inv) : ResInv (execJpeer t2 ctx peer lastToken lastNotice s) :=
  resInv_arrive h

@[simp] theorem resInv_execJack {t2 ackJsn} (h : s.Inv) : ResInv (execJack t2 ackJsn s) := resInv_arrive h

@[simp] theorem resInv_execTwinLeave {t2 reason} (h : s.Inv) : ResInv (execTwinLeave t2 reason s) := resInv_arrive h

@[simp] theorem resInv_execAssume {t2 member incNew} (h : s.Inv) : ResInv (execAssume t2 member incNew s) := resInv_arrive h

@[simp] theorem resInv_execRfetch {t2 vpage unit mirror} (h : s.Inv) : ResInv (execRfetch t2 vpage unit mirror s) := resInv_arrive h

@[simp] theorem resInv_execRdata {t2 vpage unit mirror bad bytes} (h : s.Inv) : ResInv (execRdata t2 vpage unit mirror bad bytes s) :=
  resInv_arrive h

end Sys2Proof.Machine
end

section
/-! # Every step keeps the form of the bytes -/

namespace Sys2Proof.Machine

open Sys2Proof

variable {s t : State}

/-! ## The board (`Machine/Board`) -/

@[simp] theorem resInv_execBrownOut {n} (h : s.Inv) : ResInv (execBrownOut n s) := resInv_next (inv_ite h (inv_stopStone h))

theorem inv_stonesOff (h : s.Inv) : (stonesOff s).Inv := inv_mk h

@[simp] theorem resInv_execThermtrip (h : s.Inv) : ResInv (execThermtrip s) :=
  resInv_ite (resInv_next h) (resInv_next (inv_logEvent (inv_stonesOff (inv_ite (inv_emit (inv_emit (inv_mk h))) (inv_emit (inv_mk h))))))

@[simp] theorem resInv_execThermtripRelease (h : s.Inv) : ResInv (execThermtripRelease s) :=
  resInv_ite (resInv_next (inv_emit (inv_mk h))) (resInv_next h)

@[simp] theorem resInv_execRailMonitorTrip {rail} (h : s.Inv) : ResInv (execRailMonitorTrip rail s) :=
  resInv_ite (resInv_next h) (resInv_next (inv_mk inv_losePower))

theorem inv_loseRail {rail} (h : s.Inv) : (loseRail s rail).Inv := inv_logEvent (inv_mk h)

@[simp] theorem resInv_execPmbusFailure {b} (h : s.Inv) : ResInv (execPmbusFailure b s) := by
  unfold execPmbusFailure
  split
  · exact resInv_next (inv_loseRail h)
  · exact resInv_next (inv_ite (inv_stopStone (inv_logEvent h)) (inv_degradeStone (inv_stopStone (inv_logEvent h))))
  · exact resInv_next (inv_mk h)

@[simp] theorem resInv_execAlert {status} (h : s.Inv) :
    ResInv (execAlert status s) := resInv_next (inv_mk (inv_foldl (fun _ _ => inv_emit) h))

@[simp] theorem resInv_execXinLoss (h : s.Inv) : ResInv (execXinLoss s) :=
  resInv_ite (resInv_next h) (resInv_next (inv_foldl (fun _ _ => inv_loseRail) (inv_logEvent (inv_mk h))))

@[simp] theorem resInv_execXinResume (h : s.Inv) :
    ResInv (execXinResume s) := resInv_ite (resInv_next h) (resInv_next (inv_logEvent (inv_mk h)))

@[simp] theorem resInv_execBoundaryScan {a} (h : s.Inv) : ResInv (execBoundaryScan a s) :=
  resInv_ite (resInv_next h) (resInv_next (inv_mk inv_losePower))

@[simp] theorem resInv_execTestLogicReset (h : s.Inv) : ResInv (execTestLogicReset s) :=
  resInv_ite (resInv_next h) (resInv_next (inv_ite (inv_powerUp (inv_mk h)) (inv_mk h)))

@[simp] theorem resInv_execDebugInstruction {ir} (h : s.Inv) : ResInv (execDebugInstruction ir s) :=
  resInv_ite (resInv_next (inv_mk h)) (resInv_next (inv_frisketViolation h))

@[simp] theorem resInv_execVstbyLoss : ResInv (execVstbyLoss s) := resInv_next (inv_mk inv_resetDies)

theorem inv_refill (h : s.Inv) : (refill s).Inv := inv_mk h

theorem inv_idleTick (h : s.Inv) : (idleTick s).Inv := inv_pumpSessions (inv_runSessions (inv_refill (inv_clockTick h)))

/-! ## Vector instructions (`Machine/Vector`) -/

theorem inv_vStore {q dist lanes bytes mask} (h : s.Inv) : (vStore s q dist lanes bytes mask).Inv := inv_mk (Memory.wf_setAll _ h)

theorem yields_vDestConv_of {q o dist comp conv rm sat vals draw n} (h : s.Inv) :
    Yields State.Inv (vDestConv s q o dist comp conv rm sat vals draw n) :=
  yields_ite_of (yields_ok_of (inv_vStore (inv_setQuern h))) (yields_bind_of
    (fun _ => yields_bind_of (fun _ => yields_ok_of (inv_vStore (inv_setQuern h)))))

theorem yields_vArith_of {q o srcs unused op} (h : s.Inv) : Yields State.Inv (vArith q o srcs unused op s) :=
  yields_bind_of (fun _ => yields_bind_of (fun _ => yields_bind_of (fun _ => yields_bind_of
    (fun _ => Yields.bind (yields_vDestConv_of (inv_updQuern h)) (fun _ h => yields_ok_of (inv_updQuern h))))))

theorem resInv_startV {body : State → Except Nat State} {q op i} (hb : ∀ s, s.Inv → Yields State.Inv (body s)) (h : s.Inv) :
    ResInv (startV q op i body s) := by
  refine resInv_startInstr (fun s h => ?_) h
  dsimp only
  refine Yields.bind (hb _ h) (fun s2 h2 => ?_)
  exact yields_ok_of (inv_updQuern h2)

theorem yields_vTwo_of {q i f} (h : s.Inv) : Yields State.Inv (vTwo q i f s) := yields_bind_of (fun _ => yields_vArith_of h)

@[simp] theorem resInv_execVadd {q i} (h : s.Inv) : ResInv (execVadd q i s) := resInv_startV (fun _ => yields_vTwo_of) h

@[simp] theorem resInv_execVmul {q i} (h : s.Inv) : ResInv (execVmul q i s) := resInv_startV (fun _ => yields_vTwo_of) h

@[simp] theorem resInv_execVmax {q i} (h : s.Inv) : ResInv (execVmax q i s) := resInv_startV (fun _ => yields_vTwo_of) h

@[simp] theorem resInv_execVmin {q i} (h : s.Inv) : ResInv (execVmin q i s) := resInv_startV (fun _ => yields_vTwo_of) h

@[simp] theorem resInv_execVfma {q i} (h : s.Inv) : ResInv (execVfma q i s) :=
  resInv_startV (fun _ h => yields_bind_of (fun _ => yields_vArith_of h)) h

theorem yields_vSel_of {q i} (h : s.Inv) : Yields State.Inv (vSel q i s) := by
  unfold vSel
  extract_lets o v test used choose
  have hchoose (df) : Yields State.Inv (choose df) := by
    refine yields_bind_of (fun _ => yields_bind_of (fun n => ?_))
    extract_lets finish store
    have hfinish (s1 : State) (h : s1.Inv) : Yields State.Inv (finish s1) := yields_ok_of (inv_updQuern h)
    have hstore (av) : Yields State.Inv (store av) := by
      refine yields_bind_of (fun _ => yields_bind_of (fun _ => yields_ite_of ?_ (yields_bind_of (fun _ => ?_))))
      · exact Yields.bind (yields_ok_of (inv_vStore h)) hfinish
      · exact Yields.bind (yields_ok_of (inv_vStore (inv_setQuern h))) hfinish
    exact yields_ite_of (yields_bind_of (fun _ => hstore _)) (yields_bind_of (fun _ => hstore _))
  exact yields_bind_of (fun _ => yields_bind_of (fun _ => yields_bind_of (fun _ =>
    yields_ite_of (yields_bind_of (fun _ => hchoose _)) (yields_bind_of (fun _ => hchoose _)))))

@[simp] theorem resInv_execVsel {q i} (h : s.Inv) : ResInv (execVsel q i s) := resInv_startV (fun _ => yields_vSel_of) h

theorem yields_vCvt_of {q i} (h : s.Inv) : Yields State.Inv (vCvt q i s) :=
  yields_bind_of (fun _ => yields_bind_of (fun _ => yields_bind_of (fun _ => yields_bind_of
    (fun _ => yields_bind_of (fun _ => Yields.bind (yields_vDestConv_of h) (fun _ h => yields_ok_of (inv_updQuern h)))))))

@[simp] theorem resInv_execVcvt {q i} (h : s.Inv) : ResInv (execVcvt q i s) := resInv_startV (fun _ => yields_vCvt_of) h

theorem yields_vSpecial_of {q i opbit f} (h : s.Inv) : Yields State.Inv (vSpecial q i opbit f s) :=
  yields_bind_of (fun _ => yields_bind_of (fun _ => yields_bind_of (fun _ => yields_bind_of
    (fun _ => yields_bind_of (fun _ => yields_bind_of (fun _ => yields_ite_of
    (Yields.bind (yields_vDestConv_of (inv_updQuern h)) (fun _ h => yields_ok_of (inv_updQuern h)))
    (Yields.bind (yields_vDestConv_of (inv_updQuern h)) (fun _ h => yields_ok_of (inv_updQuern h)))))))))

@[simp] theorem resInv_execVexp {q i} (h : s.Inv) : ResInv (execVexp q i s) := resInv_startV (fun _ => yields_vSpecial_of) h

@[simp] theorem resInv_execVlog {q i} (h : s.Inv) : ResInv (execVlog q i s) := resInv_startV (fun _ => yields_vSpecial_of) h

@[simp] theorem resInv_execVrcp {q i} (h : s.Inv) : ResInv (execVrcp q i s) := resInv_startV (fun _ => yields_vSpecial_of) h

@[simp] theorem resInv_execVrsq {q i} (h : s.Inv) : ResInv (execVrsq q i s) := resInv_startV (fun _ => yields_vSpecial_of) h

@[simp] theorem resInv_execVsetvl {q i} (h : s.Inv) : ResInv (execVsetvl q i s) :=
  resInv_startV (fun _ h => yields_bind_of (fun _ => yields_bind_of (fun _ => yields_ok_of (inv_updQuern h)))) h

@[simp] theorem resInv_execVmode {q i} (h : s.Inv) : ResInv (execVmode q i s) :=
  resInv_startV (fun _ h => yields_bind_of (fun _ => yields_bind_of (fun _ => yields_ok_of (inv_updQuern h)))) h

/-! ## Learning instructions (`Machine/Learn`) -/

theorem yields_vRowstat_of {q i} (h : s.Inv) : Yields State.Inv (vRowstat q i s) :=
  yields_bind_of (fun _ => yields_bind_of (fun _ => yields_bind_of (fun _ => yields_bind_of
    (fun _ => yields_bind_of (fun _ => yields_bind_of (fun _ => yields_bind_of
    (fun _ => yields_bind_of (fun _ => yields_bind_of (fun _ => yields_bind_of
    (fun _ => yields_bind_of (fun _ => yields_bind_of (fun _ => yields_ok_of (inv_updQuern (inv_vStore (inv_setQuern h)))))))))))))))

@[simp] theorem resInv_execVrowstat {q i} (h : s.Inv) : ResInv (execVrowstat q i s) := resInv_startV (fun _ => yields_vRowstat_of) h

theorem yields_vRng_of {q i} (h : s.Inv) : Yields State.Inv (vRng q i s) :=
  yields_bind_of (fun _ => yields_bind_of (fun _ => yields_bind_of (fun _ => yields_bind_of
    (fun _ => yields_bind_of (fun _ => yields_bind_of (fun _ => yields_bind_of
    (fun _ => yields_ok_of (inv_updQuern (inv_vStore (inv_setQuern h))))))))))

@[simp] theorem resInv_execVrng {q i} (h : s.Inv) : ResInv (execVrng q i s) := resInv_startV (fun _ => yields_vRng_of) h

theorem yields_vSrnd_of {q i} (h : s.Inv) : Yields State.Inv (vSrnd q i s) :=
  yields_bind_of (fun _ => yields_bind_of (fun _ => yields_bind_of (fun _ => yields_bind_of
    (fun _ => yields_bind_of (fun _ => yields_bind_of (fun _ => yields_bind_of
    (fun _ => yields_bind_of (fun _ => yields_bind_of (fun _ => yields_ok_of (inv_updQuern (inv_vStore (inv_setQuern h))))))))))))

@[simp] theorem resInv_execVsrnd {q i} (h : s.Inv) : ResInv (execVsrnd q i s) := resInv_startV (fun _ => yields_vSrnd_of) h

theorem yields_vNorm2_of {q i} (h : s.Inv) : Yields State.Inv (vNorm2 q i s) :=
  yields_bind_of (fun _ => yields_bind_of (fun _ => yields_bind_of (fun _ => yields_bind_of
    (fun _ => yields_bind_of (fun _ => yields_bind_of (fun _ => yields_ite_of (yields_ok_of (inv_vStore (inv_setQuern h)))
    (yields_bind_of (fun _ => yields_bind_of (fun _ => yields_bind_of (fun _ => yields_bind_of
    (fun _ => yields_ok_of (inv_updQuern (inv_vStore (inv_setQuern h))))))))))))))

@[simp] theorem resInv_execVnorm2 {q i} (h : s.Inv) : ResInv (execVnorm2 q i s) := resInv_startV (fun _ => yields_vNorm2_of) h

theorem yields_updPut_of {q slot n roll words} (h : s.Inv) : Yields State.Inv (updPut q slot n roll words s) :=
  yields_bind_of (fun _ => yields_ok_of (inv_vStore (inv_setQuern h)))

theorem yields_vUpd_of {q i} (h : s.Inv) : Yields State.Inv (vUpd q i s) := by
  unfold vUpd
  dsimp only
  iterate 12 refine yields_bind_of (fun _ => ?_)
  split
  · exact yields_ok_of (inv_updQuern h)
  refine Yields.bind (yields_updPut_of (inv_updQuern h)) (fun s1 h1 => ?_)
  refine Yields.bind (yields_updPut_of h1) (fun s2 h2 => ?_)
  refine Yields.bind (yields_updPut_of h2) (fun s3 h3 => ?_)
  exact yields_ok_of (inv_updQuern h3)

@[simp] theorem resInv_execVupd {q i} (h : s.Inv) : ResInv (execVupd q i s) := resInv_startV (fun _ => yields_vUpd_of) h

/-! ## Matrix instructions (`Machine/Matrix`) -/

theorem inv_clearSet {q k} (h : s.Inv) : (clearSet s q k).Inv := inv_updQuern (inv_mk (Memory.wf_clear _ _ h))

theorem inv_setMode {q pm} (h : s.Inv) : (setMode q pm s).Inv := inv_ite h (inv_clearSet (inv_setQuern h))

theorem inv_addSums {q adds} (h : s.Inv) : (addSums s q adds).Inv := by
  unfold addSums
  refine inv_foldl (fun _ _ h => inv_ite h ?_) h
  split
  · exact inv_mk (Memory.wf_setAll _ h)
  · exact inv_mk (Memory.wf_setAll _ h)
  · exact inv_mk (Memory.wf_setAll _ h)

theorem inv_runPass {q o} (h : s.Inv) : (runPass q o s).Inv := inv_ite (inv_updQuern (inv_setQuern h)) (inv_addSums (inv_setQuern h))

theorem inv_releaseHeld {q epoch} (h : s.Inv) : (releaseHeld s q epoch).Inv := inv_foldl (fun _ _ => inv_addSums) (inv_setQuern h)

theorem inv_releaseClears {q epoch} (h : s.Inv) : (releaseClears s q epoch).Inv := inv_foldl (fun _ _ => inv_signalIf) (inv_setQuern h)

theorem inv_endWriteOut {q dr advWgo} (h : s.Inv) : (endWriteOut s q dr advWgo).Inv :=
  inv_signalIf (inv_releaseHeld (inv_releaseClears (inv_updQuern (inv_clearSet h))))

theorem inv_countDuplicate {q} (h : s.Inv) : (countDuplicate s q).Inv := inv_updQuern h

theorem inv_writeOut {q} (h : s.Inv) : (writeOut q s).Inv := by
  unfold writeOut
  dsimp only
  split
  · exact h
  · refine inv_ite h (inv_ite h (inv_ite (inv_endWriteOut (inv_countDuplicate h)) ?_))
    split
    · exact h
    · exact inv_endWriteOut (inv_mk (Memory.wf_setAll _ h))

@[simp] theorem resInv_execMcfg {q i} (h : s.Inv) : ResInv (execMcfg q i s) :=
  resInv_startInstr (fun _ h => yields_bind_of (fun _ => yields_bind_of (fun _ => yields_ok_of (inv_setMode h)))) h

@[simp] theorem resInv_execMload {q i} (h : s.Inv) : ResInv (execMload q i s) :=
  resInv_startInstr (fun _ h => yields_bind_of (fun _ => yields_ok_of (inv_updQuern h))) h

@[simp] theorem resInv_execMpass {q i} (h : s.Inv) : ResInv (execMpass q i s) :=
  resInv_startInstr (fun _ h => yields_bind_of (fun _ => yields_ok_of (inv_runPass h))) h

@[simp] theorem resInv_execMdrain {q i} (h : s.Inv) : ResInv (execMdrain q i s) :=
  resInv_startInstr (fun _ h => yields_bind_of (fun _ => yields_ok_of (inv_updQuern h))) h

@[simp] theorem resInv_execMdrainWriteOut {q} (h : s.Inv) : ResInv (execMdrainWriteOut q s) :=
  resInv_whileClocked h (resInv_next (inv_writeOut h))

theorem inv_clearEpoch {q i} (h : s.Inv) : (clearEpoch q i s).Inv :=
  inv_ite (inv_updQuern (inv_setQuern h)) (inv_clearSet (inv_setQuern h))

@[simp] theorem resInv_execMclr {q i} (h : s.Inv) : ResInv (execMclr q i s) :=
  resInv_startInstr (fun _ h => yields_bind_of (fun _ => yields_ok_of (inv_clearEpoch h))) h

/-! ## Every command and every step -/

theorem resInv_exec {c : Instr} (h : s.Inv) : ResInv (exec c s) := by
  cases c with
  | _ => simp [exec, h]

theorem resInv_step (h : s.Inv) : ResInv (step s) := by
  cases hs : s.pending with
  | nil =>
    rw [step_of_empty hs]
    exact resInv_next (inv_idleTick h)
  | cons c rest =>
    rw [step_of_cons hs]
    exact resInv_exec (inv_mk h)

/-- Settles O56: an idle tick and every command keep the form, function by function. -/
theorem memoryFormKept : Obligations.MemoryFormKept := fun _ _ h e => resInv_step h _ e

end Sys2Proof.Machine
end

section
/-! # The job's memory and register requests

A request that comes on an idle session is its only request, so its action runs at once and decides the answer. The actions then go by their
branches. -/

namespace Sys2Proof.Machine

open Sys2Proof

/-! ## A request on an idle session (R342, R369, R371) -/

section Turn
variable {s s1 t : State} {j : JobHdr} {c : Instr} {op status : Nat} {detail : List Nat} {held : Bool} {act : State → Answer}

/-- The command is a job's request with this number and this action, and `held` says whether its response waits for the twin. -/
structure IsRequest (j : JobHdr) (c : Instr) (op : Nat) (held : Bool) (act : State → Answer) : Prop where
  exec : ∀ s, exec c s = onHost j.hdr c s
  frame : ∀ s, deliverFrame c s = joinRequests j c s
  action : jobOp c = some (j, op, held, act)

theorem joinRequests_idle (h : (s1.session j.port j.session).requests = []) :
    joinRequests j c s1 = runSession j.port j.session (jobTaken s1 j c) := by
  simp [joinRequests, tooMany, h, jobTaken]

@[simp] theorem session_jobTaken (s1 : State) (j : JobHdr) (c : Instr) :
    (jobTaken s1 j c).session j.port j.session = { s1.session j.port j.session with requests := [c] } :=
  State.session_setSession_same ..

/-- The session's one request runs once. -/
theorem runSession_jobTaken : runSession j.port j.session (jobTaken s1 j c)
    = (runFirst j.port j.session (jobTaken s1 j c)).getD (jobTaken s1 j c) := by
  simp only [runSession, session_jobTaken, List.length_singleton, runRequests]
  cases runFirst j.port j.session (jobTaken s1 j c) <;> rfl

/-- A request in its turn is delivered, and its action in the state in which it stands alone decides what follows. -/
theorem exec_request (r : IsRequest j c op held act) (h : JobTurn s s1 j c) : exec c s
    = .next (released j.hdr s1 (match act (jobTaken s1 j c) with
      | .wait => jobTaken s1 j c
      | .done t status detail => respond j.port j.session held (jobrsp j op status detail) t)) := by
  obtain ⟨⟨p, n, via⟩, got, isOpen, idle, unacted, -⟩ := h
  rw [r.exec, onHost_via via, arrive_delivered got, r.frame, joinRequests_idle idle, runSession_jobTaken]
  congr 2
  simp only [runFirst, session_jobTaken, isOpen, unacted, ne_eq, not_true, Bool.false_eq_true, or_self, if_false, List.head?_cons,
    Option.bind_some, r.action]
  cases act (jobTaken s1 j c) <;> rfl

theorem exec_answered (r : IsRequest j c op false act) (h : JobTurn s s1 j c) (ha : act (jobTaken s1 j c) = .done t status detail) :
    exec c s = .next (jobAnswered s1 j op status detail t) := by
  rw [exec_request r h, ha]
  rfl

theorem exec_held (r : IsRequest j c op true act) (h : JobTurn s s1 j c) (ha : act (jobTaken s1 j c) = .done t status detail) :
    exec c s = .next (jobHeld s1 j op status detail t) := by
  rw [exec_request r h, ha]
  rfl

theorem exec_waits (r : IsRequest j c op held act) (h : JobTurn s s1 j c) (ha : act (jobTaken s1 j c) = .wait) :
    exec c s = .next (released j.hdr s1 (jobTaken s1 j c)) := by
  rw [exec_request r h, ha]

end Turn

section Kinds
variable (j : JobHdr)

theorem isRequest_map (first count : Nat) (owner : Fin 32) (shared wp : Bool) (bin : Fin 4) : IsRequest j
    (.map j first count owner shared wp bin) 0x0010 false (mapActs first count owner shared wp bin) :=
  ⟨fun _ => rfl, fun _ => rfl, rfl⟩

theorem isRequest_unmap (first count : Nat) : IsRequest j (.unmap j first count) 0x0011 false (unmapActs first count) :=
  ⟨fun _ => rfl, fun _ => rfl, rfl⟩

theorem isRequest_put (a : W48) (bytes : List W8) : IsRequest j (.put j a bytes) 0x0020 true (putActs a bytes) :=
  ⟨fun _ => rfl, fun _ => rfl, rfl⟩

theorem isRequest_jobRegread (off : W48) : IsRequest j (.jobRegread j off) 0x0030 false (jobRegreadActs off) :=
  ⟨fun _ => rfl, fun _ => rfl, rfl⟩

theorem isRequest_jobRegwrite (off : W48) (v : W64) : IsRequest j (.jobRegwrite j off v) 0x0031 false (jobRegwriteActs off v) :=
  ⟨fun _ => rfl, fun _ => rfl, rfl⟩

end Kinds

/-! ## MAP (R219, R224) -/

section Map
variable {s : State} {first count owner : Nat} {shared wp : Bool}

theorem length_framesFor {b n : Nat} {l : List Nat} (h : framesFor s b n = some l) : l.length = n := by
  simp only [framesFor] at h
  split at h
  · next ok =>
    cases h
    exact ok.1
  · cases h

theorem mapActs_maps {own : Fin 32} {bin : Fin 4} {l : List Nat} (pos : 0 < count) (fits : first + count ≤ 524288)
    (free : ∀ i < count, (s.page (first + i)).state = .unmapped ∧ pageClaimed s (first + i) = false)
    (half : halfRefused s first count own = false) (frames : framesFor s bin count = some l) :
    mapActs first count own shared wp bin s = .done (settle (wakeAllReds (applyEarly 0 (mapPages s first l own shared wp)))) 0 [] := by
  have none_taken : (List.range count).find? (fun i => (s.page (first + i)).state ≠ .unmapped || pageClaimed s (first + i)) = none := by
    simp only [List.find?_eq_none, List.mem_range]
    intro i hi
    simp [free i hi]
  simp only [mapActs, pos.ne', fits.not_gt, if_false, none_taken, half, frames, Bool.false_eq_true]

/-- A page's entry without its place in a free list. -/
def ImpEnt.unlinked (e : ImpEnt) : ImpEnt := { e with next := 0, last := false }

theorem unlinked_setPage {p : Nat} {e : ImpEnt} (h : e.unlinked = (s.page p).unlinked) (i : Nat) :
    ((s.setPage p e).page i).unlinked = (s.page i).unlinked := by
  obtain rfl | ne := eq_or_ne i p
  · rw [State.page_setPage_same, h]
  · rw [State.page_setPage_ne _ _ _ _ ne]

theorem unlinked_chainPages (tail : Option Nat) (l : List Nat) (s : State) (i : Nat) :
    ((chainPages tail l s).page i).unlinked = (s.page i).unlinked := by
  induction l generalizing s with
  | nil => rfl
  | cons p l ih =>
    refine (ih _).trans (unlinked_setPage ?_ i)
    rfl

/-- A free list that grows changes the links of pages alone. -/
theorem unlinked_appendFree (s : State) (c : Nat) (l : List Nat) (i : Nat) :
    ((appendFree s c l).page i).unlinked = (s.page i).unlinked := by
  unfold appendFree
  extract_lets s1 s2
  have chained : (s1.page i).unlinked = (s.page i).unlinked := unlinked_chainPages ..
  change (s2.page i).unlinked = _
  unfold s2
  split
  · refine (unlinked_setPage ?_ i).trans chained
    rfl
  · exact chained

/-- Pages in increasing number take the frames in their order. -/
def mapFrames (s : State) (first : Nat) (frames : List Nat) (owner : Nat) (shared wp : Bool) : State :=
  ((List.range frames.length).zip frames).foldl (fun s x =>
    s.setPage (first + x.1) { state := .mapped, wp := wp, owner := owner, shared := shared, frame := x.2 }) s

theorem mapPages_eq (s : State) (first : Nat) (l : List Nat) (owner : Nat) (shared wp : Bool) : mapPages s first l owner shared wp
    = if shared then mapFrames s first l owner shared wp
      else appendFree (mapFrames s first l owner shared wp) owner ((List.range l.length).map (first + ·)) := rfl

theorem mapFrames_concat (s : State) (first : Nat) (l : List Nat) (f owner : Nat) (shared wp : Bool) :
    mapFrames s first (l ++ [f]) owner shared wp = (mapFrames s first l owner shared wp).setPage (first + l.length)
      { state := .mapped, wp := wp, owner := owner, shared := shared, frame := f } := by
  simp [mapFrames, List.range_succ, List.zip_append, List.foldl_append]

theorem page_mapFrames (s : State) (first : Nat) (l : List Nat) (owner : Nat) (shared wp : Bool) {i : Nat} (hi : i < l.length) :
    (mapFrames s first l owner shared wp).page (first + i)
      = { state := .mapped, wp := wp, owner := owner, shared := shared, frame := l.getD i 0 } := by
  induction l using List.reverseRecOn with
  | nil => simp at hi
  | append_singleton l f ih =>
    rw [mapFrames_concat]
    obtain rfl | ne := eq_or_ne i l.length
    · simp
    · have hl : i < l.length := by simp at hi; omega
      rw [State.page_setPage_ne _ _ _ _ (show first + i ≠ first + l.length by omega), ih hl]
      simp [List.getElem?_append_left hl]

theorem unlinked_mapPages (s : State) (first : Nat) (l : List Nat) (owner : Nat) (shared wp : Bool) {i : Nat} (hi : i < l.length) :
    ((mapPages s first l owner shared wp).page (first + i)).unlinked
      = { state := .mapped, wp := wp, owner := owner, shared := shared, frame := l.getD i 0 } := by
  have mapped := congrArg ImpEnt.unlinked (page_mapFrames s first l owner shared wp hi)
  rw [mapPages_eq]
  cases shared with
  | true => exact mapped
  | false => exact (unlinked_appendFree ..).trans mapped

theorem mem_chainPages (tail : Option Nat) (l : List Nat) (s : State) : (chainPages tail l s).mem = s.mem := by
  induction l generalizing s with
  | nil => rfl
  | cons p l ih => exact ih _

theorem mem_appendFree (s : State) (c : Nat) (l : List Nat) : (appendFree s c l).mem = s.mem := by
  unfold appendFree
  extract_lets s1 s2
  have chained : s1.mem = s.mem := mem_chainPages ..
  change s2.mem = _
  unfold s2
  split
  · exact chained
  · exact chained

theorem mem_mapPages (s : State) (first : Nat) (l : List Nat) (owner : Nat) (shared wp : Bool) :
    (mapPages s first l owner shared wp).mem = s.mem := by
  have mapped : (mapFrames s first l owner shared wp).mem = s.mem := by
    refine mem_foldl (fun _ _ => ?_) _ _
    rfl
  rw [mapPages_eq]
  split
  · exact mapped
  · exact (mem_appendFree ..).trans mapped

end Map

/-! ## UNMAP and PUT (R223, R231, R370) -/

section Bytes
variable {s : State}

/-- The pages of a range that an unmap of it changes. -/
def backedIn (s : State) (first count : Nat) : List Nat :=
  ((List.range count).map (first + ·)).filter (fun p => (s.page p).state ≠ .unmapped)

theorem unmapActs_waits {first count : Nat} (pos : 0 < count) (fits : first + count ≤ 524288)
    (used : (movePages s).any (backedIn s first count).contains = true) : unmapActs first count s = .wait := by
  rw [backedIn] at used
  simp only [unmapActs, pos.ne', fits.not_gt, if_false, used, if_true]

theorem unmapActs_unmaps {first count : Nat} (pos : 0 < count) (fits : first + count ≤ 524288)
    (unused : (movePages s).any (backedIn s first count).contains = false) :
    unmapActs first count s = .done ((backedIn s first count).foldl unmapPage s) 0 [(backedIn s first count).length] := by
  rw [backedIn] at unused ⊢
  simp only [unmapActs, pos.ne', fits.not_gt, if_false, unused, Bool.false_eq_true]

theorem putActs_unmapped {a : W48} {bytes : List W8} (some_bytes : bytes ≠ []) (h : (s.page (a.toNat / 2 ^ 20)).state = .unmapped) :
    putActs a bytes s = .done s 7 [a.toNat] := by
  simp only [putActs, List.isEmpty_iff, some_bytes, if_false]
  exact if_pos (.inr (.inr h))

theorem putActs_stores {a : W48} {bytes : List W8} (some_bytes : bytes ≠ []) (fits : a.toNat + bytes.length ≤ 2 ^ 39)
    (one_page : (a.toNat + bytes.length - 1) / 2 ^ 20 = a.toNat / 2 ^ 20) (mapped : (s.page (a.toNat / 2 ^ 20)).state ≠ .unmapped)
    (covered : ∀ x, uncovered s ((cellsAt a.toNat bytes).map (·.1)) x = false) : putActs a bytes s
      = .done (flushUnits (storeBytes (clearData s ((cellsAt a.toNat bytes).map (·.1))) (cellsAt a.toNat bytes))) 0 [] := by
  have allowed : ¬ (2 ^ 39 < a.toNat + bytes.length ∨ (a.toNat + bytes.length - 1) / 2 ^ 20 ≠ a.toNat / 2 ^ 20
      ∨ (s.page (a.toNat / 2 ^ 20)).state = .unmapped) := by
    rintro (long | pages | unmapped)
    · exact fits.not_gt long
    · exact pages one_page
    · exact mapped unmapped
  have none_bad : ((cellsAt a.toNat bytes).map (·.1)).filter (uncovered s ((cellsAt a.toNat bytes).map (·.1))) = [] := by simp [covered]
  simp only [putActs, List.isEmpty_iff, some_bytes, if_false, gt_iff_lt, allowed, none_bad]
  simp [covered]

end Bytes

/-! ## REGREAD and REGWRITE (R369, R371, R447, R504) -/

section Registers
variable {s t : State} {off : W48}

theorem jobRegreadActs_other (h : jobBlock off.toNat = false) (known : off.toNat / 2 ^ 20 ≤ 0xC) :
    jobRegreadActs off s = .done (frisketViolation s [off.toNat]) 2 [] := if_pos ⟨by simp [h], known⟩

theorem jobRegreadActs_absent (h : jobBlock off.toNat = true) (absent : readReg s off.toNat = none) :
    jobRegreadActs off s = .done s 7 [off.toNat] := by
  simp [jobRegreadActs, h, absent, refuse]

theorem jobRegreadActs_reads {v : Nat} (h : jobBlock off.toNat = true) (read : readReg s off.toNat = some v) : jobRegreadActs off s
    = if s.sec.frisket.jobView.getLsbD 2 then .done (clearRc s off.toNat) 0 [v] else .done s 0 [v &&& (2 ^ 64 - 1 - rcMask off.toNat)] := by
  simp [jobRegreadActs, h, read]

theorem jobRegwriteActs_other {v : W64} (h : jobBlock off.toNat = false) (known : off.toNat / 2 ^ 20 ≤ 0xC) :
    jobRegwriteActs off v s = .done (frisketViolation s [off.toNat]) 2 [] := if_pos ⟨by simp [h], known⟩

theorem jobRegwriteActs_done {v : W64} (h : jobBlock off.toNat = true) (w : writeReg off.toNat v (maskAt 0 64) false s = .done t) :
    jobRegwriteActs off v s = .done t 0 [] := by
  simp [jobRegwriteActs, h, w]

theorem jobRegwriteActs_ignored {v : W64} (h : jobBlock off.toNat = true) (w : writeReg off.toNat v (maskAt 0 64) false s = .ignored t) :
    jobRegwriteActs off v s = .done t 3 [off.toNat] := by
  simp [jobRegwriteActs, h, w]

end Registers

/-- Settles O37: each request in its turn by what its action answers. -/
theorem memoryAndRegisterRequests : Obligations.MemoryAndRegisterRequests := by
  intro s s1 j
  refine ⟨fun first count owner shared wp bin l h pos fits free half frames => ⟨?_, mem_mapPages .., fun i hi => ?_⟩,
    fun first count h pos fits => ⟨fun used => ?_, fun unused => ?_⟩,
    fun a bytes h some_bytes fits one_page => ⟨fun unmapped => ?_, fun mapped covered => ?_⟩,
    fun off h => ⟨fun own => ⟨fun v read => ⟨fun clears => ?_, fun keeps => ?_⟩, fun absent => ?_⟩, fun other known => ?_⟩,
    fun off v h => ⟨fun own => ⟨fun t w => ?_, fun t w => ?_⟩, fun other known => ?_⟩⟩
  · exact exec_answered (isRequest_map ..) h (mapActs_maps pos fits free half frames)
  · have entry := unlinked_mapPages (jobTaken s1 j (.map j first count owner shared wp bin)) first l owner shared wp
      (hi.trans_eq (length_framesFor frames).symm)
    exact ⟨congrArg (·.state) entry, congrArg (·.frame) entry, congrArg (·.owner) entry, congrArg (·.wp) entry, congrArg (·.shared) entry⟩
  · exact exec_waits (isRequest_unmap ..) h (unmapActs_waits pos fits used)
  · exact exec_answered (isRequest_unmap ..) h (unmapActs_unmaps pos fits unused)
  · exact exec_held (isRequest_put ..) h (putActs_unmapped some_bytes unmapped)
  · exact exec_held (isRequest_put ..) h (putActs_stores some_bytes fits one_page mapped covered)
  · exact exec_answered (isRequest_jobRegread ..) h ((jobRegreadActs_reads own read).trans (if_pos clears))
  · exact exec_answered (isRequest_jobRegread ..) h ((jobRegreadActs_reads own read).trans (if_neg (ne_true_of_eq_false keeps)))
  · exact exec_answered (isRequest_jobRegread ..) h (jobRegreadActs_absent own absent)
  · exact exec_answered (isRequest_jobRegread ..) h (jobRegreadActs_other other known)
  · exact exec_answered (isRequest_jobRegwrite ..) h (jobRegwriteActs_done own w)
  · exact exec_answered (isRequest_jobRegwrite ..) h (jobRegwriteActs_ignored own w)
  · exact exec_answered (isRequest_jobRegwrite ..) h (jobRegwriteActs_other other known)

end Sys2Proof.Machine
end

section
/-! # The state at power-good

Every table of `State.reset` is empty and every record is the one its structure's defaults give, so each of its values is found by
evaluation. -/

namespace Sys2Proof.Machine

open Sys2Proof

/-- Nothing has run: no byte is kept, no context is loaded, no Flume is open, no Race is up. -/
theorem reset_atRest : State.reset.Inv ∧ State.reset.pending = [] ∧ State.reset.mem = [] ∧ isReady State.reset = false
    ∧ State.reset.sec.phase = .noJob ∧ (∀ c, (State.reset.ctx c).state = .unloaded) ∧ (∀ f, (State.reset.flume f).state = .closed)
    ∧ ∀ r, (State.reset.race r).state = .off :=
  ⟨rfl, rfl, rfl, rfl, rfl, fun _ => rfl, fun _ => rfl, fun _ => rfl⟩

/-- No loaded context has taken from the pools of entries and of Editions. -/
theorem readReg_reset_pools : readReg State.reset 0x100700 = some 32768 ∧ readReg State.reset 0x300000 = some 8192 := by decide

/-- Counters and states that start at 0, STAGE and MSTATE among them (R459, R482). -/
theorem readReg_reset_zero :
    ∀ off ∈ [0x500000, 0x500100, 0x500200, 0x500300, 0x600200, 0x900000, 0xA00050, 0xB00000, 0xC00010, 0xC00040, 0xC00050],
      readReg State.reset off = some 0 := by decide

/-- The weights of MEM_ARB and the number of frames that are held in reserve. -/
theorem readReg_reset_mem : readReg State.reset 0xA00040 = some (1 * 2 ^ 13 + 3 * 2 ^ 9 + 4 * 2 ^ 5 + 12)
    ∧ readReg State.reset 0xA00048 = some 64 := by decide

/-- The fields with a reset value of their own in the blocks of the Galley, the host ports, the Imposition and the Miller. -/
theorem readReg_reset_config : readReg State.reset 0x400008 = some 1000 ∧ readReg State.reset 0x600000 = some (47210 * 2 ^ 23)
    ∧ readReg State.reset 0x600100 = some (512 * 2 ^ 10) ∧ readReg State.reset 0x900100 = some (2 ^ 19)
    ∧ readReg State.reset 0xC00800 = some (200 * 2 ^ 14 + 2) := by decide

/-- Settles O57: the tables are empty, and the registers read what the defaults give. -/
theorem resetState : Obligations.ResetState := by
  obtain ⟨hinv, hqueue, hmem, hready, hjob, hctx, hflume, hrace⟩ := reset_atRest
  obtain ⟨harb, hreserve⟩ := readReg_reset_mem
  exact ⟨hinv, hqueue, hmem, hready, hjob, fun c => hctx c, fun f => hflume f, fun r => hrace r, readReg_reset_pools, readReg_reset_zero,
    harb, hreserve, readReg_reset_config⟩

end Sys2Proof.Machine
end

section
/-! # Frames at a Flume

A sealed frame that its carrier delivers reaches its Flume when the check of the destination passes; what it does there then follows the
branches of the Flume's own functions (R260 to R271, R289 to R291, R393). -/

namespace Sys2Proof.Machine

open Sys2Proof

/-! ## Delivery at a Flume (R340) -/

section Delivery
variable {s s1 : State} {h : FrameHdr}

theorem onFlume_taken {typ : Nat} (hd : dstOk s h (typ == 4) = true) (detail : List Nat) (act : State → State) :
    onFlume h typ detail act s = afterFlume (act s) := if_pos hd

/-- `act` is what a Flume's frame of this type does at the Flume. -/
def IsFlumeFrame (h : FrameHdr) (c : Instr) (typ : Nat) (act : State → State) : Prop :=
  ∀ s, ∃ detail, deliverFrame c s = onFlume h typ detail act s

theorem exec_flumeFrame {c : Instr} {typ : Nat} {act : State → State} (k : IsFlumeFrame h c typ act) (ha : exec c s = arrive h c s)
    (hr : receive h c s = (s1, true)) (hd : dstOk s1 h (typ == 4) = true) :
    exec c s = .next (released h s1 (afterFlume (act s1))) := by
  obtain ⟨detail, frame⟩ := k s1
  rw [ha, arrive_delivered hr, frame, onFlume_taken hd]

end Delivery

section Kinds
variable {h : FrameHdr} {seq : W48} {step : W32}

theorem isFlumeFrame_mbhdr {no mbid ed len : W32} : IsFlumeFrame h (.mbhdr h seq step no mbid ed len) 0 (fun s =>
    mbArrives h.via h.dst.toNat seq.toNat step no mbid ed len (acceptRx h.dst.toNat s)) :=
  fun _ => ⟨_, rfl⟩

theorem isFlumeFrame_data {last : Bool} {seg : BitVec 18} {bytes : List W8} : IsFlumeFrame h (.data h seq last seg bytes) 1 (fun s =>
    dataArrives h.dst.toNat seq.toNat seg.toNat (segSize s h.via) last bytes s) :=
  fun _ => ⟨_, rfl⟩

theorem isFlumeFrame_receipt {what : BitVec 2} : IsFlumeFrame h (.receipt h seq step what) 3 (fun s =>
    if (s.flume h.dst.toNat).inbound ∨ onFabric s h ∨ what = 3 then s else receiptAt h.dst.toNat seq.toNat step.toNat what.toNat s) :=
  fun _ => ⟨_, rfl⟩

theorem isFlumeFrame_recallMb : IsFlumeFrame h (.recallMb h seq step) 3 (fun s =>
    if onFabric s h then s
    else if (s.flume h.dst.toNat).inbound then recallAtIn h.dst.toNat seq.toNat s
    else recallAtOut h.dst.toNat seq.toNat step s) :=
  fun _ => ⟨_, rfl⟩

theorem isFlumeFrame_grant {no : W32} : IsFlumeFrame h (.grant h no) 2 (fun s =>
    if (s.flume h.dst.toNat).inbound || onFabric s h then s else grantAt h.dst.toNat no.toNat s) :=
  fun _ => ⟨_, rfl⟩

theorem isFlumeFrame_openFlume {dir : Bool} {len4k : W16} : IsFlumeFrame h (.openFlume h dir len4k) 4 (fun s =>
    if onFabric s h then s else offerArrives h.via h.dst.toNat h.flume.toNat h.member.toNat dir len4k.toNat s) :=
  fun _ => ⟨_, rfl⟩

theorem isFlumeFrame_openack {dir : Bool} {len4k : W16} {result : BitVec 4} : IsFlumeFrame h (.openack h dir len4k result) 5 (fun s =>
    if onFabric s h ∨ (s.flume h.dst.toNat).state ≠ .opening then s
    else if result = 0 then enterOpen h.dst.toNat s
    else refuseOpen h.dst.toNat result.toNat s) :=
  fun _ => ⟨_, rfl⟩

/-- What a close message does at either end (R271). -/
def closeAt (f : Nat) (forced : Bool) (first : Nat) (s : State) : State :=
  if (s.flume f).inbound then
    enterClosed ((((s.flume f).issued.filter (fun g => decide (first ≤ g.1))).foldl (fun s g => releaseEntry s g.2) s).updFlume f
      (fun y => { y with issued := y.issued.filter (fun g => decide (g.1 < first)) })) f
  else startClose f forced s

theorem isFlumeFrame_close {forced : Bool} {last first : W32} : IsFlumeFrame h (.close h forced last first) 6 (fun s =>
    if onFabric s h then s else closeAt h.dst.toNat forced first.toNat s) :=
  fun _ => ⟨_, rfl⟩

theorem isFlumeFrame_token : IsFlumeFrame h (.token h step) 7 (fun s =>
    if onFabric s h then localToken h.dst.toNat step.toNat true s else tokenArrives h.dst.toNat step.toNat true s) :=
  fun _ => ⟨_, rfl⟩

theorem isFlumeFrame_notice : IsFlumeFrame h (.notice h step) 8 (fun s =>
    if onFabric s h then localToken h.dst.toNat step.toNat false s else tokenArrives h.dst.toNat step.toNat false s) :=
  fun _ => ⟨_, rfl⟩

end Kinds

/-! ## Micro-batches and their segments (R260 to R263, R393) -/

section MicroBatch
variable {s : State}

theorem mbArrives_next {via : Carrier} {f n : Nat} {step no mbid ed len : W32} {e : Nat × Nat} (inn : (s.flume f).inbound = true)
    (next : n = (s.flume f).seq + 1) (whole : len.toNat = (s.flume f).len)
    (issued : List.find? (fun g : Nat × Nat => g.1 == no.toNat) (s.flume f).issued = some e) :
    mbArrives via f n step no mbid ed len s = s.setFlume f { s.flume f with
      rx := some { seq := n, grantNo := no.toNat, step := step, mbid := mbid, edition := ed, len := len.toNat, recallSeen := false
                   entry := e.2 } } := by
  have above : ¬ n ≤ (s.flume f).seq := by omega
  simp only [mbArrives, inn, above, next.not_gt, issued, whole, Bool.not_true, Bool.false_eq_true, if_false, ne_eq, not_true]

theorem mbArrives_gap {via : Carrier} {f n : Nat} {step no mbid ed len : W32} (inn : (s.flume f).inbound = true)
    (gap : (s.flume f).seq + 1 < n) :
    mbArrives via f n step no mbid ed len s = logEvent s evSequenceGap scFlume f [n, (s.flume f).seq] := by
  have above : ¬ n ≤ (s.flume f).seq := by omega
  simp only [mbArrives, inn, above, gap, Bool.not_true, Bool.false_eq_true, if_false, if_true]

/-- The segment that is due goes to its place in the entry, and the micro-batch waits for the next one or is whole. -/
theorem dataArrives_due {f n k size : Nat} {last : Bool} {bytes : List W8} {v : Rx} {e : Entry} (rx : (s.flume f).rx = some v)
    (number : v.seq = n) (due : v.nextSeg = k) (incomplete : v.whole = false) (full : bytes.length = size)
    (entry : s.entry? v.entry = some e) (fresh : v.recallSeen = false) : dataArrives f n k size last bytes s
    = (writeMem s ((List.range size).zip bytes |>.map (fun p => (inAddr e (k * size + p.1), p.2)))).1.setFlume f
        { s.flume f with rx := some { v with nextSeg := k + 1, whole := last && decide (v.len ≤ (k + 1) * size) } } := by
  simp only [dataArrives, rx, number, due, incomplete, full, entry, fresh, ne_eq, not_true, Bool.false_eq_true, or_self, if_false,
    Bool.and_false]

end MicroBatch

/-! ## Receipts and recalls (R254, R264, R393) -/

section Receipt
variable (s : State) (f seq step : Nat)

theorem mem_receiptAt (what : Nat) : (receiptAt f seq step what s).mem = s.mem := by
  unfold receiptAt
  dsimp only
  split <;> rfl

/-- Whether a receipt names an item: WHAT 0 a micro-batch by its number, 1 a token and 2 a notice by its step (R290). -/
def TxItem.named (t : TxItem) (what : Nat) : Bool :=
  match t.kind with
  | .mb _ => what == 0 && t.seq == seq
  | .token n => what == 1 && n == step
  | .notice n => what == 2 && n == step

theorem flumes_receiptAt (what : Nat) : (receiptAt f seq step what s).flumes
    = (s.setFlume f { s.flume f with tx := (s.flume f).tx.filter (fun t => !(t.named seq step what)) }).flumes := by
  unfold receiptAt
  dsimp only
  split <;> rfl

theorem tx_receiptAt (what : Nat) :
    ((receiptAt f seq step what s).flume f).tx = (s.flume f).tx.filter (fun t => !(t.named seq step what)) := by
  rw [State.flume, flumes_receiptAt]
  exact congrArg Flume.tx (State.flume_setFlume_same ..)

/-- An item that a receipt leaves is none that it names. -/
theorem named_of_mem_receiptAt {what : Nat} {t : TxItem} (ht : t ∈ ((receiptAt f seq step what s).flume f).tx) :
    t.named seq step what = false := by
  rw [tx_receiptAt] at ht
  simpa using (List.mem_filter.1 ht).2

theorem pool_receiptAt : (receiptAt f seq step 0 s).pool = Tbl.mapV s.pool (fun _ e =>
    if e.pushed && e.outFlume == f && e.outSeq == seq then { e with rcpt := true } else e) := rfl

/-- The entry whose output a receipt names is marked. -/
theorem entry_receiptAt {e : Nat} {x : Entry} (entry : s.entry? e = some x) (pushed : x.pushed = true) (flume : x.outFlume = f)
    (number : x.outSeq = seq) : (receiptAt f seq step 0 s).entry? e = some { x with rcpt := true } := by
  rw [State.entry?, pool_receiptAt, Tbl.find?_mapV, show Tbl.find? s.pool e = some x from entry]
  simp [pushed, flume, number]

end Receipt

/-- Settles O23: a header by its number, a segment and a receipt by what they leave, a recall by the entry that it marks. -/
theorem microBatchesArrive : Obligations.MicroBatchesArrive := by
  intro s h s1 f hd carried no_fabric
  refine ⟨fun seq step no mbid ed len hr => ⟨fun inn next whole e issued => ?_, fun inn gap => ?_⟩,
    fun seq last seg bytes v e hr rx number due incomplete full entry fresh => ?_,
    fun seq step what hr out named => ?_, fun seq step e v hr inn entry recalled => ?_⟩
  · rw [exec_flumeFrame isFlumeFrame_mbhdr (if_neg (ne_true_of_eq_false carried)) hr hd, mbArrives_next inn next whole issued]
  · rw [exec_flumeFrame isFlumeFrame_mbhdr (if_neg (ne_true_of_eq_false carried)) hr hd, mbArrives_gap inn gap]
  · rw [exec_flumeFrame isFlumeFrame_data (if_neg (ne_true_of_eq_false carried)) hr hd,
      dataArrives_due rx number due incomplete full entry fresh, ← full, ← due]
    exact ⟨_, rfl, congrArg Flume.rx (State.flume_setFlume_same ..), rfl⟩
  · have act : ¬ ((s1.flume f).inbound = true ∨ onFabric s1 h = true ∨ what = 3) := by
      rw [out, no_fabric]
      simpa using named
    refine ⟨receiptAt f seq.toNat step.toNat what.toNat s1, ?_, mem_receiptAt .., fun mb t ht e kind => ?_,
      fun mb e x entry pushed flume number => ?_, fun token t ht kind => ?_, fun notice t ht kind => ?_⟩
    · rw [exec_flumeFrame isFlumeFrame_receipt rfl hr hd, if_neg act]
    · simpa [TxItem.named, kind, mb] using named_of_mem_receiptAt s1 f _ _ ht
    · subst mb
      exact entry_receiptAt s1 f _ _ entry pushed flume number
    · simpa [TxItem.named, kind, token] using named_of_mem_receiptAt s1 f _ _ ht
    · simpa [TxItem.named, kind, notice] using named_of_mem_receiptAt s1 f _ _ ht
  · have act : recallAtIn f seq.toNat s1 = s1.setEntry e { v with recalled := false, unrecoverable := true } := by
      simp only [recallAtIn, entry, recalled, if_true]
    rw [exec_flumeFrame isFlumeFrame_recallMb rfl hr hd, if_neg (ne_true_of_eq_false no_fabric), if_pos inn, act]

/-! ## Openings (R259, R270) -/

section Opening
variable {s : State} {via : Carrier} {f far member len4k : Nat} {dir : Bool}

/-- An offer that agrees with an end in OPENING opens it and is answered. -/
theorem offerArrives_agrees (ho : (s.flume f).state = .opening) (hk : openConflict (s.flume f) dir far member len4k = 0) :
    offerArrives via f far member dir len4k s
      = hold (enterOpen f s) (.frame f (.openack f (s.flume f).far (s.flume f).inbound ((s.flume f).len / 4096) 0)) := by
  simp only [offerArrives, ho, hk, if_true]

/-- One that conflicts is refused towards its sender, and closes the end. -/
theorem offerArrives_conflicts {k : Nat} (ho : (s.flume f).state = .opening)
    (hk : openConflict (s.flume f) dir far member len4k = k + 1) : offerArrives via f far member dir len4k s
      = refuseOpen f (k + 1) (sendOn s via (.openack f (s.flume f).far (s.flume f).inbound ((s.flume f).len / 4096) (k + 1))) := by
  simp only [offerArrives, ho, hk, if_true]

end Opening

/-! ## Tokens and notices (R289 to R291) -/

section Peer
variable {s : State} {c f j n : Nat} {p : Peer}

theorem recordPeer_newToken (hp : (s.ctx c).peers[j]? = some p) (new : ∀ m, p.lastToken = some m → m < n) :
    recordPeer s c j n true
      = journalPeer (s.updCtx c (fun x => { x with peers := x.peers.set j { p with lastToken := some n } })) c j := by
  simp only [recordPeer, hp, if_true]
  cases last : p.lastToken with
  | none => rfl
  | some m => exact if_neg (by simpa using new m last)

theorem recordPeer_oldToken {m : Nat} (hp : (s.ctx c).peers[j]? = some p) (last : p.lastToken = some m) (old : n ≤ m) :
    recordPeer s c j n true = s := by
  simp only [recordPeer, hp, last, old, if_true, decide_true]

theorem recordPeer_newNotice (hp : (s.ctx c).peers[j]? = some p) (new : ∀ m, p.lastNotice = some m → m < n) :
    recordPeer s c j n false
      = journalPeer (s.updCtx c (fun x => { x with peers := x.peers.set j { p with lastNotice := some n } })) c j := by
  simp only [recordPeer, hp, Bool.false_eq_true, if_false]
  cases last : p.lastNotice with
  | none => rfl
  | some m => exact if_neg (by simpa using new m last)

/-- What comes from a peer is recorded, and receipted either way. -/
theorem tokenArrives_peer {token : Bool} (inn : (s.flume f).inbound = true) (on : peerOn s (s.flume f).owner f = some j) :
    tokenArrives f n token s = hold (recordPeer s (s.flume f).owner j n token)
      (.frame f (.receipt f (s.flume f).far 0 (BitVec.ofNat 32 n) (if token then 1 else 2))) := by
  simp only [tokenArrives, inn, on, Bool.not_true, Bool.false_eq_true, if_false]

end Peer

/-- Settles O24: each frame by the branch of its Flume's state and direction. -/
theorem flumesOpenCloseAndCarry : Obligations.FlumesOpenCloseAndCarry := by
  refine ⟨fun s h s1 => ?_, fun s h step s1 j p => ?_⟩
  · intro f x carried
    refine ⟨fun dir len4k hr hd opening => ⟨fun agrees => ?_, fun k conflict => ?_⟩,
      fun dir len4k result hr hd opening => ⟨fun accepted => ?_, fun refused => ?_⟩,
      fun forced last first hr hd => ⟨fun inn => ?_, fun out => ?_⟩⟩
    · rw [exec_flumeFrame isFlumeFrame_openFlume rfl hr hd, if_neg (ne_true_of_eq_false carried), offerArrives_agrees opening agrees]
    · rw [exec_flumeFrame isFlumeFrame_openFlume rfl hr hd, if_neg (ne_true_of_eq_false carried), offerArrives_conflicts opening conflict]
    · have act : ¬ (onFabric s1 h = true ∨ x.state ≠ .opening) := by simp [carried, opening]
      rw [exec_flumeFrame isFlumeFrame_openack rfl hr hd, if_neg act, if_pos accepted]
    · have act : ¬ (onFabric s1 h = true ∨ x.state ≠ .opening) := by simp [carried, opening]
      rw [exec_flumeFrame isFlumeFrame_openack rfl hr hd, if_neg act, if_neg refused]
    · rw [exec_flumeFrame isFlumeFrame_close rfl hr hd, if_neg (ne_true_of_eq_false carried), closeAt, if_pos inn]
    · rw [exec_flumeFrame isFlumeFrame_close rfl hr hd, if_neg (ne_true_of_eq_false carried), closeAt,
        if_neg (ne_true_of_eq_false out)]
  · intro f c hd carried inn on peer
    have recorded {n : Nat} {token : Bool} := tokenArrives_peer (n := n) (token := token) inn on
    refine ⟨fun hr => ⟨fun new => ?_, fun m last old => ?_⟩, fun hr new => ?_⟩
    · rw [exec_flumeFrame isFlumeFrame_token rfl hr hd, if_neg (ne_true_of_eq_false carried), recorded, recordPeer_newToken peer new]
      rfl
    · rw [exec_flumeFrame isFlumeFrame_token rfl hr hd, if_neg (ne_true_of_eq_false carried), recorded, recordPeer_oldToken peer last old]
      rfl
    · rw [exec_flumeFrame isFlumeFrame_notice rfl hr hd, if_neg (ne_true_of_eq_false carried), recorded, recordPeer_newNotice peer new]
      rfl

end Sys2Proof.Machine
end

section
/-! # The job's requests at Flumes and contexts

FOPEN and FCLOSE by the state of the Flume, REWIND, ABANDON and ROLLBACK by whether the context rests (R259, R268, R270, R271, R292, R293,
R369, R371, R397). -/

namespace Sys2Proof.Machine

open Sys2Proof

section Kinds
variable {j : JobHdr}

theorem isRequest_fopen {f : Fin 1024} : IsRequest j (.fopen j f) 0x0040 false (fopenActs f) := ⟨fun _ => rfl, fun _ => rfl, rfl⟩

theorem isRequest_fclose {f : Fin 1024} {forced : Bool} : IsRequest j (.fclose j f forced) 0x0041 false (fcloseActs f forced) :=
  ⟨fun _ => rfl, fun _ => rfl, rfl⟩

theorem isRequest_rewind {c : Fin 32} {n : W32} {fwd bwd : Bool} :
    IsRequest j (.rewind j c n fwd bwd) 0x0050 false (rewindActs c n fwd bwd) :=
  ⟨fun _ => rfl, fun _ => rfl, rfl⟩

theorem isRequest_abandon {c : Fin 32} : IsRequest j (.abandon j c) 0x0051 false (abandonActs c) := ⟨fun _ => rfl, fun _ => rfl, rfl⟩

theorem isRequest_rollback {c : Fin 32} {n : W32} : IsRequest j (.rollback j c n) 0x0052 false (rollbackActs c n) :=
  ⟨fun _ => rfl, fun _ => rfl, rfl⟩

theorem isRequest_jobSubscribe {on : Bool} :
    IsRequest j (.jobSubscribe j on) 0x0060 false (jobSubscribeActs j.port j.session on) :=
  ⟨fun _ => rfl, fun _ => rfl, rfl⟩

end Kinds

section Flumes
variable {s : State} {f : Fin 1024}

theorem fopenActs_opens (h : fopenRefusal s f = none) : fopenActs f s = .done (afterFlume (startOpen f s)) 0 [] := by
  simp only [fopenActs, h]

theorem fopenActs_refused {k : Nat} {d : List Nat} (h : fopenRefusal s f = some (k, d)) : fopenActs f s = .done s k d := by
  simp only [fopenActs, h, refuse]

theorem fcloseActs_closed {forced : Bool} (h : (s.flume f).state = .closed) : fcloseActs f forced s = .done s 3 [f.val] := if_pos h

theorem fcloseActs_closes {forced : Bool} (h : (s.flume f).state ≠ .closed) :
    fcloseActs f forced s = .done (afterFlume (startClose f forced s)) 0 [] := if_neg h

end Flumes

section Recovery
variable {s : State} {c : Fin 32}

theorem rewindActs_rests {n : W32} {fwd bwd : Bool} (h : atRest (s.ctx c) = true) : rewindActs c n fwd bwd s
    = .done (settle (wakeAllReds (rewindStep c n.toNat fwd bwd (endBuckets s c (fun b => decide (n.toNat ≤ b.step)))))) 0 [] := by
  simp only [rewindActs, h, Bool.not_true, Bool.false_eq_true, if_false]

theorem rewindActs_runs {n : W32} {fwd bwd : Bool} (h : atRest (s.ctx c) = false) : rewindActs c n fwd bwd s = .done s 3 [c.val] := by
  simp only [rewindActs, h, Bool.not_false, if_true, refuse]

theorem abandonActs_rests (h : atRest (s.ctx c) = true) :
    abandonActs c s = .done (settle ((updatedShards s c).foldl abandonShard s)) 0 [] := by
  simp only [abandonActs, h, Bool.not_true, Bool.false_eq_true, if_false]

theorem abandonActs_runs (h : atRest (s.ctx c) = false) : abandonActs c s = .done s 3 [c.val] := by
  simp only [abandonActs, h, Bool.not_false, if_true, refuse]

/-- The state in which a rollback has taken back what stands above step n (R290, R293, R398). -/
def rolledBack (s : State) (c n : Nat) : State :=
  ((updatedShards s c).foldl (rollShard n) (endBuckets s c (fun b => decide (n < b.step)))).updCtx c (rollSteps n)

theorem rollbackActs_rests {n : W32} (h : atRest (s.ctx c) = true) (kept : ∀ sh ∈ updatedShards s c, keptEds s sh n.toNat ≠ []) :
    rollbackActs c n s = .done (settle (wakeAllReds (recountFrom (rolledBack s c n.toNat) c (n.toNat + 1)))) 0 [] := by
  have all_kept : (updatedShards s c).find? (fun sh => (keptEds s sh n.toNat).isEmpty) = none := by
    simpa [List.find?_eq_none] using kept
  simp only [rollbackActs, h, all_kept, Bool.not_true, Bool.false_eq_true, if_false]
  rfl

theorem rollbackActs_lacks {n : W32} {sh : Nat} (h : atRest (s.ctx c) = true)
    (lacks : (updatedShards s c).find? (fun sh => (keptEds s sh n.toNat).isEmpty) = some sh) :
    rollbackActs c n s = .done s 3 [sh] := by
  simp only [rollbackActs, h, lacks, Bool.not_true, Bool.false_eq_true, if_false, refuse]

theorem rollbackActs_runs {n : W32} (h : atRest (s.ctx c) = false) : rollbackActs c n s = .done s 3 [c.val] := by
  simp only [rollbackActs, h, Bool.not_false, if_true, refuse]

end Recovery

/-! ## What a rewind and a rollback leave at the context -/

theorem rstep_recountStep (s : State) (c : Nat) (x : Ctx) (n : Nat) : (recountStep s c x n).rstep = x.rstep := by
  unfold recountStep
  dsimp only
  split <;> rfl

/-- Counting the reductions of steps afresh leaves RSTEP. -/
theorem rstep_recountFrom (s : State) (c n : Nat) : ((recountFrom s c n).ctx c).rstep = (s.ctx c).rstep := by
  rw [recountFrom, ctx_updCtx_same]
  exact List.foldlRecOn _ _ (motive := fun x : Ctx => x.rstep = (s.ctx c).rstep) rfl
    (fun x kept m _ => (rstep_recountStep s c x m).trans kept)

theorem rstep_rewindStep (c n : Nat) (fwd bwd : Bool) (s : State) : ((rewindStep c n fwd bwd s).ctx c).rstep ≤ n := by
  rw [rewindStep, rstep_recountFrom, ctx_updCtx_same]
  exact Nat.min_le_right ..

theorem completed_rolledBack {s : State} {c n b k : Nat} (h : Tbl.find? ((rolledBack s c n).ctx c).completed b = some k) : k ≤ n := by
  rw [rolledBack, ctx_updCtx_same, rollSteps, Tbl.find?_mapV, Option.map_eq_some_iff] at h
  obtain ⟨m, -, rfl⟩ := h
  exact Nat.min_le_right ..

theorem noticed_rolledBack {s : State} {c n k : Nat} (h : ((rolledBack s c n).ctx c).noticed = some k) : k ≤ n := by
  rw [rolledBack, ctx_updCtx_same, rollSteps, Option.map_eq_some_iff] at h
  obtain ⟨m, -, rfl⟩ := h
  exact Nat.min_le_left ..

/-- Settles O38: each request in its turn by what its action answers. -/
theorem flumeAndRecoveryRequests : Obligations.FlumeAndRecoveryRequests := by
  intro s s1 j
  refine ⟨fun f h => ⟨fun opens => ?_, fun k d refused => ?_⟩, fun f forced h => ⟨fun closed => ?_, fun closes => ?_⟩,
    fun c n fwd bwd h => ⟨fun rests => ⟨?_, rstep_rewindStep ..⟩, fun runs => ?_⟩, fun c h => ⟨fun rests => ?_, fun runs => ?_⟩,
    fun c n h => ⟨fun rests => ⟨fun kept => ⟨rolledBack (jobTaken s1 j (.rollback j c n)) c n.toNat, ?_,
      fun b k => completed_rolledBack, fun k => noticed_rolledBack⟩, fun sh lacks => ?_⟩, fun runs => ?_⟩,
    fun on h => ?_⟩
  · exact exec_answered isRequest_fopen h (fopenActs_opens opens)
  · exact exec_answered isRequest_fopen h (fopenActs_refused refused)
  · exact exec_answered isRequest_fclose h (fcloseActs_closed closed)
  · exact exec_answered isRequest_fclose h (fcloseActs_closes closes)
  · exact exec_answered isRequest_rewind h (rewindActs_rests rests)
  · exact exec_answered isRequest_rewind h (rewindActs_runs runs)
  · exact exec_answered isRequest_abandon h (abandonActs_rests rests)
  · exact exec_answered isRequest_abandon h (abandonActs_runs runs)
  · exact exec_answered isRequest_rollback h (rollbackActs_rests rests kept)
  · exact exec_answered isRequest_rollback h (rollbackActs_lacks rests lacks)
  · exact exec_answered isRequest_rollback h (rollbackActs_runs runs)
  · exact exec_answered isRequest_jobSubscribe h rfl

end Sys2Proof.Machine
end

section
/-! # What leaves the Flumes as they are

Only the Flumes' own functions write the table of Flumes: what moves pages, bytes, entries and Editions, what halts, stops and signals a
context, and what a carrier sends leaves it. One lemma for each function that a settling of the contexts calls, in the model's order. -/

namespace Sys2Proof.Machine

open Sys2Proof

variable (s : State)

@[simp] theorem flumes_ite (c : Prop) [Decidable c] (s t : State) : (if c then s else t).flumes = if c then s.flumes else t.flumes :=
  apply_ite State.flumes c s t

@[simp] theorem flumes_foldl {α : Type} {f : State → α → State} (h : ∀ s x, (f s x).flumes = s.flumes) (l : List α) (s : State) :
    (l.foldl f s).flumes = s.flumes := foldl_keeps State.flumes h l s

/-! ## Units and stores (`Machine/Ops`) -/

@[simp] theorem flumes_updQuern (q : Nat) (g : Quern → Quern) : (s.updQuern q g).flumes = s.flumes := rfl
@[simp] theorem flumes_updCtx (c : Nat) (g : Ctx → Ctx) : (s.updCtx c g).flumes = s.flumes := rfl

@[simp] theorem flumes_updEntry (e : Nat) (g : Entry → Entry) : (s.updEntry e g).flumes = s.flumes := by
  unfold State.updEntry
  split <;> rfl

@[simp] theorem flumes_enqueueSession (p n cls : Nat) (fr : Frame) : (enqueueSession s p n cls fr).flumes = s.flumes := rfl

@[simp] theorem flumes_shrinkSet (set n k : Nat) : (shrinkSet set n k s).flumes = s.flumes := by
  induction k generalizing s with
  | zero => rfl
  | succ k ih =>
    unfold shrinkSet
    split
    · rfl
    · split
      · exact ih _
      · rfl

@[simp] theorem flumes_setLine (l : Nat) (v : StoreLine) : (setLine s l v).flumes = s.flumes := by simp [setLine]

@[simp] theorem flumes_useLine (l : Nat) : (useLine s l).flumes = s.flumes := by
  unfold useLine
  split <;> rfl

@[simp] theorem flumes_dirtyLine (l : Nat) : (dirtyLine s l).flumes = s.flumes := by
  unfold dirtyLine
  split <;> simp

@[simp] theorem flumes_clearMark (f g : Nat) : (clearMark s f g).flumes = s.flumes := by
  unfold clearMark
  dsimp only
  split
  · split
    · exact flumes_foldl (by intros; rfl) _ _
    · rfl
  · rfl

@[simp] theorem flumes_noteUnits (as : List Nat) : (noteUnits s as).flumes = s.flumes := by simp [noteUnits]

@[simp] theorem flumes_storeData (ws : List (Nat × W8)) : (storeData s ws).flumes = s.flumes := by simp [storeData, storeBytes, markData]

@[simp] theorem flumes_writeMem (ws : List (Nat × W8)) : (writeMem s ws).1.flumes = s.flumes := by
  unfold writeMem
  dsimp only
  split
  · rfl
  · split <;> simp

/-! ## Moves that are cancelled (`Machine/Copy`) -/

@[simp] theorem flumes_forgetSpecial (ws : List (Nat × W8)) : (forgetSpecial s ws).flumes = s.flumes := by
  refine flumes_foldl (fun s w => ?_) ws s
  split
  · split <;> rfl
  · rfl

@[simp] theorem flumes_deliver (q : Nat) (o : MoveOut) : (deliver s q o).1.flumes = s.flumes := by
  cases o with
  | mem ws =>
    have written := flumes_writeMem s ws
    unfold deliver
    dsimp only
    split
    · next e =>
      rw [e] at written
      exact (flumes_forgetSpecial ..).trans written
    · exact written
  | status n t => rfl
  | desc n d => rfl

@[simp] theorem flumes_cancelMove (q : Nat) (m : Move) : (cancelMove s q m).flumes = s.flumes := by
  unfold cancelMove
  split <;> simp

/-! ## Contexts (`Machine/Context`) -/

@[simp] theorem flumes_chainPages (tail : Option Nat) (l : List Nat) : (chainPages tail l s).flumes = s.flumes :=
  (congrArg State.flumes (besideMap_chainPages s tail l) :)

theorem flumes_takePages {c n : Nat} {shared : Bool} {l : List Nat} {t : State} (h : takePages s c n shared = some (l, t)) :
    t.flumes = s.flumes := by
  unfold takePages at h
  dsimp only at h
  split at h <;> cases h
  exact (flumes_foldl (by intros; rfl) _ _).trans (flumes_chainPages ..)

@[simp] theorem flumes_returnPages (c : Nat) (l : List Nat) : (returnPages s c l).flumes = s.flumes :=
  (flumes_chainPages ..).trans (flumes_foldl (by intros; rfl) l s)

@[simp] theorem flumes_revertEntries (h : Nat) (p : Entry → Bool) : (revertEntries s h p).flumes = s.flumes := by simp [revertEntries]

@[simp] theorem flumes_dropRefs (refs : List Nat) : (dropRefs s refs).flumes = s.flumes :=
  flumes_foldl (by intros; rfl) refs s

@[simp] theorem flumes_releaseEntry (h : Nat) : (releaseEntry s h).flumes = s.flumes := by
  unfold releaseEntry
  split <;> simp

@[simp] theorem flumes_stopCtx (c code idx : Nat) (detail : List Nat) : (stopCtx s c code idx detail).flumes = s.flumes := by
  simp [stopCtx, reportError]

@[simp] theorem flumes_abandonOn (c q : Nat) : (abandonOn s c q).flumes = s.flumes := by
  unfold abandonOn
  dsimp only
  split <;> simp

@[simp] theorem flumes_haltCtx (c : Nat) : (haltCtx s c).flumes = s.flumes := by simp [haltCtx]

@[simp] theorem flumes_haltFor (cause c : Nat) : (haltFor cause s c).flumes = s.flumes := by simp [haltFor]

@[simp] theorem flumes_stopHeld : (stopHeld s).flumes = s.flumes := flumes_foldl (by intros; rfl) _ s

@[simp] theorem flumes_haltData (c : Nat) (as : List Nat) : (haltData s c as).flumes = s.flumes := by
  unfold haltData
  split <;> simp

@[simp] theorem flumes_stageSignalBy (c idx tok n : Nat) : (stageSignalBy s c idx tok n).flumes = s.flumes := by simp [stageSignalBy]

@[simp] theorem flumes_lateSignal (c no idx : Nat) (sen : Bool) (tok : Nat) : (lateSignal s c no idx sen tok).flumes = s.flumes := by
  simp [lateSignal]

@[simp] theorem flumes_stepEvent : (stepEvent s).flumes = s.flumes := by
  unfold stepEvent
  split <;> simp

@[simp] theorem flumes_releaseClosed : (releaseClosed s).flumes = s.flumes := by simp [releaseClosed]

@[simp] theorem flumes_closeStep (c n : Nat) : (closeStep c n s).flumes = s.flumes := by simp [closeStep]

@[simp] theorem flumes_settleTo (sh n : Nat) (commit : Bool) : (settleTo s sh n commit).flumes = s.flumes := by
  unfold settleTo
  dsimp only
  split <;> rfl

@[simp] theorem flumes_freeEdition (e : Nat) : (freeEdition s e).flumes = s.flumes := by simp [freeEdition]

@[simp] theorem flumes_freeRetiring (e : Nat) : (freeRetiring s e).flumes = s.flumes := by
  unfold freeRetiring
  dsimp only
  split
  · split <;> simp
  · rfl

@[simp] theorem flumes_commitEdition (e : Nat) : (commitEdition s e).flumes = s.flumes := by simp [commitEdition]

@[simp] theorem flumes_firePends (c : Nat) : (firePends c s).flumes = s.flumes := by
  refine (flumes_foldl (fun s p => ?_) _ _).trans (State.flumes_setCtx ..)
  dsimp only
  split <;> simp

/-! ## Carriers and the journal (`Machine/Link`) -/

@[simp] theorem flumes_haltSender (seg : Nat) (fr : Frame) : (haltSender seg s fr).flumes = s.flumes := by
  unfold haltSender
  split <;> simp

@[simp] theorem flumes_emitPacket (p n psn : Nat) (fr : Frame) : (emitPacket s p n psn fr).flumes = s.flumes := by
  simp [emitPacket, drawCtr]

@[simp] theorem flumes_sessionSend (p n lim k : Nat) : (sessionSend p n lim k s).flumes = s.flumes := by
  induction k generalizing s with
  | zero => rfl
  | succ k ih =>
    unfold sessionSend
    dsimp only
    split
    · rfl
    · split
      · rfl
      · split <;> simp [ih]

@[simp] theorem flumes_queueSession (p n : Nat) (fr : Frame) : (queueSession s p n fr).flumes = s.flumes := by
  simp [queueSession, sessionPump]

@[simp] theorem flumes_sendGuest (fr : Frame) : (sendGuest s fr).flumes = s.flumes := by
  unfold sendGuest
  split
  · split <;> rfl
  · rfl

@[simp] theorem flumes_sendOn (c : Carrier) (fr : Frame) : (sendOn s c fr).flumes = s.flumes := by
  cases c with
  | race r => rfl
  | host p n => exact flumes_queueSession ..
  | fabric => exact flumes_sendGuest ..

@[simp] theorem flumes_journal (sub : Nat) (body : List Nat) (bytes : List W8) : (journal s sub body bytes).flumes = s.flumes := by
  obtain ⟨_, _, h⟩ := journal_eq s sub body bytes
  rw [h]

@[simp] theorem flumes_journalFor (c sub : Nat) (body : List Nat) : (journalFor s c sub body).flumes = s.flumes := by
  simp [journalFor]

@[simp] theorem flumes_flushUnits : (flushUnits s).flumes = s.flumes := by simp [flushUnits]

@[simp] theorem flumes_journalPages (n : Nat) (l : List Nat) : (journalPages n l s).flumes = s.flumes := by
  induction n generalizing s l with
  | zero => rfl
  | succ n ih => simp [journalPages, ih]

@[simp] theorem flumes_journalEd (e : Nat) : (journalEd s e).flumes = s.flumes := flumes_journalFor ..
@[simp] theorem flumes_journalFreed (v : EdEnt) : (journalFreed s v).flumes = s.flumes := flumes_journalFor ..
@[simp] theorem flumes_journalStep (c n : Nat) (recs : List Nat) : (journalStep s c n recs).flumes = s.flumes := flumes_journalFor ..
@[simp] theorem flumes_journalFlume (f : Nat) : (journalFlume s f).flumes = s.flumes := flumes_journalFor ..

@[simp] theorem flumes_respondNow (p n : Nat) (fr : Frame) : (respondNow s p n fr).flumes = s.flumes := by simp [respondNow]

/-! ## What follows by itself (`Machine/Stage`) -/

@[simp] theorem flumes_setWindow (sh : Nat) (new : List Nat) : (setWindow s sh new).flumes = s.flumes :=
  (congrArg State.flumes (besideMap_setWindow s sh new) :)

@[simp] theorem flumes_addRefs (h : Nat) (l : List Nat) : (addRefs s h l).flumes = s.flumes := by
  unfold addRefs
  split
  · split
    · exact flumes_foldl (by intros; rfl) _ _
    · rfl
  · rfl

theorem flumes_wakeDispatch {c : Nat} {d : Deferred} {t : State} (h : wakeDispatch c d s = some t) : t.flumes = s.flumes := by
  unfold wakeDispatch at h
  dsimp only at h
  split at h
  · cases h
  · split at h
    · cases h
      refine (flumes_foldl (by intros; rfl) _ _).trans ?_
      split
      · exact flumes_addRefs ..
      · rfl
    · cases h
      exact flumes_stopCtx ..

@[simp] theorem flumes_commitAll (c : Nat) : (commitAll c s).flumes = s.flumes := by simp [commitAll]

@[simp] theorem flumes_freeAll (c : Nat) : (freeAll c s).flumes = s.flumes := by simp [freeAll]

@[simp] theorem flumes_closeAll (c : Nat) : (closeAll c s).flumes = s.flumes := by simp [closeAll]

end Sys2Proof.Machine
end

section
/-! # The next grant number of an open Flume never falls

A Flume's next grant number rises when a grant counts (R262), and only an opening or a takeover sets it back: no sending, no closing and
nothing that follows by itself lowers it. -/

namespace Sys2Proof.Machine

open Sys2Proof

/-- Flume f counts grants from n on, or from a higher number. -/
def GrantsReach (f n : Nat) (s : State) : Prop := n ≤ (s.flume f).nextGrant

variable {f n : Nat} {s t : State}

theorem reach_of_flumes (e : t.flumes = s.flumes) (h : GrantsReach f n s) : GrantsReach f n t := by
  unfold GrantsReach State.flume at *
  rwa [e]

theorem reach_ite {c : Prop} [Decidable c] (hs : GrantsReach f n s) (ht : GrantsReach f n t) : GrantsReach f n (if c then s else t) := by
  split
  · exact hs
  · exact ht

theorem reach_ite_fst {α : Type} {c : Prop} [Decidable c] {x y : State × α} (hx : GrantsReach f n x.1) (hy : GrantsReach f n y.1) :
    GrantsReach f n (if c then x else y).1 := by
  split
  · exact hx
  · exact hy

theorem reach_foldl {α : Type} {g : State → α → State} (hg : ∀ s x, GrantsReach f n s → GrantsReach f n (g s x)) (l : List α)
    (h : GrantsReach f n s) : GrantsReach f n (l.foldl g s) :=
  List.foldlRecOn l g (motive := GrantsReach f n) h (fun s hs x _ => hg s x hs)

theorem reach_setFlume {g : Nat} {x : Flume} (hx : (s.flume g).nextGrant ≤ x.nextGrant) (h : GrantsReach f n s) :
    GrantsReach f n (s.setFlume g x) := by
  unfold GrantsReach at *
  obtain rfl | ne := eq_or_ne f g
  · rw [State.flume_setFlume_same]
    exact h.trans hx
  · rwa [State.flume_setFlume_ne _ _ _ _ ne]

/-! ## Sending and granting (R262, R264) -/

theorem reach_sendOn {c : Carrier} {fr : Frame} (h : GrantsReach f n s) : GrantsReach f n (sendOn s c fr) :=
  reach_of_flumes (flumes_sendOn ..) h

theorem reach_pumpOne {g : Nat} (h : GrantsReach f n s) : GrantsReach f n (pumpOne g s).1 := by
  have marked {x : Flume} (hx : x.nextGrant = (s.flume g).nextGrant) : GrantsReach f n (s.setFlume g x) := reach_setFlume hx.ge h
  have halted (o : Option Frame) : GrantsReach f n (o.elim s (haltSender 2048 s)) := by
    cases o with
    | none => exact h
    | some fr => exact reach_of_flumes (flumes_haltSender ..) h
  unfold pumpOne
  dsimp only
  split
  · refine reach_ite_fst h ?_
    split
    · refine reach_ite_fst (halted _) ?_
      split
      · exact reach_foldl (fun _ _ => reach_sendOn) _ (marked rfl)
      · exact reach_ite_fst h (reach_foldl (fun _ _ => reach_sendOn) _ (reach_of_flumes (flumes_updEntry ..) (marked rfl)))
      · exact h
    · exact reach_ite_fst h (reach_sendOn (marked rfl))
    · exact reach_ite_fst h (reach_sendOn (marked rfl))
  · exact h

theorem reach_pump {g : Nat} (h : GrantsReach f n s) : GrantsReach f n (pump g s) := by
  unfold pump
  generalize (s.flume g).tx.length = k
  induction k generalizing s with
  | zero => exact h
  | succ k ih =>
    have one := reach_pumpOne (g := g) h
    unfold pumpMany
    split
    · next e => rw [e] at one; exact ih one
    · next e => rwa [e] at one

theorem reach_enterTx {g : Nat} {t : TxItem} (h : GrantsReach f n s) : GrantsReach f n (enterTx s g t) :=
  reach_pump (reach_setFlume le_rfl h)

theorem reach_enterTurn {g : Nat} {t : TxItem} (h : GrantsReach f n s) : GrantsReach f n (enterTurn s g t) :=
  reach_ite (reach_enterTx h) (reach_of_flumes rfl h)

theorem reach_receiptAt {g seq step what : Nat} (h : GrantsReach f n s) : GrantsReach f n (receiptAt g seq step what s) :=
  reach_of_flumes (flumes_receiptAt ..) (reach_setFlume le_rfl h)

/-- A grant that counts raises the number, and any other leaves it. -/
theorem reach_grantAt {g no : Nat} (h : GrantsReach f n s) : GrantsReach f n (grantAt g no s) := by
  unfold grantAt
  dsimp only
  split
  · exact h
  · split
    · split
      · exact h
      · exact reach_pump (reach_setFlume (Nat.le_max_left ..) h)
    · split
      · exact h
      · next fresh => exact reach_pump (reach_setFlume (by dsimp only; omega) h)

theorem reach_sendFlume {g : Nat} {fr : Frame} (h : GrantsReach f n s) : GrantsReach f n (sendFlume s g fr) := by
  unfold sendFlume
  split
  · refine reach_ite (reach_of_flumes (flumes_sendGuest ..) h) ?_
    cases fr with
    | grant => exact reach_grantAt h
    | receipt => exact reach_receiptAt h
    | _ => exact h
  · exact reach_ite h (reach_sendOn h)
  · exact h

/-! ## What waits for the twin, and what follows by itself (R49, R267, R289 to R291, R401) -/

theorem reach_hold {a : HeldAct} (h : GrantsReach f n s) : GrantsReach f n (hold s a) := by
  refine reach_ite (reach_of_flumes rfl h) ?_
  cases a with
  | entryReady e => exact reach_of_flumes (flumes_updEntry ..) h
  | txEnter g t => exact reach_enterTx h
  | frame g fr => exact reach_sendFlume h
  | signal c no idx sen tok => exact reach_of_flumes (flumes_lateSignal ..) h
  | respond p n fr => exact reach_of_flumes (flumes_respondNow ..) h
  | notice c n => exact reach_foldl (fun _ _ => reach_enterTurn) _ h
  | redStart b => exact h
  | redEnd b c no idx sen tok => exact reach_ite (reach_of_flumes (flumes_lateSignal ..) h) h
  | release => exact reach_of_flumes (flumes_releaseClosed ..) h

theorem reach_wakeEdopen {c : Nat} {d : Deferred} (e : wakeEdopen c d s = some t) (h : GrantsReach f n s) : GrantsReach f n t := by
  unfold wakeEdopen at e
  dsimp only at e
  split at e
  · cases e
  · next taken =>
    cases e
    exact reach_hold (reach_of_flumes (by simp [flumes_takePages _ taken]) h)

theorem reach_wakeEdpend {c : Nat} {d : Deferred} (e : wakeEdpend c d s = some t) (h : GrantsReach f n s) : GrantsReach f n t := by
  unfold wakeEdpend at e
  dsimp only at e
  split at e
  · cases e
    exact h
  · split at e
    · cases e
    · cases e
      exact reach_hold (reach_of_flumes (by simp) h)

theorem reach_wakeOne {c : Nat} {d : Deferred} (h : GrantsReach f n s) : GrantsReach f n (wakeOne c d s) := by
  unfold wakeOne
  dsimp only
  split
  · next woken =>
    refine reach_of_flumes (flumes_updCtx ..) ?_
    split at woken
    · exact reach_wakeEdopen woken h
    · exact reach_wakeEdpend woken h
    · exact reach_of_flumes (flumes_wakeDispatch _ woken) h
  · exact h

theorem reach_noticeStep {c k : Nat} (h : GrantsReach f n s) : GrantsReach f n (noticeStep c k s) := reach_ite (reach_hold h) h

theorem reach_settleCtx {c : Nat} (h : GrantsReach f n s) : GrantsReach f n (settleCtx s c) := by
  unfold settleCtx
  extract_lets s1 s2 s3 s4 s5
  have h2 : GrantsReach f n s2 := reach_foldl (fun _ _ => reach_noticeStep) _ (reach_of_flumes (flumes_commitAll ..) h)
  have h3 : GrantsReach f n s3 := reach_foldl (fun _ _ h => reach_ite (reach_wakeOne h) h) _ h2
  have h4 : GrantsReach f n s4 := reach_of_flumes (flumes_closeAll ..) h3
  have h5 : GrantsReach f n s5 := reach_ite (reach_hold h4) h4
  exact reach_of_flumes ((flumes_firePends ..).trans (flumes_freeAll ..)) h5

theorem reach_settle (h : GrantsReach f n s) : GrantsReach f n (settle s) := by
  have round {s : State} (h : GrantsReach f n s) : GrantsReach f n (settleRound s) := reach_foldl (fun _ _ => reach_settleCtx) _ h
  exact round (round (round h))

/-! ## Closing (R271) -/

theorem reach_setFlumeState {g : Nat} {st : FlumeState} (h : GrantsReach f n s) : GrantsReach f n (setFlumeState s g st) :=
  reach_ite h (reach_of_flumes ((flumes_journalFlume ..).trans (flumes_logEvent ..)) (reach_setFlume le_rfl h))

theorem reach_enterClosed {g : Nat} (h : GrantsReach f n s) : GrantsReach f n (enterClosed s g) :=
  reach_setFlumeState (reach_setFlume le_rfl (reach_foldl (fun s _ => reach_of_flumes (flumes_releaseEntry s _)) _ h))

theorem reach_sendClose {g : Nat} (h : GrantsReach f n s) : GrantsReach f n (sendClose s g) :=
  have closed : GrantsReach f n (enterClosed s g) := reach_enterClosed h
  reach_ite (reach_enterClosed closed) (reach_ite closed (reach_hold closed))

theorem reach_afterFlume (h : GrantsReach f n s) : GrantsReach f n (afterFlume s) :=
  reach_settle (reach_foldl (fun _ _ h => reach_ite (reach_sendClose h) h) _ h)

end Sys2Proof.Machine
end

section
/-! # A grant that a takeover context's Flume holds already

A Flume of a takeover context passes over a grant that it holds (R264, R408), whatever its next grant number is. The statement about GRANT
names no such premise: it wants the number appended and counted, and no state in which it has been counted settles into the one in which
it has not. -/

namespace Sys2Proof.Machine

open Sys2Proof

/-- An outbound Flume on Race 0 towards Flume 9 of member 2: it holds grant 1, and its next grant number is 1 as well. -/
def holdingFlume : Flume := { cfg := 9 <<< 29, route := 1 + (2 <<< 34), state := .openF, path := some (.race 0), grants := [1] }

/-- A job in which Flume 1 is such a Flume of context 0, which has been taken over, and Race 0 is attested to member 2. -/
def takeoverState : State :=
  { State.reset with
    sec := { State.reset.sec with phase := .admitted, incs := [(2, 1)] }
    races := [(0, { state := .attested, lanes := 0xFF, peer := some (2, 1) })]
    ctxs := [(0, { state := .running, takeover := true })]
    flumes := [(1, holdingFlume)] }

/-- The first frame of Flume 9 of member 2 on Race 0, for Flume 1: it grants number 1. -/
def repeatedHdr : FrameHdr :=
  { via := .race 0, ver := 1, typeOk := true, member := 2, inc := 1, flume := 9, cls := 2, ctr := 1, seqNo := 1, ackNo := 0
    slotLimit := 0, window := 0, tagOk := true, dst := 1 }

def repeatedGrant : Instr := .grant repeatedHdr 1

/-- The state in which the grant is received. -/
def grantReceived : State := (receive repeatedHdr repeatedGrant takeoverState).1

theorem flume_grantReceived : grantReceived.flume repeatedHdr.dst.toNat = holdingFlume := by decide +kernel

/-- The grant has no effect: what follows is what follows by itself. -/
theorem exec_repeatedGrant : exec repeatedGrant takeoverState = .next (afterFlume grantReceived) := by
  have got : receive repeatedHdr repeatedGrant takeoverState = (grantReceived, true) := Prod.ext rfl (by decide +kernel)
  have passed_over : grantAt repeatedHdr.dst.toNat (1 : W32).toNat grantReceived = grantReceived := by
    have taken : (grantReceived.ctx holdingFlume.owner).takeover = true := by decide +kernel
    have held : holdingFlume.grants.contains (1 : W32).toNat = true := by decide
    simp only [grantAt, flume_grantReceived, taken, held, Bool.true_or, if_true, ite_self]
  have act : ((grantReceived.flume repeatedHdr.dst.toNat).inbound || onFabric grantReceived repeatedHdr) = false := by decide +kernel
  rw [repeatedGrant, exec_flumeFrame isFlumeFrame_grant rfl got (by decide +kernel), if_neg (ne_true_of_eq_false act), passed_over]
  exact congrArg Host.Outcome.next (released_empty (by decide +kernel) _)

/-- Refutes O22: a takeover context's Flume that holds grant 1 passes over it, so its next grant number stays 1 where the statement wants 2. -/
theorem not_grantsAndAcceptance : ¬ Obligations.GrantsAndAcceptance := by
  intro h
  obtain ⟨-, grant, -⟩ := h takeoverState (by decide +kernel)
  obtain ⟨u, run, -, counted, -⟩ := grant repeatedHdr 1 grantReceived (Prod.ext rfl (by decide +kernel)) (by decide +kernel)
    (by decide +kernel) (by decide +kernel) (by decide +kernel) (by decide +kernel)
  have kept : released repeatedHdr grantReceived (afterFlume (pump repeatedHdr.dst.toNat u)) = afterFlume grantReceived := by
    injection run.symm.trans exec_repeatedGrant
  rw [released_empty (by decide +kernel)] at kept
  have reached : GrantsReach repeatedHdr.dst.toNat 2 (afterFlume (pump repeatedHdr.dst.toNat u)) :=
    reach_afterFlume (reach_pump counted.ge)
  rw [kept] at reached
  exact absurd reached (by unfold GrantsReach; decide +kernel)

end Sys2Proof.Machine
end

section
/-! # Frames of a reduction

A reduction frame that its carrier delivers goes through the checks of R310, R312 and R320 in their order: it belongs to no completed step and
to no past round, it came on a link of its bucket, and it agrees with the bucket. Each lemma here is one way through these checks. -/

namespace Sys2Proof.Machine

open Sys2Proof

/-- A frame finds its bucket running here: its step is not completed, and its round is not one before the bucket's (R312). -/
structure FindsBucket (s : State) (id : RedId) (b : Bucket) : Prop where
  incomplete : redCompleted s id = false
  running : redBucket s id = some b
  current : b.past (scaledBefore s id) id = false

/-- Whether a round expects the unit of a frame on a link, at the frame's HOP (R311). -/
def Bucket.expects (b : Bucket) (id : RedId) (l : Nat) : Bool :=
  decide (8 * id.chunk.toNat + id.blk.toNat < b.nu) && (b.ins (8 * id.chunk.toNat + id.blk.toNat)).contains (l, id.hop.toNat)

/-- Whether the neighbour of a link may send: it has a credit left, or has begun a chunk (R310). -/
def Bucket.creditedOn (b : Bucket) (l : Nat) : Bool := decide (b.given.getD l 0 > 0) || b.opened.any (fun c => c.1 == l)

section Unit
variable {s : State} {h : FrameHdr} {id : RedId} {b : Bucket} {l p nb : Nat} {hdr : W64} {lines : List W64} {err : LineError}

/-- The unit that a RED carries is one that the bucket expects on the link `l`, whose neighbour may send it (R310, R311). -/
structure UnitOnLink (s : State) (h : FrameHdr) (id : RedId) (b : Bucket) (l : Nat) : Prop where
  fit : (linksOf s (s.galley.links.getD id.btag.toNat []) h).find? (fun l => b.expects id l) = some l
  credited : b.creditedOn l = true

theorem UnitOnLink.any_credited (on : UnitOnLink s h id b l) :
    (linksOf s (s.galley.links.getD id.btag.toNat []) h).any (fun l => b.creditedOn l) = true :=
  List.any_eq_true.2 ⟨l, List.mem_of_find?_eq_some on.fit, on.credited⟩

/-- The comparison of R320 comes before all that the unit itself decides. -/
theorem redArrives_conflicts {k : Nat} (found : FindsBucket s id b) (on : UnitOnLink s h id b l)
    (conflict : b.conflict id p nb (b.gathers true l id.hop.toNat) = some k) :
    redArrives h id hdr p nb lines err s = redMismatch b k s := by
  obtain ⟨incomplete, running, current⟩ := found
  have any_credited := on.any_credited
  have fit := on.fit
  simp only [Bucket.expects, Bucket.creditedOn] at fit any_credited
  simp only [redArrives, incomplete, running, current, any_credited, fit, conflict, Option.getD_some, Bool.not_true, Bool.false_eq_true,
    if_false]

/-- A unit that agrees, is new and has a Forme is added. -/
theorem redArrives_accepts (found : FindsBucket s id b) (on : UnitOnLink s h id b l)
    (agrees : b.conflict id p nb (b.gathers true l id.hop.toNat) = none)
    (unseen : b.seen.contains (l, id.hop.toNat, 8 * id.chunk.toNat + id.blk.toNat) = false)
    (forme : b.opened.contains (l, id.hop.toNat, id.chunk.toNat) = true ∨ b.given.getD l 0 > 0) :
    redArrives h id hdr p nb lines err s = acceptUnit b l id hdr lines err s := by
  obtain ⟨incomplete, running, current⟩ := found
  have any_credited := on.any_credited
  have fit := on.fit
  simp only [Bucket.expects, Bucket.creditedOn] at fit any_credited
  simp only [redArrives, incomplete, running, current, any_credited, fit, agrees, unseen, forme, Option.getD_some, Bool.not_true,
    Bool.false_eq_true, if_false, if_true]

end Unit

section Redack
variable {s : State} {h : FrameHdr} {id : RedId} {b : Bucket} {l n : Nat}

/-- A REDACK is of the round that its bucket runs: its ROUND, its kind of round and its SCHED are the bucket's (R320). -/
structure OfRound (id : RedId) (b : Bucket) : Prop where
  round : id.round = BitVec.ofNat 8 b.round
  scale : (id.phase == 0) = b.isScale
  sched : id.sched.toNat = b.sched

/-- In a round that is no scale round, no frame's PHASE is the scale phase. -/
theorem OfRound.not_scale_frame (now : OfRound id b) : ¬ (id.phase = 0 ∧ ¬ b.isScale = true) := by
  rintro ⟨phase, data⟩
  exact data (now.scale ▸ beq_iff_eq.2 phase)

theorem isEmpty_eq_false_of_find? {ls : List Nat} {f : Nat → Bool} (fit : ls.find? f = some l) : ls.isEmpty = false :=
  List.isEmpty_eq_false_iff_exists_mem.2 ⟨l, List.mem_of_find?_eq_some fit⟩

/-- A credit of the round goes to the first link of its frame that has not counted it. -/
theorem redackArrives_credit (found : FindsBucket s id b) (now : OfRound id b)
    (fit : (linksOf s b.desc.links h).find? (fun l => !(b.creditSeen.contains (l, id.hop.toNat, id.chunk.toNat))) = some l) :
    redackArrives h id true n s = pumpRed b.bid (s.setBucket { b with
      credits := b.credits.upd l 0 (· + n), creditSeen := b.creditSeen ++ [(l, id.hop.toNat, id.chunk.toNat)] }) := by
  obtain ⟨incomplete, running, current⟩ := found
  have some_link := isEmpty_eq_false_of_find? fit
  simp only [redackArrives, incomplete, running, current, some_link, now.round, now.scale, now.not_scale_frame, now.sched, fit, beq_self_eq_true,
    bne_self_eq_false, Bool.not_true, Bool.or_self, Bool.false_eq_true, if_false, ne_eq, not_true, true_and, if_true]

/-- An acknowledgement goes to the first link of its frame on which its chunk was sent. -/
theorem redackArrives_ack (found : FindsBucket s id b) (now : OfRound id b)
    (fit : (linksOf s b.desc.links h).find? (fun l => b.unacked.contains (l, id.hop.toNat, id.chunk.toNat)) = some l) :
    redackArrives h id false n s = ackArrives b (l, id.hop.toNat, id.chunk.toNat) s := by
  obtain ⟨incomplete, running, current⟩ := found
  have some_link := isEmpty_eq_false_of_find? fit
  simp only [redackArrives, incomplete, running, current, some_link, now.round, now.scale, now.not_scale_frame, now.sched, fit, beq_self_eq_true,
    bne_self_eq_false, Bool.not_true, Bool.or_self, Bool.false_eq_true, if_false, ne_eq, not_true, true_and]

end Redack

section Delivery
variable {s s1 : State} {h : FrameHdr} {id : RedId}

/-- A RED from outside the fabric of LOCAL Flumes is a sealed frame like any other. -/
theorem exec_red_delivered {hdr : W64} {p : BitVec 12} {nb : BitVec 24} {lines : List W64} {err : LineError} (outside : h.via ≠ .fabric)
    (hr : receive h (.red h id hdr p nb lines err) s = (s1, true)) :
    exec (.red h id hdr p nb lines err) s = .next (released h s1 (settle (redArrives h id hdr p.toNat nb.toNat lines err s1))) := by
  refine Eq.trans ?_ (arrive_delivered hr)
  change execRed .. = _
  unfold execRed
  split
  · next via => exact absurd via outside
  · rfl

theorem exec_redack_delivered {credit : Bool} {n : BitVec 5} (outside : h.via ≠ .fabric)
    (hr : receive h (.redack h id credit n) s = (s1, true)) :
    exec (.redack h id credit n) s = .next (released h s1 (redackArrives h id credit n.toNat s1)) := by
  refine Eq.trans ?_ (arrive_delivered hr)
  change execRedack .. = _
  unfold execRedack
  split
  · next via => exact absurd via outside
  · rfl

end Delivery

/-- Settles O26: each frame by the way that it takes through the checks. -/
theorem reductionFrames : Obligations.ReductionFrames := by
  intro s h id s1 b outside incomplete running current
  have found : FindsBucket s1 id b := ⟨incomplete, running, current⟩
  refine ⟨fun hdr p nb lines err l hr fit credited => ⟨fun agrees unseen forme => ?_, fun k conflict => ?_⟩,
    fun n l round scale sched => ⟨fun hr fit => ?_, fun hr fit => ?_⟩⟩
  · rw [exec_red_delivered outside hr, redArrives_accepts found ⟨fit, credited⟩ agrees unseen forme]
  · rw [exec_red_delivered outside hr, redArrives_conflicts found ⟨fit, credited⟩ conflict]
  · rw [exec_redack_delivered outside hr, redackArrives_credit found ⟨round, scale, sched⟩ fit]
  · rw [exec_redack_delivered outside hr, redackArrives_ack found ⟨round, scale, sched⟩ fit]

end Sys2Proof.Machine
end

section
/-! # Rounds, buckets and Formes

A bucket that a command names runs; its phase and what its round has decided choose the branch (R306, R314 to R317, R321). -/

namespace Sys2Proof.Machine

open Sys2Proof

/-! ## The decision of a data round (R313, R314, R316) -/

section Decision
variable {s : State} {b : Bucket}

/-- A round without overflow and without a lost line is the final one. -/
theorem dataDone_final (clean : ∀ x ∈ b.hdrs, x.ovf = false ∧ x.rep = false) : dataDone b s = s.setBucket { b with phase := .complete } := by
  have no_overflow : b.hdrs.any (·.ovf) = false := List.any_eq_false.2 fun x hx => ne_true_of_eq_false (clean x hx).1
  have no_repeat : b.hdrs.any (·.rep) = false := List.any_eq_false.2 fun x hx => ne_true_of_eq_false (clean x hx).2
  simp only [dataDone, no_overflow, no_repeat, Bool.false_and, Bool.false_eq_true, if_false]

/-- A round with an overflow Regrinds the bucket, as long as it has been Regrinded less than twice and no scale round has followed. -/
theorem dataDone_regrinds (overflow : b.hdrs.any (·.ovf) = true) (unscaled : b.rescaled = false) (few : b.regrinds < 2) :
    dataDone b s = nextRound { b with
        e := (b.e.zip b.hdrs).map (fun x => if x.2.ovf then min 32767 (x.1 + x.2.ovb + 1) else x.1), regrinds := b.regrinds + 1
        round := b.round + 1 } { s with galley := { s.galley with regrinds := satAdd s.galley.regrinds 1 65535 } } := by
  simp only [dataDone, overflow, unscaled, few, Bool.not_false, Bool.and_self, if_true]

end Decision

/-! ## The bucket that a command names (R321) -/

section Running
variable {s : State} {c : Fin 32} {btag : BitVec 12} {b : Bucket} (clocked : s.board.haltedByClock = false)
  (running : runningRed s c btag.toNat = some b)
include clocked running

theorem exec_roundComplete_data (data : b.phase = .data) (done : b.roundDone = true) :
    exec (.roundComplete c btag) s = .next (settle (wakeReds c (dataDone b s))) := by
  have no_scale : b.isScale = false := by simp [Bucket.isScale, data]
  refine (whileClocked_runs clocked _).trans ?_
  simp only [running, done, no_scale, Bool.not_true, Bool.false_eq_true, if_false]

theorem exec_bucketComplete_complete (complete : b.phase = .complete) :
    exec (.bucketComplete c btag) s = .next (settle (wakeReds c (completeBucket b s))) := by
  refine (whileClocked_runs clocked _).trans ?_
  simp only [running, complete, if_true]

theorem exec_galleyStall_running :
    exec (.galleyStall c btag) s = .next (logEvent { s with galley := { s.galley with stalls := satAdd s.galley.stalls 1 65535 } }
      evGalleyStall scBucket b.btag [b.step, b.stallPhase, b.awaited.2, b.awaited.1]) := by
  refine (whileClocked_runs clocked _).trans ?_
  simp only [running]

end Running

/-! ## The end of a bucket (R315, R317, R390) -/

/-- A bucket whose arrays can be written and hold no NF is recorded, journaled and finished. -/
theorem completeBucket_finite {s s1 : State} {b : Bucket} (written : writeMem s b.outBytes = (s1, none))
    (finite : ∀ k < b.desc.nb, (b.finalHdr k).nf = false) : completeBucket b s
    = finishRed b false (journalStep (flushUnits (s1.updCtx b.ctx (recordDone b))) b.ctx b.step [b.btag, 1, b.step]) := by
  have none_bad : (List.range b.desc.nb).filter (fun k => (b.finalHdr k).nf) = [] :=
    List.filter_eq_nil_iff.2 fun k hk => ne_true_of_eq_false (finite k (List.mem_range.1 hk))
  simp only [completeBucket, written, none_bad, List.isEmpty_nil, Bool.not_true]

/-! ## Formes with lost lines (R316, R470) -/

theorem exec_formeDisable_unused {s : State} {f : Fin 16} (clocked : s.board.haltedByClock = false)
    (in_service : s.galley.disabled.contains f.val = false) (lost : 2 ≤ s.galley.lost.getD f 0)
    (unheld : ∀ b ∈ s.galley.buckets, b.formes.contains f.val = false) :
    exec (.formeDisable f) s = .next (overlapping false s (lowerQuota (addDefect (logEvent
      { s with galley := { s.galley with disabled := s.galley.disabled ++ [f.val] } } evFormeDisabled scPackage 0 [f.val]) 0x0A 3 0 f 0))) := by
  have no_holder : s.galley.buckets.any (fun b => b.formes.contains f.val) = false :=
    List.any_eq_false.2 fun b hb => ne_true_of_eq_false (unheld b hb)
  refine (whileClocked_runs clocked _).trans ?_
  simp only [in_service, lost.not_gt, no_holder, Bool.false_eq_true, or_self, if_false]

/-- Settles O27: each command by the bucket or the Forme that it names. -/
theorem roundsBucketsAndFormes : Obligations.RoundsBucketsAndFormes := by
  refine ⟨fun s c btag b clocked running => ⟨fun data done => ⟨fun clean => ?_, fun overflow unscaled few => ?_⟩,
    fun complete s1 written finite => ?_⟩, fun s clocked => ⟨fun c btag b running => ?_, fun f in_service lost unheld => ?_⟩⟩
  · rw [exec_roundComplete_data clocked running data done, dataDone_final clean]
  · rw [exec_roundComplete_data clocked running data done, dataDone_regrinds overflow unscaled few]
  · rw [exec_bucketComplete_complete clocked running complete, completeBucket_finite written finite]
  · exact exec_galleyStall_running clocked running
  · exact exec_formeDisable_unused clocked in_service lost unheld

end Sys2Proof.Machine
end

section
/-! # The components that a command leaves as they are

`touched` names for every command the components that it may change. `State.outside s K` is the state `s` without the components of `K`;
a function of the model that changes no component but those of a list `T` keeps it for every `K` that holds `T`. There is one lemma for
each function that a command calls, in the model's order and each resting on those of the functions that it calls: `outside_f` for a
function that answers a state, `stays_f` for one that answers an outcome. Where a proof first goes over to `T` itself (`outside_mono`),
what the functions inside it touch is compared with `T` by computation. -/

namespace Sys2Proof.Machine

open Sys2Proof

/-! ## The state without some components -/

/-- Every component of `T` is one of `K`. -/
def within (T K : List Component) : Bool := T.all K.contains

theorem within_trans {S T K : List Component} (h : within T K = true) (hS : within S T = true) : within S K = true := by
  simp only [within, List.all_eq_true, List.contains_iff_mem] at *
  exact fun k hk => h k (hS k hk)

/-- The state without the components of `K`. -/
def State.outside (s : State) (K : List Component) : State :=
  { part := if within [.part] K then State.reset.part else s.part
    freeCtr := if within [.freeCtr] K then State.reset.freeCtr else s.freeCtr
    timeNs := if within [.timeNs] K then State.reset.timeNs else s.timeNs
    mem := if within [.mem] K then State.reset.mem else s.mem
    mm := if within [.mm] K then State.reset.mm else s.mm
    querns := if within [.querns] K then State.reset.querns else s.querns
    ctxs := if within [.ctxs] K then State.reset.ctxs else s.ctxs
    hoppers := if within [.hoppers] K then State.reset.hoppers else s.hoppers
    pool := if within [.pool] K then State.reset.pool else s.pool
    nextEntry := if within [.nextEntry] K then State.reset.nextEntry else s.nextEntry
    flumes := if within [.flumes] K then State.reset.flumes else s.flumes
    eds := if within [.eds] K then State.reset.eds else s.eds
    shards := if within [.shards] K then State.reset.shards else s.shards
    galley := if within [.galley] K then State.reset.galley else s.galley
    races := if within [.races] K then State.reset.races else s.races
    racePorts := if within [.racePorts] K then State.reset.racePorts else s.racePorts
    hosts := if within [.hosts] K then State.reset.hosts else s.hosts
    sec := if within [.sec] K then State.reset.sec else s.sec
    mil := if within [.mil] K then State.reset.mil else s.mil
    boot := if within [.boot] K then State.reset.boot else s.boot
    pwr := if within [.pwr] K then State.reset.pwr else s.pwr
    pair := if within [.pair] K then State.reset.pair else s.pair
    board := if within [.board] K then State.reset.board else s.board
    grantStalls := if within [.grantStalls] K then State.reset.grantStalls else s.grantStalls
    ipWait := if within [.ipWait] K then State.reset.ipWait else s.ipWait
    cookieSecret := if within [.cookieSecret] K then State.reset.cookieSecret else s.cookieSecret
    cookiePrev := if within [.cookiePrev] K then State.reset.cookiePrev else s.cookiePrev
    cookieEpoch := if within [.cookieEpoch] K then State.reset.cookieEpoch else s.cookieEpoch
    stepEventBase := if within [.stepEventBase] K then State.reset.stepEventBase else s.stepEventBase
    stepEventLow := if within [.stepEventLow] K then State.reset.stepEventLow else s.stepEventLow
    out := if within [.out] K then State.reset.out else s.out
    pending := if within [.pending] K then State.reset.pending else s.pending }

theorem same_of_outside {s t : State} {K : List Component} (h : t.outside K = s.outside K) {k : Component} (hk : k ∉ K) : Same s t k := by
  have hw : within [k] K = false := by simpa [within] using hk
  have field {α : Type} {f : State → α} {r : α} (hf : ∀ s : State, f (s.outside K) = if within [k] K then r else f s) : f t = f s := by
    simpa [hf, hw] using congrArg f h
  cases k with
  | part => exact field fun _ => rfl
  | freeCtr => exact field fun _ => rfl
  | timeNs => exact field fun _ => rfl
  | mem => exact field fun _ => rfl
  | mm => exact field fun _ => rfl
  | querns => exact field fun _ => rfl
  | ctxs => exact field fun _ => rfl
  | hoppers => exact field fun _ => rfl
  | pool => exact field fun _ => rfl
  | nextEntry => exact field fun _ => rfl
  | flumes => exact field fun _ => rfl
  | eds => exact field fun _ => rfl
  | shards => exact field fun _ => rfl
  | galley => exact field fun _ => rfl
  | races => exact field fun _ => rfl
  | racePorts => exact field fun _ => rfl
  | hosts => exact field fun _ => rfl
  | sec => exact field fun _ => rfl
  | mil => exact field fun _ => rfl
  | boot => exact field fun _ => rfl
  | pwr => exact field fun _ => rfl
  | pair => exact field fun _ => rfl
  | board => exact field fun _ => rfl
  | grantStalls => exact field fun _ => rfl
  | ipWait => exact field fun _ => rfl
  | cookieSecret => exact field fun _ => rfl
  | cookiePrev => exact field fun _ => rfl
  | cookieEpoch => exact field fun _ => rfl
  | stepEventBase => exact field fun _ => rfl
  | stepEventLow => exact field fun _ => rfl
  | out => exact field fun _ => rfl
  | pending => exact field fun _ => rfl

theorem outside_outside {T K : List Component} (hK : within T K) (s : State) : (s.outside T).outside K = s.outside K := by
  have h (k) (hT : within [k] K = false) : within [k] T = false := by
    cases hk : within [k] T with
    | false => rfl
    | true => exact absurd (within_trans hK hk) (by simp [hT])
  have field {α : Type} (k : Component) (r a : α) :
      (if within [k] K then r else if within [k] T then r else a) = if within [k] K then r else a := by
    cases hk : within [k] K with
    | true => rfl
    | false => simp [h k hk]
  simp only [State.outside, field]

theorem outside_mono {T K : List Component} (hK : within T K) {s t : State} (h : t.outside T = s.outside T) :
    t.outside K = s.outside K := by
  rw [← outside_outside hK t, h, outside_outside hK]

theorem mem_mono {α : Type} {T K : List Component} (hK : within T K) {s : State} {o : Option α} {f : α → State}
    (h : ∀ t ∈ o, (f t).outside T = s.outside T) : ∀ t ∈ o, (f t).outside K = s.outside K := fun t ht => outside_mono hK (h t ht)

/-- A field is the one of `s`, or a component of `K`. -/
abbrev SameOr {α : Type} (k : Component) (K : List Component) (a b : α) : Prop := if within [k] K then True else a = b

theorem SameOr.ite {α : Type} {k : Component} {K : List Component} {a b : α} (h : SameOr k K a b) (r : α) :
   (if within [k] K then r else a) = (if within [k] K then r else b) := by
  unfold SameOr at h
  split
  · rfl
  · next hk => rwa [if_neg hk] at h

/-- An update of fields that are components of `K` leaves the state outside `K` as it was. -/
@[simp] theorem outside_update (s : State) (K : List Component)
    {freeCtr timeNs mem mm querns ctxs hoppers pool nextEntry flumes eds shards galley races
    racePorts hosts sec mil boot pwr pair board grantStalls ipWait cookieSecret cookiePrev cookieEpoch stepEventBase stepEventLow out}
    (h_freeCtr : SameOr .freeCtr K freeCtr s.freeCtr) (h_timeNs : SameOr .timeNs K timeNs s.timeNs) (h_mem : SameOr .mem K mem s.mem)
    (h_mm : SameOr .mm K mm s.mm) (h_querns : SameOr .querns K querns s.querns) (h_ctxs : SameOr .ctxs K ctxs s.ctxs)
    (h_hoppers : SameOr .hoppers K hoppers s.hoppers) (h_pool : SameOr .pool K pool s.pool)
    (h_nextEntry : SameOr .nextEntry K nextEntry s.nextEntry) (h_flumes : SameOr .flumes K flumes s.flumes)
    (h_eds : SameOr .eds K eds s.eds) (h_shards : SameOr .shards K shards s.shards) (h_galley : SameOr .galley K galley s.galley)
    (h_races : SameOr .races K races s.races) (h_racePorts : SameOr .racePorts K racePorts s.racePorts)
    (h_hosts : SameOr .hosts K hosts s.hosts) (h_sec : SameOr .sec K sec s.sec) (h_mil : SameOr .mil K mil s.mil)
    (h_boot : SameOr .boot K boot s.boot) (h_pwr : SameOr .pwr K pwr s.pwr) (h_pair : SameOr .pair K pair s.pair)
    (h_board : SameOr .board K board s.board) (h_grantStalls : SameOr .grantStalls K grantStalls s.grantStalls)
    (h_ipWait : SameOr .ipWait K ipWait s.ipWait) (h_cookieSecret : SameOr .cookieSecret K cookieSecret s.cookieSecret)
    (h_cookiePrev : SameOr .cookiePrev K cookiePrev s.cookiePrev) (h_cookieEpoch : SameOr .cookieEpoch K cookieEpoch s.cookieEpoch)
    (h_stepEventBase : SameOr .stepEventBase K stepEventBase s.stepEventBase)
    (h_stepEventLow : SameOr .stepEventLow K stepEventLow s.stepEventLow) (h_out : SameOr .out K out s.out) :
    ({ s with freeCtr, timeNs, mem, mm, querns, ctxs, hoppers, pool, nextEntry, flumes, eds, shards,
              galley, races, racePorts, hosts, sec, mil, boot, pwr, pair, board, grantStalls,
              ipWait, cookieSecret, cookiePrev, cookieEpoch, stepEventBase, stepEventLow, out } : State).outside K = s.outside K := by
  simp only [State.outside,
    h_freeCtr.ite, h_timeNs.ite, h_mem.ite, h_mm.ite, h_querns.ite, h_ctxs.ite, h_hoppers.ite, h_pool.ite, h_nextEntry.ite,
    h_flumes.ite, h_eds.ite, h_shards.ite, h_galley.ite, h_races.ite, h_racePorts.ite, h_hosts.ite, h_sec.ite, h_mil.ite, h_boot.ite,
    h_pwr.ite, h_pair.ite, h_board.ite, h_grantStalls.ite, h_ipWait.ite, h_cookieSecret.ite, h_cookiePrev.ite, h_cookieEpoch.ite,
    h_stepEventBase.ite, h_stepEventLow.ite, h_out.ite]

@[simp] theorem outside_ite (K : List Component) (c : Prop) [Decidable c] (s t : State) :
    (if c then s else t).outside K = if c then s.outside K else t.outside K := apply_ite (State.outside · K) c s t

@[simp] theorem outside_ite_fst {α : Type} (K : List Component) (c : Prop) [Decidable c] (p q : State × α) :
    (if c then p else q).1.outside K = if c then p.1.outside K else q.1.outside K :=
  apply_ite (fun p : State × α => p.1.outside K) c p q

theorem outside_of_fst {α : Type} {K : List Component} {p : State × α} {s t : State} {a : α} (h : p = (t, a))
    (hp : p.1.outside K = s.outside K) : t.outside K = s.outside K := by
  rw [← hp, h]

@[simp] theorem outside_foldl {α : Type*} {K : List Component} {f : State → α → State} (h : ∀ s x, (f s x).outside K = s.outside K)
    (l : List α) (s : State) : (l.foldl f s).outside K = s.outside K := by
  induction l generalizing s with
  | nil => rfl
  | cons x l ih => rw [List.foldl_cons, ih, h]

theorem outside_foldl_fst {α β : Type} {K : List Component} {f : State × β → α → State × β}
    (h : ∀ p x, (f p x).1.outside K = p.1.outside K) (l : List α) (p : State × β) : (l.foldl f p).1.outside K = p.1.outside K := by
  induction l generalizing p with
  | nil => rfl
  | cons x l ih => rw [List.foldl_cons, ih, h]

theorem outside_elim {α : Type} {K : List Component} {s : State} {f : α → State} (h : ∀ a, (f a).outside K = s.outside K)
    (o : Option α) : (o.elim s f).outside K = s.outside K := by
  cases o with
  | none => rfl
  | some a => exact h a

/-- The outcome is a next state that is `s` outside `K`. -/
def Stays (K : List Component) (s : State) (r : Res) : Prop := ∃ t, r = .next t ∧ t.outside K = s.outside K

theorem stays_mono {T K : List Component} (hK : within T K) {s : State} {r : Res} (h : Stays T s r) : Stays K s r :=
  h.imp fun _ ⟨hr, ht⟩ => ⟨hr, outside_mono hK ht⟩

@[simp] theorem stays_next (K : List Component) (s t : State) : Stays K s (.next t) ↔ t.outside K = s.outside K := by simp [Stays]

@[simp] theorem stays_ite (K : List Component) (s : State) (c : Prop) [Decidable c] (q r : Res) :
    Stays K s (if c then q else r) ↔ if c then Stays K s q else Stays K s r := by split <;> rfl

theorem Stays.of_outside {K : List Component} {s u : State} {r : Res} (h : Stays K u r) (hu : u.outside K = s.outside K) :
    Stays K s r := by
  unfold Stays at *
  rwa [← hu]

@[simp] theorem stays_whileClocked (K : List Component) (s : State) (r : Res) :
    Stays K s (whileClocked s r) ↔ s.board.haltedByClock = true ∨ Stays K s r := by
  unfold whileClocked
  split <;> simp [*]

theorem stays_andThen {K : List Component} {s : State} {r : Res} {f : State → State} (h : Stays K s r)
    (hf : ∀ s, (f s).outside K = s.outside K) : Stays K s (andThen r f) := by
  obtain ⟨t, rfl, ht⟩ := h
  simpa using (hf t).trans ht

/-! ## Ops (`Machine/Ops`) -/

@[simp] theorem outside_setQuern {K} (hK : within [.querns] K) (s : State) (q v) : (State.setQuern s q v).outside K = s.outside K :=
  outside_mono hK (by simp +decide [State.setQuern])

@[simp] theorem outside_updQuern {K} (hK : within [.querns] K) (s : State) (q f) : (State.updQuern s q f).outside K = s.outside K :=
  outside_mono hK (by simp +decide [State.updQuern])

@[simp] theorem outside_setCtx {K} (hK : within [.ctxs] K) (s : State) (c v) : (State.setCtx s c v).outside K = s.outside K :=
  outside_mono hK (by simp +decide [State.setCtx])

@[simp] theorem outside_updCtx {K} (hK : within [.ctxs] K) (s : State) (c f) : (State.updCtx s c f).outside K = s.outside K :=
  outside_mono hK (by simp +decide [State.updCtx])

@[simp] theorem outside_setHopper {K} (hK : within [.hoppers] K) (s : State) (h v) : (State.setHopper s h v).outside K = s.outside K :=
  outside_mono hK (by simp +decide [State.setHopper])

@[simp] theorem outside_setEntry {K} (hK : within [.pool] K) (s : State) (e v) : (State.setEntry s e v).outside K = s.outside K :=
  outside_mono hK (by simp +decide [State.setEntry])

@[simp] theorem outside_updEntry {K} (hK : within [.pool] K) (s : State) (e f) : (State.updEntry s e f).outside K = s.outside K := by
  refine outside_mono hK ?_
  unfold State.updEntry
  split <;> simp +decide

@[simp] theorem outside_setFlume {K} (hK : within [.flumes] K) (s : State) (f v) : (State.setFlume s f v).outside K = s.outside K :=
  outside_mono hK (by simp +decide [State.setFlume])

@[simp] theorem outside_updFlume {K} (hK : within [.flumes] K) (s : State) (f g) : (State.updFlume s f g).outside K = s.outside K :=
  outside_mono hK (by simp +decide [State.updFlume])

@[simp] theorem outside_setEd {K} (hK : within [.eds] K) (s : State) (e v) : (State.setEd s e v).outside K = s.outside K :=
  outside_mono hK (by simp +decide [State.setEd])

@[simp] theorem outside_setShard {K} (hK : within [.shards] K) (s : State) (i v) : (State.setShard s i v).outside K = s.outside K :=
  outside_mono hK (by simp +decide [State.setShard])

@[simp] theorem outside_setRace {K} (hK : within [.races] K) (s : State) (r v) : (State.setRace s r v).outside K = s.outside K :=
  outside_mono hK (by simp +decide [State.setRace])

@[simp] theorem outside_updRace {K} (hK : within [.races] K) (s : State) (r f) : (State.updRace s r f).outside K = s.outside K :=
  outside_mono hK (by simp +decide [State.updRace])

@[simp] theorem outside_setRacePort {K} (hK : within [.racePorts] K) (s : State) (a v) :
    (State.setRacePort s a v).outside K = s.outside K :=
  outside_mono hK (by simp +decide [State.setRacePort])

@[simp] theorem outside_setHost {K} (hK : within [.hosts] K) (s : State) (a v) : (State.setHost s a v).outside K = s.outside K :=
  outside_mono hK (by simp +decide [State.setHost])

@[simp] theorem outside_updHost {K} (hK : within [.hosts] K) (s : State) (a f) : (State.updHost s a f).outside K = s.outside K :=
  outside_mono hK (by simp +decide [State.updHost])

@[simp] theorem outside_setSession {K} (hK : within [.hosts] K) (s : State) (a n v) :
    (State.setSession s a n v).outside K = s.outside K :=
  outside_mono hK (by simp +decide [State.setSession])

@[simp] theorem outside_setStone {K} (hK : within [.pwr] K) (s : State) (n v) : (State.setStone s n v).outside K = s.outside K :=
  outside_mono hK (by simp +decide [State.setStone])

@[simp] theorem outside_updStone {K} (hK : within [.pwr] K) (s : State) (n f) : (State.updStone s n f).outside K = s.outside K :=
  outside_mono hK (by simp +decide [State.updStone])

@[simp] theorem outside_emit {K} (hK : within [.out] K) (s : State) (o) : (State.emit s o).outside K = s.outside K :=
  outside_mono hK (by simp +decide [State.emit])

@[simp] theorem outside_flashWrite {K} (hK : within [.out] K) (s : State) : (flashWrite s).outside K = s.outside K :=
  outside_mono hK (by simp +decide [flashWrite])

@[simp] theorem outside_nextFree {K} (hK : within [.freeCtr] K) (s : State) : (State.nextFree s).outside K = s.outside K :=
  outside_mono hK (by simp +decide [State.nextFree])

@[simp] theorem outside_enqueueSession {K} (hK : within [.hosts] K) (s : State) (a n cls f) :
    (enqueueSession s a n cls f).outside K = s.outside K :=
  outside_mono hK (by simp +decide [enqueueSession])

@[simp] theorem outside_toSubscribers {K} (hK : within [.hosts] K) (s : State) (f) : (toSubscribers s f).outside K = s.outside K :=
  outside_mono hK (by simp +decide [toSubscribers])

@[simp] theorem outside_recordEvent {K} (hK : within eventsSet K) (s : State) (code scope id detail) :
    (recordEvent s code scope id detail).outside K = s.outside K :=
  outside_mono hK (by simp +decide [recordEvent])

@[simp] theorem outside_logEvent {K} (hK : within eventsSet K) (s : State) (code scope id detail) :
    (logEvent s code scope id detail).outside K = s.outside K :=
  outside_mono hK (by simp +decide [logEvent])

@[simp] theorem outside_addDefect {K} (hK : within (.boot :: eventsSet) K) (s : State) (kind source action location detail) :
    (addDefect s kind source action location detail).outside K = s.outside K :=
  outside_mono hK (by simp +decide [addDefect])

@[simp] theorem outside_setPage {K} (hK : within [.mm] K) (s : State) (a e) : (State.setPage s a e).outside K = s.outside K :=
  outside_mono hK (by simp +decide [State.setPage])

@[simp] theorem outside_eraseLine {K} (hK : within [.mm] K) (s : State) (l) : (eraseLine l s).outside K = s.outside K :=
  outside_mono hK (by simp +decide [eraseLine])

@[simp] theorem outside_shrinkSet {K} (hK : within [.mm] K) (s : State) (set n k) : (shrinkSet set n k s).outside K = s.outside K := by
  refine outside_mono hK ?_
  induction k generalizing s with
  | zero => rfl
  | succ fuel ih =>
    unfold shrinkSet
    split
    · rfl
    · split <;> simp +decide [ih]

@[simp] theorem outside_setLine {K} (hK : within [.mm] K) (s : State) (l v) : (setLine s l v).outside K = s.outside K :=
  outside_mono hK (by simp +decide [setLine])

@[simp] theorem outside_useLine {K} (hK : within [.mm] K) (s : State) (l) : (useLine s l).outside K = s.outside K := by
  refine outside_mono hK ?_
  unfold useLine
  split <;> simp +decide

@[simp] theorem outside_dropLine {K} (hK : within [.freeCtr, .mem, .mm] K) (s : State) (l) : (dropLine s l).outside K = s.outside K := by
  refine outside_mono hK ?_
  unfold dropLine
  split <;> simp +decide

@[simp] theorem outside_pinLine {K} (hK : within [.mm] K) (s : State) (l owner) : (pinLine s l owner).outside K = s.outside K :=
  outside_mono hK (by simp +decide [pinLine])

@[simp] theorem outside_hintLine {K} (hK : within [.mm] K) (s : State) (hint owner l) :
    (hintLine s hint owner l).outside K = s.outside K := by
  refine outside_mono hK ?_
  unfold hintLine
  (repeat' split) <;> simp +decide

@[simp] theorem outside_touchLine {K} (hK : within [.mm] K) (s : State) (hint owner l) :
    (touchLine s hint owner l).outside K = s.outside K :=
  outside_mono hK (by simp +decide [touchLine])

@[simp] theorem outside_dirtyLine {K} (hK : within [.mm] K) (s : State) (l) : (dirtyLine s l).outside K = s.outside K := by
  refine outside_mono hK ?_
  unfold dirtyLine
  split <;> simp +decide

@[simp] theorem outside_lastLines {K} (hK : within [.freeCtr, .mem, .mm] K) (s : State) (ls) :
    (lastLines s ls).outside K = s.outside K := by
  refine outside_mono hK ?_
  refine outside_foldl (fun s l => ?_) _ _
  split <;> simp +decide

@[simp] theorem outside_xdropLines {K} (hK : within [.freeCtr, .mem, .mm] K) (s : State) (ls) :
    (xdropLines s ls).outside K = s.outside K := by
  refine outside_mono hK ?_
  refine outside_foldl (fun s l => ?_) _ _
  split <;> simp +decide

@[simp] theorem outside_releasePins {K} (hK : within [.mm] K) (s : State) (a) : (releasePins s a).outside K = s.outside K :=
  outside_mono hK (by simp +decide [releasePins])

@[simp] theorem outside_dropFrameLines {K} (hK : within [.mm] K) (s : State) (frame) :
    (dropFrameLines s frame).outside K = s.outside K :=
  outside_mono hK (by simp +decide [dropFrameLines])

@[simp] theorem outside_clearMark {K} (hK : within [.mm] K) (s : State) (f g) : (clearMark s f g).outside K = s.outside K :=
  outside_mono hK (by simp +decide [clearMark])

@[simp] theorem outside_noteUnits {K} (hK : within [.pair] K) (s : State) (as) : (noteUnits s as).outside K = s.outside K :=
  outside_mono hK (by simp +decide [noteUnits])

@[simp] theorem outside_storeBytes {K} (hK : within (.mem :: .mm :: .pair :: eventsSet) K) (s : State) (ws) :
    (storeBytes s ws).outside K = s.outside K :=
  outside_mono hK (by simp +decide [storeBytes])

@[simp] theorem outside_markData {K} (hK : within [.mm] K) (s : State) (as) : (markData s as).outside K = s.outside K :=
  outside_mono hK (by simp +decide [markData])

@[simp] theorem outside_clearData {K} (hK : within [.mm] K) (s : State) (as) : (clearData s as).outside K = s.outside K :=
  outside_mono hK (by simp +decide [clearData])

@[simp] theorem outside_storeData {K} (hK : within (.mem :: .mm :: .pair :: eventsSet) K) (s : State) (ws) :
    (storeData s ws).outside K = s.outside K :=
  outside_mono hK (by simp +decide [storeData])

@[simp] theorem outside_writeMem {K} (hK : within (.mem :: .mm :: .pair :: eventsSet) K) (s : State) (ws) :
    (writeMem s ws).1.outside K = s.outside K := by
  refine outside_mono hK ?_
  unfold writeMem
  dsimp only
  (repeat' split) <;> simp +decide

/-! ## Programs (`Machine/Program`) -/

@[simp] theorem outside_addNotice {K} (hK : within [.ctxs] K) (s : State) (c d n) : (addNotice s c d n).outside K = s.outside K :=
  outside_mono hK (by simp +decide [addNotice])

@[simp] theorem outside_groupStop {K} (hK : within [.querns, .ctxs] K) (s : State) (c d q) :
    (groupStop s c d q).outside K = s.outside K := by
  refine outside_mono hK ?_
  unfold groupStop
  dsimp only
  (repeat' split) <;> simp +decide

@[simp] theorem outside_stopOthers {K} (hK : within [.querns, .ctxs] K) (s : State) (c d q) :
    (stopOthers s c d q).outside K = s.outside K :=
  outside_mono hK (by simp +decide [stopOthers])

@[simp] theorem outside_failAt {K} (hK : within [.querns, .ctxs] K) (s : State) (q st idx code) :
    (failAt s q st idx code).outside K = s.outside K := by
  refine outside_mono hK ?_
  unfold failAt
  dsimp only
  split <;> simp +decide

@[simp] theorem outside_signalBy {K} (hK : within [.querns, .ctxs] K) (s : State) (q st idx tok n) :
    (signalBy s q st idx tok n).outside K = s.outside K :=
  outside_mono hK (by simp +decide [signalBy])

@[simp] theorem outside_signalIf {K} (hK : within [.querns, .ctxs] K) (s : State) (q st idx sen tok) :
    (signalIf s q st idx sen tok).outside K = s.outside K :=
  outside_mono hK (by simp +decide [signalIf])

@[simp] theorem outside_advance {K} (hK : within [.querns] K) (s : State) (q st) : (advance s q st).outside K = s.outside K :=
  outside_mono hK (by simp +decide [advance])

@[simp] theorem outside_markWaiting {K} (hK : within [.querns] K) (s : State) (q st tok n) :
    (markWaiting s q st tok n).outside K = s.outside K :=
  outside_mono hK (by simp +decide [markWaiting])

@[simp] theorem outside_addressError {K} (hK : within (.ctxs :: eventsSet) K) (s : State) (c) :
    (addressError s c).outside K = s.outside K :=
  outside_mono hK (by simp +decide [addressError])

@[simp] theorem outside_failInstr {K} (hK : within streamsSet K) (s : State) (q st idx code) :
    (failInstr s q st idx code).outside K = s.outside K := by
  refine outside_mono hK ?_
  unfold failInstr
  split <;> simp +decide

theorem stays_startInstr {K} (hK : within streamsSet K) {body : State → Except Nat State}
    (hbody : ∀ s, Yields (fun t => t.outside K = s.outside K) (body s)) (s : State) (q st op i now ready) :
    Stays K s (startInstr q st op i now ready body s) := by
  unfold startInstr
  dsimp only
  split
  · simp
  split
  · simp +decide [within_trans hK]
  split
  · simp
  have hb := hbody (s.setQuern q ((s.quern q).takeWait i))
  split
  · simp +decide [within_trans hK]
  · next h => simpa +decide [within_trans hK] using hb.of_ok h

/-! ## Copies (`Machine/Copy`) -/

@[simp] theorem outside_forgetSpecial {K} (hK : within [.querns] K) (s : State) (ws) : (forgetSpecial s ws).outside K = s.outside K := by
  refine outside_mono hK ?_
  refine outside_foldl (fun s w => ?_) _ _
  split <;> simp +decide

@[simp] theorem outside_deliver {K} (hK : within (.mem :: .mm :: .querns :: .pair :: eventsSet) K) (s : State) (q o) :
    (deliver s q o).1.outside K = s.outside K := by
  refine outside_mono hK ?_
  cases o with
  | mem ws =>
    simp +decide only [deliver]
    split
    · next h => simpa +decide using outside_of_fst h (outside_writeMem rfl s ws)
    · exact outside_writeMem rfl s ws
  | status n v => simp +decide [deliver]
  | desc n d => simp +decide [deliver]

@[simp] theorem outside_touchTensor {K} (hK : within [.mm] K) (s : State) (owner d) :
    (touchTensor s owner d).outside K = s.outside K :=
  outside_mono hK (by simp +decide [touchTensor])

@[simp] theorem outside_cancelMove {K} (hK : within [.freeCtr, .mem, .mm, .querns, .hosts, .mil, .pair, .out] K) (s : State) (q m) :
    (cancelMove s q m).outside K = s.outside K := by
  refine outside_mono hK ?_
  unfold cancelMove
  split <;> simp +decide

@[simp] theorem outside_cancelMoves {K} (hK : within [.freeCtr, .mem, .mm, .querns, .hosts, .mil, .pair, .out] K) (s : State) (q) :
    (cancelMoves s q).outside K = s.outside K :=
  outside_mono hK (by simp +decide [cancelMoves])

/-! ## Frames (`Machine/Frames`) -/

@[simp] theorem outside_setStates {K} (hK : within [.mm] K) (s : State) (f st) : (setStates f st s).outside K = s.outside K :=
  outside_mono hK (by simp +decide [setStates])

@[simp] theorem outside_markFrame {K} (hK : within [.mm] K) (s : State) (f g) : (markFrame f g s).outside K = s.outside K :=
  outside_mono hK (by simp +decide [markFrame])

@[simp] theorem outside_countUe {K} (hK : within (.mm :: eventsSet) K) (s : State) (a g) : (countUe a g s).outside K = s.outside K :=
  outside_mono hK (by simp +decide [countUe])

@[simp] theorem outside_retireFrame {K} (hK : within (.mm :: .boot :: eventsSet) K) (s : State) (f source) :
    (retireFrame f source s).outside K = s.outside K :=
  outside_mono hK (by simp +decide [retireFrame])

@[simp] theorem outside_startRetire {K} (hK : within (.mm :: .boot :: eventsSet) K) (s : State) (f) :
    (startRetire f s).outside K = s.outside K :=
  outside_mono hK (by simp +decide [startRetire])

@[simp] theorem outside_damageFrame {K} (hK : within (.mm :: .boot :: eventsSet) K) (s : State) (f a g) :
    (damageFrame f a g s).outside K = s.outside K :=
  outside_mono hK (by simp +decide [damageFrame])

@[simp] theorem outside_remapRow {K} (hK : within (.mm :: .boot :: eventsSet) K) (s : State) (r source) :
    (remapRow r source s).outside K = s.outside K :=
  outside_mono hK (by simp +decide [remapRow])

@[simp] theorem outside_countCe {K} (hK : within [.mm] K) (s : State) : (countCe s).outside K = s.outside K :=
  outside_mono hK (by simp +decide [countCe])

@[simp] theorem outside_correctedError {K} (hK : within (.mm :: .boot :: eventsSet) K) (s : State) (f g) :
    (correctedError f s g).outside K = s.outside K :=
  outside_mono hK (by simp +decide [correctedError])

@[simp] theorem outside_unback {K} (hK : within (.mm :: eventsSet) K) (s : State) (a) : (unback s a).outside K = s.outside K :=
  outside_mono hK (by simp +decide [unback])

@[simp] theorem outside_copyChunks {K} (hK : within [.mem, .mm] K) (s : State) (f g lo hi bad) :
    (copyChunks f g lo hi bad s).outside K = s.outside K :=
  outside_mono hK (by simp +decide [copyChunks])

@[simp] theorem outside_settlePage {K} (hK : within [.mm] K) (s : State) (g marks a) :
    (settlePage g marks s a).outside K = s.outside K :=
  outside_mono hK (by simp +decide [settlePage])

@[simp] theorem outside_endMigration {K} (hK : within (.mm :: .boot :: eventsSet) K) (s : State) (f g) :
    (endMigration f g s).outside K = s.outside K :=
  outside_mono hK (by simp +decide [endMigration])

@[simp] theorem outside_migrateChunks {K} (hK : within (.mem :: .mm :: .boot :: eventsSet) K) (s : State) (f a n found) :
    (migrateChunks f a n found s).outside K = s.outside K := by
  refine outside_mono hK ?_
  unfold migrateChunks
  split <;> simp +decide

@[simp] theorem outside_startMigration {K} (hK : within (.mem :: .mm :: .boot :: eventsSet) K) (s : State) (f) :
    (startMigration f s).outside K = s.outside K := by
  refine outside_mono hK ?_
  unfold startMigration
  split <;> simp +decide

@[simp] theorem outside_disableWay {K} (hK : within (.mm :: .boot :: eventsSet) K) (s : State) (set way source) :
    (disableWay set way source s).outside K = s.outside K :=
  outside_mono hK (by simp +decide [disableWay])

@[simp] theorem outside_repairEntry {K} (hK : within (.mm :: eventsSet) K) (s : State) (second a) :
    (repairEntry second a s).outside K = s.outside K :=
  outside_mono hK (by simp +decide [repairEntry])

/-! ## Contexts (`Machine/Context`) -/

@[simp] theorem outside_chainPages {K} (hK : within [.mm] K) (s : State) (tail k) : (chainPages tail k s).outside K = s.outside K := by
  refine outside_mono hK ?_
  induction k generalizing s with
  | nil => rfl
  | cons p l ih => simp +decide [chainPages, ih]

theorem outside_takePages {K} (hK : within [.mm, .ctxs] K) (s : State) (c n shared) :
    ∀ t ∈ takePages s c n shared, t.2.outside K = s.outside K :=
  mem_mono (f := fun t : List Nat × State => t.2) hK (by simp +decide [takePages])

@[simp] theorem outside_returnPages {K} (hK : within [.mm, .ctxs] K) (s : State) (c l) : (returnPages s c l).outside K = s.outside K :=
  outside_mono hK (by simp +decide [returnPages])

@[simp] theorem outside_revertEntries {K} (hK : within [.hoppers, .pool] K) (s : State) (h a) :
    (revertEntries s h a).outside K = s.outside K :=
  outside_mono hK (by simp +decide [revertEntries])

@[simp] theorem outside_dropRefs {K} (hK : within [.eds] K) (s : State) (refs) : (dropRefs s refs).outside K = s.outside K :=
  outside_mono hK (by simp +decide [dropRefs])

@[simp] theorem outside_releaseEntry {K} (hK : within [.mm, .ctxs, .pool, .eds] K) (s : State) (h) :
    (releaseEntry s h).outside K = s.outside K := by
  refine outside_mono hK ?_
  unfold releaseEntry
  split <;> simp +decide

@[simp] theorem outside_reportError {K} (hK : within eventsSet K) (s : State) (c code idx detail) :
    (reportError s c code idx detail).outside K = s.outside K :=
  outside_mono hK (by simp +decide [reportError])

@[simp] theorem outside_stopCtx {K} (hK : within (.ctxs :: eventsSet) K) (s : State) (c code idx detail) :
    (stopCtx s c code idx detail).outside K = s.outside K :=
  outside_mono hK (by simp +decide [stopCtx])

@[simp] theorem outside_stopMerged {K} (hK : within (.ctxs :: eventsSet) K) (s : State) (c code idx detail) :
    (stopMerged s c code idx detail).outside K = s.outside K :=
  outside_mono hK (by simp +decide [stopMerged])

@[simp] theorem outside_abandonOn {K} (hK : within [.freeCtr, .mem, .mm, .querns, .hosts, .mil, .pair, .out] K) (s : State) (c q) :
    (abandonOn s c q).outside K = s.outside K := by
  refine outside_mono hK ?_
  unfold abandonOn
  dsimp only
  split <;> simp +decide

@[simp] theorem outside_freshQuern {K} (hK : within [.mem, .querns] K) (s : State) (q) : (freshQuern s q).outside K = s.outside K :=
  outside_mono hK (by simp +decide [freshQuern])

@[simp] theorem outside_loadQuerns {K} (hK : within [.mem, .querns] K) (s : State) (c groups) :
    (loadQuerns s c groups).outside K = s.outside K :=
  outside_mono hK (by simp +decide [loadQuerns])

@[simp] theorem outside_resetOrder {K} (hK : within [.querns] K) (s : State) (wgo) : (resetOrder s wgo).outside K = s.outside K :=
  outside_mono hK (by simp +decide [resetOrder])

@[simp] theorem outside_haltCtx {K} (hK : within haltsSet K) (s : State) (c) : (haltCtx s c).outside K = s.outside K :=
  outside_mono hK (by simp +decide [haltCtx])

@[simp] theorem outside_returnSeq {K} (hK : within [.ctxs, .pair] K) (s : State) (c) : (returnSeq s c).outside K = s.outside K := by
  refine outside_mono hK ?_
  unfold returnSeq
  dsimp only
  split <;> simp +decide

@[simp] theorem outside_haltFor {K} (hK : within haltsSet K) (s : State) (cause c) : (haltFor cause s c).outside K = s.outside K :=
  outside_mono hK (by simp +decide [haltFor])

@[simp] theorem outside_stopHeld {K} (hK : within [.ctxs, .mil] K) (s : State) : (stopHeld s).outside K = s.outside K :=
  outside_mono hK (by simp +decide [stopHeld])

@[simp] theorem outside_overlapping {K} (hK : within [.ctxs, .mil] K) (s : State) (page before) :
    (overlapping page before s).outside K = s.outside K :=
  outside_mono hK (by simp +decide [overlapping])

@[simp] theorem outside_haltData {K} (hK : within haltsSet K) (s : State) (c as) : (haltData s c as).outside K = s.outside K := by
  refine outside_mono hK ?_
  unfold haltData
  split <;> simp +decide

@[simp] theorem outside_drainCtx {K} (hK : within [.ctxs] K) (s : State) (c) : (drainCtx s c).outside K = s.outside K :=
  outside_mono hK (by simp +decide [drainCtx])

@[simp] theorem outside_resumeCtx {K} (hK : within [.ctxs, .pair] K) (s : State) (c) : (resumeCtx s c).outside K = s.outside K :=
  outside_mono hK (by simp +decide [resumeCtx])

@[simp] theorem outside_stageSignalBy {K} (hK : within (.ctxs :: eventsSet) K) (s : State) (c idx tok n) :
    (stageSignalBy s c idx tok n).outside K = s.outside K :=
  outside_mono hK (by simp +decide [stageSignalBy])

@[simp] theorem outside_stageSignal {K} (hK : within (.ctxs :: eventsSet) K) (s : State) (c idx sen tok) :
    (stageSignal s c idx sen tok).outside K = s.outside K :=
  outside_mono hK (by simp +decide [stageSignal])

@[simp] theorem outside_lateSignal {K} (hK : within (.ctxs :: eventsSet) K) (s : State) (c no idx sen tok) :
    (lateSignal s c no idx sen tok).outside K = s.outside K :=
  outside_mono hK (by simp +decide [lateSignal])

@[simp] theorem outside_finalizeStep {K} (hK : within (.ctxs :: eventsSet) K) (s : State) (c n) :
    (finalizeStep s c n).outside K = s.outside K :=
  outside_mono hK (by simp +decide [finalizeStep])

@[simp] theorem outside_finalizeIfDone {K} (hK : within (.ctxs :: eventsSet) K) (s : State) (c n) :
    (finalizeIfDone s c n).outside K = s.outside K :=
  outside_mono hK (by simp +decide [finalizeIfDone])

@[simp] theorem outside_stepEvent {K} (hK : within [.freeCtr, .hosts, .stepEventBase, .stepEventLow] K) (s : State) :
    (stepEvent s).outside K = s.outside K := by
  refine outside_mono hK ?_
  unfold stepEvent
  split <;> simp +decide

@[simp] theorem outside_releaseClosed {K} (hK : within [.mm, .ctxs, .pool, .eds] K) (s : State) :
    (releaseClosed s).outside K = s.outside K :=
  outside_mono hK (by simp +decide [releaseClosed])

@[simp] theorem outside_releaseDue {K} (hK : within [.mm, .ctxs, .pool, .eds, .pair] K) (s : State) :
    (releaseDue s).outside K = s.outside K :=
  outside_mono hK (by simp +decide [releaseDue])

@[simp] theorem outside_closeStep {K} (hK : within [.freeCtr, .ctxs, .hosts, .stepEventBase, .stepEventLow] K) (s : State) (c n) :
    (closeStep c n s).outside K = s.outside K :=
  outside_mono hK (by simp +decide [closeStep])

@[simp] theorem outside_settleTo {K} (hK : within [.shards] K) (s : State) (sh n commit) :
    (settleTo s sh n commit).outside K = s.outside K := by
  refine outside_mono hK ?_
  unfold settleTo
  dsimp only
  split <;> simp +decide

@[simp] theorem outside_freeEdition {K} (hK : within [.mm, .ctxs, .eds] K) (s : State) (e) :
    (freeEdition s e).outside K = s.outside K :=
  outside_mono hK (by simp +decide [freeEdition])

@[simp] theorem outside_freeRetiring {K} (hK : within [.mm, .ctxs, .eds] K) (s : State) (e) :
    (freeRetiring s e).outside K = s.outside K := by
  refine outside_mono hK ?_
  unfold freeRetiring
  dsimp only
  (repeat' split) <;> simp +decide

@[simp] theorem outside_commitEdition {K} (hK : within [.eds, .shards] K) (s : State) (e) :
    (commitEdition s e).outside K = s.outside K :=
  outside_mono hK (by simp +decide [commitEdition])

@[simp] theorem outside_firePends {K} (hK : within (.ctxs :: eventsSet) K) (s : State) (c) : (firePends c s).outside K = s.outside K := by
  refine outside_mono hK ?_
  refine (outside_foldl (fun s p => ?_) _ _).trans (by simp +decide)
  dsimp only
  split <;> simp +decide

/-! ## Moves (`Machine/Move`) -/

@[simp] theorem outside_issueMove {K} (hK : within [.querns] K) (s : State) (q i ends wgb) :
    (issueMove q i ends wgb s).outside K = s.outside K :=
  outside_mono hK (by simp +decide [issueMove])

@[simp] theorem stays_execXmove {K} (hK : within streamsSet K) (s : State) (q i) : Stays K s (execXmove q i s) := by
  refine stays_mono hK ?_
  refine stays_startInstr rfl (fun s => ?_) ..
  simp +decide

@[simp] theorem stays_execXfetch {K} (hK : within streamsSet K) (s : State) (q i) : Stays K s (execXfetch q i s) := by
  refine stays_mono hK ?_
  refine stays_startInstr rfl (fun s => ?_) ..
  simp +decide

@[simp] theorem outside_fireFences {K} (hK : within [.querns, .ctxs] K) (s : State) (q) : (fireFences q s).outside K = s.outside K :=
  outside_mono hK (by simp +decide [fireFences])

@[simp] theorem stays_execXfence {K} (hK : within streamsSet K) (s : State) (q i) : Stays K s (execXfence q i s) := by
  refine stays_mono hK ?_
  refine stays_andThen (stays_startInstr rfl (fun s => ?_) ..) (fun s => ?_)
  · simp +decide
  · simp +decide

@[simp] theorem stays_execXpref {K} (hK : within (.mm :: streamsSet) K) (s : State) (q i) : Stays K s (execXpref q i s) := by
  refine stays_mono hK ?_
  refine stays_startInstr rfl (fun s => ?_) ..
  simp +decide

@[simp] theorem stays_execXdrop {K} (hK : within (.freeCtr :: .mem :: .mm :: streamsSet) K) (s : State) (q i) :
    Stays K s (execXdrop q i s) := by
  refine stays_mono hK ?_
  refine stays_startInstr rfl (fun s => ?_) ..
  simp +decide

@[simp] theorem outside_endMove {K} (hK : within [.querns] K) (s : State) (q tag) : (endMove s q tag).outside K = s.outside K :=
  outside_mono hK (by simp +decide [endMove])

@[simp] theorem outside_wgbendClear {K} (hK : within [.mem, .querns] K) (s : State) (q m) :
    (wgbendClear s q m).outside K = s.outside K := by
  refine outside_mono hK ?_
  unfold wgbendClear
  split <;> simp +decide

@[simp] theorem outside_moveFails {K} (hK : within haltsSet K) (s : State) (q m e) : (moveFails s q m e).outside K = s.outside K := by
  refine outside_mono hK ?_
  unfold moveFails
  split <;> simp +decide

@[simp] theorem outside_completeMove {K} (hK : within haltsSet K) (s : State) (q m) : (completeMove q m s).outside K = s.outside K := by
  refine outside_mono hK ?_
  unfold completeMove
  split
  · simp +decide
  split
  · simp +decide
  · simp +decide
  dsimp only
  split
  · simp +decide
  · next h => simpa +decide using outside_of_fst (K := haltsSet) h (outside_deliver rfl _ q _)
  · next h =>
    have := outside_of_fst (K := haltsSet) h (outside_deliver rfl _ q _)
    split <;> simpa +decide using this

@[simp] theorem stays_execMoveComplete {K} (hK : within (.eds :: haltsSet) K) (s : State) (q tag) :
    Stays K s (execMoveComplete q tag s) := by
  refine stays_mono hK ?_
  unfold execMoveComplete
  split <;> simp +decide

@[simp] theorem outside_prefetchLine {K} (hK : within [.mm] K) (s : State) (a v) : (prefetchLine s a v).outside K = s.outside K :=
  outside_mono hK (by simp +decide [prefetchLine])

@[simp] theorem stays_execPrefetchComplete {K} (hK : within [.mm, .querns, .ctxs] K) (s : State) (c slot) :
    Stays K s (execPrefetchComplete c slot s) := by
  refine stays_mono hK ?_
  unfold execPrefetchComplete
  split <;> simp +decide

/-! ## Control (`Machine/Control`) -/

@[simp] theorem outside_stageAdvance {K} (hK : within [.ctxs] K) (s : State) (c) : (stageAdvance s c).outside K = s.outside K :=
  outside_mono hK (by simp +decide [stageAdvance])

@[simp] theorem outside_stageWaiting {K} (hK : within [.ctxs] K) (s : State) (c tok n) :
    (stageWaiting s c tok n).outside K = s.outside K :=
  outside_mono hK (by simp +decide [stageWaiting])

@[simp] theorem outside_stageSig {K} (hK : within (.ctxs :: eventsSet) K) (s : State) (c idx i k) :
    (stageSig s c idx i k).outside K = s.outside K := by
  refine outside_mono hK ?_
  unfold stageSig
  split <;> simp +decide

theorem stays_startStage {K} (hK : within (.ctxs :: eventsSet) K) {body : State → Except Nat (State × SigWhen)}
    (hbody : ∀ s, Yields (fun r => r.1.outside K = s.outside K) (body s)) (s : State) (c op i held enabled) :
    Stays K s (startStage c op i held enabled body s) := by
  unfold startStage
  dsimp only
  split
  · simp
  split
  · simp +decide [within_trans hK]
  split
  · simp +decide [within_trans hK]
  split
  · simp
  split
  · simp +decide [within_trans hK]
  have hb := hbody (s.setCtx c { (s.ctx c).takeWait i with issued := (s.ctx c).issued + 1 })
  split
  · simp +decide [within_trans hK]
  · next h => simpa +decide [within_trans hK] using hb.of_ok h

@[simp] theorem outside_quernCwait {K} (hK : within streamsSet K) (s : State) (q st i) :
    (quernCwait q st i s).outside K = s.outside K := by
  refine outside_mono hK ?_
  unfold quernCwait
  split <;> simp +decide

@[simp] theorem outside_stageCwait {K} (hK : within (.ctxs :: eventsSet) K) (s : State) (c i) :
    (stageCwait c i s).outside K = s.outside K := by
  refine outside_mono hK ?_
  unfold stageCwait
  (repeat' split) <;> simp +decide

@[simp] theorem stays_execCwait {K} (hK : within streamsSet K) (s : State) (u i) : Stays K s (execCwait u i s) := by
  refine stays_mono hK ?_
  unfold execCwait
  split <;> simp +decide

@[simp] theorem stays_execCsig {K} (hK : within streamsSet K) (s : State) (u i) : Stays K s (execCsig u i s) := by
  refine stays_mono hK ?_
  cases u with
  | quern q st =>
    dsimp only [execCsig]
    refine stays_startInstr rfl (fun s => ?_) ..
    simp +decide
  | stage c =>
    dsimp only [execCsig]
    refine stays_startStage rfl (fun s => ?_) ..
    simp +decide

@[simp] theorem stays_execCloop {K} (hK : within streamsSet K) (s : State) (u i) : Stays K s (execCloop u i s) := by
  refine stays_mono hK ?_
  cases u with
  | quern q st =>
    dsimp only [execCloop]
    refine stays_startInstr rfl (fun s => ?_) ..
    simp +decide
  | stage c =>
    dsimp only [execCloop]
    refine stays_startStage rfl (fun s => ?_) ..
    simp +decide

@[simp] theorem outside_quernCend {K} (hK : within [.querns] K) (s : State) (q st) {g} (h : s.outside K = g) :
    Yields (fun t => t.outside K = g) (quernCend q st s) := by
  unfold quernCend
  dsimp only
  split
  · exact h
  · split <;> simp +decide [h, within_trans hK]

@[simp] theorem outside_stageCend {K} (hK : within [.ctxs] K) (s : State) (c) : (stageCend c s).outside K = s.outside K :=
  outside_mono hK (by simp +decide [stageCend])

@[simp] theorem stays_execCend {K} (hK : within streamsSet K) (s : State) (u i) : Stays K s (execCend u i s) := by
  refine stays_mono hK ?_
  cases u with
  | quern q st =>
    dsimp only [execCend]
    refine stays_startInstr rfl (fun s => ?_) ..
    simp +decide
  | stage c =>
    dsimp only [execCend]
    refine stays_startStage rfl (fun s => ?_) ..
    simp +decide

@[simp] theorem stays_execCphase {K} (hK : within (.pwr :: streamsSet) K) (s : State) (q i) : Stays K s (execCphase q i s) := by
  refine stays_mono hK ?_
  refine stays_startInstr rfl (fun s => ?_) ..
  simp +decide

@[simp] theorem outside_releaseBarrier {K} (hK : within [.querns, .ctxs] K) (s : State) (c d) :
    (releaseBarrier s c d).outside K = s.outside K := by
  refine outside_mono hK ?_
  unfold releaseBarrier
  dsimp only
  split
  · rfl
  split
  · refine outside_foldl (fun s m => ?_) _ _
    split <;> simp +decide
  · simp +decide

@[simp] theorem stays_execCbar {K} (hK : within streamsSet K) (s : State) (q i) : Stays K s (execCbar q i s) := by
  refine stays_mono hK ?_
  refine stays_andThen (stays_startInstr rfl (fun s => ?_) ..) (fun s => ?_)
  · simp +decide
  · split
    · split <;> simp +decide
    · rfl

@[simp] theorem stays_execBarrierRelease {K} (hK : within [.querns, .ctxs] K) (s : State) (c disp) :
    Stays K s (execBarrierRelease c disp s) :=
  stays_mono hK (by simp +decide [execBarrierRelease])

@[simp] theorem stays_execChalt {K} (hK : within streamsSet K) (s : State) (q i) : Stays K s (execChalt q i s) := by
  refine stays_mono hK ?_
  refine stays_startInstr rfl (fun s => ?_) ..
  simp +decide

@[simp] theorem stays_execStageProgramChalt {K} (hK : within (.ctxs :: eventsSet) K) (s : State) (c i) :
    Stays K s (execStageProgramChalt c i s) := by
  refine stays_mono hK ?_
  exact stays_startStage rfl (fun s => by simp +decide) ..

@[simp] theorem outside_orphanPrefetches {K} (hK : within [.mm] K) (s : State) (q) : (orphanPrefetches s q).outside K = s.outside K :=
  outside_mono hK (by simp +decide [orphanPrefetches])

@[simp] theorem stays_execProgramComplete {K} (hK : within [.mm, .querns, .ctxs, .pool, .eds, .pair] K) (s : State) (q) :
    Stays K s (execProgramComplete q s) := by
  refine stays_mono hK ?_
  unfold execProgramComplete
  dsimp only
  split <;> simp +decide

@[simp] theorem stays_execTokenDeadlock {K} (hK : within [.querns] K) (s : State) (c disp) : Stays K s (execTokenDeadlock c disp s) :=
  stays_mono hK (by simp +decide [execTokenDeadlock])

@[simp] theorem stays_execMergedCompletion {K} (hK : within (.ctxs :: eventsSet) K) (s : State) (c disp) :
    Stays K s (execMergedCompletion c disp s) := by
  refine stays_mono hK ?_
  unfold execMergedCompletion
  dsimp only
  split <;> simp +decide

/-! ## Images (`Machine/Image`) -/

@[simp] theorem outside_failLoad {K} (hK : within [.querns, .ctxs] K) (s : State) (q code l) :
    (failLoad s q code l).outside K = s.outside K :=
  outside_mono hK (by simp +decide [failLoad])

@[simp] theorem outside_loadImage {K} (hK : within haltsSet K) (s : State) (q) : (loadImage q s).outside K = s.outside K := by
  refine outside_mono hK ?_
  unfold loadImage
  dsimp only
  (repeat' split) <;> simp +decide

@[simp] theorem stays_execImageLoad {K} (hK : within haltsSet K) (s : State) (q) : Stays K s (execImageLoad q s) :=
  stays_mono hK (by simp +decide [execImageLoad])

@[simp] theorem outside_startProgram {K} (hK : within [.mem, .querns] K) (s : State) (q sl) :
    (startProgram q sl s).outside K = s.outside K :=
  outside_mono hK (by simp +decide [startProgram])

@[simp] theorem stays_execProgramStart {K} (hK : within [.mem, .querns] K) (s : State) (q) : Stays K s (execProgramStart q s) := by
  refine stays_mono hK ?_
  unfold execProgramStart
  dsimp only
  split <;> simp +decide

/-! ## Links (`Machine/Link`) -/

@[simp] theorem outside_drawCtr {K} (hK : within [.sec] K) (s : State) (key) : (drawCtr s key).2.outside K = s.outside K :=
  outside_mono hK (by simp +decide [drawCtr])

@[simp] theorem outside_haltSender {K} (hK : within haltsSet K) (s : State) (seg fr) : (haltSender seg s fr).outside K = s.outside K := by
  refine outside_mono hK ?_
  unfold haltSender
  split <;> simp +decide

@[simp] theorem outside_queueRace {K} (hK : within [.races] K) (s : State) (r fr) : (queueRace s r fr).outside K = s.outside K :=
  outside_mono hK (by simp +decide [queueRace])

@[simp] theorem outside_sendIp {K} (hK : within [.hosts, .ipWait, .out] K) (s : State) (a dst o) :
    (sendIp s a dst o).outside K = s.outside K := by
  refine outside_mono hK ?_
  unfold sendIp
  split <;> simp +decide

@[simp] theorem outside_emitPacket {K} (hK : within [.hosts, .sec, .ipWait, .out] K) (s : State) (a n psn fr) :
    (emitPacket s a n psn fr).outside K = s.outside K :=
  outside_mono hK (by simp +decide [emitPacket])

@[simp] theorem outside_sessionSend {K} (hK : within carriesSet K) (s : State) (p n lim k) :
    (sessionSend p n lim k s).outside K = s.outside K := by
  refine outside_mono hK ?_
  induction k generalizing s with
  | zero => rfl
  | succ fuel ih =>
    unfold sessionSend
    dsimp only
    split
    · rfl
    split
    · rfl
    · split <;> simp +decide [ih]

@[simp] theorem outside_sessionPump {K} (hK : within carriesSet K) (s : State) (a n) : (sessionPump s a n).outside K = s.outside K :=
  outside_mono hK (by simp +decide [sessionPump])

@[simp] theorem outside_queueSession {K} (hK : within carriesSet K) (s : State) (a n fr) :
    (queueSession s a n fr).outside K = s.outside K :=
  outside_mono hK (by simp +decide [queueSession])

@[simp] theorem outside_pumpSessions {K} (hK : within carriesSet K) (s : State) : (pumpSessions s).outside K = s.outside K := by
  refine outside_mono hK ?_
  exact outside_foldl (fun s p => outside_foldl (fun s cls => outside_foldl (fun s n => outside_sessionSend rfl ..) _ _) _ _) _ _

@[simp] theorem outside_sendGuest {K} (hK : within [.out] K) (s : State) (fr) : (sendGuest s fr).outside K = s.outside K := by
  refine outside_mono hK ?_
  unfold sendGuest
  split <;> simp +decide

@[simp] theorem outside_sendOn {K} (hK : within (.races :: carriesSet) K) (s : State) (c fr) :
    (sendOn s c fr).outside K = s.outside K := by
  refine outside_mono hK ?_
  unfold sendOn
  split <;> simp +decide

@[simp] theorem outside_losePaths {K} (hK : within [.flumes] K) (s : State) (c) : (losePaths c s).outside K = s.outside K :=
  outside_mono hK (by simp +decide [losePaths])

@[simp] theorem outside_pumpOne {K} (hK : within (.flumes :: .races :: carriesSet) K) (s : State) (f) :
    (pumpOne f s).1.outside K = s.outside K := by
  refine outside_mono hK ?_
  unfold pumpOne
  dsimp only
  split
  · split
    · rfl
    split
    · simp +decide only [outside_ite_fst, outside_elim, outside_haltSender, implies_true]
      refine ite_eq_left_iff.2 (fun _ => ?_)
      split
      · simp +decide [outside_foldl]
      · simp +decide [outside_foldl]
      · rfl
    · split <;> simp +decide
    · split <;> simp +decide
  · rfl

@[simp] theorem outside_pumpMany {K} (hK : within (.flumes :: .races :: carriesSet) K) (s : State) (f k) :
    (pumpMany f k s).outside K = s.outside K := by
  refine outside_mono hK ?_
  induction k generalizing s with
  | zero => rfl
  | succ n ih =>
    unfold pumpMany
    split
    · next h => rw [ih]; exact outside_of_fst h (outside_pumpOne rfl s f)
    · next h => exact outside_of_fst h (outside_pumpOne rfl s f)

@[simp] theorem outside_pump {K} (hK : within (.flumes :: .races :: carriesSet) K) (s : State) (f) :
    (pump f s).outside K = s.outside K :=
  outside_mono hK (by simp +decide [pump])

@[simp] theorem outside_receiptAt {K} (hK : within [.pool, .flumes] K) (s : State) (f seq step what) :
    (receiptAt f seq step what s).outside K = s.outside K :=
  outside_mono hK (by simp +decide [receiptAt])

@[simp] theorem outside_grantAt {K} (hK : within (.flumes :: .races :: carriesSet) K) (s : State) (f no) :
    (grantAt f no s).outside K = s.outside K :=
  outside_mono hK (by simp +decide [grantAt])

@[simp] theorem outside_localFrame {K} (hK : within (.flumes :: .galley :: .races :: carriesSet) K) (s : State) (k) :
    (localFrame s k).outside K = s.outside K := by
  refine outside_mono hK ?_
  unfold localFrame
  split <;> simp +decide

@[simp] theorem outside_sendFlume {K} (hK : within (.flumes :: .galley :: .races :: carriesSet) K) (s : State) (f fr) :
    (sendFlume s f fr).outside K = s.outside K := by
  refine outside_mono hK ?_
  unfold sendFlume
  split <;> simp +decide

@[simp] theorem outside_enterTx {K} (hK : within (.flumes :: .races :: carriesSet) K) (s : State) (f t2) :
    (enterTx s f t2).outside K = s.outside K :=
  outside_mono hK (by simp +decide [enterTx])

@[simp] theorem outside_sendTwin {K} (hK : within [.races] K) (s : State) (sub body bytes) :
    (sendTwin s sub body bytes).outside K = s.outside K := by
  refine outside_mono hK ?_
  unfold sendTwin
  split <;> simp +decide

@[simp] theorem outside_journal {K} (hK : within [.races, .pair] K) (s : State) (sub body bytes) :
    (journal s sub body bytes).outside K = s.outside K := by
  refine outside_mono hK ?_
  unfold journal
  (repeat' split) <;> simp +decide

@[simp] theorem outside_journalFor {K} (hK : within [.races, .pair] K) (s : State) (c sub body) :
    (journalFor s c sub body).outside K = s.outside K :=
  outside_mono hK (by simp +decide [journalFor])

@[simp] theorem outside_flushUnits {K} (hK : within [.races, .pair] K) (s : State) : (flushUnits s).outside K = s.outside K :=
  outside_mono hK (by simp +decide [flushUnits])

@[simp] theorem outside_journalPages {K} (hK : within [.races, .pair] K) (s : State) (k l) :
    (journalPages k l s).outside K = s.outside K := by
  refine outside_mono hK ?_
  induction k generalizing s l with
  | zero => rfl
  | succ n ih => simp +decide [journalPages, ih]

@[simp] theorem outside_journalEd {K} (hK : within [.races, .pair] K) (s : State) (e) : (journalEd s e).outside K = s.outside K :=
  outside_mono hK (by simp +decide [journalEd])

@[simp] theorem outside_journalFreed {K} (hK : within [.races, .pair] K) (s : State) (v) :
    (journalFreed s v).outside K = s.outside K :=
  outside_mono hK (by simp +decide [journalFreed])

@[simp] theorem outside_journalStep {K} (hK : within [.races, .pair] K) (s : State) (c n recs) :
    (journalStep s c n recs).outside K = s.outside K :=
  outside_mono hK (by simp +decide [journalStep])

@[simp] theorem outside_journalFlume {K} (hK : within [.races, .pair] K) (s : State) (f) :
    (journalFlume s f).outside K = s.outside K :=
  outside_mono hK (by simp +decide [journalFlume])

@[simp] theorem outside_journalPeer {K} (hK : within [.races, .pair] K) (s : State) (c j) :
    (journalPeer s c j).outside K = s.outside K := by
  refine outside_mono hK ?_
  unfold journalPeer
  split <;> simp +decide

@[simp] theorem outside_enterTurn {K} (hK : within (.flumes :: .races :: carriesSet) K) (s : State) (f t2) :
    (enterTurn s f t2).outside K = s.outside K :=
  outside_mono hK (by simp +decide [enterTurn])

@[simp] theorem outside_sendNotice {K} (hK : within (.flumes :: .races :: carriesSet) K) (s : State) (c n) :
    (sendNotice s c n).outside K = s.outside K :=
  outside_mono hK (by simp +decide [sendNotice])

@[simp] theorem outside_respondNow {K} (hK : within carriesSet K) (s : State) (a n f) : (respondNow s a n f).outside K = s.outside K :=
  outside_mono hK (by simp +decide [respondNow])

@[simp] theorem outside_perform {K} (hK : within (.flumes :: .eds :: .galley :: .races :: carriesSet) K) (s : State) (k) :
    (perform s k).outside K = s.outside K := by
  refine outside_mono hK ?_
  unfold perform
  split <;> simp +decide

@[simp] theorem outside_hold {K} (hK : within (.flumes :: .eds :: .galley :: .races :: carriesSet) K) (s : State) (a) :
    (hold s a).outside K = s.outside K :=
  outside_mono hK (by simp +decide [hold])

@[simp] theorem outside_noticeStep {K} (hK : within (.flumes :: .eds :: .galley :: .races :: carriesSet) K) (s : State) (c n) :
    (noticeStep c n s).outside K = s.outside K :=
  outside_mono hK (by simp +decide [noticeStep])

end Sys2Proof.Machine
end

section
/-! # The components that stage programs, frames and the twin leave as they are -/

namespace Sys2Proof.Machine

open Sys2Proof

/-! ## Stage programs (`Machine/Stage`) -/

@[simp] theorem outside_aliasPages {K} (hK : within [.mm] K) (s : State) (owner base n pages) :
    (aliasPages s owner base n pages).outside K = s.outside K := by
  refine outside_mono hK ?_
  refine outside_foldl (fun s i => ?_) _ _
  split <;> simp +decide

@[simp] theorem outside_setWindow {K} (hK : within [.mm] K) (s : State) (sh new) : (setWindow s sh new).outside K = s.outside K :=
  outside_mono hK (by simp +decide [setWindow])

@[simp] theorem outside_holdSignal {K} (hK : within (.flumes :: .eds :: .galley :: .races :: carriesSet) K) (s : State) (c d) :
    (holdSignal s c d).outside K = s.outside K :=
  outside_mono hK (by simp +decide [holdSignal])

theorem outside_wakeEdopen {K} (hK : within (.flumes :: .eds :: .shards :: .galley :: .races :: carriesSet) K) (s : State) (c d) :
    ∀ t ∈ wakeEdopen c d s, t.outside K = s.outside K := by
  refine mem_mono hK ?_
  unfold wakeEdopen
  dsimp only
  split
  · simp +decide
  · next h => simpa +decide using outside_takePages rfl _ _ _ _ _ h

theorem outside_wakeEdpend {K} (hK : within (.flumes :: .eds :: .shards :: .galley :: .races :: carriesSet) K) (s : State) (c d) :
    ∀ t ∈ wakeEdpend c d s, t.outside K = s.outside K := by
  refine mem_mono hK ?_
  unfold wakeEdpend
  dsimp only
  split <;> simp +decide

@[simp] theorem outside_addRefs {K} (hK : within [.pool, .eds] K) (s : State) (h l) : (addRefs s h l).outside K = s.outside K := by
  refine outside_mono hK ?_
  unfold addRefs
  split <;> simp +decide

theorem outside_wakeDispatch {K} (hK : within (.pool :: .eds :: streamsSet) K) (s : State) (c d) :
    ∀ t ∈ wakeDispatch c d s, t.outside K = s.outside K := by
  refine mem_mono hK ?_
  unfold wakeDispatch
  dsimp only
  (repeat' split) <;> simp +decide

@[simp] theorem outside_wakeOne {K} (hK : within (.flumes :: .eds :: .shards :: .galley :: .races :: carriesSet) K) (s : State) (c d) :
    (wakeOne c d s).outside K = s.outside K := by
  refine outside_mono hK ?_
  unfold wakeOne
  dsimp only
  split
  · next h =>
    split at h
    · simpa +decide using outside_wakeEdopen rfl _ _ _ _ h
    · simpa +decide using outside_wakeEdpend rfl _ _ _ _ h
    · simpa +decide using outside_wakeDispatch rfl _ _ _ _ h
  · rfl

@[simp] theorem outside_wakeCtx {K} (hK : within (.flumes :: .eds :: .shards :: .galley :: .races :: carriesSet) K) (s : State) (c) :
    (wakeCtx c s).outside K = s.outside K :=
  outside_mono hK (by simp +decide [wakeCtx])

@[simp] theorem outside_commitAll {K} (hK : within [.eds, .shards, .races, .pair] K) (s : State) (c) :
    (commitAll c s).outside K = s.outside K :=
  outside_mono hK (by simp +decide [commitAll])

@[simp] theorem outside_freeAll {K} (hK : within [.mm, .ctxs, .eds, .races, .pair] K) (s : State) (c) :
    (freeAll c s).outside K = s.outside K :=
  outside_mono hK (by simp +decide [freeAll])

@[simp] theorem outside_closeAll {K} (hK : within [.freeCtr, .ctxs, .races, .hosts, .pair, .stepEventBase, .stepEventLow] K) (s : State)
    (c) :
    (closeAll c s).outside K = s.outside K :=
  outside_mono hK (by simp +decide [closeAll])

@[simp] theorem outside_settleCtx {K} (hK : within jobsSet K) (s : State) (c) : (settleCtx s c).outside K = s.outside K :=
  outside_mono hK (by simp +decide [settleCtx])

@[simp] theorem outside_settleRound {K} (hK : within jobsSet K) (s : State) : (settleRound s).outside K = s.outside K :=
  outside_mono hK (by simp +decide [settleRound])

@[simp] theorem outside_settle {K} (hK : within jobsSet K) (s : State) : (settle s).outside K = s.outside K :=
  outside_mono hK (by simp +decide [settle])

theorem stays_stageInstr {K} (hK : within jobsSet K) {body : State → Except Nat (State × SigWhen)}
    (hbody : ∀ s, Yields (fun r => r.1.outside K = s.outside K) (body s)) (s : State) (c op i held enabled) :
    Stays K s (stageInstr c op i held enabled body s) := by
  exact stays_andThen (stays_startStage (within_trans hK rfl) hbody ..) (fun s => by simp +decide [within_trans hK])

@[simp] theorem outside_defer {K} (hK : within [.ctxs] K) (s : State) (c op i entry disp step) :
    (defer s c op i entry disp step).outside K = s.outside K :=
  outside_mono hK (by simp +decide [defer])

@[simp] theorem outside_popEntry {K} (hK : within [.mm, .ctxs, .hoppers, .pool] K) (s : State) (c h k x0) :
    (popEntry c h k x0 s).outside K = s.outside K := by
  refine outside_mono hK ?_
  unfold popEntry
  split
  · rfl
  split
  · rfl
  · next h =>
    have := outside_takePages (K := [.mm, .ctxs, .hoppers, .pool]) rfl _ _ _ _ _ h
    dsimp only
    split <;> simpa +decide using this

@[simp] theorem outside_stallHpop {K} (hK : within [.ctxs, .grantStalls] K) (s : State) (c h) :
    (stallHpop c h s).outside K = s.outside K :=
  outside_mono hK (by simp +decide [stallHpop])

@[simp] theorem stays_execHpop {K} (hK : within (.grantStalls :: jobsSet) K) (s : State) (c i) : Stays K s (execHpop c i s) := by
  refine stays_mono hK ?_
  unfold execHpop
  extract_lets x0 k h fails s0
  have hs0 : s0.outside (.grantStalls :: jobsSet) = s.outside (.grantStalls :: jobsSet) := by simp +decide [s0]
  refine Stays.of_outside (stays_stageInstr rfl (fun s => ?_) ..) hs0
  simp +decide

@[simp] theorem stays_execDispatch {K} (hK : within jobsSet K) (s : State) (c i) : Stays K s (execDispatch c i s) := by
  refine stays_mono hK ?_
  refine stays_stageInstr rfl (fun s => ?_) ..
  simp +decide only [yields_bind, yields_ok, outside_defer, outside_setCtx, yields_true]

@[simp] theorem outside_reenterTx {K} (hK : within (.flumes :: .races :: carriesSet) K) (s : State) (f h seq) :
    (reenterTx f h seq s).outside K = s.outside K :=
  outside_mono hK (by simp +decide [reenterTx])

@[simp] theorem outside_pushEntry {K} (hK : within (.flumes :: .eds :: .galley :: .races :: carriesSet) K) (s : State) (f h) :
    (pushEntry f h s).outside K = s.outside K := by
  refine outside_mono hK ?_
  unfold pushEntry
  split <;> simp +decide

@[simp] theorem outside_copyLocal {K} (hK : within (.mem :: .mm :: .pool :: .pair :: eventsSet) K) (s : State) (k e) :
    (copyLocal s k e).outside K = s.outside K := by
  refine outside_mono hK ?_
  unfold copyLocal
  split <;> simp +decide

@[simp] theorem outside_recopyLocal {K} (hK : within (.mem :: .mm :: .pool :: .pair :: eventsSet) K) (s : State) (h) :
    (recopyLocal h s).outside K = s.outside K := by
  refine outside_mono hK ?_
  unfold recopyLocal
  (repeat' split) <;> simp +decide

@[simp] theorem stays_execHpush {K} (hK : within jobsSet K) (s : State) (c i) : Stays K s (execHpush c i s) := by
  refine stays_mono hK ?_
  refine stays_stageInstr rfl (fun s => ?_) ..
  refine (yields_bind ..).2 (yields_of_forall (fun _ => ?_) _)
  split
  · simp +decide [apply_ite Prod.fst]
  · simp +decide

@[simp] theorem stays_execHrcpt {K} (hK : within jobsSet K) (s : State) (c i) : Stays K s (execHrcpt c i s) := by
  refine stays_mono hK ?_
  refine stays_stageInstr rfl (fun s => ?_) ..
  refine (yields_bind ..).2 (yields_of_forall (fun _ => ?_) _)
  split <;> simp +decide

@[simp] theorem stays_execEdopen {K} (hK : within jobsSet K) (s : State) (c i) : Stays K s (execEdopen c i s) := by
  refine stays_mono hK ?_
  refine stays_stageInstr rfl (fun s => ?_) ..
  simp +decide

@[simp] theorem stays_execEdpend {K} (hK : within jobsSet K) (s : State) (c i) : Stays K s (execEdpend c i s) := by
  refine stays_mono hK ?_
  refine stays_stageInstr rfl (fun s => ?_) ..
  simp +decide

@[simp] theorem outside_requestCommit {K} (hK : within [.eds] K) (s : State) (sh) : (requestCommit s sh).outside K = s.outside K := by
  refine outside_mono hK ?_
  unfold requestCommit
  split <;> simp +decide

@[simp] theorem stays_execEdcommit {K} (hK : within jobsSet K) (s : State) (c i) : Stays K s (execEdcommit c i s) := by
  refine stays_mono hK ?_
  refine stays_stageInstr rfl (fun s => ?_) ..
  simp +decide

@[simp] theorem stays_execEdretire {K} (hK : within jobsSet K) (s : State) (c i) : Stays K s (execEdretire c i s) := by
  refine stays_mono hK ?_
  refine stays_stageInstr rfl (fun s => ?_) ..
  simp +decide

@[simp] theorem stays_execSteptoken {K} (hK : within jobsSet K) (s : State) (c i) : Stays K s (execSteptoken c i s) := by
  refine stays_mono hK ?_
  refine stays_stageInstr rfl (fun s => ?_) ..
  simp +decide

/-! ## Wire (`Machine/Wire`) -/

@[simp] theorem outside_emitNumbered {K} (hK : within [.races, .sec, .out] K) (s : State) (r lsn fr) :
    (emitNumbered s r lsn fr).outside K = s.outside K :=
  outside_mono hK (by simp +decide [emitNumbered])

@[simp] theorem outside_emitRace {K} (hK : within [.races, .sec, .out] K) (s : State) (r fr) :
    (emitRace s r fr).outside K = s.outside K :=
  outside_mono hK (by simp +decide [emitRace])

@[simp] theorem outside_emitPlain {K} (hK : within [.sec, .out] K) (s : State) (r fr) : (emitPlain s r fr).outside K = s.outside K :=
  outside_mono hK (by simp +decide [emitPlain])

@[simp] theorem outside_dropAt {K} (hK : within [.hosts] K) (s : State) (a) : (dropAt s a).outside K = s.outside K :=
  outside_mono hK (by simp +decide [dropAt])

@[simp] theorem outside_authFailAt {K} (hK : within [.hosts] K) (s : State) (a) : (authFailAt s a).outside K = s.outside K :=
  outside_mono hK (by simp +decide [authFailAt])

@[simp] theorem outside_countDropped {K} (hK : within [.races, .hosts] K) (s : State) (k) :
    (countDropped s k).outside K = s.outside K := by
  refine outside_mono hK ?_
  unfold countDropped
  split <;> simp +decide

@[simp] theorem outside_dropFrame {K} (hK : within (.races :: eventsSet) K) (s : State) (via detail) :
    (dropFrame s via detail).outside K = s.outside K :=
  outside_mono hK (by simp +decide [dropFrame])

@[simp] theorem outside_leaveAttested {K} (hK : within [.flumes] K) (s : State) (r) : (leaveAttested s r).outside K = s.outside K :=
  outside_mono hK (by simp +decide [leaveAttested])

@[simp] theorem outside_moveJournal {K} (hK : within [.races] K) (s : State) (r) : (moveJournal r s).outside K = s.outside K := by
  refine outside_mono hK ?_
  unfold moveJournal
  split <;> simp +decide

@[simp] theorem outside_toLinked {K} (hK : within [.flumes, .races] K) (s : State) (r) : (toLinked s r).outside K = s.outside K :=
  outside_mono hK (by simp +decide [toLinked])

@[simp] theorem outside_tagFailure {K} (hK : within (.flumes :: .races :: .sec :: eventsSet) K) (s : State) (r) :
    (tagFailure s r).outside K = s.outside K :=
  outside_mono hK (by simp +decide [tagFailure])

@[simp] theorem outside_raceAckDue {K} (hK : within [.races] K) (s : State) (r) : (raceAckDue s r).outside K = s.outside K :=
  outside_mono hK (by simp +decide [raceAckDue])

@[simp] theorem outside_sessionAckDue {K} (hK : within carriesSet K) (s : State) (a n) :
    (sessionAckDue s a n).outside K = s.outside K :=
  outside_mono hK (by simp +decide [sessionAckDue])

@[simp] theorem outside_seeCtr {K} (hK : within [.sec] K) (s : State) (h) : (seeCtr s h).outside K = s.outside K :=
  outside_mono hK (by simp +decide [seeCtr])

@[simp] theorem outside_receiveRace {K} (hK : within (.flumes :: .races :: .sec :: eventsSet) K) (s : State) (r h c) :
    (receiveRace r h c s).1.outside K = s.outside K := by
  refine outside_mono hK ?_
  rw [show receiveRace = _ by delta receiveRace; rfl]
  obtain ⟨take, htake⟩ := asVariable RxLink.take
  obtain ⟨acked, hacked⟩ := asVariable Race.acked
  rw [← htake, ← hacked]
  dsimp only
  split
  · rfl
  split
  · simp +decide
  split
  · simp +decide
  split
  · simp +decide
  split
  · simp +decide
  · split <;> simp +decide
  · simp +decide

@[simp] theorem outside_receiveHost {K} (hK : within carriesSet K) (s : State) (a n h c) :
    (receiveHost a n h c s).1.outside K = s.outside K := by
  refine outside_mono hK ?_
  rw [show receiveHost = _ by delta receiveHost; rfl]
  obtain ⟨take, htake⟩ := asVariable RxLink.take
  obtain ⟨acked, hacked⟩ := asVariable Session.acked_
  rw [← htake, ← hacked]
  dsimp only
  split
  · rfl
  split
  · simp +decide
  split
  · simp +decide
  split
  · simp +decide
  split
  · simp +decide
  · split <;> simp +decide
  · simp +decide

@[simp] theorem outside_receive {K} (hK : within (.flumes :: .races :: carriesSet) K) (s : State) (h c) :
    (receive h c s).1.outside K = s.outside K := by
  refine outside_mono hK ?_
  unfold receive
  split <;> simp +decide

theorem outside_takeKept {K} (hK : within [.races, .hosts] K) (s : State) (via) : ∀ t ∈ takeKept via s, t.2.outside K = s.outside K := by
  refine mem_mono (f := fun t : Instr × State => t.2) hK ?_
  cases via with
  | race r =>
    unfold takeKept
    dsimp only
    split
    · simp only [Option.mem_def, Option.map_eq_some_iff]
      rintro t ⟨y, -, rfl⟩
      simp +decide
    · simp
  | host p n =>
    unfold takeKept
    dsimp only
    split
    · simp only [Option.mem_def, Option.map_eq_some_iff]
      rintro t ⟨y, -, rfl⟩
      simp +decide
    · simp
  | fabric => simp [takeKept]

@[simp] theorem outside_setFlumeState {K} (hK : within (.flumes :: .races :: .pair :: eventsSet) K) (s : State) (f st) :
    (setFlumeState s f st).outside K = s.outside K :=
  outside_mono hK (by simp +decide [setFlumeState])

@[simp] theorem outside_abandonRx {K} (hK : within [.flumes] K) (s : State) (f) : (abandonRx s f).outside K = s.outside K :=
  outside_mono hK (by simp +decide [abandonRx])

@[simp] theorem outside_resendAsks {K} (hK : within (.flumes :: .galley :: .races :: carriesSet) K) (s : State) (f) :
    (resendAsks f s).outside K = s.outside K := by
  refine outside_mono hK ?_
  unfold resendAsks
  dsimp only
  split <;> simp +decide

@[simp] theorem outside_resendFlume {K} (hK : within (.flumes :: .galley :: .races :: carriesSet) K) (s : State) (f) :
    (resendFlume f s).outside K = s.outside K :=
  outside_mono hK (by simp +decide [resendFlume])

/-! ## The Galley (`Machine/Galley`) -/

@[simp] theorem outside_setBucket {K} (hK : within [.galley] K) (s : State) (b) : (State.setBucket s b).outside K = s.outside K :=
  outside_mono hK (by simp +decide [State.setBucket])

@[simp] theorem outside_updBucket {K} (hK : within [.galley] K) (s : State) (bid f) :
    (State.updBucket s bid f).outside K = s.outside K := by
  refine outside_mono hK ?_
  unfold State.updBucket
  split <;> simp +decide

@[simp] theorem outside_dropBucket {K} (hK : within [.galley] K) (s : State) (bid) : (dropBucket s bid).outside K = s.outside K :=
  outside_mono hK (by simp +decide [dropBucket])

@[simp] theorem outside_emitUnit {K} (hK : within (.flumes :: .galley :: .races :: carriesSet) K) (s : State) (b link hop u) :
    (emitUnit b link hop u s).outside K = s.outside K :=
  outside_mono hK (by simp +decide [emitUnit])

@[simp] theorem outside_sendQueue {K} (hK : within (.flumes :: .galley :: .races :: carriesSet) K) (s : State) (b l blocked) :
    (sendQueue s b l blocked).1.outside K = s.outside K := by
  refine outside_mono hK ?_
  induction l generalizing s b blocked with
  | nil => rfl
  | cons x l ih =>
    unfold sendQueue
    dsimp only
    split
    · exact ih ..
    split
    · simp +decide [ih]
    split <;> simp +decide [ih]

@[simp] theorem outside_pumpRed {K} (hK : within (.flumes :: .galley :: .races :: carriesSet) K) (s : State) (bid) :
    (pumpRed bid s).outside K = s.outside K := by
  refine outside_mono hK ?_
  unfold pumpRed
  split <;> simp +decide

@[simp] theorem outside_sendAck {K} (hK : within (.flumes :: .galley :: .races :: carriesSet) K) (s : State) (out id credit n) :
    (sendAck s out id credit n).outside K = s.outside K :=
  outside_mono hK (by simp +decide [sendAck])

@[simp] theorem outside_giveCredit {K} (hK : within (.flumes :: .galley :: .races :: carriesSet) K) (p) (link hop chunk n) :
    (giveCredit link hop chunk n p).1.outside K = p.1.outside K := by
  refine outside_mono hK ?_
  unfold giveCredit
  dsimp only
  split <;> simp +decide

@[simp] theorem outside_takeEarly {K} (hK : within [.galley] K) (s : State) (b) : (takeEarly s b).1.outside K = s.outside K :=
  outside_mono hK (by simp +decide [takeEarly])

@[simp] theorem outside_startRound {K} (hK : within (.flumes :: .galley :: .races :: carriesSet) K) (s : State) (b) {g}
    (h : s.outside K = g) :
    Yields (fun t => t.outside K = g) (startRound b s) := by
  subst h
  unfold startRound
  split
  · trivial
  dsimp only
  split
  · simp +decide [within_trans hK]
  · have hgive (l : List (Nat × Nat)) (p : State × Bucket) :=
      outside_foldl_fst (K := K) (fun p x => outside_giveCredit (within_trans hK rfl) p x.1 firstCredit 0 x.2) l p
    simp +decide [hgive, within_trans hK]

@[simp] theorem outside_redFails {K} (hK : within (.galley :: haltsSet) K) (s : State) (b e) :
    (redFails b e s).outside K = s.outside K := by
  refine outside_mono hK ?_
  unfold redFails
  split <;> simp +decide

@[simp] theorem outside_redSignal {K} (hK : within (.flumes :: .eds :: .galley :: .races :: carriesSet) K) (s : State) (c bid) :
    (redSignal c bid s).outside K = s.outside K := by
  refine outside_mono hK ?_
  unfold redSignal
  dsimp only
  split <;> simp +decide

@[simp] theorem outside_finishRed {K} (hK : within (.flumes :: .eds :: .galley :: .races :: carriesSet) K) (s : State) (b nf) :
    (finishRed b nf s).outside K = s.outside K := by
  refine outside_mono hK ?_
  unfold finishRed
  split <;> simp +decide

@[simp] theorem outside_beginRed {K} (hK : within (.flumes :: .galley :: .races :: carriesSet) K) (s : State) (b) :
    (beginRed b s).outside K = s.outside K := by
  have start (b : Bucket) (t : State) (ht : t.outside K = s.outside K) :
      (match startRound b (t.setBucket b) with
        | .ok s1 => s1
        | .error e => redFails b e (t.setBucket b)).outside K = s.outside K := by
    have hset : (t.setBucket b).outside K = s.outside K := (outside_setBucket (within_trans hK rfl) ..).trans ht
    split
    · next h => exact (outside_startRound (within_trans hK rfl) _ _ hset).of_ok h
    · exact (outside_redFails (within_trans hK rfl) ..).trans hset
  unfold beginRed
  dsimp only
  split
  · exact start _ _ (by simp +decide [within_trans hK])
  split
  · simp +decide [within_trans hK]
  · split
    · exact start _ _ (by simp +decide [within_trans hK])
    · exact start _ _ rfl

theorem outside_carryScale {K} (hK : within (.flumes :: .eds :: .galley :: .races :: carriesSet) K) (s : State) (b h) :
    ∀ t ∈ carryScale b h s, t.outside K = s.outside K := by
  refine mem_mono hK ?_
  unfold carryScale
  split
  · simp +decide
  split
  · simp +decide
  split
  · next h => simpa +decide using outside_of_fst h (outside_writeMem rfl ..)
  · simp +decide
  · next h => simpa +decide using outside_of_fst h (outside_writeMem rfl ..)

@[simp] theorem outside_tryBegin {K} (hK : within (.flumes :: .eds :: .galley :: .races :: carriesSet) K) (p) (bid) :
    (tryBegin bid p).1.outside K = p.1.outside K := by
  refine outside_mono hK ?_
  obtain ⟨s, blocked⟩ := p
  unfold tryBegin
  dsimp only
  split
  · rfl
  next b _ =>
  simp +decide
  intros
  split
  · next h =>
    split at h
    · exact outside_carryScale rfl _ _ _ _ h
    · simp +decide at h
  · simp +decide

@[simp] theorem outside_retryRound {K} (hK : within (.flumes :: .galley :: .races :: carriesSet) K) (s : State) (bid) :
    (retryRound bid s).outside K = s.outside K := by
  refine outside_mono hK ?_
  unfold retryRound
  split
  · split
    · rfl
    split
    · split
      · next h => exact (outside_startRound rfl _ _ rfl).of_ok h
      · simp +decide
    · split <;> simp +decide
  · rfl

@[simp] theorem outside_wakeReds {K} (hK : within (.flumes :: .eds :: .galley :: .races :: carriesSet) K) (s : State) (c) :
    (wakeReds c s).outside K = s.outside K := by
  refine outside_mono hK ?_
  refine (outside_foldl_fst (fun p x => outside_tryBegin rfl ..) _ _).trans ?_
  exact outside_foldl (fun s x => outside_retryRound rfl ..) _ _

@[simp] theorem outside_issueRed {K} (hK : within (.flumes :: .eds :: .galley :: .races :: carriesSet) K) (s : State)
    (c i kind lastred w) :
    (issueRed c i kind lastred w s).outside K = s.outside K :=
  outside_mono hK (by simp +decide [issueRed])

@[simp] theorem outside_issueBody {K} (hK : within (.flumes :: .eds :: .galley :: .races :: carriesSet) K) (s : State)
    (c i scheds kind lastred) {g} (h : s.outside K = g) :
    Yields (fun t => t.1.outside K = g) (issueBody c i scheds kind lastred s) := by
  unfold issueBody
  dsimp only
  refine (yields_bind ..).2 (yields_of_forall (fun _ => ?_) _)
  split <;> simp +decide [h, within_trans hK]

@[simp] theorem outside_afterIssue {K} (hK : within jobsSet K) (s : State) (c) : (afterIssue c s).outside K = s.outside K :=
  outside_mono hK (by simp +decide [afterIssue])

@[simp] theorem stays_execBscale {K} (hK : within jobsSet K) (s : State) (c i) : Stays K s (execBscale c i s) := by
  refine stays_andThen (stays_startStage (within_trans hK rfl) (fun s => ?_) ..) (fun s => outside_afterIssue (within_trans hK rfl) ..)
  simp [outside_issueBody (within_trans hK rfl)]

@[simp] theorem stays_execBred {K} (hK : within jobsSet K) (s : State) (c i) : Stays K s (execBred c i s) := by
  refine stays_andThen (stays_startStage (within_trans hK rfl) (fun s => ?_) ..) (fun s => outside_afterIssue (within_trans hK rfl) ..)
  simp [outside_issueBody (within_trans hK rfl)]

@[simp] theorem outside_redMismatch {K} (hK : within (.ctxs :: .galley :: eventsSet) K) (s : State) (b field) :
    (redMismatch b field s).outside K = s.outside K :=
  outside_mono hK (by simp +decide [redMismatch])

@[simp] theorem outside_beginSecond {K} (hK : within (.flumes :: .galley :: .races :: carriesSet) K) (p) :
    (beginSecond p).1.outside K = p.1.outside K := by
  refine outside_mono hK ?_
  obtain ⟨s, b⟩ := p
  unfold beginSecond
  dsimp only
  split
  · exact outside_foldl_fst (fun p x => outside_giveCredit rfl ..) _ _
  · rfl

@[simp] theorem outside_freeHolding {K} (hK : within (.flumes :: .galley :: .races :: carriesSet) K) (p) :
    (freeHolding p).1.outside K = p.1.outside K := by
  refine outside_mono hK ?_
  exact outside_foldl_fst (fun p x => outside_giveCredit rfl ..) _ _

@[simp] theorem outside_loseLine {K} (hK : within [.galley] K) (s : State) (b chunk) : (loseLine b chunk s).outside K = s.outside K := by
  refine outside_mono hK ?_
  unfold loseLine
  split <;> simp +decide

@[simp] theorem outside_acceptUnit {K} (hK : within (.flumes :: .galley :: .races :: carriesSet) K) (s : State)
    (b link id hdr lines err) :
    (acceptUnit b link id hdr lines err s).outside K = s.outside K := by
  unfold acceptUnit
  extract_lets hop u ch b1 lineLost lost src h s1 b2
  have h1 : s1.outside K = s.outside K := by unfold s1; cases err <;> simp +decide [within_trans hK]
  split
  next s2 b3 h2 =>
  have h2 : s2.outside K = s.outside K := by
    rw [← h1]
    split at h2
    · exact outside_of_fst h2 (by simp +decide [within_trans hK])
    · exact outside_of_fst h2 rfl
  split
  next h3 =>
  have := outside_of_fst h3 (outside_beginSecond (within_trans hK rfl) _)
  simpa +decide [h2, within_trans hK] using this

@[simp] theorem outside_redArrives {K} (hK : within (.flumes :: .galley :: .races :: carriesSet) K) (s : State)
    (h id hdr a nb lines err) :
    (redArrives h id hdr a nb lines err s).outside K = s.outside K := by
  refine outside_mono hK ?_
  unfold redArrives
  dsimp only
  (repeat' split) <;> simp +decide

theorem outside_takeLocal {K} (hK : within [.galley] K) (s : State) (a) : ∀ t ∈ takeLocal s a, t.outside K = s.outside K :=
  mem_mono hK (by simp +decide [takeLocal])

@[simp] theorem outside_ackArrives {K} (hK : within (.flumes :: .galley :: .races :: carriesSet) K) (s : State) (b ch) :
    (ackArrives b ch s).outside K = s.outside K :=
  outside_mono hK (by simp +decide [ackArrives])

@[simp] theorem outside_redackArrives {K} (hK : within (.flumes :: .galley :: .races :: carriesSet) K) (s : State) (h id credit n) :
    (redackArrives h id credit n s).outside K = s.outside K := by
  refine outside_mono hK ?_
  unfold redackArrives
  dsimp only
  (repeat' split) <;> simp +decide

@[simp] theorem outside_resendReds {K} (hK : within (.flumes :: .galley :: .races :: carriesSet) K) (s : State) (f) :
    (resendReds f s).outside K = s.outside K := by
  refine outside_mono hK ?_
  refine outside_foldl (fun s b => ?_) _ _
  dsimp only
  refine (outside_foldl (fun s c => ?_) _ _).trans (by simp +decide)
  refine outside_foldl (fun s u => ?_) _ _
  simp +decide

@[simp] theorem outside_nextRound {K} (hK : within (.flumes :: .galley :: .races :: carriesSet) K) (s : State) (b) :
    (nextRound b s).outside K = s.outside K := by
  refine outside_mono hK ?_
  unfold nextRound
  dsimp only
  split
  · next h => exact (outside_startRound rfl _ _ (by simp +decide)).of_ok h
  · simp +decide

@[simp] theorem outside_countRepeat {K} (hK : within [.galley] K) (s : State) : (countRepeat s).outside K = s.outside K :=
  outside_mono hK (by simp +decide [countRepeat])

@[simp] theorem outside_scaleDone {K} (hK : within (.flumes :: .eds :: .galley :: .races :: carriesSet) K) (s : State) (b) :
    (scaleDone b s).outside K = s.outside K := by
  refine outside_mono hK ?_
  unfold scaleDone
  split
  · simp +decide
  dsimp only
  split
  · split
    · next h => simpa +decide using outside_of_fst h (outside_writeMem rfl ..)
    · simp +decide
    · next h => simpa +decide using outside_of_fst h (outside_writeMem rfl ..)
  · simp +decide

@[simp] theorem outside_dataDone {K} (hK : within (.flumes :: .galley :: .races :: carriesSet) K) (s : State) (b) :
    (dataDone b s).outside K = s.outside K :=
  outside_mono hK (by simp +decide [dataDone])

@[simp] theorem stays_execRoundComplete {K} (hK : within jobsSet K) (s : State) (c btag) : Stays K s (execRoundComplete c btag s) := by
  refine stays_mono hK ?_
  unfold execRoundComplete
  split <;> simp +decide

@[simp] theorem outside_completeBucket {K} (hK : within (.flumes :: .eds :: .galley :: .races :: carriesSet) K) (s : State) (b) :
    (completeBucket b s).outside K = s.outside K := by
  refine outside_mono hK ?_
  unfold completeBucket
  split
  · simp +decide
  · next h => simpa +decide using outside_of_fst (K := (.flumes :: .eds :: .galley :: .races :: carriesSet)) h (outside_writeMem rfl ..)
  · next h =>
    have := outside_of_fst (K := (.flumes :: .eds :: .galley :: .races :: carriesSet)) h (outside_writeMem rfl ..)
    dsimp only
    split <;> simpa +decide [-flumes_updCtx] using this

@[simp] theorem stays_execBucketComplete {K} (hK : within jobsSet K) (s : State) (c btag) : Stays K s (execBucketComplete c btag s) := by
  refine stays_mono hK ?_
  unfold execBucketComplete
  split <;> simp +decide

@[simp] theorem stays_execGalleyStall {K} (hK : within (.galley :: eventsSet) K) (s : State) (c btag) :
    Stays K s (execGalleyStall c btag s) := by
  refine stays_mono hK ?_
  unfold execGalleyStall
  split <;> simp +decide

@[simp] theorem outside_lowerQuota {K} (hK : within (.ctxs :: .galley :: eventsSet) K) (s : State) :
    (lowerQuota s).outside K = s.outside K := by
  refine outside_mono hK ?_
  unfold lowerQuota
  (repeat' split) <;> simp +decide [-flumes_updCtx]

@[simp] theorem stays_execFormeDisable {K} (hK : within (.ctxs :: .galley :: .boot :: eventsSet) K) (s : State) (forme) :
    Stays K s (execFormeDisable forme s) :=
  stays_mono hK (by simp +decide [execFormeDisable])

/-! ## Flumes (`Machine/Flume`) -/

@[simp] theorem outside_releaseGrant {K} (hK : within [.mm, .ctxs, .pool, .eds] K) (s : State) (e) :
    (releaseGrant s e).outside K = s.outside K :=
  outside_mono hK (by simp +decide [releaseGrant])

@[simp] theorem outside_enterClosed {K} (hK : within [.mm, .ctxs, .pool, .flumes, .eds, .races, .hosts, .mil, .pair, .out] K) (s : State)
    (f) :
    (enterClosed s f).outside K = s.outside K :=
  outside_mono hK (by simp +decide [enterClosed])

@[simp] theorem outside_sendClose {K} (hK : within (.flumes :: .eds :: .galley :: .races :: carriesSet) K) (s : State) (f) :
    (sendClose s f).outside K = s.outside K :=
  outside_mono hK (by simp +decide [sendClose])

@[simp] theorem outside_closings {K} (hK : within (.flumes :: .eds :: .galley :: .races :: carriesSet) K) (s : State) :
    (closings s).outside K = s.outside K :=
  outside_mono hK (by simp +decide [closings])

@[simp] theorem outside_afterFlume {K} (hK : within jobsSet K) (s : State) : (afterFlume s).outside K = s.outside K :=
  outside_mono hK (by simp +decide [afterFlume])

@[simp] theorem outside_onFlume {K} (hK : within jobsSet K) {act : State → State} (hact : ∀ s, (act s).outside K = s.outside K)
    (s : State) (h typ detail) :
    (onFlume h typ detail act s).outside K = s.outside K := by
  simp +decide [onFlume, hact, within_trans hK]

@[simp] theorem outside_issueGrant {K} (hK : within (.nextEntry :: .flumes :: .eds :: .galley :: .races :: carriesSet) K) (s : State)
    (f) :
    (issueGrant f s).outside K = s.outside K := by
  refine outside_mono hK ?_
  rw [show issueGrant = _ by delta issueGrant; rfl]
  extract_lets x
  split
  · rfl
  · next h => simpa +decide using outside_takePages rfl _ _ _ _ _ h

@[simp] theorem stays_execGrantIssue {K}
    (hK : within (.nextEntry :: .flumes :: .eds :: .galley :: .races :: .grantStalls :: carriesSet) K) (s : State) (f) :
    Stays K s (execGrantIssue f s) :=
  stays_mono hK (by simp +decide [execGrantIssue])

@[simp] theorem outside_grantActs {K} (hK : within jobsSet K) (s : State) (h grantNo) :
    (grantActs h grantNo s).outside K = s.outside K :=
  outside_mono hK (by simp +decide [grantActs])

@[simp] theorem outside_journalAccepted {K} (hK : within [.races, .pair] K) (s : State) (f e) :
    (journalAccepted s f e).outside K = s.outside K := by
  refine outside_mono hK ?_
  unfold journalAccepted
  split <;> simp +decide

@[simp] theorem outside_acceptEntry {K} (hK : within (.flumes :: .eds :: .galley :: .races :: carriesSet) K) (s : State)
    (f e seq step mbid edition) :
    (acceptEntry f e seq step mbid edition s).outside K = s.outside K := by
  refine outside_mono hK ?_
  unfold acceptEntry
  split
  · rfl
  · simp +decide only [outside_hold, outside_journalAccepted, outside_setFlume, outside_setHopper, outside_setEntry, outside_returnPages]

@[simp] theorem outside_acceptRx {K} (hK : within (.flumes :: .eds :: .galley :: .races :: carriesSet) K) (s : State) (f) :
    (acceptRx f s).outside K = s.outside K := by
  refine outside_mono hK ?_
  unfold acceptRx
  split <;> simp +decide

@[simp] theorem outside_duplicateMb {K} (hK : within (.flumes :: .galley :: .races :: carriesSet) K) (s : State) (f seq) :
    (duplicateMb f seq s).outside K = s.outside K := by
  refine outside_mono hK ?_
  unfold duplicateMb
  split <;> simp +decide

@[simp] theorem outside_mbArrives {K} (hK : within (.flumes :: .galley :: .races :: carriesSet) K) (s : State)
    (via f seq step grantNo mbid edition len) :
    (mbArrives via f seq step grantNo mbid edition len s).outside K = s.outside K := by
  refine outside_mono hK ?_
  unfold mbArrives
  dsimp only
  (repeat' split) <;> simp +decide

@[simp] theorem outside_mbhdrActs {K} (hK : within jobsSet K) (s : State) (h seq step grantNo mbid edition len) :
    (mbhdrActs h seq step grantNo mbid edition len s).outside K = s.outside K :=
  outside_mono hK (by simp +decide [mbhdrActs])

@[simp] theorem outside_dataArrives {K} (hK : within (.flumes :: .galley :: .races :: carriesSet) K) (s : State)
    (f seq seg size last bytes) :
    (dataArrives f seq seg size last bytes s).outside K = s.outside K := by
  refine outside_mono hK ?_
  unfold dataArrives
  dsimp only
  (repeat' split) <;> simp +decide

@[simp] theorem outside_dataActs {K} (hK : within jobsSet K) (s : State) (h seq last seg bytes) :
    (dataActs h seq last seg bytes s).outside K = s.outside K :=
  outside_mono hK (by simp +decide [dataActs])

@[simp] theorem outside_takeItem {K} (hK : within [.flumes] K) (s : State) (g grant) : (takeItem s g grant).outside K = s.outside K :=
  outside_mono hK (by simp +decide [takeItem])

@[simp] theorem outside_localMb {K} (hK : within (.flumes :: .eds :: .galley :: .races :: carriesSet) K) (s : State) (f) :
    (localMb f s).outside K = s.outside K := by
  refine outside_mono hK ?_
  unfold localMb
  dsimp only
  (repeat' split) <;> simp +decide

@[simp] theorem stays_execAcceptance {K} (hK : within jobsSet K) (s : State) (f) : Stays K s (execAcceptance f s) :=
  stays_mono hK (by simp +decide [execAcceptance])

@[simp] theorem outside_receiptActs {K} (hK : within jobsSet K) (s : State) (h seq step what) :
    (receiptActs h seq step what s).outside K = s.outside K :=
  outside_mono hK (by simp +decide [receiptActs])

@[simp] theorem outside_recallAtOut {K} (hK : within (.flumes :: .galley :: .races :: carriesSet) K) (s : State) (f seq step) :
    (recallAtOut f seq step s).outside K = s.outside K := by
  refine outside_mono hK ?_
  unfold recallAtOut
  (repeat' split) <;> simp +decide

@[simp] theorem outside_recallAtIn {K} (hK : within [.pool] K) (s : State) (f seq) : (recallAtIn f seq s).outside K = s.outside K := by
  refine outside_mono hK ?_
  unfold recallAtIn
  split <;> simp +decide

@[simp] theorem outside_recallActs {K} (hK : within jobsSet K) (s : State) (h seq step) :
    (recallActs h seq step s).outside K = s.outside K :=
  outside_mono hK (by simp +decide [recallActs])

@[simp] theorem outside_recordPeer {K} (hK : within [.ctxs, .races, .pair] K) (s : State) (c j n token) :
    (recordPeer s c j n token).outside K = s.outside K := by
  refine outside_mono hK ?_
  unfold recordPeer
  split <;> simp +decide

@[simp] theorem outside_tokenArrives {K} (hK : within (.flumes :: .eds :: .galley :: .races :: carriesSet) K) (s : State) (f n token) :
    (tokenArrives f n token s).outside K = s.outside K := by
  refine outside_mono hK ?_
  unfold tokenArrives
  dsimp only
  (repeat' split) <;> simp +decide

@[simp] theorem outside_localToken {K} (hK : within (.flumes :: .eds :: .galley :: .races :: carriesSet) K) (s : State) (f n token) :
    (localToken f n token s).outside K = s.outside K := by
  refine outside_mono hK ?_
  unfold localToken
  dsimp only
  split <;> simp +decide

@[simp] theorem outside_tokenActs {K} (hK : within jobsSet K) (s : State) (h step) : (tokenActs h step s).outside K = s.outside K :=
  outside_mono hK (by simp +decide [tokenActs])

@[simp] theorem outside_noticeActs {K} (hK : within jobsSet K) (s : State) (h step) : (noticeActs h step s).outside K = s.outside K :=
  outside_mono hK (by simp +decide [noticeActs])

@[simp] theorem outside_enterOpen {K} (hK : within (.flumes :: .races :: carriesSet) K) (s : State) (f) :
    (enterOpen f s).outside K = s.outside K :=
  outside_mono hK (by simp +decide [enterOpen])

@[simp] theorem outside_refuseOpen {K} (hK : within (.flumes :: .races :: .pair :: eventsSet) K) (s : State) (f field) :
    (refuseOpen f field s).outside K = s.outside K :=
  outside_mono hK (by simp +decide [refuseOpen])

@[simp] theorem outside_offerArrives {K} (hK : within (.flumes :: .eds :: .galley :: .races :: carriesSet) K) (s : State)
    (via f from_ member dir len4k) :
    (offerArrives via f from_ member dir len4k s).outside K = s.outside K := by
  refine outside_mono hK ?_
  unfold offerArrives
  dsimp only
  (repeat' split) <;> simp +decide

@[simp] theorem outside_openActs {K} (hK : within jobsSet K) (s : State) (h dir len4k) :
    (openActs h dir len4k s).outside K = s.outside K :=
  outside_mono hK (by simp +decide [openActs])

@[simp] theorem outside_openackActs {K} (hK : within jobsSet K) (s : State) (h result) :
    (openackActs h result s).outside K = s.outside K :=
  outside_mono hK (by simp +decide [openackActs])

@[simp] theorem outside_openLocal {K} (hK : within (.flumes :: .races :: carriesSet) K) (s : State) (f) :
    (openLocal f s).outside K = s.outside K :=
  outside_mono hK (by simp +decide [openLocal])

@[simp] theorem outside_wakePath {K} (hK : within (.flumes :: .galley :: .races :: carriesSet) K) (s : State) (f) :
    (wakePath f s).outside K = s.outside K := by
  refine outside_mono hK ?_
  unfold wakePath
  split <;> simp +decide

@[simp] theorem outside_wakePaths {K} (hK : within (.flumes :: .galley :: .races :: carriesSet) K) (s : State) :
    (wakePaths s).outside K = s.outside K :=
  outside_mono hK (by simp +decide [wakePaths])

@[simp] theorem outside_startOpen {K} (hK : within (.flumes :: .galley :: .races :: carriesSet) K) (s : State) (f) :
    (startOpen f s).outside K = s.outside K := by
  refine outside_mono hK ?_
  unfold startOpen
  split <;> simp +decide

@[simp] theorem outside_abandonTx {K} (hK : within (.pool :: .flumes :: eventsSet) K) (s : State) (f) :
    (abandonTx f s).outside K = s.outside K :=
  outside_mono hK (by simp +decide [abandonTx])

@[simp] theorem outside_askClose {K} (hK : within (.flumes :: .galley :: .races :: carriesSet) K) (s : State) (f forced) :
    (askClose f forced s).outside K = s.outside K :=
  outside_mono hK (by simp +decide [askClose])

@[simp] theorem outside_startClose {K} (hK : within (.flumes :: .eds :: .galley :: .races :: carriesSet) K) (s : State) (f forced) :
    (startClose f forced s).outside K = s.outside K :=
  outside_mono hK (by simp +decide [startClose])

@[simp] theorem outside_closeActs {K} (hK : within jobsSet K) (s : State) (h forced firstUnused) :
    (closeActs h forced firstUnused s).outside K = s.outside K := by
  refine outside_mono hK (outside_onFlume rfl (fun s => ?_) ..)
  simp +decide

@[simp] theorem stays_execFlumeBreak {K} (hK : within (.flumes :: .races :: .pair :: eventsSet) K) (s : State) (f) :
    Stays K s (execFlumeBreak f s) :=
  stays_mono hK (by simp +decide [execFlumeBreak])

@[simp] theorem outside_leavePath {K} (hK : within (.flumes :: .galley :: .races :: carriesSet) K) (s : State) (f) :
    (leavePath f s).outside K = s.outside K := by
  refine outside_mono hK ?_
  unfold leavePath
  split <;> simp +decide

@[simp] theorem stays_execPathFail {K} (hK : within jobsSet K) (s : State) (f) : Stays K s (execPathFail f s) :=
  stays_mono hK (by simp +decide [execPathFail])

@[simp] theorem stays_execDrainComplete {K} (hK : within jobsSet K) (s : State) (c) : Stays K s (execDrainComplete c s) :=
  stays_mono hK (by simp +decide [execDrainComplete])

/-! ## Races (`Machine/Race`) -/

@[simp] theorem outside_noteLane {K} (hK : within (.boot :: eventsSet) K) (s : State) (r action) :
    (noteLane s r action).outside K = s.outside K :=
  outside_mono hK (by simp +decide [noteLane])

@[simp] theorem outside_endRace {K} (hK : within [.flumes, .races] K) (s : State) (r st) : (endRace s r st).outside K = s.outside K :=
  outside_mono hK (by simp +decide [endRace])

@[simp] theorem outside_failRace {K} (hK : within (.flumes :: .races :: .boot :: eventsSet) K) (s : State) (r) :
    (failRace s r).outside K = s.outside K :=
  outside_mono hK (by simp +decide [failRace])

@[simp] theorem outside_takeLanes {K} (hK : within (.races :: .boot :: eventsSet) K) (s : State) (r set) :
    (takeLanes r set s).outside K = s.outside K :=
  outside_mono hK (by simp +decide [takeLanes])

@[simp] theorem outside_markBad {K} (hK : within [.races, .racePorts] K) (s : State) (r l) : (markBad s r l).outside K = s.outside K :=
  outside_mono hK (by simp +decide [markBad])

@[simp] theorem outside_wakeLanes {K} (hK : within [.racePorts] K) (s : State) (r l) : (wakeLanes s r l).outside K = s.outside K :=
  outside_mono hK (by simp +decide [wakeLanes])

@[simp] theorem outside_countRetrain {K} (hK : within (.racePorts :: .boot :: eventsSet) K) (s : State) (r) :
    (countRetrain s r).outside K = s.outside K :=
  outside_mono hK (by simp +decide [countRetrain])

@[simp] theorem outside_freshTraining {K} (hK : within [.flumes, .races, .racePorts] K) (s : State) (r) :
    (freshTraining s r).outside K = s.outside K :=
  outside_mono hK (by simp +decide [freshTraining])

@[simp] theorem outside_enterRetraining {K} (hK : within [.races] K) (s : State) (r) : (enterRetraining s r).outside K = s.outside K :=
  outside_mono hK (by simp +decide [enterRetraining])

@[simp] theorem outside_retrainRace {K} (hK : within [.flumes, .races, .racePorts] K) (s : State) (r) :
    (retrainRace s r).outside K = s.outside K :=
  outside_mono hK (by simp +decide [retrainRace])

@[simp] theorem stays_execRaceTraining {K} (hK : within (.flumes :: .races :: .racePorts :: .boot :: eventsSet) K) (s : State) (r e) :
    Stays K s (execRaceTraining r e s) := by
  refine stays_mono hK ?_
  unfold execRaceTraining
  dsimp only
  (repeat' split) <;> simp +decide

@[simp] theorem stays_execTrainingTimeout {K} (hK : within (.flumes :: .races :: .boot :: eventsSet) K) (s : State) (r) :
    Stays K s (execTrainingTimeout r s) :=
  stays_mono hK (by simp +decide [execTrainingTimeout])

@[simp] theorem outside_noteErrors {K} (hK : within [.racePorts] K) (s : State) (r errors) :
    (noteErrors s r errors).outside K = s.outside K :=
  outside_mono hK (by simp +decide [noteErrors])

@[simp] theorem outside_freshChallenge {K} (hK : within [.freeCtr, .races] K) (s : State) (r) :
    (freshChallenge s r).outside K = s.outside K :=
  outside_mono hK (by simp +decide [freshChallenge])

@[simp] theorem outside_enterHello {K} (hK : within [.freeCtr, .races] K) (s : State) (r) : (enterHello s r).outside K = s.outside K :=
  outside_mono hK (by simp +decide [enterHello])

@[simp] theorem stays_execQualification {K} (hK : within [.freeCtr, .races, .racePorts] K) (s : State) (r errors) :
    Stays K s (execQualification r errors s) :=
  stays_mono hK (by simp +decide [execQualification])

@[simp] theorem stays_execHelloSend {K} (hK : within [.sec, .out] K) (s : State) (r) : Stays K s (execHelloSend r s) :=
  stays_mono hK (by simp +decide [execHelloSend])

@[simp] theorem outside_sendBody {K} (hK : within [.sec, .out] K) (s : State) (r) : (sendBody s r).outside K = s.outside K :=
  outside_mono hK (by simp +decide [sendBody])

@[simp] theorem outside_tryAttest {K} (hK : within [.races, .sec, .out] K) (s : State) (r) : (tryAttest s r).outside K = s.outside K :=
  outside_mono hK (by simp +decide [tryAttest])

@[simp] theorem stays_execHello {K} (hK : within (.flumes :: .races :: .sec :: .boot :: eventsSet) K) (s : State) (r m) :
    Stays K s (execHello r m s) :=
  stays_mono hK (by simp +decide [execHello])

@[simp] theorem outside_resendJournal {K} (hK : within [.races] K) (s : State) (r) : (resendJournal s r).outside K = s.outside K :=
  outside_mono hK (by simp +decide [resendJournal])

@[simp] theorem outside_announce {K} (hK : within [.races] K) (s : State) (r) : (announce s r).outside K = s.outside K :=
  outside_mono hK (by simp +decide [announce])

@[simp] theorem outside_rejoin {K} (hK : within [.pair] K) (s : State) (r) : (rejoin s r).outside K = s.outside K :=
  outside_mono hK (by simp +decide [rejoin])

@[simp] theorem outside_firstSealed {K} (hK : within [.races] K) (s : State) (r) : (firstSealed s r).outside K = s.outside K :=
  outside_mono hK (by simp +decide [firstSealed])

@[simp] theorem outside_enterAttested {K} (hK : within (.flumes :: .galley :: .races :: carriesSet) K) (s : State) (r) :
    (enterAttested s r).outside K = s.outside K := by
  refine outside_mono hK ?_
  unfold enterAttested
  dsimp only
  (repeat' split) <;> simp +decide

@[simp] theorem outside_pumpRaceFlumes {K} (hK : within (.flumes :: .races :: carriesSet) K) (s : State) (r) :
    (pumpRaceFlumes s r).outside K = s.outside K := by
  refine outside_mono hK ?_
  refine outside_foldl (fun s f => ?_) _ _
  split <;> simp +decide

@[simp] theorem outside_resumeFrames {K} (hK : within (.flumes :: .races :: carriesSet) K) (s : State) (r) :
    (resumeFrames s r).outside K = s.outside K :=
  outside_mono hK (by simp +decide [resumeFrames])

@[simp] theorem outside_endRecovery {K} (hK : within (.flumes :: .races :: carriesSet) K) (s : State) (r) :
    (endRecovery s r).outside K = s.outside K :=
  outside_mono hK (by simp +decide [endRecovery])

@[simp] theorem outside_attestFails {K} (hK : within (.flumes :: .races :: .boot :: eventsSet) K) (s : State) (r code) :
    (attestFails s r code).outside K = s.outside K :=
  outside_mono hK (by simp +decide [attestFails])

@[simp] theorem outside_attestPasses {K} (hK : within (.flumes :: .galley :: .races :: .boot :: carriesSet) K) (s : State) (r) :
    (attestPasses s r).outside K = s.outside K :=
  outside_mono hK (by simp +decide [attestPasses])

@[simp] theorem outside_attestStep {K} (hK : within (.flumes :: .galley :: .races :: .boot :: carriesSet) K) (s : State) (r) :
    (attestStep s r).outside K = s.outside K := by
  refine outside_mono hK ?_
  unfold attestStep
  dsimp only
  split <;> simp +decide

@[simp] theorem outside_verifyBody {K} (hK : within (.flumes :: .galley :: .races :: .boot :: carriesSet) K) (s : State) (r a) :
    (verifyBody r a s).outside K = s.outside K :=
  outside_mono hK (by simp +decide [verifyBody])

@[simp] theorem stays_execAttest {K} (hK : within (.boot :: jobsSet) K) (s : State) (r a) : Stays K s (execAttest r a s) := by
  refine stays_mono hK ?_
  unfold execAttest
  split <;> simp +decide

@[simp] theorem stays_execAttestRetry {K} (hK : within [.races, .sec, .out] K) (s : State) (r) : Stays K s (execAttestRetry r s) :=
  stays_mono hK (by simp +decide [execAttestRetry])

@[simp] theorem stays_execFailedRetry {K} (hK : within (.flumes :: .races :: .racePorts :: .boot :: eventsSet) K) (s : State) (r) :
    Stays K s (execFailedRetry r s) :=
  stays_mono hK (by simp +decide [execFailedRetry])

@[simp] theorem stays_execLinkAckTimer {K} (hK : within [.races, .sec, .out] K) (s : State) (r) : Stays K s (execLinkAckTimer r s) :=
  stays_mono hK (by simp +decide [execLinkAckTimer])

@[simp] theorem outside_nackActs {K} (hK : within [.races] K) (s : State) (r base missing) :
    (nackActs r base missing s).outside K = s.outside K :=
  outside_mono hK (by simp +decide [nackActs])

@[simp] theorem stays_execRetransmissionTimeout {K} (hK : within [.races] K) (s : State) (r) :
    Stays K s (execRetransmissionTimeout r s) := by
  refine stays_mono hK ?_
  unfold execRetransmissionTimeout
  dsimp only
  split <;> simp +decide

@[simp] theorem stays_execFrameTransmit {K} (hK : within (.flumes :: .races :: carriesSet) K) (s : State) (r) :
    Stays K s (execFrameTransmit r s) := by
  refine stays_mono hK ?_
  unfold execFrameTransmit
  dsimp only
  (repeat' split) <;> simp +decide

@[simp] theorem stays_execLaneFailure {K} (hK : within (.races :: .racePorts :: .boot :: eventsSet) K) (s : State) (r lane) :
    Stays K s (execLaneFailure r lane s) :=
  stays_mono hK (by simp +decide [execLaneFailure])

@[simp] theorem stays_execRetrainRecovery {K} (hK : within [.freeCtr, .flumes, .races, .racePorts, .hosts, .mil, .boot, .out] K)
    (s : State) (r good errors) :
    Stays K s (execRetrainRecovery r good errors s) := by
  refine stays_mono hK ?_
  unfold execRetrainRecovery
  dsimp only
  (repeat' split) <;> simp +decide

/-! ## Host ports (`Machine/HostPort`) -/

@[simp] theorem stays_hearPacket {K} (hK : within [.hosts] K) {act : State → State} (hact : ∀ s, (act s).outside K = s.outside K)
    (s : State) (p groups d) :
    Stays K s (hearPacket p groups d s act) := by
  unfold hearPacket
  simp +decide [hact, within_trans hK]

@[simp] theorem outside_rateReply {K} (hK : within [.hosts, .ipWait, .out] K) (s : State) (a dst o) :
    (rateReply s a dst o).outside K = s.outside K :=
  outside_mono hK (by simp +decide [rateReply])

@[simp] theorem stays_execDiscover {K} (hK : within [.freeCtr, .hosts, .ipWait, .out] K) (s : State) (a d) :
    Stays K s (execDiscover a d s) :=
  stays_mono hK (by simp +decide [execDiscover])

@[simp] theorem outside_giveCookie {K} (hK : within [.hosts, .ipWait, .out] K) (s : State) (a d) :
    (giveCookie s a d).outside K = s.outside K :=
  outside_mono hK (by simp +decide [giveCookie])

@[simp] theorem stays_execSopenFirstForm {K} (hK : within [.hosts, .ipWait, .out] K) (s : State) (a d) :
    Stays K s (execSopenFirstForm a d s) :=
  stays_mono hK (by simp +decide [execSopenFirstForm])

@[simp] theorem outside_freeSession {K} (hK : within [.flumes, .hosts] K) (s : State) (a n) :
    (freeSession s a n).outside K = s.outside K :=
  outside_mono hK (by simp +decide [freeSession])

@[simp] theorem outside_breakSession {K} (hK : within [.flumes, .hosts] K) (s : State) (a n) :
    (breakSession a n s).outside K = s.outside K :=
  outside_mono hK (by simp +decide [breakSession])

theorem outside_sopenFails {K} (hK : within [.hosts] K) (s : State) (a h) : ∀ t ∈ sopenFails s a h, t.outside K = s.outside K := by
  refine mem_mono hK ?_
  unfold sopenFails
  (repeat' split) <;> simp +decide

@[simp] theorem outside_sopenRefusal {K} (hK : within [.hosts] K) (s : State) (a h jobId replaces) :
    (sopenRefusal s a h jobId replaces).2.outside K = s.outside K := by
  refine outside_mono hK ?_
  unfold sopenRefusal
  dsimp only
  split
  · rfl
  split
  · next h => exact outside_sopenFails rfl _ _ _ _ h
  · split_ifs <;> rfl

@[simp] theorem outside_openSession {K} (hK : within [.hosts, .sec, .ipWait, .out] K) (s : State) (a h segsize window) :
    (openSession s a h segsize window).outside K = s.outside K :=
  outside_mono hK (by simp +decide [openSession])

@[simp] theorem stays_execSopenSecondForm {K} (hK : within jobsSet K) (s : State) (p h cookie jobId segsize window replaces) :
    Stays K s (execSopenSecondForm p h cookie jobId segsize window replaces s) := by
  refine stays_mono hK ?_
  have hr := outside_sopenRefusal (K := jobsSet) rfl s p h jobId replaces
  unfold execSopenSecondForm
  dsimp only
  split
  · simp
  split
  · simp +decide
  split
  · simp
  split
  · simp +decide
  split <;> next h =>
    rw [h] at hr
    simp +decide [hr]

@[simp] theorem stays_execCookieEpoch {K} (hK : within [.freeCtr, .cookieSecret, .cookiePrev, .cookieEpoch] K) (s : State) :
    Stays K s (execCookieEpoch s) :=
  stays_mono hK (by simp +decide [execCookieEpoch])

@[simp] theorem outside_halve {K} (hK : within [.hosts] K) (s : State) (a n) : (halve s a n).outside K = s.outside K :=
  outside_mono hK (by simp +decide [halve])

@[simp] theorem outside_ackActs {K} (hK : within carriesSet K) (s : State) (a n ceCount) :
    (ackActs a n ceCount s).outside K = s.outside K :=
  outside_mono hK (by simp +decide [ackActs])

@[simp] theorem outside_resendPacket {K} (hK : within carriesSet K) (s : State) (a n u) :
    (resendPacket a n s u).outside K = s.outside K :=
  outside_mono hK (by simp +decide [resendPacket])

@[simp] theorem outside_sessionNackActs {K} (hK : within carriesSet K) (s : State) (a n base missing) :
    (sessionNackActs a n base missing s).outside K = s.outside K :=
  outside_mono hK (by simp +decide [sessionNackActs])

@[simp] theorem stays_execSessionAckTimer {K} (hK : within carriesSet K) (s : State) (a session) :
    Stays K s (execSessionAckTimer a session s) :=
  stays_mono hK (by simp +decide [execSessionAckTimer])

@[simp] theorem stays_execSessionRetransmissionTimeout {K} (hK : within (.flumes :: carriesSet) K) (s : State) (a session) :
    Stays K s (execSessionRetransmissionTimeout a session s) := by
  refine stays_mono hK ?_
  unfold execSessionRetransmissionTimeout
  dsimp only
  split <;> simp +decide

@[simp] theorem outside_scloseActs {K} (hK : within [.flumes, .hosts, .sec, .ipWait, .out] K) (s : State) (a n) :
    (scloseActs a n s).outside K = s.outside K :=
  outside_mono hK (by simp +decide [scloseActs])

@[simp] theorem outside_scloseBroken {K} (hK : within [.flumes, .hosts, .sec, .ipWait, .out] K) (s : State) (a n h) :
    (scloseBroken a n h s).outside K = s.outside K :=
  outside_mono hK (by simp +decide [scloseBroken])

@[simp] theorem stays_execHostPortLinkLoss {K} (hK : within [.flumes, .hosts] K) (s : State) (a) :
    Stays K s (execHostPortLinkLoss a s) :=
  stays_mono hK (by simp +decide [execHostPortLinkLoss])

@[simp] theorem stays_execHostPortLinkUp {K} (hK : within [.hosts] K) (s : State) (a rate) : Stays K s (execHostPortLinkUp a rate s) :=
  stays_mono hK (by simp +decide [execHostPortLinkUp])

@[simp] theorem stays_execNeighbourSolicitation {K} (hK : within [.hosts, .out] K) (s : State) (port target v4 tags) :
    Stays K s (execNeighbourSolicitation port target v4 tags s) :=
  stays_mono hK (by simp +decide [execNeighbourSolicitation])

@[simp] theorem stays_execNeighbourResolution {K} (hK : within repliesSet K) (s : State) (port addr mac) :
    Stays K s (execNeighbourResolution port addr mac s) :=
  stays_mono hK (by simp +decide [execNeighbourResolution])

/-! ## The twin (`Machine/Twin`) -/

@[simp] theorem outside_leaveFreeList {K} (hK : within [.mm, .ctxs] K) (s : State) (a) : (leaveFreeList s a).outside K = s.outside K :=
  outside_mono hK (by simp +decide [leaveFreeList])

@[simp] theorem outside_applyImp {K} (hK : within [.mm, .ctxs] K) (s : State) (r) : (applyImp s r).outside K = s.outside K :=
  outside_mono hK (by simp +decide [applyImp])

@[simp] theorem outside_setTwinFlume {K} (hK : within [.pair] K) (s : State) (f v) :
    (State.setTwinFlume s f v).outside K = s.outside K :=
  outside_mono hK (by simp +decide [State.setTwinFlume])

@[simp] theorem outside_applyEntry {K} (hK : within [.hoppers, .pool, .nextEntry, .pair] K) (s : State) (c bwd e nextGrant) :
    (applyEntry c bwd e nextGrant s).outside K = s.outside K :=
  outside_mono hK (by simp +decide [applyEntry])

@[simp] theorem outside_applyPush {K} (hK : within [.pool, .pair] K) (s : State) (f seq outF outSeq) :
    (applyPush f seq outF outSeq s).outside K = s.outside K := by
  refine outside_mono hK ?_
  unfold applyPush
  split <;> simp +decide

@[simp] theorem outside_applyEd {K} (hK : within [.mm, .eds, .shards] K) (s : State) (sh state num head n settled) :
    (applyEd sh state num head n settled s).outside K = s.outside K := by
  refine outside_mono hK ?_
  unfold applyEd
  dsimp only
  (repeat' split) <;> simp +decide

@[simp] theorem outside_applyStepRec {K} (hK : within [.ctxs, .pair] K) (s : State) (c r) :
    (applyStepRec c s r).outside K = s.outside K :=
  outside_mono hK (by simp +decide [applyStepRec])

@[simp] theorem outside_applyStep {K} (hK : within [.ctxs, .pair] K) (s : State) (c n lscale final nonfinite closed rstep recs) :
    (applyStep c n lscale final nonfinite closed rstep recs s).outside K = s.outside K :=
  outside_mono hK (by simp +decide [applyStep])

@[simp] theorem outside_applyPeer {K} (hK : within [.ctxs] K) (s : State) (c j token notice) :
    (applyPeer c j token notice s).outside K = s.outside K := by
  refine outside_mono hK ?_
  unfold applyPeer
  split <;> simp +decide

theorem outside_applyRecord {K} (hK : within [.mem, .mm, .ctxs, .hoppers, .pool, .nextEntry, .eds, .shards, .hosts, .mil, .pair, .out] K)
    (s : State) (c) :
    ∀ t, applyRecord s c = .done t → t.outside K = s.outside K := by
  cases c <;> simp only [applyRecord, reduceCtorEq, false_imp_iff, implies_true]
  case jwrite => split <;> simp +decide [within_trans hK]
  case jimp =>
    have himp (l : List ImpRec) := outside_foldl (fun s r => outside_applyImp (within_trans hK rfl) s r) l s
    split <;> simp [himp]
  case jentry =>
    unfold onMirror
    split
    · dsimp only
      split <;> simp +decide [within_trans hK]
    · simp
  case jpush => simp +decide [within_trans hK]
  case jflume => split <;> simp +decide [within_trans hK]
  case jed =>
    split
    · simp
    split
    · simp +decide [within_trans hK]
    split <;> simp +decide [within_trans hK]
  case jstep => unfold onMirror; split <;> simp +decide [within_trans hK]
  case jpeer => unfold onMirror; split <;> simp +decide [within_trans hK]

@[simp] theorem outside_sendJack {K} (hK : within [.races, .pair] K) (s : State) : (sendJack s).outside K = s.outside K :=
  outside_mono hK (by simp +decide [sendJack])

@[simp] theorem outside_countApplied {K} (hK : within [.races, .pair] K) (s : State) : (countApplied s).outside K = s.outside K :=
  outside_mono hK (by simp +decide [countApplied])

@[simp] theorem outside_applyNext {K}
    (hK : within [.mem, .mm, .ctxs, .hoppers, .pool, .nextEntry, .eds, .shards, .races, .hosts, .mil, .pair, .out] K) (s : State)
    (fresh) :
    (applyNext fresh s).1.outside K = s.outside K := by
  refine outside_mono hK ?_
  unfold applyNext
  dsimp only
  split
  · rfl
  split
  · rfl
  split
  · next h => simpa +decide using outside_applyRecord rfl _ _ _ h
  · simp +decide
  · simp +decide

@[simp] theorem outside_applyMany {K}
    (hK : within [.mem, .mm, .ctxs, .hoppers, .pool, .nextEntry, .eds, .shards, .races, .hosts, .mil, .pair, .out] K) (s : State)
    (fresh k) :
    (applyMany fresh k s).outside K = s.outside K := by
  refine outside_mono hK ?_
  induction k generalizing s with
  | zero => rfl
  | succ k ih =>
    unfold applyMany
    split
    · next h => rw [ih]; exact outside_of_fst h (outside_applyNext rfl ..)
    · next h => exact outside_of_fst h (outside_applyNext rfl ..)

@[simp] theorem outside_applyEarly {K}
    (hK : within [.mem, .mm, .ctxs, .hoppers, .pool, .nextEntry, .eds, .shards, .races, .hosts, .mil, .pair, .out] K) (s : State)
    (fresh) :
    (applyEarly fresh s).outside K = s.outside K :=
  outside_mono hK (by simp +decide [applyEarly])

@[simp] theorem outside_onTwin {K} (hK : within (.races :: eventsSet) K) {act : State → State}
    (hact : ∀ s, (act s).outside K = s.outside K) (s : State) (t : TwinHdr) :
    (onTwin t act s).outside K = s.outside K := by
  unfold onTwin
  split <;> simp +decide [hact, within_trans hK]

@[simp] theorem outside_journalActs {K} (hK : within (.nextEntry :: jobsSet) K) (s : State) (t2 i) :
    (journalActs t2 i s).outside K = s.outside K := by
  refine outside_mono hK ?_
  refine outside_onTwin rfl (fun s => ?_) ..
  simp +decide

@[simp] theorem outside_wakeAllRounds {K} (hK : within (.flumes :: .eds :: .galley :: .races :: carriesSet) K) (s : State) :
    (wakeAllRounds s).outside K = s.outside K :=
  outside_mono hK (by simp +decide [wakeAllRounds])

@[simp] theorem outside_release {K} (hK : within jobsSet K) (s : State) (n) : (release n s).outside K = s.outside K :=
  outside_mono hK (by simp +decide [release])

@[simp] theorem outside_jackActs {K} (hK : within jobsSet K) (s : State) (t2 ackJsn) :
    (jackActs t2 ackJsn s).outside K = s.outside K := by
  refine outside_mono hK ?_
  refine outside_onTwin rfl (fun s => ?_) ..
  simp +decide

@[simp] theorem stays_execJournalAckTimer {K} (hK : within [.races, .pair] K) (s : State) : Stays K s (execJournalAckTimer s) :=
  stays_mono hK (by simp +decide [execJournalAckTimer])

@[simp] theorem outside_rebuildGrants {K} (hK : within [.mm, .ctxs, .pool, .nextEntry, .flumes] K) (s : State) (f l) :
    (rebuildGrants f l s).outside K = s.outside K := by
  refine outside_mono hK ?_
  have htake := @outside_takePages [.mm, .ctxs, .pool, .nextEntry, .flumes] rfl
  delta rebuildGrants rebuildGrants._f
  obtain ⟨take, e⟩ := asVariable takePages
  rw [← e] at htake ⊢
  induction l generalizing s with
  | nil => rfl
  | cons n rest ih =>
    dsimp only [List.brecOn, List.rec]
    split
    · rfl
    · next h => exact (ih _).trans (by simpa +decide using htake _ _ _ _ _ h)

@[simp] theorem outside_rebuildFlume {K} (hK : within [.mm, .ctxs, .pool, .nextEntry, .flumes] K) (s : State) (f) :
    (rebuildFlume s f).outside K = s.outside K :=
  outside_mono hK (by simp +decide [rebuildFlume])

@[simp] theorem outside_buildCtx {K} (hK : within [.mm, .ctxs, .hoppers, .pool, .nextEntry, .flumes, .eds] K) (s : State) (c) :
    (buildCtx s c).outside K = s.outside K := by
  have hpages {T} (hT : within [.mm] T) (s : State) (l : List Nat) (v : Nat → State → ImpEnt) :
      (l.foldl (fun s p => s.setPage p (v p s)) s).outside T = s.outside T :=
    outside_foldl (fun s p => outside_setPage (within_trans hT rfl) ..) _ _
  exact outside_mono hK (by simp +decide [buildCtx, hpages])

@[simp] theorem outside_takeOver {K} (hK : within (.nextEntry :: jobsSet) K) (s : State) : (takeOver s).outside K = s.outside K :=
  outside_mono hK (by simp +decide [takeOver])

@[simp] theorem outside_leaveActs {K} (hK : within (.nextEntry :: jobsSet) K) (s : State) (t2) :
    (leaveActs t2 s).outside K = s.outside K := by
  refine outside_mono hK ?_
  refine outside_onTwin rfl (fun s => ?_) ..
  simp +decide

@[simp] theorem outside_fence {K} (hK : within haltsSet K) (s : State) : (fence s).outside K = s.outside K :=
  outside_mono hK (by simp +decide [fence])

@[simp] theorem outside_movePaths {K} (hK : within (.flumes :: .galley :: .races :: carriesSet) K) (s : State) (b r) :
    (movePaths s b r).outside K = s.outside K := by
  refine outside_mono hK ?_
  refine outside_foldl (fun s f => ?_) _ _
  split <;> simp +decide

@[simp] theorem outside_assumeAt {K} (hK : within jobsSet K) (s : State) (r b inc) : (assumeAt r b inc s).outside K = s.outside K :=
  outside_mono hK (by simp +decide [assumeAt])

@[simp] theorem outside_assumeActs {K} (hK : within jobsSet K) (s : State) (t2 member incNew) :
    (assumeActs t2 member incNew s).outside K = s.outside K := by
  refine outside_mono hK ?_
  unfold assumeActs
  split <;> simp +decide

@[simp] theorem stays_execPairHoldTimeout {K} (hK : within (.nextEntry :: jobsSet) K) (s : State) :
    Stays K s (execPairHoldTimeout s) :=
  stays_mono hK (by simp +decide [execPairHoldTimeout])

@[simp] theorem outside_leavePair {K} (hK : within jobsSet K) (s : State) (reason) : (leavePair reason s).outside K = s.outside K :=
  outside_mono hK (by simp +decide [leavePair])

@[simp] theorem outside_rfetchActs {K} (hK : within (.races :: eventsSet) K) (s : State) (t2 vpage unit mirror) :
    (rfetchActs t2 vpage unit mirror s).outside K = s.outside K := by
  refine outside_mono hK ?_
  refine outside_onTwin rfl (fun s => ?_) ..
  simp +decide

end Sys2Proof.Machine
end

section
/-! # The components that requests, faults and instructions leave as they are -/

namespace Sys2Proof.Machine

open Sys2Proof

/-! ## Jobs (`Machine/Job`) -/

@[simp] theorem outside_loadShard {K} (hK : within [.mm, .ctxs, .eds, .shards, .races, .pair] K) (s : State) (c a) :
    (loadShard c s a).outside K = s.outside K := by
  refine outside_mono hK ?_
  unfold loadShard
  dsimp only
  split
  · split
    · simp +decide
    · next h => simpa +decide using outside_takePages (K := [.mm, .ctxs, .eds, .shards, .races, .pair]) rfl _ _ _ _ _ h
  · simp +decide

@[simp] theorem outside_loadCtx {K} (hK : within [.mem, .mm, .querns, .ctxs, .hoppers, .eds, .shards, .races, .pair] K) (s : State)
    (m prog) :
    (loadCtx m prog s).outside K = s.outside K :=
  outside_mono hK (by simp +decide [loadCtx])

@[simp] theorem outside_loadActs {K} (hK : within jobsSet K) (s : State) (msg) :
    ((loadActs msg s).stateOr s).outside K = s.outside K := by
  refine outside_mono hK ?_
  unfold loadActs
  (repeat' split) <;> simp +decide

@[simp] theorem outside_endBuckets {K} (hK : within [.ctxs, .galley] K) (s : State) (c a) :
    (endBuckets s c a).outside K = s.outside K :=
  outside_mono hK (by simp +decide [endBuckets])

@[simp] theorem outside_wakeAllReds {K} (hK : within (.flumes :: .eds :: .galley :: .races :: carriesSet) K) (s : State) :
    (wakeAllReds s).outside K = s.outside K :=
  outside_mono hK (by simp +decide [wakeAllReds])

@[simp] theorem outside_recountFrom {K} (hK : within [.ctxs] K) (s : State) (c n) : (recountFrom s c n).outside K = s.outside K :=
  outside_mono hK (by simp +decide [recountFrom])

@[simp] theorem outside_reloadCtx {K} (hK : within haltsSet K) (s : State) (c groups wgo prog) :
    (reloadCtx c groups wgo prog s).outside K = s.outside K :=
  outside_mono hK (by simp +decide [reloadCtx])

@[simp] theorem outside_reloadActs {K} (hK : within jobsSet K) (s : State) (msg) :
    ((reloadActs msg s).stateOr s).outside K = s.outside K := by
  refine outside_mono hK ?_
  unfold reloadActs
  dsimp only
  (repeat' split) <;> simp +decide

@[simp] theorem outside_unloadShard {K} (hK : within [.mm, .shards] K) (s : State) (n) : (unloadShard s n).outside K = s.outside K :=
  outside_mono hK (by simp +decide [unloadShard])

@[simp] theorem outside_unloadCtx {K} (hK : within (.eds :: .shards :: .galley :: haltsSet) K) (s : State) (c) :
    (unloadCtx c s).outside K = s.outside K :=
  outside_mono hK (by simp +decide [unloadCtx])

@[simp] theorem outside_unloadActs {K} (hK : within jobsSet K) (s : State) (c) :
    ((unloadActs c s).stateOr s).outside K = s.outside K := by
  refine outside_mono hK ?_
  unfold unloadActs
  (repeat' split) <;> simp +decide

@[simp] theorem outside_appendFree {K} (hK : within [.mm, .ctxs] K) (s : State) (c l) : (appendFree s c l).outside K = s.outside K := by
  refine outside_mono hK ?_
  unfold appendFree
  dsimp only
  split <;> simp +decide

@[simp] theorem outside_mapPages {K} (hK : within [.mm, .ctxs] K) (s : State) (first frames owner shared wp) :
    (mapPages s first frames owner shared wp).outside K = s.outside K :=
  outside_mono hK (by simp +decide [mapPages])

@[simp] theorem outside_mapActs {K} (hK : within (.nextEntry :: jobsSet) K) (s : State) (first count owner shared wp bin) :
    ((mapActs first count owner shared wp bin s).stateOr s).outside K = s.outside K := by
  refine outside_mono hK ?_
  unfold mapActs
  (repeat' split) <;> simp +decide

@[simp] theorem outside_freeFrame {K} (hK : within (.mm :: .boot :: eventsSet) K) (s : State) (f) :
    (freeFrame s f).outside K = s.outside K := by
  refine outside_mono hK ?_
  unfold freeFrame
  (repeat' split) <;> simp +decide

@[simp] theorem outside_dropFrame_ {K} (hK : within [.freeCtr, .mem, .mm] K) (s : State) (f) :
    (dropFrame_ s f).outside K = s.outside K :=
  outside_mono hK (by simp +decide [dropFrame_])

@[simp] theorem outside_releaseFrames {K} (hK : within (.freeCtr :: .mem :: .mm :: .boot :: eventsSet) K) (s : State) (f) :
    (releaseFrames f s).outside K = s.outside K := by
  refine outside_mono hK ?_
  unfold releaseFrames
  split <;> simp +decide

@[simp] theorem outside_unmapPage {K} (hK : within [.freeCtr, .mem, .mm, .ctxs, .hosts, .mil, .boot, .out] K) (s : State) (a) :
    (unmapPage s a).outside K = s.outside K :=
  outside_mono hK (by simp +decide [unmapPage])

@[simp] theorem outside_unmapActs {K} (hK : within [.freeCtr, .mem, .mm, .ctxs, .hosts, .mil, .boot, .out] K) (s : State) (first count) :
    ((unmapActs first count s).stateOr s).outside K = s.outside K := by
  refine outside_mono hK ?_
  unfold unmapActs
  dsimp only
  (repeat' split) <;> simp +decide

@[simp] theorem outside_putActs {K} (hK : within (.mem :: .mm :: .races :: .pair :: eventsSet) K) (s : State) (addr bytes) :
    ((putActs addr bytes s).stateOr s).outside K = s.outside K := by
  refine outside_mono hK ?_
  unfold putActs
  dsimp only
  (repeat' split) <;> simp +decide

@[simp] theorem outside_fopenActs {K} (hK : within jobsSet K) (s : State) (f) : ((fopenActs f s).stateOr s).outside K = s.outside K := by
  refine outside_mono hK ?_
  unfold fopenActs
  split <;> simp +decide

@[simp] theorem outside_fcloseActs {K} (hK : within jobsSet K) (s : State) (f forced) :
    ((fcloseActs f forced s).stateOr s).outside K = s.outside K := by
  refine outside_mono hK ?_
  unfold fcloseActs
  split <;> simp +decide

@[simp] theorem outside_rewindHopper {K} (hK : within [.hoppers, .pool] K) (s : State) (h n) :
    (rewindHopper h n s).outside K = s.outside K :=
  outside_mono hK (by simp +decide [rewindHopper])

@[simp] theorem outside_rewindStep {K} (hK : within [.ctxs, .hoppers, .pool] K) (s : State) (c n fwd bwd) :
    (rewindStep c n fwd bwd s).outside K = s.outside K :=
  outside_mono hK (by simp +decide [rewindStep])

@[simp] theorem outside_rewindActs {K} (hK : within jobsSet K) (s : State) (c step fwd bwd) :
    ((rewindActs c step fwd bwd s).stateOr s).outside K = s.outside K := by
  refine outside_mono hK ?_
  unfold rewindActs
  split <;> simp +decide

@[simp] theorem outside_abandonShard {K} (hK : within [.mm, .ctxs, .eds, .races, .pair] K) (s : State) (sh) :
    (abandonShard s sh).outside K = s.outside K :=
  outside_mono hK (by simp +decide [abandonShard])

@[simp] theorem outside_abandonActs {K} (hK : within jobsSet K) (s : State) (c) :
    ((abandonActs c s).stateOr s).outside K = s.outside K := by
  refine outside_mono hK ?_
  unfold abandonActs
  split <;> simp +decide

@[simp] theorem outside_forgetEds {K} (hK : within [.pool, .eds] K) (s : State) (es) : (forgetEds s es).outside K = s.outside K :=
  outside_mono hK (by simp +decide [forgetEds])

@[simp] theorem outside_rollShard {K} (hK : within [.mm, .ctxs, .pool, .eds, .shards, .races, .pair] K) (s : State) (t2 sh) :
    (rollShard t2 s sh).outside K = s.outside K :=
  outside_mono hK (by simp +decide [rollShard])

@[simp] theorem outside_rollbackActs {K} (hK : within jobsSet K) (s : State) (c step) :
    ((rollbackActs c step s).stateOr s).outside K = s.outside K := by
  refine outside_mono hK ?_
  unfold rollbackActs
  dsimp only
  (repeat' split) <;> simp +decide

@[simp] theorem outside_jobSubscribeActs {K} (hK : within [.hosts] K) (s : State) (a n on) :
    ((jobSubscribeActs a n on s).stateOr s).outside K = s.outside K :=
  outside_mono hK (by simp +decide [jobSubscribeActs])

/-! ## Power (`Machine/Power`) -/

@[simp] theorem outside_setCode {K} (hK : within [.pwr, .out] K) (s : State) (n code) : (setCode n code s).outside K = s.outside K :=
  outside_mono hK (by simp +decide [setCode])

@[simp] theorem outside_pacedNow {K} (hK : within (.pwr :: eventsSet) K) (s : State) : (pacedNow s).outside K = s.outside K :=
  outside_mono hK (by simp +decide [pacedNow])

@[simp] theorem outside_applyTarget {K} (hK : within (.pwr :: eventsSet) K) (s : State) (t2) :
    (applyTarget t2 s).outside K = s.outside K :=
  outside_mono hK (by simp +decide [applyTarget])

@[simp] theorem outside_learn {K} (hK : within [.pwr] K) (s : State) (n powerW) : (learn n powerW s).outside K = s.outside K :=
  outside_mono hK (by simp +decide [learn])

@[simp] theorem outside_logHot {K} (hK : within eventsSet K) (s : State) : (logHot s).outside K = s.outside K :=
  outside_mono hK (by simp +decide [logHot])

@[simp] theorem stays_execControllerPeriod {K} (hK : within (.pwr :: eventsSet) K) (s : State) (fixedW stoneW) :
    Stays K s (execControllerPeriod fixedW stoneW s) :=
  stays_mono hK (by simp +decide [execControllerPeriod])

@[simp] theorem stays_execRegulatorReading {K} (hK : within (.pwr :: eventsSet) K) (s : State) (avg2msW) :
    Stays K s (execRegulatorReading avg2msW s) :=
  stays_mono hK (by simp +decide [execRegulatorReading])

@[simp] theorem outside_setThrottle {K} (hK : within [.pwr] K) (s : State) (n k) : (setThrottle n k s).outside K = s.outside K :=
  outside_mono hK (by simp +decide [setThrottle])

@[simp] theorem stays_execThrottleEstimate {K} (hK : within (.freeCtr :: .pwr :: eventsSet) K) (s : State) (estW) :
    Stays K s (execThrottleEstimate estW s) :=
  stays_mono hK (by simp +decide [execThrottleEstimate])

@[simp] theorem stays_execEstimatorFault {K} (hK : within (.pwr :: eventsSet) K) (s : State) (estW measW) :
    Stays K s (execEstimatorFault estW measW s) :=
  stays_mono hK (by simp +decide [execEstimatorFault])

@[simp] theorem outside_holdCtx {K} (hK : within [.ctxs, .mil] K) (s : State) (cause c) :
    (holdCtx cause s c).outside K = s.outside K :=
  outside_mono hK (by simp +decide [holdCtx])

@[simp] theorem outside_releaseCause {K} (hK : within [.ctxs, .mil, .pair] K) (s : State) (cause) :
    (releaseCause cause s).outside K = s.outside K :=
  outside_mono hK (by simp +decide [releaseCause])

@[simp] theorem outside_drainSensor {K} (hK : within (.ctxs :: .pair :: eventsSet) K) (s : State) (cause scope id t2 limit cs) :
    (drainSensor cause scope id t2 limit cs s).outside K = s.outside K :=
  outside_mono hK (by simp +decide [drainSensor])

@[simp] theorem outside_stoneSample {K} (hK : within (.ctxs :: .pwr :: .pair :: eventsSet) K) (s : State) (n t2) :
    (stoneSample n t2 s).outside K = s.outside K :=
  outside_mono hK (by simp +decide [stoneSample])

@[simp] theorem outside_binSample {K} (hK : within (.mm :: .ctxs :: .pair :: eventsSet) K) (s : State) (b t2) :
    (binSample b t2 s).outside K = s.outside K :=
  outside_mono hK (by simp +decide [binSample])

@[simp] theorem stays_execTemperatureSample {K} (hK : within (.pwr :: jobsSet) K) (s : State) (stones spur bins) :
    Stays K s (execTemperatureSample stones spur bins s) :=
  stays_mono hK (by simp +decide [execTemperatureSample])

@[simp] theorem stays_execDelaySettingChange {K} (hK : within [.pwr] K) (s : State) (n row) :
    Stays K s (execDelaySettingChange n row s) :=
  stays_mono hK (by simp +decide [execDelaySettingChange])

@[simp] theorem stays_execAgeingSample {K} (hK : within [.pwr, .out] K) (s : State) (n row marginLow tsRefNew) :
    Stays K s (execAgeingSample n row marginLow tsRefNew s) :=
  stays_mono hK (by simp +decide [execAgeingSample])

@[simp] theorem stays_execEnergyEvent {K} (hK : within carriesSet K) (s : State) : Stays K s (execEnergyEvent s) :=
  stays_mono hK (by simp +decide [execEnergyEvent])

/-! ## Registers (`Machine/Regs`) -/

@[simp] theorem outside_clearFlm {K} (hK : within [.flumes] K) (s : State) (o) : (clearFlm s o).outside K = s.outside K := by
  refine outside_mono hK ?_
  unfold clearFlm
  split <;> simp +decide

@[simp] theorem outside_clearRace {K} (hK : within [.races, .racePorts] K) (s : State) (o) : (clearRace s o).outside K = s.outside K := by
  refine outside_mono hK ?_
  unfold clearRace
  split <;> simp +decide

@[simp] theorem outside_clearRc {K}
    (hK : within [.mm, .flumes, .galley, .races, .racePorts, .hosts, .sec, .mil, .boot, .pwr, .grantStalls] K) (s : State) (off) :
    (clearRc s off).outside K = s.outside K := by
  refine outside_mono hK ?_
  unfold clearRc
  dsimp only
  (repeat' split) <;> simp +decide

@[simp] theorem outside_logIgnored {K} (hK : within eventsSet K) (s : State) (off) : (logIgnored s off).outside K = s.outside K :=
  outside_mono hK (by simp +decide [logIgnored])

theorem outside_writeCap {K} (hK : within (.pwr :: eventsSet) K) (s : State) (new) : ∀ t ∈ writeCap new s, t.outside K = s.outside K :=
  mem_mono hK (by simp +decide [writeCap])

@[simp] theorem outside_setPace {K} (hK : within (.pwr :: eventsSet) K) (s : State) (on) : (setPace on s).outside K = s.outside K :=
  outside_mono hK (by simp +decide [setPace])

@[simp] theorem outside_clearEst {K} (hK : within [.pwr] K) (s : State) : (clearEst s).outside K = s.outside K :=
  outside_mono hK (by simp +decide [clearEst])

theorem outside_writePwr {K} (hK : within (.pwr :: eventsSet) K) (s : State) (o value mask) :
    ∀ t ∈ writePwr o value mask s, t.outside K = s.outside K := by
  refine mem_mono hK ?_
  unfold writePwr
  split
  · split
    · exact outside_writeCap rfl _ _
    · simp +decide
  split <;> simp +decide

theorem outside_writeFlm {K} (hK : within jobsSet K) (s : State) (off o value mask) :
    ∀ t ∈ writeFlm off o value mask s, t.outside K = s.outside K := by
  refine mem_mono hK ?_
  unfold writeFlm
  split <;> simp +decide

theorem outside_writeLscale {K} (hK : within [.ctxs] K) (s : State) (c value mask) :
    ∀ t ∈ writeLscale c value mask s, t.outside K = s.outside K :=
  mem_mono hK (by simp +decide [writeLscale])

@[simp] theorem outside_retrainPort {K} (hK : within (.flumes :: .races :: .racePorts :: .boot :: eventsSet) K) (s : State) (a) :
    (retrainPort a s).outside K = s.outside K :=
  outside_mono hK (by simp +decide [retrainPort])

@[simp] theorem outside_writeRaceCfg {K} (hK : within (.flumes :: .races :: .racePorts :: .boot :: eventsSet) K) (s : State)
    (a off value mask) :
    (writeRaceCfg a off value mask s).outside K = s.outside K :=
  outside_mono hK (by simp +decide [writeRaceCfg])

theorem outside_writeEth {K} (hK : within [.hosts] K) (s : State) (o value mask) :
    ∀ t ∈ writeEth o value mask s, t.outside K = s.outside K := by
  refine mem_mono hK ?_
  unfold writeEth
  (repeat' split) <;> simp +decide

@[simp] theorem outside_frisketViolation {K} (hK : within (.sec :: eventsSet) K) (s : State) (detail) :
    (frisketViolation s detail).outside K = s.outside K :=
  outside_mono hK (by simp +decide [frisketViolation])

@[simp] theorem outside_writeArb {K} (hK : within (.mm :: eventsSet) K) (s : State) (off value mask) :
    (writeArb off value mask s).outside K = s.outside K :=
  outside_mono hK (by simp +decide [writeArb])

@[simp] theorem outside_writePairCfg {K} (hK : within (.pair :: eventsSet) K) (s : State) (off value mask) :
    (writePairCfg off value mask s).outside K = s.outside K :=
  outside_mono hK (by simp +decide [writePairCfg])

@[simp] theorem outside_pairCommand {K} (hK : within (.nextEntry :: jobsSet) K) (s : State) (takeover leave) :
    (pairCommand takeover leave s).outside K = s.outside K :=
  outside_mono hK (by simp +decide [pairCommand])

theorem outside_writePair {K} (hK : within (.nextEntry :: jobsSet) K) (s : State) (off value mask) :
    ∀ t ∈ writePair off value mask s, t.outside K = s.outside K :=
  mem_mono hK (by simp +decide [writePair])

theorem outside_writeMil {K} (hK : within (.nextEntry :: jobsSet) K) (s : State) (off o value mask) :
    ∀ t ∈ writeMil off o value mask s, t.outside K = s.outside K := by
  refine mem_mono hK ?_
  unfold writeMil
  dsimp only
  iterate 7
    split
    · simp +decide
  split
  · exact outside_writePair rfl _ _ _ _
  · simp +decide

theorem outside_writeBlock {K} (hK : within (.nextEntry :: .racePorts :: .boot :: .pwr :: jobsSet) K) (s : State)
    (off value mask miller) :
    ∀ t ∈ writeBlock off value mask miller s, t.outside K = s.outside K := by
  refine mem_mono hK ?_
  have own {P : State → Prop} {r : Option State} (h : ∀ t ∈ r, P t) : ∀ t ∈ (if miller then r else none), P t := by
    split
    · exact h
    · simp +decide
  unfold writeBlock
  dsimp only
  split
  · exact own (outside_writePwr rfl _ _ _ _)
  · split <;> simp +decide
  · exact outside_writeFlm rfl _ _ _ _ _
  · split
    · exact outside_writeLscale rfl _ _ _ _
    · simp +decide
  · split
    · split <;> simp +decide
    · simp +decide
  · split
    · exact own (by simp +decide)
    · simp +decide
  · split
    · exact own (outside_writeEth rfl _ _ _ _)
    · simp +decide
  · split <;> simp +decide
  · split
    · simp +decide
    split <;> simp +decide
  · exact own (outside_writeMil rfl _ _ _ _ _)
  · simp +decide

@[simp] theorem outside_writeReg {K} (hK : within (.nextEntry :: .racePorts :: .boot :: .pwr :: jobsSet) K) (s : State)
    (off value mask miller) :
    (writeReg off value mask miller s).state.outside K = s.outside K := by
  refine outside_mono hK ?_
  unfold writeReg
  split
  · simp +decide
  split
  · next h => exact outside_writeBlock rfl _ _ _ _ _ _ h
  · simp +decide

@[simp] theorem stays_execRcRegisterRead {K}
    (hK : within [.mm, .flumes, .galley, .races, .racePorts, .hosts, .sec, .mil, .boot, .pwr, .grantStalls] K) (s : State) (off) :
    Stays K s (execRcRegisterRead off s) :=
  stays_mono hK (by simp +decide [execRcRegisterRead])

@[simp] theorem stays_execRegisterWrite {K} (hK : within (.nextEntry :: .racePorts :: .boot :: .pwr :: jobsSet) K) (s : State)
    (off value mask fromMiller) :
    Stays K s (execRegisterWrite off value mask fromMiller s) :=
  stays_mono hK (by simp +decide [execRegisterWrite])

@[simp] theorem stays_execEdLscaleWrite {K} (hK : within (.nextEntry :: .racePorts :: .boot :: .pwr :: jobsSet) K) (s : State)
    (c value mask) :
    Stays K s (execEdLscaleWrite c value mask s) :=
  stays_mono hK (by simp +decide [execEdLscaleWrite])

@[simp] theorem outside_refuseBlock {K} (hK : within (.sec :: eventsSet) K) (s : State) (off) :
    ((refuseBlock s off).stateOr s).outside K = s.outside K :=
  outside_mono hK (by simp +decide [refuseBlock])

@[simp] theorem outside_jobRegreadActs {K}
    (hK : within [.mm, .flumes, .galley, .races, .racePorts, .hosts, .sec, .mil, .boot, .pwr, .grantStalls, .out] K) (s : State) (off) :
    ((jobRegreadActs off s).stateOr s).outside K = s.outside K := by
  refine outside_mono hK ?_
  unfold jobRegreadActs
  dsimp only
  (repeat' split) <;> simp +decide

@[simp] theorem outside_jobRegwriteActs {K} (hK : within (.nextEntry :: .racePorts :: .boot :: .pwr :: jobsSet) K) (s : State)
    (off value) :
    ((jobRegwriteActs off value s).stateOr s).outside K = s.outside K := by
  unfold jobRegwriteActs
  dsimp only
  split
  · simp +decide [within_trans hK]
  have := outside_writeReg hK s off.toNat value (maskAt 0 64) false
  split <;> next h => simpa +decide [h, within_trans hK] using this

/-! ## Requests (`Machine/Request`) -/

@[simp] theorem outside_bucketReply {K} (hK : within repliesSet K) (s : State) (dst o) :
    (bucketReply s dst o).outside K = s.outside K :=
  outside_mono hK (by simp +decide [bucketReply])

@[simp] theorem outside_storeReply {K} (hK : within [.mil] K) (s : State) (m o) : (storeReply m o s).outside K = s.outside K :=
  outside_mono hK (by simp +decide [storeReply])

@[simp] theorem outside_signedReply {K} (hK : within repliesSet K) (s : State) (m o) : (signedReply m o s).outside K = s.outside K :=
  outside_mono hK (by simp +decide [signedReply])

@[simp] theorem outside_refuseRequest {K} (hK : within repliesSet K) (s : State) (m op status) :
    (refuseRequest m op status s).outside K = s.outside K :=
  outside_mono hK (by simp +decide [refuseRequest])

@[simp] theorem outside_countReplay {K} (hK : within [.mil] K) (s : State) : (countReplay s).outside K = s.outside K :=
  outside_mono hK (by simp +decide [countReplay])

@[simp] theorem outside_takeRequest {K} (hK : within [.mil] K) (s : State) (m) : (takeRequest m s).outside K = s.outside K :=
  outside_mono hK (by simp +decide [takeRequest])

theorem stays_milRequest {K} (hK : within repliesSet K) {onRefuse : State → State} {act : State → Reply}
    (hrefuse : ∀ s, (onRefuse s).outside K = s.outside K) (hact : ∀ s, (act s).state.outside K = s.outside K) (s : State)
    (m op who early) :
    Stays K s (milRequest m op who early onRefuse act s) := by
  unfold milRequest
  dsimp only
  split
  · simp
  split
  · simp +decide [within_trans hK]
  split
  · simp +decide [within_trans hK]
  split
  · simp +decide [hrefuse, within_trans hK]
  split
  · simp +decide [hrefuse, within_trans hK]
  split
  · simp +decide [within_trans hK]
  split
  · simp +decide [within_trans hK]
  split
  · simp +decide [within_trans hK]
  have ha := (hact (takeRequest m s)).trans (outside_takeRequest (within_trans hK rfl) ..)
  split <;> next h => simpa +decide [h, within_trans hK] using ha

theorem stays_plainRequest {K} (hK : within repliesSet K) {act : State → Reply} (hact : ∀ s, (act s).state.outside K = s.outside K)
    (s : State) (m op who early) :
    Stays K s (plainRequest m op who early act s) :=
  stays_milRequest hK (fun _ => rfl) hact ..

@[simp] theorem stays_execMillerHello {K} (hK : within repliesSet K) (s : State) (m) : Stays K s (execMillerHello m s) :=
  stays_mono hK (by simp +decide [execMillerHello])

@[simp] theorem outside_readRegs {K}
    (hK : within [.mm, .flumes, .galley, .races, .racePorts, .hosts, .sec, .mil, .boot, .pwr, .grantStalls] K) (s : State) (k off) :
    (readRegs k off s).2.outside K = s.outside K := by
  refine outside_mono hK ?_
  induction k generalizing s off with
  | zero => rfl
  | succ k ih => simp +decide [readRegs, ih]

@[simp] theorem stays_execRegread {K}
    (hK : within [.mm, .flumes, .galley, .races, .racePorts, .hosts, .sec, .mil, .boot, .pwr, .grantStalls, .ipWait, .out] K) (s : State)
    (m off count) :
    Stays K s (execRegread m off count s) :=
  stays_mono hK (stays_plainRequest rfl (fun s => by simp +decide) ..)

@[simp] theorem stays_regwrite {K} (hK : within (.nextEntry :: .racePorts :: .boot :: .pwr :: jobsSet) K) (s : State)
    (m off value mask early) :
    Stays K s (regwrite m off value mask early s) := by
  refine stays_plainRequest (within_trans hK rfl) (fun s => ?_) ..
  have := outside_writeReg hK s off value mask true
  cases h : writeReg off value mask true s <;> simpa +decide [h, wroteReply, within_trans hK] using this

@[simp] theorem stays_execRegwrite {K} (hK : within (.nextEntry :: .racePorts :: .boot :: .pwr :: jobsSet) K) (s : State)
    (m off value mask) :
    Stays K s (execRegwrite m off value mask s) :=
  stays_mono hK (by simp +decide [execRegwrite])

@[simp] theorem stays_execCapWWrite {K} (hK : within (.nextEntry :: .racePorts :: .boot :: .pwr :: jobsSet) K) (s : State)
    (m value mask) :
    Stays K s (execCapWWrite m value mask s) :=
  stays_mono hK (by simp +decide [execCapWWrite])

@[simp] theorem stays_execPaceEnWrite {K} (hK : within (.nextEntry :: .racePorts :: .boot :: .pwr :: jobsSet) K) (s : State) (m on) :
    Stays K s (execPaceEnWrite m on s) :=
  stays_mono hK (by simp +decide [execPaceEnWrite])

@[simp] theorem stays_execEstClear {K} (hK : within (.nextEntry :: .racePorts :: .boot :: .pwr :: jobsSet) K) (s : State) (m) :
    Stays K s (execEstClear m s) :=
  stays_mono hK (by simp +decide [execEstClear])

@[simp] theorem stays_execRetrain {K} (hK : within (.nextEntry :: .racePorts :: .boot :: .pwr :: jobsSet) K) (s : State) (m port) :
    Stays K s (execRetrain m port s) :=
  stays_mono hK (by simp +decide [execRetrain])

@[simp] theorem stays_execTakeover {K} (hK : within (.nextEntry :: .racePorts :: .boot :: .pwr :: jobsSet) K) (s : State) (m) :
    Stays K s (execTakeover m s) :=
  stays_mono hK (by simp +decide [execTakeover])

@[simp] theorem stays_execLeave {K} (hK : within (.nextEntry :: .racePorts :: .boot :: .pwr :: jobsSet) K) (s : State) (m) :
    Stays K s (execLeave m s) :=
  stays_mono hK (by simp +decide [execLeave])

@[simp] theorem stays_execEvread {K} (hK : within repliesSet K) (s : State) (m flash first) : Stays K s (execEvread m flash first s) :=
  stays_mono hK (stays_plainRequest rfl (fun s => by simp +decide) ..)

@[simp] theorem stays_execDefread {K} (hK : within repliesSet K) (s : State) (m first) : Stays K s (execDefread m first s) := by
  refine stays_mono hK ?_
  refine stays_plainRequest rfl (fun s => ?_) ..
  simp +decide

@[simp] theorem stays_execSubscribe {K} (hK : within repliesSet K) (s : State) (m minSeverity periodMs offsets) :
    Stays K s (execSubscribe m minSeverity periodMs offsets s) := by
  refine stays_mono hK ?_
  refine stays_plainRequest rfl (fun s => ?_) ..
  dsimp only
  (repeat' split) <;> simp +decide

@[simp] theorem stays_execTelemetryPush {K} (hK : within repliesSet K) (s : State) (k) : Stays K s (execTelemetryPush k s) := by
  refine stays_mono hK ?_
  unfold execTelemetryPush
  split <;> simp +decide

@[simp] theorem stays_execSubscriptionLapse {K} (hK : within [.mil] K) (s : State) (k) : Stays K s (execSubscriptionLapse k s) :=
  stays_mono hK (by simp +decide [execSubscriptionLapse])

@[simp] theorem stays_execContinuationPart {K} (hK : within repliesSet K) (s : State) (net op reqSeq split total offset len hashOk) :
    Stays K s (execContinuationPart net op reqSeq split total offset len hashOk s) := by
  refine stays_mono hK ?_
  unfold execContinuationPart
  (repeat' split) <;> simp +decide

@[simp] theorem stays_execAssemblyTimeout {K} (hK : within [.mil] K) (s : State) (k) : Stays K s (execAssemblyTimeout k s) :=
  stays_mono hK (by simp +decide [execAssemblyTimeout])

@[simp] theorem stays_execManagementLinkLoss {K} (hK : within [.mil] K) (s : State) (up) : Stays K s (execManagementLinkLoss up s) :=
  stays_mono hK (by simp +decide [execManagementLinkLoss])

@[simp] theorem stays_execPtpMessage {K} (hK : within [.mil] K) (s : State) (domain timeNs lock) :
    Stays K s (execPtpMessage domain timeNs lock s) :=
  stays_mono hK (by simp +decide [execPtpMessage])

@[simp] theorem stays_execQuiesce {K} (hK : within (.ctxs :: repliesSet) K) (s : State) (m mask) : Stays K s (execQuiesce m mask s) :=
  stays_mono hK (stays_plainRequest rfl (fun s => by simp +decide) ..)

@[simp] theorem outside_resumeHeld {K} (hK : within [.ctxs, .mil, .pair] K) (s : State) (c) :
    (resumeHeld s c).outside K = s.outside K :=
  outside_mono hK (by simp +decide [resumeHeld])

@[simp] theorem stays_execResume {K} (hK : within jobsSet K) (s : State) (m mask) : Stays K s (execResume m mask s) :=
  stays_mono hK (stays_plainRequest rfl (fun s => by simp +decide) ..)

/-! ## Faults (`Machine/Faults`) -/

@[simp] theorem outside_setPhys {K} (hK : within [.boot] K) (s : State) (n ok) : (setPhys n ok s).outside K = s.outside K :=
  outside_mono hK (by simp +decide [setPhys])

@[simp] theorem outside_disablePhys {K} (hK : within (.boot :: eventsSet) K) (s : State) (n i source) :
    (disablePhys n i source s).outside K = s.outside K :=
  outside_mono hK (by simp +decide [disablePhys])

@[simp] theorem outside_mapQuerns {K} (hK : within [.boot] K) (s : State) (n) : (mapQuerns n s).outside K = s.outside K :=
  outside_mono hK (by simp +decide [mapQuerns])

@[simp] theorem outside_loadQuern {K} (hK : within [.mem, .querns] K) (s : State) (q) : (loadQuern s q).outside K = s.outside K :=
  outside_mono hK (by simp +decide [loadQuern])

@[simp] theorem outside_forgetCause {K} (hK : within [.mil] K) (s : State) (cause) : (forgetCause cause s).outside K = s.outside K :=
  outside_mono hK (by simp +decide [forgetCause])

@[simp] theorem outside_rewindOpen {K} (hK : within [.ctxs, .hoppers, .pool] K) (s : State) (both c) :
    (rewindOpen both s c).outside K = s.outside K :=
  outside_mono hK (by simp +decide [rewindOpen])

@[simp] theorem outside_recoverCause {K} (hK : within [.ctxs, .hoppers, .pool, .mil, .pair] K) (s : State) (both cause) :
    (recoverCause both cause s).outside K = s.outside K :=
  outside_mono hK (by simp +decide [recoverCause])

@[simp] theorem outside_fenceStone {K} (hK : within (.pwr :: haltsSet) K) (s : State) (n) : (fenceStone n s).outside K = s.outside K :=
  outside_mono hK (by simp +decide [fenceStone])

@[simp] theorem outside_stopStone {K} (hK : within (.pwr :: haltsSet) K) (s : State) (n why) :
    (stopStone n why s).outside K = s.outside K :=
  outside_mono hK (by simp +decide [stopStone])

@[simp] theorem outside_answerStone {K} (hK : within repliesSet K) (s : State) (n status) :
    (answerStone n status s).outside K = s.outside K := by
  refine outside_mono hK ?_
  unfold answerStone
  split <;> simp +decide

@[simp] theorem outside_degradedLeaves {K} (hK : within jobsSet K) (s : State) : (degradedLeaves s).outside K = s.outside K :=
  outside_mono hK (by simp +decide [degradedLeaves])

@[simp] theorem outside_degradeStone {K} (hK : within (.boot :: jobsSet) K) (s : State) (n source) :
    (degradeStone n source s).outside K = s.outside K :=
  outside_mono hK (by simp +decide [degradeStone])

@[simp] theorem stays_execStoneProbe {K} (hK : within (.pwr :: haltsSet) K) (s : State) (n answered) :
    Stays K s (execStoneProbe n answered s) :=
  stays_mono hK (by simp +decide [execStoneProbe])

@[simp] theorem stays_execStonereset {K} (hK : within (.pwr :: .ipWait :: haltsSet) K) (s : State) (m stone) :
    Stays K s (execStonereset m stone s) :=
  stays_mono hK (stays_plainRequest rfl (fun s => by simp +decide) ..)

@[simp] theorem outside_restartUnion {K} (hK : within (.boot :: eventsSet) K) (s : State) (n pass) :
    (restartUnion n pass s).outside K = s.outside K :=
  outside_mono hK (by simp +decide [restartUnion])

@[simp] theorem stays_execStoneRecovery {K} (hK : within (.boot :: .pwr :: jobsSet) K) (s : State) (n o) :
    Stays K s (execStoneRecovery n o s) :=
  stays_mono hK (by simp +decide [execStoneRecovery])

@[simp] theorem outside_fenceQuern {K} (hK : within (.boot :: haltsSet) K) (s : State) (q phys) :
    (fenceQuern q phys s).outside K = s.outside K :=
  outside_mono hK (by simp +decide [fenceQuern])

@[simp] theorem outside_substitute {K} (hK : within (.boot :: jobsSet) K) (s : State) (q old i) :
    (substitute q old i s).outside K = s.outside K :=
  outside_mono hK (by simp +decide [substitute])

@[simp] theorem outside_noSpare {K} (hK : within (.boot :: .pwr :: jobsSet) K) (s : State) (n) :
    (noSpare n s).outside K = s.outside K :=
  outside_mono hK (by simp +decide [noSpare])

@[simp] theorem stays_execQuernFault {K} (hK : within (.boot :: .pwr :: jobsSet) K) (s : State) (q o) :
    Stays K s (execQuernFault q o s) := by
  refine stays_mono hK ?_
  unfold execQuernFault
  dsimp only
  (repeat' split) <;> simp +decide

@[simp] theorem outside_meetCorrected {K} (hK : within (.mm :: .ctxs :: .boot :: eventsSet) K) (s : State) (f g) :
    (meetCorrected f s g).outside K = s.outside K :=
  outside_mono hK (by simp +decide [meetCorrected])

@[simp] theorem outside_haltReader {K} (hK : within haltsSet K) (s : State) (a r) : (haltReader s a r).outside K = s.outside K := by
  refine outside_mono hK ?_
  unfold haltReader
  split <;> simp +decide

@[simp] theorem outside_spurFault {K} (hK : within jobsSet K) (s : State) : (spurFault s).outside K = s.outside K :=
  outside_mono hK (by simp +decide [spurFault])

@[simp] theorem stays_execUncorrectableError {K} (hK : within (.boot :: jobsSet) K) (s : State) (page found reader) :
    Stays K s (execUncorrectableError page found reader s) := by
  refine stays_mono hK ?_
  unfold execUncorrectableError
  split <;> simp +decide

@[simp] theorem outside_recallEntry {K} (hK : within (.flumes :: .galley :: .races :: carriesSet) K) (s : State) (k) :
    (recallEntry s k).outside K = s.outside K := by
  refine outside_mono hK ?_
  unfold recallEntry
  split <;> simp +decide

@[simp] theorem outside_rewindEntry {K} (hK : within haltsSet K) (s : State) (page k) :
    (rewindEntry page s k).outside K = s.outside K := by
  refine outside_mono hK ?_
  unfold rewindEntry
  split <;> simp +decide

@[simp] theorem outside_fetchUnits {K} (hK : within [.races] K) (s : State) (a) : (fetchUnits s a).outside K = s.outside K :=
  outside_mono hK (by simp +decide [fetchUnits])

@[simp] theorem outside_recoverPages {K} (hK : within jobsSet K) (s : State) (ps) : (recoverPages ps s).outside K = s.outside K :=
  outside_mono hK (by simp +decide [recoverPages])

@[simp] theorem stays_execPageMigration {K} (hK : within (.boot :: jobsSet) K) (s : State) (page chunks unreadable) :
    Stays K s (execPageMigration page chunks unreadable s) :=
  stays_mono hK (by simp +decide [execPageMigration])

@[simp] theorem outside_rdataActs {K} (hK : within jobsSet K) (s : State) (t2 vpage unit mirror bad bytes) :
    (rdataActs t2 vpage unit mirror bad bytes s).outside K = s.outside K := by
  refine outside_mono hK ?_
  refine outside_onTwin rfl (fun s => ?_) ..
  simp +decide

@[simp] theorem stays_execRowRemap {K} (hK : within (.mm :: .ctxs :: .boot :: eventsSet) K) (s : State) (row uncorrectable) :
    Stays K s (execRowRemap row uncorrectable s) := by
  refine stays_mono hK ?_
  unfold execRowRemap
  split <;> simp +decide

@[simp] theorem stays_execPatrolRead {K} (hK : within (.mm :: .ctxs :: .boot :: eventsSet) K) (s : State)
    (frame corrected uncorrectable) :
    Stays K s (execPatrolRead frame corrected uncorrectable s) := by
  refine stays_mono hK ?_
  unfold execPatrolRead
  split <;> simp +decide

@[simp] theorem stays_execStoreUncorrectable {K} (hK : within (.boot :: haltsSet) K) (s : State) (page granule way line reader) :
    Stays K s (execStoreUncorrectable page granule way line reader s) := by
  refine stays_mono hK ?_
  unfold execStoreUncorrectable
  split <;> simp +decide

@[simp] theorem outside_bondDefect {K} (hK : within (.boot :: eventsSet) K) (s : State) (site group bond spare source) :
    (bondDefect site group bond spare source s).outside K = s.outside K := by
  refine outside_mono hK ?_
  unfold bondDefect
  split <;> simp +decide

@[simp] theorem outside_degradeBin {K} (hK : within (.boot :: jobsSet) K) (s : State) (b) : (degradeBin b s).outside K = s.outside K :=
  outside_mono hK (by simp +decide [degradeBin])

@[simp] theorem outside_degradeGuest {K} (hK : within (.sec :: eventsSet) K) (s : State) : (degradeGuest s).outside K = s.outside K :=
  outside_mono hK (by simp +decide [degradeGuest])

@[simp] theorem outside_bondConsequence {K} (hK : within (.boot :: .pwr :: jobsSet) K) (s : State) (site) :
    (bondConsequence site s).outside K = s.outside K := by
  refine outside_mono hK ?_
  unfold bondConsequence
  split <;> simp +decide

@[simp] theorem outside_disableGroup {K} (hK : within (.boot :: eventsSet) K) (s : State) (site group source) :
    (disableGroup site group source s).outside K = s.outside K :=
  outside_mono hK (by simp +decide [disableGroup])

@[simp] theorem outside_failBond {K} (hK : within (.boot :: eventsSet) K) (s : State) (l source) :
    (failBond l source s).outside K = s.outside K :=
  outside_mono hK (by simp +decide [failBond])

@[simp] theorem stays_execBondFailure {K} (hK : within (.boot :: .pwr :: jobsSet) K) (s : State) (l) :
    Stays K s (execBondFailure l s) :=
  stays_mono hK (by simp +decide [execBondFailure])

@[simp] theorem stays_execReferenceClockLoss {K} (hK : within (.board :: haltsSet) K) (s : State) (refclk) :
    Stays K s (execReferenceClockLoss refclk s) :=
  stays_mono hK (by simp +decide [execReferenceClockLoss])

@[simp] theorem outside_retrainAll {K} (hK : within [.flumes, .races, .racePorts] K) (s : State) :
    (retrainAll s).outside K = s.outside K :=
  outside_mono hK (by simp +decide [retrainAll])

@[simp] theorem outside_loseBins {K} (hK : within [.mm] K) (s : State) : (loseBins s).outside K = s.outside K :=
  outside_mono hK (by simp +decide [loseBins])

@[simp] theorem stays_execReferenceClockResume {K} (hK : within (.racePorts :: .board :: jobsSet) K) (s : State) (within60s binLapse) :
    Stays K s (execReferenceClockResume within60s binLapse s) :=
  stays_mono hK (by simp +decide [execReferenceClockResume])

@[simp] theorem outside_freshMiller {K} (hK : within [.freeCtr, .mil] K) (s : State) : (freshMiller s).outside K = s.outside K :=
  outside_mono hK (by simp +decide [freshMiller])

@[simp] theorem outside_abortRecal {K} (hK : within [.boot] K) (s : State) : (abortRecal s).outside K = s.outside K :=
  outside_mono hK (by simp +decide [abortRecal])

@[simp] theorem stays_execMillerWatchdogReset {K} (hK : within (.boot :: jobsSet) K) (s : State) (within60s) :
    Stays K s (execMillerWatchdogReset within60s s) :=
  stays_mono hK (by simp +decide [execMillerWatchdogReset])

/-! ## Security (`Machine/Security`) -/

@[simp] theorem outside_issueColophon {K} (hK : within [.sec] K) (s : State) : (issueColophon s).outside K = s.outside K :=
  outside_mono hK (by simp +decide [issueColophon])

@[simp] theorem outside_freshColophon {K} (hK : within [.sec] K) (s : State) (nonce) :
    (freshColophon nonce s).2.outside K = s.outside K :=
  outside_mono hK (by simp +decide [freshColophon])

theorem outside_whenEngine {K : List Component} {act : State → Reply} (hact : ∀ s, (act s).state.outside K = s.outside K) (s : State) :
    (whenEngine act s).state.outside K = s.outside K := by
  unfold whenEngine
  split
  · rfl
  · exact hact s

@[simp] theorem stays_execColophon {K} (hK : within (.sec :: repliesSet) K) (s : State) (m nonce) :
    Stays K s (execColophon m nonce s) := by
  refine stays_mono hK ?_
  unfold execColophon
  split
  · dsimp only
    (repeat' split) <;> simp +decide
  · exact stays_plainRequest rfl (fun s => outside_whenEngine (fun s => by simp +decide) s) ..

@[simp] theorem outside_dropKeys {K} (hK : within [.mil] K) (s : State) (old new) : (dropKeys old new s).outside K = s.outside K :=
  outside_mono hK (by simp +decide [dropKeys])

@[simp] theorem outside_applyFrisket {K} (hK : within (.sec :: eventsSet) K) (s : State) (f) :
    (applyFrisket f s).outside K = s.outside K :=
  outside_mono hK (by simp +decide [applyFrisket])

@[simp] theorem stays_execFrisket {K} (hK : within (.sec :: repliesSet) K) (s : State) (m rec reservedZero) :
    Stays K s (execFrisket m rec reservedZero s) := by
  refine stays_mono hK (stays_milRequest rfl (fun s => outside_frisketViolation rfl ..) (fun s => ?_) ..)
  split
  · split <;> simp +decide
  · simp +decide

@[simp] theorem outside_admitRefused {K} (hK : within (.sec :: eventsSet) K) (s : State) (step) :
    (admitRefused step s).outside K = s.outside K :=
  outside_mono hK (by simp +decide [admitRefused])

@[simp] theorem outside_renewReserve {K} (hK : within [.mm] K) (s : State) : (renewReserve s).outside K = s.outside K :=
  outside_mono hK (by simp +decide [renewReserve])

@[simp] theorem outside_admitJob {K} (hK : within [.mm, .races, .hosts, .sec, .mil, .pwr, .pair, .stepEventBase, .stepEventLow, .out] K)
    (s : State) (b) :
    (admitJob b s).outside K = s.outside K := by
  unfold admitJob
  extract_lets s1 src1 src2 src3 s2 s3
  have h1 : s1.outside K = s.outside K := by
    unfold s1
    split <;> simp +decide [within_trans hK]
  have h2 : s2.outside K = s1.outside K := by simp +decide [s2, src1, src2, src3, within_trans hK]
  have h3 : s3.outside K = s2.outside K := by simp +decide [s3, within_trans hK]
  exact (outside_foldl (fun s r => outside_tryAttest (within_trans hK rfl) ..) _ _).trans (h3.trans (h2.trans h1))

@[simp] theorem outside_tryAdmit {K} (hK : within [.mm, .races, .hosts, .sec, .mil, .pwr, .pair, .stepEventBase, .stepEventLow, .out] K)
    (s : State) (m b) :
    (tryAdmit m b s).1.outside K = s.outside K := by
  refine outside_mono hK ?_
  unfold tryAdmit
  split
  · split <;> simp +decide
  split
  · simp +decide
  split
  · simp +decide
  split
  · simp +decide
  · simp +decide

@[simp] theorem stays_execAdmission {K}
    (hK : within (.mm :: .races :: .sec :: .pwr :: .pair :: .stepEventBase :: .stepEventLow :: repliesSet) K) (s : State) (m b) :
    Stays K s (execAdmission m b s) := by
  refine stays_milRequest (within_trans hK rfl) (fun s => outside_admitRefused (within_trans hK rfl) ..)
    (fun s => outside_whenEngine (fun s => ?_) s) ..
  have ht := outside_tryAdmit (within_trans hK rfl) s m b
  split <;> next h => simpa [h] using ht

@[simp] theorem outside_admitHeld {K}
    (hK : within (.mm :: .races :: .sec :: .pwr :: .pair :: .stepEventBase :: .stepEventLow :: repliesSet) K) (s : State) :
    (admitHeld s).outside K = s.outside K := by
  unfold admitHeld
  split
  · rfl
  next m b _ =>
  have ht := outside_tryAdmit (within_trans hK rfl) { s with sec := { s.sec with heldAdmit := none } } m b
  split <;> next h => simpa +decide [h, within_trans hK] using ht

@[simp] theorem outside_freeSessions {K} (hK : within [.hosts] K) (s : State) : (freeSessions s).outside K = s.outside K :=
  outside_mono hK (by simp +decide [freeSessions])

@[simp] theorem outside_endJob {K} (hK : within (.flumes :: .eds :: .shards :: .galley :: .races :: carriesSet) K) (s : State) :
    (endJob s).outside K = s.outside K :=
  outside_mono hK (by simp +decide [endJob])

@[simp] theorem stays_execEndJob {K} (hK : within (.flumes :: .eds :: .shards :: .galley :: .races :: carriesSet) K) (s : State) (m) :
    Stays K s (execEndJob m s) := by
  refine stays_mono hK (stays_plainRequest rfl (fun s => outside_whenEngine (fun s => ?_) s) ..)
  simp +decide

@[simp] theorem stays_execGuestScrubConfirm {K} (hK : within (.sec :: eventsSet) K) (s : State) (confirmed) :
    Stays K s (execGuestScrubConfirm confirmed s) :=
  stays_mono hK (by simp +decide [execGuestScrubConfirm])

@[simp] theorem outside_scrubbed {K}
    (hK : within [.mem, .mm, .querns, .ctxs, .hoppers, .pool, .flumes, .eds, .shards, .galley, .races, .sec, .pair, .ipWait] K)
    (s : State) :
    (scrubbed s).outside K = s.outside K :=
  outside_mono hK (by simp +decide [scrubbed])

@[simp] theorem outside_failPhys {K} (hK : within (.boot :: jobsSet) K) (s : State) (n i source) :
    (failPhys n i source s).outside K = s.outside K := by
  refine outside_mono hK ?_
  unfold failPhys
  dsimp only
  (repeat' split) <;> simp +decide

@[simp] theorem outside_failForme {K} (hK : within (.galley :: .boot :: eventsSet) K) (s : State) (source f) :
    (failForme source s f).outside K = s.outside K :=
  outside_mono hK (by simp +decide [failForme])

@[simp] theorem stays_execScrub {K} (hK : within (.boot :: .pwr :: jobsSet) K) (s : State)
    (badFrames badQuerns badWays badFormes durationUs) :
    Stays K s (execScrub badFrames badQuerns badWays badFormes durationUs s) := by
  refine stays_mono hK ?_
  unfold execScrub
  refine (stays_whileClocked ..).2 (.inr ?_)
  extract_lets up frames fails s1 s2 s3 s4 rec_ src1 src2 src3 s5
  split
  · have h2 : s2.outside (.boot :: .pwr :: jobsSet) = s.outside (.boot :: .pwr :: jobsSet) := by simp +decide [s2, s1, outside_foldl]
    have h4 : s4.outside (.boot :: .pwr :: jobsSet) = s.outside (.boot :: .pwr :: jobsSet) := by simp +decide [s4, s3, outside_foldl, h2]
    have h5 : s5.outside (.boot :: .pwr :: jobsSet) = s4.outside (.boot :: .pwr :: jobsSet) := by simp +decide [s5, src1, src2, src3]
    simp +decide [h5, h4]
  · simp

@[simp] theorem outside_guestDeny {K} (hK : within (.sec :: eventsSet) K) (s : State) (a) : (guestDeny a s).outside K = s.outside K :=
  outside_mono hK (by simp +decide [guestDeny])

@[simp] theorem stays_execGuestAccess {K} (hK : within (.mem :: .mm :: .sec :: .pair :: eventsSet) K) (s : State) (write addr bytes) :
    Stays K s (execGuestAccess write addr bytes s) :=
  stays_mono hK (by simp +decide [execGuestAccess])

/-! ## Firmware (`Machine/Firmware`) -/

@[simp] theorem outside_logVerified {K} (hK : within eventsSet K) (s : State) (img k) :
    (logVerified s img k).outside K = s.outside K :=
  outside_mono hK (by simp +decide [logVerified])

@[simp] theorem outside_stageBlock {K} (hK : within (.boot :: eventsSet) K) (s : State) (a b bytes) :
    (stageBlock a b bytes s).outside K = s.outside K :=
  outside_mono hK (by simp +decide [stageBlock])

@[simp] theorem stays_execFwdata {K} (hK : within (.boot :: eventsSet) K) (s : State) (a d imageId block blocks blockOk busy bytes img) :
    Stays K s (execFwdata a d imageId block blocks blockOk busy bytes img s) := by
  refine stays_mono hK ?_
  refine stays_hearPacket rfl (fun s => ?_) ..
  dsimp only
  (repeat' split) <;> simp +decide

@[simp] theorem stays_execFirmwareStagingIdle {K} (hK : within [.boot] K) (s : State) : Stays K s (execFirmwareStagingIdle s) := by
  refine stays_mono hK ?_
  unfold execFirmwareStagingIdle
  split <;> simp +decide

@[simp] theorem stays_execFwstatus {K} (hK : within [.hosts, .ipWait, .out] K) (s : State) (a d imageId) :
    Stays K s (execFwstatus a d imageId s) := by
  refine stays_mono hK ?_
  refine stays_hearPacket rfl (fun s => ?_) ..
  split
  · rfl
  split
  · rfl
  split
  · rfl
  split <;> simp +decide

@[simp] theorem stays_execFwrepair {K} (hK : within [.hosts, .ipWait, .out] K) (s : State) (a) : Stays K s (execFwrepair a s) := by
  refine stays_mono hK ?_
  unfold execFwrepair
  dsimp only
  (repeat' split) <;> simp +decide

@[simp] theorem stays_execFwstage {K} (hK : within (.boot :: repliesSet) K) (s : State) (m img) : Stays K s (execFwstage m img s) :=
  stays_mono hK (stays_plainRequest rfl (fun s => by simp +decide) ..)

@[simp] theorem stays_execFwactivate {K} (hK : within (.boot :: repliesSet) K) (s : State) (m kind) :
    Stays K s (execFwactivate m kind s) := by
  refine stays_mono hK ?_
  refine stays_plainRequest rfl (fun s => ?_) ..
  dsimp only
  (repeat' split) <;> simp +decide

/-! ## Bring-up (`Machine/BringUp`) -/

@[simp] theorem outside_resetDies {K}
    (hK : within [.mem, .mm, .querns, .ctxs, .hoppers, .pool, .flumes, .eds, .shards, .galley, .races, .racePorts, .hosts, .sec, .mil,
    .boot, .pwr, .pair, .grantStalls, .ipWait, .cookieSecret, .cookiePrev, .cookieEpoch, .stepEventBase, .stepEventLow] K) (s : State) :
    (resetDies s).outside K = s.outside K :=
  outside_mono hK (by simp +decide [resetDies])

@[simp] theorem outside_losePower {K} (hK : within resetsSet K) (s : State) (why) : (losePower why s).outside K = s.outside K :=
  outside_mono hK (by simp +decide [losePower])

@[simp] theorem outside_powerUp {K} (hK : within [.timeNs, .mil, .boot, .pwr] K) (s : State) : (powerUp s).outside K = s.outside K :=
  outside_mono hK (by simp +decide [powerUp])

@[simp] theorem stays_execPwrgoodAssert {K} (hK : within [.timeNs, .mil, .boot, .pwr, .board] K) (s : State) :
    Stays K s (execPwrgoodAssert s) :=
  stays_mono hK (by simp +decide [execPwrgoodAssert])

@[simp] theorem stays_execPwrgoodDeassert {K} (hK : within resetsSet K) (s : State) : Stays K s (execPwrgoodDeassert s) :=
  stays_mono hK (by simp +decide [execPwrgoodDeassert])

@[simp] theorem outside_failBringUp {K} (hK : within (.boot :: eventsSet) K) (s : State) (k) :
    (failBringUp k s).outside K = s.outside K :=
  outside_mono hK (by simp +decide [failBringUp])

@[simp] theorem outside_bootImage {K} (hK : within (.sec :: .boot :: eventsSet) K) (s : State) (valid kind) :
    (bootImage valid s kind).outside K = s.outside K := by
  refine outside_mono hK ?_
  unfold bootImage
  dsimp only
  split <;> simp +decide

@[simp] theorem outside_openFlash {K} (hK : within [.board, .out] K) (s : State) (modes) :
    (openFlash modes s).outside K = s.outside K :=
  outside_mono hK (by simp +decide [openFlash])

@[simp] theorem outside_commitStone {K} (hK : within [.pwr] K) (s : State) (a n) : (commitStone a s n).outside K = s.outside K :=
  outside_mono hK (by simp +decide [commitStone])

@[simp] theorem outside_writeCal {K} (hK : within [.boot, .pwr, .out] K) (s : State) (a) : (writeCal a s).outside K = s.outside K :=
  outside_mono hK (by simp +decide [writeCal])

@[simp] theorem outside_completeCal {K} (hK : within [.boot, .pwr, .out] K) (s : State) : (completeCal s).outside K = s.outside K := by
  refine outside_mono hK ?_
  unfold completeCal
  split <;> simp +decide

@[simp] theorem outside_dropRecords {K} (hK : within (.boot :: eventsSet) K) (s : State) (bad) :
    (dropRecords bad s).outside K = s.outside K :=
  outside_mono hK (by simp +decide [dropRecords])

@[simp] theorem stays_execMillerBoot {K} (hK : within [.freeCtr, .hosts, .sec, .mil, .boot, .pwr, .board, .out] K) (s : State)
    (valid calCrcOk calSerialOk modes badRecords) :
    Stays K s (execMillerBoot valid calCrcOk calSerialOk modes badRecords s) :=
  stays_mono hK (by simp +decide [execMillerBoot])

@[simp] theorem outside_contradiction {K} (hK : within (.boot :: eventsSet) K) (s : State) (kind loc) :
    (contradiction kind loc s).outside K = s.outside K :=
  outside_mono hK (by simp +decide [contradiction])

@[simp] theorem outside_hidePort {K} (hK : within [.racePorts, .hosts] K) (s : State) (k) : (hidePort s k).outside K = s.outside K :=
  outside_mono hK (by simp +decide [hidePort])

@[simp] theorem outside_hideUnit {K} (hK : within [.mm, .galley, .racePorts, .hosts] K) (s : State) (kind k) :
    (hideUnit kind s k).outside K = s.outside K := by
  refine outside_mono hK ?_
  unfold hideUnit
  split <;> simp +decide

@[simp] theorem outside_failUnit {K} (hK : within (.mm :: .galley :: .racePorts :: .boot :: eventsSet) K) (s : State) (kind k) :
    (failUnit kind s k).outside K = s.outside K := by
  refine outside_mono hK ?_
  unfold failUnit
  split <;> simp +decide

@[simp] theorem outside_unionUnits {K} (hK : within (.mm :: .galley :: .racePorts :: .boot :: eventsSet) K) (s : State) (kind bad) :
    (unionUnits kind bad s).outside K = s.outside K :=
  outside_mono hK (by simp +decide [unionUnits])

@[simp] theorem stays_execSpurSelfTest {K} (hK : within [.freeCtr, .mm, .galley, .racePorts, .hosts, .mil, .boot, .cookieSecret, .out] K)
    (s : State) (refPresent fatal badWays badFormes badRacePorts badHostPorts) :
    Stays K s (execSpurSelfTest refPresent fatal badWays badFormes badRacePorts badHostPorts s) :=
  stays_mono hK (by simp +decide [execSpurSelfTest])

@[simp] theorem outside_testRow {K} (hK : within (.mm :: .boot :: eventsSet) K) (s : State) (r) :
    (testRow s r).outside K = s.outside K :=
  outside_mono hK (by simp +decide [testRow])

@[simp] theorem stays_execBinTest {K} (hK : within (.boot :: .pwr :: jobsSet) K) (s : State) (b badRows badGroups) :
    Stays K s (execBinTest b badRows badGroups s) :=
  stays_mono hK (by simp +decide [execBinTest])

@[simp] theorem outside_unionQuern {K} (hK : within (.boot :: eventsSet) K) (s : State) (n pass i) :
    (unionQuern n pass s i).outside K = s.outside K :=
  outside_mono hK (by simp +decide [unionQuern])

@[simp] theorem outside_raiseStone {K} (hK : within [.pwr, .board, .out] K) (s : State) (n) :
    (raiseStone n s).outside K = s.outside K :=
  outside_mono hK (by simp +decide [raiseStone])

@[simp] theorem stays_execStoneStartTest {K} (hK : within (.boot :: .pwr :: .board :: jobsSet) K) (s : State) (n t2) :
    Stays K s (execStoneStartTest n t2 s) :=
  stays_mono hK (by simp +decide [execStoneStartTest])

@[simp] theorem stays_execFirmwareBroadcast {K} (hK : within (.boot :: eventsSet) K) (s : State) :
    Stays K s (execFirmwareBroadcast s) :=
  stays_mono hK (by simp +decide [execFirmwareBroadcast])

@[simp] theorem outside_failBroadcast {K} (hK : within (.boot :: jobsSet) K) (s : State) (q) :
    (failBroadcast s q).outside K = s.outside K :=
  outside_mono hK (by simp +decide [failBroadcast])

@[simp] theorem outside_loadAll {K} (hK : within [.mem, .querns] K) (s : State) : (loadAll s).outside K = s.outside K :=
  outside_mono hK (by simp +decide [loadAll])

@[simp] theorem stays_execBroadcastRepair {K} (hK : within (.boot :: jobsSet) K) (s : State) (incomplete) :
    Stays K s (execBroadcastRepair incomplete s) :=
  stays_mono hK (by simp +decide [execBroadcastRepair])

@[simp] theorem stays_execLinkQualification {K} (hK : within (.boot :: .pwr :: jobsSet) K) (s : State) (bad) :
    Stays K s (execLinkQualification bad s) :=
  stays_mono hK (by simp +decide [execLinkQualification])

@[simp] theorem stays_execReady {K} (hK : within (.timeNs :: .sec :: .boot :: eventsSet) K) (s : State) (ms) :
    Stays K s (execReady ms s) :=
  stays_mono hK (by simp +decide [execReady])

@[simp] theorem stays_execRestart {K} (hK : within (.timeNs :: resetsSet) K) (s : State) (m) : Stays K s (execRestart m s) :=
  stays_mono hK (stays_plainRequest rfl (fun s => by simp +decide) ..)

@[simp] theorem stays_execRecal {K} (hK : within (.boot :: repliesSet) K) (s : State) (m serial) : Stays K s (execRecal m serial s) :=
  stays_mono hK (stays_plainRequest rfl (fun s => by simp +decide) ..)

@[simp] theorem outside_failCal {K} (hK : within [.boot] K) (s : State) (a) : (failCal a s).outside K = s.outside K :=
  outside_mono hK (by simp +decide [failCal])

@[simp] theorem stays_execRecalDone {K} (hK : within [.boot, .pwr, .out] K) (s : State) (phase pass cal) :
    Stays K s (execRecalDone phase pass cal s) := by
  refine stays_mono hK ?_
  unfold execRecalDone
  (repeat' split) <;> simp +decide

@[simp] theorem stays_execRecalabort {K} (hK : within (.boot :: repliesSet) K) (s : State) (m) : Stays K s (execRecalabort m s) :=
  stays_mono hK (stays_plainRequest rfl (fun s => by simp +decide) ..)

/-! ## Delivery (`Machine/Deliver`) -/

@[simp] theorem outside_respond {K} (hK : within (.flumes :: .eds :: .galley :: .races :: carriesSet) K) (s : State) (a n held f) :
    (respond a n held f s).outside K = s.outside K :=
  outside_mono hK (by simp +decide [respond])

theorem outside_jobOp {K} (hK : within framesSet K) {c : Instr} {r : JobHdr × Nat × Bool × (State → Answer)} (h : jobOp c = some r)
    (s : State) :
    ((r.2.2.2 s).stateOr s).outside K = s.outside K := by
  refine outside_mono hK ?_
  unfold jobOp at h
  split at h <;> cases h
  · next p => dsimp only; cases p.final <;> simp +decide
  all_goals simp +decide

theorem outside_runFirst {K} (hK : within framesSet K) (s : State) (a n) : ∀ t ∈ runFirst a n s, t.outside K = s.outside K := by
  refine mem_mono hK ?_
  unfold runFirst
  dsimp only
  split
  · simp +decide
  split
  · simp +decide
  next j op held act h =>
  split
  · simp +decide
  next h2 =>
  obtain ⟨c, -, hc⟩ := Option.bind_eq_some_iff.1 h
  simpa +decide [h2] using outside_jobOp rfl hc s

@[simp] theorem outside_runRequests {K} (hK : within framesSet K) (s : State) (p n k) :
    (runRequests p n k s).outside K = s.outside K := by
  refine outside_mono hK ?_
  induction k generalizing s with
  | zero => rfl
  | succ k ih =>
    unfold runRequests
    split
    · next h => rw [ih]; exact outside_runFirst rfl _ _ _ _ h
    · rfl

@[simp] theorem outside_runSession {K} (hK : within framesSet K) (s : State) (a n) : (runSession a n s).outside K = s.outside K :=
  outside_mono hK (by simp +decide [runSession])

@[simp] theorem outside_runSessions {K} (hK : within framesSet K) (s : State) : (runSessions s).outside K = s.outside K := by
  unfold runSessions
  split
  · rfl
  · exact outside_foldl (fun s h => outside_foldl (fun s x => outside_runSession hK ..) _ _) _ _

@[simp] theorem outside_joinRequests {K} (hK : within framesSet K) (s : State) (j c) : (joinRequests j c s).outside K = s.outside K :=
  outside_mono hK (by simp +decide [joinRequests])

@[simp] theorem outside_loadPart {K} (hK : within framesSet K) (s : State) (j q) : (loadPart j q s).outside K = s.outside K := by
  refine outside_mono hK ?_
  unfold loadPart
  dsimp only
  (repeat' split) <;> simp +decide

@[simp] theorem outside_deliverFrame {K} (hK : within framesSet K) (s : State) (c) : (deliverFrame c s).outside K = s.outside K := by
  refine outside_mono hK ?_
  unfold deliverFrame
  (repeat' split) <;> simp +decide

@[simp] theorem outside_deliverKept {K} (hK : within framesSet K) (s : State) (via k) :
    (deliverKept via k s).outside K = s.outside K := by
  refine outside_mono hK ?_
  induction k generalizing s with
  | zero => rfl
  | succ k ih =>
    unfold deliverKept
    split
    · next h => simpa +decide [ih] using outside_takeKept rfl _ _ _ h
    · rfl

@[simp] theorem stays_arrive {K} (hK : within framesSet K) (s : State) (h c) : Stays K s (arrive h c s) := by
  refine stays_mono hK ?_
  unfold arrive
  split
  · next h => simpa +decide using outside_of_fst h (outside_receive rfl ..)
  · next h => simpa +decide using outside_of_fst h (outside_receive rfl ..)

@[simp] theorem stays_onRace {K} (hK : within framesSet K) (s : State) (r h c) : Stays K s (onRace r h c s) :=
  stays_mono hK (by simp +decide [onRace])

@[simp] theorem stays_onHost {K} (hK : within framesSet K) (s : State) (h c) : Stays K s (onHost h c s) := by
  refine stays_mono hK ?_
  unfold onHost
  split <;> simp +decide

@[simp] theorem stays_execMbhdr {K} (hK : within framesSet K) (s : State) (h seq step grantNo mbid edition len) :
    Stays K s (execMbhdr h seq step grantNo mbid edition len s) :=
  stays_mono hK (by simp +decide [execMbhdr])

@[simp] theorem stays_execData {K} (hK : within framesSet K) (s : State) (h seq last seg bytes) :
    Stays K s (execData h seq last seg bytes s) :=
  stays_mono hK (by simp +decide [execData])

@[simp] theorem stays_execGrant {K} (hK : within framesSet K) (s : State) (h grantNo) : Stays K s (execGrant h grantNo s) :=
  stays_mono hK (by simp +decide [execGrant])

@[simp] theorem stays_execReceipt {K} (hK : within framesSet K) (s : State) (h seq step what) :
    Stays K s (execReceipt h seq step what s) :=
  stays_mono hK (by simp +decide [execReceipt])

@[simp] theorem stays_execRecallMb {K} (hK : within framesSet K) (s : State) (h seq step) : Stays K s (execRecallMb h seq step s) :=
  stays_mono hK (by simp +decide [execRecallMb])

@[simp] theorem stays_execOpenFlume {K} (hK : within framesSet K) (s : State) (h dir len4k) :
    Stays K s (execOpenFlume h dir len4k s) :=
  stays_mono hK (by simp +decide [execOpenFlume])

@[simp] theorem stays_execOpenack {K} (hK : within framesSet K) (s : State) (h dir len4k result) :
    Stays K s (execOpenack h dir len4k result s) :=
  stays_mono hK (by simp +decide [execOpenack])

@[simp] theorem stays_execClose {K} (hK : within framesSet K) (s : State) (h forced lastIssued firstUnused) :
    Stays K s (execClose h forced lastIssued firstUnused s) :=
  stays_mono hK (by simp +decide [execClose])

@[simp] theorem stays_execToken {K} (hK : within framesSet K) (s : State) (h step) : Stays K s (execToken h step s) :=
  stays_mono hK (by simp +decide [execToken])

@[simp] theorem stays_execNotice {K} (hK : within framesSet K) (s : State) (h step) : Stays K s (execNotice h step s) :=
  stays_mono hK (by simp +decide [execNotice])

@[simp] theorem stays_execRed {K} (hK : within framesSet K) (s : State) (h id blockHdr a nb lines err) :
    Stays K s (execRed h id blockHdr a nb lines err s) := by
  unfold execRed
  dsimp only
  split
  · refine (stays_whileClocked ..).2 (.inr ?_)
    split
    · next h => simpa +decide [within_trans hK] using outside_takeLocal (within_trans hK rfl) _ _ _ h
    · simp
  · exact stays_arrive (within_trans hK rfl) ..

@[simp] theorem stays_execRedack {K} (hK : within framesSet K) (s : State) (h id credit formes) :
    Stays K s (execRedack h id credit formes s) := by
  unfold execRedack
  dsimp only
  split
  · refine (stays_whileClocked ..).2 (.inr ?_)
    split
    · next h => simpa +decide [within_trans hK] using outside_takeLocal (within_trans hK rfl) _ _ _ h
    · simp
  · exact stays_arrive (within_trans hK rfl) ..

@[simp] theorem stays_execLinkAck {K} (hK : within framesSet K) (s : State) (r h) : Stays K s (execLinkAck r h s) :=
  stays_mono hK (by simp +decide [execLinkAck])

@[simp] theorem stays_execLinkNack {K} (hK : within framesSet K) (s : State) (r h base missing) :
    Stays K s (execLinkNack r h base missing s) :=
  stays_mono hK (by simp +decide [execLinkNack])

@[simp] theorem stays_execLinkResume {K} (hK : within framesSet K) (s : State) (r h) : Stays K s (execLinkResume r h s) :=
  stays_mono hK (by simp +decide [execLinkResume])

@[simp] theorem stays_execLinkWithdraw {K} (hK : within framesSet K) (s : State) (r h) : Stays K s (execLinkWithdraw r h s) :=
  stays_mono hK (by simp +decide [execLinkWithdraw])

@[simp] theorem stays_execAck {K} (hK : within framesSet K) (s : State) (h ceCount) : Stays K s (execAck h ceCount s) :=
  stays_mono hK (by simp +decide [execAck])

@[simp] theorem stays_execNack {K} (hK : within framesSet K) (s : State) (h base missing) : Stays K s (execNack h base missing s) :=
  stays_mono hK (by simp +decide [execNack])

@[simp] theorem stays_execSclose {K} (hK : within framesSet K) (s : State) (h) : Stays K s (execSclose h s) := by
  refine stays_mono hK ?_
  unfold execSclose
  split <;> simp +decide

@[simp] theorem stays_execLoad {K} (hK : within framesSet K) (s : State) (j part) : Stays K s (execLoad j part s) :=
  stays_mono hK (by simp +decide [execLoad])

@[simp] theorem stays_execUnload {K} (hK : within framesSet K) (s : State) (j c) : Stays K s (execUnload j c s) :=
  stays_mono hK (by simp +decide [execUnload])

@[simp] theorem stays_execReload {K} (hK : within framesSet K) (s : State) (j msg) : Stays K s (execReload j msg s) :=
  stays_mono hK (by simp +decide [execReload])

@[simp] theorem stays_execMap {K} (hK : within framesSet K) (s : State) (j first count owner shared wp bin) :
    Stays K s (execMap j first count owner shared wp bin s) :=
  stays_mono hK (by simp +decide [execMap])

@[simp] theorem stays_execUnmap {K} (hK : within framesSet K) (s : State) (j first count) : Stays K s (execUnmap j first count s) :=
  stays_mono hK (by simp +decide [execUnmap])

@[simp] theorem stays_execPut {K} (hK : within framesSet K) (s : State) (j addr bytes) : Stays K s (execPut j addr bytes s) :=
  stays_mono hK (by simp +decide [execPut])

@[simp] theorem stays_execJobRegread {K} (hK : within framesSet K) (s : State) (j off) : Stays K s (execJobRegread j off s) :=
  stays_mono hK (by simp +decide [execJobRegread])

@[simp] theorem stays_execJobRegwrite {K} (hK : within framesSet K) (s : State) (j off value) :
    Stays K s (execJobRegwrite j off value s) :=
  stays_mono hK (by simp +decide [execJobRegwrite])

@[simp] theorem stays_execFopen {K} (hK : within framesSet K) (s : State) (j f) : Stays K s (execFopen j f s) :=
  stays_mono hK (by simp +decide [execFopen])

@[simp] theorem stays_execFclose {K} (hK : within framesSet K) (s : State) (j f forced) : Stays K s (execFclose j f forced s) :=
  stays_mono hK (by simp +decide [execFclose])

@[simp] theorem stays_execRewind {K} (hK : within framesSet K) (s : State) (j c step fwd bwd) :
    Stays K s (execRewind j c step fwd bwd s) :=
  stays_mono hK (by simp +decide [execRewind])

@[simp] theorem stays_execAbandon {K} (hK : within framesSet K) (s : State) (j c) : Stays K s (execAbandon j c s) :=
  stays_mono hK (by simp +decide [execAbandon])

@[simp] theorem stays_execRollback {K} (hK : within framesSet K) (s : State) (j c step) : Stays K s (execRollback j c step s) :=
  stays_mono hK (by simp +decide [execRollback])

@[simp] theorem stays_execJobSubscribe {K} (hK : within framesSet K) (s : State) (j on) : Stays K s (execJobSubscribe j on s) :=
  stays_mono hK (by simp +decide [execJobSubscribe])

@[simp] theorem stays_execJwrite {K} (hK : within framesSet K) (s : State) (t2 vpage unit bytes) :
    Stays K s (execJwrite t2 vpage unit bytes s) :=
  stays_mono hK (by simp +decide [execJwrite])

@[simp] theorem stays_execJimp {K} (hK : within framesSet K) (s : State) (t2 recs) : Stays K s (execJimp t2 recs s) :=
  stays_mono hK (by simp +decide [execJimp])

@[simp] theorem stays_execJentry {K} (hK : within framesSet K) (s : State) (t2 ctx bwd e nextGrant) :
    Stays K s (execJentry t2 ctx bwd e nextGrant s) :=
  stays_mono hK (by simp +decide [execJentry])

@[simp] theorem stays_execJpush {K} (hK : within framesSet K) (s : State) (t2 flume seq outFlume outSeq) :
    Stays K s (execJpush t2 flume seq outFlume outSeq s) :=
  stays_mono hK (by simp +decide [execJpush])

@[simp] theorem stays_execJflume {K} (hK : within framesSet K) (s : State) (t2 flume seq issued used state) :
    Stays K s (execJflume t2 flume seq issued used state s) :=
  stays_mono hK (by simp +decide [execJflume])

@[simp] theorem stays_execJed {K} (hK : within framesSet K) (s : State) (t2 shard state number refcount head pages settled) :
    Stays K s (execJed t2 shard state number refcount head pages settled s) :=
  stays_mono hK (by simp +decide [execJed])

@[simp] theorem stays_execJstep {K} (hK : within framesSet K) (s : State) (t2 ctx step lscale final nonfinite closed rstep recs) :
    Stays K s (execJstep t2 ctx step lscale final nonfinite closed rstep recs s) :=
  stays_mono hK (by simp +decide [execJstep])

@[simp] theorem stays_execJpeer {K} (hK : within framesSet K) (s : State) (t2 ctx peer lastToken lastNotice) :
    Stays K s (execJpeer t2 ctx peer lastToken lastNotice s) :=
  stays_mono hK (by simp +decide [execJpeer])

@[simp] theorem stays_execJack {K} (hK : within framesSet K) (s : State) (t2 ackJsn) : Stays K s (execJack t2 ackJsn s) :=
  stays_mono hK (by simp +decide [execJack])

@[simp] theorem stays_execTwinLeave {K} (hK : within framesSet K) (s : State) (t2 reason) : Stays K s (execTwinLeave t2 reason s) :=
  stays_mono hK (by simp +decide [execTwinLeave])

@[simp] theorem stays_execAssume {K} (hK : within framesSet K) (s : State) (t2 member incNew) :
    Stays K s (execAssume t2 member incNew s) :=
  stays_mono hK (by simp +decide [execAssume])

@[simp] theorem stays_execRfetch {K} (hK : within framesSet K) (s : State) (t2 vpage unit mirror) :
    Stays K s (execRfetch t2 vpage unit mirror s) :=
  stays_mono hK (by simp +decide [execRfetch])

@[simp] theorem stays_execRdata {K} (hK : within framesSet K) (s : State) (t2 vpage unit mirror bad bytes) :
    Stays K s (execRdata t2 vpage unit mirror bad bytes s) :=
  stays_mono hK (by simp +decide [execRdata])

/-! ## The board (`Machine/Board`) -/

@[simp] theorem stays_execBrownOut {K} (hK : within (.pwr :: haltsSet) K) (s : State) (n) : Stays K s (execBrownOut n s) :=
  stays_mono hK (by simp +decide [execBrownOut])

@[simp] theorem outside_stonesOff {K} (hK : within [.pwr] K) (s : State) : (stonesOff s).outside K = s.outside K :=
  outside_mono hK (by simp +decide [stonesOff])

@[simp] theorem stays_execThermtrip {K} (hK : within (.pwr :: .board :: eventsSet) K) (s : State) : Stays K s (execThermtrip s) :=
  stays_mono hK (by simp +decide [execThermtrip])

@[simp] theorem stays_execThermtripRelease {K} (hK : within [.board, .out] K) (s : State) : Stays K s (execThermtripRelease s) :=
  stays_mono hK (by simp +decide [execThermtripRelease])

@[simp] theorem stays_execRailMonitorTrip {K} (hK : within resetsSet K) (s : State) (rail) : Stays K s (execRailMonitorTrip rail s) :=
  stays_mono hK (by simp +decide [execRailMonitorTrip])

@[simp] theorem outside_loseRail {K} (hK : within (.pwr :: eventsSet) K) (s : State) (rail) :
    (loseRail s rail).outside K = s.outside K :=
  outside_mono hK (by simp +decide [loseRail])

@[simp] theorem stays_execPmbusFailure {K} (hK : within (.boot :: .pwr :: jobsSet) K) (s : State) (b) :
    Stays K s (execPmbusFailure b s) := by
  refine stays_mono hK ?_
  unfold execPmbusFailure
  split <;> simp +decide

@[simp] theorem stays_execAlert {K} (hK : within [.board, .out] K) (s : State) (status) : Stays K s (execAlert status s) :=
  stays_mono hK (by simp +decide [execAlert])

@[simp] theorem stays_execXinLoss {K} (hK : within (.pwr :: .board :: eventsSet) K) (s : State) : Stays K s (execXinLoss s) :=
  stays_mono hK (by simp +decide [execXinLoss])

@[simp] theorem stays_execXinResume {K} (hK : within (.pwr :: .board :: eventsSet) K) (s : State) : Stays K s (execXinResume s) :=
  stays_mono hK (by simp +decide [execXinResume])

@[simp] theorem stays_execBoundaryScan {K} (hK : within resetsSet K) (s : State) (a) : Stays K s (execBoundaryScan a s) :=
  stays_mono hK (by simp +decide [execBoundaryScan])

@[simp] theorem stays_execTestLogicReset {K} (hK : within [.timeNs, .mil, .boot, .pwr, .board] K) (s : State) :
    Stays K s (execTestLogicReset s) :=
  stays_mono hK (by simp +decide [execTestLogicReset])

@[simp] theorem stays_execDebugInstruction {K} (hK : within (.sec :: eventsSet) K) (s : State) (ir) :
    Stays K s (execDebugInstruction ir s) :=
  stays_mono hK (by simp +decide [execDebugInstruction])

@[simp] theorem stays_execVstbyLoss {K} (hK : within (.timeNs :: resetsSet) K) (s : State) : Stays K s (execVstbyLoss s) :=
  stays_mono hK (by simp +decide [execVstbyLoss])

/-! ## Vector instructions (`Machine/Vector`) -/

@[simp] theorem outside_vStore {K} (hK : within [.mem, .querns] K) (s : State) (q dist lanes bytes mask) :
    (vStore s q dist lanes bytes mask).outside K = s.outside K :=
  outside_mono hK (by simp +decide [vStore])

@[simp] theorem outside_vDestConv {K} (hK : within [.mem, .querns] K) (s : State) (q o dist comp conv rm sat vals draw n) {g}
    (h : s.outside K = g) :
    Yields (fun t => t.outside K = g) (vDestConv s q o dist comp conv rm sat vals draw n) := by
  simp +decide [vDestConv, h, within_trans hK]

@[simp] theorem outside_vArith {K} (hK : within [.mem, .querns] K) (s : State) (q o srcs unused op) {g} (h : s.outside K = g) :
    Yields (fun t => t.outside K = g) (vArith q o srcs unused op s) := by
  unfold vArith
  dsimp only
  iterate 4 refine (yields_bind ..).2 (yields_of_forall (fun _ => ?_) _)
  refine Yields.bind (P := fun t => t.outside K = g) (outside_vDestConv hK _ _ _ _ _ _ _ _ _ _ _ ?_) (fun t ht => ?_)
  · simp +decide [h, within_trans hK]
  · simp +decide [ht, within_trans hK]

theorem stays_startV {K} (hK : within streamsSet K) {body : State → Except Nat State}
    (hbody : ∀ s, Yields (fun t => t.outside K = s.outside K) (body s)) (s : State) (q op i) :
    Stays K s (startV q op i body s) := by
  refine stays_startInstr (within_trans hK rfl) (fun s => ?_) ..
  dsimp only
  refine Yields.bind (hbody _) (fun s2 h2 => ?_)
  simpa +decide [within_trans hK] using h2

@[simp] theorem outside_vTwo {K} (hK : within [.mem, .querns] K) (s : State) (q i f) {g} (h : s.outside K = g) :
    Yields (fun t => t.outside K = g) (vTwo q i f s) := by
  simp +decide [vTwo, h, within_trans hK]

@[simp] theorem stays_execVadd {K} (hK : within (.mem :: streamsSet) K) (s : State) (q i) : Stays K s (execVadd q i s) := by
  refine stays_mono hK ?_
  refine stays_startV rfl (fun s => ?_) ..
  simp +decide

@[simp] theorem stays_execVmul {K} (hK : within (.mem :: streamsSet) K) (s : State) (q i) : Stays K s (execVmul q i s) := by
  refine stays_mono hK ?_
  refine stays_startV rfl (fun s => ?_) ..
  simp +decide

@[simp] theorem stays_execVmax {K} (hK : within (.mem :: streamsSet) K) (s : State) (q i) : Stays K s (execVmax q i s) := by
  refine stays_mono hK ?_
  refine stays_startV rfl (fun s => ?_) ..
  simp +decide

@[simp] theorem stays_execVmin {K} (hK : within (.mem :: streamsSet) K) (s : State) (q i) : Stays K s (execVmin q i s) := by
  refine stays_mono hK ?_
  refine stays_startV rfl (fun s => ?_) ..
  simp +decide

@[simp] theorem stays_execVfma {K} (hK : within (.mem :: streamsSet) K) (s : State) (q i) : Stays K s (execVfma q i s) := by
  refine stays_mono hK ?_
  refine stays_startV rfl (fun s => ?_) ..
  simp +decide

@[simp] theorem outside_vSel {K} (hK : within [.mem, .querns] K) (s : State) (q i) {g} (h : s.outside K = g) :
    Yields (fun t => t.outside K = g) (vSel q i s) := by
  simp +decide [vSel, h, within_trans hK]

@[simp] theorem stays_execVsel {K} (hK : within (.mem :: streamsSet) K) (s : State) (q i) : Stays K s (execVsel q i s) := by
  refine stays_mono hK ?_
  refine stays_startV rfl (fun s => ?_) ..
  simp +decide

@[simp] theorem outside_vCvt {K} (hK : within [.mem, .querns] K) (s : State) (q i) {g} (h : s.outside K = g) :
    Yields (fun t => t.outside K = g) (vCvt q i s) := by
  simp +decide [vCvt, h, within_trans hK]

@[simp] theorem stays_execVcvt {K} (hK : within (.mem :: streamsSet) K) (s : State) (q i) : Stays K s (execVcvt q i s) := by
  refine stays_mono hK ?_
  refine stays_startV rfl (fun s => ?_) ..
  simp +decide

@[simp] theorem outside_vSpecial {K} (hK : within [.mem, .querns] K) (s : State) (q i opbit f) {g} (h : s.outside K = g) :
    Yields (fun t => t.outside K = g) (vSpecial q i opbit f s) := by
  unfold vSpecial
  dsimp only
  iterate 6 refine (yields_bind ..).2 (yields_of_forall (fun _ => ?_) _)
  split <;>
  · refine Yields.bind (P := fun t => t.outside K = g) (outside_vDestConv hK _ _ _ _ _ _ _ _ _ _ _ ?_) (fun t ht => ?_)
    · simp +decide [h, within_trans hK]
    · simp +decide [ht, within_trans hK]

@[simp] theorem stays_execVexp {K} (hK : within (.mem :: streamsSet) K) (s : State) (q i) : Stays K s (execVexp q i s) := by
  refine stays_mono hK ?_
  refine stays_startV rfl (fun s => ?_) ..
  simp +decide

@[simp] theorem stays_execVlog {K} (hK : within (.mem :: streamsSet) K) (s : State) (q i) : Stays K s (execVlog q i s) := by
  refine stays_mono hK ?_
  refine stays_startV rfl (fun s => ?_) ..
  simp +decide

@[simp] theorem stays_execVrcp {K} (hK : within (.mem :: streamsSet) K) (s : State) (q i) : Stays K s (execVrcp q i s) := by
  refine stays_mono hK ?_
  refine stays_startV rfl (fun s => ?_) ..
  simp +decide

@[simp] theorem stays_execVrsq {K} (hK : within (.mem :: streamsSet) K) (s : State) (q i) : Stays K s (execVrsq q i s) := by
  refine stays_mono hK ?_
  refine stays_startV rfl (fun s => ?_) ..
  simp +decide

@[simp] theorem stays_execVsetvl {K} (hK : within streamsSet K) (s : State) (q i) : Stays K s (execVsetvl q i s) := by
  refine stays_mono hK ?_
  refine stays_startV rfl (fun s => ?_) ..
  simp +decide

@[simp] theorem stays_execVmode {K} (hK : within streamsSet K) (s : State) (q i) : Stays K s (execVmode q i s) := by
  refine stays_mono hK ?_
  refine stays_startV rfl (fun s => ?_) ..
  simp +decide

/-! ## Learning instructions (`Machine/Learn`) -/

@[simp] theorem outside_vRowstat {K} (hK : within [.mem, .querns] K) (s : State) (q i) {g} (h : s.outside K = g) :
    Yields (fun t => t.outside K = g) (vRowstat q i s) := by
  simp +decide [vRowstat, h, within_trans hK]

@[simp] theorem stays_execVrowstat {K} (hK : within (.mem :: streamsSet) K) (s : State) (q i) : Stays K s (execVrowstat q i s) := by
  refine stays_mono hK ?_
  refine stays_startV rfl (fun s => ?_) ..
  simp +decide

@[simp] theorem outside_vRng {K} (hK : within [.mem, .querns] K) (s : State) (q i) {g} (h : s.outside K = g) :
    Yields (fun t => t.outside K = g) (vRng q i s) := by
  simp +decide [vRng, h, within_trans hK]

@[simp] theorem stays_execVrng {K} (hK : within (.mem :: streamsSet) K) (s : State) (q i) : Stays K s (execVrng q i s) := by
  refine stays_mono hK ?_
  refine stays_startV rfl (fun s => ?_) ..
  simp +decide

@[simp] theorem outside_vSrnd {K} (hK : within [.mem, .querns] K) (s : State) (q i) {g} (h : s.outside K = g) :
    Yields (fun t => t.outside K = g) (vSrnd q i s) := by
  simp +decide [vSrnd, h, within_trans hK]

@[simp] theorem stays_execVsrnd {K} (hK : within (.mem :: streamsSet) K) (s : State) (q i) : Stays K s (execVsrnd q i s) := by
  refine stays_mono hK ?_
  refine stays_startV rfl (fun s => ?_) ..
  simp +decide

@[simp] theorem outside_vNorm2 {K} (hK : within [.mem, .querns] K) (s : State) (q i) {g} (h : s.outside K = g) :
    Yields (fun t => t.outside K = g) (vNorm2 q i s) := by
  simp +decide [vNorm2, h, within_trans hK]

@[simp] theorem stays_execVnorm2 {K} (hK : within (.mem :: streamsSet) K) (s : State) (q i) : Stays K s (execVnorm2 q i s) := by
  refine stays_mono hK ?_
  refine stays_startV rfl (fun s => ?_) ..
  simp +decide

@[simp] theorem outside_updPut {K} (hK : within [.mem, .querns] K) (s : State) (q slot n roll words) {g} (h : s.outside K = g) :
    Yields (fun t => t.outside K = g) (updPut q slot n roll words s) := by
  simp +decide [updPut, h, within_trans hK]

@[simp] theorem outside_vUpd {K} (hK : within [.mem, .querns] K) (s : State) (q i) {g} (h : s.outside K = g) :
    Yields (fun t => t.outside K = g) (vUpd q i s) := by
  unfold vUpd
  dsimp only
  iterate 12 refine (yields_bind ..).2 (yields_of_forall (fun _ => ?_) _)
  split
  · simp +decide [h, within_trans hK]
  refine Yields.bind (outside_updPut (within_trans hK rfl) (g := g) _ _ _ _ _ _ (by simp +decide [h, within_trans hK])) (fun s1 h1 => ?_)
  refine Yields.bind (outside_updPut (within_trans hK rfl) _ _ _ _ _ _ h1) (fun s2 h2 => ?_)
  refine Yields.bind (outside_updPut (within_trans hK rfl) _ _ _ _ _ _ h2) (fun s3 h3 => ?_)
  simpa +decide [within_trans hK] using h3

@[simp] theorem stays_execVupd {K} (hK : within (.mem :: streamsSet) K) (s : State) (q i) : Stays K s (execVupd q i s) := by
  refine stays_mono hK ?_
  refine stays_startV rfl (fun s => ?_) ..
  simp +decide

/-! ## Matrix instructions (`Machine/Matrix`) -/

@[simp] theorem outside_clearSet {K} (hK : within [.mem, .querns] K) (s : State) (q k) : (clearSet s q k).outside K = s.outside K :=
  outside_mono hK (by simp +decide [clearSet])

@[simp] theorem outside_setMode {K} (hK : within [.mem, .querns] K) (s : State) (q pm) : (setMode q pm s).outside K = s.outside K :=
  outside_mono hK (by simp +decide [setMode])

@[simp] theorem outside_addSums {K} (hK : within [.mem, .querns] K) (s : State) (q adds) :
    (addSums s q adds).outside K = s.outside K := by
  refine outside_mono hK ?_
  refine outside_foldl (fun s x => ?_) _ _
  dsimp only
  split
  · rfl
  · split <;> simp +decide

@[simp] theorem outside_runPass {K} (hK : within [.mem, .querns] K) (s : State) (q o) : (runPass q o s).outside K = s.outside K :=
  outside_mono hK (by simp +decide [runPass])

@[simp] theorem outside_releaseHeld {K} (hK : within [.mem, .querns] K) (s : State) (q epoch) :
    (releaseHeld s q epoch).outside K = s.outside K :=
  outside_mono hK (by simp +decide [releaseHeld])

@[simp] theorem outside_releaseClears {K} (hK : within [.querns, .ctxs] K) (s : State) (q epoch) :
    (releaseClears s q epoch).outside K = s.outside K :=
  outside_mono hK (by simp +decide [releaseClears])

@[simp] theorem outside_endWriteOut {K} (hK : within [.mem, .querns, .ctxs] K) (s : State) (q dr advWgo) :
    (endWriteOut s q dr advWgo).outside K = s.outside K :=
  outside_mono hK (by simp +decide [endWriteOut])

@[simp] theorem outside_countDuplicate {K} (hK : within [.querns] K) (s : State) (q) : (countDuplicate s q).outside K = s.outside K :=
  outside_mono hK (by simp +decide [countDuplicate])

@[simp] theorem outside_writeOut {K} (hK : within [.mem, .querns, .ctxs] K) (s : State) (q) : (writeOut q s).outside K = s.outside K := by
  refine outside_mono hK ?_
  unfold writeOut
  dsimp only
  (repeat' split) <;> simp +decide

@[simp] theorem stays_execMcfg {K} (hK : within (.mem :: streamsSet) K) (s : State) (q i) : Stays K s (execMcfg q i s) := by
  refine stays_mono hK ?_
  refine stays_startInstr rfl (fun s => ?_) ..
  simp +decide

@[simp] theorem stays_execMload {K} (hK : within streamsSet K) (s : State) (q i) : Stays K s (execMload q i s) := by
  refine stays_mono hK ?_
  refine stays_startInstr rfl (fun s => ?_) ..
  simp +decide

@[simp] theorem stays_execMpass {K} (hK : within (.mem :: streamsSet) K) (s : State) (q i) : Stays K s (execMpass q i s) := by
  refine stays_mono hK ?_
  refine stays_startInstr rfl (fun s => ?_) ..
  simp +decide

@[simp] theorem stays_execMdrain {K} (hK : within streamsSet K) (s : State) (q i) : Stays K s (execMdrain q i s) := by
  refine stays_mono hK ?_
  refine stays_startInstr rfl (fun s => ?_) ..
  simp +decide

@[simp] theorem stays_execMdrainWriteOut {K} (hK : within [.mem, .querns, .ctxs] K) (s : State) (q) :
    Stays K s (execMdrainWriteOut q s) :=
  stays_mono hK (by simp +decide [execMdrainWriteOut])

@[simp] theorem outside_clearEpoch {K} (hK : within [.mem, .querns] K) (s : State) (q i) :
    (clearEpoch q i s).outside K = s.outside K :=
  outside_mono hK (by simp +decide [clearEpoch])

@[simp] theorem stays_execMclr {K} (hK : within (.mem :: streamsSet) K) (s : State) (q i) : Stays K s (execMclr q i s) := by
  refine stays_mono hK ?_
  refine stays_startInstr rfl (fun s => ?_) ..
  simp +decide

/-! ## Every command -/

theorem stays_exec (c : Instr) (s : State) : Stays (touched c) s (exec c s) := by
  cases c with
  | mcfg => exact stays_execMcfg rfl ..
  | mload => exact stays_execMload rfl ..
  | mpass => exact stays_execMpass rfl ..
  | mdrain => exact stays_execMdrain rfl ..
  | mdrainWriteOut => exact stays_execMdrainWriteOut rfl ..
  | mclr => exact stays_execMclr rfl ..
  | vadd => exact stays_execVadd rfl ..
  | vmul => exact stays_execVmul rfl ..
  | vfma => exact stays_execVfma rfl ..
  | vmax => exact stays_execVmax rfl ..
  | vmin => exact stays_execVmin rfl ..
  | vsel => exact stays_execVsel rfl ..
  | vcvt => exact stays_execVcvt rfl ..
  | vexp => exact stays_execVexp rfl ..
  | vlog => exact stays_execVlog rfl ..
  | vrcp => exact stays_execVrcp rfl ..
  | vrsq => exact stays_execVrsq rfl ..
  | vrowstat => exact stays_execVrowstat rfl ..
  | vrng => exact stays_execVrng rfl ..
  | vsrnd => exact stays_execVsrnd rfl ..
  | vnorm2 => exact stays_execVnorm2 rfl ..
  | vupd => exact stays_execVupd rfl ..
  | vsetvl => exact stays_execVsetvl rfl ..
  | vmode => exact stays_execVmode rfl ..
  | xmove => exact stays_execXmove rfl ..
  | xfetch => exact stays_execXfetch rfl ..
  | xpref => exact stays_execXpref rfl ..
  | xdrop => exact stays_execXdrop rfl ..
  | xfence => exact stays_execXfence rfl ..
  | moveComplete => exact stays_execMoveComplete rfl ..
  | prefetchComplete => exact stays_execPrefetchComplete rfl ..
  | cwait => exact stays_execCwait rfl ..
  | csig => exact stays_execCsig rfl ..
  | cloop => exact stays_execCloop rfl ..
  | cend => exact stays_execCend rfl ..
  | cphase => exact stays_execCphase rfl ..
  | cbar => exact stays_execCbar rfl ..
  | barrierRelease => exact stays_execBarrierRelease rfl ..
  | chalt => exact stays_execChalt rfl ..
  | stageProgramChalt => exact stays_execStageProgramChalt rfl ..
  | programComplete => exact stays_execProgramComplete rfl ..
  | tokenDeadlock => exact stays_execTokenDeadlock rfl ..
  | imageLoad => exact stays_execImageLoad rfl ..
  | programStart => exact stays_execProgramStart rfl ..
  | mergedCompletion => exact stays_execMergedCompletion rfl ..
  | hpop => exact stays_execHpop rfl ..
  | dispatch => exact stays_execDispatch rfl ..
  | hpush => exact stays_execHpush rfl ..
  | hrcpt => exact stays_execHrcpt rfl ..
  | edopen => exact stays_execEdopen rfl ..
  | edpend => exact stays_execEdpend rfl ..
  | edcommit => exact stays_execEdcommit rfl ..
  | edretire => exact stays_execEdretire rfl ..
  | bscale => exact stays_execBscale rfl ..
  | bred => exact stays_execBred rfl ..
  | steptoken => exact stays_execSteptoken rfl ..
  | grantIssue => exact stays_execGrantIssue rfl ..
  | acceptance => exact stays_execAcceptance rfl ..
  | mbhdr => exact stays_execMbhdr rfl ..
  | data => exact stays_execData rfl ..
  | grant => exact stays_execGrant rfl ..
  | receipt => exact stays_execReceipt rfl ..
  | recallMb => exact stays_execRecallMb rfl ..
  | openFlume => exact stays_execOpenFlume rfl ..
  | openack => exact stays_execOpenack rfl ..
  | close => exact stays_execClose rfl ..
  | token => exact stays_execToken rfl ..
  | notice => exact stays_execNotice rfl ..
  | flumeBreak => exact stays_execFlumeBreak rfl ..
  | pathFail => exact stays_execPathFail rfl ..
  | red => exact stays_execRed rfl ..
  | redack => exact stays_execRedack rfl ..
  | roundComplete => exact stays_execRoundComplete rfl ..
  | bucketComplete => exact stays_execBucketComplete rfl ..
  | galleyStall => exact stays_execGalleyStall rfl ..
  | formeDisable => exact stays_execFormeDisable rfl ..
  | drainComplete => exact stays_execDrainComplete rfl ..
  | raceTraining => exact stays_execRaceTraining rfl ..
  | trainingTimeout => exact stays_execTrainingTimeout rfl ..
  | qualification => exact stays_execQualification rfl ..
  | helloSend => exact stays_execHelloSend rfl ..
  | hello => exact stays_execHello rfl ..
  | attest => exact stays_execAttest rfl ..
  | attestRetry => exact stays_execAttestRetry rfl ..
  | failedRetry => exact stays_execFailedRetry rfl ..
  | linkAck => exact stays_execLinkAck rfl ..
  | linkAckTimer => exact stays_execLinkAckTimer rfl ..
  | linkNack => exact stays_execLinkNack rfl ..
  | linkResume => exact stays_execLinkResume rfl ..
  | linkWithdraw => exact stays_execLinkWithdraw rfl ..
  | retransmissionTimeout => exact stays_execRetransmissionTimeout rfl ..
  | frameTransmit => exact stays_execFrameTransmit rfl ..
  | laneFailure => exact stays_execLaneFailure rfl ..
  | retrainRecovery => exact stays_execRetrainRecovery rfl ..
  | discover => exact stays_execDiscover rfl ..
  | sopenFirstForm => exact stays_execSopenFirstForm rfl ..
  | sopenSecondForm => exact stays_execSopenSecondForm rfl ..
  | cookieEpoch => exact stays_execCookieEpoch rfl ..
  | ack => exact stays_execAck rfl ..
  | nack => exact stays_execNack rfl ..
  | sessionAckTimer => exact stays_execSessionAckTimer rfl ..
  | sessionRetransmissionTimeout => exact stays_execSessionRetransmissionTimeout rfl ..
  | sclose => exact stays_execSclose rfl ..
  | hostPortLinkLoss => exact stays_execHostPortLinkLoss rfl ..
  | load => exact stays_execLoad rfl ..
  | unload => exact stays_execUnload rfl ..
  | reload => exact stays_execReload rfl ..
  | map => exact stays_execMap rfl ..
  | unmap => exact stays_execUnmap rfl ..
  | put => exact stays_execPut rfl ..
  | jobRegread => exact stays_execJobRegread rfl ..
  | jobRegwrite => exact stays_execJobRegwrite rfl ..
  | fopen => exact stays_execFopen rfl ..
  | fclose => exact stays_execFclose rfl ..
  | rewind => exact stays_execRewind rfl ..
  | abandon => exact stays_execAbandon rfl ..
  | rollback => exact stays_execRollback rfl ..
  | jobSubscribe => exact stays_execJobSubscribe rfl ..
  | fwdata => exact stays_execFwdata rfl ..
  | fwstatus => exact stays_execFwstatus rfl ..
  | firmwareStagingIdle => exact stays_execFirmwareStagingIdle rfl ..
  | millerHello => exact stays_execMillerHello rfl ..
  | colophon => exact stays_execColophon rfl ..
  | regread => exact stays_execRegread rfl ..
  | regwrite => exact stays_execRegwrite rfl ..
  | evread => exact stays_execEvread rfl ..
  | subscribe => exact stays_execSubscribe rfl ..
  | defread => exact stays_execDefread rfl ..
  | admission => exact stays_execAdmission rfl ..
  | endJob => exact stays_execEndJob rfl ..
  | quiesce => exact stays_execQuiesce rfl ..
  | resume => exact stays_execResume rfl ..
  | stonereset => exact stays_execStonereset rfl ..
  | frisket => exact stays_execFrisket rfl ..
  | recal => exact stays_execRecal rfl ..
  | recalDone => exact stays_execRecalDone rfl ..
  | recalabort => exact stays_execRecalabort rfl ..
  | fwstage => exact stays_execFwstage rfl ..
  | fwactivate => exact stays_execFwactivate rfl ..
  | restart => exact stays_execRestart rfl ..
  | assemblyTimeout => exact stays_execAssemblyTimeout rfl ..
  | continuationPart => exact stays_execContinuationPart rfl ..
  | telemetryPush => exact stays_execTelemetryPush rfl ..
  | subscriptionLapse => exact stays_execSubscriptionLapse rfl ..
  | energyEvent => exact stays_execEnergyEvent rfl ..
  | capWWrite => exact stays_execCapWWrite rfl ..
  | paceEnWrite => exact stays_execPaceEnWrite rfl ..
  | estClear => exact stays_execEstClear rfl ..
  | retrain => exact stays_execRetrain rfl ..
  | takeover => exact stays_execTakeover rfl ..
  | leave => exact stays_execLeave rfl ..
  | edLscaleWrite => exact stays_execEdLscaleWrite rfl ..
  | rcRegisterRead => exact stays_execRcRegisterRead rfl ..
  | registerWrite => exact stays_execRegisterWrite rfl ..
  | controllerPeriod => exact stays_execControllerPeriod rfl ..
  | throttleEstimate => exact stays_execThrottleEstimate rfl ..
  | regulatorReading => exact stays_execRegulatorReading rfl ..
  | estimatorFault => exact stays_execEstimatorFault rfl ..
  | temperatureSample => exact stays_execTemperatureSample rfl ..
  | delaySettingChange => exact stays_execDelaySettingChange rfl ..
  | ageingSample => exact stays_execAgeingSample rfl ..
  | stoneProbe => exact stays_execStoneProbe rfl ..
  | stoneRecovery => exact stays_execStoneRecovery rfl ..
  | quernFault => exact stays_execQuernFault rfl ..
  | uncorrectableError => exact stays_execUncorrectableError rfl ..
  | pageMigration => exact stays_execPageMigration rfl ..
  | rowRemap => exact stays_execRowRemap rfl ..
  | storeUncorrectable => exact stays_execStoreUncorrectable rfl ..
  | patrolRead => exact stays_execPatrolRead rfl ..
  | bondFailure => exact stays_execBondFailure rfl ..
  | referenceClockLoss => exact stays_execReferenceClockLoss rfl ..
  | referenceClockResume => exact stays_execReferenceClockResume rfl ..
  | millerWatchdogReset => exact stays_execMillerWatchdogReset rfl ..
  | brownOut => exact stays_execBrownOut rfl ..
  | thermtrip => exact stays_execThermtrip rfl ..
  | railMonitorTrip => exact stays_execRailMonitorTrip rfl ..
  | pmbusFailure => exact stays_execPmbusFailure rfl ..
  | alert => exact stays_execAlert rfl ..
  | xinLoss => exact stays_execXinLoss rfl ..
  | xinResume => exact stays_execXinResume rfl ..
  | boundaryScan clamp => exact stays_execBoundaryScan rfl s clamp
  | testLogicReset => exact stays_execTestLogicReset rfl ..
  | debugInstruction => exact stays_execDebugInstruction rfl ..
  | pwrgoodAssert => exact stays_execPwrgoodAssert rfl ..
  | pwrgoodDeassert => exact stays_execPwrgoodDeassert rfl ..
  | millerBoot => exact stays_execMillerBoot rfl ..
  | spurSelfTest => exact stays_execSpurSelfTest rfl ..
  | binTest => exact stays_execBinTest rfl ..
  | stoneStartTest => exact stays_execStoneStartTest rfl ..
  | firmwareBroadcast => exact stays_execFirmwareBroadcast rfl ..
  | broadcastRepair => exact stays_execBroadcastRepair rfl ..
  | linkQualification => exact stays_execLinkQualification rfl ..
  | ready => exact stays_execReady rfl ..
  | scrub => exact stays_execScrub rfl ..
  | guestScrubConfirm => exact stays_execGuestScrubConfirm rfl ..
  | guestAccess => exact stays_execGuestAccess rfl ..
  | jwrite => exact stays_execJwrite rfl ..
  | jimp => exact stays_execJimp rfl ..
  | jentry => exact stays_execJentry rfl ..
  | jpush => exact stays_execJpush rfl ..
  | jflume => exact stays_execJflume rfl ..
  | jed => exact stays_execJed rfl ..
  | jstep => exact stays_execJstep rfl ..
  | jpeer => exact stays_execJpeer rfl ..
  | jack => exact stays_execJack rfl ..
  | twinLeave => exact stays_execTwinLeave rfl ..
  | assume => exact stays_execAssume rfl ..
  | rfetch => exact stays_execRfetch rfl ..
  | rdata => exact stays_execRdata rfl ..
  | pairHoldTimeout => exact stays_execPairHoldTimeout rfl ..
  | hostPortLinkUp => exact stays_execHostPortLinkUp rfl ..
  | managementLinkLoss => exact stays_execManagementLinkLoss rfl ..
  | ptpMessage => exact stays_execPtpMessage rfl ..
  | neighbourSolicitation => exact stays_execNeighbourSolicitation rfl ..
  | neighbourResolution => exact stays_execNeighbourResolution rfl ..
  | vstbyLoss => exact stays_execVstbyLoss rfl ..
  | thermtripRelease => exact stays_execThermtripRelease rfl ..
  | fwrepair => exact stays_execFwrepair rfl ..
  | journalAckTimer => exact stays_execJournalAckTimer rfl ..

/-- Settles O54: every function that a command calls leaves the state as it is outside the components that the command touches. -/
theorem componentsKept : Obligations.ComponentsKept := by
  intro c s t k ht hk
  obtain ⟨u, hu, hs⟩ := stays_exec c s
  obtain rfl : t = u := Host.Outcome.next.inj (ht.symm.trans hu)
  exact same_of_outside hs hk

/-- Settles O52: the command put at the front is the one taken, and an empty queue leaves an idle tick. -/
theorem stepRunsFront : Obligations.StepRunsFront := fun _ _ => ⟨rfl, step_of_empty⟩

end Sys2Proof.Machine
end

section
/-! # Races: what reception, training, attestation and recovery do (R325 to R353)

First what the model's functions on a Race make of the Race itself; what they leave alone follows from the lemmas `outside_f` on the
components that they touch. -/

namespace Sys2Proof.Machine

open Sys2Proof

/-! ## What stays, from the components that a function touches -/

section
variable {s t : State} {K : List Component} (h : t.outside K = s.outside K)
include h

theorem mem_of_outside (hk : Component.mem ∉ K := by decide) : t.mem = s.mem := same_of_outside h hk
theorem sec_of_outside (hk : Component.sec ∉ K := by decide) : t.sec = s.sec := same_of_outside h hk
theorem out_of_outside (hk : Component.out ∉ K := by decide) : t.out = s.out := same_of_outside h hk
theorem races_of_outside (hk : Component.races ∉ K := by decide) : t.races = s.races := same_of_outside h hk
theorem racePorts_of_outside (hk : Component.racePorts ∉ K := by decide) : t.racePorts = s.racePorts := same_of_outside h hk
theorem race_of_outside (r : Nat) (hk : Component.races ∉ K := by decide) : t.race r = s.race r := by
  simp only [State.race, races_of_outside h hk]
theorem racePort_of_outside (p : Nat) (hk : Component.racePorts ∉ K := by decide) : t.racePort p = s.racePort p := by
  simp only [State.racePort, racePorts_of_outside h hk]
end

/-! ## A Race's frames queued and its paths lost -/

@[simp] theorem race_losePaths (s : State) (c : Carrier) (r : Nat) : (losePaths c s).race r = s.race r :=
  race_of_outside (outside_losePaths (K := [.flumes]) rfl s c) r

@[simp] theorem race_leaveAttested (s : State) (r q : Nat) : (leaveAttested s r).race q = s.race q := by
  unfold leaveAttested; split <;> simp

/-- A queued frame changes the queue of one Race only. -/
theorem race_queueRace (s : State) (q : Nat) (fr : Frame) (r : Nat) :
    ∃ l, (queueRace s q fr).race r = { s.race r with queue := (s.race r).queue ++ l } := by
  by_cases h : r = q
  · subst h; exact ⟨_, by simp [queueRace, State.updRace]; rfl⟩
  · exact ⟨[], by simp [queueRace, State.updRace, State.race_setRace_ne _ _ _ _ h]⟩

theorem race_queueAll {α : Type} (f : α → Frame) (q r : Nat) (xs : List α) (s : State) :
    ∃ l, (xs.foldl (fun s x => queueRace s q (f x)) s).race r = { s.race r with queue := (s.race r).queue ++ l } := by
  induction xs generalizing s with
  | nil => exact ⟨[], by simp⟩
  | cons x xs ih =>
    obtain ⟨l, hl⟩ := ih (queueRace s q (f x))
    obtain ⟨l', hl'⟩ := race_queueRace s q (f x) r
    exact ⟨l' ++ l, by simp [hl, hl']⟩

theorem race_moveJournal (q : Nat) (s : State) (r : Nat) :
    ∃ l, (moveJournal q s).race r = { s.race r with queue := (s.race r).queue ++ l } := by
  unfold moveJournal
  split
  · split
    · exact race_queueAll _ _ _ _ _
    · exact ⟨[], by simp⟩
  · exact ⟨[], by simp⟩

/-- A Race that returns to LINKED. -/
def Race.linked (x : Race) : Race := { x with state := .linked, peer := none, cand := none, attParts := [], ownResult := none, peerResult := none }

theorem race_toLinked (s : State) (r : Nat) : ∃ l, (toLinked s r).race r = { (s.race r).linked with queue := (s.race r).queue ++ l } := by
  obtain ⟨l, hl⟩ := race_moveJournal r ((leaveAttested s r).updRace r Race.linked) r
  exact ⟨l, hl.trans (by simp [State.updRace, Race.linked])⟩

theorem race_endRace (s : State) (r : Nat) (st : RaceState) :
    ∃ l, (endRace s r st).race r = { (s.race r).bare with state := st, queue := (s.race r).queue ++ l } := by
  obtain ⟨l, hl⟩ := race_moveJournal r ((leaveAttested s r).updRace r (fun x => { x.bare with state := st })) r
  exact ⟨l, hl.trans (by simp [State.updRace, Race.bare])⟩

/-! ## Reception of a frame (R340 to R345) -/

theorem race_emitNumbered (s : State) (r lsn : Nat) (fr : Frame) :
    (emitNumbered s r lsn fr).race r = { s.race r with rx := { (s.race r).rx with sinceAck := 0 } } := by
  simp [emitNumbered, drawCtr, State.race, State.setRace, State.emit]

/-- A new frame that leaves takes the next number and is kept until it is acknowledged. -/
def Race.sent (x : Race) (fr : Frame) : Race :=
  { x with nextLsn := x.nextLsn + 1, slotsUsed := x.slotsUsed + (if takesSlot fr then 1 else 0)
           unacked := x.unacked ++ [{ lsn := x.nextLsn, frame := fr, cls := frameClass fr }], rx := { x.rx with sinceAck := 0 } }

theorem race_emitRace (s : State) (r : Nat) (fr : Frame) : (emitRace s r fr).race r = (s.race r).sent fr := by
  simp [emitRace, race_emitNumbered, Race.sent]

theorem authFail_tagFailure (s : State) (r : Nat) : ((tagFailure s r).race r).authFail = satAdd (s.race r).authFail 1 65535 := by
  unfold tagFailure
  dsimp only
  split
  · obtain ⟨l, hl⟩ := race_toLinked (emitRace (s.setRace r { s.race r with
      authFail := satAdd (s.race r).authFail 1 65535
      tagFails := s.timeNs :: (s.race r).tagFails.filter (fun t => decide (s.timeNs < t + 1000000000)) }) r .linkWithdraw) r
    simp [State.updRace, hl, Race.linked, race_emitRace, Race.sent]
  · simp

/-- The acknowledgement that is due after 64 frames changes the frames' count and the queue. -/
theorem race_raceAckDue (s : State) (r : Nat) :
    ∃ n l, (raceAckDue s r).race r = { s.race r with rx := { (s.race r).rx with count := n }, queue := (s.race r).queue ++ l } := by
  unfold raceAckDue
  dsimp only
  split
  · refine ⟨0, [(frameClass (.linkAck (s.race r).rx.ack), .linkAck (s.race r).rx.ack)], ?_⟩
    simp [queueRace, State.updRace]
  · exact ⟨(s.race r).rx.count, [], by rw [List.append_nil]⟩

@[simp] theorem rx_acked (x : Race) (h : FrameHdr) : (x.acked h).rx = x.rx := by
  unfold Race.acked
  extract_lets d x1
  clear_value d
  split <;> rfl

@[simp] theorem slotsFreed_acked (x : Race) (h : FrameHdr) : (x.acked h).slotsFreed = x.slotsFreed := by
  unfold Race.acked
  extract_lets d x1
  clear_value d
  split <;> rfl

/-- Dropped for its version, its pairing or its sender. -/
theorem receiveRace_refused {s : State} {r : Fin 32} {h : FrameHdr} {c : Instr} (hv : h.via = .race r) (hc : s.board.haltedByClock = false)
    (hd : h.ver ≠ 1 ∨ h.typeOk = false ∨ raceTakes s r h = false) : receive h c s = (countDropped s h.via, false) := by
  rcases hd with hd | hd | hd
  · have hd' : ¬h.ver = 1#4 := hd
    simp [receive, hv, receiveRace, hc, hd']
  · simp [receive, hv, receiveRace, hc, hd]
  · simp [receive, hv, receiveRace, hc, hd]

/-- A NACK that the numbering asks for is queued. -/
def queueNack (s : State) (r : Nat) : Option (Nat × W64) → State
  | some (base, missing) => queueRace s r (.linkNack base missing)
  | none => s

theorem race_queueNack (s : State) (r : Nat) (nack : Option (Nat × W64)) :
    ∃ l, (queueNack s r nack).race r = { s.race r with queue := (s.race r).queue ++ l } := by
  cases nack with
  | none => exact ⟨[], by simp [queueNack]⟩
  | some n => exact race_queueRace ..

@[simp] theorem mem_queueNack (s : State) (r : Nat) (nack : Option (Nat × W64)) : (queueNack s r nack).mem = s.mem := by
  cases nack <;> simp [queueNack]

section
variable {s : State} {r : Fin 32} {h : FrameHdr} (c : Instr) (hv : h.via = .race r) (hc : s.board.haltedByClock = false)
  (hver : h.ver = 1) (htype : h.typeOk = true) (htakes : raceTakes s r h = true)
include hv hc hver htype htakes

theorem receiveRace_badTag (htag : h.tagOk = false) : receive h c s = (tagFailure s r, false) := by
  simp [receive, hv, receiveRace, hc, hver, htype, htakes, htag]

theorem receiveRace_replayed (htag : h.tagOk = true) (hf : freshCtr s h = false) :
    receive h c s = (s.setRace r { s.race r with replay := satAdd (s.race r).replay 1 65535 }, false) := by
  simp [receive, hv, receiveRace, hc, hver, htype, htakes, htag, hf]

theorem receiveRace_next (htag : h.tagOk = true) (hf : freshCtr s h = true) {rx : RxLink}
    (ht : (s.race r).rx.take h.seqNo c s.timeNs ((s.race r).acked h).rttNs = .deliver rx) :
    receive h c s = (raceAckDue ((seeCtr s h).setRace r
      { (s.race r).acked h with rx := rx, slotsFreed := (s.race r).slotsFreed + (slotOf c).toNat }) r, true) := by
  simp [receive, hv, receiveRace, hc, hver, htype, htakes, htag, hf, ht]

theorem receiveRace_kept (htag : h.tagOk = true) (hf : freshCtr s h = true) {rx : RxLink} {nack : Option (Nat × W64)}
    (ht : (s.race r).rx.take h.seqNo c s.timeNs ((s.race r).acked h).rttNs = .early rx nack) :
    receive h c s = (raceAckDue (queueNack ((seeCtr s h).setRace r { (s.race r).acked h with rx := rx }) r nack) r, false) := by
  cases nack <;> simp [receive, hv, receiveRace, hc, hver, htype, htakes, htag, hf, ht, queueNack]

end

theorem mem_raceAckDue (s : State) (r : Nat) : (raceAckDue s r).mem = s.mem := mem_of_outside (outside_raceAckDue (K := [.races]) rfl s r)

/-- Settles O21: each check of R340 in turn, then the three answers of the numbering. -/
theorem framesAreReceived : Obligations.FramesAreReceived := by
  intro s r h c hv hc
  refine ⟨fun hd => ?_, fun hver htype htakes htag => ?_, fun hver htype htakes htag => ⟨fun hf => ?_, fun hf => ⟨fun hd hk => ?_, fun d hd h2 h47 hk => ?_⟩⟩⟩
  · refine ⟨_, receiveRace_refused hv hc hd, ?_⟩
    simp [hv, countDropped, State.updRace]
  · exact ⟨_, receiveRace_badTag c hv hc hver htype htakes htag, authFail_tagFailure s r,
      mem_of_outside (outside_tagFailure (K := .flumes :: .races :: .sec :: eventsSet) rfl s r)⟩
  · exact ⟨_, receiveRace_replayed c hv hc hver htype htakes htag hf, by simp⟩
  · have ht := RxLink.take_next (s.race r).rx h.seqNo c s.timeNs ((s.race r).acked h).rttNs hd hk
    refine ⟨_, receiveRace_next c hv hc hver htype htakes htag hf ht, ?_⟩
    have hout := fun u : State => outside_raceAckDue (K := [.races]) rfl u r
    obtain ⟨n, l, hx⟩ := race_raceAckDue ((seeCtr s h).setRace r _) r
    refine ⟨by rw [hx]; simp, by rw [mem_raceAckDue]; rfl, ?_, by rw [hx]; simp, ?_⟩
    · exact same_of_outside (k := .flumes) (hout _) (by decide)
    · rw [sec_of_outside (hout _)]
      simp [seeCtr, Tbl.upd]
  · obtain ⟨rx, nack, ht, habove, hack⟩ :=
      RxLink.take_above (s.race r).rx h.seqNo c s.timeNs ((s.race r).acked h).rttNs d hd h2 h47 hk
    refine ⟨_, receiveRace_kept c hv hc hver htype htakes htag hf ht, ?_⟩
    obtain ⟨n, l, hx⟩ := race_raceAckDue (queueNack ((seeCtr s h).setRace r { (s.race r).acked h with rx := rx }) r nack) r
    obtain ⟨l', hx'⟩ := race_queueNack ((seeCtr s h).setRace r { (s.race r).acked h with rx := rx }) r nack
    refine ⟨by rw [hx, hx']; simp [hack], by rw [mem_raceAckDue, mem_queueNack]; rfl, by rw [hx, hx']; simp [habove]⟩

/-! ## The checks of an attestation (R334) -/

/-- The first four checks have passed: the peer is known by its key, and it is the twin where the Race is a pair Race. -/
theorem attestCheck_known {s : State} {r : Nat} {a : AttestBody} {m : Member} (hm : memberOf s a.member.toNat = some m)
    (hcert : a.certOk = true) (hsig : a.sigOk = true) (hkey : m.keyHash = a.keyHash) (htwin : isPairRace s r = true → isTwin s a.member.toNat = true) :
    attestCheck s r a =
      if a.jobId ≠ s.sec.jobId then 4
      else if !a.proofOk then 5
      else if a.chalPeer ≠ (s.race r).chalOwn then 6
      else if a.inc.toNat < recordedInc s a.member.toNat then 7
      else if s.sec.frisket.keypol.getLsbD 2 && !((s.sec.frisket.digests.take s.sec.frisket.ndigest.toNat).contains a.digest) then 8
      else 0 := by
  have hpair : (isPairRace s r && !isTwin s a.member.toNat) = false := by
    cases hp : isPairRace s r <;> simp_all
  simp only [attestCheck, hm, hcert, hsig, hkey, hpair]
  simp

/-- Settles O32: each check that passes leads to the next one. -/
theorem attestationChecks : Obligations.AttestationChecks := by
  intro s r a m hm
  refine ⟨fun hcert => by simp [attestCheck, hcert], fun hcert => ⟨fun hsig => by simp [attestCheck, hcert, hsig], fun hsig => ⟨?_, ?_⟩⟩⟩
  · rintro (hkey | ⟨hpair, htwin⟩)
    · simp [attestCheck, hcert, hsig, hm, hkey]
    · simp [attestCheck, hcert, hsig, hm, hpair, htwin]
  · intro hkey htwin
    rw [attestCheck_known hm hcert hsig hkey htwin]
    refine ⟨fun hjob => by simp [hjob], fun hjob => ⟨fun hproof => by simp [hjob, hproof], fun hproof => ⟨fun hchal => by simp [hjob, hproof, hchal],
      fun hchal => ⟨fun hinc => by simp [hjob, hproof, hchal, hinc], fun hinc => ?_⟩⟩⟩⟩
    simp [hjob, hproof, hchal, Nat.not_lt.mpr hinc]

end Sys2Proof.Machine
end

section
/-! # Races: lanes, training, qualification and recovery (R325 to R330, R351 to R353) -/

namespace Sys2Proof.Machine

open Sys2Proof

/-! ## Sets of lanes -/

theorem getLsbD_foldl_lane (P : Nat → Prop) [DecidablePred P] (n : Nat) (m : BitVec 9) (k : Nat) (hk : k < 9) :
    ((List.range n).foldl (fun m i => if P i then m ||| (1 : BitVec 9) <<< i else m) m).getLsbD k = (m.getLsbD k || decide (k < n ∧ P k)) := by
  induction n with
  | zero => simp
  | succ n ih =>
    rw [List.range_succ, List.foldl_append, List.foldl_cons, List.foldl_nil]
    have hbit : ((1 : BitVec 9) <<< n).getLsbD k = decide (k = n) := by
      rw [BitVec.getLsbD_shiftLeft]
      have h1 : (1 : BitVec 9).getLsbD (k - n) = decide (k - n = 0) := by simp [BitVec.getLsbD_one]
      rw [h1]
      simp only [hk, decide_true, Bool.true_and]
      by_cases hkn : k = n
      · simp [hkn]
      · by_cases h : k < n
        · simp [h, hkn]
        · simp [h, hkn]; omega
    by_cases hP : P n
    · rw [if_pos hP, BitVec.getLsbD_or, ih, hbit]
      by_cases hkn : k = n
      · subst hkn; simp [hP]
      · have : (k < n + 1) ↔ k < n := by omega
        simp [hkn, this]
    · rw [if_neg hP, ih]
      by_cases hkn : k = n
      · subst hkn; simp [hP]
      · have : (k < n + 1) ↔ k < n := by omega
        simp [this]

/-- A lane of the set is bad when it saw more than 22,400 errors. -/
theorem getLsbD_badLanes (lanes : BitVec 9) (errors : List Nat) (k : Nat) (hk : k < 9) :
    (badLanes lanes errors).getLsbD k = (lanes.getLsbD k && decide (22400 < errors.getD k 0)) := by
  rw [badLanes, getLsbD_foldl_lane (fun i => lanes.getLsbD i ∧ errors.getD i 0 > 22400) 9 0 k hk]
  simp [hk, Bool.decide_and]

/-- No lane of a set is bad that saw at most 22,400 errors on each. -/
theorem badLanes_and_eq_zero {lanes used : BitVec 9} {errors : List Nat} (h : ∀ k < 9, used.getLsbD k = true → errors.getD k 0 ≤ 22400) :
    badLanes lanes errors &&& used = 0 := by
  apply BitVec.eq_of_getLsbD_eq
  intro k hk
  rw [BitVec.getLsbD_and, getLsbD_badLanes _ _ _ hk]
  cases hu : used.getLsbD k
  · simp
  · rw [decide_eq_false (Nat.not_lt.mpr (h k hk hu))]
    simp

theorem ne_zero_of_getLsbD {l : BitVec 9} {k : Nat} (h : l.getLsbD k = true) : l ≠ 0 := by rintro rfl; simp at h

/-! ## Lanes that fail -/

/-- A failed lane is noted with its Race; nothing else of the Race changes. -/
theorem race_markBad (s : State) (r : Nat) (l : BitVec 9) : ∃ n, (markBad s r l).race r = { s.race r with failLane := n } := by
  unfold markBad
  split
  · exact ⟨(s.race r).failLane, rfl⟩
  · exact ⟨firstLane l, by simp [State.updRace]⟩

theorem race_markBad_ne (s : State) (r q : Nat) (l : BitVec 9) (h : q ≠ r) : (markBad s r l).race q = s.race q := by
  unfold markBad
  split
  · rfl
  · simp [State.updRace, State.race_setRace_ne _ _ _ _ h]

theorem racePort_markBad (s : State) (r : Nat) (l : BitVec 9) : (markBad s r l).racePort (r / 2) =
    { s.racePort (r / 2) with laneBad := (s.racePort (r / 2)).laneBad ||| l, idle := (s.racePort (r / 2)).idle ||| l } := by
  unfold markBad
  split
  · next h => subst h; simp
  · simp [State.updRace]

/-! ## The choice of a lane set -/

/-- The choice of a lane set looks at the split of the port and at the other Race's use of lane 8. -/
theorem laneSet_congr {s t : State} {r : Nat} (hsplit : splitPort t r = splitPort s r) (hspare : spareTaken t r = spareTaken s r)
    (good : BitVec 9) (spare : Bool) (own : Option (BitVec 9)) : laneSet t r good spare own = laneSet s r good spare own := by
  have hbase : baseLanes t r = baseLanes s r := by simp [baseLanes, hsplit]
  simp only [laneSet, hbase, hspare, hsplit]

theorem splitPort_congr {s t : State} {r : Nat} (h : (t.racePort (r / 2)).cfg = (s.racePort (r / 2)).cfg) : splitPort t r = splitPort s r := by
  simp [splitPort, h]

theorem spareTaken_congr {s t : State} {r : Nat} (h : ∀ q, q ≠ r → t.race q = s.race q) : spareTaken t r = spareTaken s r := by
  unfold spareTaken
  dsimp only
  rw [h]
  split <;> omega

/-- All the base lanes are good. -/
theorem laneSet_base {s : State} {r : Nat} {ok : BitVec 9} (h : baseLanes s r &&& ~~~ok = 0) (spare : Bool) :
    laneSet s r ok spare none = some (baseLanes s r, false, false) := by
  have h0 : countLanes (baseLanes s r &&& ~~~ok) = 0 := by rw [h]; decide
  simp [laneSet, h0]

/-- One base lane is bad and lane 8 stands in for it. -/
theorem laneSet_spare {s : State} {r : Nat} {ok : BitVec 9} (h : countLanes (baseLanes s r &&& ~~~ok) = 1) (h8 : ok.getLsbD 8 = true)
    (ht : spareTaken s r = false) : laneSet s r ok true none = some (withSpare (baseLanes s r) ok, false, true) := by
  simp [laneSet, h, h8, ht]

/-- A chosen lane set is the Race's. -/
theorem race_takeLanes (s : State) (r : Nat) (set : BitVec 9 × Bool × Bool) :
    (takeLanes r set s).race r = { s.race r with lanes := set.1, half := set.2.1, spareInUse := set.2.2, wide := false } := by
  unfold takeLanes
  dsimp only
  split <;> split <;> simp

@[simp] theorem racePorts_takeLanes (s : State) (r : Nat) (set : BitVec 9 × Bool × Bool) : (takeLanes r set s).racePorts = s.racePorts :=
  racePorts_of_outside (outside_takeLanes (K := .races :: .boot :: eventsSet) rfl s r set)

/-! ## Training and failure -/

/-- Training starts afresh: the Race holds no lanes and no peer. -/
theorem race_freshTraining (s : State) (r : Nat) :
    ∃ l, (freshTraining s r).race r = { (s.race r).bare with state := .training, queue := (s.race r).queue ++ l } := by
  obtain ⟨l, hl⟩ := race_endRace s r .training
  exact ⟨l, by simpa [freshTraining] using hl⟩

theorem race_failRace (s : State) (r : Nat) :
    ∃ l, (failRace s r).race r = { (s.race r).bare with state := .failed, queue := (s.race r).queue ++ l } := by
  obtain ⟨l, hl⟩ := race_endRace s r .failed
  exact ⟨l, by simpa [failRace] using hl⟩

theorem mem_failRace (s : State) (r : Nat) : (failRace s r).mem = s.mem :=
  mem_of_outside (K := .flumes :: .races :: .boot :: eventsSet) (by simp +decide)

/-- The Race when training has ended with the lanes `good`: lane 8 is present or not, and the lanes that did not train are bad. -/
def trainedState (s : State) (r : Nat) (good : BitVec 9) (spare : Bool) : State :=
  markBad (s.updRace r (fun x => { x with sparePresent := spare })) r
    (ownLanes (s.updRace r (fun x => { x with sparePresent := spare })) r &&& ~~~good)

/-- The good lanes that the lane set is chosen from are those that trained and whose transmitters are not idle. -/
theorem trainedState_good (s : State) (r : Nat) (good : BitVec 9) (spare : Bool) :
    good &&& ~~~((trainedState s r good spare).racePort (r / 2)).idle = good &&& ~~~(s.racePort (r / 2)).idle := by
  rw [trainedState, racePort_markBad]
  generalize ownLanes _ _ = own
  simp only [State.updRace, State.racePort_at_setRace]
  generalize (s.racePort (r / 2)).idle = idle
  apply BitVec.eq_of_getLsbD_eq
  intro k hk
  simp only [BitVec.getLsbD_and, BitVec.getLsbD_not, BitVec.getLsbD_or, hk]
  cases good.getLsbD k <;> simp

theorem race_trainedState (s : State) (r : Nat) (good : BitVec 9) (spare : Bool) :
    ∃ n, (trainedState s r good spare).race r = { s.race r with sparePresent := spare, failLane := n } := by
  obtain ⟨n, hn⟩ := race_markBad (s.updRace r (fun x => { x with sparePresent := spare })) r
    (ownLanes (s.updRace r (fun x => { x with sparePresent := spare })) r &&& ~~~good)
  exact ⟨n, hn.trans (by simp [State.updRace])⟩

theorem laneSet_trainedState (s : State) (r : Nat) (good : BitVec 9) (spare : Bool) (ok : BitVec 9) :
    laneSet (trainedState s r good spare) r ok spare none = laneSet s r ok spare none := by
  apply laneSet_congr
  · apply splitPort_congr
    rw [trainedState, racePort_markBad]
    simp [State.updRace]
  · apply spareTaken_congr
    intro q hq
    rw [trainedState, race_markBad_ne _ _ _ _ hq]
    simp [State.updRace, State.race_setRace_ne _ _ _ _ hq]

theorem mem_trainedState (s : State) (r : Nat) (good : BitVec 9) (spare : Bool) : (trainedState s r good spare).mem = s.mem :=
  mem_of_outside (K := [.races, .racePorts]) (by simp +decide [trainedState])

section
variable {s : State} {r : Fin 32} (hc : s.board.haltedByClock = false)
include hc

theorem exec_trained (good : BitVec 9) (spare : Bool) (hen : raceEnabled s r = true) (hst : (s.race r).state = .training) :
    exec (.raceTraining r (.trained good spare)) s =
      match laneSet s r (good &&& ~~~(s.racePort (r.val / 2)).idle) spare none with
      | some l => .next ((takeLanes r l (trainedState s r good spare)).updRace r (fun x => { x with state := .qualifying }))
      | none => .next (failRace (trainedState s r good spare) r) := by
  rw [← laneSet_trainedState s r good spare, ← trainedState_good s r good spare]
  change execRaceTraining r (.trained good spare) s = _
  rw [execRaceTraining, whileClocked_runs hc, hen]
  · rfl
  · exact hst

/-- Training ends with a lane set. -/
theorem exec_trained_some {good : BitVec 9} {spare : Bool} {l : BitVec 9 × Bool × Bool} (hen : raceEnabled s r = true)
    (hst : (s.race r).state = .training) (hl : laneSet s r (good &&& ~~~(s.racePort (r.val / 2)).idle) spare none = some l) :
    ∃ t, exec (.raceTraining r (.trained good spare)) s = .next t ∧ (t.race r).state = .qualifying ∧ (t.race r).lanes = l.1
      ∧ (t.race r).half = l.2.1 ∧ (t.race r).spareInUse = l.2.2 ∧ (t.race r).sparePresent = spare ∧ t.mem = s.mem := by
  refine ⟨_, by rw [exec_trained hc good spare hen hst, hl], ?_⟩
  obtain ⟨n, hn⟩ := race_trainedState s r good spare
  refine ⟨?_, ?_, ?_, ?_, ?_, ?_⟩
  iterate 5 simp [State.updRace, race_takeLanes, hn]
  have : (takeLanes r l (trainedState s r good spare)).mem = (trainedState s r good spare).mem :=
    mem_of_outside (outside_takeLanes (K := .races :: .boot :: eventsSet) rfl _ _ _)
  simp [State.updRace, this, mem_trainedState]

theorem exec_qualification (errors : List Nat) (hst : (s.race r).state = .qualifying) :
    exec (.qualification r errors) s =
      if badLanes (qualLanes s r) errors &&& (s.race r).lanes = 0 then
        .next (enterHello (markBad (noteErrors s r errors) r (badLanes (qualLanes s r) errors)) r)
      else .next ((markBad (noteErrors s r errors) r (badLanes (qualLanes s r) errors)).updRace r (fun x => { x with state := .training })) := by
  change execQualification r errors s = _
  rw [execQualification, whileClocked_runs hc, if_neg (by simp [hst])]

end

theorem race_enterHello (s : State) (r : Nat) : (enterHello s r).race r = { s.race r with
    state := .hello, chalOwn := Config.random s.freeCtr, cand := none, attParts := [], ownResult := none, peerResult := none } := by
  simp [enterHello, freshChallenge, State.updRace]

/-- Settles O28: the lane set of step 3 of R352 decides training, the errors on the lanes in use decide qualification. -/
theorem racesTrainAndQualify : Obligations.RacesTrainAndQualify := by
  intro s r hc
  refine ⟨fun hen hst => ?_, fun good spare hen hst => ⟨fun hbase => ?_, fun hone hspare h8 ht => ?_, fun hnone => ?_⟩, fun hst => ?_,
    fun errors hst => ⟨fun hgood => ?_, fun k hk hlane hbad => ?_⟩⟩
  · refine ⟨freshTraining s r, ?_, ?_, mem_of_outside (K := [.flumes, .races, .racePorts]) (by simp +decide)⟩
    · change execRaceTraining r .signal s = _
      rw [execRaceTraining, whileClocked_runs hc, hen]
      · rfl
      · exact hst
    · obtain ⟨l, hl⟩ := race_freshTraining s r
      rw [hl]
  · obtain ⟨t, ht, hstate, hlanes, hhalf, huse, hpres, hmem⟩ := exec_trained_some hc hen hst (laneSet_base hbase spare)
    exact ⟨t, ht, hstate, hlanes, hhalf, huse, hpres, hmem⟩
  · subst hspare
    obtain ⟨t, ht, hstate, hlanes, hhalf, huse, -, hmem⟩ := exec_trained_some hc hen hst (laneSet_spare hone h8 ht)
    exact ⟨t, ht, hstate, hlanes, hhalf, huse, hmem⟩
  · refine ⟨_, by rw [exec_trained hc good spare hen hst, hnone], ?_, ?_⟩
    · obtain ⟨l, hl⟩ := race_failRace (trainedState s r good spare) r
      rw [hl]
    · rw [mem_failRace, mem_trainedState]
  · change execTrainingTimeout r s = _
    rw [execTrainingTimeout, whileClocked_runs hc, if_pos hst]
  · refine ⟨_, by rw [exec_qualification hc errors hst, if_pos (badLanes_and_eq_zero hgood)], ?_, ?_, ?_⟩
    · rw [race_enterHello]
    · obtain ⟨n, hn⟩ := race_markBad (noteErrors s r errors) r (badLanes (qualLanes s r) errors)
      rw [race_enterHello, hn]
      simp [noteErrors]
    · exact mem_of_outside (K := [.races, .racePorts, .freeCtr]) (by simp +decide)
  · have hk' : (badLanes (qualLanes s r) errors).getLsbD k = true := by
      rw [getLsbD_badLanes _ _ _ hk, qualLanes, BitVec.getLsbD_or, hlane, decide_eq_true hbad]
      rfl
    have hne : badLanes (qualLanes s r) errors &&& (s.race r).lanes ≠ 0 :=
      ne_zero_of_getLsbD (k := k) (by rw [BitVec.getLsbD_and, hk', hlane]; rfl)
    refine ⟨_, by rw [exec_qualification hc errors hst, if_neg hne], by simp [State.updRace], ?_, ?_⟩
    · simp [State.updRace, racePort_markBad, hk']
    · exact mem_of_outside (K := [.races, .racePorts]) (by simp +decide)

/-! ## Lane failures and recovery (R351 to R353) -/

@[simp] theorem race_noteErrors (s : State) (r q : Nat) (errors : List Nat) : (noteErrors s r errors).race q = s.race q := by simp [noteErrors]

@[simp] theorem race_countRetrain (s : State) (r q : Nat) : (countRetrain s r).race q = s.race q := by simp [countRetrain]

theorem race_freshChallenge (s : State) (r : Nat) : (freshChallenge s r).race r =
    { s.race r with chalOwn := Config.random s.freeCtr, cand := none, attParts := [], ownResult := none, peerResult := none } := by
  simp [freshChallenge, State.updRace]

theorem exec_laneFailure {s : State} {r : Fin 32} {lane : Fin 9} (hc : s.board.haltedByClock = false) (hst : (s.race r).state = .attested)
    (hl : (s.race r).lanes.getLsbD lane = true) :
    exec (.laneFailure r lane) s = .next (enterRetraining (noteLane (markBad s r ((1 : BitVec 9) <<< lane.val)) r 4) r) := by
  have hbit : ((1 : BitVec 9) <<< lane.val).getLsbD lane = true := by
    rw [BitVec.getLsbD_shiftLeft]
    simp [lane.isLt]
  have hused : (ownLanes s r ||| (s.race r).lanes) &&& (1 : BitVec 9) <<< lane.val ≠ 0 :=
    ne_zero_of_getLsbD (k := lane) (by rw [BitVec.getLsbD_and, BitVec.getLsbD_or, hl, hbit]; simp)
  change execLaneFailure r lane s = _
  rw [execLaneFailure, whileClocked_runs hc]
  dsimp only
  rw [if_neg (by rw [hst]; simpa using hused), if_pos ⟨.inl hst, hl⟩]

/-- The state in which the lane set of a recovery is chosen: the lanes that train again are awake, and those that do not are bad. -/
def triedState (s : State) (r : Nat) (good : BitVec 9) : State :=
  let tried := ownLanes s r &&& ~~~((s.race r).lanes &&& (s.racePort (r / 2)).idle)
  markBad (wakeLanes s r (tried &&& good)) r (tried &&& ~~~good)

/-- The state of a recovery that has its lane set, before the set qualifies. -/
def recoverState (u : State) (r : Nat) (l : BitVec 9 × Bool × Bool) (errors : List Nat) : State :=
  countRetrain (noteErrors (takeLanes r l u) r errors) r

theorem race_triedState (s : State) (r : Nat) (good : BitVec 9) : ∃ n, (triedState s r good).race r = { s.race r with failLane := n } := by
  obtain ⟨n, hn⟩ := race_markBad (wakeLanes s r
    ((ownLanes s r &&& ~~~((s.race r).lanes &&& (s.racePort (r / 2)).idle)) &&& good)) r
    ((ownLanes s r &&& ~~~((s.race r).lanes &&& (s.racePort (r / 2)).idle)) &&& ~~~good)
  exact ⟨n, hn.trans (by simp [wakeLanes])⟩

/-- The recovery goes on to HELLO when its lane set qualifies. -/
theorem exec_retrainRecovery_some {s : State} {r : Fin 32} {good : BitVec 9} {errors : List Nat} {l : BitVec 9 × Bool × Bool}
    (hc : s.board.haltedByClock = false) (hst : (s.race r).state = .retraining) (hrec : (s.race r).recover = .lanes)
    (hl : laneSet (triedState s r good) r (ownLanes s r &&& ~~~((s.race r).lanes &&& (s.racePort (r.val / 2)).idle) &&& good)
      (s.race r).sparePresent (if ((s.race r).half && !(s.race r).wide) = true then some (halfOf (s.race r).lanes) else none) = some l)
    (hgood : ∀ k < 9, l.1.getLsbD k = true → errors.getD k 0 ≤ 22400) :
    exec (.retrainRecovery r good errors) s = .next ((freshChallenge (markBad (recoverState (triedState s r good) r l errors) r
      (badLanes (qualLanes (recoverState (triedState s r good) r l errors) r) errors)) r).updRace r (fun x => { x with recover := .hello })) := by
  change execRetrainRecovery r good errors s = _
  rw [execRetrainRecovery, whileClocked_runs hc]
  dsimp only
  rw [if_neg (by simp [hst, hrec])]
  split
  · next h => exact absurd (hl.symm.trans h) (by simp)
  · next l' h =>
    obtain rfl : l = l' := Option.some.inj (hl.symm.trans h)
    rw [if_neg (by rw [not_not]; exact badLanes_and_eq_zero hgood)]
    rfl

theorem exec_retrainRecovery_none {s : State} {r : Fin 32} {good : BitVec 9} {errors : List Nat}
    (hc : s.board.haltedByClock = false) (hst : (s.race r).state = .retraining) (hrec : (s.race r).recover = .lanes)
    (hl : laneSet (triedState s r good) r (ownLanes s r &&& ~~~((s.race r).lanes &&& (s.racePort (r.val / 2)).idle) &&& good)
      (s.race r).sparePresent (if ((s.race r).half && !(s.race r).wide) = true then some (halfOf (s.race r).lanes) else none) = none) :
    exec (.retrainRecovery r good errors) s = .next (failRace (triedState s r good) r) := by
  change execRetrainRecovery r good errors s = _
  rw [execRetrainRecovery, whileClocked_runs hc]
  dsimp only
  rw [if_neg (by simp [hst, hrec])]
  split
  · rfl
  · next l h => exact absurd (hl.symm.trans h) (by simp)

/-- Settles O29: a failed lane suspends the Race and keeps its numbering; the recovery's lane set, its verdicts and a new training follow. -/
theorem racesRecover : Obligations.RacesRecover := by
  intro s r hc
  refine ⟨fun lane hst hl => ?_, fun good errors hst hrec => ⟨fun hnone => ?_, fun l hl hgood => ?_⟩, fun hst hrec hown hcand => ?_,
    fun hst hen => ?_⟩
  · have hmem : (enterRetraining (noteLane (markBad s r ((1 : BitVec 9) <<< lane.val)) r 4) r).mem = s.mem :=
      mem_of_outside (K := .races :: .racePorts :: .boot :: eventsSet) (by simp +decide)
    have hbit : ((1 : BitVec 9) <<< lane.val).getLsbD lane = true := by
      rw [BitVec.getLsbD_shiftLeft]
      simp [lane.isLt]
    obtain ⟨n, hn⟩ := race_markBad s r ((1 : BitVec 9) <<< lane.val)
    refine ⟨_, exec_laneFailure hc hst hl, ?_⟩
    simp only [enterRetraining, State.updRace, State.race_setRace_same, State.racePort_at_setRace, racePort_at_noteLane, race_at_noteLane,
      hn, racePort_markBad, BitVec.getLsbD_or, hbit, Bool.or_true, true_and]
    exact hmem
  · exact exec_retrainRecovery_none hc hst hrec hnone
  · refine ⟨_, exec_retrainRecovery_some hc hst hrec hl hgood, ?_⟩
    obtain ⟨n, hn⟩ := race_triedState s r good
    obtain ⟨m, hm⟩ := race_markBad (recoverState (triedState s r good) r l errors) r
      (badLanes (qualLanes (recoverState (triedState s r good) r l errors) r) errors)
    have hrace : (recoverState (triedState s r good) r l errors).race r = { s.race r with
        failLane := n, lanes := l.1, half := l.2.1, spareInUse := l.2.2, wide := false } := by
      simp [recoverState, race_takeLanes, hn]
    simp only [State.updRace, State.race_setRace_same, race_freshChallenge, hm, hrace, hst, true_and]
    exact mem_of_outside (K := .freeCtr :: .races :: .racePorts :: .boot :: eventsSet) (by simp +decide [recoverState, triedState])
  · change execAttest r (.result 0 true) s = _
    rw [execAttest, whileClocked_runs hc]
    simp [attests, hst, hrec, attestStep, attestPasses, hown, hcand]
  · obtain ⟨l, hl⟩ := race_freshTraining s r
    refine ⟨countRetrain (freshTraining s r) r, ?_, ?_⟩
    · change execFailedRetry r s = _
      rw [execFailedRetry, whileClocked_runs hc, if_pos ⟨hst, hen⟩]
    · have hport : ((freshTraining s r).racePort (r.val / 2)).retrains = (s.racePort (r.val / 2)).retrains := by
        simp only [freshTraining, State.racePort_setRacePort_same]
        rw [racePort_of_outside (outside_endRace (K := [.flumes, .races]) rfl s r .training)]
      refine ⟨by rw [race_countRetrain, hl], by rw [race_countRetrain, hl]; rfl, by rw [race_countRetrain, hl]; rfl, ?_,
        mem_of_outside (K := .flumes :: .races :: .racePorts :: .boot :: eventsSet) (by simp +decide)⟩
      simp [countRetrain, hport]

end Sys2Proof.Machine
end

section
/-! # Races: HELLO, attestation and the numbered frames (R332 to R348) -/

namespace Sys2Proof.Machine

open Sys2Proof

/-! ## HELLO and the start of an attestation (R332, R333) -/

/-- Nothing starts while the ends are not admitted to one job. -/
theorem tryAttest_waits {s : State} {r : Nat} (h : ¬(s.sec.phase = .admitted ∧ (s.race r).peerAdmitted = true ∧ (s.race r).peerJob = s.sec.jobId)) :
    tryAttest s r = s := by
  have h' : (s.sec.phase == .admitted && (s.race r).peerAdmitted && (s.race r).peerJob == s.sec.jobId) = false := by
    rw [Bool.eq_false_iff]
    simpa [and_assoc] using h
  simp [tryAttest, h']

/-- A LINKED Race whose ends are admitted to one job sends its body. -/
theorem tryAttest_starts {s : State} {r : Nat} (hphase : s.sec.phase = .admitted) (hpeer : (s.race r).peerAdmitted = true)
    (hjob : (s.race r).peerJob = s.sec.jobId) (hst : (s.race r).state = .linked) (hretry : (s.race r).retryWait = false) :
    tryAttest s r = sendBody (s.setRace r { s.race r with
      state := .attesting, cand := none, attParts := [], ownResult := none, peerResult := none }) r := by
  simp [tryAttest, hphase, hpeer, hjob, hst, hretry]

/-- A HELLO of the same version and lanes links the Race. -/
theorem exec_hello {s : State} {r : Fin 32} {m : HelloMsg} (hc : s.board.haltedByClock = false) (hcrc : m.crcOk = true)
    (hst : (s.race r).state = .hello) (hver : m.kverMajor = 1) (hlanes : m.lanes = (s.race r).lanes) :
    exec (.hello r m) s = .next (tryAttest (s.setRace r { s.race r with
      state := .linked, chalPeer := m.chal, peerSerial := m.serial, peerJob := m.jobId, peerAdmitted := m.admitted
      peerSlots := m.slots.toNat }) r) := by
  change execHello r m s = _
  rw [execHello, whileClocked_runs hc]
  simp [hcrc, sendsHello, hst, hver, hlanes]

/-- Settles O30: HELLO links, fails or starts the attestation; a retry starts it again; a withdrawal returns the Race to LINKED. -/
theorem racesLink : Obligations.RacesLink := by
  intro s r hc
  refine ⟨fun hsend => ?_, fun m hcrc hst => ⟨fun hver hlanes hwait => ?_, fun hver hlanes hphase hadm hjob hretry => ?_, fun hbad => ?_⟩,
    fun hst hphase hadm hjob => ?_, fun h s1 hvia hrec => ⟨?_, ?_, ?_⟩⟩
  · change execHelloSend r s = _
    rw [execHelloSend, whileClocked_runs hc, if_pos hsend]
  · rw [exec_hello hc hcrc hst hver hlanes, tryAttest_waits]
    rintro ⟨hphase, hadm, hjob⟩
    simp only [State.race_setRace_same, State.sec_setRace] at hphase hadm hjob
    exact hwait hphase hadm hjob
  · refine ⟨_, by rw [exec_hello hc hcrc hst hver hlanes, tryAttest_starts] <;> simp [hphase, hadm, hjob, hretry], ?_⟩
    simp
  · change execHello r m s = _
    rw [execHello, whileClocked_runs hc]
    dsimp only
    rw [if_neg (by simp [hcrc]), if_neg (by simp [sendsHello, hst]), if_pos hbad]
  · have hstart := tryAttest_starts (s := s.updRace r (fun x => { x with retryWait := false })) (r := r) (by simpa [State.updRace] using hphase)
      (by simpa [State.updRace] using hadm) (by simpa [State.updRace] using hjob) (by simpa [State.updRace] using hst) (by simp [State.updRace])
    refine ⟨_, show execAttestRetry r s = _ by rw [execAttestRetry, whileClocked_runs hc, hstart], ?_⟩
    simp [State.updRace]
  · change onRace r h (.linkWithdraw r h) s = _
    rw [onRace_via hvia, arrive_delivered hrec]
    rfl
  · obtain ⟨l, hl⟩ := race_toLinked s1 r
    rw [hl]
    rfl
  · exact mem_of_outside (outside_toLinked (K := [.flumes, .races]) rfl s1 r)

/-! ## The verdicts of an attestation (R333, R334) -/

/-- The Race after its own verdict `k` on the body `a`. -/
def judged (s : State) (r : Nat) (a : AttestBody) : State :=
  s.setRace r { s.race r with
    ownResult := some (attestCheck s r a), attResult := attestCheck s r a, attParts := []
    cand := if attestCheck s r a = 0 then some (a.member.toNat, a.inc.toNat) else none }

/-- The second part of a body brings the verdict, which is sent back. -/
theorem exec_attest_whole {s : State} {r : Fin 32} {second : Bool} {a : AttestBody} (hc : s.board.haltedByClock = false)
    (hst : (s.race r).state = .attesting) (hown : (s.race r).ownResult = none) (hparts : (s.race r).attParts = [!second]) :
    exec (.attest r (.part second a true)) s =
      .next (afterFlume (attestStep (emitPlain (judged s r a) r (.attestResult (attestCheck s r a))) r)) := by
  change execAttest r (.part second a true) s = _
  rw [execAttest, whileClocked_runs hc]
  simp only [attests, hst, hown, hparts, List.contains_cons, beq_self_eq_true, Bool.true_or, Bool.not_true, Bool.false_eq_true, if_false,
    Option.isSome_none, or_self, if_true]
  rfl

theorem attestStep_own_fails {s : State} {r k : Nat} (h : (s.race r).ownResult = some k) (hk : k ≠ 0) : attestStep s r = attestFails s r k := by
  obtain ⟨j, rfl⟩ := Nat.exists_eq_succ_of_ne_zero hk
  cases hp : (s.race r).peerResult with
  | none => simp only [attestStep, h, hp]
  | some k => simp only [attestStep, h, hp]

theorem attestStep_passes {s : State} {r : Nat} (hown : (s.race r).ownResult = some 0) (hpeer : (s.race r).peerResult = some 0) :
    attestStep s r = attestPasses s r := by
  simp only [attestStep, hown, hpeer]

theorem attestStep_waits {s : State} {r : Nat} (hown : (s.race r).ownResult = some 0) (hpeer : (s.race r).peerResult = none) :
    attestStep s r = s := by
  simp only [attestStep, hown, hpeer]

theorem attestStep_peer_fails {s : State} {r k : Nat} (hown : (s.race r).ownResult = none) (hpeer : (s.race r).peerResult = some k) (hk : k ≠ 0) :
    attestStep s r = attestFails s r k := by
  obtain ⟨j, rfl⟩ := Nat.exists_eq_succ_of_ne_zero hk
  simp only [attestStep, hown, hpeer]

theorem attestPasses_first {s : State} {r : Nat} (h : (s.race r).state ≠ .retraining) : attestPasses s r = enterAttested s r := by
  simp only [attestPasses, if_pos h]

/-- A Race that fails an attestation is LINKED, and its result stands. -/
theorem race_attestFails {s : State} {r : Nat} (h : (s.race r).state ≠ .retraining) (code : Nat) :
    ∃ l, (attestFails s r code).race r = { (s.race r).linked with retryWait := true, queue := (s.race r).queue ++ l } := by
  obtain ⟨l, hl⟩ := race_toLinked s r
  exact ⟨l, by simp [attestFails, h, State.updRace, hl]⟩

/-- Settles O31: the first part waits, the verdict follows the second, and a refusal of the peer returns the Race to LINKED. -/
theorem racesAttest : Obligations.RacesAttest := by
  intro s r hc hst
  refine ⟨fun second a hown => ⟨fun hparts => ?_, fun hparts => ⟨fun hk => ?_, fun hk hpeer => ?_, fun hk hpeer => ?_⟩⟩, fun code hcode hown => ?_⟩
  · change execAttest r (.part second a true) s = _
    rw [execAttest, whileClocked_runs hc]
    simp [attests, hst, hown, hparts]
  · rw [exec_attest_whole hc hst hown hparts, attestStep_own_fails (by simp [judged]) hk]
    rfl
  · rw [exec_attest_whole hc hst hown hparts, attestStep_passes (by simp [judged, hk]) (by simp [judged, hpeer]),
      attestPasses_first (by simp [judged, hst])]
    simp only [judged, hk]
  · rw [exec_attest_whole hc hst hown hparts, attestStep_waits (by simp [judged, hk]) (by simp [judged, hpeer])]
    simp only [judged, hk]
  · have hk : code.toNat ≠ 0 := fun h => hcode (BitVec.eq_of_toNat_eq h)
    obtain ⟨l, hl⟩ := race_attestFails (s := s.setRace r { s.race r with peerResult := some code.toNat, attResult := code.toNat }) (r := r)
      (by simp [hst]) code.toNat
    refine ⟨attestFails (s.setRace r { s.race r with peerResult := some code.toNat, attResult := code.toNat }) r code.toNat, ?_, ?_, ?_, ?_⟩
    · change execAttest r (.result code true) s = _
      rw [execAttest, whileClocked_runs hc]
      simp only [attests, hst, beq_self_eq_true, Bool.true_or, Bool.not_true, Bool.false_eq_true, if_false]
      rw [attestStep_peer_fails (by simp [hown]) (by simp) hk]
    · rw [hl]; rfl
    · rw [hl]; simp [Race.linked]
    · exact mem_of_outside (K := .flumes :: .races :: .boot :: eventsSet) (by simp +decide)

/-! ## Numbered frames (R342 to R348) -/

/-- A frame without a Flume takes no payload slot, and its payload is read from no page. -/
theorem takesSlot_of_frameFlume {fr : Frame} (h : frameFlume fr = none) : takesSlot fr = false := by
  revert h
  cases fr <;> simp [frameFlume, takesSlot]

theorem frameReadable_of_frameFlume {fr : Frame} (h : frameFlume fr = none) (s : State) (seg : Nat) : frameReadable s seg fr = true := by
  revert h
  cases fr <;> simp [frameFlume, frameReadable, frameAddrs, lostPage]

theorem frameBytes_of_frameFlume {fr : Frame} (h : frameFlume fr = none) : ∃ bytes, ∀ s seg, frameBytes s seg fr = bytes := by
  refine ⟨frameBytes .reset 0 fr, ?_⟩
  revert h
  cases fr <;> simp [frameFlume, frameBytes]

theorem frameClass_lt (fr : Frame) : frameClass fr < 6 := by
  cases fr <;> simp [frameClass]

/-- One waiting frame stands first for its class, and no frame for another. -/
theorem headFrames_single (cls : Nat) (fr : Frame) (k : Nat) : headFrames [(cls, fr)] k = if cls = k then [fr] else [] := by
  by_cases h : cls = k
  · simp [headFrames, h, List.eraseDups_cons]
  · simp [headFrames, h]

@[simp] theorem nextTurn_single (fr : Frame) (rr : Nat) : nextTurn [fr] rr = some fr := by
  unfold nextTurn
  simp only [List.mergeSort_singleton]
  split
  · next f h => simpa using (List.mem_of_find?_eq_some h)
  · rfl

@[simp] theorem nextTurn_nil (rr : Nat) : nextTurn [] rr = none := by
  simp [nextTurn]

/-- With nothing to send again, the one waiting frame that finds its credits is next. -/
theorem nextFrame_single {x : Race} {fr : Frame} {readable : Frame → Bool} (hq : x.queue = [(frameClass fr, fr)]) (hretx : x.retxq = [])
    (hres : x.resumeq = []) : nextFrame x readable = if creditOk x fr && readable fr then some (.inr fr) else none := by
  have hcls : ∀ k, (nextTurn ((headFrames x.queue k).filter (fun f => creditOk x f && readable f)) (x.rr.getD k 0)).map (Sum.inr (α := Nat)) =
      if frameClass fr = k ∧ (creditOk x fr && readable fr) = true then some (.inr fr) else none := by
    intro k
    rw [hq, headFrames_single]
    by_cases hk : frameClass fr = k
    · by_cases hok : (creditOk x fr && readable fr) = true
      · simp only [hk, hok, if_true, List.filter_cons, List.filter_nil, nextTurn_single, and_self, Option.map_some]
      · simp only [hk, hok, if_true, List.filter_cons, List.filter_nil, nextTurn_nil, and_false, if_false, Option.map_none, Bool.false_eq_true]
    · simp [hk]
  simp only [nextFrame, hretx, hres, List.find?_nil, hcls]
  have hlt := frameClass_lt fr
  generalize frameClass fr = c at hlt
  split
  · next h => interval_cases c <;> simp [List.range_succ, h]
  · next h => simp [h]

theorem nextFrame_nil {x : Race} (readable : Frame → Bool) (hq : x.queue = []) (hretx : x.retxq = []) (hres : x.resumeq = []) :
    nextFrame x readable = none := by
  simp [nextFrame, hq, hretx, hres, headFrames]

/-- A frame that leaves under a new number: what the wire shows. -/
theorem out_emitRace (s : State) (r : Nat) {fr : Frame} (h : frameFlume fr = none) : ∃ ctr, (emitRace s r fr).out = s.out ++ [.raceFrame r s.sec.self
    (recordedInc s s.sec.self) ctr (s.race r).nextLsn (s.race r).rx.ack (slotCredit s r) (raceEntries s r) fr
    (raceWire s.sec.jobId r s.sec.self (recordedInc s s.sec.self) ctr (s.race r).nextLsn (s.race r).rx.ack (slotCredit s r) (raceEntries s r) fr
      (frameBytes s 2048 fr))] := by
  refine ⟨s.sec.ctrs.getD (ctrKey r fr) 1, ?_⟩
  obtain ⟨bytes, hbytes⟩ := frameBytes_of_frameFlume h
  simp only [emitRace, emitNumbered, drawCtr, frameSender, h, hbytes]
  simp [State.emit, State.setRace, State.race, slotCredit, raceSlots, raceEntries, splitPort, State.racePort, recordedInc, memberOf]

/-- Nothing that waits on a Race is a read of memory: the transmission starts in the state itself. -/
theorem foldl_haltSender {s : State} (seg : Nat) (l : List Frame) (h : ∀ fr ∈ l, frameFlume fr = none) : l.foldl (haltSender seg) s = s := by
  induction l with
  | nil => rfl
  | cons fr l ih =>
    have hfr : haltSender seg s fr = s := by simp [haltSender, h fr (by simp)]
    rw [List.foldl_cons, hfr, ih fun f hf => h f (by simp [hf])]

section
variable {s : State} {r : Fin 32} {fr : Frame} (hc : s.board.haltedByClock = false) (hst : (s.race r).state = .attested)
  (hq : (s.race r).queue = [(frameClass fr, fr)]) (hfl : frameFlume fr = none) (hretx : (s.race r).retxq = []) (hres : (s.race r).resumeq = [])
include hc hst hq hfl hretx hres

/-- The one waiting frame leaves when the window has room for it, and nothing leaves otherwise. -/
theorem exec_frameTransmit_single :
    exec (.frameTransmit r) s = .next (if windowOk (s.race r) then
      emitRace (s.setRace r { s.race r with queue := [], rr := (s.race r).rr.set (frameClass fr) (turnKey fr) }) r fr else s) := by
  have hcredit : (creditOk (s.race r) fr && frameReadable s 2048 fr) = windowOk (s.race r) := by
    simp [creditOk, takesSlot_of_frameFlume hfl, frameReadable_of_frameFlume hfl]
  change execFrameTransmit r s = _
  unfold execFrameTransmit
  dsimp only
  rw [if_neg (by simp [hst, hc]), nextFrame_single hq hretx hres, hcredit, foldl_haltSender 2048]
  · cases hw : windowOk (s.race r) with
    | true => simp [hfl, hq, dropQueued]
    | false => rfl
  · simp [hq, hretx, hres, hfl]

end

/-- Settles O33: an acknowledgement, the frames of a NACK and of a RESUME, the timer, one waiting frame, and the timeouts of the oldest one. -/
theorem raceFrames : Obligations.RaceFrames := by
  refine ⟨fun s r h s1 hvia => ⟨fun hrec => ?_, fun base missing hrec => ?_, fun hrec => ?_, fun hc hst hsince hq hretx hres hroom => ?_⟩,
    fun s r hc hst => ⟨fun fr cls hq hcls hfl hretx hres => ⟨fun hroom => ?_, fun hfull => ?_⟩, fun u rest hun => ?_⟩⟩
  · change onRace r h (.linkAck r h) s = _
    rw [onRace_via hvia, arrive_delivered hrec]
    rfl
  · refine ⟨nackActs r base missing s1, ?_, by simp [nackActs], by simp [nackActs], fun n => ?_⟩
    · change onRace r h (.linkNack r h base missing) s = _
      rw [onRace_via hvia, arrive_delivered hrec]
      rfl
    · simp only [nackActs, State.race_setRace_same, List.mem_append, List.mem_filter, Bool.and_eq_true, List.any_eq_true, beq_iff_eq,
        Bool.not_eq_true', List.contains_eq_mem, decide_eq_false_iff_not]
      by_cases h1 : n ∈ (s1.race r).retxq
      · simp [h1]
      · by_cases h2 : n ∈ (s1.race r).resumeq
        · simp [h2]
        · simp [h1, h2]
  · refine ⟨s1.updRace r (fun x => { x with resumeq := x.unacked.map (·.lsn), retxq := [] }), ?_, by simp [State.updRace], by simp [State.updRace]⟩
    change onRace r h (.linkResume r h) s = _
    rw [onRace_via hvia, arrive_delivered hrec]
    rfl
  · obtain ⟨ctr, hout⟩ := out_emitRace s r (fr := .linkAck (s.race r).rx.ack) rfl
    refine ⟨emitRace s r (.linkAck (s.race r).rx.ack), ctr, _, ?_, by rw [race_emitRace]; rfl, by rw [race_emitRace]; rfl, hout⟩
    change execLinkAckTimer r s = _
    rw [execLinkAckTimer, whileClocked_runs hc]
    dsimp only
    rw [if_pos ⟨hst, hsince, by rw [nextFrame_nil _ hq hretx hres]; rfl, by simpa [windowOk] using hroom⟩]
  · subst hcls
    have hw : windowOk (s.race r) = true := by simpa [windowOk] using hroom
    obtain ⟨ctr, hout⟩ := out_emitRace (s.setRace r { s.race r with queue := [], rr := (s.race r).rr.set (frameClass fr) (turnKey fr) }) r hfl
    refine ⟨_, ctr, by rw [exec_frameTransmit_single hc hst hq hfl hretx hres, if_pos hw], ?_, ?_, ?_, ?_⟩
    · rw [race_emitRace]; simp [Race.sent]
    · rw [race_emitRace]; simp [Race.sent]
    · rw [race_emitRace]; simp [Race.sent]
    · obtain ⟨bytes, hbytes⟩ := frameBytes_of_frameFlume hfl
      simpa [hbytes, recordedInc, memberOf, slotCredit, raceSlots, raceEntries, splitPort] using hout
  · subst hcls
    have hw : ¬windowOk (s.race r) = true := by simpa [windowOk] using hfull
    exact ⟨s, by rw [exec_frameTransmit_single hc hst hq hfl hretx hres, if_neg hw], rfl, rfl⟩
  · have hlsn : u.lsn ∈ (if (s.race r).retxq.contains u.lsn then (s.race r).retxq else u.lsn :: (s.race r).retxq) := by
      split
      · next h => simpa using h
      · simp
    have hexec : exec (.retransmissionTimeout r) s = .next
        (let s1 := s.setRace r { s.race r with
          timeouts := (s.race r).timeouts + 1
          retxq := if (s.race r).retxq.contains u.lsn then (s.race r).retxq else u.lsn :: (s.race r).retxq }
        if (s.race r).timeouts + 1 ≥ 1000 then enterRetraining s1 r else s1) := by
      change execRetransmissionTimeout r s = _
      rw [execRetransmissionTimeout, whileClocked_runs hc]
      simp only [hst, hun]
    refine ⟨_, hexec, ?_⟩
    by_cases hk : (s.race r).timeouts + 1 ≥ 1000
    · simp only [if_pos hk, enterRetraining, State.updRace, State.race_setRace_same, State.mem_setRace]
      exact ⟨hlsn, trivial, trivial, trivial, iff_of_true trivial hk⟩
    · simp only [if_neg hk, State.race_setRace_same, State.mem_setRace]
      exact ⟨hlsn, trivial, trivial, trivial, iff_of_false (by rw [hst]; decide) hk⟩

end Sys2Proof.Machine
end

section
/-! # Host ports: discovery, sessions and links (R357 to R368) -/

namespace Sys2Proof.Machine

open Sys2Proof

/-! ## A port's sessions -/

theorem session_setSession_ne (s : State) (p : Nat) {n k : Nat} (v : Session) (h : k ≠ n) : (s.setSession p n v).session p k = s.session p k := by
  simp [State.session, State.setSession, State.updHost, Tbl.getD_set_ne _ _ _ _ _ h]

@[simp] theorem session_losePaths (c : Carrier) (s : State) (p n : Nat) : (losePaths c s).session p n = s.session p n := by
  have h : (losePaths c s).hosts = s.hosts := same_of_outside (k := .hosts) (outside_losePaths (K := [.flumes]) rfl s c) (by decide)
  simp [State.session, State.host, h]

@[simp] theorem host_losePaths (c : Carrier) (s : State) (p : Nat) : (losePaths c s).host p = s.host p := by
  have h : (losePaths c s).hosts = s.hosts := same_of_outside (k := .hosts) (outside_losePaths (K := [.flumes]) rfl s c) (by decide)
  simp [State.host, h]

/-- A packet that leaves changes at most the count of drops of a port. -/
theorem host_sendIp (s : State) (p : Nat) (dst : W128) (o : Out) (q : Nat) : ∃ n, (sendIp s p dst o).host q = { s.host q with dropped := n } := by
  unfold sendIp
  split
  · split
    · exact ⟨(s.host q).dropped, rfl⟩
    · by_cases hq : q = p
      · subst hq
        exact ⟨satAdd (s.host q).dropped 1 65535, by simp [State.updHost]⟩
      · exact ⟨(s.host q).dropped, by simp [State.updHost, State.host_setHost_ne _ _ _ _ hq]⟩
  · refine ⟨(s.host q).dropped, ?_⟩
    dsimp only
    split
    · rfl
    · split <;> rfl

/-- A session that has broken. -/
def Session.broke (x : Session) : Session := { x with state := .broken }

/-- A session that breaks: its state, and nothing else of any session of the port. -/
theorem session_breakSession (p n : Nat) (s : State) (k : Nat) :
    (breakSession p n s).session p k = if k = n then (s.session p k).broke else s.session p k := by
  by_cases h : k = n
  · subst h; simp [breakSession, Session.broke]
  · simp [breakSession, h, session_setSession_ne]

theorem link_breakSession (p n : Nat) (s : State) : ((breakSession p n s).host p).link = (s.host p).link := by
  simp [breakSession, State.setSession, State.updHost]

/-- Sessions that break one after the other. -/
theorem session_breakAll (p k : Nat) (l : List (Nat × Session)) (s : State) :
    (l.foldl (fun s x => breakSession p x.1 s) s).session p k =
      if k ∈ l.map (·.1) then (s.session p k).broke else s.session p k := by
  induction l generalizing s with
  | nil => rfl
  | cons x l ih =>
    rw [List.foldl_cons, ih, session_breakSession]
    by_cases h : k = x.1
    · simp [h, Session.broke]
    · simp only [List.map_cons, List.mem_cons, h, false_or, if_false]

theorem link_breakAll (p : Nat) (l : List (Nat × Session)) (s : State) :
    ((l.foldl (fun s x => breakSession p x.1 s) s).host p).link = (s.host p).link := by
  induction l generalizing s with
  | nil => rfl
  | cons x l ih => rw [List.foldl_cons, ih, link_breakSession]

/-- An entry that a table finds is one of its entries. -/
theorem mem_of_tblFind {α : Type} {t : Tbl α} {k : Nat} {v : α} (h : Tbl.find? t k = some v) : (k, v) ∈ t := by
  induction t with
  | nil => simp [Tbl.find?] at h
  | cons e t ih =>
    obtain ⟨j, w⟩ := e
    by_cases hj : j = k
    · subst hj
      simp only [Tbl.find?, if_true, Option.some.injEq] at h
      simp [h]
    · simp only [Tbl.find?, if_neg hj] at h
      simp [ih h]

/-- A port with fewer than 64 sessions has a free session number. -/
theorem exists_free_session {t : Tbl Session} (h : t.length < 64) :
    ∃ n < 64, (List.range 64).find? (fun i => (Tbl.find? t i).isNone) = some n ∧ Tbl.find? t n = none := by
  cases hf : (List.range 64).find? (fun i => (Tbl.find? t i).isNone) with
  | some n =>
    have hn := List.mem_range.mp (List.mem_of_find?_eq_some hf)
    exact ⟨n, hn, rfl, by simpa using List.find?_some hf⟩
  | none =>
    have hsub : List.range 64 ⊆ t.map (·.1) := by
      intro i hi
      have hi' := List.find?_eq_none.mp hf i hi
      obtain ⟨v, hv⟩ := Option.ne_none_iff_exists'.mp (by simpa using hi')
      exact List.mem_map.mpr ⟨_, mem_of_tblFind hv, rfl⟩
    have hlen := (List.nodup_range.subperm hsub).length_le
    simp only [List.length_range, List.length_map] at hlen
    omega

/-! ## Packets outside a session (R362 to R366) -/

theorem hearPacket_acts {s : State} {p : Nat} {groups : Bool} {d : Datagram} (hh : portHears s p = true) (hok : packetOk s p groups d = true)
    (hcrc : d.crcOk = true) (act : State → State) : hearPacket p groups d s act = .next (act s) := by
  simp [hearPacket, hh, hok, hcrc]

theorem le_retryMs (s : State) : 100 ≤ retryMs s := by
  unfold retryMs
  split <;> omega

/-- A request that no check refuses finds a free session number and slots. -/
theorem sopen_room {s : State} {p : Nat} {h : FrameHdr} {job : W128} {rep : W16} (hr : sopenRefusal s p h job rep = (0, s))
    (hback : replacesOk s p h.member.toNat rep = false) : usedSessions s p < 64 := by
  by_contra hfull
  have h3 : (64 ≤ usedSessions s p ∨ (s.host p).slotsFree = 0) ∧ ¬replacesOk s p h.member.toNat rep = true := ⟨.inl (by omega), by simp [hback]⟩
  simp only [sopenRefusal, if_pos h3] at hr
  repeat' split at hr
  all_goals simp at hr

/-- The session that a request gets. -/
def newSession (s : State) (p : Nat) (h : FrameHdr) (seg : Bool) (window : Nat) : Session :=
  { state := .openS, addr := h.net.src, member := h.member.toNat, inc := h.inc.toNat, segsize := if seg then 8192 else 1024
    window := min (min window 256) (s.host p).slotsFree, age := (s.host 0).nextAge + (s.host 1).nextAge, peerWindow := window }

/-- A session opens under the first free number, and takes its window from the port's slots. -/
theorem host_openSession {s : State} {p n : Nat} {h : FrameHdr} {seg : Bool} {window : Nat}
    (hn : (List.range 64).find? (fun i => (Tbl.find? (s.host p).sessions i).isNone) = some n) :
    ∃ d, (openSession s p h seg window).host p = { s.host p with
      sessions := (s.host p).sessions.set n (newSession s p h seg window), nextAge := (s.host p).nextAge + 1, dropped := d
      slotsFree := (s.host p).slotsFree - min (min window 256) (s.host p).slotsFree } := by
  unfold openSession
  dsimp only
  obtain ⟨d, hd⟩ := host_sendIp _ p _ _ p
  refine ⟨d, hd.trans ?_⟩
  rw [hn]
  simp [drawCtr, seeCtr, State.host, State.setHost, newSession]

section
variable {s : State} {p : Fin 2} {h : FrameHdr} {job : W128} {seg : Bool} {w rep : W16} (hh : portHears s p = true)
  (hok : packetOk s p false h.net = true) (hlen : 144 ≤ h.net.udpLen) (hready : isReady s = true)
include hh hok hlen hready

/-- A request with the cookie of the epoch gets the reason of its refusal. -/
theorem exec_sopen_refused {k : Nat} {s1 : State} (hr : sopenRefusal s p h job rep = (k + 1, s1)) :
    exec (.sopenSecondForm p h (cookieFor s h.net false) job seg w rep) s = .next (rateReply s1 p h.net.src (.sopenRefused p h.net.src (k + 1))) := by
  change execSopenSecondForm p h (cookieFor s h.net false) job seg w rep s = _
  unfold execSopenSecondForm
  dsimp only
  rw [if_neg (by simp [hh]), if_neg (by simp [hok]), if_neg (by simp [hready]; omega), if_neg (by simp), hr]
  rfl

/-- One that no check refuses, and that replaces no session, opens one. -/
theorem exec_sopen_opens (hr : sopenRefusal s p h job rep = (0, s)) (hhop : (nextHop s p h.net.src.addr).isSome = true)
    (hback : replacesOk s p h.member.toNat rep = false) :
    exec (.sopenSecondForm p h (cookieFor s h.net false) job seg w rep) s = .next (afterFlume (wakePaths (openSession s p h seg w.toNat))) := by
  have hhop' : ¬(nextHop s p h.net.src.addr).isNone = true := by simpa [Option.isSome_iff_ne_none] using hhop
  change execSopenSecondForm p h (cookieFor s h.net false) job seg w rep s = _
  unfold execSopenSecondForm
  dsimp only
  rw [if_neg (by simp [hh]), if_neg (by simp [hok]), if_neg (by simp [hready]; omega), if_neg (by simp), hr]
  simp only [if_neg hhop', hback, Bool.false_eq_true, if_false]

end

/-- Settles O34: what a port answers outside a session, the session that a checked request opens, and the turn of the cookies. -/
theorem sessionsOpen : Obligations.SessionsOpen := by
  intro s p hh
  refine ⟨fun d hok hcrc => ⟨fun hlen => ⟨?_, ?_⟩, fun hlen hready => ⟨retryMs s, le_retryMs s, ?_⟩, fun hlen hready => ⟨?_, ?_⟩⟩,
    fun h job seg w rep hok hlen hready => ⟨fun k s1 hr => ?_, fun hr hhop hback => ?_⟩, ?_⟩
  · change execDiscover p d s = _
    rw [execDiscover, hearPacket_acts hh hok hcrc, if_pos hlen]
  · change execSopenFirstForm p d s = _
    rw [execSopenFirstForm, hearPacket_acts hh hok hcrc, if_pos (.inr hlen)]
  · change execDiscover p d s = _
    rw [execDiscover, hearPacket_acts hh hok hcrc, if_neg (by omega), hready]
    rfl
  · change execDiscover p d s = _
    rw [execDiscover, hearPacket_acts hh hok hcrc, if_neg (by omega), if_pos hready]
  · change execSopenFirstForm p d s = _
    rw [execSopenFirstForm, hearPacket_acts hh hok hcrc, if_neg (by simp [hready]; omega)]
    rfl
  · exact exec_sopen_refused hh hok hlen hready hr
  · obtain ⟨n, hn, hfind, hfree⟩ := exists_free_session (sopen_room hr hback)
    obtain ⟨d, hd⟩ := host_openSession (h := h) (seg := seg) (window := w.toNat) hfind
    have hsess : (openSession s p h seg w.toNat).session p n = newSession s p h seg w.toNat := by simp [State.session, hd]
    have hout := outside_openSession (K := [.hosts, .sec, .ipWait, .out]) rfl s p h seg w.toNat
    exact ⟨openSession s p h seg w.toNat, n, exec_sopen_opens hh hok hlen hready hr hhop hback, hn, hfree, mem_of_outside hout,
      same_of_outside (k := .flumes) hout (by decide), by rw [hsess]; rfl, by rw [hsess]; rfl, by rw [hsess]; rfl, by rw [hsess]; rfl,
      by rw [hsess]; rfl, by rw [hd]⟩
  · exact ⟨_, rfl, rfl, rfl, rfl, fun d => rfl⟩

/-! ## Acknowledgement, loss and links of a session (R357, R366, R367) -/

/-- A window that was not halved before halves. -/
theorem halve_first {s : State} {p n : Nat} (h : (s.session p n).halved = none) :
    halve s p n = s.setSession p n { s.session p n with cwnd := max 4 ((s.session p n).cwnd / 2), halved := some s.timeNs } := by
  simp [halve, h]

/-- Settles O35: the window at an acknowledgement, the packets that go out again, the end of a session, and its port's link and neighbours. -/
theorem sessionsRun : Obligations.SessionsRun := by
  intro s p n hc
  refine ⟨fun h s1 hvia => ⟨fun ce hrec hce hhalved => ?_, fun base missing hrec => ?_, fun hst hrec => ?_⟩, fun hst hack => ?_,
    fun u rest hst hun => ⟨fun h64 => ?_, fun h64 => ?_⟩, ?_, fun rate now hnow hne hcfg hdis hpwr => ?_, fun port a v4 tags hup htags hown => ?_,
    fun a mac => ?_⟩
  · refine ⟨(halve s1 p n).setSession p n { (halve s1 p n).session p n with peerCe := ce }, ?_, ?_⟩
    · change onHost h (.ack h ce) s = _
      rw [onHost_via hvia, arrive_delivered hrec]
      simp [deliverFrame, hvia, ackActs, hce]
    · rw [halve_first hhalved]
      simp
  · change onHost h (.nack h base missing) s = _
    rw [onHost_via hvia, arrive_delivered hrec]
    simp [deliverFrame, hvia, sessionNackActs]
  · change execSclose h s = _
    simp only [execSclose, hvia, if_neg hst]
    rw [arrive_delivered hrec]
    simp [deliverFrame, hvia, scloseActs]
  · change execSessionAckTimer p n s = _
    rw [execSessionAckTimer, whileClocked_runs hc]
    dsimp only
    rw [if_pos ⟨hst, hack⟩]
  · refine ⟨breakSession p n (s.setSession p n { s.session p n with timeouts := (s.session p n).timeouts + 1 }), ?_, ?_, ?_, ?_⟩
    · change execSessionRetransmissionTimeout p n s = _
      rw [execSessionRetransmissionTimeout, whileClocked_runs hc]
      simp only [hst, hun, ge_iff_le, if_pos h64]
    · rw [session_breakSession, if_pos rfl]
      rfl
    · rw [session_breakSession, if_pos rfl]
      simp [Session.broke]
    · exact mem_of_outside (K := [.flumes, .hosts]) (by simp +decide)
  · change execSessionRetransmissionTimeout p n s = _
    rw [execSessionRetransmissionTimeout, whileClocked_runs hc]
    simp only [hst, hun, ge_iff_le, if_neg (Nat.not_le.mpr h64)]
  · refine ⟨_, rfl, ?_, ?_, fun k x hk hx => ?_⟩
    · rw [link_breakAll]
      simp [State.updHost]
    · exact mem_of_outside (outside_foldl (K := [.flumes, .hosts]) (fun _ _ => by simp +decide) ..) |>.trans (by simp [State.updHost])
    · have hmem : k ∈ ((s.host p).sessions.filter (fun x => x.2.state == .openS)).map (·.1) :=
        List.mem_map.mpr ⟨(k, x), List.mem_filter.mpr ⟨mem_of_tblFind hk, by simpa using hx⟩, rfl⟩
      rw [session_breakAll, if_pos hmem]
      simp [State.updHost, State.session, Tbl.getD, hk, Session.broke]
  · change execHostPortLinkUp p rate s = _
    rw [execHostPortLinkUp, whileClocked_runs hc]
    dsimp only
    rw [← hnow, if_pos ⟨hcfg, by simp [hdis], hpwr, hne⟩]
  · change execNeighbourSolicitation port a v4 tags s = _
    simp [execNeighbourSolicitation, hup, htags, hown]
  · have hp : ¬ p.val = 2 := by omega
    let s1 := s.updHost p (fun h => { h with neigh := withNeigh h.neigh a mac })
    refine ⟨{ s1 with
      out := s1.out ++ (s1.ipWait.filter (fun w => w.1 == p.val && w.2.1 == a)).map (·.2.2)
      ipWait := s1.ipWait.filter (fun w => !(w.1 == p.val && w.2.1 == a)) }, ?_, ?_⟩
    · change execNeighbourResolution (Fin.castLE (by omega) p) a mac s = _
      simp only [execNeighbourResolution, hc, Bool.false_eq_true, and_false, if_false, Fin.val_castLE, if_neg hp]
      rfl
    · refine ⟨by simp [s1, State.updHost], by simp [s1, State.updHost], ?_, ?_⟩
      · simp [s1, State.host, State.updHost, State.setHost, withNeigh]
      · rintro w hw ⟨h1, h2⟩
        have hkept := (List.mem_filter.mp hw).2
        simp [h1, h2] at hkept

end Sys2Proof.Machine
end

section
/-! # A journal timer without a pair Race

A JACK stays due while no pair Race can carry it (assumption 139): the timer then changes nothing. The statement about the timer names no
such Race: it wants the count of records without a JACK cleared. -/

namespace Sys2Proof.Machine

open Sys2Proof

/-- A package in pair mode that has applied one record since its last JACK, and whose pair Races are all OFF. -/
def cutOff : State := { State.reset with pair := { State.reset.pair with phase := .paired, applied := 1, sinceAck := 1 } }

/-- Refutes O50: with no pair Race ATTESTED the timer leaves the record without a JACK counted, where the statement wants the count at 0. -/
theorem not_journalApplies : ¬ Obligations.JournalApplies := by
  intro h
  obtain ⟨-, -, -, timer⟩ := h
  have run : exec .journalAckTimer cutOff = .next cutOff := by
    have noRace : (livePairRace cutOff).isNone = true := by decide +kernel
    change execJournalAckTimer cutOff = _
    rw [execJournalAckTimer, whileClocked_runs (by decide +kernel), if_pos (by decide +kernel), sendJack, if_pos noRace]
  have sent : cutOff = sendTwin { cutOff with pair := { cutOff.pair with sinceAck := 0 } } 8 [cutOff.pair.applied] [] := by
    injection run.symm.trans (timer cutOff (by decide +kernel) (by decide +kernel) (by decide +kernel))
  exact absurd (congrArg (fun s : State => s.pair.sinceAck) sent) (by decide +kernel)

end Sys2Proof.Machine
end

section
/-! # A damaged page that the twin cannot repair

RDATA with BAD says that the twin has no readable copy either: the contexts that the damaged page holds wait for it no longer (R403). The
statement about RDATA with BAD wants nothing changed. -/

namespace Sys2Proof.Machine

open Sys2Proof

/-- Race 0 is a pair Race ATTESTED to member 2; the mirror of page 0 is damaged, and context 0 is held for it. -/
def damagedMirror : State :=
  { State.reset with
    sec := { State.reset.sec with phase := .admitted, incs := [(2, 1)] }
    racePorts := [(0, { cfg := 5 })]
    races := [(0, { state := .attested, lanes := 0xFF, peer := some (2, 1) })]
    mm := { State.reset.mm with imp := [(262144, { state := .damaged })] }
    mil := { State.reset.mil with holds := [(pageCause 262144, 0)] } }

/-- The first frame of member 2 on Race 0. -/
def repairHdr : FrameHdr :=
  { via := .race 0, ver := 1, typeOk := true, member := 2, inc := 1, flume := 0, cls := 3, ctr := 1, seqNo := 1, ackNo := 0
    slotLimit := 0, window := 0, tagOk := true, dst := 0 }

/-- The twin cannot read unit 0 of page 0. -/
def noRepair : Instr := .rdata ⟨repairHdr, 0, false⟩ 0 0 false true []

/-- The state in which the RDATA is received. -/
def repairReceived : State := (receive repairHdr noRepair damagedMirror).1

/-- Whether the outcome is a package that holds no context. -/
def holdsNone : Res → Bool
  | .next t => t.mil.holds.isEmpty
  | _ => false

/-- Refutes O51: the RDATA ends the hold of context 0, which the statement wants to stand. -/
theorem not_twinsFail : ¬ Obligations.TwinsFail := by
  intro h
  obtain ⟨frames, -⟩ := h damagedMirror
  obtain ⟨-, -, -, repair⟩ := frames ⟨repairHdr, 0, false⟩ repairReceived 0 rfl
  obtain ⟨-, -, bad⟩ := repair 0 0 false true [] (Prod.ext rfl (by decide +kernel)) (by decide +kernel)
  have released_all : holdsNone (exec noRepair damagedMirror) = true := by decide +kernel
  rw [noRepair, bad rfl, released_empty (by decide +kernel)] at released_all
  exact absurd released_all (by decide +kernel)

end Sys2Proof.Machine
end

section
/-! # A log that overflows while the management link is down

The event that makes LOST leave zero is followed by the log overflow event (R497, R498, assumption 141). Its pushes fall due as well and are
dropped and counted; the statement counts those of the first event alone. -/

namespace Sys2Proof.Machine

open Sys2Proof

/-- While the link is down a record counts a push for every subscription that wants its severity. -/
theorem telemSkipped_recordEvent {s : State} (hl : s.mil.link = false) (code scope id : Nat) (detail : List Nat) :
    (recordEvent s code scope id detail).mil.telemSkipped =
      satAdd s.mil.telemSkipped (s.mil.subs.filter (fun x => decide (x.2.minSeverity ≤ Config.severity code))).length 65535 := by
  unfold recordEvent
  dsimp only
  split <;> simp [hl]

theorem link_recordEvent (s : State) (code scope id : Nat) (detail : List Nat) : (recordEvent s code scope id detail).mil.link = s.mil.link := by
  unfold recordEvent
  dsimp only
  split <;> simp

theorem subs_recordEvent (s : State) (code scope id : Nat) (detail : List Nat) : (recordEvent s code scope id detail).mil.subs = s.mil.subs := by
  unfold recordEvent
  dsimp only
  split <;> simp

theorem lost_recordEvent (s : State) (code scope id : Nat) (detail : List Nat) : ∃ e : Event, (recordEvent s code scope id detail).mil.lost =
    satAdd s.mil.lost (ringPush s.mil.ring e 65536 s.mil.readTo).2 65535 := by
  unfold recordEvent
  dsimp only
  split
  · exact ⟨_, by simp; rfl⟩
  · exact ⟨_, rfl⟩

/-- A record of the event log that nobody has read. -/
def unreadEvent : Event :=
  { time := 0, seq := 1, code := 0, severity := 0, ptp := false, copy := false, scope := 0, scopeId := 0, detail := [] }

/-- As many of them as the log holds. -/
def unread : List Event := List.replicate 65536 unreadEvent

/-- One subscription for every severity. -/
def anyEvent : Tbl Subscription := [(0, ⟨⟨0, 0⟩, 0, 0, []⟩)]

/-- One subscription, no link, and an event log full of unread records. -/
def fullLog : State :=
  { State.reset with mil := { State.reset.mil with
      link := false, lost := 0, telemSkipped := 0, readTo := 0, ring := unread, subs := anyEvent } }

/-- Whatever record comes next pushes an unread one out. -/
theorem ringPush_fullLog (e : Event) : (ringPush fullLog.mil.ring e 65536 fullLog.mil.readTo).2 = 1 := by
  have last : (e :: unread).drop 65536 = [unreadEvent] := by
    rw [show 65536 = 65535 + 1 from rfl, List.drop_succ_cons, unread, List.drop_replicate]
    rfl
  have ring : fullLog.mil.ring = unread := rfl
  have readTo : fullLog.mil.readTo = 0 := rfl
  simp only [ringPush, ring, readTo, last]
  rfl

/-- A push of every event falls due. -/
theorem wanted_anyEvent (severity : Nat) : (anyEvent.filter (fun x => decide (x.2.minSeverity ≤ severity))).length = 1 := by
  simp [anyEvent]

/-- Refutes O59: the event and the log overflow behind it each drop a push, so two are counted where the statement wants one. -/
theorem not_managementLinkIsLost : ¬ Obligations.ManagementLinkIsLost := by
  intro h
  obtain ⟨-, down⟩ := h fullLog
  obtain ⟨-, -, counted⟩ := (down rfl).1 0 0 0 []
  have overflow : (recordEvent fullLog 0 0 0 []).mil.lost ≠ 0 := by
    obtain ⟨e, he⟩ := lost_recordEvent fullLog 0 0 0 []
    rw [he, ringPush_fullLog]
    change satAdd 0 1 65535 ≠ 0
    decide
  have first : (recordEvent fullLog 0 0 0 []).mil.telemSkipped = 1 := by
    rw [telemSkipped_recordEvent rfl]
    change satAdd 0 (anyEvent.filter _).length 65535 = 1
    rw [wanted_anyEvent]
    rfl
  have both : (logEvent fullLog 0 0 0 []).mil.telemSkipped = 2 := by
    rw [logEvent, if_pos ⟨rfl, overflow⟩, telemSkipped_recordEvent ((link_recordEvent ..).trans rfl), subs_recordEvent, first]
    change satAdd 1 (anyEvent.filter _).length 65535 = 2
    rw [wanted_anyEvent]
    rfl
  rw [both] at counted
  change 2 = satAdd 0 (anyEvent.filter _).length 65535 at counted
  rw [wanted_anyEvent] at counted
  exact absurd counted (by decide)

end Sys2Proof.Machine
end

section
/-! # The Miller's requests: their checks, reads and subscriptions (R484 to R500) -/

namespace Sys2Proof.Machine

open Sys2Proof

/-! ## The checks in their order (R484, R487, R488, R490, R494) -/

section
variable {s : State} {m : MilHdr} {op : Nat} {who : Signers} {early : Bool} {onRefuse : State → State} {act : State → Reply}

theorem milRequest_otherPacket (h : millerPacket s m.net = false) : milRequest m op who early onRefuse act s = .next s := by
  simp [milRequest, h]

variable (hears : millerHears s op = true) (packet : millerPacket s m.net = true)
include hears packet

theorem milRequest_malformed (h : m.formOk = false) :
    milRequest m op who early onRefuse act s = .next (bucketReply s m.src (replyOf m op 6 [])) := by
  simp [milRequest, hears, packet, h]

variable (form : m.formOk = true)
include form

theorem milRequest_stale (h : m.bootId ≠ s.mil.bootId) : milRequest m op who early onRefuse act s = .next (countReplay s) := by
  simp [milRequest, hears, packet, form, h]

variable (boot : m.bootId = s.mil.bootId)
include boot

theorem milRequest_badSignature (h : signaturesOk s m = false) :
    milRequest m op who early onRefuse act s = .next (refuseRequest m op 5 (onRefuse s)) := by
  simp [milRequest, hears, packet, form, boot, h]

variable (sigs : signaturesOk s m = true)
include sigs

theorem milRequest_badSigner (h : m.signer = 0 ∨ who.allows m.signer = false) :
    milRequest m op who early onRefuse act s = .next (refuseRequest m op 7 (onRefuse s)) := by
  have h' : m.signer = 0 ∨ !(who.allows m.signer) := by simpa using h
  simp only [milRequest, hears, packet, form, boot, sigs, if_pos h']
  simp

variable (signed : m.signer ≠ 0) (allowed : who.allows m.signer = true)
include signed allowed

theorem milRequest_below (h : ∃ n ∈ lastSeqs s m, m.reqSeq.toNat < n) : milRequest m op who early onRefuse act s = .next (countReplay s) := by
  have h' : (lastSeqs s m).any (fun n => decide (m.reqSeq.toNat < n)) = true := by simpa using h
  simp only [milRequest, hears, packet, form, boot, sigs, signed, allowed, h']
  simp

theorem milRequest_repeated (hle : ∀ n ∈ lastSeqs s m, n ≤ m.reqSeq.toNat) (h : ∃ n ∈ lastSeqs s m, m.reqSeq.toNat = n) :
    milRequest m op who early onRefuse act s = .next (sendIp s 2 m.src.addr ((storedReply s m).getD (replyOf m op 2 []))) := by
  have notBelow : (lastSeqs s m).any (fun n => decide (m.reqSeq.toNat < n)) = false := by
    simpa [List.any_eq_false] using hle
  have equal : (lastSeqs s m).any (fun n => decide (m.reqSeq.toNat = n)) = true := by simpa using h
  simp only [milRequest, hears, packet, form, boot, sigs, signed, allowed, notBelow, equal]
  simp

end

/-- The state in which a refusal leaves: the refusal is counted and logged. -/
def refusedState (s : State) (op status : Nat) : State :=
  logEvent { s with mil := { s.mil with refused := satAdd s.mil.refused 1 65535 } } evRequestRefused scPackage 0 [op, status]

theorem refuseRequest_eq (m : MilHdr) (op status : Nat) (s : State) :
    refuseRequest m op status s = bucketReply (refusedState s op status) m.src (.mreply m.src op m.reqSeq status []) := rfl

theorem refused_refusedState (s : State) (op status : Nat) : (refusedState s op status).mil.refused = satAdd s.mil.refused 1 65535 :=
  mil_field_logEvent _ _ _ _ _ Miller.refused fun _ => rfl

theorem lastOwner_refusedState (s : State) (op status : Nat) : (refusedState s op status).mil.lastOwner = s.mil.lastOwner :=
  mil_field_logEvent _ _ _ _ _ Miller.lastOwner fun _ => rfl

theorem lastOperator_refusedState (s : State) (op status : Nat) : (refusedState s op status).mil.lastOperator = s.mil.lastOperator :=
  mil_field_logEvent _ _ _ _ _ Miller.lastOperator fun _ => rfl

theorem mem_refusedState (s : State) (op status : Nat) : (refusedState s op status).mem = s.mem := by simp [refusedState]

/-- Settles O39: each check in its turn, and the effect of a request that passes them all. -/
theorem requestChecks : Obligations.RequestChecks := by
  intro s m op who early act hears
  refine ⟨milRequest_otherPacket, milRequest_malformed hears, fun packet form => ⟨milRequest_stale hears packet form, fun boot sigs => ?_,
    fun boot sigs signer => ?_, fun boot sigs signed allowed => ⟨milRequest_below hears packet form boot sigs signed allowed,
      milRequest_repeated hears packet form boot sigs signed allowed⟩,
    fun turn ready u st body hact => ⟨milRequest_now turn ready hact, fun owner => ?_, fun operator => ?_⟩⟩⟩
  · exact ⟨_, milRequest_badSignature hears packet form boot sigs, refused_refusedState .., lastOwner_refusedState .., lastOperator_refusedState ..,
      mem_refusedState ..⟩
  · exact ⟨_, milRequest_badSigner hears packet form boot sigs signer, refused_refusedState .., mem_refusedState ..⟩
  · simp only [takeRequest, storeReply, owner, if_true]
  · simp only [takeRequest, storeReply, operator, if_true]

/-! ## Reads and subscriptions (R454, R485, R493, R498, R500) -/

/-- A request that passes its checks and whose reply has another form. -/
theorem milRequest_form {s t : State} {m : MilHdr} {op : Nat} {who : Signers} {onRefuse : State → State} {act : State → Reply} {o : Out}
    (h : MilTurn s m op who) (ha : act (takeRequest m s) = .form t o) : milRequest m op who true onRefuse act s = .next (signedReply m o t) := by
  obtain ⟨hears, packet, form, boot, sigs, signed, allowed, fresh⟩ := h
  have notBelow : (lastSeqs s m).any (fun n => decide (m.reqSeq.toNat < n)) = false := by
    simpa [List.any_eq_false] using fun n hn => (fresh n hn).le
  have notEqual : (lastSeqs s m).any (fun n => decide (m.reqSeq.toNat = n)) = false := by
    simpa [List.any_eq_false] using fun n hn => (fresh n hn).ne'
  simp only [milRequest, hears, packet, form, boot, sigs, signed, allowed, notBelow, notEqual, ha]
  simp

theorem length_readRegs (n off : Nat) (s : State) : (readRegs n off s).1.length = n := by
  induction n generalizing off s with
  | zero => rfl
  | succ n ih => simp [readRegs, ih]

/-- REGREAD reads its registers in order. -/
theorem exec_regread {s : State} {m : MilHdr} {off : W48} {count : Nat} (turn : MilTurn s m 0x0010 .either) (h0 : 0 < count) (h64 : count ≤ 64)
    (hr : (readReg (takeRequest m s) off.toNat).isSome = true) : exec (.regread m off count) s =
      .next (milAnswered m 0x0010 0 (readRegs count off.toNat (takeRequest m s)).1 (readRegs count off.toNat (takeRequest m s)).2) := by
  change execRegread m off count s = _
  rw [execRegread, plainRequest]
  refine milRequest_now turn (.inl rfl) ?_
  rw [if_neg (by omega), if_neg (by simpa [Option.isSome_iff_ne_none] using hr)]

/-- The records that EVREAD answers: at most 28 from the first, the oldest first. -/
def eventsFrom (ring : List Event) (first : W32) : List Event := ((ring.filter (fun e => decide (first.toNat ≤ e.seq))).reverse).take 28

theorem mem_eventsFrom {ring : List Event} {first : W32} {e : Event} (h : e ∈ eventsFrom ring first) : first.toNat ≤ e.seq ∧ e ∈ ring := by
  have h' := List.mem_of_mem_take h
  rw [List.mem_reverse, List.mem_filter] at h'
  exact ⟨by simpa using h'.2, h'.1⟩

/-- The records of the ring are read up to the last one answered; those of the flash are not counted as read. -/
def eventsRead (flash : Bool) (first : W32) (s : State) : State :=
  if flash then s
  else { s with mil := { s.mil with readTo := (eventsFrom s.mil.ring first).foldl (fun n e => max n e.seq) s.mil.readTo } }

theorem exec_evread {s : State} {m : MilHdr} {flash : Bool} {first : W32} (turn : MilTurn s m 0x0020 .either) :
    exec (.evread m flash first) s = .next (signedReply m
      (.mevents m.src m.reqSeq (eventsFrom (if flash then s.mil.flashRing else s.mil.ring) first)) (eventsRead flash first (takeRequest m s))) := by
  change execEvread m flash first s = _
  rw [execEvread, plainRequest]
  refine milRequest_form turn ?_
  cases flash <;> rfl

/-- A SUBSCRIBE that no check refuses takes its place. -/
theorem exec_subscribe {s : State} {m : MilHdr} {sev : W8} {period : W32} {offs : List W48} {k : Nat} (turn : MilTurn s m 0x0021 .either)
    (hlen : offs.length ≤ 32) (hper : period.toNat = 0 ∨ (10 ≤ period.toNat ∧ period.toNat ≤ 60000))
    (hoffs : ∀ o ∈ offs, (readReg (takeRequest m s) o.toNat).isSome = true) (hplace : subPlace s m.src = some k) :
    exec (.subscribe m sev period offs) s = .next (milAnswered m 0x0021 0 [] { takeRequest m s with mil := { (takeRequest m s).mil with
      subs := (takeRequest m s).mil.subs.set k
        { dst := m.src, minSeverity := if sev = 255 then 256 else sev.toNat, periodMs := period.toNat, offsets := offs } } }) := by
  change execSubscribe m sev period offs s = _
  rw [execSubscribe, plainRequest]
  refine milRequest_now turn (.inl rfl) ?_
  have hany : offs.any (fun o => (readReg (takeRequest m s) o.toNat).isNone) = false := by
    rw [List.any_eq_false]
    intro o ho
    simpa [Option.isSome_iff_ne_none] using hoffs o ho
  have hplace' : subPlace (takeRequest m s) m.src = some k := hplace
  dsimp only
  rw [if_neg (by omega), hany, hplace']
  rfl

/-- The first part of a body that more parts follow starts its assembly. -/
theorem exec_continuationPart {s : State} {d : Datagram} {op : W16} {n : W64} {total off len : Nat} {ok : Bool} {k : Nat} {a : Assembly}
    (hears : millerHears s op.toNat = true) (packet : millerPacket s d = true) (h0 : 0 < len) (h1016 : len ≤ 1016) (hin : off + len ≤ total)
    (hjoin : joinAssembly s op.toNat n true total = some (k, a)) (hparts : a.parts = []) (hmore : len < total) :
    exec (.continuationPart d op n true total off len ok) s =
      .next { s with mil := { s.mil with assemblies := s.mil.assemblies.set k { a with parts := [(off, len)] } } } := by
  change execContinuationPart d op n true total off len ok s = _
  have hchecks : ¬(!(millerHears s op.toNat) ∨ !(millerPacket s d) ∨ len = 0 ∨ (if true then 1016 else 1020) < len ∨ total < off + len) := by
    simp [hears, packet]
    omega
  unfold execContinuationPart
  rw [if_neg hchecks, hjoin]
  simp [hparts, hmore]

/-- Settles O40: what each request reads, who is pushed to, and what the link and the clock messages set. -/
theorem millerReads : Obligations.MillerReads := by
  intro s m
  refine ⟨fun hears packet form => ?_, fun nonce hears packet form signer hc => ?_, fun off count turn h0 h64 hr => ?_, fun flash first turn => ?_,
    fun first turn => ?_, fun sev period offs k turn hlen hper hoffs hplace => ?_, fun k => ⟨fun x hx hper hlink => ?_, ?_, ?_⟩,
    fun d op n total off len ok k a hears packet h0 h1016 hin hjoin hparts hmore => ?_, fun up => ⟨_, rfl, rfl, rfl, rfl, rfl⟩,
    fun dom time lock hlink hen hstate => ⟨fun hdom => ?_, fun hdom => ?_⟩, fun hphase hview => ?_⟩
  · change execMillerHello m s = _
    simp [execMillerHello, hears, packet, form, replyOf]
  · refine ⟨(freshColophon nonce s).2, (freshColophon nonce s).1, ?_, rfl, rfl, rfl, rfl, rfl⟩
    change execColophon m nonce s = _
    simp [execColophon, signer, hears, packet, form, hc]
  · refine ⟨_, _, exec_regread turn h0 h64 hr, length_readRegs .., ?_, fun hone => ?_⟩
    · obtain ⟨n, rfl⟩ := Nat.exists_eq_succ_of_ne_zero h0.ne'
      obtain ⟨v, hv⟩ := Option.isSome_iff_exists.mp hr
      simp [readRegs, hv]
    · subst hone
      rfl
  · refine ⟨_, _, exec_evread turn, ?_, fun e he => mem_eventsFrom he, ?_, ?_⟩
    · exact List.length_take_le ..
    · cases flash <;> rfl
    · cases flash <;> rfl
  · change execDefread m first s = _
    rw [execDefread, plainRequest]
    exact milRequest_now turn (.inl rfl) rfl
  · exact ⟨_, _, exec_subscribe turn hlen hper hoffs hplace, Tbl.find?_set_same .., rfl, rfl, rfl, rfl⟩
  · change execTelemetryPush k s = _
    simp [execTelemetryPush, hx, hper, hlink]
  · exact ⟨_, rfl, Tbl.find?_erase_same .., rfl⟩
  · exact ⟨_, rfl, Tbl.find?_erase_same .., rfl⟩
  · exact ⟨_, _, exec_continuationPart hears packet h0 h1016 hin hjoin hparts hmore, Tbl.find?_set_same .., rfl, rfl⟩
  · refine ⟨{ s with mil := { s.mil with ptpNs := time.toNat, ptpLocked := lock } }, ?_, rfl, rfl, rfl⟩
    change execPtpMessage dom time lock s = _
    rw [execPtpMessage, if_pos (by simp only [hlink, hen, hstate, hdom, beq_self_eq_true, Bool.and_self])]
  · change execPtpMessage dom time lock s = _
    rw [execPtpMessage, if_neg (by simp only [beq_eq_false_iff_ne.mpr hdom, Bool.and_false, Bool.false_eq_true, not_false_eq_true])]
  · change execEnergyEvent s = _
    rw [execEnergyEvent, if_pos ⟨hphase, hview⟩]

end Sys2Proof.Machine
end

section
/-! # Firmware and calibration (R372, R373, R452, R480, R481, R501) -/

namespace Sys2Proof.Machine

open Sys2Proof

@[simp] theorem boot_flashWrite (s : State) : (flashWrite s).boot = s.boot := rfl

@[simp] theorem boot_logVerified (s : State) (img : FwImage) (k : Nat) : (logVerified s img k).boot = s.boot := by simp [logVerified]

@[simp] theorem mem_logVerified (s : State) (img : FwImage) (k : Nat) : (logVerified s img k).mem = s.mem := by simp [logVerified]

/-! ## Staging through a host port (R372, R373) -/

/-- The staging that a first block starts. -/
def firstBlock (id : W32) (blocks b : Nat) (bytes : List W8) (img : FwImage) : Staging :=
  { fromPort := true, imageId := id, blocks := blocks, have_ := [b], data := [(b, bytes)], img := img, verified := none, idle := false }

/-- An image that has been verified. -/
def Staging.checked (x : Staging) (k : Nat) : Staging := { x with verified := some k }

/-- The staging partition is written. -/
def staged (x : Option Staging) (s : State) : State := { flashWrite s with boot := { s.boot with staging := x } }

theorem mem_staged (x : Option Staging) (s : State) : (staged x s).mem = s.mem := rfl
theorem staging_staged (x : Option Staging) (s : State) : (staged x s).boot.staging = x := rfl
theorem mem_takeRequest (m : MilHdr) (s : State) : (takeRequest m s).mem = s.mem := rfl

section
variable {s : State} {p : Fin 2} {d : Datagram} {id blk blks : W32} {bytes : List W8} {img : FwImage} (hears : portHears s p = true)
  (packet : packetOk s p true d = true) (crc : d.crcOk = true)
include hears packet crc

/-- A first block on a port that installs firmware starts a staging. -/
theorem exec_fwdata (ready : isReady s = true) (permitted : s.sec.frisket.keypol.getLsbD 1 = true) (hblk : blk.toNat < blks.toNat)
    (hblks : blks.toNat ≤ 65536) (hrecal : recalRuns s = false) (hst : s.boot.staging = none) :
    exec (.fwdata p d id blk blks true false bytes img) s = .next (
      if blks.toNat = 1 then
        logVerified (staged (some ((firstBlock id blks.toNat blk.toNat bytes img).checked (verifyImage s img))) s) img (verifyImage s img)
      else staged (some (firstBlock id blks.toNat blk.toNat bytes img)) s) := by
  change execFwdata p d id blk blks true false bytes img s = _
  rw [execFwdata, hearPacket_acts hears packet crc]
  dsimp only
  rw [if_neg (by simp only [ready, permitted, hrecal]; simp; omega)]
  simp only [joinStaging, hst, List.contains_nil, Bool.false_eq_true, if_false, stageBlock, Staging.whole, List.nil_append, List.length_singleton,
    decide_eq_true_eq, eq_comm (a := 1)]
  rfl

theorem exec_fwdata_busy : exec (.fwdata p d id blk blks true true bytes img) s = .next s := by
  change execFwdata p d id blk blks true true bytes img s = _
  rw [execFwdata, hearPacket_acts hears packet crc]
  simp

/-- A query about an image that has been judged is answered at once, another one waits for its repair list. -/
theorem exec_fwstatus {x : Staging} (ready : isReady s = true) (hlen : 1104 ≤ d.udpLen) (hst : s.boot.staging = some x) (hport : x.fromPort = true) :
    (∀ k, x.verified = some k → exec (.fwstatus p d x.imageId) s = .next (rateReply s p d.src (.fwstatus p d.src k)))
    ∧ (x.verified = none → exec (.fwstatus p d x.imageId) s = .next (s.updHost p (fun h => { h with fwQueries := h.fwQueries ++ [d.src] }))) := by
  have run : exec (.fwstatus p d x.imageId) s = execFwstatus p d x.imageId s := rfl
  rw [run, execFwstatus, hearPacket_acts hears packet crc, if_neg (by simp [ready]; omega), hst]
  simp only [hport, Bool.not_true, Bool.false_eq_true, ne_eq, not_true_eq_false, or_self, if_false]
  exact ⟨fun k hk => by rw [hk], fun hnone => by rw [hnone]⟩

end

theorem verifyImage_eq (s : State) (img : FwImage) :
    verifyImage s img = if img.sigOk = false then 2 else if img.secver < s.sec.frisket.fwFloor then 3 else 1 := by
  simp [verifyImage]

/-! ## Firmware over the management port (R452, R501) -/

section
variable {s : State} {m : MilHdr}

/-- The staging that FWSTAGE makes. -/
def wholeImage (img : FwImage) : Staging := { fromPort := false, imageId := 0, blocks := 0, have_ := [], img := img, verified := some 1 }

theorem exec_fwstage {img : FwImage} (turn : MilTurn s m 0x0050 .operator) (hrecal : recalRuns s = false) (hst : s.boot.staging = none) :
    exec (.fwstage m img) s = .next (milAnswered m 0x0050
      (if verifyImage s img = 1 then 0 else if verifyImage s img = 2 then 5 else 3) (if verifyImage s img = 1 then [] else [verifyImage s img])
      (logVerified (staged (if verifyImage s img = 1 then some (wholeImage img) else none) (takeRequest m s)) img (verifyImage s img))) := by
  have hst' : (takeRequest m s).boot.staging = none := hst
  have hrecal' : recalRuns (takeRequest m s) = false := hrecal
  change execFwstage m img s = _
  rw [execFwstage, plainRequest]
  refine milRequest_now turn (.inl rfl) ?_
  simp only [hst', hrecal', Bool.false_eq_true, or_self, if_false]
  rfl

theorem exec_fwactivate {kind : FwKind} {x : Staging} (turn : MilTurn s m 0x0051 .operator) (ready : isReady s = true)
    (hphase : s.sec.phase = .noJob) (hscrub : s.sec.scrubPending = false) (hst : s.boot.staging = some x) (hver : x.verified = some 1)
    (hkind : x.img.kind = kind) : exec (.fwactivate m kind) s = .next (milAnswered m 0x0051 1 [] { flashWrite (takeRequest m s) with
      boot := { s.boot with staging := none, fw := s.boot.fw.set (fwIndex kind) ((s.boot.fw.getD (fwIndex kind) {}).install x.img) } }) := by
  have hst' : (takeRequest m s).boot.staging = some x := hst
  have hphase' : (takeRequest m s).sec.phase = .noJob := hphase
  have hscrub' : (takeRequest m s).sec.scrubPending = false := hscrub
  change execFwactivate m kind s = _
  rw [execFwactivate, plainRequest]
  refine milRequest_now turn (.inr ready) ?_
  simp only [hst', hphase', hscrub', hver, hkind, reduceCtorEq, Bool.false_eq_true, or_self, if_false, ne_eq, not_true_eq_false]
  rfl

theorem exec_restart (turn : MilTurn s m 0x0052 .operator) (hphase : s.sec.phase = .noJob) (hscrub : s.sec.scrubPending = false) :
    exec (.restart m) s = .next (milAnswered m 0x0052 1 [] (powerUp (losePower [] (takeRequest m s)))) := by
  have hphase' : (takeRequest m s).sec.phase = .noJob := hphase
  have hscrub' : (takeRequest m s).sec.scrubPending = false := hscrub
  change execRestart m s = _
  rw [execRestart, plainRequest]
  refine milRequest_now turn (.inl rfl) ?_
  simp only [hphase', hscrub', reduceCtorEq, Bool.false_eq_true, or_self, if_false]

theorem exec_restart_admitted (turn : MilTurn s m 0x0052 .operator) (hphase : s.sec.phase = .admitted) :
    exec (.restart m) s = .next (milAnswered m 0x0052 3 [] (takeRequest m s)) := by
  have hphase' : (takeRequest m s).sec.phase = .admitted := hphase
  change execRestart m s = _
  rw [execRestart, plainRequest]
  refine milRequest_now turn (.inl rfl) ?_
  simp only [hphase', true_or, if_true]

theorem exec_recal (turn : MilTurn s m 0x0041 .both) (hphase : s.sec.phase = .noJob) (hscrub : s.sec.scrubPending = false)
    (hrecal : recalRuns s = false) (ready : isReady s = true) (hst : s.boot.staging = none) :
    exec (.recal m s.part.serial) s =
      .next (milAnswered m 0x0041 1 [] { takeRequest m s with boot := { s.boot with calPhase := 1, calResult := 0 } }) := by
  have hphase' : (takeRequest m s).sec.phase = .noJob := hphase
  have hscrub' : (takeRequest m s).sec.scrubPending = false := hscrub
  have hrecal' : recalRuns (takeRequest m s) = false := hrecal
  have ready' : isReady (takeRequest m s) = true := ready
  have hst' : (takeRequest m s).boot.staging = none := hst
  have hserial : (takeRequest m s).part.serial = s.part.serial := rfl
  change execRecal m s.part.serial s = _
  rw [execRecal, plainRequest]
  refine milRequest_now turn (.inl rfl) ?_
  dsimp only
  rw [if_neg (by simp [hphase', hscrub']), if_neg (by simp [hrecal']), if_neg (by simp [ready']), if_neg (by simp [hserial]),
    if_neg (by simp [hst'])]
  rfl

theorem exec_recalabort (turn : MilTurn s m 0x0042 .either) (hlo : 1 ≤ s.boot.calPhase) (hhi : s.boot.calPhase ≤ 3) :
    exec (.recalabort m) s =
      .next (milAnswered m 0x0042 0 [] { takeRequest m s with boot := { s.boot with calPhase := 0, calResult := 3 } }) := by
  have hcal : 1 ≤ (takeRequest m s).boot.calPhase ∧ (takeRequest m s).boot.calPhase ≤ 3 := ⟨hlo, hhi⟩
  change execRecalabort m s = _
  rw [execRecalabort, plainRequest]
  refine milRequest_now turn (.inl rfl) ?_
  rw [if_pos hcal, abortRecal, if_pos hcal]
  rfl

end

/-! ## A power loss and the power-up behind it (R459) -/

theorem bootNo_losePower (s : State) (why : List Nat) : (losePower why s).boot.bootNo = s.boot.bootNo := by
  unfold losePower
  dsimp only
  split <;> simp [resetDies, renewReserve]

theorem mem_losePower (s : State) (why : List Nat) : (losePower why s).mem = [] := by
  unfold losePower
  dsimp only
  split <;> simp [resetDies, renewReserve]

theorem mem_powerUp (s : State) : (powerUp s).mem = s.mem := rfl
theorem stage_powerUp (s : State) : (powerUp s).boot.stage = 0 := rfl
theorem bootNo_powerUp (s : State) : (powerUp s).boot.bootNo = s.boot.bootNo + 1 := rfl

/-! ## The end of a re-calibration (R481) -/

/-- The calibration of a Stone after a new set is in force. -/
def calibrated (x : CalSet) (v : StonePwr) (n : Nat) : StonePwr :=
  { v with ts := x.ts.getD n [], k := x.k.getD n [], delay := x.delay.getD n [], guard := x.guard.getD n [], cMax := x.cMax.getD n 0
           taps := List.replicate 15 0, trims := 0 }

theorem stone_commitStone (x : CalSet) (s : State) (n k : Nat) :
    (commitStone x s n).stone k = if k = n then calibrated x (s.stone n) n else s.stone k := by
  by_cases h : k = n
  · subst h; simp [commitStone, State.updStone, calibrated]
  · simp [commitStone, State.updStone, State.stone_setStone_ne _ _ _ _ h, h]

theorem stone_commitAll (x : CalSet) (m k : Nat) (s : State) :
    ((List.range m).foldl (commitStone x) s).stone k = if k < m then calibrated x (s.stone k) k else s.stone k := by
  induction m with
  | zero => rfl
  | succ m ih =>
    rw [List.range_succ, List.foldl_append, List.foldl_cons, List.foldl_nil, stone_commitStone]
    by_cases hk : k = m
    · subst hk
      rw [if_pos rfl, ih, if_neg (Nat.lt_irrefl k), if_pos (Nat.lt_succ_self k)]
    · rw [if_neg hk, ih]
      have : (k < m + 1) ↔ k < m := by omega
      simp only [this]

theorem stone_writeCal (x : CalSet) (s : State) (n : Nat) (hn : n < 4) : (writeCal x s).stone n = calibrated x (s.stone n) n :=
  (stone_commitAll x 4 n (flashWrite s)).trans (if_pos hn)

theorem mem_writeCal (x : CalSet) (s : State) : (writeCal x s).mem = s.mem :=
  mem_of_outside (outside_writeCal (K := [.boot, .pwr, .out]) rfl s x)

/-- The state in which bring-up starts again from the Stones with a new set. -/
def recalibrated (y : CalSet) (s : State) : State :=
  { writeCal y s with boot := { (writeCal y s).boot with
      stage := 3, failStage := 0, stonesEn := 0, stonesTested := [], broadcast := false, linkDone := false, quernMap := [] } }

section
variable {s : State} (hrecal : recalRuns s = true)
include hrecal

theorem exec_recalDone_phase {ph : Fin 6} (pass : Bool) (x : CalSet) (hph : ph.val < 4) (hlt : s.boot.calPhase < ph.val) :
    exec (.recalDone ph pass x) s = .next { s with boot := { s.boot with calPhase := ph.val } } := by
  change execRecalDone ph pass x s = _
  simp only [execRecalDone, hrecal, if_pos hph, if_pos hlt, Bool.not_true, Bool.false_eq_true, if_false]

theorem exec_recalDone_measured (pass : Bool) (x : CalSet) (hnone : s.boot.calStaged = none) : exec (.recalDone 4 pass x) s = .next (
    if pass = true ∧ calMeets x s = true then { flashWrite s with boot := { s.boot with calPhase := 4, calStaged := some x } }
    else failCal x s) := by
  change execRecalDone 4 pass x s = _
  simp only [execRecalDone, hrecal, hnone, Bool.not_true, Bool.false_eq_true, if_false, show (4 : Fin 6).val = 4 from rfl, Nat.lt_irrefl, true_and]
  split <;> rfl

theorem exec_recalDone_copied (pass : Bool) (x : CalSet) {y : CalSet} (hy : s.boot.calStaged = some y) :
    exec (.recalDone 5 pass x) s = .next (recalibrated y s) := by
  change execRecalDone 5 pass x s = _
  simp only [execRecalDone, hrecal, hy, Bool.not_true, Bool.false_eq_true, if_false, show (5 : Fin 6).val = 5 from rfl]
  rfl

end

/-- Settles O43: each step of a staging, an activation, a restart and a re-calibration. -/
theorem firmwareAndCalibration : Obligations.FirmwareAndCalibration := by
  intro s
  refine ⟨fun p d id blk blks bytes img hears packet crc ready permitted hblk hblks hrecal hst =>
      ⟨fun hmore => ?_, fun hone => ?_, exec_fwdata_busy hears packet crc⟩,
    fun x hst => ⟨?_, fun p d hears packet crc ready hlen hport => ⟨(exec_fwstatus hears packet crc ready hlen hst hport).1, fun hnone => ?_⟩, fun p dst rest b bs hc hq hnone hmiss => ?_⟩,
    fun m img turn hrecal hst => ⟨fun hsig hfloor => ?_, fun hsig => ?_⟩, fun m kind x turn ready hphase hscrub hst hver hkind => ?_,
    fun m turn => ⟨fun hphase hscrub => ?_, fun hphase => ?_⟩, fun m turn hphase hscrub hrecal ready hst => ?_, fun m turn hlo hhi => ?_,
    fun pass x hrecal => ⟨fun ph hph hlt => ?_, fun hnone => ⟨?_, fun hpace => ?_⟩, fun y hy => ?_⟩⟩
  · refine ⟨staged (some (firstBlock id blks.toNat blk.toNat bytes img)) s, ?_, rfl, rfl⟩
    rw [exec_fwdata hears packet crc ready permitted hblk hblks hrecal hst, if_neg hmore.ne']
  · refine ⟨logVerified (staged (some ((firstBlock id blks.toNat blk.toNat bytes img).checked (verifyImage s img))) s) img (verifyImage s img),
      (firstBlock id blks.toNat blk.toNat bytes img).checked (verifyImage s img), ?_, ?_, ?_, ?_⟩
    · rw [exec_fwdata hears packet crc ready permitted hblk hblks hrecal hst, if_pos hone]
    · rw [mem_logVerified, mem_staged]
    · rw [boot_logVerified, staging_staged]
    · rw [← verifyImage_eq]; rfl
  · refine ⟨{ s with boot := { s.boot with staging := some { x with idle := true } } }, ?_, rfl, rfl⟩
    change execFirmwareStagingIdle s = _
    simp only [execFirmwareStagingIdle, hst]
  · exact ⟨_, (exec_fwstatus hears packet crc ready hlen hst hport).2 hnone, by simp [State.updHost], by simp [State.updHost]⟩
  · refine ⟨s.updHost p (fun h => { h with fwQueries := rest }), ?_, by simp [State.updHost], by simp [State.updHost]⟩
    change execFwrepair p s = _
    rw [execFwrepair, whileClocked_runs hc]
    simp only [hq, hst, hnone, hmiss, List.length_cons]
  · have hk : verifyImage s img = 1 := by rw [verifyImage_eq, if_neg (by simp [hsig]), if_neg hfloor]
    refine ⟨logVerified (staged (some (wholeImage img)) (takeRequest m s)) img 1, wholeImage img, ?_, ?_, rfl, rfl, ?_⟩
    · rw [exec_fwstage turn hrecal hst, hk]
      rfl
    · rw [boot_logVerified, staging_staged]
    · rw [mem_logVerified, mem_staged, mem_takeRequest]
  · have hk : verifyImage s img = 2 := by rw [verifyImage_eq, if_pos hsig]
    refine ⟨logVerified (staged none (takeRequest m s)) img 2, ?_, ?_, ?_⟩
    · rw [exec_fwstage turn hrecal hst, hk]
      rfl
    · rw [boot_logVerified, staging_staged]
    · rw [mem_logVerified, mem_staged, mem_takeRequest]
  · refine ⟨_, exec_fwactivate turn ready hphase hscrub hst hver hkind, ?_, ?_, ?_⟩
    · rfl
    · rfl
    · rfl
  · refine ⟨_, exec_restart turn hphase hscrub, stage_powerUp _, ?_, ?_⟩
    · rw [bootNo_powerUp, bootNo_losePower]
      rfl
    · rw [mem_powerUp, mem_losePower]
  · exact exec_restart_admitted turn hphase
  · refine ⟨_, exec_recal turn hphase hscrub hrecal ready hst, rfl, ?_, rfl⟩
    simp [isReady]
  · exact ⟨_, exec_recalabort turn hlo hhi, rfl, rfl, rfl, rfl⟩
  · exact exec_recalDone_phase hrecal pass x hph hlt
  · rw [exec_recalDone_measured hrecal false x hnone, if_neg (by simp)]
    rfl
  · have hmeets : calMeets x s = true := by
      rw [calMeets, List.all_eq_true]
      exact fun n hn => hpace n (List.mem_range.mp hn)
    refine ⟨{ flashWrite s with boot := { s.boot with calPhase := 4, calStaged := some x } }, ?_, rfl, rfl, rfl, rfl⟩
    rw [exec_recalDone_measured hrecal true x hnone, if_pos ⟨rfl, hmeets⟩]
  · refine ⟨_, exec_recalDone_copied hrecal pass x hy, rfl, rfl, rfl, rfl, mem_writeCal y s, fun n hn => ?_⟩
    have hstone : (recalibrated y s).stone n = calibrated y (s.stone n) n := stone_writeCal y s n hn
    rw [hstone]
    exact ⟨rfl, rfl, rfl, rfl⟩

end Sys2Proof.Machine
end

section
/-! # The power controller, the throttle, heat and ageing (R414 to R429) -/

namespace Sys2Proof.Machine

open Sys2Proof

theorem stone_of_outside {K : List Component} {s t : State} (h : t.outside K = s.outside K) (n : Nat)
    (hk : Component.pwr ∉ K := by decide) : t.stone n = s.stone n := by
  have pwr : t.pwr = s.pwr := same_of_outside h hk
  simp only [State.stone, pwr]

/-! ## The Stones beside the rest of the power state -/

/-- The power state without its Stones. -/
def State.besideStones (s : State) : Power := { s.pwr with stones := [] }

@[simp] theorem besideStones_setStone (s : State) (n : Nat) (v : StonePwr) : (s.setStone n v).besideStones = s.besideStones := rfl
@[simp] theorem besideStones_updStone (s : State) (n : Nat) (f : StonePwr → StonePwr) : (s.updStone n f).besideStones = s.besideStones := rfl
@[simp] theorem besideStones_logEvent (s : State) (code scope id : Nat) (detail : List Nat) :
    (logEvent s code scope id detail).besideStones = s.besideStones := by simp [State.besideStones]

@[simp] theorem besideStones_setCode (n code : Nat) (s : State) : (setCode n code s).besideStones = s.besideStones := by
  rw [setCode]
  split <;> rfl

@[simp] theorem besideStones_learn (n powerW : Nat) (s : State) : (learn n powerW s).besideStones = s.besideStones := rfl

theorem stone_setStone (s : State) (n : Nat) (v : StonePwr) (m : Nat) : (s.setStone n v).stone m = if m = n then v else s.stone m := by
  split
  · next h => rw [h, State.stone_setStone_same]
  · next h => exact State.stone_setStone_ne s n m v h

@[simp] theorem stone_pacedNow (s : State) (n : Nat) : (pacedNow s).stone n = s.stone n := by
  unfold pacedNow
  extract_lets held s1
  split
  · rfl
  · split
    · rw [stone_at_logEvent]
      rfl
    · rfl

/-! ## The controller (R416 to R418, R424) -/

/-- The targets that the ladder tries depend on the Stones, the ceiling and the cap only. -/
theorem ladder_congr {s t : State} (stones : t.pwr.stones = s.pwr.stones) (ceil : t.pwr.ceilCode = s.pwr.ceilCode) (cap : t.pwr.capW = s.pwr.capW)
    (en : t.boot.stonesEn = s.boot.stonesEn) (fixedW fuel : Nat) (x : Rat) : ladder t fixedW fuel x = ladder s fixedW fuel x := by
  have live : liveStones t = liveStones s := by rw [liveStones, liveStones, en]
  have stone : t.stone = s.stone := by funext n; rw [State.stone, State.stone, stones]
  induction fuel generalizing x with
  | zero => rfl
  | succ fuel ih =>
    have power : predict t fixedW x = predict s fixedW x := by rw [predict, predict, live, stone, ceil]
    have floor : atFloor t x = atFloor s x := by rw [atFloor, atFloor, live, stone]
    rw [ladder, ladder, power, floor, cap, ih]

theorem tMin_congr {s t : State} (stones : t.pwr.stones = s.pwr.stones) (ceil : t.pwr.ceilCode = s.pwr.ceilCode)
    (pace : t.pwr.paceEn = s.pwr.paceEn) (en : t.boot.stonesEn = s.boot.stonesEn) (part : t.part = s.part) : tMin t = tMin s := by
  have live : liveStones t = liveStones s := by rw [liveStones, liveStones, en]
  have stone : t.stone = s.stone := by funext n; rw [State.stone, State.stone, stones]
  rw [tMin, tMin, live, stone, ceil, pace, part]

/-- What a period's measured powers leave behind, when no Stone is too hot. -/
def measured (fixedW : Nat) (w : List Nat) (s : State) : State :=
  let s1 := (liveStones s).foldl (fun s n => learn n (w.getD n 0) s) s
  { s1 with pwr := { s1.pwr with
    fixedW := fixedW, basis := none, hotSteps := 0, thermalLimited := false, energyUj := s1.pwr.energyUj + (fixedW + w.sum) * 100 } }

/-- The state in which a period's target is set, when no Stone is too hot. -/
def periodEnd (fixedW : Nat) (w : List Nat) (s : State) : State :=
  let u := measured fixedW w s
  { u with pwr := { u.pwr with capLimited := decide (tMin u < ladder u fixedW 400 (tMin u)) } }

theorem exec_controllerPeriod {s : State} (fixedW : Nat) (w : List Nat) (live : liveStones s ≠ [])
    (cool : ∀ n ∈ liveStones s, (s.stone n).temp ≤ 100) : exec (.controllerPeriod fixedW w) s =
      .next (applyTarget (ladder (periodEnd fixedW w s) fixedW 400 (tMin (periodEnd fixedW w s))) (periodEnd fixedW w s)) := by
  have least : tMin (periodEnd fixedW w s) = tMin (measured fixedW w s) := tMin_congr rfl rfl rfl rfl rfl
  have notHot : (liveStones s).any (fun n => decide (100 < (s.stone n).temp)) = false := by
    simpa using cool
  have target := ladder_congr (t := periodEnd fixedW w s) (s := measured fixedW w s) rfl rfl rfl rfl fixedW 400
  rw [least, target]
  change execControllerPeriod fixedW w s = _
  unfold execControllerPeriod
  rw [notHot]
  dsimp only [Bool.false_and]
  rw [if_neg (by simpa using live)]
  rfl

theorem powerW_learn (n powerW : Nat) (s : State) : ((learn n powerW s).stone n).powerW = powerW := by
  rw [learn, stone_updStone_same]
  dsimp only
  split <;> rfl

theorem periodEnd_spec (fixedW : Nat) (w : List Nat) (s : State) : (periodEnd fixedW w s).pwr.hotSteps = 0
    ∧ (periodEnd fixedW w s).pwr.basis = none ∧ (periodEnd fixedW w s).pwr.fixedW = fixedW
    ∧ (periodEnd fixedW w s).pwr.energyUj = s.pwr.energyUj + (fixedW + w.sum) * 100 ∧ (periodEnd fixedW w s).mem = s.mem
    ∧ ∀ n ∈ liveStones s, ((periodEnd fixedW w s).stone n).powerW = w.getD n 0 := by
  have energy := congrArg Power.energyUj
    (foldl_keeps State.besideStones (fun s n => besideStones_learn n (w.getD n 0) s) (liveStones s) s)
  have mem := foldl_keeps State.mem (f := fun s n => learn n (w.getD n 0) s) (fun _ _ => rfl) (liveStones s) s
  refine ⟨rfl, rfl, rfl, congrArg (· + (fixedW + w.sum) * 100) energy, mem, ?_⟩
  refine foldl_establishes (f := fun s n => learn n (w.getD n 0) s) (P := fun n t => (t.stone n).powerW = w.getD n 0)
    (fun s n => powerW_learn n _ s) (fun s n m hm => ?_) (liveStones s) s
  by_cases h : m = n
  · rw [h, powerW_learn]
  · rwa [learn, State.updStone, stone_setStone, if_neg h]

/-- A regulator reading above 1.1 × CAP_W (R419). -/
theorem exec_regulatorReading (s : State) (avg : Nat) :
    (avg * 10 ≤ s.pwr.capW * 11 → exec (.regulatorReading avg) s = .next s)
    ∧ (s.pwr.capW * 11 < avg * 10 → liveStones s ≠ [] → exec (.regulatorReading avg) s = .next (applyTarget ((s.pwr.tsTarget : Rat) * 21 / 20)
        { s with pwr := { s.pwr with basis := some avg, capLimited := true } })) := by
  have run : exec (.regulatorReading avg) s = execRegulatorReading avg s := rfl
  rw [run, execRegulatorReading]
  exact ⟨fun low => if_neg (by omega), fun high live => if_pos ⟨high, by simpa using live⟩⟩

/-! ## The throttle (R420, R423, R519) -/

theorem throttle_setThrottle (n k : Nat) (s : State) :
    ((setThrottle n k s).stone n).throttle = if (s.stone n).hot then 15 else k := by
  rw [setThrottle, stone_updStone_same]

theorem hot_setThrottle (n k : Nat) (s : State) (m : Nat) : ((setThrottle n k s).stone m).hot = (s.stone m).hot := by
  rw [setThrottle, State.updStone, stone_setStone]
  split
  · next h => rw [h]
  · rfl

/-- Throttling ends: a Stone that is not hot runs unthrottled. -/
theorem unthrottled (s : State) : ∀ n ∈ liveStones s, (((liveStones s).foldl (fun s n => setThrottle n 0 s) s).stone n).throttle =
    if (s.stone n).hot then 15 else 0 := by
  intro n hn
  have hot : (((liveStones s).foldl (fun s n => setThrottle n 0 s) s).stone n).hot = (s.stone n).hot :=
    foldl_keeps (fun t => (t.stone n).hot) (fun t m => hot_setThrottle m 0 t n) _ s
  rw [← hot]
  refine foldl_establishes (f := fun s n => setThrottle n 0 s)
    (P := fun n t => (t.stone n).throttle = if (t.stone n).hot then 15 else 0) (fun s n => ?_) (fun s n m hm => ?_) (liveStones s) s n hn
  · rw [hot_setThrottle, throttle_setThrottle]
  · by_cases h : m = n
    · rw [h, hot_setThrottle, throttle_setThrottle]
    · rwa [setThrottle, State.updStone, stone_setStone, if_neg h]

/-- The step of 1 to 15 that a Stone is throttled by (assumption 9). -/
def throttleFreely (s : State) (n : Nat) : State := setThrottle n (1 + Config.throttle s.freeCtr % 15) s.nextFree

theorem throttle_throttleFreely (s : State) (n : Nat) :
    1 ≤ ((throttleFreely s n).stone n).throttle ∧ ((throttleFreely s n).stone n).throttle ≤ 15 := by
  rw [throttleFreely, throttle_setThrottle]
  split <;> omega

theorem throttled (l : List Nat) (s : State) :
    ∀ n ∈ l, 1 ≤ ((l.foldl throttleFreely s).stone n).throttle ∧ ((l.foldl throttleFreely s).stone n).throttle ≤ 15 := by
  refine foldl_establishes (P := fun n t => 1 ≤ (t.stone n).throttle ∧ (t.stone n).throttle ≤ 15)
    throttle_throttleFreely (fun s n m hm => ?_) l s
  by_cases h : m = n
  · rw [h]
    exact throttle_throttleFreely s n
  · rw [throttleFreely, setThrottle, State.updStone, stone_setStone, if_neg h]
    exact hm

section
variable {s : State} {w : List Nat} (basis : s.pwr.basis = none) (rails : s.pwr.railLost = []) (fault : s.pwr.estFault = false)
include basis rails fault

/-- An estimate is noted. -/
def estimated (s : State) (e : Nat) : State := { s with pwr := { s.pwr with estW := e } }

theorem exec_throttleEstimate_low (low : (w.sum + s.pwr.fixedW) * 10 < s.pwr.capW * 11) : exec (.throttleEstimate w) s =
    .next (pacedNow ((liveStones s).foldl (fun s n => setThrottle n 0 s) (estimated s (w.sum + s.pwr.fixedW)))) := by
  change execThrottleEstimate w s = _
  simp only [execThrottleEstimate, scaledEst, basis, rails, fault, Bool.false_eq_true, false_and, if_false, List.isEmpty_nil, if_true]
  rw [if_neg (by omega), if_pos low]
  simp only [estimated, basis, rails, fault]

theorem exec_throttleEstimate_high (high : s.pwr.capW * 12 < (w.sum + s.pwr.fixedW) * 10) : exec (.throttleEstimate w) s =
    .next (pacedNow ((liveStones s).foldl throttleFreely (estimated s (w.sum + s.pwr.fixedW)))) := by
  change execThrottleEstimate w s = _
  simp only [execThrottleEstimate, scaledEst, basis, rails, fault, Bool.false_eq_true, false_and, if_false, List.isEmpty_nil, if_true]
  rw [if_pos high]
  simp only [estimated, basis, rails, fault]
  rfl

end

/-! ## The estimator (R423) -/

theorem exec_estimatorFault (s : State) {est meas : Nat} (le : est ≤ meas) :
    ((meas - est) * 100 ≤ meas * 15 → ∃ t, exec (.estimatorFault est meas) s = .next t ∧ t.pwr.disagreeRun = 0 ∧ t.pwr.estFault = s.pwr.estFault
      ∧ t.pwr.ceilCode = s.pwr.ceilCode ∧ t.mem = s.mem)
    ∧ (meas * 15 < (meas - est) * 100 → s.pwr.disagreeRun = 50 → ∃ t, exec (.estimatorFault est meas) s = .next t ∧ t.pwr.disagreeRun = 0
      ∧ t.pwr.estFault = true ∧ t.pwr.estFaults = satAdd s.pwr.estFaults 1 255 ∧ t.pwr.ceilCode = max 20 (s.pwr.ceilCode - 10)
      ∧ t.mem = s.mem) := by
  have run : exec (.estimatorFault est meas) s = execEstimatorFault est meas s := rfl
  rw [run, execEstimatorFault, if_pos le]
  dsimp only
  refine ⟨fun agree => ?_, fun disagree run50 => ?_⟩
  · rw [if_neg (by omega : ¬ (meas - est) * 100 > meas * 15), if_pos (by omega)]
    exact ⟨_, rfl, rfl, rfl, rfl, rfl⟩
  · rw [if_pos (by omega : (meas - est) * 100 > meas * 15), run50, if_neg (by omega)]
    refine ⟨_, rfl, ?_⟩
    generalize hu : logEvent _ evEstimatorFault scPackage 0 [] = u
    have stones := foldl_keeps State.besideStones (fun s n => besideStones_setCode n (s.stone n).vcode s) (liveStones s) u
    have mem := foldl_keeps State.mem (fun s n => mem_of_outside (outside_setCode (K := [.pwr, .out]) rfl s n (s.stone n).vcode)) (liveStones s) u
    refine ⟨(congrArg Power.disagreeRun stones).trans ?_, (congrArg Power.estFault stones).trans ?_, (congrArg Power.estFaults stones).trans ?_,
      (congrArg Power.ceilCode stones).trans ?_, mem.trans ?_⟩ <;> simp [← hu, State.besideStones]

/-! ## Heat (R424) -/

theorem stone_drainSensor (cause scope id : Nat) (t limit : Int) (cs : List Nat) (s : State) (n : Nat) :
    (drainSensor cause scope id t limit cs s).stone n = s.stone n :=
  stone_of_outside (outside_drainSensor (K := .ctxs :: .pair :: eventsSet) rfl s cause scope id t limit cs) n

theorem stone_binSample (b : Nat) (t : Int) (s : State) (n : Nat) : (binSample b t s).stone n = s.stone n :=
  stone_of_outside (outside_binSample (K := .mm :: .ctxs :: .pair :: eventsSet) rfl s b t) n

/-- A sample of one Stone leaves the others. -/
theorem stone_stoneSample (k : Nat) (t : Int) (s : State) (n : Nat) : (stoneSample k t s).stone n =
    (s.updStone k (fun x => { x with
      temp := t, hot := decide (105 ≤ t), throttle := if 105 ≤ t then 15 else if x.hot then 0 else x.throttle })).stone n := by
  unfold stoneSample
  extract_lets was hot s1 s2
  rw [stone_drainSensor]
  have logged : s2.stone n = s1.stone n := by
    simp only [s2]
    split
    · exact stone_at_logEvent ..
    · rfl
  rw [logged]
  simp only [s1, hot, decide_eq_true_eq]

/-- What a sample makes of a Stone. -/
def Sampled (st : List Int) (n : Nat) (s : State) : Prop :=
  (s.stone n).temp = st.getD n 0 ∧ (105 ≤ st.getD n 0 → (s.stone n).throttle = 15)

theorem sampled_stoneSample (st : List Int) (s : State) (n : Nat) : Sampled st n (stoneSample n (st.getD n 0) s) := by
  unfold Sampled
  rw [stone_stoneSample, stone_updStone_same]
  exact ⟨rfl, fun hot => if_pos hot⟩

theorem sampled_keep (st : List Int) (s : State) (k n : Nat) (h : Sampled st n s) : Sampled st n (stoneSample k (st.getD k 0) s) := by
  by_cases eq : n = k
  · rw [eq]
    exact sampled_stoneSample st s k
  · unfold Sampled
    rw [stone_stoneSample, State.updStone, stone_setStone, if_neg eq]
    exact h

/-- The samples taken, before the contexts settle. -/
def sampled (st : List Int) (spur : Int) (bins : List Int) (s : State) : State :=
  let s1 := (List.range 4).foldl (fun s n => stoneSample n (st.getD n 0) s) s
  let s2 := drainSensor 4 scPackage 0 spur 105 (runningCtxs s1) { s1 with pwr := { s1.pwr with spurHot := decide (105 ≤ spur) } }
  (List.range 4).foldl (fun s b => binSample b (bins.getD b 0) s) s2

theorem exec_temperatureSample (st : List Int) (spur : Int) (bins : List Int) (s : State) :
    exec (.temperatureSample st spur bins) s = .next (pacedNow (settle (sampled st spur bins s))) := rfl

theorem mem_sampled (st : List Int) (spur : Int) (bins : List Int) (s : State) : (sampled st spur bins s).mem = s.mem :=
  mem_of_outside (K := .mm :: .ctxs :: .pwr :: .pair :: eventsSet) (by simp +decide [sampled])

theorem sampled_spec (st : List Int) (spur : Int) (bins : List Int) (s : State) : ∀ n < 4, Sampled st n (sampled st spur bins s) := by
  intro n hn
  have stone : (sampled st spur bins s).stone n = ((List.range 4).foldl (fun s n => stoneSample n (st.getD n 0) s) s).stone n := by
    rw [sampled, foldl_keeps (fun t => t.stone n) (fun t b => stone_binSample b (bins.getD b 0) t n), stone_drainSensor]
    rfl
  unfold Sampled
  rw [stone]
  exact foldl_establishes (sampled_stoneSample st) (sampled_keep st) (List.range 4) s n (List.mem_range.2 hn)

/-! ## Delay lines (R414, R429) -/

theorem exec_delaySettingChange {s : State} {n : Fin 4} {row : Fin 15} (en : s.boot.stonesEn.getLsbD n = true) (moved : (s.stone n).row ≠ row) :
    exec (.delaySettingChange n row) s = .next (s.setStone n { s.stone n with row := row, hold := (s.stone n).hold + 64 }) := by
  change execDelaySettingChange n row s = _
  rw [execDelaySettingChange, if_pos ⟨en, moved⟩, State.updStone]

/-- A Stone whose margin was low at a row, with one tap more there. -/
def StonePwr.trimmed (x : StonePwr) (row : Nat) (ts : W16) : StonePwr :=
  { x with tsRef := ts, agePermil := Machine.agePermil ts.toNat x.tsRef0.toNat
           taps := x.taps.set row (x.taps.getD row 0 + 1), trims := satAdd x.trims 1 255, hold := x.hold + 64 }

theorem exec_ageingSample {s : State} {n : Fin 4} (en : s.boot.stonesEn.getLsbD n = true) (row : Fin 15) (ts : W16) :
    exec (.ageingSample n row true ts) s = .next ((flashWrite s).setStone n ((s.stone n).trimmed row ts)) := by
  change execAgeingSample n row true ts s = _
  rw [execAgeingSample, en]
  simp only [Bool.not_true, Bool.false_eq_true, if_false, if_true]
  rfl

/-- Settles O44: each event of the power controller by the equation of its command; what it leaves alone is outside the components it touches. -/
theorem powerIsControlled : Obligations.PowerIsControlled := by
  intro s
  refine ⟨fun fixedW w live cool => ?_, exec_regulatorReading s, fun w basis rails fault => ⟨fun low => ?_, fun high => ?_⟩,
    fun est meas => exec_estimatorFault s, fun st spur bins => ?_, fun n row en => ⟨exec_delaySettingChange en, fun ts => ?_⟩⟩
  · exact ⟨_, exec_controllerPeriod fixedW w live cool, periodEnd_spec fixedW w s⟩
  · refine ⟨_, exec_throttleEstimate_low basis rails fault low, ?_, ?_⟩
    · exact mem_of_outside (K := .pwr :: eventsSet) (by simp +decide [estimated])
    · intro n hn
      rw [stone_pacedNow]
      exact unthrottled (estimated s (w.sum + s.pwr.fixedW)) n hn
  · refine ⟨_, exec_throttleEstimate_high basis rails fault high, ?_, ?_⟩
    · exact mem_of_outside (K := .freeCtr :: .pwr :: eventsSet) (by simp +decide [estimated, throttleFreely])
    · simpa only [stone_pacedNow] using throttled (liveStones s) (estimated s _)
  · exact ⟨_, exec_temperatureSample st spur bins s, mem_sampled st spur bins s, sampled_spec st spur bins s⟩
  · refine ⟨_, exec_ageingSample en row ts, ?_⟩
    rw [State.stone_setStone_same]
    exact ⟨rfl, rfl, rfl, rfl, rfl, rfl⟩

end Sys2Proof.Machine
end

section
/-! # Power-good, standby power, the thermal trip, rail monitors and boundary scan (R459, R513 to R516, R526, R529) -/

namespace Sys2Proof.Machine

open Sys2Proof

/-! ## What a loss of power leaves -/

theorem resetDies_spec (s : State) : (resetDies s).board = s.board ∧ (resetDies s).mem = [] ∧ (resetDies s).ctxs = [] ∧ (resetDies s).querns = []
    ∧ (resetDies s).sec.phase = .noJob ∧ (resetDies s).sec.keySlot = false ∧ (resetDies s).sec.scrubPending = s.sec.scrubPending
    ∧ (resetDies s).sec.frisket = s.sec.frisket ∧ (resetDies s).boot.bootNo = s.boot.bootNo ∧ (resetDies s).boot.defects = s.boot.defects :=
  ⟨rfl, rfl, rfl, rfl, rfl, rfl, rfl, rfl, rfl, rfl⟩

/-- CONTROL goes low where it was high. -/
def controlLow (s : State) : State := if s.board.control then s.emit (.control false) else s

theorem board_controlLow (s : State) : (controlLow s).board = s.board := by rw [controlLow]; split <;> rfl
theorem sec_controlLow (s : State) : (controlLow s).sec = s.sec := by rw [controlLow]; split <;> rfl
theorem boot_controlLow (s : State) : (controlLow s).boot = s.boot := by rw [controlLow]; split <;> rfl

/-- The board while the dies have no power. -/
def unpowered (b : Board) : Board := { b with control := false, haltedByClock := false, intact := true }

/-- The state in which the dies are reset. -/
def darkened (s : State) : State := { s with board := unpowered s.board }

theorem board_darkened (s : State) : (darkened s).board = unpowered s.board := rfl
theorem sec_darkened (s : State) : (darkened s).sec = s.sec := rfl
theorem boot_darkened (s : State) : (darkened s).boot = s.boot := rfl

theorem losePower_eq (why : List Nat) (s : State) :
    losePower why s = logEvent (resetDies (darkened (controlLow s))) evPwrgoodLost scPackage 0 why := rfl

theorem losePower_spec (why : List Nat) (s : State) : (losePower why s).board = unpowered s.board
    ∧ (losePower why s).mem = [] ∧ (losePower why s).ctxs = [] ∧ (losePower why s).querns = []
    ∧ (losePower why s).sec.phase = .noJob ∧ (losePower why s).sec.keySlot = false ∧ (losePower why s).sec.scrubPending = s.sec.scrubPending
    ∧ (losePower why s).sec.frisket = s.sec.frisket ∧ (losePower why s).boot.bootNo = s.boot.bootNo
    ∧ (losePower why s).boot.defects = s.boot.defects := by
  rw [losePower_eq, board_logEvent, mem_logEvent, ctxs_logEvent, querns_logEvent, sec_logEvent, boot_logEvent]
  have spec := resetDies_spec (darkened (controlLow s))
  rwa [board_darkened, sec_darkened, boot_darkened, board_controlLow, sec_controlLow, boot_controlLow] at spec

/-- PWRGOOD falls, for a reason: the pin, or a rail monitor. -/
def powerLost (why : List Nat) (s : State) : State :=
  { losePower why s with board := { (losePower why s).board with pwrgood := false } }

section
variable {s : State}

theorem exec_pwrgoodAssert (good : s.board.pwrgood = false) (trip : s.board.thermtrip = false) (scan : s.board.scan = false) :
    exec .pwrgoodAssert s = .next (powerUp { s with board := { s.board with vstby := true, pwrgood := true, refclk := 0xF } }) := by
  change execPwrgoodAssert s = _
  rw [execPwrgoodAssert, if_neg (by simp [good, trip, scan])]

theorem exec_pwrgoodDeassert (good : s.board.pwrgood = true) : exec .pwrgoodDeassert s = .next (powerLost [] s) := by
  change execPwrgoodDeassert s = _
  rw [execPwrgoodDeassert, if_neg (by simp [good])]
  rfl

theorem exec_railMonitorTrip (good : s.board.pwrgood = true) (rail : Nat) : exec (.railMonitorTrip rail) s = .next (powerLost [rail] s) := by
  change execRailMonitorTrip rail s = _
  rw [execRailMonitorTrip, if_neg (by simp [good])]
  rfl

theorem exec_boundaryScan (scan : s.board.scan = false) (vstby : s.board.vstby = true) (clamp : Bool) : exec (.boundaryScan clamp) s =
    .next { losePower [255] s with board := { (losePower [255] s).board with scan := true } } := by
  change execBoundaryScan clamp s = _
  rw [execBoundaryScan, if_neg (by simp [scan, vstby])]

theorem exec_testLogicReset (scan : s.board.scan = true) : exec .testLogicReset s =
    .next (if s.board.pwrgood then powerUp { s with board := { s.board with scan := false } } else { s with board := { s.board with scan := false } }) := by
  change execTestLogicReset s = _
  rw [execTestLogicReset, if_neg (by simp [scan])]

/-! ## The thermal trip (R529) -/

/-- CONTROL and every Stone rail go off at a thermal trip. -/
def tripped (s : State) : State :=
  let s1 := { s with board := { s.board with thermtrip := true, control := false } }.emit (.thermtrip true)
  stonesOff (if s.board.control then s1.emit (.control false) else s1)

theorem exec_thermtrip (trip : s.board.thermtrip = false) (vstby : s.board.vstby = true) :
    exec .thermtrip s = .next (logEvent (tripped s) evThermal scPackage 0 [1]) := by
  change execThermtrip s = _
  rw [execThermtrip, if_neg (by simp [trip, vstby])]
  rfl

theorem board_stonesOff (s : State) : (stonesOff s).board = s.board := rfl
theorem mem_stonesOff (s : State) : (stonesOff s).mem = s.mem := rfl

theorem vcode_stonesOff (s : State) (n : Nat) : ((stonesOff s).stone n).vcode = 0 := by
  simp only [State.stone, stonesOff, Tbl.getD, Tbl.find?_mapV]
  cases Tbl.find? s.pwr.stones n <;> rfl

theorem tripped_spec (s : State) : (tripped s).board.thermtrip = true ∧ (tripped s).board.control = false
    ∧ (∀ n, ((tripped s).stone n).vcode = 0) ∧ (tripped s).mem = s.mem := by
  unfold tripped
  extract_lets s1
  rw [board_stonesOff, mem_stonesOff]
  refine ⟨?_, ?_, vcode_stonesOff _, ?_⟩ <;> split <;> rfl

theorem exec_thermtripRelease (trip : s.board.thermtrip = true) :
    exec .thermtripRelease s = .next ({ s with board := { s.board with thermtrip := false } }.emit (.thermtrip false)) := by
  change execThermtripRelease s = _
  rw [execThermtripRelease, if_pos trip]

/-! ## Standby power (R506, R513) -/

theorem exec_vstbyLoss (s : State) : ∃ t, exec .vstbyLoss s = .next t ∧ t.board.vstby = false ∧ t.board.pwrgood = false ∧ t.mem = [] ∧ t.timeNs = 0
    ∧ t.sec.frisket = s.sec.frisket ∧ t.boot.defects = s.boot.defects ∧ t.mil.flashRing = s.mil.flashRing ∧ t.mil.ring = []
    ∧ t.board.freset = true ∧ t.board.fwp = true := by
  have run : exec .vstbyLoss s = execVstbyLoss s := rfl
  rw [run, execVstbyLoss]
  cases s.board.control <;> cases s.board.freset <;> exact ⟨_, rfl, rfl, rfl, rfl, rfl, rfl, rfl, rfl, rfl, rfl, rfl⟩

end

/-- Settles O47: each event by the equation of its command; what a loss of power leaves is said once, for the pin, the rail monitors and the
boundary scan. -/
theorem powerComesAndGoes : Obligations.PowerComesAndGoes := by
  intro s
  refine ⟨fun good trip scan => ⟨_, exec_pwrgoodAssert good trip scan, rfl, rfl, rfl, rfl, rfl, rfl⟩, fun good => ⟨?_, fun rail => ?_⟩,
    fun scan vstby clamp => ?_, fun scan => ⟨_, exec_testLogicReset scan, ?_, fun good => ?_⟩, fun trip vstby => ?_,
    exec_thermtripRelease, exec_vstbyLoss s⟩
  · obtain ⟨board, mem, ctxs, querns, phase, key, pending, frisket, bootNo, defects⟩ := losePower_spec [] s
    exact ⟨_, exec_pwrgoodDeassert good, rfl, by rw [powerLost, board]; rfl, mem, ctxs, querns, phase, key, pending, frisket, bootNo, defects⟩
  · obtain ⟨board, mem, ctxs, -, -, -, pending, -, -, -⟩ := losePower_spec [rail] s
    exact ⟨_, exec_railMonitorTrip good rail, rfl, by rw [powerLost, board]; rfl, mem, ctxs, pending⟩
  · obtain ⟨board, mem, ctxs, -⟩ := losePower_spec [255] s
    exact ⟨_, exec_boundaryScan scan vstby clamp, rfl, by rw [board]; rfl, mem, ctxs⟩
  · split <;> rfl
  · rw [if_pos good]
    exact ⟨rfl, rfl⟩
  · obtain ⟨trips, control, rails, mem⟩ := tripped_spec s
    refine ⟨_, exec_thermtrip trip vstby, ?_⟩
    simpa only [board_logEvent, stone_at_logEvent, mem_logEvent] using And.intro trips ⟨control, rails, mem⟩

end Sys2Proof.Machine
end

section
/-! # The Miller's boot and the tests of bring-up (R460 to R469) -/

namespace Sys2Proof.Machine

open Sys2Proof

/-! ## The images of a boot (R460, R501) -/

theorem bootSlot_none (x : FwSlots) {ok : Bool × Bool} (h : ok = (false, false)) : bootSlot x ok.1 ok.2 = none := by rw [h]; rfl

theorem bootSlot_some (x : FwSlots) {ok : Bool × Bool} (h : ok ≠ (false, false)) : ∃ b, bootSlot x ok.1 ok.2 = some b := by
  obtain ⟨okA, okB⟩ := ok
  cases okA <;> cases okB
  · exact absurd rfl h
  all_goals exact ⟨_, rfl⟩

/-- The choice of an image writes the slots of its kind, valid when one of them passes, and nothing else of the boot state. -/
theorem bootImage_boot (valid : List (FwKind × Bool × Bool)) (s : State) (kind : FwKind) :
    ∃ x : FwSlots, x.valid = decide (slotsPass s valid kind ≠ (false, false))
      ∧ (bootImage valid s kind).boot = { s.boot with fw := s.boot.fw.set (fwIndex kind) x }
      ∧ (bootImage valid s kind).mil.besideEvents = s.mil.besideEvents := by
  unfold bootImage
  extract_lets i x ok
  by_cases h : ok = (false, false)
  · rw [bootSlot_none x h]
    exact ⟨_, by simpa using h, rfl, rfl⟩
  · obtain ⟨b, hb⟩ := bootSlot_some x h
    rw [hb]
    refine ⟨{ x with valid := true, runB := b, newRun := x.newRun && !(x.newRun && b == x.preferB) }, by simpa using h, ?_, ?_⟩
    · dsimp only
      split
      · exact boot_logEvent _ _ _ _ _
      · rfl
    · dsimp only
      split
      · exact besideEvents_logEvent _ _ _ _ _
      · rfl

theorem imageRuns_bootImage (valid : List (FwKind × Bool × Bool)) (s : State) (kind : FwKind) (h : fwIndex kind < s.boot.fw.length) :
    imageRuns (bootImage valid s kind) kind = decide (slotsPass s valid kind ≠ (false, false)) := by
  obtain ⟨x, hx, boot, -⟩ := bootImage_boot valid s kind
  rw [← hx, imageRuns, boot]
  simp [h]

theorem imageRuns_bootImage_ne (valid : List (FwKind × Bool × Bool)) (s : State) {kind k : FwKind} (h : fwIndex kind ≠ fwIndex k) :
    imageRuns (bootImage valid s kind) k = imageRuns s k := by
  obtain ⟨x, -, boot, -⟩ := bootImage_boot valid s kind
  rw [imageRuns, boot, imageRuns]
  simp [List.getD_eq_getElem?_getD, List.getElem?_set_ne h]

/-- The boot state without its images. -/
def Boot.besideImages (b : Boot) : Boot := { b with fw := [] }

/-- The boot of images leaves a field of the boot state that is not the images. -/
theorem Boot.field_of_besideImages {α : Type} {a b : Boot} (h : a.besideImages = b.besideImages) (g : Boot → α)
    (hg : ∀ b : Boot, g b.besideImages = g b) : g a = g b := by rw [← hg a, h, hg]

theorem besideImages_bootImage (valid : List (FwKind × Bool × Bool)) (s : State) (kind : FwKind) :
    (bootImage valid s kind).boot.besideImages = s.boot.besideImages := by
  obtain ⟨x, -, boot, -⟩ := bootImage_boot valid s kind
  rw [boot]
  rfl

/-- Every kind's image is chosen. -/
def imaged (valid : List (FwKind × Bool × Bool)) (s : State) : State := [FwKind.miller, .spur, .quern, .serdes].foldl (bootImage valid) s

theorem imageRuns_imaged (valid : List (FwKind × Bool × Bool)) (s : State) (h : 0 < s.boot.fw.length) :
    imageRuns (imaged valid s) .miller = decide (slotsPass s valid .miller ≠ (false, false)) := by
  simp only [imaged, List.foldl_cons, List.foldl_nil]
  rw [imageRuns_bootImage_ne _ _ (by decide), imageRuns_bootImage_ne _ _ (by decide), imageRuns_bootImage_ne _ _ (by decide)]
  exact imageRuns_bootImage valid s .miller h

theorem besideImages_imaged (valid : List (FwKind × Bool × Bool)) (s : State) : (imaged valid s).boot.besideImages = s.boot.besideImages :=
  foldl_keeps (fun s => s.boot.besideImages) (besideImages_bootImage valid) _ s

theorem besideEvents_imaged (valid : List (FwKind × Bool × Bool)) (s : State) : (imaged valid s).mil.besideEvents = s.mil.besideEvents :=
  foldl_keeps (fun s => s.mil.besideEvents) (fun s kind => (bootImage_boot valid s kind).choose_spec.2.2) _ s

/-! ## The Miller's boot -/

theorem filterMap_getElem?_range {α : Type} (l : List α) : (List.range l.length).filterMap (fun i => l[i]?) = l := by
  induction l using List.reverseRecOn with
  | nil => rfl
  | append_singleton l a ih =>
    have front : (List.range l.length).filterMap (fun i => (l ++ [a])[i]?) = (List.range l.length).filterMap (fun i => l[i]?) :=
      List.filterMap_congr fun i hi => List.getElem?_append_left (List.mem_range.1 hi)
    rw [List.length_append, List.length_singleton, List.range_succ, List.filterMap_append, front, ih]
    simp

/-- The records whose CRC fails are dropped; without one the list stays. -/
theorem dropRecords_spec (bad : List Nat) (s : State) : ∃ keep, (bad = [] → keep = s.boot.defects)
    ∧ (dropRecords bad s).boot = { s.boot with defects := keep } ∧ (dropRecords bad s).mil.besideEvents = s.mil.besideEvents := by
  unfold dropRecords
  extract_lets n drop keep
  have kept (u : State) : (drop.foldl (fun s i => logEvent s evDefectsNearFull scPackage 0 [1, i]) u).boot = u.boot
      ∧ (drop.foldl (fun s i => logEvent s evDefectsNearFull scPackage 0 [1, i]) u).mil.besideEvents = u.mil.besideEvents :=
    ⟨foldl_keeps State.boot (fun s i => boot_logEvent ..) drop u, foldl_keeps (fun s => s.mil.besideEvents) (fun s i => besideEvents_logEvent ..) drop u⟩
  refine ⟨keep, fun hbad => ?_, (kept _).1, (kept _).2⟩
  have none : drop = [] := by simp only [drop, hbad, List.filter_nil, List.eraseDups_nil]
  simp only [keep, none, List.contains_nil, Bool.false_eq_true, if_false]
  exact filterMap_getElem?_range s.boot.defects

/-- The Miller after its boot ROM: flash open, a fresh BOOT_ID, damaged records dropped. -/
def opened (modes : List FlashMode) (recs : List Nat) (s : State) : State := dropRecords recs (freshMiller (openFlash modes s))

theorem board_openFlash (modes : List FlashMode) (s : State) :
    (openFlash modes s).board = { s.board with freset := false, flashMode := fastest modes } := by
  unfold openFlash
  dsimp only
  split <;> rfl

theorem boot_openFlash (modes : List FlashMode) (s : State) : (openFlash modes s).boot = s.boot :=
  same_of_outside (k := .boot) (outside_openFlash (K := [.board, .out]) rfl s modes) (by decide)

theorem boot_freshMiller (s : State) : (freshMiller s).boot = s.boot :=
  same_of_outside (k := .boot) (outside_freshMiller (K := [.freeCtr, .mil]) rfl s) (by decide)

theorem boot_freshOpen (modes : List FlashMode) (s : State) : (freshMiller (openFlash modes s)).boot = s.boot :=
  (boot_freshMiller _).trans (boot_openFlash modes s)

/-- What the images of a boot leave of the state. -/
theorem imaged_opened_spec (valid : List (FwKind × Bool × Bool)) (modes : List FlashMode) (recs : List Nat) (s : State) :
    (imaged valid (opened modes recs s)).boot.stage = s.boot.stage
    ∧ (recs = [] → (imaged valid (opened modes recs s)).boot.defects = s.boot.defects)
    ∧ (imaged valid (opened modes recs s)).mil.besideEvents = (freshMiller (openFlash modes s)).mil.besideEvents
    ∧ (imaged valid (opened modes recs s)).board = { s.board with freset := false, flashMode := fastest modes }
    ∧ (imaged valid (opened modes recs s)).mem = s.mem := by
  obtain ⟨keep, hkeep, boot, mil⟩ := dropRecords_spec recs (freshMiller (openFlash modes s))
  rw [boot_freshOpen] at hkeep boot
  have images := besideImages_imaged valid (opened modes recs s)
  refine ⟨?_, fun none => ?_, ?_, ?_, ?_⟩
  · rw [Boot.field_of_besideImages images Boot.stage fun _ => rfl, opened, boot]
  · rw [Boot.field_of_besideImages images Boot.defects fun _ => rfl, opened, boot]
    exact hkeep none
  · rw [besideEvents_imaged, opened, mil]
  · have board : (imaged valid (opened modes recs s)).board = (openFlash modes s).board :=
      same_of_outside (k := .board) (K := .freeCtr :: .sec :: .boot :: eventsSet) (by simp +decide [imaged, opened]) (by decide)
    rw [board, board_openFlash]
  · exact mem_of_outside (K := .freeCtr :: .sec :: .boot :: .board :: eventsSet) (by simp +decide [imaged, opened])

theorem slotsPass_congr {s t : State} (fw : t.boot.fw = s.boot.fw) (frisket : t.sec.frisket = s.sec.frisket) (valid : List (FwKind × Bool × Bool))
    (kind : FwKind) : slotsPass t valid kind = slotsPass s valid kind := by
  rw [slotsPass, slotsPass, fw, frisket]

theorem imageRuns_opened (valid : List (FwKind × Bool × Bool)) (modes : List FlashMode) (recs : List Nat) {s : State} (h : s.boot.fw.length = 4) :
    imageRuns (imaged valid (opened modes recs s)) .miller = decide (slotsPass s valid .miller ≠ (false, false)) := by
  obtain ⟨keep, -, boot, -⟩ := dropRecords_spec recs (freshMiller (openFlash modes s))
  have fw : (opened modes recs s).boot.fw = s.boot.fw := by rw [opened, boot, boot_freshOpen]
  have sec : (opened modes recs s).sec = s.sec :=
    sec_of_outside (K := .freeCtr :: .boot :: .board :: eventsSet) (by simp +decide [opened])
  rw [imageRuns_imaged valid _ (by rw [fw, h]; decide), slotsPass_congr fw (congrArg Sec.frisket sec)]

section
variable {s : State} (good : s.board.pwrgood = true) (stage : s.boot.stage = 0) (mstate : s.mil.mstate = 0) (scan : s.board.scan = false)
  (fw : s.boot.fw.length = 4) {valid : List (FwKind × Bool × Bool)} {modes : List FlashMode} {recs : List Nat} {crc serial : Bool}
include good stage mstate scan fw

/-- Without an image of its own that passes the Miller enters recovery. -/
theorem exec_millerBoot_recovery (fails : slotsPass s valid .miller = (false, false)) : exec (.millerBoot valid crc serial modes recs) s =
    .next { imaged valid (opened modes recs s) with mil := { (imaged valid (opened modes recs s)).mil with mstate := 2 } } := by
  change execMillerBoot valid crc serial modes recs s = _
  rw [execMillerBoot, if_neg (by simp [good, stage, mstate, scan])]
  have runs := imageRuns_opened valid modes recs fw
  rw [fails] at runs
  exact if_pos (congrArg (!·) runs)

/-- Bring-up goes on with the Spur. -/
def spurNext (bad : Bool) (s : State) : State :=
  if bad then logEvent { s with boot := { s.boot with stage := 1, calInvalid := bad } } evCalInvalid scPackage 0 []
  else { s with boot := { s.boot with stage := 1, calInvalid := bad } }

theorem exec_millerBoot_passes (passes : slotsPass s valid .miller ≠ (false, false)) : exec (.millerBoot valid crc serial modes recs) s =
    .next (spurNext ((!crc || !serial) && s.boot.calStaged.isNone) (completeCal (imaged valid (opened modes recs s)))) := by
  change execMillerBoot valid crc serial modes recs s = _
  rw [execMillerBoot, if_neg (by simp [good, stage, mstate, scan])]
  have runs : imageRuns (imaged valid (opened modes recs s)) .miller = true := by rw [imageRuns_opened valid modes recs fw]; simpa using passes
  exact if_neg (ne_true_of_eq_false (congrArg (!·) runs))

end

/-- What the Spur's turn leaves of a state whose calibration is settled. -/
theorem spurNext_spec (bad : Bool) (s : State) : (spurNext bad s).boot = { s.boot with stage := 1, calInvalid := bad }
    ∧ (spurNext bad s).mil.besideEvents = s.mil.besideEvents ∧ (spurNext bad s).board = s.board ∧ (spurNext bad s).mem = s.mem := by
  cases bad
  · exact ⟨rfl, rfl, rfl, rfl⟩
  · exact ⟨boot_logEvent .., besideEvents_logEvent .., board_logEvent .., mem_logEvent ..⟩

theorem boot_commitAll (x : CalSet) (l : List Nat) (s : State) : (l.foldl (commitStone x) s).boot = s.boot :=
  foldl_keeps State.boot (f := commitStone x) (fun _ _ => rfl) l s

theorem defects_writeCal (x : CalSet) (s : State) : (writeCal x s).boot.defects = s.boot.defects := by
  calc (writeCal x s).boot.defects = ((List.range 4).foldl (commitStone x) (flashWrite s)).boot.defects := rfl
    _ = s.boot.defects := by rw [boot_commitAll, boot_flashWrite]

theorem completeCal_spec (s : State) : (completeCal s).boot.calStaged = none ∧ (completeCal s).boot.defects = s.boot.defects
    ∧ (completeCal s).mil = s.mil ∧ (completeCal s).board = s.board ∧ (completeCal s).mem = s.mem := by
  have same := outside_completeCal (K := [.boot, .pwr, .out]) rfl s
  refine ⟨?_, ?_, same_of_outside (k := .mil) same (by decide), same_of_outside (k := .board) same (by decide), mem_of_outside same⟩
  · unfold completeCal
    split
    · rfl
    · assumption
  · unfold completeCal
    split
    · exact defects_writeCal ..
    · rfl

theorem mil_freshOpen (modes : List FlashMode) (s : State) : (freshMiller (openFlash modes s)).mil.mstate = 1
    ∧ (freshMiller (openFlash modes s)).mil.lastOwner = 0 ∧ (freshMiller (openFlash modes s)).mil.lastOperator = 0 := ⟨rfl, rfl, rfl⟩

/-- Events leave a field of the Miller that is none of theirs. -/
theorem Miller.field_of_besideEvents {α : Type} {x y : Miller} (h : x.besideEvents = y.besideEvents) (g : Miller → α)
    (hg : ∀ x : Miller, g x.besideEvents = g x) : g x = g y := by rw [← hg x, h, hg]

theorem fastest_octal {modes : List FlashMode} (h : FlashMode.octalDtr ∈ modes) : fastest modes = .octalDtr :=
  if_pos (List.contains_iff_mem.2 h)

section
variable {s : State} (good : s.board.pwrgood = true) (stage : s.boot.stage = 0) (mstate : s.mil.mstate = 0) (scan : s.board.scan = false)
  (fw : s.boot.fw.length = 4) {valid : List (FwKind × Bool × Bool)} {modes : List FlashMode} {recs : List Nat} {crc serial : Bool}
include good stage mstate scan fw

theorem millerBoot_recovers (fails : slotsPass s valid .miller = (false, false)) : ∃ t, exec (.millerBoot valid crc serial modes recs) s = .next t
    ∧ t.boot.stage = 0 ∧ t.mil.mstate = 2 ∧ t.board.freset = false ∧ t.mem = s.mem := by
  refine ⟨_, exec_millerBoot_recovery good stage mstate scan fw fails, ?_⟩
  obtain ⟨kept, -, -, board, mem⟩ := imaged_opened_spec valid modes recs s
  generalize imaged valid (opened modes recs s) = u at *
  exact ⟨kept.trans stage, rfl, by rw [board], mem⟩

theorem millerBoot_passes (passes : slotsPass s valid .miller ≠ (false, false)) : ∃ t, exec (.millerBoot valid crc serial modes recs) s = .next t
    ∧ t.boot.stage = 1 ∧ t.mil.mstate = 1 ∧ t.mil.lastOwner = 0 ∧ t.mil.lastOperator = 0
    ∧ (s.boot.calStaged = none → t.boot.calInvalid = (!crc || !serial)) ∧ t.boot.calStaged = none
    ∧ (recs = [] → t.boot.defects = s.boot.defects) ∧ t.board.freset = false
    ∧ (FlashMode.octalDtr ∈ modes → t.board.flashMode = .octalDtr) ∧ t.mem = s.mem := by
  refine ⟨_, exec_millerBoot_passes good stage mstate scan fw passes, ?_⟩
  obtain ⟨-, defects, mil, board, mem⟩ := imaged_opened_spec valid modes recs s
  obtain ⟨booted, owner, operator⟩ := mil_freshOpen modes s
  generalize imaged valid (opened modes recs s) = u at *
  obtain ⟨calStaged, calDefects, calMil, calBoard, calMem⟩ := completeCal_spec u
  generalize completeCal u = v at *
  obtain ⟨endBoot, endMil, endBoard, endMem⟩ := spurNext_spec ((!crc || !serial) && s.boot.calStaged.isNone) v
  have sameMil := endMil.trans (calMil ▸ mil)
  refine ⟨by rw [endBoot], ?_, ?_, ?_, fun unstaged => ?_, ?_, fun none => ?_, ?_, fun octal => ?_, ?_⟩
  · exact (Miller.field_of_besideEvents sameMil Miller.mstate fun _ => rfl).trans booted
  · exact (Miller.field_of_besideEvents sameMil Miller.lastOwner fun _ => rfl).trans owner
  · exact (Miller.field_of_besideEvents sameMil Miller.lastOperator fun _ => rfl).trans operator
  · rw [endBoot, unstaged]
    exact Bool.and_true _
  · rw [endBoot]
    exact calStaged
  · rw [endBoot]
    exact calDefects.trans (defects none)
  · rw [endBoard, calBoard, board]
  · rw [endBoard, calBoard, board]
    exact fastest_octal octal
  · rw [endMem, calMem, mem]

end

end Sys2Proof.Machine
end

section
/-! # The phases of bring-up after the Miller's boot (R464 to R477) -/

namespace Sys2Proof.Machine

open Sys2Proof

/-! ## The Spur's self-test (R464, R465, R469) -/

@[simp] theorem host_setHost (s : State) (p : Nat) (v : HostPort) (q : Nat) : (s.setHost p v).host q = if q = p then v else s.host q := by
  split
  · next h => rw [h, State.host_setHost_same]
  · next h => exact State.host_setHost_ne s p q v h

theorem disabled_enqueueSession (s : State) (p n cls : Nat) (f : Frame) (q : Nat) :
    ((enqueueSession s p n cls f).host q).disabled = (s.host q).disabled := by
  rw [enqueueSession, State.setSession, State.updHost, host_setHost]
  split
  · next h => rw [h]
  · rfl

theorem disabled_recordEvent (s : State) (code scope id : Nat) (detail : List Nat) (q : Nat) :
    ((recordEvent s code scope id detail).host q).disabled = (s.host q).disabled := by
  unfold recordEvent
  dsimp only
  split
  · exact foldl_keeps (fun s => (s.host q).disabled) (fun s (x : Nat × Nat) => disabled_enqueueSession s x.1 x.2 3 _ q) _ _
  · rfl

theorem disabled_logEvent (s : State) (code scope id : Nat) (detail : List Nat) (q : Nat) :
    ((logEvent s code scope id detail).host q).disabled = (s.host q).disabled := by
  unfold logEvent
  dsimp only
  split
  · rw [disabled_recordEvent, disabled_recordEvent]
  · exact disabled_recordEvent ..

theorem disabled_contradiction (kind loc : Nat) (s : State) (q : Nat) :
    ((contradiction kind loc s).host q).disabled = (s.host q).disabled := disabled_logEvent ..

theorem disabled_hideUnit (kind k q : Nat) (s : State) (h : kind = 0x0C → k ≠ 16 + q) (hk : kind = 0x09 ∨ kind = 0x0A ∨ kind = 0x0C) :
    ((hideUnit kind s k).host q).disabled = (s.host q).disabled := by
  obtain rfl | rfl | rfl := hk
  · rfl
  · rfl
  · change ((hidePort s k).host q).disabled = _
    unfold hidePort
    split
    · rw [State.updHost, host_setHost, if_neg (by have := h rfl; omega)]
    · rfl

/-- The marked units of a kind leave service, each against a test that found it good. -/
def hideMarked (kind : Nat) (s : State) : State :=
  (markedUnits s kind).foldl (fun s k => contradiction kind k (hideUnit kind s k)) s

theorem unionUnits_nil (kind : Nat) (s : State) : unionUnits kind [] s = hideMarked kind s := rfl

theorem disabled_hideMarked (kind q : Nat) (s : State) (h : kind = 0x0C → 16 + q ∉ markedUnits s kind)
    (hk : kind = 0x09 ∨ kind = 0x0A ∨ kind = 0x0C) : ((hideMarked kind s).host q).disabled = (s.host q).disabled := by
  refine List.foldlRecOn (motive := fun (t : State) => (t.host q).disabled = (s.host q).disabled) _ _ rfl fun t ht k hm => ?_
  rw [disabled_contradiction, disabled_hideUnit kind k q t (fun eq heq => h eq (heq ▸ hm)) hk, ht]

/-- The boot state without the count of contradictions. -/
def Boot.besideContra (b : Boot) : Boot := { b with fuseContra := 0 }

theorem Boot.field_of_besideContra {α : Type} {a b : Boot} (h : a.besideContra = b.besideContra) (g : Boot → α)
    (hg : ∀ b : Boot, g b.besideContra = g b) : g a = g b := by rw [← hg a, h, hg]

theorem besideContra_contradiction (kind loc : Nat) (s : State) : (contradiction kind loc s).boot.besideContra = s.boot.besideContra := by
  rw [contradiction, boot_logEvent]
  rfl

theorem besideContra_hideMarked (kind : Nat) (s : State) : (hideMarked kind s).boot.besideContra = s.boot.besideContra := by
  refine foldl_keeps (fun s => s.boot.besideContra) (fun s k => ?_) _ s
  have boot : (hideUnit kind s k).boot = s.boot :=
    same_of_outside (k := .boot) (outside_hideUnit (K := [.mm, .galley, .racePorts, .hosts]) rfl s kind k) (by decide)
  rw [besideContra_contradiction, boot]

theorem markedUnits_congr {s t : State} (h : t.boot.besideContra = s.boot.besideContra) (kind : Nat) : markedUnits t kind = markedUnits s kind := by
  rw [markedUnits, markedUnits, Boot.field_of_besideContra h Boot.fuses fun _ => rfl, Boot.field_of_besideContra h Boot.defects fun _ => rfl]

/-- The wait for the reference is over. -/
def clocked (s : State) : State := { s with boot := { s.boot with clockWait := false } }

/-- The Spur's units after a self-test that found none bad. -/
def spurTested (s : State) : State := hideMarked 0x0C (hideMarked 0x0A (hideMarked 0x09 (clocked s)))

theorem besideContra_spurTested (s : State) : (spurTested s).boot.besideContra = (clocked s).boot.besideContra := by
  rw [spurTested, besideContra_hideMarked, besideContra_hideMarked, besideContra_hideMarked]

theorem clockWait_spurTested (s : State) : (spurTested s).boot.clockWait = false :=
  Boot.field_of_besideContra (besideContra_spurTested s) Boot.clockWait fun _ => rfl

theorem mem_spurTested (s : State) : (spurTested s).mem = s.mem :=
  mem_of_outside (K := .mm :: .galley :: .racePorts :: .boot :: eventsSet) (by simp +decide [spurTested, hideMarked, clocked])

theorem imageRuns_spurTested (s : State) (kind : FwKind) : imageRuns (spurTested s) kind = imageRuns s kind := by
  rw [imageRuns, imageRuns, Boot.field_of_besideContra (besideContra_spurTested s) Boot.fw fun _ => rfl]
  rfl

/-- A host port that nothing marks stays in service. -/
theorem disabled_spurTested (s : State) (q : Nat) (h : 16 + q ∉ markedUnits s 0x0C) :
    ((spurTested s).host q).disabled = (s.host q).disabled := by
  have same : (hideMarked 0x0A (hideMarked 0x09 (clocked s))).boot.besideContra = (clocked s).boot.besideContra :=
    (besideContra_hideMarked ..).trans (besideContra_hideMarked ..)
  have unmarked : 16 + q ∉ markedUnits (hideMarked 0x0A (hideMarked 0x09 (clocked s))) 0x0C := by
    rw [markedUnits_congr same]
    exact h
  rw [spurTested, disabled_hideMarked _ _ _ (fun _ => unmarked) (by decide), disabled_hideMarked _ _ _ (fun h => absurd h (by decide)) (by decide),
    disabled_hideMarked _ _ _ (fun h => absurd h (by decide)) (by decide)]
  rfl

/-- The verdict on the Spur's self-test. -/
def spurEnd (fatal : Bool) (s : State) : Res :=
  if fatal ∨ !(imageRuns s .spur) ∨ !(imageRuns s .serdes) ∨ ((s.host 0).disabled ∧ (s.host 1).disabled) then .next (failBringUp 1 s)
  else .next { s.nextFree with cookieSecret := Config.secret s.freeCtr, boot := { s.boot with stage := 2 } }

/-- The Miller waits for the reference. -/
def clockAwaited (s : State) : State := { s with boot := { s.boot with clockWait := true, waited := true } }

/-- The Spur passes; its cookie secret is drawn. -/
def spurPassed (s : State) : State :=
  { s.nextFree with cookieSecret := Config.secret s.freeCtr, boot := { s.boot with stage := 2 } }

theorem spurPassed_spec (s : State) : (spurPassed s).boot.stage = 2 ∧ (spurPassed s).boot.clockWait = s.boot.clockWait
    ∧ (spurPassed s).mem = s.mem := ⟨rfl, rfl, rfl⟩

theorem exec_spurSelfTest_clocked (fatal : Bool) (ways : List (Nat × Nat)) (formes races hosts : List Nat) (s : State) :
    exec (.spurSelfTest true fatal ways formes races hosts) s =
      if s.boot.stage ≠ 1 then .next s
      else spurEnd fatal (unionUnits 0x0C (races.filter (· < 16) ++ (hosts.filter (· < 2)).map (16 + ·))
        (unionUnits 0x0A (formes.filter (· < 16)) (unionUnits 0x09 (ways.map (fun w => w.1 * 16 + w.2 % 16)) (clocked s)))) := rfl

section
variable {s : State} (stage : s.boot.stage = 1)
include stage

/-- Without the reference the Miller waits, and says so once. -/
theorem exec_spurSelfTest_waits (fatal : Bool) (ways : List (Nat × Nat)) (formes races hosts : List Nat) :
    ∃ t, exec (.spurSelfTest false fatal ways formes races hosts) s = .next t ∧ t.boot.stage = 1 ∧ t.boot.clockWait = true ∧ t.mem = s.mem := by
  have run : exec (.spurSelfTest false fatal ways formes races hosts) s =
      if s.boot.stage ≠ 1 then .next s
      else .next (if s.boot.clockWait then clockAwaited s else logEvent (clockAwaited s) evClockAbsent scPackage 0 []) := rfl
  rw [run, if_neg (not_not.2 stage)]
  refine ⟨_, rfl, ?_⟩
  split
  · exact ⟨stage, rfl, rfl⟩
  · rw [boot_logEvent, mem_logEvent]
    exact ⟨stage, rfl, rfl⟩

theorem exec_spurSelfTest (fatal : Bool) : exec (.spurSelfTest true fatal [] [] [] []) s = spurEnd fatal (spurTested s) := by
  rw [exec_spurSelfTest_clocked, if_neg (not_not.2 stage)]
  simp only [List.filter_nil, List.map_nil, List.append_nil, unionUnits_nil, spurTested]

theorem exec_spurSelfTest_fatal : exec (.spurSelfTest true true [] [] [] []) s = .next (failBringUp 1 (spurTested s)) := by
  rw [exec_spurSelfTest stage, spurEnd, if_pos (.inl rfl)]

theorem exec_spurSelfTest_passes (spur : imageRuns s .spur = true) (serdes : imageRuns s .serdes = true)
    (port : (s.host 0).disabled = false ∧ 16 ∉ markedUnits s 0x0C ∨ (s.host 1).disabled = false ∧ 17 ∉ markedUnits s 0x0C) :
    exec (.spurSelfTest true false [] [] [] []) s = .next (spurPassed (spurTested s)) := by
  have service : ¬ (((spurTested s).host 0).disabled = true ∧ ((spurTested s).host 1).disabled = true) := by
    obtain ⟨on, unmarked⟩ | ⟨on, unmarked⟩ := port
    · simp [disabled_spurTested s 0 unmarked, on]
    · simp [disabled_spurTested s 1 unmarked, on]
  rw [exec_spurSelfTest stage, spurEnd, if_neg (by simpa [imageRuns_spurTested, spur, serdes] using service)]
  rfl

end

theorem failBringUp_spec (k : Nat) (s : State) : (failBringUp k s).boot = { s.boot with stage := 15, failStage := k } ∧ (failBringUp k s).mem = s.mem :=
  ⟨boot_logEvent .., mem_logEvent ..⟩

/-! ## The Bins (R466, R479) -/

/-- A Bin whose test found nothing bad, with zero in its bytes. -/
def binTested (b : Fin 4) (s : State) : State :=
  { s with mem := Memory.clear s.mem (b.val * 2 ^ 37) (2 ^ 37)
           boot := { s.boot with binsTested := s.boot.binsTested ++ [b.val], binsEn := s.boot.binsEn ||| ((1 : BitVec 4) <<< b.val) } }

theorem getLsbD_setBit (v : BitVec 4) (k : Fin 4) : (v ||| ((1 : BitVec 4) <<< k.val)).getLsbD k = true := by
  revert v k
  decide

/-- The fourth Bin ends the phase. -/
def binsEnd (s : State) : Res :=
  if s.boot.binsTested.length < 4 then .next s
  else if s.boot.calInvalid then .next (failBringUp 2 s)
  else .next { s with boot := { s.boot with stage := 3 } }

theorem exec_binTest {s : State} {b : Fin 4} (stage : s.boot.stage = 2) (fresh : b.val ∉ s.boot.binsTested) (groups : groupsOffIn s (4 + b.val) < 8) :
    exec (.binTest b [] []) s = binsEnd (binTested b s) := by
  have bond : bondConsequence (.bin b) (binTested b s) = binTested b s := if_neg (Nat.not_le.2 groups)
  have run : exec (.binTest b [] []) s = if s.boot.stage ≠ 2 ∨ s.boot.binsTested.contains b.val then .next s
      else binsEnd (bondConsequence (.bin b) (binTested b s)) := rfl
  rw [run, if_neg (by simp [stage, fresh]), bond]

theorem binsEnd_spec (s : State) : ∃ t, binsEnd s = .next t ∧ t.boot.binsTested = s.boot.binsTested ∧ t.boot.binsEn = s.boot.binsEn ∧ t.mem = s.mem
    ∧ t.boot.stage = if s.boot.binsTested.length < 4 then s.boot.stage else if s.boot.calInvalid then 15 else 3 := by
  obtain ⟨boot, mem⟩ := failBringUp_spec 2 s
  unfold binsEnd
  split
  · exact ⟨s, rfl, rfl, rfl, rfl, rfl⟩
  · split
    · exact ⟨_, rfl, by rw [boot], by rw [boot], mem, by rw [boot]⟩
    · exact ⟨_, rfl, rfl, rfl, rfl, rfl⟩

theorem zero_binTested {s : State} (b : Fin 4) (wf : Memory.wf s.mem = true) {a : Nat} (lo : b.val * 2 ^ 37 ≤ a) (hi : a < (b.val + 1) * 2 ^ 37) :
    Memory.get (binTested b s).mem a = 0 := by
  rw [binTested, Memory.get_clear _ _ _ wf, if_pos ⟨lo, by omega⟩]

/-! ## The Stones (R467 to R469) -/

theorem getD_physOk_setPhys {n : Nat} (ok : List Bool) {s : State} (h : n < s.boot.physOk.length) : (setPhys n ok s).boot.physOk.getD n [] = ok := by
  simp [setPhys, h]

theorem unionQuern_passed {n i : Nat} {pass ok : List Bool} {s : State} (h : n < s.boot.physOk.length) (hp : pass.getD i false = true)
    (hm : markedQuern s (physNo n i) = false) : unionQuern n pass (setPhys n ok s) i = setPhys n (ok.set i true) s := by
  have unmarked : markedQuern (setPhys n ok s) (physNo n i) = false := hm
  simp only [unionQuern, unmarked, hp, getD_physOk_setPhys ok h, Bool.false_eq_true, if_false, if_true]
  simp [setPhys]

theorem unionQuerns_passed {n : Nat} {pass : List Bool} {s : State} (h : n < s.boot.physOk.length) (l : List Nat) (ok : List Bool)
    (hl : ∀ i ∈ l, pass.getD i false = true ∧ markedQuern s (physNo n i) = false) :
    l.foldl (unionQuern n pass) (setPhys n ok s) = setPhys n (l.foldl (fun ok i => ok.set i true) ok) s := by
  induction l generalizing ok with
  | nil => rfl
  | cons i l ih =>
    obtain ⟨passes, unmarked⟩ := hl i (List.mem_cons_self ..)
    rw [List.foldl_cons, List.foldl_cons, unionQuern_passed h passes unmarked]
    exact ih _ fun j hj => hl j (List.mem_cons_of_mem _ hj)

/-- All 34 physical Querns of a Stone are good. -/
def allGood (n : Nat) (s : State) : State := setPhys n (List.replicate 34 true) s

theorem okQuerns_allGood {n : Nat} {s : State} (h : n < s.boot.physOk.length) : okQuerns (allGood n s) n = List.range 34 := by
  rw [okQuerns, allGood, getD_physOk_setPhys _ h]
  decide

theorem find?_foldl_set (base : Nat) (g : Nat → Nat) (t : Tbl Nat) {m i : Nat} (h : i < m) :
    Tbl.find? ((List.range m).foldl (fun t i => t.set (base + i) (g i)) t) (base + i) = some (g i) := by
  induction m with
  | zero => exact absurd h (Nat.not_lt_zero i)
  | succ m ih =>
    rw [List.range_succ, List.foldl_append, List.foldl_cons, List.foldl_nil, Tbl.find?_set]
    split
    · next eq => rw [show i = m by omega]
    · exact ih (by omega)

theorem find?_mapQuerns_allGood {n : Nat} {s : State} (h : n < s.boot.physOk.length) {i : Nat} (hi : i < 32) :
    Tbl.find? (mapQuerns n (allGood n s)).boot.quernMap (n * 32 + i) = some (physNo n i) := by
  have good : (List.range 34).getD i 0 = i := by simp [List.getD_eq_getElem?_getD, show i < 34 by omega]
  unfold mapQuerns
  rw [okQuerns_allGood h]
  dsimp only
  rw [if_neg (by simp), find?_foldl_set (n * 32) (fun i => physNo n ((List.range 34).getD i 0)) _ hi, good]

theorem mapped_spec (n : Nat) (s : State) : (mapQuerns n (allGood n s)).boot.stonesEn = s.boot.stonesEn
    ∧ (mapQuerns n (allGood n s)).boot.stonesTested = s.boot.stonesTested ∧ (mapQuerns n (allGood n s)).boot.stage = s.boot.stage
    ∧ (mapQuerns n (allGood n s)).mem = s.mem := ⟨rfl, rfl, rfl, rfl⟩

/-- The state in which a Stone's tests run: its rail is up. -/
def stoneUp (n : Fin 4) (s : State) : State :=
  raiseStone n { s with boot := { s.boot with
    stonesTested := s.boot.stonesTested ++ [n.val], stonesEn := s.boot.stonesEn ||| ((1 : BitVec 4) <<< n.val) } }

theorem boot_stoneUp (n : Fin 4) (s : State) : (stoneUp n s).boot = { s.boot with
    stonesTested := s.boot.stonesTested ++ [n.val], stonesEn := s.boot.stonesEn ||| ((1 : BitVec 4) <<< n.val) } :=
  same_of_outside (k := .boot) (outside_raiseStone (K := [.pwr, .board, .out]) rfl _ n) (by decide)

theorem mem_stoneUp (n : Fin 4) (s : State) : (stoneUp n s).mem = s.mem :=
  (mem_of_outside (outside_raiseStone (K := [.pwr, .board, .out]) rfl _ n)).trans rfl

/-- A Stone whose Querns all pass, with its logical numbers mapped. -/
def stonePassed (n : Fin 4) (s : State) : State := mapQuerns n (allGood n (stoneUp n s))

theorem stonePassed_spec (n : Fin 4) (s : State) (h : s.boot.physOk.length = 4) :
    (stonePassed n s).boot.stonesEn.getLsbD n = true ∧ (stonePassed n s).boot.stonesTested = s.boot.stonesTested ++ [n.val]
    ∧ (stonePassed n s).mem = s.mem ∧ (∀ i < 32, Tbl.find? (stonePassed n s).boot.quernMap (n.val * 32 + i) = some (physNo n i))
    ∧ (stonePassed n s).boot.stage = s.boot.stage := by
  have boot := boot_stoneUp n s
  obtain ⟨en, tested, stage, mem⟩ := mapped_spec n (stoneUp n s)
  unfold stonePassed
  refine ⟨?_, ?_, mem.trans (mem_stoneUp n s), fun i hi => find?_mapQuerns_allGood ?_ hi, ?_⟩
  · rw [en, boot]
    exact getLsbD_setBit _ n
  · rw [tested, boot]
  · rw [boot]
    exact lt_of_lt_of_eq n.isLt h.symm
  · rw [stage, boot]

/-- A Stone after the test of its bond groups and Querns. -/
def stoneTested (n : Fin 4) (x : StoneTest) (s : State) : State :=
  let u := (x.badGroups.filter (· < 256)).foldl (fun s g => disableGroup (.stone n) g 1 s) (stoneUp n s)
  if x.railUp then (List.range 34).foldl (unionQuern n x.pass) (setPhys n (List.replicate 34 false) u) else u

/-- The verdict on a Stone. -/
def stoneVerdict (n : Fin 4) (listed railUp : Bool) (u : State) : State :=
  let bad := !railUp || decide ((okQuerns u n).length < 32) || decide (32 ≤ groupsOffIn u n)
  if listed then
    let s4 := { u with boot := { u.boot with stonesEn := u.boot.stonesEn &&& ~~~((1 : BitVec 4) <<< n.val), degraded := true } }
    if bad then s4 else contradiction 2 n s4
  else if bad then degradeStone n 1 u
  else mapQuerns n u

/-- The fourth Stone ends the phase. -/
def stonesEnd (s : State) : State := if s.boot.stonesTested.length < 4 then s else { s with boot := { s.boot with stage := 4 } }

theorem exec_stoneStartTest (s : State) (n : Fin 4) (x : StoneTest) : exec (.stoneStartTest n x) s =
    if s.boot.stage ≠ 3 ∨ s.boot.stonesTested.contains n.val then .next s
    else .next (stonesEnd (stoneVerdict n ((markedUnits s 2).contains n.val) x.railUp (stoneTested n x s))) := rfl

theorem groupsOffIn_allGood (n : Fin 4) (s : State) : groupsOffIn (allGood n (stoneUp n s)) n = groupsOffIn s n := by
  have off : (allGood n (stoneUp n s)).boot.groupsOff = (stoneUp n s).boot.groupsOff := rfl
  rw [groupsOffIn, groupsOffIn, off, boot_stoneUp]

theorem exec_stoneStartTest_passes {s : State} {n : Fin 4} {x : StoneTest} (stage : s.boot.stage = 3) (fresh : n.val ∉ s.boot.stonesTested)
    (phys : s.boot.physOk.length = 4) (groups : groupsOffIn s n < 32) (unlisted : n.val ∉ markedUnits s 2) (rail : x.railUp = true)
    (bonds : x.badGroups = []) (good : ∀ i < 34, x.pass.getD i false = true ∧ markedQuern s (physNo n i) = false) :
    exec (.stoneStartTest n x) s = .next (stonesEnd (stonePassed n s)) := by
  have boot := boot_stoneUp n s
  have len : n.val < (stoneUp n s).boot.physOk.length := by
    rw [boot]
    exact lt_of_lt_of_eq n.isLt phys.symm
  have tested : stoneTested n x s = allGood n (stoneUp n s) := by
    rw [stoneTested, bonds, rail]
    refine unionQuerns_passed len _ _ fun i hi => ⟨(good i (List.mem_range.1 hi)).1, ?_⟩
    rw [markedQuern, markedUnits, boot]
    exact (good i (List.mem_range.1 hi)).2
  rw [exec_stoneStartTest, if_neg (by simp [stage, fresh]), tested, rail, stoneVerdict, okQuerns_allGood len, groupsOffIn_allGood]
  simp [unlisted, Nat.not_le.2 groups, stonePassed]

/-! ## Broadcast, link stage and ready (R473 to R477) -/

theorem exec_firmwareBroadcast {s : State} (stage : s.boot.stage = 4) (first : s.boot.broadcast = false) (runs : imageRuns s .quern = true) :
    exec .firmwareBroadcast s = .next { s with boot := { s.boot with broadcast := true } } := by
  change execFirmwareBroadcast s = _
  rw [execFirmwareBroadcast, if_neg (by simp [stage, first]), if_neg (by simp [runs])]

theorem loadAll_spec (s : State) : (loadAll s).boot = s.boot ∧ (loadAll s).sec = s.sec
    ∧ ∀ m ∈ s.boot.quernMap, (loadAll s).quern m.1 = { loaded := true } :=
  ⟨same_of_outside (k := .boot) (outside_loadAll (K := [.mem, .querns]) rfl s) (by decide), sec_of_outside (outside_loadAll (K := [.mem, .querns]) rfl s),
    fun _ hm => (foldl_loadQuern (s.boot.quernMap.map Prod.fst) s).2.2 _ (List.mem_map_of_mem hm)⟩

theorem exec_broadcastRepair {s : State} (stage : s.boot.stage = 4) (sent : s.boot.broadcast = true) :
    exec (.broadcastRepair []) s = .next { loadAll s with boot := { s.boot with stage := if s.sec.scrubPending then 5 else 6 } } := by
  obtain ⟨boot, sec, -⟩ := loadAll_spec s
  change execBroadcastRepair [] s = _
  rw [execBroadcastRepair, if_neg (by simp [stage, sent])]
  dsimp only [List.foldl_nil]
  rw [boot, sec]

theorem exec_linkQualification {s : State} (stage : s.boot.stage = 6) (first : s.boot.linkDone = false) :
    exec (.linkQualification []) s = .next { s with boot := { s.boot with linkDone := true } } := by
  change execLinkQualification [] s = _
  rw [execLinkQualification, if_neg (by simp [stage, first])]
  rfl

section
variable {s : State} {ms : BitVec 12} (stage : s.boot.stage = 6) (linked : s.boot.linkDone = true)
include stage linked

/-- The package is ready, or degraded, at a time. -/
def readyAt (ms : BitVec 12) (s : State) : State :=
  { s with
    timeNs := max s.timeNs (ms.toNat * 1000000)
    boot := { s.boot with stage := if s.boot.degraded || s.boot.listFull then 8 else 7, degraded := s.boot.degraded || s.boot.listFull, readyMs := ms } }

theorem exec_ready (intime : ms.toNat ≤ 3000) : exec (.ready ms) s = .next (logEvent (issueColophon (readyAt ms s)) evReady scPackage 0 [ms.toNat]) := by
  change execReady ms s = _
  rw [execReady, if_neg (by simp [stage, linked]), if_neg (by omega)]
  rfl

theorem exec_ready_late (late : 3000 < ms.toNat) (waited : s.boot.waited = false) : exec (.ready ms) s = .next (failBringUp 6 s) := by
  change execReady ms s = _
  rw [execReady, if_neg (by simp [stage, linked]), if_pos ⟨late, by simp [waited]⟩]

end

/-! ## Bring-up as a whole -/

/-- Settles O49: each phase by the equation of its command in the case that the statement names. -/
theorem bringUpRuns : Obligations.BringUpRuns := by
  intro s
  refine ⟨fun valid crc serial modes recs good stage mstate scan fw => ⟨fun passes => ?_, fun fails => ?_⟩,
    fun stage => ⟨exec_spurSelfTest_waits stage, fun spur serdes port => ?_, ?_⟩,
    fun b stage fresh groups => ?_, fun n x stage fresh phys groups unlisted rail bonds good => ?_,
    fun stage => ⟨exec_firmwareBroadcast stage, fun sent => ?_⟩, exec_linkQualification,
    fun ms stage linked => ⟨fun intime => ?_, exec_ready_late stage linked⟩⟩
  · exact millerBoot_passes good stage mstate scan fw passes
  · exact millerBoot_recovers good stage mstate scan fw fails
  · obtain ⟨two, clock, mem⟩ := spurPassed_spec (spurTested s)
    exact ⟨_, exec_spurSelfTest_passes stage spur serdes port, two, clock.trans (clockWait_spurTested s), mem.trans (mem_spurTested s)⟩
  · obtain ⟨boot, mem⟩ := failBringUp_spec 1 (spurTested s)
    exact ⟨_, exec_spurSelfTest_fatal stage, by rw [boot], by rw [boot], mem.trans (mem_spurTested s)⟩
  · obtain ⟨t, run, tested, en, mem, ended⟩ := binsEnd_spec (binTested b s)
    have count : (binTested b s).boot.binsTested.length = s.boot.binsTested.length + 1 := List.length_append
    refine ⟨t, (exec_binTest stage fresh groups).trans run, tested, en ▸ getLsbD_setBit _ b, fun wf a lo hi => ?_, fun more => ?_, fun last => ?_⟩
    · rw [mem]
      exact zero_binTested b wf lo hi
    · rw [ended, count, if_pos (by omega)]
      exact stage
    · rw [ended, count, if_neg (by omega)]
      rfl
  · obtain ⟨en, tested, mem, map, kept⟩ := stonePassed_spec n s phys
    refine ⟨_, exec_stoneStartTest_passes stage fresh phys groups unlisted rail bonds good, ?_⟩
    rw [stonesEnd, tested, List.length_append, List.length_singleton]
    by_cases more : s.boot.stonesTested.length < 3
    · rw [if_pos (by omega), if_pos more]
      exact ⟨en, tested, mem, map, kept.trans stage⟩
    · rw [if_neg (by omega), if_neg more]
      exact ⟨en, tested, mem, map, rfl⟩
  · exact ⟨_, exec_broadcastRepair stage sent, rfl, (loadAll_spec s).2.2⟩
  · refine ⟨_, exec_ready stage linked intime, ?_⟩
    rw [boot_logEvent, mem_logEvent]
    refine ⟨rfl, rfl, ?_⟩
    simp [issueColophon, readyAt]

end Sys2Proof.Machine
end
